-- ==== Sys2Proof/Word.lean ====
section
/-! DEFINITION. The word types of the Iasofort (spec/00_scope.md R4): a byte, the 32-bit word of packets and registers,
and the 64-bit double word of core and sequencer registers. -/
namespace Sys2Proof

/-- One byte. -/
abbrev Byte := BitVec 8

/-- One 32-bit word of a packet, a record or a register. -/
abbrev W32 := BitVec 32

/-- One 64-bit value: a core X register, a sequencer S register, an event. -/
abbrev W64 := BitVec 64

end Sys2Proof
end

