-- ==== Sys2Proof/Syntax.lean ====
section
/-! DEFINITION. The commands of the block: one constructor of `Instr` for each row of spec/opcode_table.json, and the
plain data their operands are made of (notes/assumptions/1.md says what the operands stand for). -/
namespace Sys2Proof

/-- The path a command packet came by (spec/06 R159). -/
inductive Src where
  | haldip (port : Nat)
  | side
  | fabric (src pid pgen : Nat)
  | dev (qpn : Nat)
deriving DecidableEq, Repr

/-- A command packet as received (spec/06 R156-R158): header fields, four operand words, the payload bytes received and
whether at least 36 bytes came with a good trailer and, on the sideband, a good PEC. `plen` is the declared PAYLOAD_LEN. -/
structure Pkt where
  src : Src := .haldip 0
  rxOk : Bool := true
  adapter : W32 := 0
  opcode : Nat := 0
  quiet : Bool := false
  fence : Bool := false
  plen : Nat := 0
  qpn : Nat := 0
  ctx : Nat := 0
  gen : BitVec 8 := 0
  seq : W32 := 0
  status : Nat := 0
  cls : Nat := 0
  w4 : W32 := 0
  w5 : W32 := 0
  w6 : W32 := 0
  w7 : W32 := 0
  payload : List Byte := []
deriving DecidableEq, Repr

/-- The pair that names a tenancy (spec/04 R103). -/
structure TenRef where
  lcid : Nat
  ctx : Nat
deriving DecidableEq, Repr

/-- A unit by its UNIT_KIND and index (spec/11 R309): 0 core, 1 sheaf, 2 channel, 4 fabric port, 6 Haldip port,
7 sequencer core, 8 management complex, 12 half. -/
structure UnitRef where
  kind : Nat
  idx : Nat
deriving DecidableEq, Repr

/-- What a Haldip link acknowledgement frees (spec/06 R161, R162, R167, spec/11 R308). -/
inductive AckSrc where
  | ring (qpn : Nat)
  | store
  | refusal
  | report
deriving DecidableEq, Repr

/-- How the copy of a migrating channel ended (spec/02 R56). -/
inductive MigrateEnd where
  | done
  | destFault
  | sourceFault
deriving DecidableEq, Repr

/-- A faulter of the fault queue (spec/08 R235): a transfer slot, a command, a run. -/
inductive Faulter where
  | xfer (t : TenRef) (descOff : Nat)
  | cmd (id : Nat)
  | run (r : Nat)
deriving DecidableEq, Repr

/-- What has changed in one stored codeword (spec/08 R214): exclusive-or patterns of data and check bits. -/
structure Upset where
  data : BitVec 128 := 0
  check : BitVec 16 := 0
deriving DecidableEq, Repr

/-- The kinds of a memory request (spec/08 R219). -/
inductive ReqKind where
  | read | write | atomic | reduce | internal
deriving DecidableEq, Repr

/-- A request at a channel controller or sheaf store (spec/08 R219); `upset` is what has changed in the first codeword it
meets since that word was written, `cls` its class label, and `now` whether the channel's controller serves a request within this command
(spec/08 R242). -/
structure MemReq where
  addr : Nat
  len : Nat
  kind : ReqKind
  ctx : Nat
  pid : Nat
  edom : Nat
  cls : Nat
  data : List Byte
  upset : Upset
  now : Bool
deriving DecidableEq, Repr

/-- A near-memory request (spec/08 R238). -/
structure NearReq where
  fpa : Nat
  op : Nat
  width : Nat
  ret : Bool
  cls : Nat
  ctx : Nat
  edom : Nat
  pid : Nat
  operand : W64
  compare : W64
  lanes : List Byte
deriving DecidableEq, Repr

/-- What the error code of an array finds in the words that a step reads (spec/11 R307). -/
inductive EccSeen where
  | clean | corrected | uncorrectable
deriving DecidableEq, Repr

/-- A frame as received on a port (spec/09 R250): its 1,285 bytes, the symbols that its decoding corrected, and the codewords of
it that were uncorrectable. -/
structure Frame where
  bytes : List Byte
  corrected : Nat
  uncorrectable : Nat
deriving DecidableEq, Repr

/-- What training found (spec/09 R247): working lanes, the peer's identity, the flight time in units of 2 ns, and
whether it ended within 50 ms. -/
structure TrainResult where
  lanes : List Bool
  peerModule : Nat
  peerPort : Nat
  flight : Nat
  inTime : Bool
deriving DecidableEq, Repr

/-- A flow (spec/09 R257). -/
structure FlowKey where
  src : Nat
  dst : Nat
  vc : Nat
  lane : Nat
deriving DecidableEq, Repr

/-- A fabric packet (spec/09 R255-R256): header, access descriptor, data, the command or near-memory request it carries,
and, for CONF = 1, the counter and the bytes as sent. -/
structure FabPkt where
  dst : Nat := 0
  vc : Nat := 0
  kind : Nat := 0
  conf : Bool := false
  nonmin : Bool := false
  inter : Nat := 0
  src : Nat := 0
  lane : Nat := 0
  phase : Nat := 0
  keyix : Nat := 0
  flowSeq : W32 := 0
  pid : Nat := 0
  pgen : W32 := 0
  gwPos : Nat := 0
  gwPort : Nat := 0
  tag : W64 := 0
  target : W64 := 0
  tkind : Nat := 0
  ctx : Nat := 0
  cls : Nat := 0
  edom : Nat := 0
  status : Nat := 0
  len : Nat := 0
  data : List Byte := []
  cmd : Option Pkt := none
  near : Option NearReq := none
  counter : Nat := 0
  sealed : List Byte := []
deriving DecidableEq, Repr

/-- What the third execution of a winnow sample matched (spec/11 R317). Where it matches the replica over the same
addresses, `writes` are its writes outside the window and `image` its final tenancy image. -/
inductive ThirdVerdict where
  | replica (writes : List (Nat × List Byte)) (image : List Byte)
  | replicaOther
  | primary
  | neither
  | noSpare
deriving DecidableEq, Repr

/-- The collective that TAG of a COLL packet names (spec/09 R256): group and SEQ. -/
structure CollTag where
  gid : Nat
  seq : Nat
deriving DecidableEq, Repr

/-- Where a segment belongs: its collective, and its place in the value. -/
structure CollSeg where
  tag : CollTag
  off : Nat
deriving DecidableEq, Repr

/-- An abort: the collective that ends, and its status. -/
structure CollEnd where
  tag : CollTag
  status : Nat
deriving DecidableEq, Repr

/-- What a status read of a rail shows: whether it has reached its target (spec/12 R339), and whether its regulator has shed a phase
(spec/11 R306). -/
structure RailStatus where
  reached : Bool
  shed : Bool
deriving DecidableEq, Repr

/-- The estimator energies of one feed frame in µJ (spec/14 R374): the module's own, and per slot by class 0 to 7. -/
structure FeedEnergies where
  aMod : Nat
  slots : List (Nat × List Nat)
deriving DecidableEq, Repr

/-- What the weighbridge's converters measured in one second (spec/14 R372, R378). -/
structure Measure where
  energy : Nat
  vMin : Nat
  vMax : Nat
  pPeak : Nat
deriving DecidableEq, Repr

/-- What a boot meets (spec/16 R411-R412): whether power was lost before it, the straps, the TRNG's health tests, whether the
secure store takes writes (spec/13 R362), the contents of the two image slots of the flash (R410), the vendor key hashes of the
boot ROM, the units that fail BIST, and the adapters learned per trained Haldip port. -/
structure BootCfg where
  powerUp : Bool := true
  strap : BitVec 3 := 0
  trngOk : Bool := true
  storeOk : Bool := true
  slotA : List Byte := []
  slotB : List Byte := []
  vendorHashes : List (List Byte) := []
  failed : List UnitRef := []
  adapter0 : Option Nat := none
  adapter1 : Option Nat := none
deriving DecidableEq, Repr

/-- The commands, in the order of spec/opcode_table.json. -/
inductive Instr where
  /-- NOP, R159. -/
  | nop (p : Pkt)
  /-- QP_CONFIG, R165. -/
  | qpConfig (p : Pkt)
  /-- QP_QUERY, R168. -/
  | qpQuery (p : Pkt)
  /-- QP_RESUME, R168. -/
  | qpResume (p : Pkt)
  /-- DEVICE_SQ_FETCH, R166. -/
  | deviceSqFetch (qpn : Nat)
  /-- FRONT_END_START_ITEM, R169. -/
  | frontEndStartItem (half : Nat)
  /-- WRITE_DATA, R175. -/
  | writeData (p : Pkt)
  /-- READ_DATA, R176. -/
  | readData (p : Pkt)
  /-- READ_REPLY, R176. -/
  | readReply (id : Nat)
  /-- COPY, R177. -/
  | copy (p : Pkt)
  /-- EVENT_RECORD, R186. -/
  | eventRecord (p : Pkt)
  /-- EVENT_WAIT, R187. -/
  | eventWait (p : Pkt)
  /-- EVENT_WAIT_TIMEOUT, R187. -/
  | eventWaitTimeout (id : Nat)
  /-- WAIT_REGISTER_RETRY, R188. -/
  | waitRegisterRetry (half : Nat)
  /-- EVENT_SIGNAL_REMOTE, R188. -/
  | eventSignalRemote (p : Pkt)
  /-- REMOTE_WAIT, R269. -/
  | remoteWait (p : Pkt)
  /-- EVENT_ALLOC, R185. -/
  | eventAlloc (p : Pkt)
  /-- EVENT_FREE, R185. -/
  | eventFree (p : Pkt)
  /-- EVENT_QUERY, R184. -/
  | eventQuery (p : Pkt)
  /-- DEADLOCK_SCAN, R189. -/
  | deadlockScan
  /-- REG_READ, R180. -/
  | regRead (p : Pkt)
  /-- REG_WRITE, R398. -/
  | regWrite (p : Pkt)
  /-- COMPLETION, R181. -/
  | completion (p : Pkt)
  /-- ERROR_REPORT, R322. -/
  | errorReport (p : Pkt)
  /-- HALDIP_REPLY_ACK, R167. -/
  | haldipReplyAck (port : Nat) (src : AckSrc)
  /-- SMB_BLOCK_READ, R399. -/
  | smbBlockRead
  /-- SMB_READ_BYTE, R399. -/
  | smbReadByte
  /-- SMB_BUS_TIMEOUT, R399. -/
  | smbBusTimeout
  /-- PART_CREATE, R40. -/
  | partCreate (p : Pkt)
  /-- PART_BIND, R39. -/
  | partBind (p : Pkt)
  /-- GROW_CORES, R52. -/
  | growCores (p : Pkt)
  /-- SHRINK_CORES, R52. -/
  | shrinkCores (p : Pkt)
  /-- GROW_CHANNELS, R52. -/
  | growChannels (p : Pkt)
  /-- SHRINK_CHANNELS, R52. -/
  | shrinkChannels (p : Pkt)
  /-- PORT_SHARE, R52. -/
  | portShare (p : Pkt)
  /-- PORT_SHARE_APPLY, R271. -/
  | portShareApply (port : Nat)
  /-- MOVE, R53. -/
  | moveLc (p : Pkt)
  /-- MOVE_DRAIN_RETURN, R53. -/
  | moveDrainReturn (slot : Nat) (lcid : Nat)
  /-- CHANNEL_MIGRATE, R55. -/
  | channelMigrate (p : Pkt)
  /-- MIGRATE_COPY_DONE, R55. -/
  | migrateCopyDone (chan : Nat) (outcome : MigrateEnd)
  /-- MIGRATE_DRAIN_DONE, R55. -/
  | migrateDrainDone (chan : Nat)
  /-- RESET, R52. -/
  | reset (p : Pkt)
  /-- SET_LEAD, R52. -/
  | setLead (p : Pkt)
  /-- PART_DESTROY, R40. -/
  | partDestroy (p : Pkt)
  /-- PART_QUERY, R41. -/
  | partQuery (p : Pkt)
  /-- CTX_CREATE, R42. -/
  | ctxCreate (p : Pkt)
  /-- CTX_DESTROY, R44. -/
  | ctxDestroy (p : Pkt)
  /-- QP_BIND, R49. -/
  | qpBind (p : Pkt)
  /-- QP_UNBIND, R51. -/
  | qpUnbind (p : Pkt)
  /-- MOVE_BEGIN, R58. -/
  | moveBegin (p : Pkt)
  /-- MOVE_OFFER, R58. -/
  | moveOffer (p : Pkt)
  /-- MOVE_ACCEPT, R58. -/
  | moveAccept (p : Pkt)
  /-- MOVE_COMMIT, R59. -/
  | moveCommit (p : Pkt)
  /-- MOVE_ABORT, R58. -/
  | moveAbort (p : Pkt)
  /-- OWNER_QUERY, R58. -/
  | ownerQuery (p : Pkt)
  /-- HANDOFF_RETRY, R60. -/
  | handoffRetry (slot : Nat) (lcid : Nat)
  /-- EPOCH_OPEN_TIMEOUT, R60. -/
  | epochOpenTimeout (slot : Nat) (lcid : Nat)
  /-- HANDOFF_LEAD_TIMEOUT, R60. -/
  | handoffLeadTimeout (slot : Nat) (lcid : Nat)
  /-- RUN_TABLE_UPDATE, R62. -/
  | runTableUpdate (slot : Nat) (first : Nat) (mid : Nat)
  /-- FLUSH, R62. -/
  | flush (slot : Nat) (lcid : Nat)
  /-- GRANARY_LOAD, R66. -/
  | granaryLoad (p : Pkt)
  /-- GRANARY_SEAL, R69. -/
  | granarySeal (p : Pkt)
  /-- GRANARY_PIN, R67. -/
  | granaryPin (p : Pkt)
  /-- GRANARY_EVICT, R68. -/
  | granaryEvict (p : Pkt)
  /-- GRANARY_PEER_PULL_END, R69. -/
  | granaryPeerPullEnd (slot : Nat) (model : Nat) (data : List Byte)
  /-- GRANARY_PEER_TIMEOUT, R69. -/
  | granaryPeerTimeout (slot : Nat) (model : Nat)
  /-- UNIT_FENCE_DONE, R63. -/
  | unitFenceDone (u : UnitRef)
  /-- UNIT_SCRUB_DONE, R63. -/
  | unitScrubDone (u : UnitRef)
  /-- UNIT_BIST_DONE, R63. -/
  | unitBistDone (u : UnitRef) (pass : Bool)
  /-- CORE_NOP, R126. -/
  | coreNop (t : TenRef) (w : W64)
  /-- ADD, R126. -/
  | add (t : TenRef) (w : BitVec 56)
  /-- SUB, R126. -/
  | sub (t : TenRef) (w : BitVec 56)
  /-- AND, R126. -/
  | andX (t : TenRef) (w : BitVec 56)
  /-- OR, R126. -/
  | orX (t : TenRef) (w : BitVec 56)
  /-- XOR, R126. -/
  | xorX (t : TenRef) (w : BitVec 56)
  /-- SHL, R126. -/
  | shl (t : TenRef) (w : BitVec 56)
  /-- SHR, R126. -/
  | shr (t : TenRef) (w : BitVec 56)
  /-- SRA, R126. -/
  | sra (t : TenRef) (w : BitVec 56)
  /-- MUL, R126. -/
  | mul (t : TenRef) (w : BitVec 56)
  /-- MULHU, R126. -/
  | mulhu (t : TenRef) (w : BitVec 56)
  /-- MULHS, R126. -/
  | mulhs (t : TenRef) (w : BitVec 56)
  /-- DIVU, R127. -/
  | divu (t : TenRef) (w : BitVec 56)
  /-- DIVS, R127. -/
  | divs (t : TenRef) (w : BitVec 56)
  /-- REMU, R127. -/
  | remu (t : TenRef) (w : BitVec 56)
  /-- REMS, R127. -/
  | rems (t : TenRef) (w : BitVec 56)
  /-- SLT, R126. -/
  | slt (t : TenRef) (w : BitVec 56)
  /-- SLTU, R126. -/
  | sltu (t : TenRef) (w : BitVec 56)
  /-- SEQ, R126. -/
  | seqEq (t : TenRef) (w : BitVec 56)
  /-- MINS, R126. -/
  | mins (t : TenRef) (w : BitVec 56)
  /-- MAXS, R126. -/
  | maxs (t : TenRef) (w : BitVec 56)
  /-- MINU, R126. -/
  | minu (t : TenRef) (w : BitVec 56)
  /-- MAXU, R126. -/
  | maxu (t : TenRef) (w : BitVec 56)
  /-- SEL, R126. -/
  | sel (t : TenRef) (w : BitVec 56)
  /-- MOVI, R126. -/
  | movi (t : TenRef) (w : BitVec 56)
  /-- SETHI, R126. -/
  | sethi (t : TenRef) (w : BitVec 56)
  /-- LD, R128; `e` is what the window's code finds in the words read (spec/11 R307). -/
  | ld (t : TenRef) (w : BitVec 56) (e : EccSeen)
  /-- ST, R128. -/
  | st (t : TenRef) (w : BitVec 56)
  /-- BR, R129. -/
  | br (t : TenRef) (w : BitVec 56)
  /-- JAL, R129. -/
  | jal (t : TenRef) (w : BitVec 56)
  /-- JALR, R129. -/
  | jalr (t : TenRef) (w : BitVec 56)
  /-- END, R130. -/
  | endK (t : TenRef) (w : BitVec 56)
  /-- SPR, R131. -/
  | spr (t : TenRef) (w : BitVec 56)
  /-- FLAGCLR, R129. -/
  | flagclr (t : TenRef) (w : BitVec 56)
  /-- TRAP, R129. -/
  | trap (t : TenRef) (w : BitVec 56)
  /-- VADD, R132. -/
  | vadd (t : TenRef) (w : BitVec 56)
  /-- VSUB, R132. -/
  | vsub (t : TenRef) (w : BitVec 56)
  /-- VMUL, R132. -/
  | vmul (t : TenRef) (w : BitVec 56)
  /-- VFMA, R132. -/
  | vfma (t : TenRef) (w : BitVec 56)
  /-- VDIV, R132. -/
  | vdiv (t : TenRef) (w : BitVec 56)
  /-- VMIN, R132. -/
  | vmin (t : TenRef) (w : BitVec 56)
  /-- VMAX, R132. -/
  | vmax (t : TenRef) (w : BitVec 56)
  /-- VAND, R132. -/
  | vand (t : TenRef) (w : BitVec 56)
  /-- VOR, R132. -/
  | vor (t : TenRef) (w : BitVec 56)
  /-- VXOR, R132. -/
  | vxor (t : TenRef) (w : BitVec 56)
  /-- VSHL, R132. -/
  | vshl (t : TenRef) (w : BitVec 56)
  /-- VSHR, R132. -/
  | vshr (t : TenRef) (w : BitVec 56)
  /-- VSRA, R132. -/
  | vsra (t : TenRef) (w : BitVec 56)
  /-- VSGN, R132. -/
  | vsgn (t : TenRef) (w : BitVec 56)
  /-- VFUNC, R88. -/
  | vfunc (t : TenRef) (w : BitVec 56)
  /-- VCMP, R132. -/
  | vcmp (t : TenRef) (w : BitVec 56)
  /-- VCVT, R133. -/
  | vcvt (t : TenRef) (w : BitVec 56)
  /-- VRED, R134. -/
  | vred (t : TenRef) (w : BitVec 56)
  /-- VBCAST, R132. -/
  | vbcast (t : TenRef) (w : BitVec 56)
  /-- VEXT, R132. -/
  | vext (t : TenRef) (w : BitVec 56)
  /-- VINS, R132. -/
  | vins (t : TenRef) (w : BitVec 56)
  /-- VPERM, R132. -/
  | vperm (t : TenRef) (w : BitVec 56)
  /-- VIOTA, R132. -/
  | viota (t : TenRef) (w : BitVec 56)
  /-- VLD, R135; `e` is what the window's code finds (spec/11 R307). -/
  | vld (t : TenRef) (w : BitVec 56) (e : EccSeen)
  /-- VST, R135. -/
  | vst (t : TenRef) (w : BitVec 56)
  /-- VLDC, R136. -/
  | vldc (t : TenRef) (w : BitVec 56)
  /-- VSTC, R136. -/
  | vstc (t : TenRef) (w : BitVec 56)
  /-- PLOG, R137. -/
  | plog (t : TenRef) (w : BitVec 56)
  /-- TMMA, R139; `e` is what the codes of the window and the bank find (spec/11 R307). -/
  | tmma (t : TenRef) (w : BitVec 56) (e : EccSeen)
  /-- ACLR, R140. -/
  | aclr (t : TenRef) (w : BitVec 56)
  /-- ADRAIN, R141. -/
  | adrain (t : TenRef) (w : BitVec 56)
  /-- ALD, R140. -/
  | ald (t : TenRef) (w : BitVec 56)
  /-- XFER, R142. -/
  | xfer (t : TenRef) (w : BitVec 56)
  /-- TRANSFER_FAULT, R119. -/
  | transferFault (t : TenRef) (descOff : Nat)
  /-- FAULT_QUEUE_STALL_TIMEOUT, R235. -/
  | faultQueueStallTimeout (f : Faulter)
  /-- TRANSFER_DONE, R117. -/
  | transferDone (t : TenRef) (descOff : Nat)
  /-- XWAIT, R146. -/
  | xwait (t : TenRef) (w : BitVec 56)
  /-- XPROG, R147. -/
  | xprog (t : TenRef) (w : BitVec 56) (moved : Nat)
  /-- RST, R148. -/
  | rst (t : TenRef) (w : BitVec 56)
  /-- RLD, R148. -/
  | rld (t : TenRef) (w : BitVec 56)
  /-- REMOTE_ACCESS_SERVE, R115. -/
  | remoteAccessServe (lcid : Nat) (ctx : Nat)
  /-- ATOM, R149. -/
  | atom (t : TenRef) (w : BitVec 56)
  /-- RED, R150. -/
  | red (t : TenRef) (w : BitVec 56)
  /-- VREDW, R150. -/
  | vredw (t : TenRef) (w : BitVec 56)
  /-- EREC, R152. -/
  | erec (t : TenRef) (w : BitVec 56)
  /-- EWAIT, R152. -/
  | ewait (t : TenRef) (w : BitVec 56)
  /-- BAR, R153. -/
  | bar (t : TenRef) (w : BitVec 56)
  /-- BARRIER_ARRIVE, R153. -/
  | barrierArrive (ctx : Nat) (bid : Nat) (lcid : Nat) (group : W64)
  /-- BARRIER_RELEASE, R153. -/
  | barrierRelease (t : TenRef) (bid : Nat) (ph : W64)
  /-- FENCE, R155. -/
  | fence (t : TenRef) (w : BitVec 56)
  /-- DISPATCH_ENTRY_START, R108. -/
  | dispatchEntryStart (core : Nat) (sample : Bool)
  /-- TENANCY_EXHAUSTED, R106. -/
  | tenancyExhausted (core : Nat)
  /-- SLICE_EXPIRY, R109. -/
  | sliceExpiry (t : TenRef)
  /-- CLASS7_PREEMPT, R110. -/
  | class7Preempt (core : Nat)
  /-- BLOCKED_EVICT, R111. -/
  | blockedEvict (core : Nat) (blocked : List TenRef)
  /-- TENANCY_SAVE_DONE, R114; `e` is what the codes of the arrays saved find (spec/11 R307). -/
  | tenancySaveDone (t : TenRef) (e : EccSeen)
  /-- TENANCY_RESTORE_DONE, R118; `bad` is the local address of a word of the image in the save area that is uncorrectable
  (R115). -/
  | tenancyRestoreDone (t : TenRef) (bad : Option Nat)
  /-- CONF_CORE_SCRUB, R107. -/
  | confCoreScrub (core : Nat)
  /-- CORE_FAULT_DETECTED, R311. -/
  | coreFaultDetected (core : Nat) (unsavable : List TenRef)
  /-- PROG_LOAD, R192. -/
  | progLoad (p : Pkt)
  /-- PATCH_SEQ, R194. -/
  | patchSeq (p : Pkt)
  /-- PROG_RETIRE, R196. -/
  | progRetire (p : Pkt)
  /-- LAUNCH_SEQ, R197. -/
  | launchSeq (p : Pkt)
  /-- RUN_TIMEOUT, R207. -/
  | runTimeout (run : Nat)
  /-- SEQ_NOP, R200. -/
  | seqNop (run : Nat)
  /-- SEQ_MOVI, R200. -/
  | seqMovi (run : Nat)
  /-- MOVHI, R200. -/
  | movhi (run : Nat)
  /-- ALU, R200. -/
  | alu (run : Nat)
  /-- SEQ_LD, R200. -/
  | seqLd (run : Nat)
  /-- SEQ_ST, R200. -/
  | seqSt (run : Nat)
  /-- EVREAD, R200. -/
  | evread (run : Nat)
  /-- SEQ_BR, R200. -/
  | seqBr (run : Nat)
  /-- BEV, R200. -/
  | bev (run : Nat)
  /-- BMW, R200. -/
  | bmw (run : Nat)
  /-- LOOP, R200. -/
  | loopS (run : Nat)
  /-- JMP, R200. -/
  | jmp (run : Nat)
  /-- BOVF, R200. -/
  | bovf (run : Nat)
  /-- OVFCLR, R200. -/
  | ovfclr (run : Nat)
  /-- WAIT, R200. -/
  | waitEv (run : Nat)
  /-- WAIT_TIMEOUT_EXPIRY, R200. -/
  | waitTimeoutExpiry (run : Nat)
  /-- REC, R200. -/
  | recEv (run : Nat)
  /-- JOIN, R204. -/
  | joinG (run : Nat)
  /-- DISPATCH, R203. -/
  | dispatch (run : Nat)
  /-- DISPATCH_QUEUE_ROOM, R203. -/
  | dispatchQueueRoom (run : Nat)
  /-- KERNEL_END_NOTIFY, R204. -/
  | kernelEndNotify (run : Nat) (incarn : Nat) (grp : Nat) (ovf : Bool)
  /-- SEQ_COPY, R200. -/
  | seqCopy (run : Nat)
  /-- HINT, R205. -/
  | hint (run : Nat)
  /-- KVOPEN, R292. -/
  | kvopen (run : Nat)
  /-- KVCOMMIT, R293. -/
  | kvcommit (run : Nat)
  /-- KVROLLBACK, R293. -/
  | kvrollback (run : Nat)
  /-- KV_ZERO_WRITE, R294. -/
  | kvZeroWrite (chan : Nat)
  /-- EMIT, R201. -/
  | emit (run : Nat)
  /-- SEQ_END, R199. -/
  | seqEnd (run : Nat)
  /-- RUN_AHEAD, R205. -/
  | runAhead (run : Nat)
  /-- SEQ_CORE_FAILOVER, R202. -/
  | seqCoreFailover (core : Nat) (lost : List Nat)
  /-- MEMORY_REQUEST, R219. -/
  | memoryRequest (r : MemReq)
  /-- NEAR_MEMORY_OP, R239. -/
  | nearMemoryOp (r : NearReq)
  /-- PATROL_SCRUB, R216. -/
  | patrolScrub (chan : Nat) (upset : Upset)
  /-- RANGE_MAP, R226. -/
  | rangeMap (p : Pkt)
  /-- RANGE_UNMAP, R227. -/
  | rangeUnmap (p : Pkt)
  /-- UNMAP_WHEN_IDLE, R228. -/
  | unmapWhenIdle (p : Pkt)
  /-- UNMAP_WHEN_IDLE_EFFECT, R228. -/
  | unmapWhenIdleEffect (id : Nat)
  /-- RANGE_INVAL, R229. -/
  | rangeInval (p : Pkt)
  /-- RANGE_INVAL_TIMEOUT, R229. -/
  | rangeInvalTimeout (id : Nat)
  /-- RANGE_WALK, R224. -/
  | rangeWalk (sheaf : Nat) (ctx : Nat) (va : Nat)
  /-- PREFETCH, R231. -/
  | prefetch (p : Pkt)
  /-- ADVISE, R232. -/
  | advise (p : Pkt)
  /-- OWN_SET, R220. -/
  | ownSet (p : Pkt)
  /-- FAULT_RESOLVE, R236. -/
  | faultResolve (p : Pkt)
  /-- EOTHA_CONFIG, R230. -/
  | eothaConfig (p : Pkt)
  /-- FRAME_RECEIVE, R252. -/
  | frameReceive (port : Nat) (f : Frame)
  /-- LINK_REPLAY_TIMEOUT, R252. -/
  | linkReplayTimeout (port : Nat)
  /-- PORT_TRAIN, R247. -/
  | portTrain (port : Nat) (r : TrainResult)
  /-- MISWIRED_RETRAIN, R247. -/
  | miswiredRetrain (port : Nat)
  /-- LANE_RETIRE, R248. -/
  | laneRetire (port : Nat) (lane : Nat) (receive : Bool)
  /-- PORT_DOWN, R249; ports 32 and 33 are the Haldip ports. -/
  | portDown (port : Nat)
  /-- FABRIC_COMMAND, R258. -/
  | fabricCommand (f : FabPkt)
  /-- FABRIC_READ, R256. -/
  | fabricRead (f : FabPkt)
  /-- FABRIC_WRITE, R256. -/
  | fabricWrite (f : FabPkt)
  /-- FABRIC_NEAR, R256. -/
  | fabricNear (f : FabPkt)
  /-- FABRIC_RESPONSE, R256. -/
  | fabricResponse (f : FabPkt)
  /-- MARK, R259. -/
  | markF (f : FabPkt)
  /-- MARK_ACK, R259. -/
  | markAck (f : FabPkt)
  /-- FLOW_GAP_TIMEOUT, R258. -/
  | flowGapTimeout (flow : FlowKey)
  /-- PATH_REEVALUATE, R265. -/
  | pathReevaluate (flow : FlowKey)
  /-- REMOTE_RESPONSE_TIMEOUT, R267. -/
  | remoteResponseTimeout (tag : Nat)
  /-- LIVENESS_NOP, R323. -/
  | livenessNop
  /-- PEER_SILENT, R323. -/
  | peerSilent (mid : Nat)
  /-- PEER_FAIL_DECLARE, R323. -/
  | peerFailDeclare (path : Nat) (v : W32)
  /-- COLS_ENABLE, R273. -/
  | colsEnable (path : Nat) (v : W32)
  /-- COLS_DISABLE, R273. -/
  | colsDisable (path : Nat) (v : W32)
  /-- COLL_DESCRIPTOR_START, R278. -/
  | collDescriptorStart (stream : Nat)
  /-- COLL_ANNOUNCE, R278. -/
  | collAnnounce (stream : Nat) (rank : Nat) (sq : CollTag) (crc : W32)
  /-- COLL, R279. -/
  | coll (stream : Nat) (rank : Nat) (off : CollSeg) (data : List Byte)
  /-- COLL_COMPLETE, R274. -/
  | collComplete (stream : Nat)
  /-- COLL_ABORT, R283. -/
  | collAbort (stream : Nat) (status : CollEnd)
  /-- COLL_TIMEOUT, R283. -/
  | collTimeout (stream : Nat)
  /-- LINK_KEY_ROTATE, R286. -/
  | linkKeyRotate (slot : Nat) (peer : Nat) (keyix : Nat)
  /-- LINK_KEY_WAIT_TIMEOUT, R286. -/
  | linkKeyWaitTimeout (slot : Nat) (peer : Nat)
  /-- RT_ENTRY_COMMIT, R288. -/
  | rtEntryCommit (path : Nat) (v : W32)
  /-- POWER_STATE, R333. -/
  | powerState (p : Pkt)
  /-- FROST_ENTRY_WINDOW_END, R335. -/
  | frostEntryWindowEnd (half : Nat)
  /-- LULL_AUTO_ENTRY, R330. -/
  | lullAutoEntry (half : Nat)
  /-- LULL_EXIT, R330. -/
  | lullExit (half : Nat)
  /-- WAKE_N, R334. -/
  | wakeN
  /-- SMBUS_WAKE, R334. -/
  | smbusWake
  /-- HALDIP_WAKE_BEACON, R334. -/
  | haldipWakeBeacon (port : Nat)
  /-- THAW, R337. -/
  | thaw (half : Nat) (failed : List UnitRef)
  /-- AVS_STATUS_POLL, R339. -/
  | avsStatusPoll (half : Nat) (rail : Nat) (status : RailStatus)
  /-- AVS_TIMEOUT, R339. -/
  | avsTimeout (half : Nat) (rail : Nat)
  /-- DUTY_WINDOW, R343. -/
  | dutyWindow (est : Nat) (tcur : Nat)
  /-- FREQ_LOOP_TICK, R344. -/
  | freqLoopTick
  /-- SQUALL_DETECT, R345. -/
  | squallDetect (half : Nat)
  /-- SQUALL_RELEASE, R345. -/
  | squallRelease (half : Nat)
  /-- TELEMETRY_SAMPLE, R346. -/
  | telemetrySample (est : Nat) (tel : Nat)
  /-- HINT_PHASE, R347. -/
  | hintPhase (p : Pkt)
  /-- HINT_PHASE_START, R347. -/
  | hintPhaseStart
  /-- HINT_PHASE_END, R347. -/
  | hintPhaseEnd
  /-- SHIFT_TICK, R348. -/
  | shiftTick (slot : Nat)
  /-- POWER_BUDGET, R348. -/
  | powerBudget (p : Pkt)
  /-- BUDGET_DONOR_TIMEOUT, R348. -/
  | budgetDonorTimeout (slot : Nat)
  /-- SHIFT_OFFSET_LAPSE, R348. -/
  | shiftOffsetLapse
  /-- THERMAL_TICK, R350. -/
  | thermalTick (temps : List Int)
  /-- THERMAL_CRIT, R350. -/
  | thermalCrit
  /-- COOLANT_STOP, R351. -/
  | coolantStop
  /-- CONTEXT_TEARDOWN, R319. -/
  | contextTeardown (ctx : Nat)
  /-- TEARDOWN_DRAIN_DONE, R319. -/
  | teardownDrainDone (ctx : Nat)
  /-- TEARDOWN_ZERO_DONE, R44. -/
  | teardownZeroDone (ctx : Nat)
  /-- PEER_NOTICE_RETRY, R322. -/
  | peerNoticeRetry (ctx : Nat) (mid : Nat)
  /-- MGMT_HEARTBEAT, R314. -/
  | mgmtHeartbeat
  /-- MGMT_FAILOVER, R314. -/
  | mgmtFailover
  /-- WINNOW_VERDICT, R317. -/
  | winnowVerdict (t : TenRef) (same : Bool)
  /-- WINNOW_THIRD_VERDICT, R317. -/
  | winnowThirdVerdict (t : TenRef) (v : ThirdVerdict)
  /-- UNIT_HANG, R324. -/
  | unitHang (u : UnitRef) (unsavable : List TenRef)
  /-- ESCALATION_STEP_TIMEOUT, R325. -/
  | escalationStepTimeout (u : UnitRef)
  /-- MODULE_RESET, R325. -/
  | moduleReset
  /-- SVC_OUT, R327. -/
  | svcOut (path : Nat) (v : W32)
  /-- SVC_TEST, R327. -/
  | svcTest (path : Nat) (v : W32) (pass : Bool)
  /-- SVC_IN, R327. -/
  | svcIn (path : Nat) (v : W32) (pass : Bool)
  /-- GLEAN_DUMP, R326. -/
  | gleanDump (path : Nat) (v : W32)
  /-- LOG_RECORD_READ, R309. -/
  | logRecordRead (path : Nat)
  /-- SCALE_CLASS_WRITE, R303. -/
  | scaleClassWrite (path : Nat) (v : W32) (cpl : W32)
  /-- CLAIM_OWNER, R360. -/
  | claimOwner (p : Pkt)
  /-- TRANSFER_OWNER, R360. -/
  | transferOwner (p : Pkt)
  /-- ENTER_DEBUG, R360. -/
  | enterDebug (p : Pkt)
  /-- LEAVE_DEBUG, R360. -/
  | leaveDebug (p : Pkt)
  /-- ENTER_RMA, R360. -/
  | enterRma (p : Pkt)
  /-- RMA_RETURN, R360. -/
  | rmaReturn (p : Pkt)
  /-- RETIRE, R360. -/
  | retire (p : Pkt)
  /-- FW_FLOOR, R360. -/
  | fwFloor (p : Pkt)
  /-- INSTALL_CERT, R360. -/
  | installCert (p : Pkt)
  /-- ATTEST_CHAIN, R365. -/
  | attestChain (p : Pkt)
  /-- QUOTE_MODULE, R365. -/
  | quoteModule (p : Pkt)
  /-- QUOTE_SLOT, R365. -/
  | quoteSlot (p : Pkt)
  /-- LINK_KEX_CHAIN, R368. -/
  | linkKexChain (p : Pkt)
  /-- LINK_KEX_INIT, R368. -/
  | linkKexInit (p : Pkt)
  /-- LINK_KEX_RESP, R368. -/
  | linkKexResp (p : Pkt)
  /-- LINK_KEX_CONFIRM, R368. -/
  | linkKexConfirm (p : Pkt)
  /-- LINK_KEX_RETRY, R369. -/
  | linkKexRetry (slot : Nat) (peer : Nat)
  /-- LINK_KEX_GIVE_UP, R369. -/
  | linkKexGiveUp (slot : Nat) (peer : Nat)
  /-- LINK_KEY_EXPIRE, R369. -/
  | linkKeyExpire (slot : Nat) (peer : Nat) (keyix : Nat)
  /-- FEED_FRAME_SEND, R374. -/
  | feedFrameSend (f : FeedEnergies)
  /-- FEED_FRAME_RECEIVE, R375. -/
  | feedFrameReceive (bytes : List Byte)
  /-- PAIR, R376. -/
  | pairWb (bytes : List Byte)
  /-- WB_SECOND_CLOSE, R377. -/
  | wbSecondClose (m : Measure)
  /-- WB_BLOCK_CLOSE, R379. -/
  | wbBlockClose
  /-- WB_INPUT_LOSS, R373. -/
  | wbInputLoss (m : Measure)
  /-- WB_POWER_RETURN, R380. -/
  | wbPowerReturn
  /-- INFO, R382. -/
  | wbInfo
  /-- KEYS, R382. -/
  | wbKeys (chunk : Nat)
  /-- READ_BLOCK, R382. -/
  | readBlock (blockNo : Nat) (chunk : Nat)
  /-- READ_AUDIT, R382. -/
  | readAudit (entry : Nat) (chunk : Nat)
  /-- FW_LOAD, R382. -/
  | fwLoad (off : Nat) (data : List Byte)
  /-- FW_COMMIT, R383. -/
  | fwCommit
  /-- AUTHORITY, R383. -/
  | authority (bytes : List Byte)
  /-- SEAL_BREACH, R384. -/
  | sealBreach
  /-- MIRROR_FRAME, R385. -/
  | mirrorFrame
  /-- MIRROR_LOST, R385. -/
  | mirrorLost
  /-- REGISTER_WRITE, R6. -/
  | registerWrite (path : Nat) (addr : Nat) (v : W32)
  /-- ALIAS_WRITE, R388. -/
  | aliasWrite (path : Nat) (addr : Nat) (v : W32)
  /-- LO_LATCH_READ, R390. -/
  | loLatchRead (path : Nat) (addr : Nat)
  /-- LCK_UNLOCK, R393. -/
  | lckUnlock (path : Nat) (v : W32)
  /-- LOCK_EXPIRY, R393. -/
  | lockExpiry (path : Nat)
  /-- CPL_WRITE, R394. -/
  | cplWrite (path : Nat) (addr : Nat) (v : W32)
  /-- PENDING_LAPSE, R394. -/
  | pendingLapse (path : Nat)
  /-- CRC_PASS, R402. -/
  | crcPass
  /-- GRACE_EXPIRY, R403. -/
  | graceExpiry
  /-- CRC_COMMIT, R404. -/
  | crcCommit (path : Nat) (v : W32) (cpl : W32)
  /-- BOOT, R411. -/
  | boot (c : BootCfg)
  /-- POWER_OFF, R408. -/
  | powerOff
  /-- FLASH_REQUEST, R409. -/
  | flashRequest (reading : Bool)
  /-- FLASH_RELEASE, R409. -/
  | flashRelease
  /-- EXTEST, R415. -/
  | extest (die : Nat)
  /-- IDCODE, R413. -/
  | idcode (die : Nat)
  /-- SAMPLE_PRELOAD, R413. -/
  | samplePreload (die : Nat) (sampled : Nat) (shifted : Nat)
  /-- CLAMP, R415. -/
  | clamp (die : Nat)
  /-- HIGHZ, R415. -/
  | highz (die : Nat)
  /-- EXTEST_PULSE, R415. -/
  | extestPulse (die : Nat)
  /-- EXTEST_TRAIN, R415. -/
  | extestTrain (die : Nat)
  /-- REGACCESS, R414. -/
  | regaccess (addr : Nat) (v : W32) (cpl : W32)
  /-- MEMACCESS, R414. -/
  | memaccess (addr : Nat) (v : W32) (cpl : W32)
  /-- HALT, R413. -/
  | halt (core : Nat) (stop : Bool)
  /-- BYPASS, R413. -/
  | bypass (die : Nat)
  /-- WB_EXTEST, R416. -/
  | wbExtest
  /-- WB_IDCODE, R416. -/
  | wbIdcode
  /-- WB_SAMPLE_PRELOAD, R416. -/
  | wbSamplePreload (sampled : Nat) (shifted : Nat)
  /-- WB_BYPASS, R416. -/
  | wbBypass
  /-- COPY_DONE, R177. -/
  | copyDone (id : Nat)
  /-- OWN_SET_RELEASE_DONE, R220. -/
  | ownSetReleaseDone (id : Nat)
  /-- HBM_CHANNEL_FAILURE, R306. -/
  | hbmChannelFailure (chan : Nat)
  /-- SHEAF_FAULT, R306. -/
  | sheafFault (sheaf : Nat)
  /-- SEAM_CRC_FAILURE, R306. -/
  | seamCrcFailure
  /-- COOLANT_FAULT_DEASSERT, R352. -/
  | coolantFaultDeassert
  /-- WAKE_N_RELEASE, R334. -/
  | wakeNRelease
deriving DecidableEq, Repr

end Sys2Proof
end

