-- ==== Sys2Proof/Decode.lean ====
section
/-! DEFINITION. The commands that words spell. No row of spec/opcode_table.json gives bits or fields (every row's pattern is
empty), so no word of its numbering spells a command; a core's instruction word spells one by its opcode (spec/05 R122-R124).
Command packets are read from bytes by `pktOfBytes` and fabric packets by `fabHeadOf` and `fabOpen` in Machine/Packet.lean,
sequencer words by `seqW` in Machine/SeqOps.lean. -/
namespace Sys2Proof

/-- The command that an instruction word of `nbits` bits spells: none, for the table gives no row bits. -/
def decodeTableWord (_nbits _w : Nat) : Option Instr := none

/-! ### Core instructions (spec/05 R122-R124) -/

/-- The opcode map: the scalar instructions. -/
def scalarOps : List (Nat × (TenRef → BitVec 56 → Instr)) :=
  [(0x01, .add), (0x02, .sub), (0x03, .andX), (0x04, .orX), (0x05, .xorX), (0x06, .shl), (0x07, .shr), (0x08, .sra),
   (0x09, .mul), (0x0A, .mulhu), (0x0B, .mulhs), (0x0C, .divu), (0x0D, .divs), (0x0E, .remu), (0x0F, .rems), (0x10, .slt),
   (0x11, .sltu), (0x12, .seqEq), (0x13, .mins), (0x14, .maxs), (0x15, .minu), (0x16, .maxu), (0x17, .sel), (0x18, .movi),
   (0x19, .sethi), (0x20, fun t w => .ld t w .clean), (0x21, .st)]

/-- The opcode map: the vector and predicate instructions. -/
def vectorOps : List (Nat × (TenRef → BitVec 56 → Instr)) :=
  [(0x30, .vadd), (0x31, .vsub), (0x32, .vmul), (0x33, .vfma), (0x34, .vdiv), (0x35, .vmin), (0x36, .vmax), (0x37, .vand),
   (0x38, .vor), (0x39, .vxor), (0x3A, .vshl), (0x3B, .vshr), (0x3C, .vsra), (0x3D, .vsgn), (0x40, .vfunc), (0x41, .vcmp),
   (0x42, .vcvt), (0x43, .vred), (0x44, .vbcast), (0x45, .vext), (0x46, .vins), (0x47, .vperm), (0x48, .viota),
   (0x49, fun t w => .vld t w .clean), (0x4A, .vst), (0x4B, .vldc), (0x4C, .vstc), (0x4D, .plog)]

/-- The opcode map: the tensor and accumulator instructions. -/
def matrixOps : List (Nat × (TenRef → BitVec 56 → Instr)) :=
  [(0x60, fun t w => .tmma t w .clean), (0x70, .aclr), (0x71, .adrain), (0x72, .ald)]

/-- The opcode map: data movement, remote access, atomics, synchronisation and control. -/
def dataOps : List (Nat × (TenRef → BitVec 56 → Instr)) :=
  [(0x80, .xfer), (0x81, .xwait), (0x82, fun t w => .xprog t w 0), (0x84, .rst), (0x85, .rld), (0x88, .atom), (0x89, .red),
   (0x8A, .vredw), (0xA0, .erec), (0xA1, .ewait), (0xA4, .bar), (0xA5, .fence), (0xC0, .br), (0xC1, .jal), (0xC2, .jalr),
   (0xC4, .endK), (0xC5, .spr), (0xC6, .flagclr), (0xC7, .trap)]

/-- The opcode map (R124); NOP is opcode 0, every other value is undefined. -/
def coreOps : List (Nat × (TenRef → BitVec 56 → Instr)) := scalarOps ++ vectorOps ++ matrixOps ++ dataOps

/-- The OPCODE field, bits [63:56] (R122). -/
def coreOpcode (w : W64) : Nat := w.toNat / 2 ^ 56

/-- The command that a core's 64-bit word spells on a tenancy: none where its opcode is undefined. What a command's operands say
beside the word, of the arrays it reads or of a transfer's progress, is that there is nothing to say. -/
def decodeCore (t : TenRef) (w : W64) : Option Instr :=
  if coreOpcode w = 0 then some (.coreNop t w)
  else (coreOps.find? (fun e => e.1 == coreOpcode w)).map (fun e => e.2 t (w.setWidth 56))

end Sys2Proof
end

