-- ==== Sys2Proof/Config.lean ====
section
/-! DEFINITION. What an implementation fixes and the spec leaves open: free values and the cryptographic primitives
whose outputs are bits the spec takes from standards outside itself. Every constant here is opaque: no proof can see a
value of it (notes/assumptions/5.md, 7.md, 8.md). -/
namespace Sys2Proof

/-- The n-th free value: TRNG output (spec/13 R356, R363, R366), generations filled at power-up (spec/02 R45), data
the spec calls input data (spec/03 R94). Applied to the counter `State.fresh`, which a step advances. -/
opaque Config.freeValue : Nat → W64

/-- XMSS signature check (spec/13 R358-R359, spec/16 R410): KEY_ID of the public key, message, signature. -/
opaque Config.xmssVerify : List Byte → List Byte → List Byte → Bool

/-- XMSS signing (spec/13 R362, R363, R365): which key, index, message. -/
opaque Config.xmssSign : Nat → Nat → List Byte → List Byte

/-- The encoded public key of the identity key (0), the test identity key (1), the attestation key of generation n
(2 + n) and the weighbridge block key (2^33): 68 bytes whose value no rule states (spec/13 R356). -/
opaque Config.publicKey : Nat → List Byte

/-- ML-KEM-1024 (FIPS 203, spec/13 R367, spec/14 R376): the shared secret that a ciphertext or an encapsulation key and
a random value give. -/
opaque Config.kemSecret : List Byte → Nat → List Byte

/-- ML-KEM-1024 ciphertext made for an encapsulation key and a random value (1,568 bytes). -/
opaque Config.kemCipher : List Byte → Nat → List Byte

/-- ML-KEM-1024 encapsulation key made from a random value (1,568 bytes). -/
opaque Config.kemKey : Nat → List Byte

/-- AES-256-GCM encryption (spec/09 R284): key, nonce, additional data, plaintext; the ciphertext with its tag. -/
opaque Config.gcmSeal : List Byte → List Byte → List Byte → List Byte → List Byte

/-- AES-256-GCM tag check and decryption (spec/09 R284-R285): key, nonce, additional data, ciphertext with tag. -/
opaque Config.gcmOpen : List Byte → List Byte → List Byte → List Byte → Option (List Byte)

/-- The grid byte of a block of an FGX reduction whose contributions carry different grids (spec/03 R82, spec/09 R277): the block's
sums or winners as the engine holds them. -/
opaque Config.mixedGrid : List Byte → Byte

/-- The bytes on the fabric of a message between modules that the spec names and gives no packet for (spec/02 R57-R62, spec/07 R203,
R204, spec/09 R282): its kind, what it says, and the byte's place. -/
opaque Config.wireByte : Nat → List Byte → Nat → Byte

/-- Words of a dump's sections whose layout the spec does not give (spec/11 R326: fault-queue entries, run headers, unit
states, firmware trace): the dump's SEQ, the word's place. -/
opaque Config.dumpWord : W32 → Nat → W32

end Sys2Proof
end

