-- ==== Sys2Proof/Machine/State.lean ====
section
/-! DEFINITION. The state of the Iasofort as plain data, its reset, and the reasons a step can stop. Every field that
stands for a register names the register; defaults are the values of the spec's Reset column, or a value that
notes/assumptions/4.md names. Wide arrays are sparse tables: see `Tab` in Machine/Ops.lean. -/
namespace Sys2Proof.Machine

/-- A sparse table: keys strictly rising, no entry equal to what an unlisted key reads as. -/
abbrev Tab (α : Type) := List (Nat × α)

/-! ### Identity, clocks, pins -/

/-- Where the module is between power-up and ready (spec/16 R406, R410, R411; spec/11 R325 step 7). -/
inductive Phase where
  | off | boot | ready | bootFailed | stopped
deriving DecidableEq, Repr

/-- Module-wide identity, distance map, routing, clocks and pins. -/
structure Dev where
  phase : Phase := .boot
  now : Nat := 0
  cnt0 : W64 := 0
  cnt1 : W64 := 0
  stepping : BitVec 8 := 0
  strap : BitVec 3 := 0
  wbStrap : BitVec 2 := 0
  smbDiscard : W32 := 0
  smbNack : W32 := 0
  distSheaf : BitVec 6 := 0
  distChan : BitVec 8 := 0
  chremapSel : BitVec 8 := 0
  fabId : BitVec 14 := 0
  rtSel : BitVec 8 := 0
  rt : Tab (BitVec 96) := []
  rtStage0 : Option W32 := none
  rtStage1 : Option W32 := none
  adaptBias : BitVec 8 := 32
  adaptStall : BitVec 8 := 2
  nonminEn : Bool := true
  fabDup : W32 := 0
  fabGap : W32 := 0
  fabBadKind : W32 := 0
  fabNoRoute : W32 := 0
  fabGcmFail : W32 := 0
  colsSel : BitVec 9 := 0
  pll0 : BitVec 4 := 0
  pll1 : BitVec 4 := 0
  pllMgmt : Bool := false
  onFio : Bool := true
  fio0 : BitVec 9 := 0
  fio1 : BitVec 9 := 0
  pwrEn : Bool := true
  wake : Bool := false
  coolantFault : Bool := false
  coolantSince : Option Nat := none
  flashReq : Bool := false
  flashGnt : Bool := false
  bootWaits : Option BootCfg := none
  thermAlert : Bool := false
  rsv : Tab W32 := []
deriving DecidableEq, Repr

/-! ### Guards, access paths and the sealed check (spec/15) -/

/-- What one access path holds (R390, R393, R394). `shadow` is keyed by block: the LO offset read last and the high word
latched. -/
structure PathSt where
  armed : Bool := false
  pendingW : Option (Nat × W32) := none
  matched : Option (Nat × W32) := none
  shadow : Tab (Nat × W32) := []
deriving DecidableEq, Repr

/-- The register paths and their locks (spec/15). -/
structure Lck where
  paths : Tab PathSt := []
  viol : W32 := 0
  rsvWr : W32 := 0
  crcEn : Bool := false
  commit : Bool := false
  crcRef : W32 := 0
  crcCur : W32 := 0
  drift : Bool := false
  grace : Bool := false
  raised : Bool := false
  driftCnt : W32 := 0
deriving DecidableEq, Repr

/-! ### Units and cores (spec/02 R63, spec/04) -/

/-- The states of a unit (spec/02 R63). -/
inductive UnitSt where
  | quarantine | scrub | bist | ready | failed
deriving DecidableEq, Repr

/-- A dispatch-queue entry (spec/04, The dispatch queue). `remote` is the module whose run dispatched it, none for this
module; `since` is when it entered the queue. -/
structure DqEntry where
  lcid : Nat
  ctx : Nat
  cgen : W32
  cls : Nat
  foot : Nat
  entry : W64
  x1 : W64
  x2 : W64
  x3 : W64
  x4 : W64
  run : Nat
  incarn : Nat
  grp : Nat
  remote : Option Nat := none
  since : Nat := 0
deriving DecidableEq, Repr

/-- An instruction-cache line (spec/04 R99): the 64-byte line at a virtual address, and that address in device form and its FPA,
by which a RANGE_INVAL removes it. -/
structure ILine where
  ctx : Nat
  cgen : W32
  va : Nat
  dva : Nat
  fpa : Nat
deriving DecidableEq, Repr

/-- One physical core outside its tenancies (spec/04 R121). `confCtx` is the context whose confidential tenancies the core
last held and has not been scrubbed of (R107); `spill` are moved entries that wait for room in the queue (R419); `sinceMatch` counts the kernel instances completed since the core's last
winnow sample with matching digests (spec/11 R317); `keeps` are the candidates, oldest first, that saves under way free bays for
(R109-R111); `recAt` is when the core last injected an event record (spec/01 R23); `icache` are the lines of its instruction
cache, newest first. -/
structure CoreSt where
  slice : BitVec 10 := 200
  preemptCnt : W32 := 0
  evictCnt : W32 := 0
  queue : List DqEntry := []
  spill : List DqEntry := []
  halted : Bool := false
  confCtx : Option Nat := none
  sinceMatch : Nat := 0
  keeps : List TenRef := []
  recAt : Option Nat := none
  icache : List ILine := []
deriving DecidableEq, Repr

/-- An escalation under way (spec/11 R325). -/
structure Esc where
  u : UnitRef
  step : Nat
deriving DecidableEq, Repr

/-- A spare substitution under way (spec/11 R312): failed core, substitute, slot, the logical cores still to go, and
whether its end writes a CORE_DETECTED record. -/
structure Subst where
  core : Nat
  sub : Option Nat
  slot : Nat
  lcids : List Nat
  noted : Bool := true
deriving DecidableEq, Repr

/-- The units: the state every unit is in unless listed, and the units in another state. Keys: `unitKey`. -/
structure Units where
  base : UnitSt := .scrub
  marks : Tab UnitSt := []
  bgenBase : BitVec 16 := 0
  bgen : Tab (BitVec 16) := []
  out : List UnitRef := []
  isolated : List Nat := []
  cores : Tab CoreSt := []
  esc : List Esc := []
  subst : List Subst := []
  svcCmd : BitVec 19 := 0
  svcBusy : Bool := false
  svcStatus : BitVec 16 := 0
deriving DecidableEq, Repr

/-! ### Tenancies and transfers (spec/04 R103-R119, spec/05 R142-R148) -/

/-- A transfer descriptor as read (spec/05 R143). -/
structure Desc where
  srcKind : Nat := 0
  dstKind : Nat := 0
  esize : Nat := 0
  gather : Bool := false
  listOff : Nat := 0
  srcAddr : W64 := 0
  dstAddr : W64 := 0
  srcLcid : Nat := 0
  dstLcid : Nat := 0
  size : List Nat := []
  sst : List Int := []
  dst : List Int := []
deriving DecidableEq, Repr

/-- A transfer slot's cursor (spec/04 R117), the descriptor as read, and the range entries, by VA, that the cursor has
entered (R119), the gather entry of the outer index that it is in (spec/05 R145), and the checks of sides on other modules that
have not been answered (R144). -/
structure Xfer where
  valid : Bool := false
  faulted : Bool := false
  srcFault : Bool := false
  descOff : Nat := 0
  crc : W32 := 0
  doneEl : Nat := 0
  total : Nat := 0
  desc : Desc := {}
  inSrc : Option Nat := none
  inDst : Option Nat := none
  gat : Option (Nat × Nat) := none
  probes : Nat := 0
deriving DecidableEq, Repr

/-- Where a tenancy is (spec/04 R104, R112-R115): resident at a first bay, being saved from it, swapped, being restored
into it. -/
inductive Loc where
  | resident (bay : Nat)
  | saving (bay : Nat)
  | swapped
  | restoring (bay : Nat)
deriving DecidableEq, Repr

/-- What a tenancy waits on (spec/04 R113 WAIT_KIND; `ending` is END's wait, `held` the held end of R316). -/
inductive TenWait where
  | none
  | event (handle : W32) (target : W64)
  | barrier (bid : Nat) (ph : W64)
  | prog (descOff : Nat) (target : W64)
  | ending (release : Bool)
  | held (release : Bool)
deriving DecidableEq, Repr

/-- Why a tenancy is being saved or was saved (spec/04 R109-R111, R115). -/
inductive SaveWhy where
  | none
  | preempt
  | evict
  | move
deriving DecidableEq, Repr

/-- A sample of winnow replay on a tenancy (spec/11 R316): its snapshot is the image bytes, `log` the bytes of its read log. -/
structure Sample where
  replica : Nat
  image : List Byte
  log : List Byte := []
  mismatched : Bool := false
deriving DecidableEq, Repr

/-- A tenancy (spec/04 R103-R105). `since` is when its slice began, or when it became runnable; `kovf`: its running kernel has set FGX_OVF (spec/03 R84). V lane l of Vv is keyed 64v + l; bank element (r, c) of bank b 4096b + 64r + c; grid
byte j of bank b 128b + j; the window by offset. `savedFold` and `savedBgen` are the fold position and the core's binding generation
when its image was written (R113). -/
structure Ten where
  lcid : Nat
  ctx : Nat
  cgen : W32
  slot : Nat
  foot : Nat
  cls : Nat
  core : Nat
  fold : Nat := 0
  loc : Loc
  saved : SaveWhy := .none
  since : Nat := 0
  x : Tab W64 := []
  v : Tab W32 := []
  p : Tab W64 := []
  acc : Tab W32 := []
  fgx : Tab Bool := []
  grid : Tab Byte := []
  win : Tab Byte := []
  xf : List Xfer := [{}, {}, {}, {}]
  pc : W64 := 0
  running : Bool := false
  wait : TenWait := .none
  run : Nat := 0
  incarn : Nat := 0
  grp : Nat := 0
  remote : Option Nat := none
  sliceUsed : W32 := 0
  savedFold : Nat := 0
  savedBgen : BitVec 16 := 0
  kovf : Bool := false
  sample : Option Sample := none
deriving DecidableEq, Repr

/-- A remote window access that waits for its target's save or restore to end (spec/04 R115); `pc` is its instruction's. -/
structure RemAcc where
  issuer : TenRef
  target : TenRef
  off : Nat
  store : Option (List Byte)
  len : Nat
  vec : Bool
  reg : Nat
  pc : W64
deriving DecidableEq, Repr

/-! ### Memory (spec/08) -/

/-- An ownership tag (R218). `st`: 0 FREE, 1 OWNED, 2 MODULE, 3 RETIRED. -/
structure Tag where
  slot : Nat := 0
  ctx : Nat := 0
  shared : Bool := false
  conf : Bool := false
  ro : Bool := false
  table : Bool := false
  st : Nat := 0
deriving DecidableEq, Repr

/-- One physical channel: its counters (R244); `ces`, the times of corrected words with their codeword (spec/11 R313); and its controller's
queue (R242): the requests that hold a slot, those that wait for one, and the class whose turn it is with what is left of the turn. -/
structure Chan where
  ce : W32 := 0
  ue : W32 := 0
  scrub : W32 := 0
  patrol : Nat := 0
  ces : List (Nat × Nat) := []
  queue : List MemReq := []
  waits : List MemReq := []
  turn : Nat × Nat := (0, 0)
deriving DecidableEq, Repr

/-- A prefetched line (spec/07 R206), with the sequencer core that issued it. -/
structure Line where
  sheaf : Nat
  ctx : Nat
  cgen : W32
  fpa : Nat
  cls : Nat
  count : W32
  core : Option Nat
  run : Nat × Nat := (0, 0)
  guess : Nat := 0
  used : Bool := false
deriving DecidableEq, Repr

/-- What the controller last answered (R219, R238). `status`: 0 performed, 1 refused at memory, 2 uncorrectable. -/
structure MemReply where
  status : Nat
  data : List Byte
deriving DecidableEq, Repr

/-- A channel migration under way (spec/02 R55). -/
structure Migration where
  slot : Nat
  src : Nat
  dst : Nat
  id : Option Nat
  drained : Bool := false
deriving DecidableEq, Repr

/-- Memory: bytes, ownership tags, upsets, channels, migrations and prefetched lines (spec/08). -/
structure Mem where
  bytes : Tab Byte := []
  upsets : Tab Upset := []
  tags : Tab Tag := []
  ssTags : Tab Tag := []
  wcount : Tab W32 := []
  remap : Tab Nat := []
  chans : Tab Chan := []
  tagSel : Tab (BitVec 15) := []
  lines : List Line := []
  zpend : Tab Nat := []
  migr : List Migration := []
  reply : Option MemReply := none
deriving DecidableEq, Repr

/-! ### Translation and the fault queue (spec/08 R222-R237) -/

/-- A range entry (R222). `skip`: pages cut off before an interleaved entry's start (R227, notes/assumptions/33.md). -/
structure Range where
  va : Nat
  fpa : Nat
  pages : Nat
  r : Bool
  w : Bool
  a : Bool
  d : Bool
  cls : Nat
  cache : Nat
  edom : Nat
  ilv : Nat
  granary : Bool
  revoked : Bool := false
  skip : Nat := 0
deriving DecidableEq, Repr

/-- A range-TLB entry (R225), most recently used first. -/
structure TlbEntry where
  ctx : Nat
  cgen : W32
  ent : Range
deriving DecidableEq, Repr

/-- A fault record (R234). -/
structure FaultRec where
  cause : Nat
  kind : Nat
  source : Nat
  write : Bool
  srcSide : Bool
  entry : Nat
  ctx : Nat
  slot : Nat
  cgen : W32
  pid : Nat
  addr : W64
  wher : W64
  lcid : Nat
  half : Nat
  detail : W64
  time : W64
  seq : W32
deriving DecidableEq, Repr

/-- A fault-queue entry (R235): its key, its record's SEQ and its faulters. -/
structure FqEntry where
  slot : Nat
  ctx : Nat
  cause : Nat
  blk : Nat
  seq : W32
  record : FaultRec
  faulters : List Faulter
deriving DecidableEq, Repr

/-- A faulter that stalls for want of an entry (R235). -/
structure Stalled where
  f : Faulter
  record : FaultRec
deriving DecidableEq, Repr

/-- Translation: TLBs and the fault queue (spec/08). -/
structure Xlt where
  tlb : Tab (List TlbEntry) := []
  micro : Tab (List TlbEntry) := []
  fq : Tab (Option FqEntry) := []
  stalled : List Stalled := []
  quota : BitVec 9 := 32
  ovf : W64 := 0
  walks : W64 := 0
  invalCnt : W32 := 0
  faultSeq : W32 := 0
deriving DecidableEq, Repr

/-! ### Partitions and contexts (spec/02) -/

/-- A binding record (R36). Core and channel sets hold ordinals and physical channels. -/
structure BindRec where
  pid : Nat := 0
  pgen : W32 := 0
  lcount : Nat := 0
  slot : Nat := 0
  conf : Bool := false
  lead : Nat := 0
  deputy : Nat := 0
  localCount : Nat := 0
  runs : Nat := 0
  granary : Nat := 0
  cores : List Nat := []
  chans : List Nat := []
  share : Tab Nat := []
  clsShare : List Nat := []
  class7 : Bool := false
deriving DecidableEq, Repr

/-- A local-map entry (R38): logical core, core ordinal, fold position. -/
structure LEnt where
  lcid : Nat
  core : Nat
  fold : Nat
deriving DecidableEq, Repr

/-- A run-table entry (R38). -/
structure REnt where
  first : Nat
  mid : Nat
deriving DecidableEq, Repr

/-- Staged segments of a PART_BIND (R39). Cores of the local map are staged as core IDs, `none` where the sheaf ID is
not assigned. -/
structure Staged where
  record : Option BindRec := none
  lmap : Tab (Nat × Option Nat × Nat) := []
  rtab : Tab REnt := []
deriving DecidableEq, Repr

/-- A granary image (R65). `st`: 0 LOADING, 1 READY, 2 EVICTING. `host`: loaded by the host. -/
structure Image where
  model : Nat
  base : Nat
  size : Nat
  granules : List Nat
  digest : List Byte
  host : Bool
  peer : Nat
  st : Nat
  pins : Nat
  maps : Nat
  used : Nat
  id : Option Nat
deriving DecidableEq, Repr

/-- The state of an ownership epoch (R57). -/
inductive EpochSt where
  | opened | accepted | committed | aborted
deriving DecidableEq, Repr

/-- An ownership record at the lead, and its copy at the deputy (R57); an owner of 16,384 is the run table's. -/
structure OwnRec where
  owner : Nat := 16384
  highest : Nat := 0
  epoch : Nat := 0
  src : Nat := 0
  dst : Nat := 0
  st : EpochSt := .aborted
deriving DecidableEq, Repr

/-- A partition slot (R34-R69). `fwd` are the logical cores that have left this module and whose traffic it still passes on,
`runEpoch` the epoch of each run-table change that this module holds (R59, R62), `gone` the failed modules that it has dealt with (spec/11 R323). -/
structure Slot where
  st : Nat := 0
  pgen : W32 := 0
  brec : BindRec := {}
  lmap : List LEnt := []
  rtab : List REnt := []
  bound : Bool := false
  staged : Staged := {}
  rebind : Option Nat := none
  images : List Image := []
  own : Tab OwnRec := []
  epochCtr : Nat := 0
  memKey : Option Nat := none
  chaff : W64 := 0
  sharePend : Tab Nat := []
  destroy : Option Nat := none
  offsets : Tab Int := []
  lastRank : List (Nat × Nat × Nat) := []
  fwd : List Nat := []
  runEpoch : Tab Nat := []
  donorMove : Option (Nat × Nat) := none
  gone : List Nat := []
deriving DecidableEq, Repr

/-- A logical core that is being moved, or held (R53, R58, spec/11 R312). `st` is the step of R53 it is in, or for a
handoff: 10 begun, 15 saving, 11 offered, 13 accepted and committing, 14 aborting; 20 held for want of a spare. -/
structure Moving where
  slot : Nat
  lcid : Nat
  id : Option Nat
  srcCore : Nat
  dstMod : Nat
  dstCore : Nat
  fold : Nat
  st : Nat
  epoch : Nat := 0
  tries : Nat := 0
  status : Nat := 0
  held : List DqEntry := []
deriving DecidableEq, Repr

/-- A logical core's state received from another module (R58): kept until MOVE_COMMIT or MOVE_ABORT. `waits` are the modules
that have not answered its MOVE_ACCEPT, `tries` how often that was sent again (R60). -/
structure Offer where
  slot : Nat
  lcid : Nat
  epoch : Nat
  src : Nat
  data : List Byte
  good : Bool
  core : Nat
  fold : Nat
  waits : List Nat := []
  tries : Nat := 0
deriving DecidableEq, Repr

/-- New traffic of a member held for a logical core until its flush markers have arrived (R62); `back` are the VCs whose
markers the new host has reported. -/
structure FlushHold where
  slot : Nat
  lcid : Nat
  back : List Nat := []
  held : List DqEntry := []
deriving DecidableEq, Repr

/-- A context's teardown (spec/11 R319): `cause` is the CODE of R421, `status` what its work ends with, `step` the step
reached, `destroy` the command that waits for its end, `quiet` that a peer's notice was its cause (R322). -/
structure Teardown where
  quiet : Bool := false
  code : Nat
  status : Nat
  step : Nat
  destroy : Option Nat
  live : Bool
deriving DecidableEq, Repr

/-- A context (R42-R48, spec/03 R84, spec/08 R222-R230). `st`: 0 FREE, 1 LIVE, 2 LOST, 3 DESTROYING. -/
structure Ctx where
  st : Nat := 0
  slot : Nat := 0
  gen : W32 := 0
  fgxOvf : Bool := false
  relaxed : Bool := false
  eotha : Bool := false
  hbase : Nat := 0
  dbase : Nat := 0
  elen : Nat := 0
  ranges : List Range := []
  table : Option Nat := none
  down : Option Teardown := none
deriving DecidableEq, Repr

/-- A barrier's state (spec/05 R153), with the members that wait for its release. -/
structure Bar where
  group : W64 := 0
  ph : W64 := 0
  count : Nat := 0
deriving DecidableEq, Repr

/-- A barrier's messages under way on this module (R153): an arrival to the state, or a release to a member. A waiting
tenancy's phase is `phaseUnknown` until its arrival is counted. -/
inductive BarMsg where
  | arrive (ctx bid lcid : Nat) (group : W64)
  | release (t : TenRef) (bid : Nat) (ph : W64)
deriving DecidableEq, Repr

/-- A peer notice that awaits its answer (spec/11 R322). -/
structure Notice where
  ctx : Nat
  mid : Nat
  tries : Nat
  seq : W32
deriving DecidableEq, Repr

/-- Where a reply goes (R181). -/
inductive QRef where
  | qp (n : Nat)
  | mgmt (port : Nat)
  | side
  | fabric (mid pid pgen : Nat)
deriving DecidableEq, Repr

/-- What the lead does once the deputy has acknowledged a record's change (R57): the reply, a message to a module, and
whether the run table's new entry goes to the members. -/
structure OwnAct where
  slot : Nat
  lcid : Nat
  q : QRef
  pkt : Pkt
  status : Nat
  epoch : Nat
  tell : Option (Nat × Nat)
  publish : Bool
deriving DecidableEq, Repr

/-- The lead's MOVE_COMMIT or MOVE_ABORT that the destination has not answered (R60). -/
structure LeadTell where
  slot : Nat
  lcid : Nat
  mid : Nat
  op : Nat
  epoch : Nat
  tries : Nat := 0
deriving DecidableEq, Repr

/-- A run-table change that the lead has sent and not every member has applied (R62): `old` is the old host. -/
structure RunPub where
  slot : Nat
  lcid : Nat
  old : Nat
  epoch : Nat
  waits : List Nat
deriving DecidableEq, Repr

/-- Partitions: slots, contexts, moves, notices and barriers (spec/02). -/
structure Part where
  slots : Tab Slot := []
  ctxs : Tab Ctx := []
  bars : Tab Bar := []
  barMsgs : List BarMsg := []
  prtSel : BitVec 6 := 0
  ctxSel : BitVec 10 := 0
  orphan : W64 := 0
  moving : List Moving := []
  offers : List Offer := []
  flushes : List FlushHold := []
  ownActs : List OwnAct := []
  tells : List LeadTell := []
  pubs : List RunPub := []
  heldFab : List FabPkt := []
  heldFlush : List (Nat × FabPkt) := []
  notices : List Notice := []
  failedPeers : List Nat := []
  foundPeers : List Nat := []
  memKeyCtr : W32 := 0
deriving DecidableEq, Repr

/-! ### Queue pairs, front ends, events (spec/06) -/

/-- A packet the module sends (R156, R181). -/
structure Reply where
  opcode : Nat := 0xF0
  dup : Bool := false
  last : Bool := false
  qpn : Nat := 0
  ctx : Nat := 0
  gen : BitVec 8 := 0
  seq : W32 := 0
  status : Nat := 0
  cls : Nat := 0
  w4 : W32 := 0
  w5 : W32 := 0
  w6 : W32 := 0
  w7 : W32 := 0
  payload : List Byte := []
  room : Nat := 0
deriving DecidableEq, Repr

/-- What a begun command still does. An invalidation waits for the modules that have not acknowledged it, and for the requests with the tags
that were translated through what it removes (spec/08 R229). -/
inductive Job where
  | read (addr : Nat) (len : Nat)
  | write (addr : Nat)
  | copy (src dst len : Nat) (run : Option (Nat × Nat × Nat))
  | wait (handle : W32) (target : W64)
  | record
  | remoteRecord (handle : W32) (value : W64)
  | run (r : Nat)
  | load (addr : Nat) (len : Nat)
  | retire (prog : Nat)
  | move
  | migrate
  | rebindReset (pgen : W32)
  | destroyCtx (ctx : Nat)
  | destroyPart (slot : Nat)
  | unbind (qpn : Nat)
  | own (grans : List (Bool × Nat))
  | inval (mods tags : List Nat)
  | unmapIdle (va len : Nat) (deps : List (QRef × W32)) (runs : List (Nat × Nat))
  | power (half0 half1 : Bool) (target : Nat)
  | pull (slot model : Nat)
deriving DecidableEq, Repr

/-- A command that has begun and not ended (R171): its number, where its reply goes, its request, its bytes moved, and
whether its first reply still has its room kept (R167), bytes read and not yet delivered, and bytes on their way. `asked` says up to
which byte of its first and second side another module has found the extent owned, and `asking` what is being asked (R178). -/
structure Begun where
  id : Nat
  q : QRef
  pkt : Pkt
  job : Job
  cursor : Nat := 0
  roomKept : Bool := true
  stalled : Bool := false
  buf : List Byte := []
  sent : Nat := 0
  asked : Nat × Nat := (0, 0)
  asking : Option (Bool × Nat) := none
deriving DecidableEq, Repr

/-- A queue pair (R164-R168). `st`: 0 UNBOUND, 1 BOUND, 2 ACTIVE, 3 HELD, 4 UNBINDING. Positions count bytes. `cq` holds
the packets of the completion ring not yet freed with the position each starts at. -/
structure Qp where
  st : Nat := 0
  source : Bool := false
  maxCls : Nat := 0
  port : Nat := 0
  adapter : W32 := 0
  ctx : Nat := 0
  cgen : W32 := 0
  quantum : Nat := 0
  expected : W32 := 0
  dups : W32 := 0
  sqBase : Nat := 0
  cqBase : Nat := 0
  sqLog : Nat := 0
  cqLog : Nat := 0
  sqTailEvt : W32 := 0
  sqHeadEvt : W32 := 0
  cqTailEvt : W32 := 0
  cqHeadEvt : W32 := 0
  sqHead : Nat := 0
  sqTail : Nat := 0
  cqHead : Nat := 0
  cqTail : Nat := 0
  sq : List Pkt := []
  cq : List (Nat × Reply) := []
  deficit : Nat := 0
deriving DecidableEq, Repr

/-- One Haldip port with its half's front end (R160-R162, R169-R170, spec/11 R308). `up`: the link carries traffic. -/
structure PortFe where
  up : Bool := false
  onHold : Bool := false
  adapter : Option Nat := none
  expected : W32 := 0
  dups : W32 := 0
  held : List Pkt := []
  store : List Reply := []
  refusals : List Reply := []
  reports : List Reply := []
  rxDiscard : W32 := 0
  refused : W32 := 0
  replyDrop : W32 := 0
  rr : Nat := 0
  rr7 : Nat := 0
  winCost : Nat := 0
  win7 : Nat := 0
deriving DecidableEq, Repr

/-- Front ends, queue pairs and begun commands (spec/06). -/
structure Fe where
  qps : Tab Qp := []
  qptSel : BitVec 12 := 0
  ports : Tab PortFe := []
  begun : List Begun := []
  nextId : Nat := 1
  sideExpected : W32 := 0
  sideHeld : List Reply := []
  sideWait : List Pkt := []
  sideOut : List Byte := []
  heldReports : List Reply := []
deriving DecidableEq, Repr

/-- An event counter (R184-R185). `st`: 0 free, 1 held by a context, 2 SHARED. -/
structure Ev where
  st : Nat := 0
  ctx : Nat := 0
  slot : Nat := 0
  val : W64 := 0
deriving DecidableEq, Repr

/-- Who waits (R188). -/
inductive Waiter where
  | cmd (id : Nat)
  | ten (t : TenRef)
  | run (r : Nat)
  | remote (mid : Nat) (pid : Nat) (tag : W32)
  | stream (n : Nat)
deriving DecidableEq, Repr

/-- A registered wait (R187). -/
structure WaitReg where
  ev : Nat
  target : W64
  who : Waiter
deriving DecidableEq, Repr

/-- Event units (spec/06). -/
structure Evu where
  evs : Tab Ev := []
  waits : List WaitReg := []
  retry : List WaitReg := []
  sel : Tab (BitVec 15) := []
  regress : Tab W64 := []
  deadlock : Tab W32 := []
  caught : List (Nat × Nat × W64) := []
deriving DecidableEq, Repr

/-! ### Sequencers (spec/07, spec/10) -/

/-- One version of a program (R191, R194): number, code words, records as their sixteen words. -/
structure Version where
  num : Nat
  code : List W64
  recs : List (List W32)
deriving DecidableEq, Repr

/-- A program (R193-R196). `retiring`: it is RETIRING, by the PROG_RETIRE of a number or, without one, by the end of its slot. -/
structure Prog where
  slot : Nat
  entry : Nat
  current : Nat
  versions : List Version
  retiring : Option (Option Nat) := none
deriving DecidableEq, Repr

/-- What a run waits on; `dst` is the S register that a WAIT with a timeout writes. -/
inductive RunWait where
  | none
  | event (handle : W32) (target : W64) (dst : Option Nat)
  | join (mask : Nat)
  | ending
  | dispatch (next : Nat)
  | dispatchFar (next : Nat)
  | kvClose (commit : Bool)
  | kvRoom
  | fault
  | emitRoom
  | remote
deriving DecidableEq, Repr

/-- A run (R197-R204). `ovf` is the overflow indicator, `ovfEnded` what work that has ended set of it, `ovfSeen` the
indicator as BOVF sees it, `work` the kernels of each LCID that have not ended, `toPlace` the members that a DISPATCH has still to place,
`buf` the bytes of an EMIT read so far. -/
structure Run where
  core : Nat
  cls : Nat
  prog : Nat
  ver : Nat
  ctx : Nat
  cgen : W32
  slot : Nat
  q : QRef
  pkt : Pkt
  s : Tab W64 := []
  pc : Nat := 0
  ovf : Bool := false
  ovfEnded : Bool := false
  ovfSeen : Bool := false
  groups : Tab Nat := []
  work : Tab Nat := []
  wait : RunWait := .none
  ahead : Bool := false
  guesses : List (Nat × Bool) := []
  kvWaited : Bool := false
  toPlace : Nat := 0
  buf : List Byte := []
  id : Nat
deriving DecidableEq, Repr

/-- An open KV epoch record (spec/10 R291). -/
structure KvRec where
  half : Nat
  fpa : Nat
  ctx : Nat
  cgen : W32
  epoch : W64
  base : Nat
  slotBytes : Nat
  len : Nat
  tail : Nat
  prior : W64
deriving DecidableEq, Repr

/-- Kernels that a run left behind when it ended (spec/08 R228), of its incarnation and context. -/
structure LeftRun where
  run : Nat
  incarn : Nat
  ctx : Nat
  n : Nat
deriving DecidableEq, Repr

/-- A kernel end on its way to its run (R204). -/
structure EndNote where
  run : Nat
  incarn : Nat
  grp : Nat
  ovf : Bool
  lcid : Nat := 0
deriving DecidableEq, Repr

/-- Programs, runs and KV caches (spec/07, spec/10). -/
structure Seqs where
  ends : List EndNote := []
  progs : Tab (Option Prog) := []
  runs : Tab (Option Run) := []
  incarn : Tab Nat := []
  runSel : BitVec 12 := 0
  progSel : BitVec 11 := 0
  pfIssued : Tab W32 := []
  pfDiscard : Tab W32 := []
  rr : Tab Nat := []
  left : List LeftRun := []
  kv : List KvRec := []
  kvConflict : W32 := 0
  kvWait : W32 := 0
  kvCommits : W64 := 0
  kvRollbacks : W64 := 0
deriving DecidableEq, Repr

/-! ### Fabric and collectives (spec/09) -/

/-- A packet that leaves on a port as flits (R254): those that are here and not yet sent, how many it has in all and how many have been
sent, and, for one in transit, the port and pool whose buffers hold its flits. -/
structure OutPkt where
  port : Nat
  pkt : FabPkt
  flits : List (List Byte) := []
  total : Nat
  sent : Nat := 0
  src : Option (Nat × Nat) := none
deriving DecidableEq, Repr

/-- Where the flits of a packet that comes in go: to this module, out again by a port, or nowhere. -/
inductive RxTo where
  | own
  | port (q : Nat)
  | drop
deriving DecidableEq, Repr

/-- A packet that is coming in on a pool (R254): flits received and in all, and the bytes of one for this module. -/
structure RxPkt where
  dest : RxTo
  total : Nat
  got : Nat
  data : List Byte := []
deriving DecidableEq, Repr

/-- A deficit round robin (R271): the key it stands at, and what each is owed, in flits. -/
structure Drr where
  cur : Nat := 0
  owed : Tab Nat := []
deriving DecidableEq, Repr

/-- A frame that has been sent and is not acknowledged (R252): its FSEQ, its bytes, and the packets with flits in it. -/
structure SentFrame where
  seq : BitVec 16
  bytes : List Byte
  pkts : List FabPkt
deriving DecidableEq, Repr

/-- One port of the fabric, or, as 32 and 33, the link of a Haldip port (R245-R254, R287). `st`: 0 OFF, 1 TRAINING, 2 UP, 3 DOWN, 4 MISWIRED.
`kept` are the frames not acknowledged, `credits` the credits held by pool number 3 vc + phase, `rx` the packets coming in by pool, `freed` the
flits freed and not yet returned as credit, `cur` the packet that each VC is sending, `drr` the round robins of the slots of a frame, `lines` the
symbols each lane carried of the last frame, `badTx` and `badRx` the lanes retired in each direction, `again` that the training under way is
a retrain which traffic waits for, `wired` that it is one of a MISWIRED port. -/
structure Port where
  cfg : BitVec 22 := 0
  st : Nat := 0
  spareTx : Nat := 4
  spareRx : Nat := 4
  lanesOk : BitVec 9 := 0
  flight : BitVec 8 := 0
  peerModule : Nat := 0
  peerPort : Nat := 0
  fecCorr : W64 := 0
  fecUncorr : W32 := 0
  crcErr : W32 := 0
  replay : W32 := 0
  retrain : BitVec 16 := 0
  spared : BitVec 8 := 0
  transit : BitVec 9 := 128
  shareSel : BitVec 6 := 0
  rxNext : BitVec 16 := 0
  nak : Bool := false
  spareReq : Nat := 7
  txNext : BitVec 16 := 0
  kept : List SentFrame := []
  refusedFrame : BitVec 16 := 0
  refusals : Nat := 0
  credits : Tab Nat := []
  rx : Tab (Option RxPkt) := []
  freed : Tab Nat := []
  cur : Tab (Option OutPkt) := []
  drr : Tab Drr := []
  lines : List (List Nat) := []
  badTx : BitVec 9 := 0
  badRx : BitVec 9 := 0
  again : Bool := false
  wired : Bool := false
deriving DecidableEq, Repr

/-- The sending side of a flow (R257-R259). -/
structure FlowTx where
  key : FlowKey
  next : W32 := 0
  port : Nat
  gwPos : Nat := 0
  gwPort : Nat := 0
  inter : Option Nat := none
  coll : Option Nat := none
  marker : Option Nat := none
  held : List FabPkt := []
deriving DecidableEq, Repr

/-- The receiving side of a flow (R258): expected FLOW_SEQ and the packets held for a gap. -/
structure FlowRx where
  key : FlowKey
  expected : W32 := 0
  held : List FabPkt := []
deriving DecidableEq, Repr

/-- Who asked for a fabric access (R254, R267): an instruction, a transfer's element, the check of a transfer's side whose extent is
known to leave every window or not (`outside`), a fetch, a command, a run, an event message; `relay` is a window access of another module passed on to a new host (R62). -/
inductive Asker where
  | ten (t : TenRef) (reg : Nat) (vec : Bool)
  | posted (t : TenRef)
  | xfer (t : TenRef) (descOff : Nat)
  | probe (t : TenRef) (descOff : Nat) (src outside : Bool)
  | fetch (t : TenRef) (l : ILine)
  | cmd (id : Nat)
  | stream (n va op : Nat)
  | run (r : Nat)
  | runSt (r : Nat)
  | lines
  | signal (t : TenRef)
  | remWait (t : TenRef)
  | runSignal (r : Nat)
  | runWait (r : Nat)
  | runEvent (r : Nat)
  | runDisp (r lcid : Nat)
  | relay (f : FabPkt)
deriving DecidableEq, Repr

/-- A request that awaits its answer; `kind` is its KIND, `pc` the PC of the core instruction that made it, `addr` the address
that a fault of it names. -/
structure Outst where
  tag : Nat
  who : Asker
  kind : Nat := 1
  pc : W64 := 0
  addr : W64 := 0
  fpa : Option Nat := none
  ctx : Nat
  cgen : W32
  bgen : BitVec 16
  core : Nat
  dst : Nat
deriving DecidableEq, Repr

/-- The live link keys of one agreement (spec/09 R284-R286, spec/13 R368), for a slot and peer, by KEYIX: the key and salt of
what is sent (`tx`) and of what is received (`rx`), 36 bytes each; `newer` that a newer key for the pair is installed. -/
structure LinkKey where
  slot : Nat
  peer : Nat
  keyix : Nat
  tx : List Byte
  rx : List Byte
  sent : Nat := 0
  high : Nat := 0
  seen : List Nat := []
  newer : Bool := false
  waiting : Bool := false
deriving DecidableEq, Repr

/-- A peer whose identity is verified in this boot (spec/13 R368): its identity key and its serial. -/
structure Peer where
  mid : Nat
  pub : List Byte
  serial : List Byte
deriving DecidableEq, Repr

/-- A key agreement under way (spec/13 R368-R369). `st`: 0 chain, 1 init sent, 2 confirm sent, 3 (responder) resp sent,
4 refused and to be retried. -/
structure Kex where
  slot : Nat
  peer : Nat
  keyix : Nat
  initiator : Bool
  st : Nat
  seed : Nat
  init : List Byte := []
  resp : List Byte := []
  held : List FabPkt := []
deriving DecidableEq, Repr

/-- A collective under way on a stream (R274-R283): the descriptor's fields, the group, what this member contributes in the
form it travels in, the ranks that have announced, the pieces received by rank with their offsets, the ranks in the order in
which what they sent was complete, the ranks sent to, and whether every rank had announced before this member's turn. -/
structure Coll where
  op : Nat
  type : Nat
  red : Nat
  arrival : Bool
  rank : Nat
  root : Nat
  seq : Nat
  count : Nat
  recv : Nat
  rgrid : Nat
  n : Nat
  groupId : Nat
  members : List (Nat × Nat)
  crc : W32
  own : List Byte
  announced : List Nat := []
  contrib : List (Nat × Nat × List Byte) := []
  arrived : List Nat := []
  sentTo : List Nat := []
  wrote : Bool := false
  outs : List (Nat × Nat) := []
  granted : List (Nat × Nat) := []
  told : List (Nat × Nat) := []
  allEarly : Bool := false
deriving DecidableEq, Repr

/-- A collective's messages under way between streams of this module: an announcement, a segment, an abort. -/
inductive CollMsg where
  | announce (stream rank gid sq : Nat) (crc : W32)
  | seg (stream gid sq rank off : Nat) (data : List Byte)
  | abort (stream gid sq status : Nat)
deriving DecidableEq, Repr

/-- What a stream has asked another module for in a turn, at a virtual address: `op` 0 whether it may read an extent, 1 whether it may write it,
2 bytes, 3 to write bytes; the answer's status once it has come, and bytes read. -/
structure FarPart where
  va : Nat
  len : Nat
  op : Nat
  st : Option Nat := none
  data : List Byte := []
deriving DecidableEq, Repr

/-- A collective stream (R273, R288). `st`: 0 OFF, 1 ON, 2 HALTED; `early` are announcements (rank, GROUP_ID, SEQ, CRC)
and `aborts` (GROUP_ID, SEQ, status) that came before the stream's own turn; `ended` is the SEQ of the last collective of each
group that ended here; `far` is what it has asked of other modules in its turn; `posts` are the doorbell's advances that a run or its kernel made: from, to, the run and its
incarnation (spec/03 R84). -/
structure Stream where
  ctx : Nat := 0
  ring : Nat := 0
  log2 : Nat := 0
  door : W32 := 0
  doneEvt : W32 := 0
  st : Nat := 0
  err : BitVec 16 := 0
  count : W64 := 0
  timeout : BitVec 16 := 100
  stopping : Bool := false
  ready : Bool := false
  early : List (Nat × Nat × Nat × W32) := []
  aborts : List (Nat × Nat × Nat) := []
  ended : Tab (Option Nat) := []
  posts : List (W64 × W64 × Nat × Nat) := []
  far : List FarPart := []
  cur : Option Coll := none
deriving DecidableEq, Repr

/-- The fabric: ports, flows, keys, agreements and collectives (spec/09, spec/13). -/
structure Fab where
  ports : Tab Port := []
  tx : List FlowTx := []
  rx : List FlowRx := []
  sent : List OutPkt := []
  refused : List Nat := []
  cutColls : List (Nat × W64) := []
  outst : List Outst := []
  nextTag : Nat := 0
  keys : List LinkKey := []
  kex : List Kex := []
  verified : List Peer := []
  streams : Tab Stream := []
  collMsgs : List CollMsg := []
deriving DecidableEq, Repr

/-! ### Resilience (spec/11) -/

/-- An error log record (R309) with its read mark, the time of its first occurrence, and whether it names a context of
a confidential slot. -/
structure LogRec where
  seq : W32
  cls : Nat
  sev : Nat
  code : Nat
  unitKind : Nat
  unit : Nat
  action : Nat
  slot : Option Nat
  ctx : Option Nat
  half : Nat
  pid : Nat
  cgen : W32
  time : W64
  d0 : W32
  d1 : W32
  d2 : W32
  d3 : W32
  count : Nat
  epoch : W32
  first : Nat
  read : Bool
  conf : Bool
deriving DecidableEq, Repr

/-- A dump in the gleanings (R326): its place among the sixteen of its half, its header, and the copies of the error log and
of the registers it holds (by 4,096 block + offset / 4). -/
structure Dump where
  pos : Nat
  seq : W32
  epoch : W32
  cls : Nat
  sev : Nat
  logSeq : W32
  cnt0 : W64
  cnt1 : W64
  log : Tab (Option LogRec)
  regs : Tab W32
deriving DecidableEq, Repr

/-- Records, reports and recovery (spec/11). -/
structure Res where
  scale : BitVec 2 := 0
  winnow7 : Bool := false
  samples : W32 := 0
  mismatch : W32 := 0
  abandon : W32 := 0
  ceThresh : BitVec 16 := 1000
  rptPort : Bool := false
  failover : Bool := true
  rptDrop : W32 := 0
  log : Tab (Option LogRec) := []
  logHead : BitVec 13 := 0
  logSeq : W32 := 0
  logOver : W32 := 0
  epoch : W32 := 0
  escSheaf : BitVec 8 := 0
  escHalf : BitVec 8 := 0
  escModule : BitVec 8 := 0
  active : Bool := false
  dormantOk : Bool := true
  failovers : BitVec 8 := 0
  takeover : Bool := false
  peerFail : BitVec 15 := 0
  gleanHalf : Bool := false
  gleanSel : BitVec 17 := 0
  logSel : BitVec 13 := 0
  dumps : Tab (List Dump) := []
  dumpSeq : W32 := 0
  fenced : List Nat := []
  sheafDue : List Nat := []
deriving DecidableEq, Repr

/-! ### Power and cooling (spec/12) -/

/-- A hinted phase (R347): kind, delay, duration, halves. -/
structure Phase12 where
  kind : Nat
  delay : Nat
  dur : Nat
  halves : Nat
deriving DecidableEq, Repr

/-- A rail voltage change under way (R339): half, rail, retries made, and what it is for: 0 the voltage after a lower clock,
1 before a higher one (R340), 2 a rail of a thaw (R337). -/
structure Avs where
  half : Nat
  rail : Nat
  tries : Nat
  kind : Nat
deriving DecidableEq, Repr

/-- A FROST entry under way (R335): the half, the POWER_STATE that asked for it, and whether the entry window is known to
have begun. -/
structure Frost where
  half : Nat
  id : Option Nat
  window : Bool := false
deriving DecidableEq, Repr

/-- Power and cooling (spec/12). -/
structure Pwr where
  half0 : Nat := 0
  half1 : Nat := 0
  capUnmet : Bool := false
  lullEn : Bool := true
  lullIdle : BitVec 15 := 100
  limit : W32 := 2400000
  est : W32 := 0
  tel : W32 := 0
  duty : Nat := 0
  cur : BitVec 12 := 2200
  fmax : BitVec 12 := 2200
  memf : BitVec 8 := 16
  thresh : BitVec 8 := 40
  squalls : BitVec 24 := 0
  diverge : Bool := false
  diverges : BitVec 31 := 0
  shiftEn : Bool := false
  shiftLead : BitVec 14 := 0
  shiftRange : BitVec 9 := 30
  offset : Int := 0
  reduction : Nat := 0
  hintKind : BitVec 4 := 3
  hintHalves : Nat := 0
  hintIgnored : BitVec 28 := 0
  dutySum : Nat := 0
  dutyWins : Nat := 0
  quietMs : Nat := 0
  msQuiet : Bool := true
  squall : List Nat := []
  bad : Nat := 0
  good : Nat := 0
  hint : Option Phase12 := none
  dense : BitVec 12 := 2200
  frostFor : List Frost := []
  thawing : List Nat := []
  avs : List Avs := []
  asleep : Bool := false
  thmSel : BitVec 6 := 0
  temps : Tab Int := []
  throttle : BitVec 8 := 95
  crit : BitVec 8 := 105
  hbm2x : Bool := false
  heldReply : List Reply := []
deriving DecidableEq, Repr

/-! ### Security (spec/13) -/

/-- Security: what is fused, stored, retained and in the key store (spec/13 R355, R362, R363, R371). `rmaFuse` is the RMA fuse, which
ENTER_RMA sets. -/
structure Sec where
  lc : Nat := 1
  epoch : W32 := 0
  serial : BitVec 128 := 0
  updCnt : W32 := 0
  fwVer : W32 := 0
  fwDigest : List Byte := []
  fwFloor : W32 := 0
  owner : Option (List Byte) := none
  cert : Option (List Byte) := none
  vendor : List (List Byte) := []
  revoked : BitVec 8 := 0
  mus : Bool := true
  rmaFuse : Bool := false
  next : Nat := 0
  cur : Nat := 0
  lim : Nat := 0
  attGen : W32 := 0
  attUsed : Nat := 0
  attCert : List Byte := []
  trngOk : Bool := true
  trngFails : BitVec 31 := 0
  kexCnt : W32 := 0
  kexFail : W32 := 0
  feedSeq : W32 := 0
  feedStored : W32 := 0
  feedKey : Option (List Byte) := none
  feedOut : List Byte := []
  pairDue : Bool := true
  storeFails : Bool := false
deriving DecidableEq, Repr

/-! ### The weighbridge (spec/14) -/

/-- A second record (R378). -/
structure SecRec where
  secNo : W64
  energy : Nat
  vMin : Nat
  vMax : Nat
  pPeak : Nat
  flags : BitVec 16
  feedSeq : W32
deriving DecidableEq, Repr

/-- A feed frame's contents as accepted (R374). -/
structure FeedFrame where
  seq : W32
  aMod : Nat
  slots : List (Nat × Nat × List Nat)
deriving DecidableEq, Repr

/-- An audit entry (R383): kind 1 firmware, 2 authority, 3 pairing, 4 INDEX_SKIP, 5 SEAL_BROKEN, 6 EXTEST. -/
structure Audit where
  num : Nat
  kind : Nat
  blockNo : W32
  detail : List Byte
  signature : List Byte
deriving DecidableEq, Repr

/-- The mirror registers of block WGB (R385). -/
structure Mirror where
  present : Bool := false
  sealOk : Bool := false
  paired : Bool := false
  feedOk : Bool := false
  auditFull : Bool := false
  power : W32 := 0
  energy : W64 := 0
  secNo : W64 := 0
  blockNo : W32 := 0
  fwChanges : BitVec 16 := 0
  pairings : BitVec 16 := 0
  vMin : BitVec 16 := 0
  vMax : BitVec 16 := 0
  feedRej : W32 := 0
  attr : List (Nat × Nat × Nat) := []
  attrSel : BitVec 7 := 0
deriving DecidableEq, Repr

/-- The weighbridge: attribution entries are (PID, PGEN, energy), the module's own first as PID 0; `chain` is CHAIN_IN of the
open block, `recs` its records, `blockNo` its number; `frameAge` counts the seconds since `frame` was accepted, 0 in its
own; `oldest` is the oldest block kept, `signedNo` the newest that was signed. -/
structure Wb where
  serial : List Byte := []
  power : Bool := true
  paired : Option (List Byte) := none
  feedKey : Option (List Byte) := none
  lastFeed : W32 := 0
  frame : Option FeedFrame := none
  frameAge : Nat := 0
  rejected : Bool := false
  feedRej : W32 := 0
  feedOk : Bool := false
  gap : Bool := false
  secNo : W64 := 0
  recs : List SecRec := []
  lastRec : Option SecRec := none
  attr : List (Nat × Nat × Nat) := []
  attrOvf : Bool := false
  chain : Option (List Byte) := none
  blockNo : Nat := 0
  blocks : Tab (List Byte) := []
  oldest : Nat := 0
  signedNo : Nat := 0
  lastAttr : List (Nat × Nat × Nat) := []
  total : Nat := 0
  fwVersion : W32 := 0
  fwNext : Option W32 := none
  fwChanges : Nat := 0
  pairings : Nat := 0
  audit : List Audit := []
  sigNext : Nat := 0
  sigLim : Nat := 0
  staged : Tab Byte := []
  stagedLen : Nat := 0
  message : List Byte := []
  authority : List Byte := []
  metCert : List Byte := []
  sealBroken : Bool := false
  tapIr : Nat := 1
  tapMute : Bool := false
  tapCells : Nat := 0
  reply : List Byte := []
  mirror : Mirror := {}
deriving DecidableEq, Repr

/-! ### The TAP (spec/16 R413-R415) -/

/-- One die's TAP: instruction register, refused bit, boundary cells, and whether they drive the pins. -/
structure Die where
  ir : Nat := 1
  refused : Bool := false
  cells : Nat := 0
  pins : Bool := false
deriving DecidableEq, Repr

/-- The TAPs of the dies, REGACCESS's value and result, and what was last shifted out. -/
structure Tap where
  dies : Tab Die := []
  value : W32 := 0
  result : Nat := 0
  shift : Nat := 0
deriving DecidableEq, Repr

/-! ### The whole -/

/-- The state of the module: the commands that wait, first in, first out, and everything else. -/
structure State where
  pending : List Instr := []
  fresh : Nat := 0
  dev : Dev := {}
  lck : Lck := {}
  units : Units := {}
  tens : List Ten := []
  rem : List RemAcc := []
  mem : Mem := {}
  xlt : Xlt := {}
  part : Part := {}
  fe : Fe := {}
  ev : Evu := {}
  seq : Seqs := {}
  fab : Fab := {}
  res : Res := {}
  pwr : Pwr := {}
  sec : Sec := {}
  wb : Wb := {}
  tap : Tap := {}
deriving DecidableEq, Repr

/-- The module right after reset: every field at the value its declaration gives, which is the spec's reset value where
the spec has one and the value notes/assumptions/4.md names where it has none. -/
def State.reset : State := {}

/-- Why the machine stops with a fault: no rule of the spec stops the module without a state it goes on from, so there is
no such reason. Safe. -/
inductive Fault where
deriving DecidableEq, Repr

/-- Why a command has no meaning. -/
inductive Refusal where
  /-- An arm of exec that is not written yet. Safe. -/
  | notModelled (mnemonic : String)
deriving DecidableEq, Repr

end Sys2Proof.Machine
end

