-- ==== Sys2Proof/Machine/Ops.lean ====
section
/-! DEFINITION. The named operations every command is written with: sparse tables, bit fields and byte order, the
CRC-32C of packets, unit geometry, access to the parts of `State` by number, counters, and free values. -/
namespace Sys2Proof.Machine

/-! ### Sparse tables -/

/-- What a table holds at key `k`; `d` says what an unlisted key reads as. -/
def tabGet {α : Type} (d : Nat → α) : Tab α → Nat → α
  | [], k => d k
  | (j, a) :: t, k => if k < j then d k else if k = j then a else tabGet d t k

/-- A table without its leading keys up to `k`. -/
def tabSkip {α : Type} : Tab α → Nat → Tab α
  | [], _ => []
  | (j, a) :: t, k => if j ≤ k then tabSkip t k else (j, a) :: t

/-- The table with `v` at key `k`; writing what an unlisted key reads as removes the entry. -/
def tabSet {α : Type} [DecidableEq α] (d : Nat → α) : Tab α → Nat → α → Tab α
  | [], k, v => if v = d k then [] else [(k, v)]
  | (j, a) :: t, k, v =>
    if k < j then (if v = d k then (j, a) :: t else (k, v) :: (j, a) :: t)
    else if k = j then (if v = d k then tabSkip t k else (k, v) :: t)
    else (j, a) :: tabSet d t k v

/-- The canonical form: keys strictly rising from `lo`, no entry equal to what an unlisted key reads as. -/
def tabWfFrom {α : Type} [DecidableEq α] (d : Nat → α) : Nat → Tab α → Bool
  | _, [] => true
  | lo, (j, a) :: t => decide (lo ≤ j) && decide (a ≠ d j) && tabWfFrom d (j + 1) t

/-- The canonical form of a table. -/
def tabWf {α : Type} [DecidableEq α] (d : Nat → α) (t : Tab α) : Bool := tabWfFrom d 0 t

/-- Several writes, first to last. -/
def tabSetAll {α : Type} [DecidableEq α] (d : Nat → α) (t : Tab α) (l : List (Nat × α)) : Tab α :=
  l.foldl (fun t e => tabSet d t e.1 e.2) t

/-- The table with the keys from `a` on, `n` of them, unlisted. -/
def tabClear {α : Type} (t : Tab α) (a n : Nat) : Tab α :=
  t.filter (fun e => decide (e.1 < a) || decide (a + n ≤ e.1))

/-! ### Bits, bytes, words -/

/-- The field of `n` bits of `x` from bit `lo` on. -/
def fld (x lo n : Nat) : Nat := x / 2 ^ lo % 2 ^ n

/-- Bit `i` of `x`. -/
def bitAt (x i : Nat) : Bool := x / 2 ^ i % 2 == 1

/-- 1 for true. -/
def b2n (b : Bool) : Nat := if b then 1 else 0

/-- The signed value of the low `n` bits of `x` (two's complement). -/
def sgn (n x : Nat) : Int :=
  let y := x % 2 ^ n
  if 2 * y < 2 ^ n then (y : Int) else (y : Int) - 2 ^ n

/-- The low `n` bits of an integer. -/
def lowBits (n : Nat) (x : Int) : Nat := (x % 2 ^ n).toNat

/-- `n` bytes of `x`, least significant first (R4). -/
def leBytes : Nat → Nat → List Byte
  | 0, _ => []
  | n + 1, x => BitVec.ofNat 8 x :: leBytes n (x / 256)

/-- The number that bytes spell, least significant first (R4). -/
def ofLE : List Byte → Nat
  | [] => 0
  | b :: t => b.toNat + 256 * ofLE t

/-- `n` bytes at offset `o` of a byte string, zero past its end. -/
def sliceZ (l : List Byte) (o n : Nat) : List Byte :=
  let t := (l.drop o).take n
  t ++ List.replicate (n - t.length) 0

/-- The `n`-byte number at offset `o` of a byte string. -/
def numAt (l : List Byte) (o n : Nat) : Nat := ofLE (sliceZ l o n)

/-- The bytes of a list of 32-bit words. -/
def wordBytes (ws : List W32) : List Byte := ws.flatMap (fun w => leBytes 4 w.toNat)

/-- The set bits of a map of `n` bits given as bytes (R12). -/
def mapBits (l : List Byte) (n : Nat) : List Nat :=
  (List.range n).filter (fun i => bitAt (numAt l (i / 8) 1) (i % 8))

/-- A map of `n` bytes with the listed bits set. -/
def bitsMap (l : List Nat) (n : Nat) : List Byte :=
  (List.range n).map (fun j => BitVec.ofNat 8 (((List.range 8).map (fun i => if l.contains (8 * j + i) then 2 ^ i else 0)).sum))

/-- One more, stopping at the largest 32-bit value. -/
def sat32 (w : W32) : W32 := if w = 0xFFFFFFFF then w else w + 1

/-- One more, stopping at the largest 64-bit value. -/
def sat64 (w : W64) : W64 := if w = 0xFFFFFFFFFFFFFFFF then w else w + 1

/-- One more, stopping at the largest 8-bit value. -/
def sat8 (w : BitVec 8) : BitVec 8 := if w = 0xFF then w else w + 1

/-- One more, stopping at the largest 16-bit value. -/
def sat16 (w : BitVec 16) : BitVec 16 := if w = 0xFFFF then w else w + 1

/-- `l` with element `i` replaced. -/
def listSet {α : Type} : List α → Nat → α → List α
  | [], _, _ => []
  | _ :: t, 0, v => v :: t
  | a :: t, i + 1, v => a :: listSet t i v

/-- `x` split in pieces of at most `n`. -/
def ceilDiv (x n : Nat) : Nat := (x + n - 1) / n

/-! ### CRC-32C (R158) -/

/-- One bit of the reflected Castagnoli division. -/
def crcBit (c : W32) : W32 := if c.toNat % 2 = 1 then (c >>> 1) ^^^ 0x82F63B78 else c >>> 1

/-- One byte. -/
def crcByte (c : W32) (b : Byte) : W32 :=
  crcBit (crcBit (crcBit (crcBit (crcBit (crcBit (crcBit (crcBit (c ^^^ b.setWidth 32))))))))

/-- CRC-32C: initial value and final exclusive-or all ones. -/
def crc32c (l : List Byte) : W32 := l.foldl crcByte 0xFFFFFFFF ^^^ 0xFFFFFFFF

/-! ### Geometry (R10-R15, R27) -/

/-- The core ordinal a core ID names, none where its sheaf ID is not assigned (R11). -/
def coreOfId (id : Nat) : Option Nat :=
  let sh := id / 16 % 64
  let half := sh / 32
  let row := sh / 8 % 4
  let col := sh % 8
  if row < 3 && col < 6 then some (16 * (18 * half + 6 * row + col) + id % 16) else none

/-- The core ID of a core ordinal (R11). -/
def idOfCore (c : Nat) : Nat :=
  let m := c / 16
  (m / 18 * 32 + m % 18 / 6 * 8 + m % 6) * 16 + c % 16

def sheafOfCore (c : Nat) : Nat := c / 16
def halfOfCore (c : Nat) : Nat := c / 288
def halfOfSheaf (m : Nat) : Nat := m / 18
def halfOfChan (n : Nat) : Nat := n / 96
def halfOfPort (q : Nat) : Nat := q / 16
def halfOfEvent (e : Nat) : Nat := e / 32768

/-- Row and column of a sheaf in its half (R11). -/
def sheafRow (m : Nat) : Nat := m % 18 / 6
def sheafCol (m : Nat) : Nat := m % 6

/-- The distance of two numbers. -/
def natDist (a b : Nat) : Nat := (a - b) + (b - a)

/-- Mesh hops and seam crossing from a sheaf to a channel (R27). -/
def hopsTo (m n : Nat) : Nat × Nat :=
  let st := n / 16
  let k := n % 16
  let chRow := if st % 6 / 3 = 0 then 0 else 2
  let chCol := 2 * (st % 3) + k / 8
  if halfOfSheaf m = st / 6 then (natDist (sheafCol m) chCol + natDist (sheafRow m) chRow + 1, 0)
  else ((5 - sheafCol m) + (5 - chCol) + natDist (sheafRow m) chRow + 1, 1)

/-- DEV_DIST_DATA of an in-service channel (R27, R28): HOPS, SEAM, LAT in 0.1 ns rounded half up, SHARE. -/
def distWord (m n : Nat) : Nat :=
  let (h, sm) := hopsTo m n
  -- the latency in units of 1/44 ns: 95 ns = 4180, a hop's round trip 2 * 4 / 2.2 ns = 160, a seam's 7.5 ns + 160 * 2
  let l44 := 4180 + 160 * h + sm * (330 + 320)
  let lat := (l44 * 20 + 44) / 88
  let share := min 255 (256 * 8192 * 440 / (768 * l44))
  h + sm * 2 ^ 8 + lat * 2 ^ 12 + share * 2 ^ 24

/-! ### Parts of the state by number -/

def getSlot (s : State) (i : Nat) : Slot := tabGet (fun _ => {}) s.part.slots i
def setSlot (s : State) (i : Nat) (x : Slot) : State :=
  { s with part := { s.part with slots := tabSet (fun _ => {}) s.part.slots i x } }
def getCtx (s : State) (i : Nat) : Ctx := tabGet (fun _ => {}) s.part.ctxs i
def setCtx (s : State) (i : Nat) (x : Ctx) : State :=
  { s with part := { s.part with ctxs := tabSet (fun _ => {}) s.part.ctxs i x } }
def getQp (s : State) (i : Nat) : Qp := tabGet (fun _ => {}) s.fe.qps i
def setQp (s : State) (i : Nat) (x : Qp) : State :=
  { s with fe := { s.fe with qps := tabSet (fun _ => {}) s.fe.qps i x } }
def getFe (s : State) (i : Nat) : PortFe := tabGet (fun _ => {}) s.fe.ports i
def setFe (s : State) (i : Nat) (x : PortFe) : State :=
  { s with fe := { s.fe with ports := tabSet (fun _ => {}) s.fe.ports i x } }
def getEv (s : State) (i : Nat) : Ev := tabGet (fun _ => {}) s.ev.evs i
def setEv (s : State) (i : Nat) (x : Ev) : State :=
  { s with ev := { s.ev with evs := tabSet (fun _ => {}) s.ev.evs i x } }
def getCore (s : State) (i : Nat) : CoreSt := tabGet (fun _ => {}) s.units.cores i
def setCore (s : State) (i : Nat) (x : CoreSt) : State :=
  { s with units := { s.units with cores := tabSet (fun _ => {}) s.units.cores i x } }
def getChan (s : State) (i : Nat) : Chan := tabGet (fun _ => {}) s.mem.chans i
def setChan (s : State) (i : Nat) (x : Chan) : State :=
  { s with mem := { s.mem with chans := tabSet (fun _ => {}) s.mem.chans i x } }
def getPort (s : State) (i : Nat) : Port := tabGet (fun _ => {}) s.fab.ports i
def setPort (s : State) (i : Nat) (x : Port) : State :=
  { s with fab := { s.fab with ports := tabSet (fun _ => {}) s.fab.ports i x } }
def getStream (s : State) (i : Nat) : Stream := tabGet (fun _ => {}) s.fab.streams i
def setStream (s : State) (i : Nat) (x : Stream) : State :=
  { s with fab := { s.fab with streams := tabSet (fun _ => {}) s.fab.streams i x } }
def getRun (s : State) (i : Nat) : Option Run := tabGet (fun _ => none) s.seq.runs i
def setRun (s : State) (i : Nat) (x : Option Run) : State :=
  { s with seq := { s.seq with runs := tabSet (fun _ => none) s.seq.runs i x } }
def getProg (s : State) (i : Nat) : Option Prog := tabGet (fun _ => none) s.seq.progs i
def setProg (s : State) (i : Nat) (x : Option Prog) : State :=
  { s with seq := { s.seq with progs := tabSet (fun _ => none) s.seq.progs i x } }
def getPath (s : State) (i : Nat) : PathSt := tabGet (fun _ => {}) s.lck.paths i
def setPath (s : State) (i : Nat) (x : PathSt) : State :=
  { s with lck := { s.lck with paths := tabSet (fun _ => {}) s.lck.paths i x } }

/-- One die's TAP (spec/16 R413). -/
def getDie (s : State) (d : Nat) : Die := tabGet (fun _ => {}) s.tap.dies d
def setDie (s : State) (d : Nat) (x : Die) : State :=
  { s with tap := { s.tap with dies := tabSet (fun _ => {}) s.tap.dies d x } }

/-- Whether Half 0's boundary cells have the sideband's pins, which then answers nothing (spec/16 R415). -/
def sideMuted (s : State) : Bool := (getDie s 0).pins

/-- The tenancy of a pair (R103). -/
def findTen (s : State) (t : TenRef) : Option Ten := s.tens.find? (fun x => x.lcid == t.lcid && x.ctx == t.ctx)

/-- The tenancy of the pair of `x` replaced by `x`. -/
def setTen (s : State) (x : Ten) : State :=
  { s with tens := s.tens.map (fun y => if y.lcid == x.lcid && y.ctx == x.ctx then x else y) }

/-- The tenancy of a pair removed. -/
def dropTen (s : State) (t : TenRef) : State :=
  { s with tens := s.tens.filter (fun y => !(y.lcid == t.lcid && y.ctx == t.ctx)) }

/-- The pair of a tenancy. -/
def refOf (x : Ten) : TenRef := { lcid := x.lcid, ctx := x.ctx }

/-- A command begun, by its number. -/
def findBegun (s : State) (id : Nat) : Option Begun := s.fe.begun.find? (fun b => b.id == id)

/-- A command begun, replaced. -/
def setBegun (s : State) (b : Begun) : State :=
  { s with fe := { s.fe with begun := s.fe.begun.map (fun c => if c.id == b.id then b else c) } }

/-- A command begun, removed. -/
def dropBegun (s : State) (id : Nat) : State :=
  { s with fe := { s.fe with begun := s.fe.begun.filter (fun c => !(c.id == id)) } }

/-- The next free value and the state after it was taken (notes/assumptions/5.md). -/
def takeFree (s : State) : W64 × State := (Config.freeValue s.fresh, { s with fresh := s.fresh + 1 })

/-- The number of the next free value, for values longer than 64 bits that the model names by number. -/
def takeNum (s : State) : Nat × State := (s.fresh, { s with fresh := s.fresh + 1 })

/-- The free-running counter of a half (R32). -/
def cntOf (s : State) (half : Nat) : W64 := if half = 0 then s.dev.cnt0 else s.dev.cnt1

/-- This module's ID. -/
def ownModule (s : State) : Nat := s.dev.fabId.toNat

/-- Power state of a half (spec/12 R329, R353): 0 ACTIVE, 1 LULL, 2 FROST, 3 in between or stopped. -/
def halfPwr (s : State) (h : Nat) : Nat := if h = 0 then s.pwr.half0 else s.pwr.half1

/-- A half put in a power state. -/
def setHalfPwr (s : State) (h x : Nat) : State :=
  if h = 0 then { s with pwr := { s.pwr with half0 := x } } else { s with pwr := { s.pwr with half1 := x } }

/-- A half in LULL that is needed is ACTIVE again (spec/12 R330). -/
def lullWake (s : State) (h : Nat) : State := if halfPwr s h = 1 then setHalfPwr s h 0 else s

/-- Whether a half serves nothing: in FROST or STOPPED, or fenced (spec/12 R332, spec/11 R325). -/
def halfOff (s : State) (h : Nat) : Bool := decide (2 ≤ halfPwr s h) || s.res.fenced.contains h

/-- The slot a PID is held by (R34). -/
def slotOfPid (s : State) (pid : Nat) : Option Nat :=
  if pid = 0 then none
  else (s.part.slots.find? (fun e => decide (e.2.st ≠ 0) && (e.2.brec.pid == pid))).map (·.1)

/-- The PID of a context's slot. -/
def pidOfCtx (s : State) (ctx : Nat) : Nat := (getSlot s (getCtx s ctx).slot).brec.pid

/-- The class of R303's reservation: cores and channels reserved. -/
def coresReserved (c : Nat) : Nat := if c = 3 then 64 else if c = 2 then 48 else 32
def chansReserved (c : Nat) : Nat := if c = 3 then 12 else if c = 2 then 6 else 0

/-! ### Units (R63) -/

/-- The key of a unit in `Units.marks` and `Units.bgen`. -/
def unitKey (u : UnitRef) : Nat := u.kind * 1024 + u.idx

/-- Whether the part has such a unit. -/
def unitExists (u : UnitRef) : Bool :=
  match u.kind with
  | 0 => decide (u.idx < 576)
  | 1 => decide (u.idx < 36)
  | 2 => decide (u.idx < 192)
  | 4 => decide (u.idx < 32)
  | 6 => decide (u.idx < 2)
  | 7 => decide (u.idx < 16)
  | 8 => decide (u.idx < 2)
  | 12 => decide (u.idx < 2)
  | _ => false

/-- The half a unit is in. -/
def halfOfUnit (u : UnitRef) : Nat :=
  match u.kind with
  | 0 => halfOfCore u.idx
  | 1 => halfOfSheaf u.idx
  | 2 => halfOfChan u.idx
  | 4 => halfOfPort u.idx
  | 7 => u.idx / 8
  | 13 => 0
  | _ => u.idx

/-- State of a unit. -/
def unitSt (s : State) (u : UnitRef) : UnitSt := tabGet (fun _ => s.units.base) s.units.marks (unitKey u)

/-- A unit put in a state. -/
def setUnit (s : State) (u : UnitRef) (x : UnitSt) : State :=
  { s with units := { s.units with marks := tabSet (fun _ => s.units.base) s.units.marks (unitKey u) x } }

/-- The binding generation of a unit (R63). -/
def unitGen (s : State) (u : UnitRef) : BitVec 16 := tabGet (fun _ => s.units.bgenBase) s.units.bgen (unitKey u)

/-- A unit enters READY: its binding generation advances (R63). -/
def unitReady (s : State) (u : UnitRef) : State :=
  let s := setUnit s u .ready
  { s with units := { s.units with
      bgen := tabSet (fun _ => s.units.bgenBase) s.units.bgen (unitKey u) (unitGen s u + 1),
      out := s.units.out.filter (fun v => !(v == u)) } }

def coreReady (s : State) (c : Nat) : Bool := unitSt s ⟨0, c⟩ == .ready
def chanReady (s : State) (n : Nat) : Bool := unitSt s ⟨2, n⟩ == .ready

/-- The slot that holds a core (R35). -/
def holderOfCore (s : State) (c : Nat) : Option Nat :=
  (s.part.slots.find? (fun e => e.2.brec.cores.contains c)).map (·.1)

/-- The slot that holds a channel (R35). -/
def holderOfChan (s : State) (n : Nat) : Option Nat :=
  (s.part.slots.find? (fun e => e.2.brec.chans.contains n)).map (·.1)

/-- Cores and channels held by slots (R304). -/
def coresHeld (s : State) : Nat := (s.part.slots.map (fun e => e.2.brec.cores.length)).sum
def chansHeld (s : State) : Nat := (s.part.slots.map (fun e => e.2.brec.chans.length)).sum

/-- Whether a unit is bound to a slot or serves one (R327). -/
def unitHeld (s : State) (u : UnitRef) : Bool :=
  match u.kind with
  | 0 => (holderOfCore s u.idx).isSome
  | 1 => (List.range 16).any (fun i => (holderOfCore s (16 * u.idx + i)).isSome)
  | 2 => (holderOfChan s u.idx).isSome
  | 4 => s.part.slots.any (fun e => decide (tabGet (fun _ => 0) e.2.brec.share u.idx ≠ 0))
  | _ => false

/-- READY cores and channels held by no slot (R304). -/
def spareCores (s : State) : List Nat :=
  (List.range 576).filter (fun c => coreReady s c && (holderOfCore s c).isNone)
def spareChans (s : State) : List Nat :=
  (List.range 192).filter (fun n => chanReady s n && (holderOfChan s n).isNone)

/-! ### Logical cores (R37, R38, R417) -/

/-- The module that hosts an LCID of a slot's partition: none when the LCID is out of range or nothing is bound yet. -/
def hostOf (sl : Slot) (lcid : Nat) : Option Nat :=
  if !sl.bound || decide (sl.brec.lcount ≤ lcid) then none
  else (sl.rtab.filter (fun e => decide (e.first ≤ lcid))).getLast?.map (·.mid)

/-- The local-map entry of an LCID. -/
def lmapOf (sl : Slot) (lcid : Nat) : Option LEnt := sl.lmap.find? (fun e => e.lcid == lcid)

/-- Whether an LCID is being moved or held. -/
def movingOf (s : State) (slot lcid : Nat) : Option Moving :=
  s.part.moving.find? (fun m => m.slot == slot && m.lcid == lcid)

def setMoving (s : State) (m : Moving) : State :=
  { s with part := { s.part with moving := s.part.moving.map (fun x => if x.slot == m.slot && x.lcid == m.lcid then m else x) } }

def dropMoving (s : State) (slot lcid : Nat) : State :=
  { s with part := { s.part with moving := s.part.moving.filter (fun x => !(x.slot == slot && x.lcid == lcid)) } }

/-- Whether traffic for an LCID is held until its flush marker has arrived (R62). -/
def flushHeld (s : State) (slot lcid : Nat) : Bool := s.part.flushes.any (fun f => f.slot == slot && f.lcid == lcid)

/-! ### Chaff (R47, R48) -/

def addChaff (s : State) (slot : Nat) : State :=
  let x := getSlot s slot
  setSlot s slot { x with chaff := sat64 x.chaff }

def addOrphan (s : State) : State := { s with part := { s.part with orphan := sat64 s.part.orphan } }

end Sys2Proof.Machine
end

