-- ==== Sys2Proof/Machine/Report.lean ====
section
/-! DEFINITION. Reports: the error log (spec/11 R309, R421), FAULT_REPORT and ERROR_REPORT on the report port (R308),
fault records (spec/08 R234, R420), and a context's loss (spec/02 R43). -/
namespace Sys2Proof.Machine

/-! ### Records as bytes -/

/-- The first fifteen words of a log record; `hide` gives the copy with CTX, CGEN and DETAIL as zero (R309). -/
def logWords (r : LogRec) (hide : Bool) : List W32 :=
  let h := hide && r.conf
  let o : Option Nat → Nat := fun x => x.getD 0
  [ r.seq,
    BitVec.ofNat 32 (r.cls + r.sev * 2 ^ 8 + r.code * 2 ^ 16),
    BitVec.ofNat 32 (r.unitKind + r.unit % 4096 * 2 ^ 4 + r.action * 2 ^ 16),
    BitVec.ofNat 32 (o r.slot + (if h then 0 else o r.ctx) * 2 ^ 6 + b2n r.slot.isSome * 2 ^ 16
      + b2n r.ctx.isSome * 2 ^ 17 + r.half * 2 ^ 18),
    BitVec.ofNat 32 r.pid,
    if h then 0 else r.cgen,
    r.time.setWidth 32, (r.time >>> 32).setWidth 32,
    if h then 0 else r.d0, if h then 0 else r.d1, if h then 0 else r.d2, if h then 0 else r.d3,
    BitVec.ofNat 32 r.count, r.epoch, 0 ]

/-- The 64 bytes of a log record: every copy carries the CRC of its own words (R309). -/
def logBytes (r : LogRec) (hide : Bool) : List Byte :=
  let b := wordBytes (logWords r hide)
  b ++ leBytes 4 (crc32c b).toNat

/-- The 64 bytes of a fault record (R234). -/
def faultBytes (f : FaultRec) : List Byte :=
  wordBytes
    [ BitVec.ofNat 32 (f.cause + f.kind * 2 ^ 8 + f.source * 2 ^ 10 + b2n f.write * 2 ^ 13 + b2n f.srcSide * 2 ^ 14
        + f.entry * 2 ^ 16),
      BitVec.ofNat 32 (f.ctx + f.slot * 2 ^ 10), f.cgen, BitVec.ofNat 32 f.pid,
      f.addr.setWidth 32, (f.addr >>> 32).setWidth 32, f.wher.setWidth 32, (f.wher >>> 32).setWidth 32,
      BitVec.ofNat 32 f.lcid, BitVec.ofNat 32 f.half, f.detail.setWidth 32, (f.detail >>> 32).setWidth 32,
      f.time.setWidth 32, (f.time >>> 32).setWidth 32, 0, 0 ]

/-! ### The report port (R308) -/

/-- The port a report can go to now: RES_RPT.PORT, or the other while that is DOWN and FAILOVER is set. -/
def reportPort (s : State) : Option Nat :=
  let p := b2n s.res.rptPort
  if (getFe s p).up then some p
  else if s.res.failover && (getFe s (1 - p)).up then some (1 - p)
  else none

/-- Whether a report of this port's buffer has room: 256 reports. -/
def reportRoom (s : State) (p : Nat) : Bool := decide ((getFe s p).reports.length < 256)

/-- A report joins its port's buffer, waits for room, or, for an ERROR_REPORT of severity 0, is dropped and counted. -/
def queueReport (s : State) (r : Reply) (note : Bool) : State :=
  match reportPort s with
  | some p =>
    if reportRoom s p && s.fe.heldReports.isEmpty then
      let x := getFe s p
      setFe s p { x with reports := x.reports ++ [r] }
    else if note then { s with res := { s.res with rptDrop := sat32 s.res.rptDrop } }
    else { s with fe := { s.fe with heldReports := s.fe.heldReports ++ [r] } }
  | none =>
    if note then { s with res := { s.res with rptDrop := sat32 s.res.rptDrop } }
    else { s with fe := { s.fe with heldReports := s.fe.heldReports ++ [r] } }

/-- Reports that wait for room take the room there is, oldest first; `n` bounds how many. -/
def drainReports : Nat → State → State
  | 0, s => s
  | n + 1, s =>
    match s.fe.heldReports, reportPort s with
    | r :: t, some p =>
      if reportRoom s p then
        let x := getFe s p
        drainReports n
          { setFe s p { x with reports := x.reports ++ [r] } with
            fe := { (setFe s p { x with reports := x.reports ++ [r] }).fe with heldReports := t } }
      else s
    | _, _ => s

/-- Every report that waits for room and finds it. -/
def drainAll (s : State) : State := drainReports s.fe.heldReports.length s

/-! ### The error log (R309) -/

/-- What a fault reports; `detail` is the 128 bits of DETAIL. `half` is the half whose counter dates the record (spec/01 R33): the unit's, and
Half 0 for a fault of the module as a whole, which no half is said to have written (DESIGN CHOICE, notes/assumptions/8.md). -/
structure Note where
  cls : Nat
  sev : Nat
  code : Nat := 0
  unitKind : Nat := 13
  unit : Nat := 0
  action : Nat := 0
  slot : Option Nat := none
  ctx : Option Nat := none
  half : Nat := 0
  detail : Nat := 0
deriving DecidableEq, Repr

/-- One second in control-network cycles (R309, spec/01 R32). -/
def oneSecond : Nat := 2000000000

/-- Where a repeat of a severity-0 fault is coalesced: the record that holds its first occurrence, within 1 s. -/
def coalesceAt (s : State) (n : Note) : Option (Nat × LogRec) :=
  if n.sev ≠ 0 then none
  else s.res.log.findSome? (fun e =>
    match e.2 with
    | some r =>
      if r.sev = 0 ∧ r.cls = n.cls ∧ r.unitKind = n.unitKind ∧ r.unit = n.unit ∧ r.code = n.code
          ∧ s.dev.now - r.first ≤ oneSecond then some (e.1, r) else none
    | none => none)

/-- SEQ of the next record: 0 for the first after a loss of power (R310). -/
def nextLogSeq (s : State) : W32 := if s.res.log.isEmpty then 0 else s.res.logSeq + 1

/-- The record a fault writes. -/
def mkLogRec (s : State) (n : Note) : LogRec :=
  let pid := match n.slot with
    | some i => (getSlot s i).brec.pid
    | none => 0
  let conf := match n.ctx, n.slot with
    | some _, some i => (getSlot s i).brec.conf
    | _, _ => false
  { seq := nextLogSeq s, cls := n.cls, sev := n.sev, code := n.code, unitKind := n.unitKind, unit := n.unit,
    action := n.action, slot := n.slot, ctx := n.ctx, half := n.half, pid := pid,
    cgen := (match n.ctx with | some c => (getCtx s c).gen | none => 0),
    time := cntOf s n.half, d0 := BitVec.ofNat 32 n.detail, d1 := BitVec.ofNat 32 (n.detail / 2 ^ 32),
    d2 := BitVec.ofNat 32 (n.detail / 2 ^ 64), d3 := BitVec.ofNat 32 (n.detail / 2 ^ 96),
    count := 1, epoch := s.res.epoch, first := s.dev.now, read := false, conf := conf }

/-- The ERROR_REPORT of a record: payload the record, SEQ its log SEQ (R308). -/
def errorReport (r : LogRec) : Reply := { opcode := 0xF2, seq := r.seq, payload := logBytes r false }

/-- A fault is reported: coalesced into its record, or written as a new one and sent (R308, R309). -/
def logNote (n : Note) (s : State) : State :=
  match coalesceAt s n with
  | some (i, r) =>
    let r := { r with count := min 65535 (r.count + 1) }
    { s with res := { s.res with log := tabSet (fun _ => none) s.res.log i (some r) } }
  | none =>
    let r := mkLogRec s n
    let i := s.res.logHead.toNat
    let full := match tabGet (fun _ => none) s.res.log i with
      | some old => !old.read
      | none => false
    let s := { s with res := { s.res with
        log := tabSet (fun _ => none) s.res.log i (some r), logHead := s.res.logHead + 1, logSeq := r.seq,
        logOver := if full then sat32 s.res.logOver else s.res.logOver } }
    queueReport s (errorReport r) (decide (n.sev = 0))

/-- A log record counts as read (R309). -/
def markLogRead (s : State) (seq : W32) : State :=
  { s with res := { s.res with log := s.res.log.map (fun e =>
      (e.1, e.2.map (fun r => if r.seq = seq then { r with read := true } else r))) } }

/-! ### Fault records (R233-R235, R420) -/

/-- A fault record is written: it takes the next fault-record sequence number and goes out as FAULT_REPORT. -/
def sendFault (f : FaultRec) (s : State) : State :=
  let f := { f with seq := s.xlt.faultSeq }
  let s := { s with xlt := { s.xlt with faultSeq := s.xlt.faultSeq + 1 } }
  queueReport s { opcode := 0xF1, ctx := f.ctx, gen := f.cgen.setWidth 8, seq := f.seq, payload := faultBytes f } false

/-- A fault record of a context; the reading half's counter dates it (R420). -/
def mkFault (s : State) (cause kind source ctx : Nat) (write srcSide : Bool) (addr wher : W64) (lcid half : Nat)
    (detail : W64) : FaultRec :=
  { cause := cause, kind := kind, source := source, write := write, srcSide := srcSide, entry := 0xFFFF, ctx := ctx,
    slot := (getCtx s ctx).slot, cgen := (getCtx s ctx).gen, pid := pidOfCtx s ctx, addr := addr, wher := wher,
    lcid := lcid, half := half, detail := detail, time := cntOf s half, seq := s.xlt.faultSeq }

/-- A fatal fault record outside the fault queue, for a loss with a cause code. -/
def fatalFault (s : State) (cause source ctx : Nat) (write : Bool) (addr wher : W64) (lcid half : Nat) (detail : W64) :
    FaultRec := mkFault s cause 1 source ctx write false addr wher lcid half detail

/-! ### A context becomes LOST (R43, R320, R421) -/

/-- The mark of a loss: the context is LOST, its teardown waits for CONTEXT_TEARDOWN, and a CONTEXT_LOST record is
written. A context that is already LOST, being destroyed or FREE is left as it is (R320: one record, the first cause). -/
def loseFor (detail ctx code status half : Nat) (s : State) : State :=
  let c := getCtx s ctx
  if c.st ≠ 1 then s
  else
    let s := setCtx s ctx { c with st := 2, down := some { code := code, status := status, step := 0, destroy := none, live := false } }
    logNote { cls := 0x16, sev := 2, code := code, unitKind := 13, unit := ownModule s % 4096, slot := some c.slot,
              ctx := some ctx, half := half, detail := detail } s

def lose (ctx code status half : Nat) (s : State) : State := loseFor 0 ctx code status half s

/-- A loss with a cause code: the fatal fault record, then the loss; CODE is the cause (R421). -/
def loseCause (f : FaultRec) (s : State) : State :=
  if (getCtx s f.ctx).st ≠ 1 then s else lose f.ctx f.cause 4 f.half (sendFault f s)

/-- A loss without a cause code: CODE is 0x8000 and the status its work ends with (R421). -/
def loseStatus (ctx status half : Nat) (s : State) : State := lose ctx (0x8000 + status) status half s

/-- Several contexts lost with a status. -/
def loseAll (l : List Nat) (status half : Nat) (s : State) : State :=
  l.foldl (fun s c => loseStatus c status half s) s

/-- The live contexts of a slot. -/
def liveOf (s : State) (slot : Nat) : List Nat :=
  (s.part.ctxs.filter (fun e => decide (e.2.st = 1) && (e.2.slot == slot))).map (·.1)

/-- The contexts with work on an LCID of a slot: a tenancy of it (resident or swapped) or an entry queued for it. -/
def ctxsOnLcid (s : State) (slot lcid : Nat) : List Nat :=
  let a := (s.tens.filter (fun t => t.slot == slot && t.lcid == lcid)).map (·.ctx)
  let q := s.units.cores.flatMap (fun e => ((e.2.queue ++ e.2.spill).filter (fun d => d.lcid == lcid && (getCtx s d.ctx).slot == slot)).map (·.ctx))
  let h := s.part.moving.flatMap (fun m => if m.slot == slot && m.lcid == lcid then m.held.map (·.ctx) else [])
  (a ++ q ++ h).eraseDups

end Sys2Proof.Machine
end

