-- ==== Sys2Proof/Machine/Crypto.lean ====
section
/-! DEFINITION. The hash/signature engine: SHAKE256 and KMAC256 (PRESUMED as FIPS 202 and SP 800-185 define them,
notes/assumptions/8.md), identity and attestation signatures (spec/13 R362-R365) over the opaque XMSS of Config. -/
namespace Sys2Proof.Machine

/-! ### Keccak -/

/-- The 24 round constants. -/
def keccakRC : List W64 :=
  [0x0000000000000001, 0x0000000000008082, 0x800000000000808A, 0x8000000080008000, 0x000000000000808B,
   0x0000000080000001, 0x8000000080008081, 0x8000000000008009, 0x000000000000008A, 0x0000000000000088,
   0x0000000080008009, 0x000000008000000A] ++
  [0x000000008000808B, 0x800000000000008B, 0x8000000000008089, 0x8000000000008003, 0x8000000000008002,
   0x8000000000000080, 0x000000000000800A, 0x800000008000000A, 0x8000000080008081, 0x8000000000008080,
   0x0000000080000001, 0x8000000080008008]

/-- The rotation of lane x + 5y. -/
def keccakRot : List Nat :=
  [0, 1, 62, 28, 27, 36, 44, 6, 55, 20, 3, 10, 43, 25, 39, 41, 45, 15, 21, 8, 18, 2, 61, 56, 14]

def laneAt (a : List W64) (i : Nat) : W64 := a.getD i 0

/-- One round on the 25 lanes. -/
def keccakRound (a : List W64) (rc : W64) : List W64 :=
  let c := (List.range 5).map (fun x =>
    laneAt a x ^^^ laneAt a (x + 5) ^^^ laneAt a (x + 10) ^^^ laneAt a (x + 15) ^^^ laneAt a (x + 20))
  let d := (List.range 5).map (fun x => laneAt c ((x + 4) % 5) ^^^ (laneAt c ((x + 1) % 5)).rotateLeft 1)
  let t := (List.range 25).map (fun i => (laneAt a i ^^^ laneAt d (i % 5)).rotateLeft (keccakRot.getD i 0))
  -- lane (x, y) moves to (y, 2x + 3y): lane i of the result comes from (x', y') with x' = (x + 3y) mod 5, y' = x
  let b := (List.range 25).map (fun i => laneAt t ((i % 5 + 3 * (i / 5)) % 5 + 5 * (i % 5)))
  (List.range 25).map (fun i =>
    let x := i % 5
    let y := i / 5
    let v := laneAt b i ^^^ (~~~ (laneAt b ((x + 1) % 5 + 5 * y)) &&& laneAt b ((x + 2) % 5 + 5 * y))
    if i = 0 then v ^^^ rc else v)

def keccakF (a : List W64) : List W64 := keccakRC.foldl keccakRound a

/-- One block of 136 bytes absorbed. -/
def absorbBlock (a : List W64) (blk : List Byte) : List W64 :=
  keccakF ((List.range 25).map (fun i => if i < 17 then laneAt a i ^^^ BitVec.ofNat 64 (numAt blk (8 * i) 8) else laneAt a i))

/-- Blocks absorbed in order; `n` bounds their number. -/
def absorbAll : Nat → List W64 → List Byte → List W64
  | 0, a, _ => a
  | n + 1, a, m => if m.isEmpty then a else absorbAll n (absorbBlock a (m.take 136)) (m.drop 136)

/-- Output blocks. -/
def squeezeAll : Nat → List W64 → List Byte
  | 0, _ => []
  | n + 1, a => (a.take 17).flatMap (fun w => leBytes 8 w.toNat) ++ squeezeAll n (keccakF a)

/-- The message padded to whole blocks with a domain byte. -/
def keccakPad (dom : Nat) (m : List Byte) : List Byte :=
  let z := 135 - m.length % 136
  if z = 0 then m ++ [BitVec.ofNat 8 (dom + 0x80)]
  else m ++ [BitVec.ofNat 8 dom] ++ List.replicate (z - 1) 0 ++ [0x80]

def sponge (dom : Nat) (m : List Byte) (n : Nat) : List Byte :=
  let p := keccakPad dom m
  (squeezeAll (ceilDiv n 136) (absorbAll (p.length / 136) (List.replicate 25 0) p)).take n

/-- SHAKE256 to `n` bytes. -/
def shake256 (m : List Byte) (n : Nat) : List Byte := sponge 0x1F m n

/-- Bytes of a number, most significant first, at least one. -/
def beBytes (x : Nat) : List Byte :=
  let n := if x < 256 then 1 else if x < 65536 then 2 else if x < 2 ^ 24 then 3 else 4
  (leBytes n x).reverse

def leftEnc (x : Nat) : List Byte := let b := beBytes x; BitVec.ofNat 8 b.length :: b
def rightEnc (x : Nat) : List Byte := let b := beBytes x; b ++ [BitVec.ofNat 8 b.length]
def encStr (l : List Byte) : List Byte := leftEnc (8 * l.length) ++ l

def bytePad (l : List Byte) : List Byte :=
  let m := leftEnc 136 ++ l
  m ++ List.replicate ((136 - m.length % 136) % 136) 0

/-- Bytes of an ASCII string. -/
def ascii (x : String) : List Byte := x.toList.map (fun c => BitVec.ofNat 8 c.toNat)

/-- KMAC256 to `n` bytes with customisation string `cs`. -/
def kmac256 (key msg : List Byte) (n : Nat) (cs : List Byte) : List Byte :=
  sponge 0x04 (bytePad (encStr (ascii "KMAC") ++ encStr cs) ++ (bytePad (encStr key) ++ msg ++ rightEnc (8 * n))) n

/-! ### Identity and attestation keys -/

/-- TEST_ROOT in force: DEBUG or RMA (R364). -/
def testRoot (s : State) : Bool := decide (s.sec.lc = 3) || decide (s.sec.lc = 4)

/-- The identity public key in use: the module's, or the test identity key (R364). -/
def identityPub (s : State) : List Byte := Config.publicKey (b2n (testRoot s))

/-- The KEY_ID of an encoded public key (R356). -/
def keyId (k : List Byte) : List Byte := shake256 k 32

/-- A sized byte string: signatures and keys are cut or filled to the size that the spec states for them. -/
def sized (n : Nat) (l : List Byte) : List Byte := sliceZ l 0 n

/-- Whether the identity key has no index left that a signature could take (R362). -/
def idExhausted (s : State) : Bool := !testRoot s && decide (s.sec.cur = s.sec.lim) && decide (2 ^ 20 < s.sec.lim + 64)

/-- An identity signature (R362), none where it is refused with KEY_LOCKED or there is no identity key (R354, R356); in DEBUG and RMA the test identity key signs
and its index is not protected (R364). -/
def identitySign (s : State) (msg : List Byte) : Option (List Byte) × State :=
  if testRoot s then (some (sized 2820 (Config.xmssSign 1 0 msg)), s)
  else if s.sec.lc = 0 ∨ s.sec.lc = 5 then (none, s)
  else
    let reserve : Option State :=
      if s.sec.cur = s.sec.lim then
        if 2 ^ 20 < s.sec.lim + 64 then none
        else if s.sec.storeFails then none
        else some { s with sec := { s.sec with next := s.sec.lim + 64, lim := s.sec.lim + 64 } }
      else some s
    match reserve with
    | none =>
      (none, if s.sec.storeFails && decide (s.sec.lim + 64 ≤ 2 ^ 20) then
          logNote { cls := 0x13, sev := 0, unitKind := 15, detail := (2 + 15 * 2 ^ 4) * 2 ^ 64 } s else s)
    | some s =>
      let i := s.sec.cur
      (some (sized 2820 (Config.xmssSign 0 i msg)), { s with sec := { s.sec with cur := i + 1 } })

/-- OWNER_HASH (R363). -/
def ownerHash (s : State) : List Byte :=
  match s.sec.owner with
  | some k => keyId (k.take 68)
  | none => List.replicate 32 0

/-- The serial number's 16 bytes. -/
def serialBytes (s : State) : List Byte := leBytes 16 s.sec.serial.toNat

/-- FW_DIGEST of the running image. -/
def fwDigest (s : State) : List Byte := sized 32 s.sec.fwDigest

/-- A new attestation key and its certificate (R363); the former certificate stays where signing is refused. -/
def newAttKey (s : State) : State :=
  let gen := s.sec.attGen + 1
  let s := { s with sec := { s.sec with attGen := gen, attUsed := 0 } }
  let body := leBytes 4 gen.toNat ++ leBytes 4 s.res.epoch.toNat ++ sized 68 (Config.publicKey (2 + gen.toNat)) ++ fwDigest s
    ++ [BitVec.ofNat 8 s.sec.lc, BitVec.ofNat 8 (b2n (testRoot s)), 0, 0] ++ ownerHash s ++ serialBytes s
  match identitySign s body with
  | (some sig, s) => { s with sec := { s.sec with attCert := body ++ sig } }
  | (none, s) => { s with sec := { s.sec with attCert := [] } }

/-- An attestation signature (2,500 bytes): an exhausted key is replaced first (R363); none where the identity key
refuses (R362). -/
def attSign (s : State) (msg : List Byte) : Option (List Byte) × State :=
  let s := if 1024 ≤ s.sec.attUsed then newAttKey s else s
  if s.sec.attCert.isEmpty then (none, s)
  else (some (sized 2500 (Config.xmssSign (2 + s.sec.attGen.toNat) s.sec.attUsed msg)),
        { s with sec := { s.sec with attUsed := s.sec.attUsed + 1 } })

end Sys2Proof.Machine
end

