-- ==== Sys2Proof/Machine/Memory.lean ====
section
/-! DEFINITION. Local memory (spec/08): the address map and remap, tags and the ownership test, the codeword code, what a
read or write at memory does, uncorrectable words, zeroing, and the start of a channel migration. -/
namespace Sys2Proof.Machine

/-! ### The local address map (R210-R213) -/

def chanSpan : Nat := 0x90000000
def granSpan : Nat := 0x200000
def hbmEnd : Nat := 0x6C00000000
def storeBase : Nat := 0x20000000000
def storeEnd : Nat := 0x20009000000

def inHbm (a : Nat) : Bool := decide (a < hbmEnd)
def inStore (a : Nat) : Bool := decide (storeBase ≤ a) && decide (a < storeEnd)

/-- Address channel of an HBM address (R211). -/
def achanOf (a : Nat) : Nat := a / chanSpan

/-- The physical channel an address channel names (R211). -/
def pchanOf (s : State) (ac : Nat) : Nat := tabGet (fun k => k) s.mem.remap ac

/-- The address channel that names a physical channel. -/
def achanFor (s : State) (p : Nat) : Nat := ((List.range 192).find? (fun a => pchanOf s a == p)).getD p

/-- A granule: whether it is a sheaf store's, and its key (address channel * 1152 + granule, or sheaf * 16 + granule). -/
abbrev Gran := Bool × Nat

/-- The granule of a local address. -/
def granOf (a : Nat) : Gran :=
  if inStore a then (true, (a - storeBase) / 0x40000)
  else (false, a / granSpan)

def granBase (g : Gran) : Nat :=
  if g.1 then storeBase + g.2 * 0x40000 else g.2 / 1152 * chanSpan + g.2 % 1152 * granSpan

def granSize (g : Gran) : Nat := if g.1 then 0x40000 else granSpan

/-- Whether an HBM granule is one of the module's reserved granules (R213). -/
def granReserved (k : Nat) : Bool :=
  if k / 1152 % 96 < 64 then decide (1141 ≤ k % 1152) else decide (1142 ≤ k % 1152)

/-- What an unlisted HBM tag reads as: FREE, or MODULE for a reserved granule (R213). -/
def tagDefault (k : Nat) : Tag := if granReserved k then { st := 2 } else {}

def getTag (s : State) (g : Gran) : Tag :=
  if g.1 then tabGet (fun _ => {}) s.mem.ssTags g.2 else tabGet tagDefault s.mem.tags g.2

def setTag (s : State) (g : Gran) (t : Tag) : State :=
  if g.1 then { s with mem := { s.mem with ssTags := tabSet (fun _ => {}) s.mem.ssTags g.2 t } }
  else { s with mem := { s.mem with tags := tabSet tagDefault s.mem.tags g.2 t } }

/-- The 32 bits of a tag (R218). -/
def tagWord (t : Tag) : W32 :=
  BitVec.ofNat 32 (t.slot + t.ctx * 2 ^ 6 + b2n t.shared * 2 ^ 16 + b2n t.conf * 2 ^ 17 + b2n t.ro * 2 ^ 18
    + b2n t.table * 2 ^ 19 + t.st * 2 ^ 20)

/-- The physical channel of an HBM granule. -/
def granChan (s : State) (g : Gran) : Nat := pchanOf s (g.2 / 1152)

/-- The half a granule is in. -/
def granHalf (s : State) (g : Gran) : Nat := if g.1 then halfOfSheaf (g.2 / 16) else halfOfChan (granChan s g)

/-- The FPA of a local address. -/
def fpaOf (s : State) (a : Nat) : Nat := ownModule s * 2 ^ 42 + a

/-- The granules that `n` bytes from `a` touch, within one region. -/
def gransOf (a n : Nat) : List Gran :=
  if n = 0 then []
  else
    let first := granOf a
    let last := granOf (a + n - 1)
    (List.range (last.2 - first.2 + 1)).map (fun i => (first.1, first.2 + i))

/-! ### The code (R214, R215) -/

/-- Product in GF(16), polynomials modulo x^4 + x + 1. -/
def gmul (a b : Nat) : Nat :=
  let p := Nat.xor (Nat.xor (if bitAt b 0 then a else 0) (if bitAt b 1 then 2 * a else 0))
    (Nat.xor (if bitAt b 2 then 4 * a else 0) (if bitAt b 3 then 8 * a else 0))
  let p := if bitAt p 6 then Nat.xor p 0x4C else p
  let p := if bitAt p 5 then Nat.xor p 0x26 else p
  if bitAt p 4 then Nat.xor p 0x13 else p

/-- The inverse in GF(16): the fourteenth power. -/
def ginv (a : Nat) : Nat :=
  let a2 := gmul a a
  let a4 := gmul a2 a2
  let a8 := gmul a4 a4
  gmul a8 (gmul a4 a2)

/-- The quadratic form of R214. -/
def eccQ (u v : Nat) : Nat := Nat.xor (gmul u u) (Nat.xor (gmul u v) (gmul 8 (gmul v v)))

/-- Data nibble `i` of a codeword. -/
def nibAt (d i : Nat) : Nat := fld d (4 * i) 4

/-- The four components a data nibble adds to a syndrome: its value times its column (1, q, u, v). -/
def eccCol (d i : Nat) : Nat × Nat × Nat × Nat :=
  let u := i % 16
  let v := 2 + i / 16
  (d, gmul d (eccQ u v), gmul d u, gmul d v)

def xor4 (a b : Nat × Nat × Nat × Nat) : Nat × Nat × Nat × Nat :=
  (Nat.xor a.1 b.1, Nat.xor a.2.1 b.2.1, Nat.xor a.2.2.1 b.2.2.1, Nat.xor a.2.2.2 b.2.2.2)

/-- The data part of a syndrome. -/
def dataSyn (d : Nat) : Nat × Nat × Nat × Nat :=
  (List.range 32).foldl (fun acc i => xor4 acc (eccCol (nibAt d i) i)) (0, 0, 0, 0)

/-- The stored check bits of a codeword (R214). -/
def eccEncode (d : Nat) : Nat :=
  let c := (List.range 32).foldl (fun (c : Nat × Nat × Nat × Nat) i =>
    let x := nibAt d i
    let u := i % 16
    let v := 2 + i / 16
    xor4 c (gmul x (Nat.xor 1 (Nat.xor u v)), gmul x (Nat.xor (eccQ u v) (Nat.xor u (gmul 8 v))), gmul x u, gmul x v))
    (0, 0, 0, 0)
  Nat.xor (c.1 + c.2.1 * 2 ^ 4 + c.2.2.1 * 2 ^ 8 + c.2.2.2 * 2 ^ 12) 0xFFFF

/-- The syndrome of a codeword as read (R215). -/
def eccSyn (d stored : Nat) : Nat × Nat × Nat × Nat :=
  let k := Nat.xor stored 0xFFFF
  let c0 := nibAt k 0
  let c1 := nibAt k 1
  let c2 := nibAt k 2
  let c3 := nibAt k 3
  xor4 (Nat.xor c0 (Nat.xor c2 c3), Nat.xor c1 (Nat.xor c2 (gmul 8 c3)), c2, c3) (dataSyn d)

/-- What decoding a codeword gives. -/
inductive Decoded where
  | clean
  | check
  | data (d : Nat)
  | uncorrectable
deriving DecidableEq, Repr

/-- The decoder of R215. -/
def eccDecode (d stored : Nat) : Decoded :=
  let s := eccSyn d stored
  if s = (0, 0, 0, 0) then .clean
  else if s.1 = 0 ∧ s.2.2.1 = 0 ∧ s.2.2.2 = 0 then .check
  else if s.1 = 0 then .uncorrectable
  else
    let g := ginv s.1
    let h1 := gmul g s.2.1
    let h2 := gmul g s.2.2.1
    let h3 := gmul g s.2.2.2
    if (h1 = 0 ∧ h2 = 0 ∧ h3 = 0) ∨ (h1 = 1 ∧ h2 = 1 ∧ h3 = 0) ∨ (h1 = 8 ∧ h2 = 0 ∧ h3 = 1) then .check
    else if (h3 = 2 ∨ h3 = 3) ∧ h1 = eccQ h2 h3 then .data (Nat.xor d (s.1 * 2 ^ (4 * (16 * (h3 - 2) + h2))))
    else .uncorrectable

/-- Set bits of a number of `n` bits. -/
def popCount (n x : Nat) : Nat := ((List.range n).filter (fun i => bitAt x i)).length

/-! ### Bytes -/

def zeroByte : Nat → Byte := fun _ => 0

/-- The bytes at a local address, as last written. -/
def rawRead (s : State) (a n : Nat) : List Byte := (List.range n).map (fun i => tabGet zeroByte s.mem.bytes (a + i))

/-- Key and value of each byte of a store. -/
def keyed (a : Nat) (l : List Byte) : List (Nat × Byte) := (List.range l.length).zip l |>.map (fun e => (a + e.1, e.2))

/-- Bytes stored at a local address, without a check. -/
def rawWrite (s : State) (a : Nat) (l : List Byte) : State :=
  { s with mem := { s.mem with bytes := tabSetAll zeroByte s.mem.bytes (keyed a l) } }

/-- The codewords that a span covers whole are replaced, check bits and all (R216). -/
def coverWords (s : State) (a n : Nat) : State :=
  { s with mem := { s.mem with upsets := s.mem.upsets.filter (fun e => !(decide (a ≤ 16 * e.1) && decide (16 * e.1 + 16 ≤ a + n))) } }

/-- The granule write counts (spec/07 R206) advanced for the HBM granules that a write touches. -/
def bumpWrites (s : State) (a n : Nat) : State :=
  { s with mem := { s.mem with wcount := (gransOf a n).foldl (fun t g =>
      if g.1 then t else tabSet (fun _ => 0) t g.2 (tabGet (fun _ => 0) t g.2 + 1)) s.mem.wcount } }

/-- Bytes written at memory: whole codewords replaced, the granules' write counts advanced. -/
def putBytes (s : State) (a : Nat) (l : List Byte) : State := bumpWrites (rawWrite (coverWords s a l.length) a l) a l.length

/-- A span written with zeros, its codewords whole. -/
def zeroSpan (s : State) (a n : Nat) : State :=
  { s with mem := { s.mem with bytes := tabClear s.mem.bytes a n, upsets := tabClear s.mem.upsets (a / 16) (n / 16) } }

/-- A granule zeroed. -/
def zeroGran (s : State) (g : Gran) : State := bumpWrites (zeroSpan s (granBase g) (granSize g)) (granBase g) 1

/-- A granule zeroed and returned to FREE (R220, R44). -/
def freeGran (s : State) (g : Gran) : State := setTag (zeroGran s g) g {}

/-- The canonical form of memory: bytes, differing codewords and tags are listed by strictly rising key, and no entry equals
what an unlisted one reads as. -/
def Memory.wf (m : Mem) : Bool :=
  tabWf zeroByte m.bytes && tabWf (fun _ => {}) m.upsets && tabWf tagDefault m.tags && tabWf (fun _ => {}) m.ssTags

/-! ### Granary images and uncorrectable words (R217) -/

/-- The image of a slot's granary that a granule belongs to. -/
def imageAt (s : State) (slot : Nat) (k : Nat) : Option Image := (getSlot s slot).images.find? (fun i => i.granules.contains k)

/-- An image removed: its granules scrubbed and returned to the slot's free space (R68). -/
def dropImage (s : State) (slot : Nat) (model : Nat) : State :=
  let sl := getSlot s slot
  let s := (sl.images.filter (fun i => i.model == model)).foldl
    (fun s i => i.granules.foldl (fun s k => freeGran s (false, k)) s) s
  setSlot s slot { getSlot s slot with images := sl.images.filter (fun i => !(i.model == model)) }

/-- An image becomes EVICTING, and is removed when nothing maps it (R217). -/
def evictImage (s : State) (slot : Nat) (i : Image) : State :=
  if i.maps = 0 then dropImage s slot i.model
  else
    let sl := getSlot s slot
    setSlot s slot { sl with images := sl.images.map (fun j => if j.model == i.model then { j with st := 2 } else j) }

/-- Who found an uncorrectable word: a request of a context and whether it writes, or the module itself. -/
abbrev Finder := Option (Nat × Bool)

/-- The finder of what a request of a kind meets. -/
def finderOf (kind : ReqKind) (ctx : Nat) : Finder :=
  match kind with
  | .internal => none
  | .read => some (ctx, false)
  | _ => some (ctx, true)

/-- The context that a word at `a` is charged to goes LOST, cause 0x06, or 0x07 for a table granule (R217). -/
def chargeWord (s : State) (ctx cause a half : Nat) (wr : Bool) : State :=
  loseCause (fatalFault s cause 4 ctx wr (BitVec.ofNat 64 a) 0 0xFFFFFF half 0) s

/-- An uncorrectable codeword in HBM, by the state of its granule (R217). `who` is the requester. Whether a word
of a FREE granule is still uncorrectable once written is a free value (notes/assumptions/5.md). -/
def uncHbm (s : State) (a : Nat) (who : Finder) : State :=
  let g := granOf a
  let t := getTag s g
  let p := granChan s g
  let c := getChan s p
  let s := setChan s p { c with ue := sat32 c.ue }
  let half := halfOfChan p
  let note (sev act : Nat) (ctx : Option Nat) (s : State) : State :=
    logNote { cls := 0x02, sev := sev, unitKind := 2, unit := p, action := act, code := if ctx.isNone then 0 else if t.table then 7 else 6,
              slot := if t.st = 1 then some t.slot else none, ctx := ctx, half := half, detail := fpaOf s a } s
  match t.st with
  | 0 =>
    match who with
    | none =>
      let r := takeFree (zeroGran s g)
      if bitAt r.1.toNat 0 then setTag (note 0 5 none r.2) g { st := 3 } else note 0 0 none r.2
    | some _ => s
  | 1 =>
    if t.ro then
      let s := match who with
        | some (ctx, wr) => chargeWord (note 2 0 (some ctx) s) ctx 6 a half wr
        | none => note 0 0 none s
      match imageAt s t.slot g.2 with
      | some i => evictImage s t.slot i
      | none => s
    else if t.shared then
      match who with
      | some (ctx, wr) => chargeWord (note 2 0 (some ctx) s) ctx 6 a half wr
      | none => note 0 0 none s
    else chargeWord (note 2 0 (some t.ctx) s) t.ctx (if t.table then 7 else 6) a half (who.any (fun f => f.2))
  | _ => note 0 0 none s

/-- An uncorrectable word in a sheaf store (spec/11 R307): its owner is LOST, or the sheaf's fault is reported. -/
def uncStore (s : State) (a : Nat) (who : Finder) : State :=
  let g := granOf a
  let t := getTag s g
  let m := g.2 / 16
  let half := halfOfSheaf m
  if t.st = 1 then
    let ctx := if t.shared then who.map (fun f => f.1) else some t.ctx
    let s := logNote { cls := 0x06, sev := 2, unitKind := 1, unit := m, slot := some t.slot, ctx := ctx, half := half } s
    match ctx with
    | some c => loseStatus c 0x0C half s
    | none => s
  else
    let s := logNote { cls := 0x0A, sev := 2, unitKind := 1, unit := m, action := 7, half := half } s
    { s with res := { s.res with sheafDue := (s.res.sheafDue ++ [m]).eraseDups } }

/-! ### Channel migration, first step (R55, spec/11 R313) -/

/-- CHANNEL_MIGRATE begins: the destination joins the channel set, marked MIGRATING. -/
def beginMigration (s : State) (slot src dst : Nat) (id : Option Nat) : State :=
  let sl := getSlot s slot
  let s := setSlot s slot { sl with brec := { sl.brec with chans := sl.brec.chans ++ [dst] } }
  { s with mem := { s.mem with migr := s.mem.migr ++ [{ slot := slot, src := src, dst := dst, id := id }] } }

/-- The windows of R313 in control-network cycles: 60 minutes and 24 hours. -/
def cePeriod : Nat := 3600 * oneSecond
def cwPeriod : Nat := 24 * cePeriod

/-- A corrected codeword is counted, reported, and may show a failing channel (R215, R313). -/
def countCe (s : State) (cw : Nat) : State :=
  let g := granOf (16 * cw)
  let p := granChan s g
  let c := getChan s p
  let now := s.dev.now
  let again := c.ces.any (fun e => e.2 == cw && decide (now - e.1 ≤ cwPeriod))
  let ces := c.ces ++ [(now, cw)]
  let recent := (ces.filter (fun e => decide (now - e.1 ≤ cePeriod))).length
  let s := setChan s p { c with ce := sat32 c.ce, ces := ces }
  let half := halfOfChan p
  let s := logNote { cls := 0x01, sev := 0, unitKind := 2, unit := p, action := 1, half := half, detail := fpaOf s (16 * cw) } s
  let limit := max 1 s.res.ceThresh.toNat
  if (decide (limit < recent) || again) && !(s.mem.migr.any (fun m => m.src == p || m.dst == p)) then
    let note (sev act : Nat) (s : State) : State :=
      logNote { cls := 0x04, sev := sev, unitKind := 2, unit := p, action := act, slot := holderOfChan s p, half := half,
                detail := fpaOf s (16 * cw) } s
    if s.res.scale.toNat < 2 then note 0 0 s
    else match holderOfChan s p, (spareChans s).find? (fun n => halfOfChan n == half) with
      | some slot, some d => beginMigration (note 1 3 s) slot p d none
      | some _, none => note 0 0 s
      | none, some _ => setUnit (note 1 4 s) ⟨2, p⟩ .quarantine
      | none, none => note 0 0 s
  else s

/-! ### Codewords on the way in and out -/

/-- A codeword written with data `x`, its check bits with it. -/
def putWord (s : State) (cw x : Nat) : State :=
  let s := rawWrite s (16 * cw) (leBytes 16 x)
  { s with mem := { s.mem with upsets := tabSet (fun _ => {}) s.mem.upsets cw {} } }

/-- What the controller decodes of a codeword that differs from what was written (R214, R215). The code is linear, so the decoding turns on
the upset alone, and the plaintext of a CONF granule stands for its ciphertext here (notes/assumptions/9.md). -/
def decodeWord (s : State) (cw : Nat) (u : Upset) : Nat × Decoded :=
  let d := ofLE (rawRead s (16 * cw) 16)
  let d' := Nat.xor d u.data.toNat
  (d', eccDecode d' (Nat.xor (eccEncode d) u.check.toNat))

/-- A codeword delivered as `x`. In a CONF granule a block of ciphertext other than the one written decrypts to a free value (R221). -/
def deliverWord (s : State) (cw x : Nat) : State :=
  if (getTag s (granOf (16 * cw))).conf && decide (x ≠ ofLE (rawRead s (16 * cw) 16)) then
    let r := takeFree s
    let q := takeFree r.2
    putWord q.2 cw (r.1.toNat + q.1.toNat * 2 ^ 64)
  else putWord s cw x

/-- One codeword that differs from what was written, as a read meets it: corrected and written back, or uncorrectable
(`false`). -/
def meetWord (s : State) (cw : Nat) (u : Upset) (who : Finder) : Bool × State :=
  let a := 16 * cw
  if inHbm a then
    let d := decodeWord s cw u
    match d.2 with
    | .clean => (true, deliverWord s cw d.1)
    | .check => (true, countCe (deliverWord s cw d.1) cw)
    | .data x => (true, countCe (deliverWord s cw x) cw)
    | .uncorrectable => (false, uncHbm s a who)
  else
    let lo := popCount 64 (u.data.toNat % 2 ^ 64)
    let hi := popCount 64 (u.data.toNat / 2 ^ 64)
    if lo < 2 ∧ hi < 2 then
      (true, logNote { cls := 0x05, sev := 0, unitKind := 1, unit := (a - storeBase) / 0x400000, action := 1,
                       half := halfOfSheaf ((a - storeBase) / 0x400000) } (putWord s cw (ofLE (rawRead s a 16))))
    else (false, uncStore s a who)

/-- The codewords of a span that differ from what was written. -/
def upsetIn (s : State) (a n : Nat) : List (Nat × Upset) :=
  if n = 0 then [] else s.mem.upsets.filter (fun e => decide (a / 16 ≤ e.1) && decide (e.1 ≤ (a + n - 1) / 16))

/-- Every differing codeword of a span met in ascending order, up to the first uncorrectable one. -/
def meetAll (who : Finder) : List (Nat × Upset) → State → Bool × State
  | [], s => (true, s)
  | e :: t, s =>
    let r := meetWord s e.1 e.2 who
    if r.1 then meetAll who t r.2 else r

/-! ### Requests at memory (R219) -/

/-- The ownership test of one granule (R219). -/
def ownTest (s : State) (t : Tag) (kind : ReqKind) (ctx pid edom : Nat) : Bool :=
  if kind = .internal then true
  else if t.st ≠ 1 then false
  else if slotOfPid s pid ≠ some t.slot then false
  else if t.table then false
  else if !t.shared && decide (ctx ≠ t.ctx) then false
  else if t.ro && (kind == .write || kind == .atomic || kind == .reduce) then false
  else decide (edom = b2n t.conf)

/-- Why memory does not serve a request. -/
inductive Gate where
  | allow
  | refused
  | unavail
deriving DecidableEq, Repr

/-- Whether the unit behind a granule serves: a half in FROST or fenced does not (spec/12 R332), nor does a FAILED
channel or an isolated sheaf (spec/11 R306, R325). -/
def granServed (s : State) (g : Gran) : Gate :=
  if halfOff s (granHalf s g) then .unavail
  else if g.1 then (if s.units.isolated.contains (g.2 / 16) then .refused else .allow)
  else if unitSt s ⟨2, granChan s g⟩ = .failed then .refused
  else .allow

/-- The gate of one granule. -/
def granGate (s : State) (kind : ReqKind) (ctx pid edom : Nat) (g : Gran) : Gate :=
  match granServed s g with
  | .allow => if ownTest s (getTag s g) kind ctx pid edom then .allow else .refused
  | x => x

/-- The gate of a span: every granule must allow; an address outside the map is refused. -/
def spanGate (s : State) (kind : ReqKind) (ctx pid edom a n : Nat) : Gate :=
  if n = 0 then .allow
  else if (inHbm a && inHbm (a + n - 1)) || (inStore a && inStore (a + n - 1)) then
    ((gransOf a n).map (granGate s kind ctx pid edom)).foldl (fun x y => if x = .allow then y else x) .allow
  else .refused

/-- What memory answers. -/
inductive MemRes where
  | ok (data : List Byte) (s : State)
  | refused
  | unavail
  | unc (s : State)
deriving DecidableEq, Repr

/-- A read that has passed the ownership test, performed. -/
def readServe (s : State) (kind : ReqKind) (ctx a n : Nat) : MemRes :=
  match meetAll (finderOf kind ctx) (upsetIn s a n) s with
  | (true, s) => .ok (rawRead s a n) s
  | (false, s) => .unc s

/-- A read of `n` bytes at a local address. -/
def memRead (s : State) (kind : ReqKind) (ctx pid edom a n : Nat) : MemRes :=
  match spanGate s kind ctx pid edom a n with
  | .refused => .refused
  | .unavail => .unavail
  | .allow => readServe s kind ctx a n

/-- The differing codewords that a write reads first: those of a codeword that it covers in part, or, in a CONF granule, of a 64-byte line
(R216, R221). -/
def partWords (s : State) (a n : Nat) : List (Nat × Upset) :=
  if n = 0 then []
  else s.mem.upsets.filter (fun e =>
    let u := if (getTag s (granOf (16 * e.1))).conf then 64 else 16
    let b := 16 * e.1 / u * u
    decide (b < a + n) && decide (a < b + u) && !(decide (a ≤ b) && decide (b + u ≤ a + n)))

/-- A write that has passed the ownership test, performed: whole codewords are replaced, a part of one, or of a CONF granule's line, is read
first (R216, R221). -/
def writeServe (s : State) (kind : ReqKind) (ctx a : Nat) (l : List Byte) : MemRes :=
  match meetAll (finderOf kind ctx) (partWords s a l.length) s with
  | (false, s) => .unc s
  | (true, s) => .ok [] (putBytes s a l)

/-- A write of bytes at a local address. -/
def memWrite (s : State) (kind : ReqKind) (ctx pid edom a : Nat) (l : List Byte) : MemRes :=
  match spanGate s kind ctx pid edom a l.length with
  | .refused => .refused
  | .unavail => .unavail
  | .allow => writeServe s kind ctx a l

end Sys2Proof.Machine
end

