-- ==== Sys2Proof/Machine/Xlate.lean ====
section
/-! DEFINITION. Translation (spec/08 R210, R222-R225, R230), the range table in memory, the range TLBs, and the fault
queue (R233-R237). -/
namespace Sys2Proof.Machine

/-! ### Choices the spec leaves open -/

/-- One of several candidates, by a free value: the spec says that one is taken and not which (notes/assumptions/5.md).
A single candidate is taken as it is. -/
def pickOne (l : List Nat) (s : State) : Option Nat × State :=
  match l with
  | [] => (none, s)
  | [x] => (some x, s)
  | l => let (v, s) := takeFree s; (l[v.toNat % l.length]?, s)

/-! ### Range entries -/

/-- The 32 bytes of a range entry (R222). -/
def rangeBytes (e : Range) : List Byte :=
  leBytes 8 e.va ++ leBytes 8 e.fpa ++ leBytes 8 e.pages ++
  leBytes 4 (b2n e.r + b2n e.w * 2 + b2n e.a * 4 + b2n e.d * 8 + e.cls * 16 + e.cache * 2 ^ 7 + e.edom * 2 ^ 9
    + e.ilv * 2 ^ 13 + b2n e.granary * 2 ^ 16 + b2n e.revoked * 2 ^ 17) ++ leBytes 4 0

/-- A range entry as a payload spells it (R222). -/
def rangeOf (l : List Byte) : Range :=
  let w := numAt l 24 4
  { va := numAt l 0 8, fpa := numAt l 8 8, pages := numAt l 16 8 % 2 ^ 37, r := bitAt w 0, w := bitAt w 1,
    a := bitAt w 2, d := bitAt w 3, cls := fld w 4 3, cache := fld w 7 2, edom := fld w 9 4, ilv := fld w 13 3,
    granary := bitAt w 16, revoked := bitAt w 17 }

/-- One past the last byte of an entry. -/
def rangeEnd (e : Range) : Nat := e.va + e.pages * 4096

/-- The FPA of an address inside an entry (R223). -/
def rangeFpa (e : Range) (va : Nat) : Nat :=
  let off := va - e.va
  let w := 2 ^ e.ilv
  if w = 1 then e.fpa + off
  else
    let blk := e.skip + off / 4096
    let loc := e.fpa % 2 ^ 42
    let a := loc / chanSpan + blk % w
    let o := loc % chanSpan + blk / w * 4096 + off % 4096
    e.fpa / 2 ^ 42 * 2 ^ 42 + (a * chanSpan + o)

/-- The address inside an entry that an FPA is the target of. -/
def rangeVa (e : Range) (f : Nat) : Option Nat :=
  let w := 2 ^ e.ilv
  let loc := e.fpa % 2 ^ 42
  let g := f % 2 ^ 42
  if f / 2 ^ 42 ≠ e.fpa / 2 ^ 42 then none
  else if w = 1 then (if e.fpa ≤ f ∧ f < e.fpa + e.pages * 4096 then some (e.va + (f - e.fpa)) else none)
  else if g / chanSpan < loc / chanSpan ∨ loc / chanSpan + w ≤ g / chanSpan ∨ g % chanSpan < loc % chanSpan then none
  else
    let o := g % chanSpan - loc % chanSpan
    let blk := o / 4096 * w + (g / chanSpan - loc / chanSpan)
    if e.skip ≤ blk ∧ blk < e.skip + e.pages then some (e.va + (blk - e.skip) * 4096 + o % 4096) else none

/-- The table of a context written into its granule, entry i at byte 32i (R224). -/
def syncTable (s : State) (ctx : Nat) : State :=
  let c := getCtx s ctx
  match c.table with
  | none => s
  | some k =>
    let b := granBase (false, k)
    let l := c.ranges.flatMap rangeBytes
    rawWrite (coverWords { s with mem := { s.mem with bytes := tabClear s.mem.bytes b granSpan } } b l.length) b l

/-- An edit of a context's table reads its entries (R217): `false` where one cannot be corrected, which makes the context LOST with cause
TABLE_UNCORRECTABLE. -/
def tableMet (s : State) (ctx : Nat) : Bool × State :=
  match (getCtx s ctx).table with
  | none => (true, s)
  | some k => meetAll none (upsetIn s (granBase (false, k)) (32 * (getCtx s ctx).ranges.length)) s

/-- An edit of a context's table, where it can be read. -/
def withTable (ctx : Nat) (lost edit : State → State) (s : State) : State :=
  let r := tableMet s ctx
  if r.1 then edit r.2 else lost r.2

/-! ### The walk (R224) -/

/-- What a translation finds. -/
inductive XRes where
  | hit (e : Range)
  | miss
  | revoked
  | window
  | table
deriving DecidableEq, Repr

/-- The binary search of R224: the index it stops at, or none at an uncorrectable probe. -/
def walkLoop (ctx : Nat) (va : Nat) : Nat → Nat → Nat → State → Option Nat × State
  | 0, lo, _, s => (some lo, s)
  | n + 1, lo, hi, s =>
    if hi - lo ≤ 1 then (some lo, s)
    else
      let mid := (lo + hi) / 2
      let c := getCtx s ctx
      let b := match c.table with
        | some k => granBase (false, k) + 32 * mid
        | none => 0
      let r := meetAll none (upsetIn s b 32) s
      if !r.1 then (none, r.2)
      else match c.ranges[mid]? with
        | some e => if e.va ≤ va then walkLoop ctx va n mid hi r.2 else walkLoop ctx va n lo mid r.2
        | none => (some lo, r.2)

/-- A walk of the context's table (R224), counted in XLT_WALKS. -/
def walk (s : State) (ctx va : Nat) : XRes × State :=
  let s := { s with xlt := { s.xlt with walks := s.xlt.walks + 1 } }
  let c := getCtx s ctx
  match c.ranges with
  | [] => (.miss, s)
  | first :: _ =>
    if va < first.va then (.miss, s)
    else match walkLoop ctx va 17 0 c.ranges.length s with
      | (none, s) => (.table, s)
      | (some lo, s) =>
        match c.ranges[lo]? with
        | none => (.miss, s)
        | some e =>
          if rangeEnd e ≤ va then (.miss, s) else if e.revoked then (.revoked, s) else (.hit e, s)

/-! ### Range TLBs (R225) -/

def tlbHit (ctx : Nat) (gen : W32) (va : Nat) (e : TlbEntry) : Bool :=
  e.ctx == ctx && e.cgen == gen && decide (e.ent.va ≤ va) && decide (va < rangeEnd e.ent)

/-- An entry moved or put to the front of a TLB of `size` entries, the least recently used one leaving. -/
def tlbTouch (e : TlbEntry) (l : List TlbEntry) (size : Nat) : List TlbEntry :=
  (e :: l.filter (fun x => !(x == e))).take size

def sheafTlb (s : State) (m : Nat) : List TlbEntry := tabGet (fun _ => []) s.xlt.tlb m
def coreTlb (s : State) (c : Nat) : List TlbEntry := tabGet (fun _ => []) s.xlt.micro c

/-- Where a translation is made: nowhere that caches, or in a sheaf, for a core. -/
abbrev Place := Option (Nat × Option Nat)

/-- A translation entered in the sheaf's TLB and the core's micro-TLB. -/
def tlbFill (s : State) (p : Place) (e : TlbEntry) : State :=
  match p with
  | none => s
  | some (m, c) =>
    let s := { s with xlt := { s.xlt with tlb := tabSet (fun _ => []) s.xlt.tlb m (tlbTouch e (sheafTlb s m) 256) } }
    match c with
    | none => s
    | some c => { s with xlt := { s.xlt with micro := tabSet (fun _ => []) s.xlt.micro c (tlbTouch e (coreTlb s c) 16) } }

/-- The cached entry for an address, micro-TLB first. -/
def tlbLookup (s : State) (p : Place) (ctx : Nat) (gen : W32) (va : Nat) : Option TlbEntry :=
  match p with
  | none => none
  | some (m, c) =>
    match (match c with | some c => (coreTlb s c).find? (tlbHit ctx gen va) | none => none) with
    | some e => some e
    | none => (sheafTlb s m).find? (tlbHit ctx gen va)

/-- The address after Eotha conversion, none outside the window (R230). -/
def eothaConv (c : Ctx) (va : Nat) : Option Nat :=
  if !c.eotha || va < 2 ^ 56 then some va
  else
    let h := va - 2 ^ 56
    if c.hbase ≤ h ∧ h - c.hbase < c.elen then some (c.dbase + (h - c.hbase)) else none

/-- A translation of a virtual address by a context (R210, R223-R225, R230): the entry and the converted address. -/
def translate (s : State) (p : Place) (ctx va : Nat) : XRes × Nat × State :=
  let c := getCtx s ctx
  if 2 ^ 57 ≤ va then (.miss, va, s)
  else match eothaConv c va with
    | none => (.window, va, s)
    | some v =>
      match tlbLookup s p ctx c.gen v with
      | some e => (.hit e.ent, v, tlbFill s p e)
      | none =>
        match walk s ctx v with
        | (.hit e, s) => (.hit e, v, tlbFill s p { ctx := ctx, cgen := c.gen, ent := e })
        | (r, s) => (r, v, s)

/-- Whether an entry permits a kind of access (R222). -/
def rangeAllows (e : Range) (kind : ReqKind) : Bool :=
  match kind with
  | .read => e.r
  | .write => e.w
  | .atomic => e.a
  | .reduce => e.d
  | .internal => true

/-- The pieces of an extent, cut at 4 KiB boundaries; `fuel` bounds their number. -/
def piecesFrom : Nat → Nat → Nat → List (Nat × Nat)
  | 0, _, _ => []
  | k + 1, va, n =>
    if n = 0 then []
    else
      let m := min n (4096 - va % 4096)
      (va, m) :: piecesFrom k (va + m) (n - m)

def pieces (va n : Nat) : List (Nat × Nat) := piecesFrom (n / 4096 + 2) va n

/-! ### Invalidation (R229) -/

/-- Prefetched lines dropped and counted (spec/07 R206). -/
def dropLines (s : State) (p : Line → Bool) : State :=
  let bump (t : Tab W32) (l : Line) : Tab W32 :=
    match l.core with
    | some c => if l.used then t else tabSet (fun _ => 0) t c (tabGet (fun _ => 0) t c + 1)
    | none => t
  { s with
    mem := { s.mem with lines := s.mem.lines.filter (fun l => !p l) },
    seq := { s.seq with pfDiscard := (s.mem.lines.filter p).foldl bump s.seq.pfDiscard } }

/-- Lines that match are dropped as stale: used ones count too (R206, R209). -/
def dropUnfit (s : State) (p : Line → Bool) : State :=
  dropLines { s with mem := { s.mem with lines := s.mem.lines.map (fun l => if p l then { l with used := false } else l) } } p

/-- TLB entries that match leave every TLB; prefetched lines that match are dropped; the count advances. -/
def invalidate (s : State) (pe : TlbEntry → Bool) (pl : Line → Bool) (pi : ILine → Bool) : State :=
  let cores := (s.units.cores.map (fun e => (e.1, { e.2 with icache := e.2.icache.filter (fun l => !pi l) }))).filter (fun e => decide (e.2 ≠ {}))
  let drop (t : Tab (List TlbEntry)) : Tab (List TlbEntry) :=
    (t.map (fun e => (e.1, e.2.filter (fun x => !pe x)))).filter (fun e => decide (e.2 ≠ []))
  dropLines { s with
    units := { s.units with cores := cores },
    xlt := { s.xlt with tlb := drop s.xlt.tlb, micro := drop s.xlt.micro, invalCnt := s.xlt.invalCnt + 1 } } pl

/-- Whether spans meet; a length of 0 means every address (R229). -/
def spanMeets (a n b m : Nat) : Bool := decide (n = 0) || (decide (a < b + m) && decide (b < a + n))

/-- Invalidation of contexts' translations over a span of virtual addresses (scopes 0 and 1). The lines whose source lies in
the span are dropped. -/
def invalCtxs (s : State) (l : List Nat) (va n : Nat) : State :=
  invalidate s (fun e => l.contains e.ctx && spanMeets va n e.ent.va (e.ent.pages * 4096))
    (fun ln => l.contains ln.ctx && (decide (n = 0) || (getCtx s ln.ctx).ranges.any (fun e =>
      match rangeVa e ln.fpa with | some v => spanMeets va n v 64 | none => false)))
    (fun i => l.contains i.ctx && spanMeets va n i.dva 64)

def invalCtx (s : State) (ctx va n : Nat) : State := invalCtxs s [ctx] va n

/-- Whether an entry's target meets a span of FPAs. -/
def targetMeets (e : Range) (f n : Nat) : Bool :=
  decide (n = 0) ||
  (if e.ilv = 0 then spanMeets f n e.fpa (e.pages * 4096)
   else (List.range (2 ^ e.ilv)).any (fun i =>
     spanMeets f n (e.fpa + i * chanSpan + e.skip / 2 ^ e.ilv * 4096)
       (((e.skip + e.pages - 1) / 2 ^ e.ilv - e.skip / 2 ^ e.ilv + 1) * 4096)))

/-- Invalidation by target FPA over every context (scope 2). -/
def invalFpa (s : State) (f n : Nat) : State :=
  invalidate s (fun e => targetMeets e.ent f n) (fun l => spanMeets f n l.fpa 64) (fun i => spanMeets f n i.fpa 64)

/-! ### The fault queue (R235) -/

def fqGet (s : State) (i : Nat) : Option FqEntry := tabGet (fun _ => none) s.xlt.fq i

def fqSet (s : State) (i : Nat) (x : Option FqEntry) : State :=
  { s with xlt := { s.xlt with fq := tabSet (fun _ => none) s.xlt.fq i x } }

def fqQuota (s : State) : Nat := min 256 (max 1 s.xlt.quota.toNat)

def fqHeld (s : State) (ctx : Nat) : Nat :=
  (s.xlt.fq.filter (fun e => match e.2 with | some x => x.ctx == ctx | none => false)).length

/-- The block of a fault's key. -/
def faultBlk (r : FaultRec) : Nat := r.addr.toNat / 0x200000

/-- The occupied entry with a record's key. -/
def fqMatch (s : State) (r : FaultRec) : Option (Nat × FqEntry) :=
  s.xlt.fq.findSome? (fun e => match e.2 with
    | some x => if x.slot = r.slot ∧ x.ctx = r.ctx ∧ x.cause = r.cause ∧ x.blk = faultBlk r then some (e.1, x) else none
    | none => none)

/-- A faulter joins an entry of its key or takes a free one, whose record is then written; none when it must stall. -/
def fqPlace (s : State) (f : Faulter) (r : FaultRec) : Option State :=
  match fqMatch s r with
  | some (i, x) => some (fqSet s i (some { x with faulters := x.faulters ++ [f] }))
  | none =>
    if fqQuota s ≤ fqHeld s r.ctx then none
    else
      let free := (List.range 256).filter (fun i => (fqGet s i).isNone)
      match pickOne free s with
      | (none, _) => none
      | (some i, s) =>
        let r := { r with entry := i, seq := s.xlt.faultSeq }
        let s := fqSet s i (some { slot := r.slot, ctx := r.ctx, cause := r.cause, blk := faultBlk r, seq := r.seq, record := r, faulters := [f] })
        some (sendFault r s)

/-- A faulter submits its fault (R235); a fault of a context that is not LIVE is dropped (spec/11 R320). -/
def submitFault (s : State) (f : Faulter) (r : FaultRec) : State :=
  if (getCtx s r.ctx).st ≠ 1 then s
  else match fqPlace s f r with
    | some s => s
    | none => { s with xlt := { s.xlt with stalled := s.xlt.stalled ++ [{ f := f, record := r }], ovf := s.xlt.ovf + 1 } }

/-- Stalled faulters take what has become free, in the order in which they stalled (R235). -/
def fqDrain (s : State) : State :=
  s.xlt.stalled.foldl (fun s x =>
    match fqPlace s x.f x.record with
    | some s => { s with xlt := { s.xlt with stalled := s.xlt.stalled.filter (fun y => !(y.f == x.f)) } }
    | none => s) s

/-- A FAULT_REPORT that waits for room stays with its entry, and leaves with it (spec/11 R308). -/
def fqTrim (s : State) : State :=
  { s with fe := { s.fe with heldReports := s.fe.heldReports.filter (fun r =>
      r.opcode != 0xF1 || numAt r.payload 2 2 == 0xFFFF || s.xlt.fq.any (fun e => match e.2 with | some x => x.seq == r.seq | none => false)) } }

/-- Faulters leave their entries, an entry without faulters frees, and stalled ones are placed. -/
def fqLeave (s : State) (p : Faulter → Bool) : State :=
  let fq := (s.xlt.fq.map (fun e => (e.1, e.2.bind (fun x =>
    let l := x.faulters.filter (fun f => !p f)
    if l.isEmpty then none else some { x with faulters := l })))).filter (fun e => e.2.isSome)
  fqDrain (fqTrim { s with xlt := { s.xlt with fq := fq, stalled := s.xlt.stalled.filter (fun y => !p y.f) } })

/-- A context's entries and stalled faulters leave (R235). -/
def fqDropCtx (s : State) (ctx : Nat) : State :=
  fqDrain (fqTrim { s with xlt := { s.xlt with
    fq := s.xlt.fq.filter (fun e => match e.2 with | some x => !(x.ctx == ctx) | none => false),
    stalled := s.xlt.stalled.filter (fun y => !(y.record.ctx == ctx)) } })

end Sys2Proof.Machine
end

