-- ==== Sys2Proof/Machine/Packet.lean ====
section
/-! DEFINITION. Packets as bytes: command packets and replies (spec/06 R156-R158), near-memory requests (spec/08 R238)
and fabric packets (spec/09 R255-R256), written and read. -/
namespace Sys2Proof.Machine

/-! ### Command packets -/

/-- Header, payload and trailer of a packet (R156-R158). -/
def packetBytes (opcode flags qpn ctx : Nat) (gen : BitVec 8) (seq : W32) (status cls : Nat) (w4 w5 w6 w7 : W32)
    (payload : List Byte) : List Byte :=
  let b := wordBytes
    [BitVec.ofNat 32 (opcode % 256 + flags % 256 * 2 ^ 8 + payload.length % 65536 * 2 ^ 16),
     BitVec.ofNat 32 (qpn % 4096 + ctx % 1024 * 2 ^ 12 + gen.toNat * 2 ^ 22), seq,
     BitVec.ofNat 32 (status % 65536 + cls % 8 * 2 ^ 16), w4, w5, w6, w7] ++ payload
  b ++ leBytes 4 (crc32c b).toNat

/-- The bytes of a request packet. -/
def pktBytes (p : Pkt) : List Byte :=
  packetBytes p.opcode (b2n p.quiet + b2n p.fence * 2) p.qpn p.ctx p.gen p.seq p.status p.cls p.w4 p.w5 p.w6 p.w7 p.payload

/-- The bytes of a packet the module sends. -/
def replyBytes (r : Reply) : List Byte :=
  packetBytes r.opcode (b2n r.dup * 4 + b2n r.last * 8) r.qpn r.ctx r.gen r.seq r.status r.cls r.w4 r.w5 r.w6 r.w7 r.payload

/-- A packet read from bytes: the declared payload follows the header, then the trailer; `rxOk` says that it verifies. -/
def pktOfBytes (src : Src) (l : List Byte) : Pkt :=
  let w (i : Nat) : Nat := numAt l (4 * i) 4
  let n := fld (w 0) 16 16
  let body := sliceZ l 0 (32 + n)
  { src := src, rxOk := decide (36 ≤ l.length) && decide (BitVec.ofNat 32 (numAt l (32 + n) 4) = crc32c body),
    opcode := fld (w 0) 0 8, quiet := bitAt (w 0) 8, fence := bitAt (w 0) 9, plen := n,
    qpn := fld (w 1) 0 12, ctx := fld (w 1) 12 10, gen := BitVec.ofNat 8 (fld (w 1) 22 8), seq := BitVec.ofNat 32 (w 2),
    status := fld (w 3) 0 16, cls := fld (w 3) 16 3, w4 := BitVec.ofNat 32 (w 4), w5 := BitVec.ofNat 32 (w 5),
    w6 := BitVec.ofNat 32 (w 6), w7 := BitVec.ofNat 32 (w 7), payload := sliceZ l 32 n }

/-- Words 4-5 and 6-7 of a packet as 64-bit numbers. -/
def opA (p : Pkt) : Nat := p.w4.toNat + p.w5.toNat * 2 ^ 32
def opB (p : Pkt) : Nat := p.w6.toNat + p.w7.toNat * 2 ^ 32

/-- The slots a packet takes in a ring, in bytes (R164). -/
def slotBytes (payload : Nat) : Nat := ceilDiv (36 + payload) 64 * 64

/-! ### Near-memory requests (R238) -/

/-- The 32 bytes of a near-memory request, then the lane data of OP 14. -/
def nearBytes (r : NearReq) : List Byte :=
  leBytes 8 (r.fpa % 2 ^ 56) ++
  leBytes 4 (r.op % 16 + r.width % 4 * 2 ^ 4 + b2n r.ret * 2 ^ 6 + r.cls % 8 * 2 ^ 7 + r.ctx % 1024 * 2 ^ 10 + b2n (r.edom == 1) * 2 ^ 20) ++
  leBytes 4 r.pid ++ leBytes 8 r.operand.toNat ++ leBytes 8 r.compare.toNat ++ (if r.op = 14 then sliceZ r.lanes 0 64 else [])

/-- A near-memory request read from bytes. -/
def nearOf (l : List Byte) : NearReq :=
  let w := numAt l 8 4
  { fpa := numAt l 0 7, op := fld w 0 4, width := fld w 4 2, ret := bitAt w 6, cls := fld w 7 3, ctx := fld w 10 10,
    edom := fld w 20 1, pid := numAt l 12 4, operand := BitVec.ofNat 64 (numAt l 16 8),
    compare := BitVec.ofNat 64 (numAt l 24 8), lanes := if fld w 0 4 = 14 then sliceZ l 32 64 else [] }

/-! ### Fabric packets -/

/-- The access descriptor (R256). -/
def descBytes (f : FabPkt) : List Byte :=
  leBytes 8 f.target.toNat ++
  leBytes 4 (f.tkind % 16 + f.ctx % 1024 * 2 ^ 4 + f.cls % 8 * 2 ^ 14 + f.edom % 2 * 2 ^ 17 + f.status % 32 * 2 ^ 18) ++
  leBytes 2 f.len ++ [0, 0]

/-- The bytes of a command packet on the fabric; those of a message that no opcode of R159 names, whose number lies above the OPCODE
field, are free values, as many as the model's own form of it has (notes/assumptions/22.md). -/
def cmdBody (p : Pkt) : List Byte :=
  let b := pktBytes p
  if p.opcode < 256 then b else (List.range b.length).map (Config.wireByte p.opcode b)

/-- The body of a fabric packet: as kept where it travels encrypted or in transit, else by KIND. -/
def fabBody (f : FabPkt) : List Byte :=
  if !f.sealed.isEmpty then f.sealed
  else match f.kind with
    | 0 => match f.cmd with | some p => cmdBody p | none => f.data
    | 1 => descBytes f
    | 2 => descBytes f ++ f.data
    | 3 => match f.near with | some r => nearBytes r | none => []
    | 4 => descBytes f ++ f.data
    | 5 => f.data
    | 6 => f.data
    | _ => []

/-- The 32-byte header (R255). -/
def fabHeader (f : FabPkt) (bodyLen : Nat) : List Byte :=
  wordBytes
    [BitVec.ofNat 32 (f.dst % 16384 + f.vc % 8 * 2 ^ 14 + f.kind % 16 * 2 ^ 17 + b2n f.conf * 2 ^ 21 + b2n f.nonmin * 2 ^ 22 + f.inter % 256 * 2 ^ 24),
     BitVec.ofNat 32 (f.src % 16384 + f.lane % 16 * 2 ^ 14 + f.phase % 4 * 2 ^ 18 + f.keyix % 4 * 2 ^ 20),
     f.flowSeq, BitVec.ofNat 32 f.pid, f.pgen,
     BitVec.ofNat 32 (bodyLen % 16384 + f.gwPos % 64 * 2 ^ 14 + f.gwPort % 32 * 2 ^ 20)] ++ leBytes 8 f.tag.toNat

/-- Header, body and padding to whole flits (R255). -/
def fabBytes (f : FabPkt) : List Byte :=
  let b := fabBody f
  let x := fabHeader f b.length ++ b
  x ++ List.replicate ((64 - x.length % 64) % 64) 0

/-- The header of a packet read from bytes; the body is kept as `sealed`. -/
def fabHeadOf (l : List Byte) : FabPkt :=
  let w (i : Nat) : Nat := numAt l (4 * i) 4
  { dst := fld (w 0) 0 14, vc := fld (w 0) 14 3, kind := fld (w 0) 17 4, conf := bitAt (w 0) 21, nonmin := bitAt (w 0) 22,
    inter := fld (w 0) 24 8, src := fld (w 1) 0 14, lane := fld (w 1) 14 4, phase := fld (w 1) 18 2, keyix := fld (w 1) 20 2,
    flowSeq := BitVec.ofNat 32 (w 2), pid := w 3, pgen := BitVec.ofNat 32 (w 4), gwPos := fld (w 5) 14 6,
    gwPort := fld (w 5) 20 5, tag := BitVec.ofNat 64 (numAt l 24 8), sealed := sliceZ l 32 (fld (w 5) 0 14) }

/-- A packet with its plain body read by KIND. -/
def fabOpen (f : FabPkt) (b : List Byte) : FabPkt :=
  let w := numAt b 8 4
  let f := { f with sealed := [] }
  match f.kind with
  | 0 => { f with cmd := some (pktOfBytes (.fabric f.src f.pid f.pgen.toNat) b) }
  | 3 => { f with near := some (nearOf b) }
  | 1 | 2 | 4 =>
    { f with target := BitVec.ofNat 64 (numAt b 0 8), tkind := fld w 0 4, ctx := fld w 4 10, cls := fld w 14 3, edom := fld w 17 1,
             status := fld w 18 5, len := numAt b 12 2, data := b.drop 16 }
  | _ => { f with data := b }

end Sys2Proof.Machine
end

