-- ==== Sys2Proof/Machine/FabSend.lean ====
section
/-! DEFINITION. What a module sends on the fabric: routes (spec/09 R261-R266), flows and their markers (R257-R260),
what waits for a port and its credits (R253, R254), encryption (R284), and the start of a key agreement
(spec/13 R367-R369). -/
namespace Sys2Proof.Machine

/-! ### Identity and routes -/

def stookOf (m : Nat) : Nat := m / 64
def posOf (m : Nat) : Nat := m % 64

/-- The stook-local port from position `a` towards position `b` (R264). -/
def localPort (a b : Nat) : Nat :=
  if a % 8 ≠ b % 8 then (b % 8 + 8 - a % 8 - 1 + 8) % 8 else 16 + (b / 8 + 8 - a / 8 - 1 + 8) % 8

/-- Link hops between positions of one stook (R264). -/
def localHops (a b : Nat) : Nat := b2n (a % 8 != b % 8) + b2n (a / 8 != b / 8)

/-- The route-table entry of a stook: its valid candidates (gateway position, global port), packed from 0 (R288). -/
def candidates (s : State) (t : Nat) : List (Nat × Nat) :=
  let e := (tabGet (fun _ => 0) s.dev.rt t).toNat
  ((List.range 8).map (fun k => fld e (12 * k) 12)).takeWhile (fun x => bitAt x 11) |>.map (fun x => (fld x 0 6, fld x 6 5))

/-- The global number of a global port at a position (R263). -/
def globalNum (pos q : Nat) : Nat := 18 * pos + (if q < 16 then q - 7 else q - 14)

/-- The far position of a global link in the reference wiring (R263): none where the port has no link there. -/
def farPos (pos q : Nat) : Nat :=
  let g := globalNum pos q
  let (d, k) := if g < 1020 then (g % 255 + 1, g / 255)
    else (if g - 1020 ≤ 65 then (g - 1020 + 1, 4) else (g - 1020 + 124, 4))
  let d' := 256 - d
  let g' := if k < 4 then 255 * k + d' - 1 else if d' ≤ 66 then 1020 + (d' - 1) else 1020 + (d' - 124)
  g' / 18

/-- The first-hop port towards a gateway. -/
def firstHop (s : State) (gw : Nat × Nat) : Nat :=
  if posOf (ownModule s) = gw.1 then gw.2 else localPort (posOf (ownModule s)) gw.1

def portUp (s : State) (q : Nat) : Bool := (getPort s q).st == 2

/-- ROLE of a port as it is configured (R287). -/
def portRole (x : Port) : Nat := fld x.cfg.toNat 19 2

/-- The role of a port: 0 is unused, and at scale class 0 every port is (R262). -/
def roleOf (s : State) (q : Nat) : Nat := if s.res.scale = 0 then 0 else portRole (getPort s q)

/-- Whether routes may use a port: it is UP, or retrains, which changes timing only (R252), and is not unused (R262, R265). -/
def routable (s : State) (q : Nat) : Bool :=
  (portUp s q || ((getPort s q).st == 1 && (getPort s q).again)) && roleOf s q != 0

/-- The packet that a VC of a port is sending. -/
def curOf (s : State) (q vc : Nat) : Option OutPkt := tabGet (fun _ => none) (getPort s q).cur vc

/-- Flits that wait for a port on a VC. -/
def queuedFlits (s : State) (q vc : Nat) : Nat :=
  ((s.fab.sent.filter (fun o => o.port == q && o.pkt.vc == vc)).map (fun o => o.total)).sum
    + (match curOf s q vc with | some o => o.total - o.sent | none => 0)

/-- Whether traffic of a slot may use a port: module traffic and the escape VC always, else where the slot has a share
(R265, R270, R271). -/
def mayInject (s : State) (slot : Option Nat) (vc q : Nat) : Bool :=
  match slot with
  | none => true
  | some i => decide (vc = 5) || decide (tabGet (fun _ => 0) (getSlot s i).brec.share q ≠ 0)

/-- A path: first-hop port, gateway, and the intermediate stook of a non-minimal path. -/
structure PathTo where
  port : Nat
  gw : Nat × Nat
  inter : Option Nat
deriving DecidableEq, Repr

/-- The lowest cost of a list of candidates, ties to the earlier. -/
def cheapest {α : Type} : List (Nat × α) → Option (Nat × α)
  | [] => none
  | (c, a) :: t =>
    match cheapest t with
    | none => some (c, a)
    | some (c', a') => if c' < c then some (c', a') else some (c, a)

/-- Link hops past a gateway's global link. Routing does not depend on the wiring (R263), so the far end is known only of the module's own
ports, from FAB_PORT_CFG; else the most that a phase takes are counted (R264; DEDUCED, notes/assumptions/21.md). -/
def hopsBeyond (s : State) (gw : Nat × Nat) (dst : Nat) : Nat :=
  if posOf (ownModule s) = gw.1 then localHops (posOf (fld (getPort s gw.2).cfg.toNat 0 14)) (posOf dst) else 2

/-- Candidates to a stook with their costs; `beyond` is the hops counted past the global link, none for a minimal path's (R265). -/
def costed (s : State) (slot : Option Nat) (vc t : Nat) (beyond : Option Nat) (dst : Nat) : List (Nat × (Nat × Nat)) :=
  ((candidates s t).filter (fun gw => routable s (firstHop s gw) && mayInject s slot vc (firstHop s gw))).map (fun gw =>
    let h := localHops (posOf (ownModule s)) gw.1 + 1 + beyond.getD (hopsBeyond s gw dst)
    ((queuedFlits s (firstHop s gw) vc + 1) * h, gw))

/-- The non-minimal candidate's intermediate stook (R265). -/
def interOf (s : State) (dst : Nat) (fseq : W32) : Nat :=
  let h := (crc32c (leBytes 4 (ownModule s) ++ leBytes 4 dst ++ leBytes 4 fseq.toNat)).toNat
  let own := stookOf (ownModule s)
  let i := h % 254
  let t := (own + 1 + i) % 256
  -- counting upward from own + 1, the destination stook is skipped
  let dd := (stookOf dst + 256 - own) % 256
  if dd ≤ i + 1 then (t + 1) % 256 else t

/-- The path a flow takes (R264-R266). `coll` is GROUP_ID + source rank of a collective flow. COMMANDs travel on VC 5 alone, and BARRIER and
COLL packets on VC 3, so those flows never take the non-minimal candidate, whatever packet opens them. -/
def choosePath (s : State) (slot : Option Nat) (vc dst : Nat) (fseq : W32) (coll : Option Nat) : Option PathTo :=
  let own := ownModule s
  if stookOf own = stookOf dst then
    let q := localPort (posOf own) (posOf dst)
    if routable s q && mayInject s slot vc q then some { port := q, gw := (0, 0), inter := none } else none
  else
    match coll with
    | some n =>
      let cs := candidates s (stookOf dst)
      let c0 := cs[n % cs.length]?
      match c0 with
      | some gw =>
        if routable s (firstHop s gw) then some { port := firstHop s gw, gw := gw, inter := none }
        else (cheapest (costed s slot vc (stookOf dst) none dst)).map (fun e => { port := firstHop s e.2, gw := e.2, inter := none })
      | none => none
    | none =>
      let mini := cheapest (costed s slot vc (stookOf dst) none dst)
      let non :=
        if s.dev.nonminEn && decide (vc ≠ 3) && decide (vc ≠ 5) then
          (cheapest (costed s slot vc (interOf s dst fseq) (some 5) dst)).map (fun e => (e.1, e.2, interOf s dst fseq))
        else none
      match mini, non with
      | some (c, gw), some (cn, gn, t) =>
        if cn + s.dev.adaptBias.toNat < c then some { port := firstHop s gn, gw := gn, inter := some t }
        else some { port := firstHop s gw, gw := gw, inter := none }
      | some (_, gw), none => some { port := firstHop s gw, gw := gw, inter := none }
      | none, some (_, gn, t) => some { port := firstHop s gn, gw := gn, inter := some t }
      | none, none => none

/-! ### Credits of the sending side (R253, R254), encryption (R284) -/

/-- Flits of a pool at the far receiver (R253). -/
def poolSize (vc : Nat) : Nat :=
  match vc with
  | 0 => 160
  | 1 => 256
  | 2 => 160
  | 3 => 256
  | 4 => 128
  | _ => 64

def poolOf (f : FabPkt) : Nat := 3 * f.vc + f.phase

/-- The credits a transmitter holds for a pool; at link-up, every flit of it (R254). -/
def creditsOf (x : Port) (pool : Nat) : Nat := tabGet (fun k => poolSize (k / 3)) x.credits pool

/-- Whether a packet may enter a port: one in transit may, one of this module by its slot's share (R270, R271). -/
def injects (s : State) (q : Nat) (f : FabPkt) : Bool := f.src != ownModule s || mayInject s (slotOfPid s f.pid) f.vc q

/-- The header bytes that a tag covers (R284): PHASE, GW_POS and GW_PORT as zero. -/
def aadOf (f : FabPkt) (bodyLen : Nat) : List Byte := fabHeader { f with phase := 0, gwPos := 0, gwPort := 0 } bodyLen

/-- A packet of a confidential slot as it is sent (R284): the counter, the ciphertext and the tag, under the key that it was numbered for. -/
def sealPkt (s : State) (f : FabPkt) : FabPkt :=
  if !f.conf || !f.sealed.isEmpty then f
  else
    let slot := slotOfPid s f.pid
    match s.fab.keys.find? (fun k => some k.slot == slot && k.peer == f.dst && k.keyix == f.keyix) with
    | none => f
    | some k =>
      let b := fabBody f
      { f with sealed := leBytes 8 f.counter
          ++ sized (b.length + 16) (Config.gcmSeal (k.tx.take 32) (k.tx.drop 32 ++ leBytes 8 f.counter) (aadOf f (b.length + 24)) b) }

/-- A list of bytes cut in flits of 64. -/
def flitsOf (l : List Byte) : List (List Byte) := (List.range (ceilDiv l.length 64)).map (fun i => sliceZ l (64 * i) 64)

/-- The flow of a packet (R257). -/
def flowOf (f : FabPkt) : FlowKey := ⟨f.src, f.dst, f.vc, f.lane⟩

/-- A packet of this module, or a whole one in transit, waits for a port's flit slots, behind what waits there. -/
def putOut (s : State) (q : Nat) (f : FabPkt) : State :=
  let l := flitsOf (fabBytes (sealPkt s f))
  { s with fab := { s.fab with sent := s.fab.sent ++ [{ port := q, pkt := f, flits := l, total := l.length }] } }

/-! ### Flows (R257, R258) -/

/-- LANE of a flow (R257). -/
def laneOf (unit : Nat) (key : Nat) : Nat := (crc32c (leBytes 4 unit ++ leBytes 8 key)).toNat % 16

def findTx (s : State) (k : FlowKey) : Option FlowTx := s.fab.tx.find? (fun t => t.key == k)

def setTx (s : State) (t : FlowTx) : State :=
  { s with fab := { s.fab with tx := if s.fab.tx.any (fun u => u.key == t.key) then s.fab.tx.map (fun u => if u.key == t.key then t else u)
      else s.fab.tx ++ [t] } }

/-- GROUP_ID + source rank of a COLL packet (R266). -/
def collKey (f : FabPkt) : Option Nat := if f.kind = 5 then some (f.tag.toNat % 2 ^ 32 + numAt f.data 0 4) else none

/-- The header fields that a flow's path gives a packet. -/
def onPath (t : FlowTx) (f : FabPkt) : FabPkt :=
  { f with gwPos := t.gwPos, gwPort := t.gwPort, nonmin := t.inter.isSome, inter := t.inter.getD 0 }

/-- A flow put on a path. -/
def takePath (t : FlowTx) (p : PathTo) : FlowTx := { t with port := p.port, gwPos := p.gw.1, gwPort := p.gw.2, inter := p.inter }

/-- What became of a packet handed to the fabric. -/
inductive SendRes where
  | sent (s : State)
  | noRoute (s : State)

/-- A packet numbered in its flow and put on its flow's path, the path chosen when the flow is new or its port is no
longer UP (R258, R265); a flow with a marker outstanding holds it (R259). Traffic for a failed module has no route (spec/11
R323). -/
def sendFlow (s : State) (slot : Option Nat) (coll : Option Nat) (f : FabPkt) : SendRes :=
  if s.part.failedPeers.contains f.dst then .noRoute { s with dev := { s.dev with fabNoRoute := sat32 s.dev.fabNoRoute } } else
  let k := flowOf f
  let cur := (findTx s k).getD { key := k, port := 32 }
  let f := { f with flowSeq := cur.next }
  if cur.marker.isSome then .sent (setTx s { cur with next := cur.next + 1, held := cur.held ++ [f] })
  else if cur.port < 32 && routable s cur.port then
    .sent (putOut (setTx s { cur with next := cur.next + 1 }) cur.port (onPath cur f))
  else match choosePath s slot f.vc f.dst cur.next coll with
    | some p =>
      let t := takePath { cur with next := cur.next + 1 } p
      .sent (putOut (setTx s t) p.port (onPath t f))
    | none => .noRoute { s with dev := { s.dev with fabNoRoute := sat32 s.dev.fabNoRoute } }

/-! ### Module traffic on the escape VC -/

/-- A command packet to another module (KIND 0 on the escape VC, R256), for a partition or, with PID 0, the module. -/
def commandPkt (s : State) (dst pid : Nat) (pgen : W32) (unit key : Nat) (p : Pkt) : FabPkt :=
  { dst := dst, vc := 5, kind := 0, src := ownModule s, lane := laneOf unit key, pid := pid, pgen := pgen, cmd := some p }

/-- The source unit of what the management complex sends: the front end of the active complex's half (R257 names no unit of its own: DESIGN
CHOICE, notes/assumptions/21.md). -/
def mgmtUnit (s : State) : Nat := 600 + b2n s.res.active

/-- A packet sent as it is, its loss for want of a route counted and otherwise without effect. -/
def sendPlain (s : State) (slot : Option Nat) (f : FabPkt) : State :=
  match sendFlow s slot none f with
  | .sent s => s
  | .noRoute s => s

/-! ### Key agreement, initiator's side (spec/13 R367-R368) -/

/-- The 32-byte header of a LINK_KEX payload (R367). -/
def kexHeader (s : State) (phase : Nat) (x : Kex) (ini rsp : Nat) : List Byte :=
  let sl := getSlot s x.slot
  [BitVec.ofNat 8 phase, BitVec.ofNat 8 x.keyix, 0, 0] ++ leBytes 4 sl.brec.pid ++ leBytes 4 sl.pgen.toNat
    ++ leBytes 2 ini ++ leBytes 2 rsp ++ leBytes 8 (Config.freeValue x.seed).toNat ++ leBytes 8 (Config.freeValue (x.seed + 1)).toNat

/-- The certificate that a CHAIN carries: the vendor certificate's 2,948 bytes, zero before one is installed; in DEBUG and RMA a
certificate of the test identity key under the test root (R364; notes/assumptions/37.md). -/
def certBytes (s : State) : List Byte :=
  if testRoot s then
    let b := leBytes 4 0x56430001 ++ serialBytes s ++ sized 68 (identityPub s) ++ leBytes 8 0
    sized 0x60 b ++ keyId (sized 68 (identityPub s)) ++ sized 2820 (Config.xmssSign 1 0 b)
  else sized 2948 (s.sec.cert.getD [])

/-- A LINK_KEX packet; its SEQ names the slot and the phase it serves (notes/assumptions/23.md). -/
def kexPkt (slot phase : Nat) (payload : List Byte) : Pkt :=
  { opcode := 0xE2, seq := BitVec.ofNat 32 (2 ^ 30 + 10 * 2 ^ 24 + phase * 256 + slot), payload := payload, plen := payload.length }

def setKex (s : State) (x : Kex) : State :=
  { s with fab := { s.fab with kex := s.fab.kex.map (fun y => if y.slot == x.slot && y.peer == x.peer && y.initiator == x.initiator then x else y) } }

/-- The initiator sends CHAIN to a peer not verified in this boot, else INIT; KEY_LOCKED refuses the attestation
signature that INIT needs, and the agreement stays to be retried (R362, R368, R369). -/
def kexGo (s : State) (x : Kex) : State :=
  let own := ownModule s
  if !s.fab.verified.any (fun v => v.mid == x.peer) then
    sendPlain (setKex s { x with st := 0 }) none
      (commandPkt s x.peer 0 0 (mgmtUnit s) x.peer (kexPkt x.slot 0 (kexHeader s 0 x own x.peer ++ sized 68 (identityPub s) ++ certBytes s)))
  else
    let hd := kexHeader s 1 x own x.peer
    let ek := sized 1568 (Config.kemKey x.seed)
    match attSign s (hd ++ sized 2980 s.sec.attCert ++ ek) with
    | (some sig, s) =>
      let pl := hd ++ sized 2980 s.sec.attCert ++ ek ++ sig
      sendPlain (setKex s { x with st := 1, init := pl }) none (commandPkt s x.peer 0 0 (mgmtUnit s) x.peer (kexPkt x.slot 1 pl))
    | (none, s) => setKex s { x with st := 4 }

/-- The live keys of a pair. -/
def keysOf (s : State) (slot peer : Nat) : List LinkKey := s.fab.keys.filter (fun k => k.slot == slot && k.peer == peer)

/-- The lowest KEYIX with no live key (R368). -/
def freeKeyix (s : State) (slot peer : Nat) : Option Nat :=
  (List.range 4).find? (fun i => !(keysOf s slot peer).any (fun k => k.keyix == i))

/-- An agreement begun as initiator for a packet that has no key; a packet joins one that is under way (R368). With four keys live it waits to
be retried until a KEYIX is free (R286, R369). -/
def kexStart (s : State) (slot peer : Nat) (held : List FabPkt) : State :=
  match s.fab.kex.find? (fun x => x.slot == slot && x.peer == peer && x.initiator) with
  | some x => setKex s { x with held := x.held ++ held }
  | none =>
    let ix := freeKeyix s slot peer
    let x : Kex := { slot := slot, peer := peer, keyix := ix.getD 4, initiator := true, st := if ix.isSome then 0 else 4,
                     seed := s.fresh, held := held }
    let s := { s with fresh := s.fresh + 2, fab := { s.fab with kex := s.fab.kex ++ [x] } }
    if ix.isSome then kexGo s x else s

/-- The key a module sends under: the newest live one (R369). -/
def sendKey (s : State) (slot peer : Nat) : Option LinkKey := (keysOf s slot peer).getLast?

/-- A packet of a slot sent, encrypted under the pair's key where the slot is confidential (R284): without a live key, or
past 2^40 packets, it is held for an agreement (R368, R286). -/
def sendSlot (s : State) (slot : Nat) (coll : Option Nat) (f : FabPkt) : SendRes :=
  if !(getSlot s slot).brec.conf then sendFlow s (some slot) coll f
  else match sendKey s slot f.dst with
    | none => .sent (kexStart s slot f.dst [f])
    | some k =>
      if 2 ^ 40 ≤ k.sent then
        let s := kexStart s slot f.dst [f]
        .sent { s with fab := { s.fab with keys := s.fab.keys.map (fun j => if j == k then { j with waiting := true } else j) } }
      else
        let n := k.sent + 1
        let keys := s.fab.keys.map (fun j => if j == k then { j with sent := n } else j)
        sendFlow { s with fab := { s.fab with keys := keys } } (some slot) coll { f with conf := true, keyix := k.keyix, counter := n }

/-- A packet sent for the slot of its PID, or as module traffic where no slot holds it. -/
def sendFor (s : State) (f : FabPkt) : State :=
  match slotOfPid s f.pid with
  | none => sendPlain s none f
  | some i =>
    match sendSlot s i none f with
    | .sent s => s
    | .noRoute s => s

/-! ### Requests with a tag (R254, R256) -/

/-- A request's tag: the number that names it among the outstanding ones. -/
def takeTag (s : State) : Nat × State := (s.fab.nextTag, { s with fab := { s.fab with nextTag := s.fab.nextTag + 1 } })

/-- SEQ of a message whose answer is awaited under a tag: the tag above 2^31, so that it cannot be a command's (DESIGN CHOICE,
notes/assumptions/23.md). -/
def tagSeq (tag : Nat) : Nat := 2 ^ 31 + tag % 2 ^ 31

/-- VC of a request or response for a class (R256). -/
def vcFor (kind cls : Nat) : Nat :=
  if kind = 2 then 2 else if cls = 7 then 4 else if kind = 4 then 1 else 0

/-- A request sent for a context: its tag is remembered until the response. A core instruction's PC is that before the tenancy
went past it. None where there is no route (R267: as
refused at memory). -/
def sendReqAt (s : State) (who : Asker) (addr : W64) (ctx core unit key : Nat) (f : FabPkt) : Option State :=
  let c := getCtx s ctx
  let sl := getSlot s c.slot
  let (tag, s) := takeTag s
  let pc : W64 := match who with
    | .ten t _ _ => (match findTen s t with | some x => x.pc - 8 | none => 0)
    | .posted t => (match findTen s t with | some x => x.pc - 8 | none => 0)
    | .probe t _ _ _ => (match findTen s t with | some x => x.pc - 8 | none => 0)
    | .fetch t _ => (match findTen s t with | some x => x.pc | none => 0)
    | _ => 0
  let fpa : Option Nat := if f.tkind ≠ 0 then none else match f.near with
    | some r => some r.fpa
    | none => if f.kind = 1 ∨ f.kind = 2 then some f.target.toNat else none
  let o : Outst := { tag := tag, who := who, kind := f.kind, pc := pc, addr := addr, fpa := fpa, ctx := ctx, cgen := c.gen, bgen := unitGen s ⟨0, core⟩,
                     core := core, dst := f.dst }
  let f := { f with src := ownModule s, lane := laneOf unit key, pid := sl.brec.pid, pgen := sl.pgen,
                    tag := BitVec.ofNat 64 tag, ctx := ctx }
  match sendSlot s c.slot none f with
  | .sent s => some { s with fab := { s.fab with outst := s.fab.outst ++ [o] } }
  | .noRoute _ => none

/-- A request whose fault names no address. -/
def sendReq (s : State) (who : Asker) (ctx core unit key : Nat) (f : FabPkt) : Option State := sendReqAt s who 0 ctx core unit key f

end Sys2Proof.Machine
end

