-- ==== Sys2Proof/Machine/Front.lean ====
section
/-! DEFINITION. The command front ends (spec/06): which opcode is accepted on which path, rings, replies, events and
their waits, the arrival checks of R160 to R163, and when a head packet may start (R167, R169, R171, R173). -/
namespace Sys2Proof.Machine

/-! ### Status codes (R182) -/

def stOk : Nat := 0x00
def stRetry : Nat := 0x01
def stLen : Nat := 0x02
def stOpcode : Nat := 0x03
def stLost : Nat := 0x04
def stGen : Nat := 0x05
def stFenced : Nat := 0x06
def stRange : Nat := 0x07
def stDenied : Nat := 0x08
def stRegress : Nat := 0x09
def stDeadlock : Nat := 0x0A
def stFqFull : Nat := 0x0B
def stUnc : Nat := 0x0C
def stBusy : Nat := 0x0D
def stAuth : Nat := 0x0E
def stTimeout : Nat := 0x0F
def stFgx : Nat := 0x10
def stPart : Nat := 0x11
def stEpoch : Nat := 0x12
def stProg : Nat := 0x13
def stKey : Nat := 0x14
def stGuard : Nat := 0x15
def stPower : Nat := 0x16
def stUnbound : Nat := 0x17

/-! ### Paths (R159, R40, spec/07 R196, spec/08, spec/12 R333, R347, spec/13) -/

/-- Whether QP 0 of a Haldip port accepts an opcode. -/
def onM (op : Nat) : Bool :=
  [0x00, 0x01, 0x02, 0x03, 0x20, 0x21, 0x23, 0x40, 0x41, 0x43, 0x44, 0x45, 0x60, 0x61, 0x62, 0x63, 0x80, 0x81].contains op
    || (decide (0x88 ≤ op) && decide (op ≤ 0x90)) || (decide (0x97 ≤ op) && decide (op ≤ 0x9A))
    || (decide (0xA0 ≤ op) && decide (op ≤ 0xA8)) || [0xC0, 0xC1, 0xE0, 0xE1].contains op

/-- Whether another Haldip QP accepts it. -/
def onH (op : Nat) : Bool :=
  [0x00, 0x20, 0x21, 0x23, 0x40, 0x41, 0x45, 0x60, 0x61, 0x62, 0x63, 0xA3, 0xA5, 0xC0].contains op

/-- Whether a device-sourced QP accepts it. -/
def onD (op : Nat) : Bool := [0x00, 0x20, 0x21, 0x23, 0x40, 0x41, 0x45, 0x60, 0xA3, 0xC0].contains op

/-- Whether the sideband accepts it. -/
def onS (op : Nat) : Bool := [0x00, 0x02, 0x45, 0x80, 0x81, 0xC1].contains op

/-- Opcodes that act on QP 0 for the context that CTX names (R418). -/
def actsForCtx (op : Nat) : Bool :=
  [0x20, 0x21, 0x23, 0x40, 0x41, 0x60, 0x61, 0x62, 0x63].contains op || (decide (0xA0 ≤ op) && decide (op ≤ 0xA8))

/-- The checks of R418, in order: the status of the first that fails. -/
def ctxCheck (s : State) (ctx : Nat) (gen : BitVec 8) : Option Nat :=
  let c := getCtx s ctx
  if c.st = 0 then some stUnbound
  else if gen ≠ c.gen.setWidth 8 then some stGen
  else if c.st = 2 then some stLost
  else if c.st = 3 then some (match c.down with | some d => if d.live then stFenced else stLost | none => stFenced)
  else none

/-- The status that work of a context that is not LIVE gets (R183). -/
def downStatus (s : State) (ctx : Nat) : Nat :=
  let c := getCtx s ctx
  if c.st = 3 then (match c.down with | some d => if d.live then stFenced else stLost | none => stFenced) else stLost

/-! ### Rooms (R167) -/

/-- The room of the largest single reply of an opcode. -/
def roomOf (op : Nat) : Nat :=
  if op = 0x02 then 128 else if [0x21, 0x80, 0x90, 0xE1].contains op then 8256 else 64

/-- What a packet of `size` bytes takes at a position of a ring: the pad to the ring's end when it does not fit there,
then itself (R164). -/
def ringNeed (log : Nat) (pos size : Nat) : Nat :=
  let off := pos % 2 ^ log
  if off + size ≤ 2 ^ log then size else 2 ^ log - off + size

/-- Where a packet of `size` bytes starts. -/
def ringAt (log : Nat) (pos size : Nat) : Nat := pos + (ringNeed log pos size - size)

/-- The rooms kept for commands begun on a QP that have not replied. -/
def keptRooms (s : State) (q : QRef) : List Nat :=
  (s.fe.begun.filter (fun b => b.q == q && b.roomKept)).map (fun b => roomOf b.pkt.opcode)

/-- Bytes of QP 0's reply store in use (R161): the room kept for a packet stays until its reply has been sent. -/
def storeUsed (s : State) (port : Nat) : Nat := ((getFe s port).store.map (fun r => max r.room (slotBytes r.payload.length))).sum

/-- The head of a completion ring: the consumer's event for SOURCE = 1 (R167). -/
def cqHeadOf (s : State) (x : Qp) : Nat :=
  if x.source then (getEv s (x.cqHeadEvt.toNat % 65536)).val.toNat else x.cqHead

/-- The most bytes of a ring of `2 ^ log` that a reply of `room` and the replies that rooms are kept for can take from position
`pos`, in whatever order they come: at most one of them meets the ring's end and writes a pad before it (R164). -/
def roomsNeed (log pos : Nat) (kept : List Nat) (room : Nat) : Nat :=
  if kept.isEmpty then ringNeed log pos room
  else
    let total := kept.sum + room
    let e := 2 ^ log - pos % 2 ^ log
    if total ≤ e then total else total + min e (kept.foldl max room - 64)

/-- Whether a reply of `room` bytes has room behind what is kept. -/
def replyRoom (s : State) (q : QRef) (room : Nat) : Bool :=
  match q with
  | .qp n =>
    let x := getQp s n
    decide (x.cqTail - cqHeadOf s x + roomsNeed x.cqLog x.cqTail (keptRooms s q) room ≤ 2 ^ x.cqLog)
  | .mgmt h => decide (storeUsed s h + (keptRooms s q).sum + room ≤ 65536)
  | _ => true

/-! ### Rings in memory (R164) -/

/-- The loss of a context whose ring lies in a REVOKED entry (R165, R227): a command's record, with `wher` its SEQ and QPN (spec/08
R234). -/
def ringRevoked (s : State) (ctx half va : Nat) (wher : W64) (write : Bool) : State :=
  loseCause (fatalFault s 5 1 ctx write (BitVec.ofNat 64 va) wher 0xFFFFFF half 0) s

/-- SEQ and QPN of a queue pair's packet, as a command's record has them (spec/08 R234). -/
def seqQpn (seq : W32) (n : Nat) : W64 := BitVec.ofNat 64 (seq.toNat + n * 2 ^ 32)

/-- Bytes written into a ring of the context by the front end of a half; a REVOKED ring makes the context LOST (R165, R227). -/
def ringWrite (s : State) (half : Nat) (wher : W64) (ctx va : Nat) (l : List Byte) : State :=
  (pieces va l.length).foldl (fun s (e : Nat × Nat) =>
    match translate s none ctx e.1 with
    | (.hit r, v, s) =>
      let f := rangeFpa r v
      match memWrite s .write ctx (pidOfCtx s ctx) r.edom (f % 2 ^ 42) (sliceZ l (e.1 - va) e.2) with
      | .ok _ s => s
      | .unc s => s
      | _ => s
    | (.revoked, _, s) => ringRevoked s ctx half e.1 wher true
    | (_, _, s) => s) s

/-- A packet of `size` bytes with its slots written into a ring at a position, behind a pad, a NOP with QUIET, where it does not fit
before the ring's end (R164). -/
def ringPut (s : State) (half : Nat) (wher : W64) (ctx base log pos size : Nat) (l : List Byte) : State :=
  let start := ringAt log pos size
  let pad := start - pos
  let s := if pad = 0 then s else ringWrite s half wher ctx (base + pos % 2 ^ log)
    (packetBytes 0 1 0 0 0 0 0 0 0 0 0 0 (List.replicate (pad - 36) 0))
  ringWrite s half wher ctx (base + start % 2 ^ log) l

/-- Bytes read from a ring of the context, none where they cannot be read. Every word is decoded (spec/08 R215); an uncorrectable word
and a REVOKED entry make the context LOST (spec/08 R217, R227). -/
def ringRead (s : State) (half : Nat) (wher : W64) (kind : ReqKind) (ctx va n : Nat) : Option (List Byte) × State :=
  (pieces va n).foldl (fun acc (e : Nat × Nat) =>
    match acc with
    | (none, s) => (none, s)
    | (some l, s) =>
      match translate s none ctx e.1 with
      | (.hit r, v, s) =>
        (match memRead s kind ctx (pidOfCtx s ctx) r.edom (rangeFpa r v % 2 ^ 42) e.2 with
        | .ok d s => (some (l ++ d), s)
        | .unc s => (none, s)
        | _ => (none, s))
      | (.revoked, _, s) => (none, ringRevoked s ctx half e.1 wher false)
      | (_, _, s) => (none, s)) (some [], s)

/-! ### Events (R184-R188) -/

def evNum (h : W32) : Nat := h.toNat % 65536
def evMod (h : W32) : Nat := fld h.toNat 16 14

/-- The submission tail of a queue pair: of SOURCE = 1 its event (R164, R166). -/
def sqTailOf (s : State) (x : Qp) : Nat := if x.source then (getEv s (evNum x.sqTailEvt)).val.toNat else x.sqTail

/-- What the front end finds at a position of a device-sourced ring (R166): nothing to start where the read has ended the context. -/
inductive DevAt where
  | none
  | bad (p : Pkt)
  | good (p : Pkt)
deriving DecidableEq, Repr

/-- The packet at a position of a device-sourced ring: good when all of it lies between head and tail and before the ring's end, its
length and trailer right; of another, as much of the header as could be read. -/
def devPacket (s : State) (kind : ReqKind) (n pos : Nat) (x : Qp) : DevAt × State :=
  let off := pos % 2 ^ x.sqLog
  let blank : Pkt := { qpn := n, ctx := x.ctx, gen := x.cgen.setWidth 8 }
  match ringRead s x.port (seqQpn 0 n) kind x.ctx (x.sqBase + off) 64 with
  | (none, s) => (if (getCtx s x.ctx).st = 1 then .bad blank else .none, s)
  | (some h, s) =>
    let plen := fld (numAt h 0 4) 16 16
    let size := slotBytes plen
    let p0 := pktOfBytes (.dev n) h
    if 8192 < plen ∨ sqTailOf s x < pos + size ∨ 2 ^ x.sqLog < off + size then (.bad p0, s)
    else match ringRead s x.port (seqQpn p0.seq n) kind x.ctx (x.sqBase + off) size with
      | (none, s) => (if (getCtx s x.ctx).st = 1 then .bad p0 else .none, s)
      | (some l, s) => let p := pktOfBytes (.dev n) l; (if p.rxOk then .good p else .bad p, s)

/-- The packets of a device-sourced ring from a position to its tail, up to one that cannot be read; `k` bounds them. -/
def devRing (kind : ReqKind) (n : Nat) (x : Qp) : Nat → Nat → State → List Pkt × State
  | 0, _, s => ([], s)
  | k + 1, pos, s =>
    if sqTailOf s x ≤ pos then ([], s)
    else match devPacket s kind n pos x with
      | (.good p, s) => let r := devRing kind n x k (pos + slotBytes p.plen) s; (p :: r.1, r.2)
      | (_, s) => ([], s)

/-- The packets that a queue pair's submission ring holds, not started: of SOURCE = 1, those that the front end has not read too. -/
def ringHolds (s : State) (n : Nat) : List Pkt :=
  let x := getQp s n
  if x.source then
    let pos := x.sqHead + (x.sq.map (fun p => slotBytes p.plen)).sum
    x.sq ++ (devRing .internal n x ((sqTailOf s x - pos) / 64) pos s).1
  else x.sq

/-- Whether an event serves a context (R185): it holds it, or its slot holds it as SHARED. -/
def evServes (s : State) (ctx e : Nat) : Bool :=
  let x := getEv s e
  (x.st == 1 && x.ctx == ctx) || (x.st == 2 && x.slot == (getCtx s ctx).slot)

/-- A wait with target `t` is satisfied at value `c` (R187). -/
def waitMet (c t : W64) : Bool := decide ((c - t).toNat < 2 ^ 63)

/-- Whether a record of `v` on value `c` advances the event (R186). -/
def recAdvances (c v : W64) : Bool := decide (1 ≤ (v - c).toNat) && decide ((v - c).toNat ≤ 2 ^ 63 - 1)

/-! ### Replies (R181) -/

/-- The reply to a packet: its QPN, CTX, GEN, SEQ and CLASS. -/
def replyTo (p : Pkt) (status : Nat) : Reply :=
  { opcode := 0xF0, qpn := p.qpn, ctx := p.ctx, gen := p.gen, seq := p.seq, cls := p.cls, status := status }

/-- Opcodes whose replies carry data, on which QUIET is ignored (R157). -/
def noQuiet (op : Nat) : Bool := [0x21, 0x80, 0x02, 0x45, 0x90].contains op

/-- A packet the module sends in answer, as a command packet of the fabric. -/
def replyPkt (r : Reply) : Pkt :=
  { opcode := r.opcode, qpn := r.qpn, ctx := r.ctx, gen := r.gen, seq := r.seq, status := r.status, cls := r.cls,
    w4 := r.w4, w5 := r.w5, w6 := r.w6, w7 := r.w7, payload := r.payload, plen := r.payload.length }

/-- An event takes a value, without any check, and the waits it satisfies leave the table; who waited is answered by
`wakeAll`. -/
def setEvent (s : State) (e : Nat) (v : W64) : State := setEv s e { getEv s e with val := v }

/-- A regression on an event: dropped, and counted in its half (R186). -/
def regression (s : State) (e : Nat) : State :=
  let h := halfOfEvent e
  { s with ev := { s.ev with regress := tabSet (fun _ => 0) s.ev.regress h (tabGet (fun _ => 0) s.ev.regress h + 1) } }

/-- A record of the module's own on an event (R186); who waited is released by the caller (`wakeAll`). -/
def postEvent (s : State) (e : Nat) (v : W64) : State :=
  let c := (getEv s e).val
  if recAdvances c v then setEvent s e v else if v = c then s else regression s e

/-- A packet written into a QP's completion ring, its new tail recorded for SOURCE = 1 (R167). Waits on the tail's event
are released by the caller (`wakeAll`). -/
def cqWrite (s : State) (n : Nat) (r : Reply) : State :=
  let x := getQp s n
  let size := slotBytes r.payload.length
  let start := ringAt x.cqLog x.cqTail size
  let s := ringPut s x.port (seqQpn r.seq n) x.ctx x.cqBase x.cqLog x.cqTail size (replyBytes r)
  let x := { x with cq := if x.source then x.cq else x.cq ++ [(start, r)], cqTail := start + size }
  let s := setQp s n x
  if x.source then postEvent s (evNum x.cqTailEvt) (BitVec.ofNat 64 x.cqTail) else s

/-- Whether a reply is a READ_REPLY behind the first of its read, for which no room was kept. -/
def laterReply (r : Reply) : Bool := r.opcode == 0x22 && (decide (r.w6 ≠ 0) || decide (r.w7 ≠ 0))

/-- A reply goes where its request came from; QUIET drops an OK that carries no data. A completion of a context whose
generation has moved on is chaff (R47). -/
def sendReply (q : QRef) (p : Pkt) (r : Reply) (s : State) : State :=
  if p.quiet && decide (r.status = 0) && decide (r.opcode = 0xF0) && !noQuiet p.opcode then s
  else match q with
    | .qp n =>
      let x := getQp s n
      if (getCtx s x.ctx).gen ≠ x.cgen then addChaff s (getCtx s x.ctx).slot
      else if x.st = 0 then s
      else cqWrite s n r
    | .mgmt h => let x := getFe s h; setFe s h { x with store := x.store ++ [{ r with room := if laterReply r then 0 else roomOf p.opcode }] }
    | .side => { s with fe := { s.fe with sideHeld := s.fe.sideHeld ++ [r] } }
    | .fabric mid pid pgen => sendFor s (commandPkt s mid pid (BitVec.ofNat 32 pgen) 600 mid (replyPkt r))

/-- A plain status reply. -/
def answer (q : QRef) (p : Pkt) (status : Nat) (s : State) : State := sendReply q p (replyTo p status) s

/-- A status reply with a cursor in words 6-7 (R178). -/
def answerAt (q : QRef) (p : Pkt) (status cursor : Nat) (s : State) : State :=
  sendReply q p { replyTo p status with w6 := BitVec.ofNat 32 cursor, w7 := BitVec.ofNat 32 (cursor / 2 ^ 32) } s

/-- A status reply with word 4. -/
def answerW4 (q : QRef) (p : Pkt) (status w4 : Nat) (s : State) : State :=
  sendReply q p { replyTo p status with w4 := BitVec.ofNat 32 w4 } s

/-! ### Commands begun -/

/-- A command begins under the next number and stays until its job ends. -/
def begin (q : QRef) (p : Pkt) (j : Job) (cursor : Nat) (s : State) : State :=
  let b : Begun := { id := s.fe.nextId, q := q, pkt := p, job := j, cursor := cursor }
  { s with fe := { s.fe with nextId := s.fe.nextId + 1, begun := s.fe.begun ++ [b] } }

/-- A begun command ends with a reply. -/
def finish (id : Nat) (f : QRef → Pkt → State → State) (s : State) : State :=
  match findBegun s id with
  | some b => f b.q b.pkt (dropBegun s id)
  | none => s

/-- A begun command ends with a status. -/
def finishStatus (id status : Nat) (s : State) : State := finish id (fun q p s => answer q p status s) s

/-! ### Unbinding (R51) -/

/-- The commands begun on a queue; a run's COPYs are not among them. -/
def begunOn (s : State) (q : QRef) : List Begun :=
  s.fe.begun.filter (fun b => b.q == q && (match b.job with | .copy _ _ _ (some _) => false | _ => true))

/-- Whether an UNBINDING queue pair is done: its commands have ended and its completion ring is drained, or its port is
DOWN (R51, spec/11 R315). -/
def unbindDone (s : State) (n : Nat) : Bool :=
  let x := getQp s n
  let down := !(getFe s x.port).up
  let drained := if x.source then decide (x.cqTail = cqHeadOf s x) else x.cq.isEmpty
  x.st == 4 && (begunOn s (.qp n)).isEmpty && (x.sq.isEmpty || down) && (drained || down)

/-- UNBINDING queue pairs that are done become UNBOUND, and their QP_UNBINDs are answered (R51). -/
def unbindCheck (s : State) : State :=
  let l := (s.fe.qps.map (·.1)).filter (unbindDone s)
  l.foldl (fun s n =>
    let s := setQp s n {}
    match s.fe.begun.find? (fun b => b.job == .unbind n) with
    | some b => finishStatus b.id stOk s
    | none => s) s

/-! ### Waking who waits (R187) -/

/-- A tenancy's EWAIT, or a run's WAIT, ends; the instruction is then done. -/
def wakeTen (s : State) (t : TenRef) : State :=
  match findTen s t with
  | some x => setTen (lullWake s (halfOfCore x.core))
      { x with wait := .none, pc := x.pc + 8, since := if x.loc = .swapped then s.dev.now else x.since }
  | none => s

def wakeRun (s : State) (r : Nat) : State :=
  match getRun s r with
  | some x =>
    let regs := match x.wait with
      | .event _ _ (some d) => tabSet (fun _ => 0) x.s d 0
      | _ => x.s
    setRun (lullWake s (x.core / 8)) r (some { x with wait := .none, ahead := false, pc := x.pc + 1, s := regs })
  | none => s

/-- One released waiter (R188): a command completes, a tenancy or run goes on, a remote waiter is answered, a stream's
turn may begin. -/
def wake (w : WaitReg) (s : State) : State :=
  match w.who with
  | .cmd id => finishStatus id stOk s
  | .ten t => wakeTen s t
  | .run r => wakeRun s r
  | .remote mid pid tag =>
    sendFor s (commandPkt s mid pid (match slotOfPid s pid with | some i => (getSlot s i).pgen | none => 0)
      (600 + halfOfEvent w.ev) (w.ev + ownModule s * 2 ^ 16) { opcode := 0xF0, seq := tag })
  | .stream n => let x := getStream s n; setStream s n { x with ready := true }

/-- The satisfied waits of an event leave the table and are released, in the order of registration. -/
def releaseEv (s : State) (e : Nat) : State :=
  let v := (getEv s e).val
  let hit := fun (w : WaitReg) => w.ev == e && waitMet v w.target
  let l := s.ev.waits.filter hit
  let s := { s with ev := { s.ev with waits := s.ev.waits.filter (fun w => !hit w) } }
  l.foldl (fun s w => wake w s) s

/-- Satisfied waits released, in `n` rounds, since a release can record a further event (a completion ring's tail). -/
def wakeLoop : Nat → State → State
  | 0, s => s
  | n + 1, s =>
    match s.ev.waits.find? (fun w => waitMet (getEv s w.ev).val w.target) with
    | some w => wakeLoop n (releaseEv s w.ev)
    | none => s

/-- Every satisfied wait released: each round takes at least one wait out of the table. -/
def wakeOut (s : State) : State := wakeLoop s.ev.waits.length s

/-- The end of a step: who can be released is, and unbindings that are done are answered. -/
def wakeAll (s : State) : State := unbindCheck (wakeOut s)

/-- A record on a local event (R186): the flag says whether it was a regression, which is counted. -/
def record (s : State) (e : Nat) (v : W64) : Bool × State :=
  let c := (getEv s e).val
  if recAdvances c v then (false, wakeOut (releaseEv (setEvent s e v) e))
  else if v = c then (false, s)
  else (true, regression s e)

/-- A run, or a kernel that it dispatched, posts collectives: its record advances the doorbell of a stream (spec/09 R274), and their
overflow is that run's (spec/03 R84). -/
def postBy (s : State) (e : Nat) (v : W64) (run incarn : Nat) : State :=
  let c := (getEv s e).val
  if recAdvances c v then
    { s with fab := { s.fab with streams := s.fab.streams.map (fun x =>
        if x.2.st = 1 ∧ evMod x.2.door = ownModule s ∧ evNum x.2.door = e then (x.1, { x.2 with posts := x.2.posts ++ [(c, v, run, incarn)] })
        else x) } }
  else s

/-- Registered waits of one half's event unit. -/
def waitsOfHalf (s : State) (h : Nat) : Nat := (s.ev.waits.filter (fun w => halfOfEvent w.ev == h)).length

/-- A wait: released at once when satisfied, else registered, or, when the half's 32,768 registrations are in use,
retried later (R187, R188). -/
def registerWait (s : State) (w : WaitReg) : State :=
  if waitMet (getEv s w.ev).val w.target then wake w s
  else if waitsOfHalf s (halfOfEvent w.ev) < 32768 then { s with ev := { s.ev with waits := s.ev.waits ++ [w] } }
  else { s with ev := { s.ev with retry := s.ev.retry ++ [w] } }

/-- Waits that a predicate names leave the tables. -/
def dropWaits (s : State) (p : WaitReg → Bool) : State :=
  { s with ev := { s.ev with waits := s.ev.waits.filter (fun w => !p w), retry := s.ev.retry.filter (fun w => !p w) } }

/-- A packet sent to another module for a context (R188): PID in word 5, handle and value as EVENT_RECORD does. -/
def remotePkt (s : State) (op ctx : Nat) (handle : W32) (v : W64) (seq : Nat) : Pkt :=
  { opcode := op, ctx := ctx, gen := (getCtx s ctx).gen.setWidth 8, seq := BitVec.ofNat 32 seq, w4 := handle,
    w5 := BitVec.ofNat 32 (pidOfCtx s ctx), w6 := v.setWidth 32, w7 := (v >>> 32).setWidth 32 }

/-- The packet handed to the fabric for the context's slot. -/
def sendForCtx (s : State) (ctx mid unit key : Nat) (p : Pkt) : State :=
  let sl := (getCtx s ctx).slot
  match sendSlot s sl none (commandPkt s mid (getSlot s sl).brec.pid (getSlot s sl).pgen unit key p) with
  | .sent s => s
  | .noRoute s => s

/-! ### Starting a head packet (R167, R169, R171, R173) -/

/-- Whether a begun command of a QP still moves bulk data. -/
def bulkJob (b : Begun) : Bool :=
  match b.job with
  | .read _ _ => true
  | .write _ => true
  | .copy _ _ _ none => true
  | _ => false

def writeJob (b : Begun) : Bool :=
  match b.job with
  | .write _ => true
  | .copy _ _ _ none => true
  | _ => false

/-- The bytes that a begun bulk packet has yet to move: whether it writes them, their address, their number. -/
def extentsOf (b : Begun) : List (Bool × Nat × Nat) :=
  match b.job with
  | .read a n => [(false, a + b.cursor, n - b.cursor)]
  | .write a => [(true, a + b.cursor, b.pkt.payload.length - b.cursor)]
  | .copy src dst n none => [(false, src + b.cursor, n - b.cursor), (true, dst + b.cursor, n - b.cursor)]
  | _ => []

/-- Whether two extents overlap. -/
def spansMeet (a n b m : Nat) : Bool := decide (a < b + m) && decide (b < a + n)

/-- Where an extent lies in fabric physical space, entry by entry; of an interleaved entry, all it can reach. -/
def physOf (s : State) (ctx a n : Nat) : List (Nat × Nat) :=
  ((getCtx s ctx).ranges.filter (fun e => spansMeet a n e.va (e.pages * 4096))).map (fun e =>
    if e.ilv = 0 then
      let lo := max a e.va
      (e.fpa + (lo - e.va), min (a + n) (e.va + e.pages * 4096) - lo)
    else (e.fpa, 2 ^ e.ilv * chanSpan))

/-- Whether extents of two contexts share bytes. -/
def shareBytes (s : State) (c a n d b m : Nat) : Bool :=
  (c == d && spansMeet a n b m)
    || (physOf s c a n).any (fun x => (physOf s d b m).any (fun y => spansMeet x.1 x.2 y.1 y.2))

def waitJob (b : Begun) : Bool :=
  match b.job with
  | .wait _ _ => true
  | _ => false

/-- Whether an earlier bulk packet of its queue has yet to move bytes that a begun one shares, one of the two writing them
(R173). -/
def bulkHeld (s : State) (b : Begun) : Bool :=
  match b.job with
  | .copy _ _ _ (some _) => false
  | _ => (begunOn s b.q).any (fun a => decide (a.id < b.id) && (extentsOf a).any (fun x => (extentsOf b).any (fun y =>
      (x.1 || y.1) && shareBytes s a.pkt.ctx x.2.1 x.2.2 b.pkt.ctx y.2.1 y.2.2)))

/-- Whether an earlier WRITE_DATA or COPY of its queue holds back the effect of a begun record (R173). -/
def recordHeld (s : State) (b : Begun) : Bool := (begunOn s b.q).any (fun a => decide (a.id < b.id) && writeJob a)

/-- The half whose front end serves a queue (R169). -/
def halfOfQ (s : State) (q : QRef) : Nat :=
  match q with
  | .qp n => (getQp s n).port
  | .mgmt h => h
  | _ => b2n s.res.active

/-- Runs held by a sequencer core. -/
def runsOnCore (s : State) (n : Nat) : Nat :=
  (s.seq.runs.filter (fun e => match e.2 with | some r => r.core == n | none => false)).length

/-- The sequencer cores of a half that take a run: READY, with fewer than 256 (spec/07 R198). -/
def seqCoresOf (s : State) (half : Nat) : List Nat :=
  ((List.range 8).map (fun i => 8 * half + i)).filter (fun n => unitSt s ⟨7, n⟩ == .ready && decide (runsOnCore s n < 256))

/-- The free run IDs of a half. -/
def freeRuns (s : State) (half : Nat) : List Nat :=
  ((List.range 2048).map (fun k => 2048 * half + k)).filter (fun r => (getRun s r).isNone)

/-- Whether a LAUNCH_SEQ can start: a run ID and a sequencer core are free (spec/07 R198), and neither a retirement of its program
nor a load that may become it is under way on its own queue (R195). -/
def launchReady (s : State) (q : QRef) (p : Pkt) : Bool :=
  !(freeRuns s (halfOfQ s q)).isEmpty && !(seqCoresOf s (halfOfQ s q)).isEmpty
    && !s.fe.begun.any (fun b => b.q == q && (match b.job with
      | .retire g => g == fld p.w4.toNat 0 11
      | .load _ _ => (getProg s (fld p.w4.toNat 0 11)).isNone
      | _ => false))

/-- Whether no CTX_DESTROY of a slot's context is in progress, behind which changes of the binding wait (spec/02 R44). -/
def bindReady (s : State) (p : Pkt) : Bool :=
  match slotOfPid s p.w4.toNat with
  | none => true
  | some i => !s.part.ctxs.any (fun e => e.2.slot == i && e.2.st == 3 && (match e.2.down with | some d => d.destroy.isSome | none => false))

/-- Whether the head packet `p` of a queue can start. -/
def canStart (s : State) (q : QRef) (p : Pkt) : Bool :=
  let l := begunOn s q
  replyRoom s q (roomOf p.opcode)
    && (!p.fence || l.isEmpty)
    && !l.any waitJob
    && decide (l.length < 256)
    && (!([0x60, 0x62].contains p.opcode) || !l.any writeJob)
    && (p.opcode != 0x60 || launchReady s q p)
    && (!([0x89, 0x8A].contains p.opcode) || bindReady s p)

/-- A command's start: from where it came, the packet, the state. -/
abbrev Handler := QRef → Pkt → State → State

/-- The head packet of a QP leaves its submission ring (R164, R166). -/
def popQp (s : State) (n : Nat) : State :=
  let x := getQp s n
  match x.sq with
  | [] => s
  | p :: t =>
    let size := slotBytes p.plen
    let head := ringAt x.sqLog x.sqHead size + size
    let s := setQp s n { x with sq := t, sqHead := head }
    if x.source ∧ (getEv s (evNum x.sqHeadEvt)).st ≠ 0 then (record s (evNum x.sqHeadEvt) (BitVec.ofNat 64 head)).2 else s

/-- The head packet of QP 0 leaves the front end's storage (R161). -/
def popMgmt (s : State) (h : Nat) : State := let x := getFe s h; setFe s h { x with held := x.held.drop 1 }

/-- Work of a context that is not LIVE ends instead of starting (R183, R418). -/
def startGate (s : State) (q : QRef) (p : Pkt) : Option Nat :=
  match q with
  | .qp n => let x := getQp s n; if (getCtx s x.ctx).st = 1 then none else some (downStatus s x.ctx)
  | .mgmt _ => if actsForCtx p.opcode then ctxCheck s p.ctx p.gen else none
  | _ => none

/-! ### Work items and the round robin (R169, R170) -/

/-- The cost of an item that carries `n` payload bytes. -/
def itemCost (n : Nat) : Nat := 64 + n

/-- A work item: its class, its cost, and whether it is a reply of the begun read with that number. -/
structure Item where
  cls : Nat
  cost : Nat
  read : Option Nat
deriving DecidableEq, Repr

/-- The next reply of a begun read, when nothing holds it back. -/
def readItem (s : State) (b : Begun) : Option Item :=
  match b.job with
  | .read _ len =>
    let n := min 8192 (len - b.cursor)
    if !b.stalled && !bulkHeld s b && !s.fab.outst.any (fun o => o.who == .cmd b.id) && (b.roomKept || replyRoom s b.q (slotBytes n)) then
      some { cls := b.pkt.cls, cost := itemCost n, read := some b.id }
    else none
  | _ => none

/-- The packets that a queue holds, not started. -/
def waitingOn (s : State) (q : QRef) : List Pkt :=
  match q with
  | .qp n => (getQp s n).sq
  | .mgmt h => (getFe s h).held
  | _ => []

/-- The head item of an eligible queue (R169): the next reply of its oldest running read, else its head packet; none for a queue
that is not eligible. -/
def headItem (s : State) (q : QRef) : Option Item :=
  match (begunOn s q).findSome? (readItem s) with
  | some i => some i
  | none =>
    match (waitingOn s q).head? with
    | some p => if canStart s q p then some { cls := p.cls, cost := itemCost p.payload.length, read := none } else none
    | none => none

/-- The queues that a half's front end serves, by QPN. -/
def queuesOf (s : State) (half : Nat) : List QRef :=
  .mgmt half :: ((s.fe.qps.filter (fun e => e.2.port == half && e.2.st != 0)).map (fun e => QRef.qp e.1))

/-- Whether no queue of a half is eligible. -/
def noneEligible (s : State) (half : Nat) : Bool := (queuesOf s half).all (fun q => (headItem s q).isNone)

/-- An item of a class and cost counts towards the 128 KiB window of class 7 (R170). -/
def chargeItem (half cls cost : Nat) (s : State) : State :=
  let x := getFe s half
  let w := x.winCost + cost
  let c := x.win7 + (if cls = 7 then cost else 0)
  setFe s half (if 131072 ≤ w then { x with winCost := 0, win7 := 0 } else { x with winCost := w, win7 := c })

/-- A packet starts through its handler. -/
def startWith (h : Handler) (q : QRef) (p : Pkt) (s : State) : State :=
  match startGate s q p with
  | some st => answer q p st s
  | none => wakeAll (h q p s)

/-! ### Arrival (R160-R163) -/

/-- A refusal's reply goes straight back on the arrival port, or is dropped and counted (R162). -/
def refuse (port : Nat) (p : Pkt) (status : Nat) (dup : Bool) (w4 : W32) (s : State) : State :=
  let x := getFe s port
  let x := { x with refused := sat32 x.refused }
  if x.refusals.length < 64 then
    setFe s port { x with refusals := x.refusals ++ [{ replyTo p status with dup := dup, w4 := w4 }] }
  else setFe s port { x with replyDrop := sat32 x.replyDrop }

/-- Check 3 for QP 0 (R161): adapter function 0 of the learned adapter; then, for opcodes that act for a context, R418. -/
def checkAdapter0 (s : State) (port : Nat) (p : Pkt) : Option Nat :=
  if some p.adapter.toNat ≠ (getFe s port).adapter then some stDenied
  else if actsForCtx p.opcode then ctxCheck s p.ctx p.gen
  else none

/-- Check 3 for another QP (R50, R47, R183). -/
def checkOwner (s : State) (x : Qp) (p : Pkt) : Option Nat :=
  let c := getCtx s x.ctx
  if p.adapter ≠ x.adapter ∨ p.ctx ≠ x.ctx then some stDenied
  else if c.st = 2 ∨ c.st = 3 then some (downStatus s x.ctx)
  else if p.gen ≠ x.cgen.setWidth 8 ∨ p.gen ≠ c.gen.setWidth 8 then some stGen
  else if x.maxCls < p.cls then some stDenied
  else none

/-- Whether the active management complex is being replaced (spec/11 R314). -/
def takingOver (s : State) : Bool := s.res.takeover

/-- What the arrival checks decide. -/
inductive Arrival where
  | refuse (status : Nat) (hold dup : Bool) (w4 : W32)
  | accept
deriving DecidableEq, Repr

/-- Steps 2 to 10 for QP 0 of a port (R160, R161). -/
def checkMgmt (s : State) (port : Nat) (p : Pkt) : Arrival :=
  let x := getFe s port
  if takingOver s then .refuse stRetry false false 0
  else match checkAdapter0 s port p with
    | some st => .refuse st false false 0
    | none =>
      if 8192 < p.plen ∨ p.plen ≠ p.payload.length then .refuse stLen true false 0
      else if x.onHold && decide (p.opcode ≠ 0x03) then .refuse stRetry false false 0
      else if !onM p.opcode then .refuse stOpcode false false 0
      else if !(x.onHold && decide (p.opcode = 0x03)) && decide (2 ^ 31 ≤ (p.seq - x.expected).toNat) then .refuse stOk false true 0
      else if !(x.onHold && decide (p.opcode = 0x03)) && decide (p.seq ≠ x.expected) then .refuse stRetry false false x.expected
      else if 32 ≤ x.held.length then .refuse stRetry false false 0
      else .accept

/-- Steps 2 to 10 for another QP of a port (R160); a HELD one takes QP_RESUME alone, whose SEQ it does not check (R168). -/
def checkQp (s : State) (port : Nat) (p : Pkt) : Arrival :=
  let x := getQp s p.qpn
  if x.st = 0 ∨ x.st = 4 ∨ x.port ≠ port then .refuse stUnbound false false 0
  else match checkOwner s x p with
    | some st => .refuse st false false 0
    | none =>
      if 8192 < p.plen ∨ p.plen ≠ p.payload.length then .refuse stLen true false 0
      else if x.st = 3 ∧ p.opcode ≠ 0x03 then .refuse stRetry false false 0
      else if x.quantum = 0 then .refuse stUnbound false false 0
      else if x.source then .refuse stDenied false false 0
      else if 0x80 ≤ p.opcode ∧ p.opcode ≤ 0x9F then .refuse stDenied false false 0
      else if !(onH p.opcode || p.opcode == 0x03) then .refuse stOpcode false false 0
      else if x.st ≠ 3 ∧ 2 ^ 31 ≤ (p.seq - x.expected).toNat then .refuse stOk false true 0
      else if x.st ≠ 3 ∧ p.seq ≠ x.expected then .refuse stRetry false false x.expected
      else if 2 ^ x.sqLog < x.sqTail - x.sqHead + ringNeed x.sqLog x.sqTail (slotBytes p.plen) then .refuse stRetry false false 0
      else .accept

/-- Whether an arriving packet is the next item that its half's front end starts: its queue is empty, it can start, and no other
queue is eligible (R169). Otherwise FRONT_END_START_ITEM starts it. -/
def startsNow (s : State) (half : Nat) (q : QRef) (p : Pkt) : Bool :=
  (waitingOn s q).isEmpty && noneEligible s half && canStart s q p

/-- An item that starts as it arrives. -/
def startItem (h : Handler) (half : Nat) (q : QRef) (p : Pkt) (s : State) : State :=
  startWith h q p (chargeItem half p.cls (itemCost p.payload.length) s)

/-- An accepted packet of QP 0 starts at once when it is the front end's next item, else it waits (R161, R169). -/
def acceptMgmt (h : Handler) (port : Nat) (p : Pkt) (s : State) : State :=
  let x := getFe s port
  let s := setFe s port { x with expected := x.expected + 1 }
  let q := QRef.mgmt port
  if startsNow s port q p then startItem h port q p s
  else let x := getFe s port; setFe s port { x with held := x.held ++ [p] }

/-- An accepted packet of another QP is written into the submission ring and starts at once when it is the front end's next
item (R164, R169). -/
def acceptQp (h : Handler) (p : Pkt) (s : State) : State :=
  let n := p.qpn
  let x := getQp s n
  let q := QRef.qp n
  let size := slotBytes p.plen
  let start := ringAt x.sqLog x.sqTail size
  let s := ringPut s x.port (seqQpn p.seq n) x.ctx x.sqBase x.sqLog x.sqTail size (pktBytes p)
  let now := startsNow s x.port q p
  let s := setQp s n { getQp s n with expected := x.expected + 1, sqTail := start + size, sq := x.sq ++ [p] }
  if now then startItem h x.port q p (popQp s n) else s

/-- A packet on a Haldip port (R160). -/
def arriveHaldip (h : Handler) (port : Nat) (p : Pkt) (s : State) : State :=
  let s := if (getFe s port).up then lullWake s port else s
  let x := getFe s port
  if !x.up then s
  else if !p.rxOk then setFe s port { x with rxDiscard := sat32 x.rxDiscard }
  else match (if p.qpn = 0 then checkMgmt s port p else checkQp s port p) with
    | .refuse st hold dup w4 =>
      let s :=
        if !hold then s
        else if p.qpn = 0 then setFe s port { x with onHold := true }
        else setQp s p.qpn { getQp s p.qpn with st := 3 }
      let s :=
        if !dup then s
        else if p.qpn = 0 then let y := getFe s port; setFe s port { y with dups := sat32 y.dups }
        else let y := getQp s p.qpn; setQp s p.qpn { y with dups := sat32 y.dups }
      refuse port p st dup w4 s
    | .accept => if p.qpn = 0 then acceptMgmt h port p s else acceptQp h p s

/-- Whether a sideband packet must wait: behind a waiting one, or, with FENCE, behind commands begun (R157). -/
def sideWaits (s : State) (p : Pkt) : Bool := !s.fe.sideWait.isEmpty || (p.fence && !(begunOn s .side).isEmpty)

/-- The oldest waiting sideband packet starts once nothing that it waits for is left. -/
def sideGoesOn (h : Handler) (s : State) : State :=
  match s.fe.sideWait with
  | [] => s
  | p :: t => if p.fence && !(begunOn s .side).isEmpty then s else startWith h .side p { s with fe := { s.fe with sideWait := t } }

/-- A Block Write on the sideband (R163, spec/15 R399). The status of a packet whose QPN is not 0 the spec does not state (DESIGN
CHOICE, notes/assumptions/6.md: NOT_BOUND). -/
def arriveSide (h : Handler) (p : Pkt) (s : State) : State :=
  let q := QRef.side
  if (s.dev.phase ≠ .ready ∧ s.dev.phase ≠ .stopped) ∨ sideMuted s then s
  else if s.pwr.asleep then { s with pwr := { s.pwr with asleep := false } }
  else if takingOver s then s
  else if 4 ≤ s.fe.sideHeld.length + s.fe.sideWait.length then { s with dev := { s.dev with smbNack := sat32 s.dev.smbNack } }
  else if !p.rxOk then { s with dev := { s.dev with smbDiscard := sat32 s.dev.smbDiscard } }
  else if p.qpn ≠ 0 then answer q p stUnbound s
  else if 216 < p.plen ∨ p.plen ≠ p.payload.length then answer q p stLen s
  else if !onS p.opcode then answer q p stOpcode s
  else if 2 ^ 31 ≤ (p.seq - s.fe.sideExpected).toNat then sendReply q { p with quiet := false } { replyTo p stOk with dup := true } s
  else if p.seq ≠ s.fe.sideExpected then answerW4 q p stRetry s.fe.sideExpected.toNat s
  else
    let s := { s with fe := { s.fe with sideExpected := s.fe.sideExpected + 1 } }
    if sideWaits s p then { s with fe := { s.fe with sideWait := s.fe.sideWait ++ [p] } } else startWith h q p s

/-- What fabric ingress decides about a message (R47). -/
inductive FabGate where
  | pass
  | drop (s : State)

/-- Fabric ingress (R47): a PID that no slot holds is an orphan, another PGEN is chaff of the slot; module traffic passes. -/
def fabGate (s : State) (pid pgen : Nat) : FabGate :=
  if pid = 0 then .pass
  else match slotOfPid s pid with
    | none => .drop (addOrphan s)
    | some i => if (getSlot s i).pgen = BitVec.ofNat 32 pgen then .pass else .drop (addChaff s i)

/-- A packet arrives and, where nothing holds it back, starts through `h`. Packets of device-sourced rings come through
DEVICE_SQ_FETCH, packets of the fabric through FABRIC_COMMAND or, here, as delivered (`hf`). -/
def arrive (h hf : Handler) (p : Pkt) (s : State) : State :=
  match p.src with
  | .haldip port => arriveHaldip h port p s
  | .side => arriveSide h p s
  | .fabric mid pid pgen =>
    if s.dev.phase ≠ .ready then s
    else match fabGate s pid pgen with
      | .pass => hf (.fabric mid pid pgen) p s
      | .drop s => s
  | .dev _ => s

/-- On the fabric, an opcode that the escape VC does not carry is answered OPCODE_INVALID (R159, R182). -/
def wrongOnFabric : Handler := fun q p s => answer q p stOpcode s

end Sys2Proof.Machine
end

