-- ==== Sys2Proof/Machine/Kex.lean ====
section
/-! DEFINITION. Link key agreement (spec/13 R367-R369) as both sides do it, over the start of an agreement in
Machine/FabSend.lean. -/
namespace Sys2Proof.Machine

/-! ### Headers, certificates, derivation -/

def kexKeyix (pl : List Byte) : Nat := numAt pl 1 1
def kexPid (pl : List Byte) : Nat := numAt pl 4 4
def kexIni (pl : List Byte) : Nat := numAt pl 12 2
def kexRsp (pl : List Byte) : Nat := numAt pl 14 2

/-- Whether a KEY_ID names an unrevoked vendor key (R355, R356). -/
def vendorKeyOk (s : State) (kid : List Byte) : Bool :=
  (List.range 8).any (fun i => s.sec.vendor[i]? == some kid && !bitAt s.sec.revoked.toNat i)

/-- A certificate for an identity key (R365, R368): signed by an unrevoked vendor key, or the test root in DEBUG and RMA. -/
def chainOk (s : State) (pub cert : List Byte) : Bool :=
  let kid := sliceZ cert 0x60 32
  decide (numAt cert 0 4 = 0x56430001) && (sliceZ cert 0x14 68 == pub)
    && (vendorKeyOk s kid || (testRoot s && kid == keyId (sized 68 (identityPub s))))
    && Config.xmssVerify kid (sliceZ cert 0 0x60) (sliceZ cert 0x80 2820)

/-- An attestation certificate of a peer (R363, R368): signed by its identity key, for its serial, and with this module's
life-cycle state, TEST_ROOT and OWNER_HASH. -/
def attCertOk (s : State) (peer : Nat) (cert : List Byte) : Bool :=
  match s.fab.verified.find? (fun v => v.mid == peer) with
  | none => false
  | some v =>
    Config.xmssVerify (keyId v.pub) (sliceZ cert 0 0xA0) (sliceZ cert 0xA0 2820) && sliceZ cert 0x90 16 == v.serial
      && decide (numAt cert 0x6C 1 = s.sec.lc) && bitAt (numAt cert 0x6D 1) 0 == testRoot s && sliceZ cert 0x70 32 == ownerHash s

/-- The signature of a message by the attestation key that a certificate names. -/
def attSigOk (cert msg sig : List Byte) : Bool := Config.xmssVerify (keyId (sliceZ cert 0x08 68)) msg sig

/-- The hashes of both payloads (R368). -/
def kexT (init resp : List Byte) : List Byte := shake256 init 32 ++ shake256 resp 32

/-- The 104 bytes derived from a shared secret (R368). -/
def kexK (ss init resp : List Byte) : List Byte :=
  shake256 (sized 32 ss ++ ascii "IAF-2448 link" ++ sliceZ init 0 32 ++ kexT init resp) 104

/-- The confirmation value (R368). -/
def kexConfirmVal (k init resp : List Byte) : List Byte := shake256 (sliceZ k 72 32 ++ ascii "confirm" ++ kexT init resp) 32

/-- Key and salt from initiator to responder, and back. -/
def keyIR (k : List Byte) : List Byte := sliceZ k 0 32 ++ sliceZ k 64 4
def keyRI (k : List Byte) : List Byte := sliceZ k 32 32 ++ sliceZ k 68 4

/-! ### Held packets, install, refusal -/

/-- The contexts of the packets that wait for a key of a pair. -/
def heldCtxs (s : State) (slot peer : Nat) : List Nat :=
  let l := (s.fab.kex.filter (fun x => x.slot == slot && x.peer == peer)).flatMap (fun x => x.held)
  (l.map (fun f => match f.cmd, f.near with
    | some p, _ => p.ctx
    | _, some r => r.ctx
    | _, _ => f.ctx)).eraseDups.filter (fun c => (getCtx s c).slot == slot)

/-- Held packets go out. -/
def sendHeld (s : State) (slot : Nat) (l : List FabPkt) : State :=
  l.foldl (fun s f =>
    match sendSlot s slot (collKey f) f with
    | .sent s => s
    | .noRoute s => s) s

def dropKex (s : State) (x : Kex) : State :=
  { s with fab := { s.fab with kex := s.fab.kex.filter (fun y => !(y.slot == x.slot && y.peer == x.peer && y.initiator == x.initiator)) } }

/-- An agreement is complete: its keys are live, older ones of the pair superseded, and what waited goes out, for an agreement of this
module's own that has sent no INIT too, which it ends (R368, R369). -/
def kexInstall (s : State) (x : Kex) (k : List Byte) : State :=
  let old := s.fab.keys.map (fun j => if j.slot == x.slot && j.peer == x.peer then { j with newer := true, waiting := false } else j)
  let tx := if x.initiator then keyIR k else keyRI k
  let rx := if x.initiator then keyRI k else keyIR k
  let j : LinkKey := { slot := x.slot, peer := x.peer, keyix := x.keyix, tx := tx, rx := rx }
  let idle := s.fab.kex.filter (fun y => y.slot == x.slot && y.peer == x.peer && y.initiator && (y.st == 0 || y.st == 4))
  let s := idle.foldl dropKex (dropKex s x)
  let s := { s with fab := { s.fab with keys := old ++ [j] }, sec := { s.sec with kexCnt := s.sec.kexCnt + 1 } }
  sendHeld s x.slot (x.held ++ idle.flatMap (fun y => y.held))

/-- An agreement is refused: counted, and for a failed authentication recorded (R368, R371). -/
def kexRefused (s : State) (slot : Option Nat) (peer st : Nat) : State :=
  let s := { s with sec := { s.sec with kexFail := sat32 s.sec.kexFail } }
  if st = stAuth then logNote { cls := 0x18, sev := 3, unitKind := 13, unit := peer % 4096, slot := slot, detail := peer } s else s

/-- The initiator's agreement waits to be retried (R369). -/
def kexFails (s : State) (x : Kex) (st : Nat) : State := setKex (kexRefused s (some x.slot) x.peer st) { x with st := 4 }

/-- The checks that every message meets first (R368): the slot, or the status. -/
def kexGate (s : State) (src : Nat) (pl : List Byte) : Except Nat Nat :=
  match slotOfPid s (kexPid pl) with
  | none => .error stUnbound
  | some i =>
    if !(getSlot s i).brec.conf then .error stUnbound
    else if (getSlot s i).pgen.toNat ≠ numAt pl 8 4 then .error stGen
    else if (keysOf s i src).any (fun k => k.keyix == kexKeyix pl) then .error stBusy
    else if 4 ≤ kexKeyix pl then .error stAuth
    else .ok i

/-- A message is refused with a status. -/
def kexNo (q : QRef) (p : Pkt) (src st : Nat) (s : State) : State :=
  answer q p st (if st = stBusy then s else kexRefused s (slotOfPid s (kexPid p.payload)) src st)

/-! ### The messages -/

/-- CHAIN (R368 step 1): the peer's identity is verified; the initiator's is answered with this module's own. -/
def takeKexChain (q : QRef) (p : Pkt) (src : Nat) (s : State) : State :=
  let pl := p.payload
  let own := ownModule s
  let pub := sliceZ pl 32 68
  let cert := sliceZ pl 100 2948
  let asks := decide (kexIni pl = src) && decide (kexRsp pl = own)
  if pl.length ≠ 3048 then answer q p stLen s
  else match kexGate s src pl with
    | .error st => kexNo q p src st s
    | .ok i =>
      if !(asks || (decide (kexIni pl = own) && decide (kexRsp pl = src))) || !chainOk s pub cert then kexNo q p src stAuth s
      else
        let v : Peer := { mid := src, pub := pub, serial := sliceZ cert 4 16 }
        let s := { s with fab := { s.fab with verified := s.fab.verified.filter (fun w => !(w.mid == src)) ++ [v] } }
        let s := answer q p stOk s
        let s := if asks then sendPlain s none (commandPkt s src 0 0 (mgmtUnit s) src
            (kexPkt i 4 (sliceZ pl 0 32 ++ sized 68 (identityPub s) ++ certBytes s))) else s
        (s.fab.kex.filter (fun x => x.peer == src && x.initiator && x.st == 0)).foldl kexGo s

/-- The part of a message before its signature, after its header: certificate, then key or ciphertext. -/
def kexCert (pl : List Byte) : List Byte := sliceZ pl 32 2980
def kexBody (pl : List Byte) : List Byte := sliceZ pl 3012 1568
def kexSig (pl : List Byte) : List Byte := sliceZ pl 4580 2500

/-- INIT (R368 step 3, R369): the responder checks it and replies RESP; of two agreements that collide, that of the module
with the lower ID goes on. -/
def takeKexInit (q : QRef) (p : Pkt) (src : Nat) (s : State) : State :=
  let pl := p.payload
  let own := ownModule s
  if pl.length ≠ 7080 then answer q p stLen s
  else match kexGate s src pl with
    | .error st => kexNo q p src st s
    | .ok i =>
      let mine := s.fab.kex.find? (fun x => x.slot == i && x.peer == src && x.initiator && x.st == 1)
      if mine.isSome ∧ own < src then answer q p stRetry s
      else if kexIni pl ≠ src ∨ kexRsp pl ≠ own ∨ !attCertOk s src (kexCert pl)
          ∨ !attSigOk (kexCert pl) (sliceZ pl 0 4580) (kexSig pl) then kexNo q p src stAuth s
      else
        let held := match mine with | some x => x.held | none => []
        let s := match mine with | some x => dropKex s x | none => s
        let (seed, s) := takeNum s
        let ct := sized 1568 (Config.kemCipher (kexBody pl) seed)
        let hd := [2] ++ sliceZ pl 1 31
        match attSign s (shake256 pl 32 ++ hd ++ sized 2980 s.sec.attCert ++ ct) with
        | (none, s) => kexNo q p src stKey s
        | (some sig, s) =>
          let rp := hd ++ sized 2980 s.sec.attCert ++ ct ++ sig
          let x : Kex := {
            slot := i, peer := src, keyix := kexKeyix pl, initiator := false, st := 3, seed := seed, init := pl, resp := rp, held := held }
          let s := dropKex s x
          sendReply q p { replyTo p stOk with payload := rp } { s with fab := { s.fab with kex := s.fab.kex ++ [x] } }

/-- RESP (R368 step 4), the reply to INIT: the initiator checks it and sends CONFIRM. -/
def takeKexResp (s : State) (x : Kex) (pl : List Byte) : State :=
  let own := ownModule s
  let bad (st : Nat) : State := kexFails s x st
  if pl.length ≠ 7080 ∨ numAt pl 0 1 ≠ 2 then bad stLen
  else match kexGate s x.peer pl with
    | .error st => bad st
    | .ok i =>
      if i ≠ x.slot ∨ kexIni pl ≠ own ∨ kexRsp pl ≠ x.peer ∨ sliceZ pl 1 31 ≠ sliceZ x.init 1 31 ∨ !attCertOk s x.peer (kexCert pl)
          ∨ !attSigOk (kexCert pl) (shake256 x.init 32 ++ sliceZ pl 0 4580) (kexSig pl) then bad stAuth
      else
        let k := kexK (Config.kemSecret (kexBody pl) x.seed) x.init pl
        let hd := [3] ++ sliceZ x.init 1 31
        sendPlain (setKex s { x with st := 2, resp := pl }) none
          (commandPkt s x.peer 0 0 (mgmtUnit s) x.peer (kexPkt x.slot 3 (hd ++ kexConfirmVal k x.init pl)))

/-- CONFIRM (R368 step 4): the responder checks the value and installs the keys. -/
def takeKexConfirm (q : QRef) (p : Pkt) (src : Nat) (s : State) : State :=
  let pl := p.payload
  if pl.length ≠ 64 then answer q p stLen s
  else match kexGate s src pl with
    | .error st => kexNo q p src st s
    | .ok i =>
      match s.fab.kex.find? (fun x => x.slot == i && x.peer == src && !x.initiator && x.st == 3) with
      | none => kexNo q p src stAuth s
      | some x =>
        let k := kexK (Config.kemSecret (kexBody x.init) x.seed) x.init x.resp
        if sliceZ pl 1 31 ≠ sliceZ x.init 1 31 ∨ sliceZ pl 32 32 ≠ kexConfirmVal k x.init x.resp then kexNo q p src stAuth (dropKex s x)
        else kexInstall (answer q p stOk s) x k

/-- The next KEYIX with no live key above a refused one (R368). -/
def nextKeyix (s : State) (x : Kex) : Option Nat :=
  (List.range 4).find? (fun i => decide (x.keyix < i) && !(keysOf s x.slot x.peer).any (fun k => k.keyix == i))

/-- An agreement is begun again with keys of its own. -/
def kexAgain (s : State) (x : Kex) : State :=
  let s := { s with fresh := s.fresh + 2 }
  kexGo s { x with seed := s.fresh - 2 }

/-- The answer to one of the initiator's messages, from `mid` (R368, R369). -/
def takeKexAnswer (s : State) (mid : Nat) (p : Pkt) : State :=
  let slot := fld p.seq.toNat 0 8
  let phase := fld p.seq.toNat 8 8
  match s.fab.kex.find? (fun x => x.slot == slot && x.peer == mid && x.initiator) with
  | none => s
  | some x =>
    if phase = 4 ∨ phase ≠ (if x.st = 2 then 3 else x.st) then s
    else if p.status = stBusy then
      (match nextKeyix s x with
       | some i => kexAgain s { x with keyix := i }
       | none => kexFails s x stBusy)
    else if p.status = stRetry then setKex s { x with st := 4 }
    else if p.status ≠ stOk then kexFails s x p.status
    else if phase = 1 then takeKexResp s x p.payload
    else if phase = 3 then kexInstall s x (kexK (Config.kemSecret (kexBody x.resp) x.seed) x.init x.resp)
    else s

/-! ### The commands -/

/-- LINK_KEX on the fabric, by PHASE; KEY_LOCKED when the identity key is exhausted (R362); a PHASE that no LINK_KEX packet carries is LEN_INVALID (notes/assumptions/37.md). -/
def startKex : Handler := fun q p s =>
  match q with
  | .fabric src _ _ =>
    if idExhausted s then answer q p stKey s
    else (match numAt p.payload 0 1 with
     | 0 => takeKexChain q p src s
     | 1 => takeKexInit q p src s
     | 3 => takeKexConfirm q p src s
     | _ => answer q p stLen s)
  | _ => answer q p stOpcode s

/-- A packet whose payload's byte `i` is `v`. -/
def withByte (p : Pkt) (i v : Nat) : Pkt := { p with payload := listSet p.payload i (BitVec.ofNat 8 v) }

/-- A packet's PHASE or KIND set at a payload byte, and its opcode. -/
def kexRow (p : Pkt) (phase : Nat) : Pkt := { withByte p 0 phase with opcode := 0xE2 }

/-- LINK_KEX PHASE 0, CHAIN (R368). -/
def execLinkKexChain (p : Pkt) (s : State) : Host.Outcome State Fault Refusal :=
  .next (arrive wrongOnFabric startKex (kexRow p 0) s)

/-- LINK_KEX PHASE 1, INIT (R368). -/
def execLinkKexInit (p : Pkt) (s : State) : Host.Outcome State Fault Refusal :=
  .next (arrive wrongOnFabric startKex (kexRow p 1) s)

/-- LINK_KEX PHASE 2, RESP (R368): the COMPLETION that answers INIT. -/
def execLinkKexResp (p : Pkt) (s : State) : Host.Outcome State Fault Refusal :=
  let f : Handler := fun q p s => match q with
    | .fabric mid _ _ => takeKexAnswer s mid p
    | _ => s
  .next (arrive wrongOnFabric f { withByte p 0 2 with opcode := 0xF0 } s)

/-- LINK_KEX PHASE 3, CONFIRM (R368). -/
def execLinkKexConfirm (p : Pkt) (s : State) : Host.Outcome State Fault Refusal :=
  .next (arrive wrongOnFabric startKex (kexRow p 3) s)

/-- LINK_KEX_RETRY (R369): a refused agreement is tried again. -/
def execLinkKexRetry (slot peer : Nat) (s : State) : Host.Outcome State Fault Refusal :=
  match s.fab.kex.find? (fun x => x.slot == slot && x.peer == peer && x.initiator && x.st == 4) with
  | none => .next s
  | some x => .next (match freeKeyix s slot peer with
    | some i => kexAgain s { x with keyix := i }
    | none => s)

/-- LINK_KEX_GIVE_UP (R369): 1 s without a key. -/
def execLinkKexGiveUp (slot peer : Nat) (s : State) : Host.Outcome State Fault Refusal :=
  match s.fab.kex.find? (fun x => x.slot == slot && x.peer == peer && x.initiator && !x.held.isEmpty) with
  | none => .next s
  | some x =>
    let l := heldCtxs s slot peer
    .next (wakeAll (loseAll l stLost 0 (dropKex (kexRefused s (some slot) peer 0) x)))

/-- LINK_KEY_EXPIRE (R369): a superseded key is destroyed. -/
def execLinkKeyExpire (slot peer keyix : Nat) (s : State) : Host.Outcome State Fault Refusal :=
  .next { s with fab := { s.fab with
    keys := s.fab.keys.filter (fun k => !(k.slot == slot && k.peer == peer && k.keyix == keyix && k.newer)) } }

end Sys2Proof.Machine
end

