-- ==== Sys2Proof/Machine/Link.lean ====
section
/-! DEFINITION. The sending side of a link (spec/09 R245, R250-R254, R270-R272): which packet each flit slot of a frame takes, the frame, and
its symbols on the lanes. What the rules leave open is in notes/assumptions/48.md. -/
namespace Sys2Proof.Machine

/-! ### Deficit round robin (R271) -/

def owedOf (d : Drr) (k : Nat) : Nat := tabGet (fun _ => 0) d.owed k
def setOwed (d : Drr) (k n : Nat) : Drr := { d with owed := tabSet (fun _ => 0) d.owed k n }

/-- The key after `c` of an ascending list, round its end. -/
def keyAfter (ks : List Nat) (c : Nat) : Option Nat :=
  match ks.find? (fun k => decide (c < k)) with
  | some k => some k
  | none => ks.head?

/-- A turn: a key with work is served while what it is owed covers the cost of its next packet; the next one is then owed its weight more, and
one without work is owed nothing. `n` bounds the visits. -/
def drrTurn (ks : List Nat) (cost w : Nat → Nat) : Nat → Drr → Option (Nat × Drr)
  | 0, _ => none
  | n + 1, d =>
    if ks.contains d.cur && decide (cost d.cur ≤ owedOf d d.cur) then some (d.cur, setOwed d d.cur (owedOf d d.cur - cost d.cur))
    else
      let d := if ks.contains d.cur then d else setOwed d d.cur 0
      match keyAfter ks d.cur with
      | none => none
      | some k => drrTurn ks cost w n { setOwed d k (owedOf d k + w k) with cur := k }

/-- The key that is served. One alone takes no turn, and one without weight is served where no other has work. -/
def drrPick (ks : List Nat) (cost w : Nat → Nat) (d : Drr) : Option (Nat × Drr) :=
  let ws := ks.filter (fun k => w k != 0)
  match (if ws.isEmpty then ks else ws) with
  | [] => none
  | [k] => some (k, d)
  | l => drrTurn l cost (fun k => if ws.isEmpty then 1 else w k) (200 * l.length) d

def drrOf (t : Tab Drr) (k : Nat) : Drr := tabGet (fun _ => {}) t k
def setDrr (t : Tab Drr) (k : Nat) (d : Drr) : Tab Drr := tabSet (fun _ => {}) t k d

/-! ### Whose a flit slot is (R253, R270-R272) -/

/-- Who a packet's flits are charged to. Escape traffic, and what this module sends for no slot, is module traffic. -/
inductive Party where
  | transit
  | module
  | slot (i : Nat)
deriving DecidableEq, Repr

def partyOf (s : State) (f : FabPkt) : Party :=
  if f.vc = 5 then .module
  else if f.src ≠ ownModule s then .transit
  else match slotOfPid s f.pid with
    | some i => .slot i
    | none => .module

/-- The share of a slot on a port. -/
def shareOf (s : State) (i q : Nat) : Nat := tabGet (fun _ => 0) (getSlot s i).brec.share q

/-- Whether a slot's share on a port is dedicated (R272). -/
def dedicated (s : State) (i q : Nat) : Bool := (getSlot s i).brec.conf && shareOf s i q != 0

/-- The slots with a dedicated share on a port, in ascending number, and their shares. -/
def dedicatedOn (s : State) (q : Nat) : List (Nat × Nat) :=
  ((List.range 64).filter (fun i => dedicated s i q)).map (fun i => (i, shareOf s i q))

/-- The slot that position `j` of `n` is reserved for: each slot's positions are spread evenly over those that the slots before it left. A
cycle of 4,864 positions is 19 times 256 of them, of which a share s takes s. -/
def reservedAt : List (Nat × Nat) → Nat → Nat → Option Nat
  | [], _, _ => none
  | (i, sh) :: t, j, n =>
    if (j + 1) * sh / n ≠ j * sh / n then some i else reservedAt t (j - j * sh / n) (n - sh)

/-- Whether a position of a port's cycle may carry a packet: a reserved one only its slot's, any other none of a slot with a dedicated share. -/
def posOpen (s : State) (q pos : Nat) (f : FabPkt) : Bool :=
  match reservedAt (dedicatedOn s q) (pos % 256) 256, partyOf s f with
  | some i, p => p == .slot i
  | none, .slot i => !dedicated s i q
  | none, _ => true

/-- The first packet of each flow. -/
def flowHeads : List FlowKey → List OutPkt → List OutPkt
  | _, [] => []
  | seen, o :: t => if seen.contains (flowOf o.pkt) then flowHeads seen t else o :: flowHeads (flowOf o.pkt :: seen) t

/-- Whether a packet's next flit may go at a position: it is here, and the far pool has a credit for it (R254). -/
def flitReady (s : State) (q pos : Nat) (o : OutPkt) : Bool :=
  !o.flits.isEmpty && creditsOf (getPort s q) (poolOf o.pkt) != 0 && posOpen s q pos o.pkt

/-- The packets that a VC could begin at a position. -/
def startable (s : State) (q vc pos : Nat) : List OutPkt :=
  (flowHeads [] (s.fab.sent.filter (fun o => o.port == q && o.pkt.vc == vc))).filter (fun o => injects s q o.pkt && flitReady s q pos o)

/-- Flits of the first packet of a list. -/
def headCost (l : List OutPkt) : Nat := match l.head? with | some o => o.total | none => 0

/-- One packet of a slot: classes 0 to 6 by their weights, and class 7 at most every other flit while they have traffic. -/
def pickClass (t : Tab Drr) (key : Nat) (w : List Nat) (l : List OutPkt) : Option (OutPkt × Tab Drr) :=
  let of (c : Nat) : List OutPkt := l.filter (fun o => o.pkt.cls % 8 == c)
  let low := match drrPick ((List.range 7).filter (fun c => !(of c).isEmpty)) (fun c => headCost (of c)) (fun c => w.getD c 0) (drrOf t key) with
    | some (c, d) => (of c).head?.map (fun o => (o, setDrr t key d))
    | none => none
  match low, (of 7).head? with
  | some a, some b =>
    (match drrPick [0, 1] (fun k => if k = 0 then a.1.total else b.total) (fun _ => 1) (drrOf t (key + 1)) with
     | some (k, d) => if k = 0 then some (a.1, setDrr a.2 (key + 1) d) else some (b, setDrr t (key + 1) d)
     | none => some a)
  | some a, none => some a
  | none, some b => some (b, t)
  | none, none => none

/-- One packet of this module's slots, by their shares. -/
def pickSlot (s : State) (t : Tab Drr) (q vc : Nat) (l : List OutPkt) : Option (OutPkt × Tab Drr) :=
  let of (i : Nat) : List OutPkt := l.filter (fun o => partyOf s o.pkt == .slot i)
  let cand (i : Nat) : Option (OutPkt × Tab Drr) := pickClass t (200 * vc + 2 * i + 2) ((getSlot s i).brec.clsShare.take 7) (of i)
  match drrPick ((List.range 64).filter (fun i => !(of i).isEmpty)) (fun i => match cand i with | some c => c.1.total | none => 0)
      (fun i => shareOf s i q) (drrOf t (200 * vc + 1)) with
  | some (i, d) => (cand i).map (fun c => (c.1, setDrr c.2 (200 * vc + 1) d))
  | none => none

/-- The transit weight of a port (R270, R287). -/
def transitWeight (x : Port) : Nat := min 256 x.transit.toNat

/-- The packet that a VC begins: module traffic first, then transit and injected traffic in the ratio of the port's weight. -/
def pickPkt (s : State) (q vc pos : Nat) : Option (OutPkt × Tab Drr) :=
  let x := getPort s q
  let l := startable s q vc pos
  match l.find? (fun o => partyOf s o.pkt == .module) with
  | some o => some (o, x.drr)
  | none =>
    match l.find? (fun o => partyOf s o.pkt == .transit), pickSlot s x.drr q vc l with
    | some a, some b =>
      (match drrPick [0, 1] (fun k => if k = 0 then a.total else b.1.total)
          (fun k => if k = 0 then transitWeight x else 256 - transitWeight x) (drrOf x.drr (200 * vc)) with
       | some (k, d) => if k = 0 then some (a, setDrr x.drr (200 * vc) d) else some (b.1, setDrr b.2 (200 * vc) d)
       | none => some (a, x.drr))
    | some a, none => some (a, x.drr)
    | none, some b => some b
    | none, none => none

/-- What a VC has for a position: the packet it is sending, whose flits no other's come between (R254), or one that it begins. -/
def vcFlit (s : State) (q pos vc : Nat) : Option (OutPkt × Tab Drr) :=
  match curOf s q vc with
  | some o => if flitReady s q pos o then some (o, (getPort s q).drr) else none
  | none => pickPkt s q vc pos

/-- The VC that owns each flit slot of a frame (R253), from slot 1 on. -/
def slotVcs : List Nat := [0, 0, 0, 1, 1, 1, 1, 2, 2, 2, 3, 3, 3, 3, 3, 4, 4, 4, 5]

/-- The order in which a slot that its owner does not use is lent (spec/01 R19). -/
def lendOrder : List Nat := [5, 4, 1, 0, 3, 2]

/-! ### A frame (R250, R251) -/

/-- A flit slot: its tag, its bytes, and the packet. -/
abbrev FlitSlot := Nat × List Byte × Option FabPkt

def emptySlot : FlitSlot := (7, List.replicate 64 0, none)

/-- The next flit of a packet leaves: a credit is used, and the buffer that held a flit in transit is free (R254). -/
def sendFlit (s : State) (q : Nat) (o : OutPkt) (t : Tab Drr) : State × FlitSlot :=
  let x := getPort s q
  let o' := { o with flits := o.flits.drop 1, sent := o.sent + 1 }
  let s := setPort s q { x with
    drr := t, credits := tabSet (fun k => poolSize (k / 3)) x.credits (poolOf o.pkt) (creditsOf x (poolOf o.pkt) - 1),
    cur := tabSet (fun _ => none) x.cur o.pkt.vc (if o'.sent = o'.total then none else some o') }
  let s := { s with fab := { s.fab with sent := s.fab.sent.erase o } }
  let s := match o.src with
    | some (p, pool) =>
      let y := getPort s p
      setPort s p { y with freed := tabSet (fun _ => 0) y.freed pool (tabGet (fun _ => 0) y.freed pool + 1) }
    | none => s
  (s, (o.pkt.vc + 8 * o.pkt.phase, o.flits.headD [], some o.pkt))

/-- Flit slot `i` of the next frame: its owner's, or lent. -/
def fillSlot (q : Nat) (r : State × List FlitSlot) (i : Nat) : State × List FlitSlot :=
  let pos := (getPort r.1 q).txNext.toNat % 256 * 19 + i
  match (slotVcs.getD i 5 :: lendOrder).findSome? (vcFlit r.1 q pos) with
  | some (o, t) => let f := sendFlit r.1 q o t; (f.1, r.2 ++ [f.2])
  | none => (r.1, r.2 ++ [emptySlot])

/-- The control slot (R251). -/
def controlSlot (x : Port) (slots : List FlitSlot) : List Byte :=
  let tags := ((List.range 19).map (fun i => (slots.getD i emptySlot).1 % 32 * 2 ^ (5 * i))).sum
  leBytes 2 x.txNext.toNat ++ leBytes 2 (x.rxNext - 1).toNat ++ leBytes 1 (b2n x.nak + x.spareReq % 8 * 2 + x.spareTx % 8 * 2 ^ 4) ++ [0]
    ++ (List.range 18).flatMap (fun p => leBytes 2 (tabGet (fun _ => 0) x.freed p)) ++ leBytes 12 tags ++ List.replicate 10 0

/-- A frame: control slot, flit slots, CRC, a reserved byte (R250). -/
def frameBytes (x : Port) (slots : List FlitSlot) : List Byte :=
  let b := controlSlot x slots ++ (List.range 19).flatMap (fun i => sliceZ (slots.getD i emptySlot).2.1 0 64)
  b ++ leBytes 4 (crc32c b).toNat ++ [0]

/-! ### Symbols and lanes (R245, R250) -/

/-- Lanes of a port in each direction. -/
def laneCount (q : Nat) : Nat := if q < 32 then 5 else 9

/-- Product in GF(1024), modulo x^10 + x^3 + 1: the field of IEEE 802.3 RS(544,514) (PRESUMED, notes/assumptions/48.md). -/
def gf10 (a b : Nat) : Nat :=
  (List.range 10).foldr (fun i acc =>
    let d := 2 * acc
    let d := if d < 1024 then d else Nat.xor d 0x409
    if bitAt b i then Nat.xor d a else d) 0

/-- The generator polynomial's coefficients below the leading one, highest first: the product of x + 2^j for j from 0 to 29. -/
def rsGen : List Nat :=
  ((List.range 30).foldl (fun (r : List Nat × Nat) _ =>
    (((r.1 ++ [0]).zip (0 :: r.1)).map (fun (e : Nat × Nat) => Nat.xor e.1 (gf10 r.2 e.2)), gf10 2 r.2)) ([1], 1)).1.drop 1

/-- The 30 parity symbols of a message, first symbol first. -/
def rsParity (l : List Nat) : List Nat :=
  l.foldl (fun p m =>
    let f := Nat.xor m (p.headD 0)
    ((p.drop 1 ++ [0]).zip rsGen).map (fun (e : Nat × Nat) => Nat.xor e.1 (gf10 f e.2))) (List.replicate 30 0)

/-- The 1,028 message symbols of a frame: ten bits each, least significant first. -/
def frameSymbols (b : List Byte) : List Nat := (List.range 1028).map (fun i => fld (ofLE b) (10 * i) 10)

/-- The two codewords of a frame. -/
def codewords (b : List Byte) : List (List Nat) :=
  let m := frameSymbols b
  [m.take 514, m.drop 514].map (fun l => l ++ rsParity l)

/-- The symbols that each lane carries of a frame: a codeword's are dealt round robin to the active lanes in ascending number. -/
def laneSymbols (x : Port) (q : Nat) (b : List Byte) : List (List Nat) :=
  let active := (List.range (laneCount q)).filter (fun l => l != x.spareTx)
  (List.range (laneCount q)).map (fun l => match active.idxOf? l with
    | none => []
    | some k => (codewords b).flatMap (fun w => (List.range (w.length / active.length)).map (fun i => w.getD (active.length * i + k) 0)))

/-! ### Sending (R250, R252) -/

/-- Whether the link of a port carries frames. -/
def linkUp (s : State) (q : Nat) : Bool := if q < 32 then portUp s q else (getFe s (q - 32)).up && !(getPort s q).again

/-- The next frame of a port is sent and kept until it is acknowledged, unless 256 are. -/
def sendFrame (s : State) (q : Nat) : State :=
  if !linkUp s q || decide (256 ≤ (getPort s q).kept.length) then s
  else
    let r := (List.range 19).foldl (fillSlot q) (s, [])
    let x := getPort r.1 q
    let b := frameBytes x r.2
    setPort r.1 q { x with
      kept := x.kept ++ [{ seq := x.txNext, bytes := b, pkts := (r.2.filterMap (fun e => e.2.2)).eraseDups }],
      txNext := x.txNext + 1, freed := [], nak := false, lines := laneSymbols x q b }

/-- Whether a frame of 12.143 ns, 170/7 control-network cycles, ends in a cycle (R250). -/
def frameDue (now : Nat) : Bool := decide ((now + 1) * 7 / 170 ≠ now * 7 / 170)

/-- The frames of a cycle: every link that is UP sends one when a frame time ends. -/
def frameTick (s : State) : State := if frameDue s.dev.now then (List.range 34).foldl sendFrame s else s

end Sys2Proof.Machine
end

