-- ==== Sys2Proof/Machine/Num.lean ====
section
/-! DEFINITION. Number formats and exact arithmetic (spec/03): decoding of every element format, one exact rounding to
every target, the FP32 operations of R85 to R89, block results, conversions and block quantisation. Values between a
decode and a rounding are exact: an integer times a power of two. -/
namespace Sys2Proof.Machine

/-! ### Exact values -/

/-- What a code decodes to: NaN, an infinity, or (-1)^neg m 2^e, whose zero keeps its sign (R72). -/
inductive Fv where
  | nan
  | inf (neg : Bool)
  | fin (neg : Bool) (m : Nat) (e : Int)
deriving DecidableEq, Repr

/-- A floating-point format (R72): exponent bits, mantissa bits, bias, whether it has infinities, whether a full exponent
field is special at all, and its largest finite code. -/
structure Fmt where
  eb : Nat
  mb : Nat
  bias : Int
  ieee : Bool
  nan7 : Bool
  maxCode : Nat
deriving DecidableEq, Repr

def fmtE4M3 : Fmt := ⟨4, 3, 7, false, true, 0x7E⟩
def fmtE5M2 : Fmt := ⟨5, 2, 15, true, false, 0x7B⟩
def fmtE2M3 : Fmt := ⟨2, 3, 1, false, false, 0x1F⟩
def fmtE3M2 : Fmt := ⟨3, 2, 3, false, false, 0x1F⟩
def fmtE2M1 : Fmt := ⟨2, 1, 1, false, false, 0x7⟩
def fmtFP16 : Fmt := ⟨5, 10, 15, true, false, 0x7BFF⟩
def fmtBF16 : Fmt := ⟨8, 7, 127, true, false, 0x7F7F⟩
def fmtFP32 : Fmt := ⟨8, 23, 127, true, false, 0x7F7FFFFF⟩

/-- The exponent of the least significant bit of subnormals. -/
def Fmt.low (f : Fmt) : Int := 1 - f.bias - f.mb

/-- A code's value (R72, R73). -/
def decodeFp (f : Fmt) (c : Nat) : Fv :=
  let neg := bitAt c (f.eb + f.mb)
  let e := fld c f.mb f.eb
  let m := fld c 0 f.mb
  if f.ieee && decide (e = 2 ^ f.eb - 1) then (if m = 0 then .inf neg else .nan)
  else if f.nan7 && decide (e = 2 ^ f.eb - 1) && decide (m = 2 ^ f.mb - 1) then .nan
  else if e = 0 then .fin neg m f.low
  else .fin neg (2 ^ f.mb + m) ((e : Int) - f.bias - f.mb)

/-- Bits of a number: the least n with x < 2^n. -/
def bitLen (x : Nat) : Nat := Nat.log2 x + (if x = 0 then 0 else 1)

/-- m 2^-k rounded to nearest, ties to even. -/
def rneShift (m k : Nat) : Nat :=
  let q := m / 2 ^ k
  let r := m % 2 ^ k
  if k = 0 then m
  else if 2 ^ (k - 1) < r ∨ (r = 2 ^ (k - 1) ∧ q % 2 = 1) then q + 1 else q

/-- m 2^e rounded to an integer multiple of 2^q, ties to even: the multiple. -/
def rneTo (m : Nat) (e q : Int) : Nat :=
  if q ≤ e then m * 2 ^ (e - q).toNat else rneShift m (q - e).toNat

/-- A positive value rounded to a format's precision with an unbounded exponent: mantissa and exponent (R90). -/
def roundPrec (f : Fmt) (m : Nat) (e : Int) : Nat × Int :=
  let q := max ((bitLen m : Int) + e - 1 - f.mb) f.low
  let x := rneTo m e q
  if x = 2 ^ (f.mb + 1) then (2 ^ f.mb, q + 1) else (x, q)

/-- The canonical quiet NaN of a format (R73). -/
def canonNan (f : Fmt) : Nat :=
  if f.nan7 then 0x7F else (2 ^ f.eb - 1) * 2 ^ f.mb + 2 ^ (f.mb - 1)

/-- The code of an infinity or of an overflow with SAT = 0: an infinity, or NaN where the format has none (R90). -/
def infCode (f : Fmt) (neg : Bool) : Nat :=
  if f.ieee then b2n neg * 2 ^ (f.eb + f.mb) + (2 ^ f.eb - 1) * 2 ^ f.mb else canonNan f

/-- The largest finite value with a sign. -/
def maxCode (f : Fmt) (neg : Bool) : Nat := b2n neg * 2 ^ (f.eb + f.mb) + f.maxCode

/-- Conversion of an exact value to a float format (R90): one rounding, then the overflow test. -/
def encodeFp (f : Fmt) (sat : Bool) : Fv → Nat
  | .nan => canonNan f
  | .inf neg => if sat then maxCode f neg else infCode f neg
  | .fin neg m e =>
    let (x, q) := roundPrec f m e
    let c := if x < 2 ^ f.mb then x else (q + f.mb + f.bias).toNat * 2 ^ f.mb + (x - 2 ^ f.mb)
    if f.maxCode < c then (if sat then maxCode f neg else infCode f neg)
    else b2n neg * 2 ^ (f.eb + f.mb) + c

/-! ### FP32 operations (R85-R89) -/

/-- The value of an FP32 word. -/
def ofF32 (w : W32) : Fv := decodeFp fmtFP32 w.toNat

/-- The FP32 word an exact value rounds to. -/
def toF32 (x : Fv) : W32 := BitVec.ofNat 32 (encodeFp fmtFP32 false x)

/-- The opposite value. -/
def fvNeg : Fv → Fv
  | .nan => .nan
  | .inf n => .inf (!n)
  | .fin n m e => .fin (!n) m e

/-- A signed integer times a power of two; a zero takes the sign given. -/
def fvOf (zeroNeg : Bool) (m : Int) (e : Int) : Fv :=
  if m = 0 then .fin zeroNeg 0 e else .fin (decide (m < 0)) m.natAbs e

def sint (neg : Bool) (m : Nat) : Int := if neg then -(m : Int) else m

/-- Exact sum; the sign of a zero sum follows IEEE 754. -/
def fvAdd : Fv → Fv → Fv
  | .nan, _ => .nan
  | _, .nan => .nan
  | .inf a, .inf b => if a = b then .inf a else .nan
  | .inf a, .fin _ _ _ => .inf a
  | .fin _ _ _, .inf b => .inf b
  | .fin a m e, .fin b n f =>
    let q := min e f
    fvOf (a && b) (sint a m * 2 ^ (e - q).toNat + sint b n * 2 ^ (f - q).toNat) q

/-- Exact product. -/
def fvMul : Fv → Fv → Fv
  | .nan, _ => .nan
  | _, .nan => .nan
  | .inf a, .inf b => .inf (a != b)
  | .inf a, .fin b n _ => if n = 0 then .nan else .inf (a != b)
  | .fin a m _, .inf b => if m = 0 then .nan else .inf (a != b)
  | .fin a m e, .fin b n f => .fin (a != b) (m * n) (e + f)

/-- A quotient to 64 bits and one that says whether more follows, which one rounding to FP32 cannot tell from the exact
quotient. -/
def fvDiv : Fv → Fv → Fv
  | .nan, _ => .nan
  | _, .nan => .nan
  | .inf _, .inf _ => .nan
  | .inf a, .fin b _ _ => .inf (a != b)
  | .fin a _ _, .inf b => .fin (a != b) 0 0
  | .fin a m e, .fin b n f =>
    if n = 0 then (if m = 0 then .nan else .inf (a != b))
    else
      let k := 64 + bitLen n
      let q := m * 2 ^ k / n
      .fin (a != b) (2 * q + b2n (m * 2 ^ k % n != 0)) (e - f - k - 1)

/-- The integer square root, built bit by bit from bit `k` down. -/
def isqrtFrom (n : Nat) : Nat → Nat → Nat
  | 0, r => if (r + 1) * (r + 1) ≤ n then r + 1 else r
  | k + 1, r => let t := r + 2 ^ (k + 1); isqrtFrom n k (if t * t ≤ n then t else r)

def isqrt (n : Nat) : Nat := isqrtFrom n (bitLen n / 2 + 1) 0

/-- m 2^e with an even exponent. -/
def evenExp (m : Nat) (e : Int) : Nat × Int := if e % 2 = 0 then (m, e) else (2 * m, e - 1)

/-- Square root to 64 bits and a sticky one. -/
def fvSqrt : Fv → Fv
  | .nan => .nan
  | .inf neg => if neg then .nan else .inf false
  | .fin neg m e =>
    if m = 0 then .fin neg 0 0
    else if neg then .nan
    else
      let (m, e) := evenExp m e
      let x := m * 2 ^ 128
      let r := isqrt x
      .fin false (2 * r + b2n (r * r != x)) (e / 2 - 65)

/-- One over the square root, to at least 64 bits and a sticky one. -/
def fvRsqrt : Fv → Fv
  | .nan => .nan
  | .inf neg => if neg then .nan else .fin false 0 0
  | .fin neg m e =>
    if m = 0 then .inf neg
    else if neg then .nan
    else
      let (m, e) := evenExp m e
      let k := 96 + bitLen m
      let r := isqrt (2 ^ (2 * k) / m)
      .fin false (2 * r + b2n (r * r * m != 2 ^ (2 * k))) (-(e / 2) - k - 1)

/-- ln 2 to 200 fraction bits. -/
def ln2Fix : Nat := 1113844574712631719546256151097547306333272293549090750737802

/-- e^t for a fixed-point t in [0, 1) of 200 fraction bits: the power series to 48 terms. -/
def expFix : Nat → Nat → Nat → Nat → Nat
  | 0, _, _, acc => acc
  | n + 1, t, term, acc =>
    let k := 48 - n
    let term := term * t / 2 ^ 200 / k
    expFix n t term (acc + term)

/-- 2 to the power of a value: exact for integers, else to 199 bits and a sticky one. Below 2^-26 in magnitude the power
rounds to 1, and beyond 300 it is out of the FP32 range whatever it is. -/
def fvExp2 : Fv → Fv
  | .nan => .nan
  | .inf neg => if neg then .fin false 0 0 else .inf false
  | .fin neg m e =>
    if m = 0 ∨ (bitLen m : Int) + e < -26 then .fin false 1 0
    else if 9 < (bitLen m : Int) + e then .fin false 1 (if neg then -600 else 600)
    else
      -- the value in units of 2^-60 is exact: a magnitude of at least 2^-27 has no bit below 2^-51
      let x : Int := sint neg (if 0 ≤ e + 60 then m * 2 ^ (e + 60).toNat else m / 2 ^ (-(e + 60)).toNat)
      let n := x / 2 ^ 60
      let f := (x % 2 ^ 60).toNat
      if f = 0 then .fin false 1 n
      else .fin false (2 * expFix 48 (f * ln2Fix / 2 ^ 60) (2 ^ 200) (2 ^ 200) + 1) (n - 201)

/-- `n` bits of the base-2 logarithm of a fixed-point y in [1, 2) of 200 fraction bits, by squaring. -/
def log2Bits : Nat → Nat → Nat → Nat
  | 0, _, acc => acc
  | n + 1, y, acc =>
    let z := y * y / 2 ^ 200
    if 2 ^ 201 ≤ z then log2Bits n (z / 2) (2 * acc + 1) else log2Bits n z (2 * acc)

/-- Base-2 logarithm: exact for powers of two, else to 120 fraction bits and a sticky one. -/
def fvLog2 : Fv → Fv
  | .nan => .nan
  | .inf neg => if neg then .nan else .inf false
  | .fin neg m e =>
    if m = 0 then .inf true
    else if neg then .nan
    else
      let b := bitLen m - 1
      let n : Int := (b : Int) + e
      if m = 2 ^ b then fvOf false n 0
      else
        let x : Int := n * 2 ^ 120 + (log2Bits 120 (m * 2 ^ (200 - b)) 0 : Nat)
        fvOf false (2 * x + 1) (-121)

def f32Add (a b : W32) : W32 := toF32 (fvAdd (ofF32 a) (ofF32 b))
def f32Neg (a : W32) : W32 := toF32 (fvNeg (ofF32 a))
def f32Sub (a b : W32) : W32 := toF32 (fvAdd (ofF32 a) (fvNeg (ofF32 b)))
def f32Mul (a b : W32) : W32 := toF32 (fvMul (ofF32 a) (ofF32 b))
def f32Fma (a b c : W32) : W32 := toF32 (fvAdd (fvMul (ofF32 a) (ofF32 b)) (ofF32 c))
def f32Div (a b : W32) : W32 := toF32 (fvDiv (ofF32 a) (ofF32 b))
def f32Rcp (a : W32) : W32 := f32Div 0x3F800000 a
def f32Sqrt (a : W32) : W32 := toF32 (fvSqrt (ofF32 a))
def f32Rsqrt (a : W32) : W32 := toF32 (fvRsqrt (ofF32 a))
def f32Exp2 (a : W32) : W32 := toF32 (fvExp2 (ofF32 a))
def f32Log2 (a : W32) : W32 := toF32 (fvLog2 (ofF32 a))

/-- Whether a first value is numerically below a second; NaN never, and zeros are equal. -/
def fvLt : Fv → Fv → Bool
  | .nan, _ => false
  | _, .nan => false
  | .inf a, .inf b => a && !b
  | .inf a, .fin _ _ _ => a
  | .fin _ _ _, .inf b => !b
  | .fin a m e, .fin b n f =>
    let q := min e f
    decide (sint a m * 2 ^ (e - q).toNat < sint b n * 2 ^ (f - q).toNat)

/-- The order of R86, in which -0 lies below +0. -/
def fvBelow (x y : Fv) : Bool :=
  fvLt x y || (match x, y with
    | .fin a m _, .fin b n _ => decide (m = 0) && decide (n = 0) && a && !b
    | _, _ => false)

def isNan : Fv → Bool
  | .nan => true
  | _ => false

/-- MIN and MAX of R86. -/
def f32Min (a b : W32) : W32 :=
  if isNan (ofF32 a) || isNan (ofF32 b) then 0x7FC00000 else if fvBelow (ofF32 b) (ofF32 a) then b else a
def f32Max (a b : W32) : W32 :=
  if isNan (ofF32 a) || isNan (ofF32 b) then 0x7FC00000 else if fvBelow (ofF32 a) (ofF32 b) then b else a

/-- VSGN's operations (R132): the sign inverted, cleared, or copied; a NaN result is canonical. -/
def f32Canon (a : W32) : W32 := if isNan (ofF32 a) then 0x7FC00000 else a
def f32Abs (a : W32) : W32 := f32Canon (a &&& 0x7FFFFFFF)
def f32Flip (a : W32) : W32 := f32Canon (a ^^^ 0x80000000)
def f32CopySign (a b : W32) : W32 := f32Canon ((a &&& 0x7FFFFFFF) ||| (b &&& 0x80000000))

/-- The derived functions of R89, operation for operation. -/
def f32Exp (x : W32) : W32 := f32Exp2 (f32Mul x 0x3FB8AA3B)
def f32Sigmoid (x : W32) : W32 := f32Rcp (f32Add 0x3F800000 (f32Exp2 (f32Mul (f32Flip x) 0x3FB8AA3B)))
def f32Tanh (x : W32) : W32 :=
  if isNan (ofF32 x) then 0x7FC00000
  else if fvLt (ofF32 (f32Abs x)) (.fin false 1 (-12)) then x
  else
    let e := f32Exp2 (f32Mul (f32Abs x) 0x4038AA3B)
    f32CopySign (f32Sub 0x3F800000 (f32Mul (f32Rcp (f32Add e 0x3F800000)) 0x40000000)) x
def f32Gelu (x : W32) : W32 :=
  if isNan (ofF32 x) then 0x7FC00000
  else if x = 0xFF800000 then 0x80000000
  else
    let u := f32Fma 0x3D372713 (f32Mul (f32Mul x x) x) x
    f32Mul x (f32Mul (f32Add 0x3F800000 (f32Tanh (f32Mul u 0x3F4C422A))) 0x3F000000)

/-- A BF16 sum step (R92): widened exactly, added under R85, rounded to BF16 with SAT = 0. -/
def bf16Add (a b : BitVec 16) : BitVec 16 :=
  let wide (x : BitVec 16) : W32 := toF32 (decodeFp fmtBF16 x.toNat)
  BitVec.ofNat 16 (encodeFp fmtBF16 false (ofF32 (f32Add (wide a) (wide b))))

/-- BF16 MIN and MAX (R92, R86). -/
def bf16Min (a b : BitVec 16) : BitVec 16 :=
  let x := decodeFp fmtBF16 a.toNat
  let y := decodeFp fmtBF16 b.toNat
  if isNan x || isNan y then 0x7FC0 else if fvBelow y x then b else a
def bf16Max (a b : BitVec 16) : BitVec 16 :=
  let x := decodeFp fmtBF16 a.toNat
  let y := decodeFp fmtBF16 b.toNat
  if isNan x || isNan y then 0x7FC0 else if fvBelow x y then b else a

/-! ### Integers and FGX (R74, R76, R80-R83) -/

/-- The value rounded to an integer, ties to even; none for NaN, `inf` for an infinity. -/
def rneInt (neg : Bool) (m : Nat) (e : Int) : Int := sint neg (rneTo m e 0)

/-- The value truncated toward zero. -/
def truncInt (neg : Bool) (m : Nat) (e : Int) : Int :=
  sint neg (if 0 ≤ e then m * 2 ^ e.toNat else m / 2 ^ (-e).toNat)

/-- An integer limited to a range; the flag says that it was outside. -/
def clampInt (lo hi x : Int) : Int × Bool := if hi < x then (hi, true) else if x < lo then (lo, true) else (x, false)

/-- An integer saturated to `n` bits of two's complement. -/
def satInt (n : Nat) (x : Int) : Int × Bool := clampInt (-(2 ^ (n - 1) : Nat)) ((2 ^ (n - 1) : Nat) - 1) x

/-- An FGX integer saturated and held in a 32-bit lane (R85, R132). -/
def satLane (n : Nat) (x : Int) : W32 × Bool := let (y, o) := satInt n x; (BitVec.ofInt 32 y, o)

/-- FP32 to INT32 (R90). -/
def toInt32 (rtz : Bool) : Fv → W32
  | .nan => 0
  | .inf neg => if neg then 0x80000000 else 0x7FFFFFFF
  | .fin neg m e => (satLane 32 (if rtz then truncInt neg m e else rneInt neg m e)).1

/-- An exact value onto grid `g` in `n` bits (R80, R90): the integer and whether FGX_OVF is set. -/
def toFgx (n g : Nat) : Fv → Int × Bool
  | .nan => (0, true)
  | .inf neg => if g = 0xFF then (0, true) else (if neg then -(2 ^ (n - 1) : Nat) else (2 ^ (n - 1) : Nat) - 1, true)
  | .fin neg m e => if g = 0xFF then (0, true) else satInt n (rneInt neg m (e + 127 - g))

/-- The value of an FGX integer on a grid, with FGX_OVF for the invalid grid (R76). -/
def ofFgx (g : Nat) (i : Int) : Fv × Bool :=
  if g = 0xFF then (.fin false 0 0, true) else (.fin (decide (i < 0)) i.natAbs ((g : Int) - 127), false)

/-- From one grid to another (R90, R76). -/
def fgxToFgx (n g g' : Nat) (i : Int) : Int × Bool :=
  let (x, o) := ofFgx g i
  let (y, o') := toFgx n g' x
  (y, o || o')

/-! ### Element formats by code (R70, R71) -/

/-- Element bits of a format code. -/
def codeBits (c : Nat) : Nat :=
  match c with
  | 4 | 5 => 6
  | 6 | 9 => 4
  | 10 | 11 => 16
  | 12 | 13 | 15 => 32
  | 14 => 24
  | _ => 8

/-- Whether a format has a scale byte per block. -/
def scaled (c : Nat) : Bool := decide (2 ≤ c) && decide (c ≤ 9)

/-- Bytes of a block of 32 elements (R138). -/
def blockBytes (c : Nat) : Nat := 4 * codeBits c

/-- The float format of a code, none for the integer codes. -/
def fmtOf (c : Nat) : Option Fmt :=
  match c with
  | 0 | 2 => some fmtE4M3
  | 1 | 3 => some fmtE5M2
  | 4 => some fmtE2M3
  | 5 => some fmtE3M2
  | 6 => some fmtE2M1
  | 10 => some fmtBF16
  | 11 => some fmtFP16
  | 12 => some fmtFP32
  | _ => none

/-- The value of an element code of formats 0x0 to 0xC (R72, R74), before any scale. -/
def decodeElem (c x : Nat) : Fv :=
  match fmtOf c with
  | some f => decodeFp f x
  | none =>
    let i := sgn (codeBits c) x
    .fin (decide (i < 0)) i.natAbs (if c = 7 then -6 else 0)

/-- A value times the scale of a scale byte (R75). -/
def fvScale (sc : Nat) : Fv → Fv
  | .nan => .nan
  | .inf n => if sc = 0xFF then .nan else .inf n
  | .fin n m e => if sc = 0xFF then .nan else .fin n m (e + sc - 127)

/-- Element `i` of a packed array read byte by byte from an offset (R71). -/
def elemAt (rd : Nat → Byte) (base bits i : Nat) : Nat :=
  let p := i * bits
  fld (ofLE ((List.range ((p % 8 + bits + 7) / 8)).map (fun j => rd (base + p / 8 + j)))) (p % 8) bits

/-- Elements packed into bytes (R71). -/
def packElems (bits : Nat) (l : List Nat) : List Byte :=
  leBytes ((l.length * bits + 7) / 8) (l.foldr (fun x acc => x % 2 ^ bits + acc * 2 ^ bits) 0)

/-! ### Block results (R78) -/

/-- What has been gathered of a block: NaN, +inf, -inf seen, and the exact sum. -/
structure Blk where
  nan : Bool := false
  pinf : Bool := false
  ninf : Bool := false
  m : Int := 0
  e : Int := 0
deriving DecidableEq, Repr

/-- One product enters. -/
def blkStep (b : Blk) (x y : Fv) : Blk :=
  match fvMul x y with
  | .nan => { b with nan := true }
  | .inf neg => if neg then { b with ninf := true } else { b with pinf := true }
  | .fin neg m e =>
    let q := min b.e e
    { b with m := b.m * 2 ^ (b.e - q).toNat + sint neg m * 2 ^ (e - q).toNat, e := q }

/-- The block result of paired elements and two scale bytes; an exact zero is +0. -/
def blockResult (l : List (Fv × Fv)) (sa sb : Nat) : Fv :=
  if sa = 0xFF ∨ sb = 0xFF then .nan
  else
    let b := l.foldl (fun b e => blkStep b e.1 e.2) {}
    if b.nan || (b.pinf && b.ninf) then .nan
    else if b.pinf then .inf false
    else if b.ninf then .inf true
    else fvOf false b.m (b.e + sa - 127 + sb - 127)

/-- FP32 accumulation (R79): one rounding of the exact sum, an exactly zero sum +0. -/
def accFp32 (acc : W32) (b : Fv) : W32 :=
  match fvAdd (ofF32 acc) b with
  | .fin neg m e => if m = 0 then 0 else toF32 (.fin neg m e)
  | x => toF32 x

/-- FGX accumulation (R80): the element and whether FGX_OVF is set. -/
def accFgx (acc : W32) (g : Nat) (b : Fv) : W32 × Bool :=
  let (q, o) := toFgx 32 g b
  let (t, o') := satInt 32 (acc.toInt + q)
  (BitVec.ofInt 32 t, o || o')

/-! ### Block quantisation (R91) -/

/-- emax of R91. -/
def emaxOf (c : Nat) : Int :=
  match c with
  | 2 => 8
  | 3 => 15
  | 4 => 2
  | 5 => 4
  | 6 => 2
  | 7 => 0
  | 8 => 6
  | _ => 2

/-- An element of a block-scaled format: rounded once, saturated to the largest magnitude produced. -/
def quantElem (c : Nat) (x : Fv) : Nat :=
  match fmtOf c with
  | some f => encodeFp f true x
  | none =>
    match x with
    | .fin neg m e =>
      let lim : Int := if c = 9 then 7 else 127
      lowBits (codeBits c) (clampInt (-lim) lim (rneInt neg m (if c = 7 then e + 6 else e))).1
    | _ => 0

/-- Thirty-two values to a scale byte and element codes. -/
def quantBlock (c : Nat) (l : List W32) : Nat × List Nat :=
  let vs := l.map ofF32
  if vs.any (fun v => match v with | .fin _ _ _ => false | _ => true) then (0xFF, l.map (fun _ => 0))
  else
    -- floor(log2 m) of the largest magnitude, none when all are zero
    let top := vs.foldl (fun (t : Option Int) v => match v with
      | .fin _ m e => if m = 0 then t else
          let k := (bitLen m : Int) - 1 + e
          (match t with | some x => some (max x k) | none => some k)
      | _ => t) none
    let e : Int := match top with
      | some k => max (k - emaxOf c) (-127)
      | none => -127
    ((e + 127).toNat, vs.map (fun v => match v with
      | .fin neg m f => quantElem c (.fin neg m (f - e))
      | _ => 0))

end Sys2Proof.Machine
end

