-- ==== Sys2Proof/Machine/Operands.lean ====
section
/-! DEFINITION. The operand forms of core instructions (spec/05 R122, R126, R132, R138): the fields of a word, the
registers of a tenancy with X0 and P0 hard-wired (spec/04 R99), lanes, the window, and tile address and shape words. -/
namespace Sys2Proof.Machine

/-! ### The fields of an instruction word (R122) -/

/-- The fields of a word below its opcode, as numbers. -/
structure CoreWord where
  d : Nat
  a : Nat
  b : Nat
  c : Nat
  pred : Nat
  fn : Nat
  mod : Nat
  imm16 : Nat
  imm46 : Nat
deriving DecidableEq, Repr

/-- The fields of the 56 bits below the opcode. -/
def coreWord (w : BitVec 56) : CoreWord :=
  let n := w.toNat
  { d := fld n 51 5, a := fld n 46 5, b := fld n 41 5, c := fld n 36 5, pred := fld n 33 3, fn := fld n 28 5,
    mod := fld n 16 12, imm16 := fld n 0 16, imm46 := fld n 0 46 }

/-- IMM16 sign-extended to 64 bits. -/
def sext16 (x : Nat) : W64 := BitVec.ofInt 64 (sgn 16 x)

/-- IMM46 sign-extended to 64 bits. -/
def sext46 (x : Nat) : W64 := BitVec.ofInt 64 (sgn 46 x)

/-- A field of MOD named by the word's bit numbers. -/
def modFld (w : CoreWord) (lo n : Nat) : Nat := fld w.mod (lo - 16) n

/-- MOD bit `i` by the word's bit number. -/
def modBit (w : CoreWord) (i : Nat) : Bool := bitAt w.mod (i - 16)

/-- Whether every MOD bit from bit `lo` to bit `hi`, numbered as in the word, is zero. -/
def modZero (w : CoreWord) (lo hi : Nat) : Bool := decide (modFld w lo (hi + 1 - lo) = 0)

/-- "opB" (R126): X[B], or IMM16 sign-extended where MOD[16] is set; then field B is zero. -/
def opBOk (w : CoreWord) : Bool := modZero w 17 27 && (if modBit w 16 then decide (w.b = 0) else decide (w.imm16 = 0))

/-! ### Registers of a tenancy (R99) -/

/-- X register; X0 reads as zero. -/
def xGet (t : Ten) (i : Nat) : W64 := if i = 0 then 0 else tabGet (fun _ => 0) t.x i

/-- X register written; writes to X0 are discarded. -/
def xSet (t : Ten) (i : Nat) (v : W64) : Ten := if i = 0 then t else { t with x := tabSet (fun _ => 0) t.x i v }

/-- P register; P0 reads as all ones. -/
def pGet (t : Ten) (i : Nat) : W64 := if i = 0 then 0xFFFFFFFFFFFFFFFF else tabGet (fun _ => 0) t.p i

/-- P register written; writes to P0 are discarded. -/
def pSet (t : Ten) (i : Nat) (v : W64) : Ten := if i = 0 then t else { t with p := tabSet (fun _ => 0) t.p i v }

/-- Lane `l` of a V register. -/
def vGet (t : Ten) (v l : Nat) : W32 := tabGet (fun _ => 0) t.v (64 * v + l)

/-- Lane `l` of a V register written. -/
def vPut (t : Ten) (v l : Nat) (x : W32) : Ten := { t with v := tabSet (fun _ => 0) t.v (64 * v + l) x }

/-- Whether a lane is active under a predicate register (R132). -/
def laneOn (t : Ten) (p l : Nat) : Bool := bitAt (pGet t p).toNat l

/-- The listed lanes of a V register written with what `f` gives for them. -/
def vLanes (t : Ten) (v : Nat) (f : Nat → W32) (ls : List Nat) : Ten := ls.foldl (fun t l => vPut t v l (f l)) t

/-- The active lanes. -/
def activeLanes (t : Ten) (p : Nat) : List Nat := (List.range 64).filter (laneOn t p)

/-- The signed value of an FGX-24 lane: bits [23:0], whatever the rest holds (R132). -/
def laneInt (ty : Nat) (x : W32) : Int := if ty = 0xE then sgn 24 x.toNat else x.toInt

/-! ### Banks (R79, R80, R99) -/

def accKey (b r c : Nat) : Nat := 4096 * b + 64 * r + c
def accGet (t : Ten) (b r c : Nat) : W32 := tabGet (fun _ => 0) t.acc (accKey b r c)
def accPut (t : Ten) (b r c : Nat) (x : W32) : Ten := { t with acc := tabSet (fun _ => 0) t.acc (accKey b r c) x }

/-- The mode of a bank: FGX-accumulate or FP32-accumulate. -/
def bankFgx (t : Ten) (b : Nat) : Bool := tabGet (fun _ => false) t.fgx b

/-- Grid byte `j` of a bank. -/
def gridGet (t : Ten) (b j : Nat) : Byte := tabGet (fun _ => 0x7F) t.grid (128 * b + j)

/-- The grid byte that serves an element (R80). -/
def gridOf (t : Ten) (b r c : Nat) : Nat := (gridGet t b (2 * r + c / 32)).toNat

/-- A bank put in a mode with every element zero. -/
def bankClear (t : Ten) (b : Nat) (fgx : Bool) : Ten :=
  { t with acc := tabClear t.acc (4096 * b) 4096, fgx := tabSet (fun _ => false) t.fgx b fgx }

/-- A bank's grid bytes set. -/
def gridPut (t : Ten) (b : Nat) (l : List Byte) : Ten :=
  { t with grid := tabSetAll (fun _ => 0x7F) t.grid ((List.range l.length).zip l |>.map (fun e => (128 * b + e.1, e.2))) }

/-! ### The window (R104) -/

/-- Bytes of the window. -/
def winSize (t : Ten) : Nat := t.foot * 131072

/-- Whether `n` bytes at an offset lie inside the window. -/
def winIn (t : Ten) (o n : Nat) : Bool := decide (o + n ≤ winSize t)

def winByte (t : Ten) (o : Nat) : Byte := tabGet zeroByte t.win o
def winRead (t : Ten) (o n : Nat) : List Byte := (List.range n).map (fun i => winByte t (o + i))
def winWrite (t : Ten) (o : Nat) (l : List Byte) : Ten := { t with win := tabSetAll zeroByte t.win (keyed o l) }

/-! ### Tiles (R138) -/

/-- An address word. -/
structure TileAddr where
  base : Nat
  stride : Nat
  sbase : Nat
deriving DecidableEq, Repr

/-- The fields of an address word, none where bits [63:57] are not zero. -/
def tileAddr (x : W64) : Option TileAddr :=
  let n := x.toNat
  if n / 2 ^ 57 ≠ 0 then none else some { base := fld n 0 19, stride := fld n 19 19, sbase := fld n 38 19 }

/-- The fields of a shape word (K, M, N) within their limits. `useK`: the K field counts. -/
def tileShape (x : W64) (useK : Bool) : Option (Nat × Nat × Nat) :=
  let n := x.toNat
  let k := fld n 0 10
  let m := fld n 10 7
  let c := fld n 17 7
  if n / 2 ^ 24 = 0 ∧ (!useK ∨ (1 ≤ k ∧ k ≤ 512)) ∧ 1 ≤ m ∧ m ≤ 64 ∧ 1 ≤ c ∧ c ≤ 64 then some (k, m, c) else none

/-- The offset of the block byte of row `r`, block `b` for a format. -/
def blockByteAt (t : TileAddr) (fmt r b : Nat) : Nat := t.sbase + r * (t.stride / blockBytes fmt) + b

/-- Whether a tile's base and stride are aligned for a format. -/
def tileAligned (t : TileAddr) (fmt : Nat) : Bool := decide (t.base % 8 = 0) && decide (t.stride % blockBytes fmt = 0)

/-- Whether `rows` rows of `n` bytes each lie in the window. -/
def rowsIn (t : Ten) (a : TileAddr) (rows n : Nat) : Bool := winIn t (a.base + (rows - 1) * a.stride) n

/-- Whether the block bytes of `rows` rows of `blocks` blocks lie in the window. -/
def scalesIn (t : Ten) (a : TileAddr) (fmt rows blocks : Nat) : Bool :=
  winIn t (blockByteAt a fmt (rows - 1) 0) blocks

end Sys2Proof.Machine
end

