-- ==== Sys2Proof/Machine/Flags.lean ====
section
/-! DEFINITION. The arithmetic flags (spec/03 R84, R95): the context's sticky FGX_OVF and RELAXED_USED, and the overflow
indicator of the run whose kernel set the flag. -/
namespace Sys2Proof.Machine

/-- FGX_OVF set in a context (R84). -/
def ctxOvf (s : State) (ctx : Nat) : State := setCtx s ctx { getCtx s ctx with fgxOvf := true }

/-- RELAXED_USED set in a context (R95). -/
def ctxRelaxed (s : State) (ctx : Nat) : State := setCtx s ctx { getCtx s ctx with relaxed := true }

/-- The overflow indicator of a run set, where its incarnation is the one that dispatched the work (R84). -/
def runOvf (s : State) (run incarn : Nat) : State :=
  match getRun s run with
  | some r => if tabGet (fun _ => 0) s.seq.incarn run = incarn then setRun s run (some { r with ovf := true }) else s
  | none => s

/-- FGX_OVF set by a kernel of a tenancy: the context's flag, the kernel's own mark, and the indicator of its run (R84). -/
def tenOvf (s : State) (t : TenRef) : State :=
  match findTen s t with
  | none => s
  | some x =>
    let s := ctxOvf (setTen s { x with kovf := true }) x.ctx
    match x.remote with
    | none => runOvf s x.run x.incarn
    | some _ => s

/-- The two bits of CTX_ARITH (R84). -/
def ctxArith (s : State) (ctx : Nat) : Nat := b2n (getCtx s ctx).fgxOvf + 2 * b2n (getCtx s ctx).relaxed

/-- CTX_ARITH bits cleared where a value holds a one (R84, R129). -/
def ctxArithClear (s : State) (ctx : Nat) (v : Nat) : State :=
  let c := getCtx s ctx
  setCtx s ctx { c with fgxOvf := c.fgxOvf && !bitAt v 0, relaxed := c.relaxed && !bitAt v 1 }

end Sys2Proof.Machine
end

