-- ==== Sys2Proof/Machine/Issue.lean ====
section
/-! DEFINITION. How a core instruction issues (spec/04 R101-R102, spec/05 R122-R125): when a tenancy's next instruction
can issue, the check of its fetch, core faults, and the three ways an instruction ends. -/
namespace Sys2Proof.Machine

/-! ### When an instruction can issue -/

/-- Whether a tenancy executes: resident, with a running kernel that does not wait, on a READY core that is not halted,
its context LIVE under the tenancy's generation, and its half ACTIVE. -/
def executes (s : State) (x : Ten) : Bool :=
  (match x.loc with | .resident _ => true | _ => false)
    && x.running && decide (x.wait = .none) && coreReady s x.core && !(getCore s x.core).halted
    && decide ((getCtx s x.ctx).st = 1) && decide ((getCtx s x.ctx).gen = x.cgen)
    && decide (halfPwr s (halfOfCore x.core) = 0) && !s.res.fenced.contains (halfOfCore x.core) && decide (s.dev.phase = .ready)

/-- The tenancy of a pair, where it executes. -/
def canIssue (s : State) (t : TenRef) : Option Ten := (findTen s t).filter (executes s)

/-- A register: a V register or an X register. -/
abbrev Reg := Bool × Nat

/-- Whether a value that a tenancy's register waits for has not returned (R101, R148). -/
def regPending (s : State) (t : TenRef) (r : Reg) : Bool :=
  (!(r == (false, 0))) &&
  (s.fab.outst.any (fun o => o.who == .ten t r.2 r.1)
    || s.rem.any (fun a => a.issuer == t && a.store.isNone && a.vec == r.1 && a.reg == r.2))

/-- Whether a remote store, atomic or reduce of a tenancy has not been performed (R155); a remote load, KIND 1, is none. -/
def postedPending (s : State) (t : TenRef) : Bool :=
  s.fab.outst.any (fun o => match o.who with
    | .ten u _ _ => u == t && o.kind != 1
    | .posted u => u == t
    | _ => false)
  || s.rem.any (fun a => a.issuer == t && a.store.isSome)

/-- Whether the value of a remote load of a tenancy has not returned (R148). -/
def loadPending (s : State) (t : TenRef) : Bool :=
  s.fab.outst.any (fun o => o.kind == 1 && (match o.who with
    | .ten u _ _ => u == t
    | _ => false))
  || s.rem.any (fun a => a.issuer == t && a.store.isNone)

/-! ### Core faults (R125) -/

/-- A core fault: the fault record names the PC and the LCID, and the context becomes LOST. -/
def coreFault (x : Ten) (cause : Nat) (write : Bool) (addr detail : W64) (s : State) : State :=
  loseCause (fatalFault s cause 3 x.ctx write addr x.pc x.lcid (halfOfCore x.core) detail) s

/-- Where a core's translations are cached. -/
def corePlace (x : Ten) : Place := some (sheafOfCore x.core, some x.core)

/-- A translation for a core access of a kind, or the state after the fault that it raises (R224, R227, R151). -/
def coreXlate (s : State) (x : Ten) (kind : ReqKind) (cause : Nat) (va : Nat) : Option (Range × Nat) × State :=
  let wr := !(kind == .read)
  let ad := BitVec.ofNat 64 va
  match translate s (corePlace x) x.ctx va with
  | (.hit e, v, s) => if rangeAllows e kind then (some (e, rangeFpa e v), s) else (none, coreFault x cause wr ad 0 s)
  | (.revoked, _, s) => (none, coreFault x 0x05 wr ad 0 s)
  | (.table, _, s) => (none, s)
  | (_, _, s) => (none, coreFault x cause wr ad 0 s)

/-- Whether a core's instruction cache holds the line of a tenancy's PC (R99). -/
def icHit (s : State) (x : Ten) : Bool :=
  (getCore s x.core).icache.any (fun l => l.ctx == x.ctx && decide (l.cgen = x.cgen) && l.va == x.pc.toNat / 64 * 64)

/-- A line fetched into a core's cache of 64 KiB; the line fetched longest ago leaves it (notes/assumptions/14.md). -/
def icFill (s : State) (core : Nat) (l : ILine) : State :=
  let c := getCore s core
  setCore s core { c with icache := (l :: c.icache).take 1024 }

/-- Lines leave a core's cache. -/
def icDrop (p : ILine → Bool) (s : State) (core : Nat) : State :=
  let c := getCore s core
  setCore s core { c with icache := c.icache.filter (fun l => !p l) }

/-- The fetch at the tenancy's PC: whether it may execute what it fetched, and the state after the check (R125). A line that the
cache holds is not fetched again; one of another module is asked for, and the instruction issues when it is there. -/
def fetch (s : State) (x : Ten) : Bool × State :=
  if icHit s x then (true, s)
  else
  let va := x.pc.toNat / 64 * 64
  if s.fab.outst.any (fun o => match o.who with | .fetch t l => t == refOf x && l.va == va | _ => false) then (false, s)
  else
  match translate s (corePlace x) x.ctx x.pc.toNat with
  | (.revoked, _, s) => (false, coreFault x 0x05 false x.pc 0 s)
  | (.table, _, s) => (false, s)
  | (.hit e, v, s) =>
    let f := rangeFpa e v
    let l : ILine := { ctx := x.ctx, cgen := x.cgen, va := va, dva := v / 64 * 64, fpa := f / 64 * 64 }
    if !rangeAllows e .read then (false, coreFault x 0x2A false x.pc 0 s)
    else if f / 2 ^ 42 ≠ ownModule s then
      match sendReqAt s (.fetch (refOf x) l) x.pc x.ctx x.core x.core (f / 4096)
          { dst := f / 2 ^ 42, vc := vcFor 1 (min x.cls e.cls), kind := 1, target := BitVec.ofNat 64 l.fpa, cls := min x.cls e.cls,
            edom := e.edom, len := 64 } with
      | some s => (false, s)
      | none => (false, coreFault x 0x2A false x.pc 0 s)
    else match memRead s .read x.ctx (pidOfCtx s x.ctx) e.edom (f % 2 ^ 42) 8 with
      | .ok _ s => (true, icFill s x.core l)
      | .unc s => (false, s)
      | _ => (false, coreFault x 0x2A false x.pc 0 s)
  | (_, _, s) => (false, coreFault x 0x2A false x.pc 0 s)

/-! ### How an instruction ends -/

/-- The end of an instruction that acts on its tenancy alone: the tenancy after it and whether it sets FGX_OVF, or a
fault. -/
inductive Eff where
  | done (x : Ten) (ovf : Bool)
  | fault (cause : Nat)
deriving DecidableEq, Repr

/-- The tenancy past its instruction. -/
def Ten.next (x : Ten) : Ten := { x with pc := x.pc + 8 }

/-- An instruction issues: where it can, its fetch is checked, an improper word faults (R123), and `f` runs. Otherwise the
instruction does not issue and nothing changes. -/
def issue (t : TenRef) (regs : List Reg) (proper : Bool) (f : Ten → State → State) (s : State) : State :=
  match canIssue s t with
  | none => s
  | some x =>
    if regs.any (regPending s t) then s
    else match fetch s x with
      | (false, s) => s
      | (true, s) => if proper then f x s else coreFault x 0x20 false x.pc 0 s

/-- An end applied. -/
def applyEff (x : Ten) (e : Eff) (s : State) : State :=
  match e with
  | .done y ovf => let s := setTen s y; if ovf then tenOvf s (refOf x) else s
  | .fault cause => coreFault x cause false x.pc 0 s

/-- An instruction that acts on its tenancy alone. -/
def issueTen (t : TenRef) (regs : List Reg) (proper : Bool) (f : Ten → Eff) (s : State) : State :=
  issue t regs proper (fun x s => applyEff x (f x) s) s

/-- What the code of an array of a tenancy's core finds in a read of the tenancy's own words (spec/11 R307, R306): a corrected
error is reported, an uncorrectable word makes the context LOST. -/
def sramSeen (x : Ten) (e : EccSeen) (s : State) : State :=
  let half := halfOfCore x.core
  match e with
  | .clean => s
  | .corrected => logNote { cls := 0x05, sev := 0, unitKind := 0, unit := x.core, action := 1, half := half } s
  | .uncorrectable =>
    loseStatus x.ctx 0x0C half (logNote
      { cls := 0x06, sev := 2, unitKind := 0, unit := x.core, slot := some x.slot, ctx := some x.ctx, half := half } s)

/-- An instruction that acts on its tenancy alone and reads an array: with an uncorrectable word it has no effect. -/
def issueRead (t : TenRef) (regs : List Reg) (proper : Bool) (e : EccSeen) (f : Ten → Eff) (s : State) : State :=
  issue t regs proper (fun x s =>
    match f x, e with
    | .done _ _, .uncorrectable => sramSeen x e s
    | .done y ovf, _ => sramSeen x e (applyEff x (.done y ovf) s)
    | .fault cause, _ => applyEff x (.fault cause) s) s

/-- A sample of winnow replay is abandoned (spec/11 R316). -/
def abandonSample (x : Ten) (s : State) : State :=
  match x.sample with
  | none => s
  | some _ => { setTen s { x with sample := none } with res := { s.res with abandon := s.res.abandon + 1 } }

/-- A sampled tenancy receives a value from outside its registers and window: it enters the read log; a log that would exceed
4 MiB abandons the sample (spec/11 R316). -/
def logRead (t : TenRef) (l : List Byte) (s : State) : State :=
  match findTen s t with
  | none => s
  | some x => match x.sample with
    | none => s
    | some k =>
      if 4194304 < k.log.length + l.length then abandonSample x s
      else setTen s { x with sample := some { k with log := k.log ++ l } }

end Sys2Proof.Machine
end

