-- ==== Sys2Proof/Machine/Scalar.lean ====
section
/-! DEFINITION. The scalar instructions (spec/05 R126-R128) and the instructions that change the PC or read the kernel's
surroundings (R129, R131). END is in Machine/CoreSync.lean. -/
namespace Sys2Proof.Machine

/-- Fields of a scalar instruction with "opB" (R126). -/
def scalarOk (w : CoreWord) (useC : Bool) : Bool :=
  opBOk w && decide (w.pred = 0) && decide (w.fn = 0) && (useC || decide (w.c = 0))

/-- The second operand (R126). -/
def opBVal (x : Ten) (w : CoreWord) : W64 := if modBit w 16 then sext16 w.imm16 else xGet x w.b

/-- A scalar instruction: X[D] receives `f X[A] opB X[C]`. -/
def scalarR (t : TenRef) (bits : BitVec 56) (useC : Bool) (f : W64 → W64 → W64 → W64) (s : State) : State :=
  let w := coreWord bits
  issueTen t [(false, w.d), (false, w.a), (false, w.b), (false, w.c)] (scalarOk w useC)
    (fun x => .done (xSet x w.d (f (xGet x w.a) (opBVal x w) (xGet x w.c))).next false) s

/-- 1 where a condition holds. -/
def flag64 (b : Bool) : W64 := if b then 1 else 0

/-! ### The results (R126, R127) -/

def opMulhu (a b : W64) : W64 := BitVec.ofNat 64 (a.toNat * b.toNat / 2 ^ 64)
def opMulhs (a b : W64) : W64 := BitVec.ofInt 64 (a.toInt * b.toInt / 2 ^ 64)
def opDivu (a b : W64) : W64 := if b = 0 then 0xFFFFFFFFFFFFFFFF else BitVec.ofNat 64 (a.toNat / b.toNat)
def opRemu (a b : W64) : W64 := if b = 0 then a else BitVec.ofNat 64 (a.toNat % b.toNat)

/-- Signed quotient, truncated toward zero; -2^63 by -1 wraps to -2^63. -/
def opDivs (a b : W64) : W64 := if b = 0 then 0xFFFFFFFFFFFFFFFF else BitVec.ofInt 64 (Int.tdiv a.toInt b.toInt)

/-- Signed remainder with the sign of the dividend. -/
def opRems (a b : W64) : W64 := if b = 0 then a else BitVec.ofInt 64 (Int.tmod a.toInt b.toInt)

def opSra (a b : W64) : W64 := a.sshiftRight (b.toNat % 64)
def sltB (a b : W64) : Bool := decide (a.toInt < b.toInt)
def ultB (a b : W64) : Bool := decide (a.toNat < b.toNat)

/-! ### Instructions -/

/-- ADD (R126). -/
def execAdd (t : TenRef) (w : BitVec 56) (s : State) : Host.Outcome State Fault Refusal :=
  .next (scalarR t w false (fun a b _ => a + b) s)

/-- SUB (R126). -/
def execSub (t : TenRef) (w : BitVec 56) (s : State) : Host.Outcome State Fault Refusal :=
  .next (scalarR t w false (fun a b _ => a - b) s)

/-- AND (R126). -/
def execAndX (t : TenRef) (w : BitVec 56) (s : State) : Host.Outcome State Fault Refusal :=
  .next (scalarR t w false (fun a b _ => a &&& b) s)

/-- OR (R126). -/
def execOrX (t : TenRef) (w : BitVec 56) (s : State) : Host.Outcome State Fault Refusal :=
  .next (scalarR t w false (fun a b _ => a ||| b) s)

/-- XOR (R126). -/
def execXorX (t : TenRef) (w : BitVec 56) (s : State) : Host.Outcome State Fault Refusal :=
  .next (scalarR t w false (fun a b _ => a ^^^ b) s)

/-- SHL (R126). -/
def execShl (t : TenRef) (w : BitVec 56) (s : State) : Host.Outcome State Fault Refusal :=
  .next (scalarR t w false (fun a b _ => a <<< (b.toNat % 64)) s)

/-- SHR (R126). -/
def execShr (t : TenRef) (w : BitVec 56) (s : State) : Host.Outcome State Fault Refusal :=
  .next (scalarR t w false (fun a b _ => a >>> (b.toNat % 64)) s)

/-- SRA (R126). -/
def execSra (t : TenRef) (w : BitVec 56) (s : State) : Host.Outcome State Fault Refusal :=
  .next (scalarR t w false (fun a b _ => opSra a b) s)

/-- MUL (R126). -/
def execMul (t : TenRef) (w : BitVec 56) (s : State) : Host.Outcome State Fault Refusal :=
  .next (scalarR t w false (fun a b _ => a * b) s)

/-- MULHU (R126). -/
def execMulhu (t : TenRef) (w : BitVec 56) (s : State) : Host.Outcome State Fault Refusal :=
  .next (scalarR t w false (fun a b _ => opMulhu a b) s)

/-- MULHS (R126). -/
def execMulhs (t : TenRef) (w : BitVec 56) (s : State) : Host.Outcome State Fault Refusal :=
  .next (scalarR t w false (fun a b _ => opMulhs a b) s)

/-- DIVU (R127). -/
def execDivu (t : TenRef) (w : BitVec 56) (s : State) : Host.Outcome State Fault Refusal :=
  .next (scalarR t w false (fun a b _ => opDivu a b) s)

/-- DIVS (R127). -/
def execDivs (t : TenRef) (w : BitVec 56) (s : State) : Host.Outcome State Fault Refusal :=
  .next (scalarR t w false (fun a b _ => opDivs a b) s)

/-- REMU (R127). -/
def execRemu (t : TenRef) (w : BitVec 56) (s : State) : Host.Outcome State Fault Refusal :=
  .next (scalarR t w false (fun a b _ => opRemu a b) s)

/-- REMS (R127). -/
def execRems (t : TenRef) (w : BitVec 56) (s : State) : Host.Outcome State Fault Refusal :=
  .next (scalarR t w false (fun a b _ => opRems a b) s)

/-- SLT (R126). -/
def execSlt (t : TenRef) (w : BitVec 56) (s : State) : Host.Outcome State Fault Refusal :=
  .next (scalarR t w false (fun a b _ => flag64 (sltB a b)) s)

/-- SLTU (R126). -/
def execSltu (t : TenRef) (w : BitVec 56) (s : State) : Host.Outcome State Fault Refusal :=
  .next (scalarR t w false (fun a b _ => flag64 (ultB a b)) s)

/-- SEQ (R126). -/
def execSeqEq (t : TenRef) (w : BitVec 56) (s : State) : Host.Outcome State Fault Refusal :=
  .next (scalarR t w false (fun a b _ => flag64 (a == b)) s)

/-- MINS (R126). -/
def execMins (t : TenRef) (w : BitVec 56) (s : State) : Host.Outcome State Fault Refusal :=
  .next (scalarR t w false (fun a b _ => if sltB b a then b else a) s)

/-- MAXS (R126). -/
def execMaxs (t : TenRef) (w : BitVec 56) (s : State) : Host.Outcome State Fault Refusal :=
  .next (scalarR t w false (fun a b _ => if sltB a b then b else a) s)

/-- MINU (R126). -/
def execMinu (t : TenRef) (w : BitVec 56) (s : State) : Host.Outcome State Fault Refusal :=
  .next (scalarR t w false (fun a b _ => if ultB b a then b else a) s)

/-- MAXU (R126). -/
def execMaxu (t : TenRef) (w : BitVec 56) (s : State) : Host.Outcome State Fault Refusal :=
  .next (scalarR t w false (fun a b _ => if ultB a b then b else a) s)

/-- SEL (R126): X[A] where X[C] is not zero, else opB. -/
def execSel (t : TenRef) (w : BitVec 56) (s : State) : Host.Outcome State Fault Refusal :=
  .next (scalarR t w true (fun a b c => if c ≠ 0 then a else b) s)

/-- MOVI (R126): IMM46 sign-extended. -/
def execMovi (t : TenRef) (w : BitVec 56) (s : State) : Host.Outcome State Fault Refusal :=
  let f := coreWord w
  .next (issueTen t [(false, f.d)] (decide (f.a = 0)) (fun x => .done (xSet x f.d (sext46 f.imm46)).next false) s)

/-- SETHI (R126): bits [63:46] replaced by IMM46[17:0]. -/
def execSethi (t : TenRef) (w : BitVec 56) (s : State) : Host.Outcome State Fault Refusal :=
  let f := coreWord w
  .next (issueTen t [(false, f.d), (false, f.a)] (decide (fld f.imm46 18 28 = 0)) (fun x =>
    .done (xSet x f.d ((xGet x f.a &&& 0x00003FFFFFFFFFFF) ||| (BitVec.ofNat 64 f.imm46 <<< 46))).next false) s)

/-! ### Loads and stores (R128) -/

/-- Bytes of a size code of LD and ST: 1, 2, 4, 8, then signed 1, 2, 4. -/
def ldSize (fn : Nat) : Nat := 2 ^ (fn % 4)

/-- A window access checked (R125, R128): its alignment, then its bounds; else the fault. -/
def winCheck (x : Ten) (off : W64) (align n : Nat) : Option Nat :=
  if off.toNat % align ≠ 0 then some 0x25 else if !winIn x off.toNat n then some 0x24 else none

/-- LD (R128). -/
def execLd (t : TenRef) (w : BitVec 56) (e : EccSeen) (s : State) : Host.Outcome State Fault Refusal :=
  let f := coreWord w
  .next (issueRead t [(false, f.d), (false, f.a)]
    (decide (f.fn ≤ 6) && decide (f.b = 0) && decide (f.c = 0) && decide (f.pred = 0) && decide (f.mod = 0)) e (fun x =>
      let off := xGet x f.a + sext16 f.imm16
      let n := ldSize f.fn
      match winCheck x off n n with
      | some cause => .fault cause
      | none =>
        let v := ofLE (winRead x off.toNat n)
        .done (xSet x f.d (if f.fn < 4 then BitVec.ofNat 64 v else BitVec.ofInt 64 (sgn (8 * n) v))).next false) s)

/-- ST (R128). -/
def execSt (t : TenRef) (w : BitVec 56) (s : State) : Host.Outcome State Fault Refusal :=
  let f := coreWord w
  .next (issueTen t [(false, f.a), (false, f.b)]
    (decide (f.fn ≤ 3) && decide (f.d = 0) && decide (f.c = 0) && decide (f.pred = 0) && decide (f.mod = 0)) (fun x =>
      let off := xGet x f.a + sext16 f.imm16
      let n := ldSize f.fn
      match winCheck x off n n with
      | some cause => .fault cause
      | none => .done (winWrite x off.toNat (leBytes n (xGet x f.b).toNat)).next false) s)

/-! ### Control (R129, R131) -/

/-- The condition of BR. -/
def brCond (fn : Nat) (a b : W64) : Bool :=
  match fn with
  | 0 => a == b
  | 1 => !(a == b)
  | 2 => sltB a b
  | 3 => !sltB a b
  | 4 => ultB a b
  | _ => !ultB a b

/-- BR (R129). -/
def execBr (t : TenRef) (w : BitVec 56) (s : State) : Host.Outcome State Fault Refusal :=
  let f := coreWord w
  .next (issueTen t [(false, f.a), (false, f.b)]
    (decide (f.fn ≤ 5) && decide (f.d = 0) && decide (f.c = 0) && decide (f.pred = 0) && decide (f.mod = 0)) (fun x =>
      .done (if brCond f.fn (xGet x f.a) (xGet x f.b) then { x with pc := x.pc + 8 * sext16 f.imm16 } else x.next) false) s)

/-- JAL (R129). -/
def execJal (t : TenRef) (w : BitVec 56) (s : State) : Host.Outcome State Fault Refusal :=
  let f := coreWord w
  .next (issueTen t [(false, f.d)] (decide (f.a = 0)) (fun x =>
    .done { xSet x f.d (x.pc + 8) with pc := x.pc + 8 * sext46 f.imm46 } false) s)

/-- JALR (R129): the target is taken from X[A] before X[D] is written. -/
def execJalr (t : TenRef) (w : BitVec 56) (s : State) : Host.Outcome State Fault Refusal :=
  let f := coreWord w
  .next (issueTen t [(false, f.d), (false, f.a)]
    (decide (f.b = 0) && decide (f.c = 0) && decide (f.pred = 0) && decide (f.fn = 0) && decide (f.mod = 0)) (fun x =>
      let target := xGet x f.a + sext16 f.imm16
      if target.toNat % 8 ≠ 0 then .fault 0x25
      else .done { xSet x f.d (x.pc + 8) with pc := target } false) s)

/-- What SPR selects (R131). -/
def sprValue (s : State) (x : Ten) (i : Nat) : W64 :=
  match i with
  | 0 => BitVec.ofNat 64 (ctxArith s x.ctx)
  | 1 => BitVec.ofNat 64 x.lcid
  | 2 => BitVec.ofNat 64 (getSlot s x.slot).brec.lcount
  | 3 => BitVec.ofNat 64 x.foot
  | 4 => BitVec.ofNat 64 x.ctx
  | _ => cntOf s (halfOfCore x.core)

/-- SPR (R131); a class-C flag read. -/
def execSpr (t : TenRef) (w : BitVec 56) (s : State) : Host.Outcome State Fault Refusal :=
  let f := coreWord w
  .next (issue t [(false, f.d)]
    (decide (f.imm16 ≤ 5) && decide (f.a = 0) && decide (f.b = 0) && decide (f.c = 0) && decide (f.pred = 0)
      && decide (f.fn = 0) && decide (f.mod = 0))
    (fun x s =>
      let v := sprValue s x f.imm16
      logRead t (leBytes 8 v.toNat) (setTen s (xSet x f.d v).next)) s)

/-- FLAGCLR (R129, R131): the context's flags only. -/
def execFlagclr (t : TenRef) (w : BitVec 56) (s : State) : Host.Outcome State Fault Refusal :=
  let f := coreWord w
  .next (issue t [(false, f.a)]
    (decide (f.d = 0) && decide (f.b = 0) && decide (f.c = 0) && decide (f.pred = 0) && decide (f.fn = 0)
      && decide (f.mod = 0) && decide (f.imm16 = 0))
    (fun x s => ctxArithClear (setTen s x.next) x.ctx (xGet x f.a).toNat) s)

/-- TRAP (R129): PROGRAM_TRAP with IMM16 in the record's detail field. -/
def execTrap (t : TenRef) (w : BitVec 56) (s : State) : Host.Outcome State Fault Refusal :=
  let f := coreWord w
  .next (issue t []
    (decide (f.d = 0) && decide (f.a = 0) && decide (f.b = 0) && decide (f.c = 0) && decide (f.pred = 0)
      && decide (f.fn = 0) && decide (f.mod = 0))
    (fun x s => coreFault x 0x2F false x.pc (sext16 f.imm16) s) s)

end Sys2Proof.Machine
end

