-- ==== Sys2Proof/Machine/Vector.lean ====
section
/-! DEFINITION. The vector and predicate instructions (spec/05 R132-R137). -/
namespace Sys2Proof.Machine

/-! ### Lane types (R132) -/

/-- The lane type of a word: MOD[19:16]. -/
def laneTy (w : CoreWord) : Nat := modFld w 16 4

/-- Whether a code is a vector lane type. -/
def isLaneTy (ty : Nat) : Bool := decide (0xC ≤ ty) && decide (ty ≤ 0xF)

/-- Bits of an FGX lane type. -/
def fgxBits (ty : Nat) : Nat := if ty = 0xE then 24 else 32

/-- Registers a vector instruction names: V[D], V[A], and V[B] and V[C] where it uses the fields. -/
def vRegs (w : CoreWord) (useB useC : Bool) : List Reg :=
  [(true, w.d), (true, w.a)] ++ (if useB then [(true, w.b)] else []) ++ (if useC then [(true, w.c)] else [])

/-- Results of the active lanes written to V[D]; the flag of any lane says that FGX_OVF is set. -/
def vWrite (x : Ten) (w : CoreWord) (f : Nat → W32 × Bool) : Eff :=
  let ls := activeLanes x w.pred
  .done (vLanes x w.d (fun l => (f l).1) ls).next (ls.any (fun l => (f l).2))

/-- A lane operation (R132): its word is proper, its lane type one of `tys`, its operands are read before any result is
written. -/
def vecOp (t : TenRef) (bits : BitVec 56) (useB useC useFn : Bool) (fnMax : Nat) (tys : List Nat)
    (f : Nat → Nat → W32 → W32 → W32 → W32 × Bool) (s : State) : State :=
  let w := coreWord bits
  issueTen t (vRegs w useB useC)
    ((useB || decide (w.b = 0)) && (useC || decide (w.c = 0)) && (if useFn then decide (w.fn ≤ fnMax) else decide (w.fn = 0))
      && modZero w 20 27 && decide (w.imm16 = 0))
    (fun x =>
      if !tys.contains (laneTy w) then .fault 0x21
      else vWrite x w (fun l => f (laneTy w) w.fn (vGet x w.a l) (vGet x w.b l) (vGet x w.c l))) s

/-! ### Lane results -/

/-- A + B by type (R85, R132). -/
def laneAdd (ty : Nat) (a b : W32) : W32 × Bool :=
  if ty = 0xC then (f32Add a b, false)
  else if ty = 0xF then (a + b, false)
  else satLane (fgxBits ty) (laneInt ty a + laneInt ty b)

/-- A - B by type. -/
def laneSub (ty : Nat) (a b : W32) : W32 × Bool :=
  if ty = 0xC then (f32Sub a b, false)
  else if ty = 0xF then (a - b, false)
  else satLane (fgxBits ty) (laneInt ty a - laneInt ty b)

/-- min(A, B) and max(A, B) by type (R86); an integer result is held sign-extended. -/
def laneMin (ty : Nat) (a b : W32) : W32 × Bool :=
  if ty = 0xC then (f32Min a b, false) else (BitVec.ofInt 32 (min (laneInt ty a) (laneInt ty b)), false)
def laneMax (ty : Nat) (a b : W32) : W32 × Bool :=
  if ty = 0xC then (f32Max a b, false) else (BitVec.ofInt 32 (max (laneInt ty a) (laneInt ty b)), false)

/-- VSGN's result (R132). -/
def laneSgn (fn : Nat) (a b : W32) : W32 :=
  match fn with
  | 0 => f32Flip a
  | 1 => f32Abs a
  | _ => f32CopySign a b

/-- VFUNC's result (R88). -/
def laneFunc (fn : Nat) (a : W32) : W32 :=
  match fn with
  | 0 => f32Exp2 a
  | 1 => f32Log2 a
  | 2 => f32Rcp a
  | 3 => f32Sqrt a
  | _ => f32Rsqrt a

/-- VCMP's condition (R132): a NaN makes every condition false except NE, and zeros are equal. -/
def laneCmp (ty fn : Nat) (a b : W32) : Bool :=
  if ty = 0xC then
    let x := ofF32 a
    let y := ofF32 b
    let nan := isNan x || isNan y
    let lt := fvLt x y
    let gt := fvLt y x
    match fn with
    | 0 => !nan && !lt && !gt
    | 1 => nan || lt || gt
    | 2 => lt
    | 3 => !nan && !gt
    | 4 => gt
    | _ => !nan && !lt
  else
    let x := laneInt ty a
    let y := laneInt ty b
    match fn with
    | 0 => decide (x = y)
    | 1 => decide (x ≠ y)
    | 2 => decide (x < y)
    | 3 => decide (x ≤ y)
    | 4 => decide (y < x)
    | 5 => decide (y ≤ x)
    | 6 => decide (a.toNat < b.toNat)
    | _ => decide (b.toNat ≤ a.toNat)

/-! ### Lane instructions -/

/-- VADD (R132). -/
def execVadd (t : TenRef) (w : BitVec 56) (s : State) : Host.Outcome State Fault Refusal :=
  .next (vecOp t w true false false 0 [0xC, 0xD, 0xE, 0xF] (fun ty _ a b _ => laneAdd ty a b) s)

/-- VSUB (R132). -/
def execVsub (t : TenRef) (w : BitVec 56) (s : State) : Host.Outcome State Fault Refusal :=
  .next (vecOp t w true false false 0 [0xC, 0xD, 0xE, 0xF] (fun ty _ a b _ => laneSub ty a b) s)

/-- VMUL (R132). -/
def execVmul (t : TenRef) (w : BitVec 56) (s : State) : Host.Outcome State Fault Refusal :=
  .next (vecOp t w true false false 0 [0xC, 0xF] (fun ty _ a b _ => (if ty = 0xC then f32Mul a b else a * b, false)) s)

/-- VFMA (R132). -/
def execVfma (t : TenRef) (w : BitVec 56) (s : State) : Host.Outcome State Fault Refusal :=
  .next (vecOp t w true true false 0 [0xC] (fun _ _ a b c => (f32Fma a b c, false)) s)

/-- VDIV (R132). -/
def execVdiv (t : TenRef) (w : BitVec 56) (s : State) : Host.Outcome State Fault Refusal :=
  .next (vecOp t w true false false 0 [0xC] (fun _ _ a b _ => (f32Div a b, false)) s)

/-- VMIN (R132). -/
def execVmin (t : TenRef) (w : BitVec 56) (s : State) : Host.Outcome State Fault Refusal :=
  .next (vecOp t w true false false 0 [0xC, 0xD, 0xE, 0xF] (fun ty _ a b _ => laneMin ty a b) s)

/-- VMAX (R132). -/
def execVmax (t : TenRef) (w : BitVec 56) (s : State) : Host.Outcome State Fault Refusal :=
  .next (vecOp t w true false false 0 [0xC, 0xD, 0xE, 0xF] (fun ty _ a b _ => laneMax ty a b) s)

/-- VAND (R132). -/
def execVand (t : TenRef) (w : BitVec 56) (s : State) : Host.Outcome State Fault Refusal :=
  .next (vecOp t w true false false 0 [0xC, 0xD, 0xE, 0xF] (fun _ _ a b _ => (a &&& b, false)) s)

/-- VOR (R132). -/
def execVor (t : TenRef) (w : BitVec 56) (s : State) : Host.Outcome State Fault Refusal :=
  .next (vecOp t w true false false 0 [0xC, 0xD, 0xE, 0xF] (fun _ _ a b _ => (a ||| b, false)) s)

/-- VXOR (R132). -/
def execVxor (t : TenRef) (w : BitVec 56) (s : State) : Host.Outcome State Fault Refusal :=
  .next (vecOp t w true false false 0 [0xC, 0xD, 0xE, 0xF] (fun _ _ a b _ => (a ^^^ b, false)) s)

/-- VSHL (R132). -/
def execVshl (t : TenRef) (w : BitVec 56) (s : State) : Host.Outcome State Fault Refusal :=
  .next (vecOp t w true false false 0 [0xF] (fun _ _ a b _ => (a <<< (b.toNat % 32), false)) s)

/-- VSHR (R132). -/
def execVshr (t : TenRef) (w : BitVec 56) (s : State) : Host.Outcome State Fault Refusal :=
  .next (vecOp t w true false false 0 [0xF] (fun _ _ a b _ => (a >>> (b.toNat % 32), false)) s)

/-- VSRA (R132). -/
def execVsra (t : TenRef) (w : BitVec 56) (s : State) : Host.Outcome State Fault Refusal :=
  .next (vecOp t w true false false 0 [0xF] (fun _ _ a b _ => (a.sshiftRight (b.toNat % 32), false)) s)

/-- VSGN (R132): field B is used by FN 2 alone. -/
def execVsgn (t : TenRef) (w : BitVec 56) (s : State) : Host.Outcome State Fault Refusal :=
  .next (vecOp t w (decide ((coreWord w).fn = 2)) false true 2 [0xC] (fun _ fn a b _ => (laneSgn fn a b, false)) s)

/-- VFUNC (R132, R88). -/
def execVfunc (t : TenRef) (w : BitVec 56) (s : State) : Host.Outcome State Fault Refusal :=
  .next (vecOp t w false false true 4 [0xC] (fun _ fn a _ _ => (laneFunc fn a, false)) s)

/-- VCMP (R132): P[D], zero for inactive lanes. -/
def execVcmp (t : TenRef) (w : BitVec 56) (s : State) : Host.Outcome State Fault Refusal :=
  let f := coreWord w
  .next (issueTen t [(true, f.a), (true, f.b)]
    (decide (f.d < 8) && decide (f.c = 0) && decide (f.fn ≤ 7) && modZero f 20 27 && decide (f.imm16 = 0))
    (fun x =>
      if !isLaneTy (laneTy f) || (decide (6 ≤ f.fn) && decide (laneTy f ≠ 0xF)) then .fault 0x21
      else
        let bits := ((activeLanes x f.pred).filter (fun l => laneCmp (laneTy f) f.fn (vGet x f.a l) (vGet x f.b l))).map (2 ^ ·)
        .done (pSet x f.d (BitVec.ofNat 64 bits.sum)).next false) s)

/-! ### Conversion (R133) -/

/-- A source lane's exact value and whether reading it sets FGX_OVF. -/
def cvtRead (src g : Nat) (a : W32) : Fv × Bool :=
  if src = 0xC then (ofF32 a, false)
  else if src = 0xF then (fvOf false a.toInt 0, false)
  else ofFgx g (laneInt src a)

/-- Whether the pair of source and target is one of R133's. -/
def cvtPair (src dst : Nat) : Bool :=
  (src == 0xC && (dst == 0xF || dst == 0xD || dst == 0xE)) || (src == 0xF && dst == 0xC)
    || ((src == 0xD || src == 0xE) && (dst == 0xC || dst == 0xD || dst == 0xE))

/-- Whether a pair uses the source grid, and the target grid. FGX-32 to FGX-24 with both grids, and FGX to FGX, use
both; on equal grids the conversion is exact (R90). -/
def cvtUsesG (src : Nat) : Bool := src == 0xD || src == 0xE
def cvtUsesG' (dst : Nat) : Bool := dst == 0xD || dst == 0xE

/-- A converted lane (R90). -/
def cvtLane (src dst g g' : Nat) (sat rtz : Bool) (a : W32) : W32 × Bool :=
  let (v, o) := cvtRead src g a
  if dst = 0xC then (BitVec.ofNat 32 (encodeFp fmtFP32 sat v), o)
  else if dst = 0xF then (toInt32 rtz v, o)
  else
    let (i, o') := toFgx (fgxBits dst) g' v
    (BitVec.ofInt 32 i, o || o')

/-- VCVT (R133): MOD[27:26] are zero. -/
def execVcvt (t : TenRef) (w : BitVec 56) (s : State) : Host.Outcome State Fault Refusal :=
  let f := coreWord w
  let src := laneTy f
  let dst := modFld f 20 4
  let g := fld f.imm16 0 8
  let g' := fld f.imm16 8 8
  .next (issueTen t [(true, f.d), (true, f.a)]
    (decide (f.b = 0) && decide (f.c = 0) && decide (f.fn = 0) && modZero f 26 27)
    (fun x =>
      if !isLaneTy src || !cvtPair src dst || (modBit f 25 && !(src == 0xC && dst == 0xF))
          || (!cvtUsesG src && decide (g ≠ 0)) || (!cvtUsesG' dst && decide (g' ≠ 0)) then .fault 0x21
      else vWrite x f (fun l => cvtLane src dst g g' (modBit f 24) (modBit f 25) (vGet x f.a l))) s)

/-! ### Reduction (R87, R134) -/

/-- One level of the tree: the first `n` lanes combined with the next `n`. -/
def redLevel (op : W32 → W32 → W32 × Bool) (n : Nat) (v : List W32) (ovf : Bool) : List W32 × Bool :=
  let r := (List.range n).map (fun i => op (v.getD i 0) (v.getD (i + n) 0))
  (r.map (·.1), ovf || r.any (·.2))

/-- The canonical lane reduction. -/
def redTree (op : W32 → W32 → W32 × Bool) (v : List W32) : W32 × Bool :=
  let r := [32, 16, 8, 4, 2, 1].foldl (fun (a : List W32 × Bool) n => redLevel op n a.1 a.2) (v, false)
  (r.1.getD 0 0, r.2)

/-- The value an inactive lane enters with. -/
def redIdle (ty fn : Nat) : W32 :=
  if ty = 0xC then (match fn with | 0 => 0x80000000 | 1 => 0x7F800000 | _ => 0xFF800000)
  else
    let top : Int := (2 ^ (fgxBits ty - 1) : Nat)
    match fn with
    | 0 => 0
    | 1 => BitVec.ofInt 32 (top - 1)
    | _ => BitVec.ofInt 32 (-top)

/-- A combining step by operation and type. -/
def redOp (ty fn : Nat) (a b : W32) : W32 × Bool :=
  match fn with
  | 0 => laneAdd ty a b
  | 1 => laneMin ty a b
  | _ => laneMax ty a b

/-- VRED (R134): every lane of V[D] receives the result. An FN above 2 is improper (R123; DESIGN CHOICE, notes/assumptions/14.md). -/
def execVred (t : TenRef) (w : BitVec 56) (s : State) : Host.Outcome State Fault Refusal :=
  let f := coreWord w
  .next (issueTen t [(true, f.d), (true, f.a)]
    (decide (f.b = 0) && decide (f.c = 0) && decide (f.fn ≤ 2) && modZero f 20 27 && decide (f.imm16 = 0))
    (fun x =>
      let ty := laneTy f
      if !isLaneTy ty then .fault 0x21
      else
        let r := redTree (redOp ty f.fn) ((List.range 64).map (fun l =>
          if laneOn x f.pred l then (if ty = 0xE then BitVec.ofInt 32 (laneInt ty (vGet x f.a l)) else vGet x f.a l)
          else redIdle ty f.fn))
        .done (vLanes x f.d (fun _ => r.1) (List.range 64)).next r.2) s)

/-! ### Moves between lanes and registers (R132) -/

/-- VBCAST (R132): A names an X register. -/
def execVbcast (t : TenRef) (w : BitVec 56) (s : State) : Host.Outcome State Fault Refusal :=
  let f := coreWord w
  .next (issueTen t [(true, f.d), (false, f.a)]
    (decide (f.b = 0) && decide (f.c = 0) && decide (f.fn = 0) && modZero f 20 27 && decide (f.imm16 = 0))
    (fun x => if !isLaneTy (laneTy f) then .fault 0x21 else vWrite x f (fun _ => ((xGet x f.a).setWidth 32, false))) s)

/-- VEXT (R132): D names an X register. -/
def execVext (t : TenRef) (w : BitVec 56) (s : State) : Host.Outcome State Fault Refusal :=
  let f := coreWord w
  .next (issueTen t [(false, f.d), (true, f.a)]
    (decide (f.b = 0) && decide (f.c = 0) && decide (f.pred = 0) && decide (f.fn = 0) && modZero f 20 27 && decide (f.imm16 < 64))
    (fun x => if !isLaneTy (laneTy f) then .fault 0x21
      else .done (xSet x f.d ((vGet x f.a f.imm16).setWidth 64)).next false) s)

/-- VINS (R132): A names an X register. -/
def execVins (t : TenRef) (w : BitVec 56) (s : State) : Host.Outcome State Fault Refusal :=
  let f := coreWord w
  .next (issueTen t [(true, f.d), (false, f.a)]
    (decide (f.b = 0) && decide (f.c = 0) && decide (f.pred = 0) && decide (f.fn = 0) && modZero f 20 27 && decide (f.imm16 < 64))
    (fun x => if !isLaneTy (laneTy f) then .fault 0x21
      else .done (vPut x f.d f.imm16 ((xGet x f.a).setWidth 32)).next false) s)

/-- VPERM (R132): lane l receives lane B[l] mod 64 of A. -/
def execVperm (t : TenRef) (w : BitVec 56) (s : State) : Host.Outcome State Fault Refusal :=
  let f := coreWord w
  .next (issueTen t (vRegs f true false)
    (decide (f.c = 0) && decide (f.fn = 0) && modZero f 20 27 && decide (f.imm16 = 0))
    (fun x => if !isLaneTy (laneTy f) then .fault 0x21
      else vWrite x f (fun l => (vGet x f.a ((vGet x f.b l).toNat % 64), false))) s)

/-- VIOTA (R132): lane l receives l. -/
def execViota (t : TenRef) (w : BitVec 56) (s : State) : Host.Outcome State Fault Refusal :=
  let f := coreWord w
  .next (issueTen t [(true, f.d)]
    (decide (f.a = 0) && decide (f.b = 0) && decide (f.c = 0) && decide (f.fn = 0) && modZero f 20 27 && decide (f.imm16 = 0))
    (fun x => if laneTy f ≠ 0xF then .fault 0x21 else vWrite x f (fun l => (BitVec.ofNat 32 l, false))) s)

/-! ### Window moves (R135, R136) -/

/-- VLD (R135): only active lanes are written. -/
def execVld (t : TenRef) (w : BitVec 56) (e : EccSeen) (s : State) : Host.Outcome State Fault Refusal :=
  let f := coreWord w
  .next (issueRead t [(true, f.d), (false, f.a)]
    (decide (f.b = 0) && decide (f.c = 0) && decide (f.fn = 0) && decide (f.mod = 0))
    e (fun x =>
      let off := xGet x f.a + sext16 f.imm16
      match winCheck x off 4 256 with
      | some cause => .fault cause
      | none => vWrite x f (fun l => (BitVec.ofNat 32 (ofLE (winRead x (off.toNat + 4 * l) 4)), false))) s)

/-- VST (R135): only the bytes of active lanes are written. -/
def execVst (t : TenRef) (w : BitVec 56) (s : State) : Host.Outcome State Fault Refusal :=
  let f := coreWord w
  .next (issueTen t [(true, f.b), (false, f.a)]
    (decide (f.d = 0) && decide (f.c = 0) && decide (f.fn = 0) && decide (f.mod = 0))
    (fun x =>
      let off := xGet x f.a + sext16 f.imm16
      match winCheck x off 4 256 with
      | some cause => .fault cause
      | none => .done ((activeLanes x f.pred).foldl (fun y l =>
          winWrite y (off.toNat + 4 * l) (leBytes 4 (vGet x f.b l).toNat)) x).next false) s)

/-- Whether VLDC and VSTC accept a format (R136). -/
def ldcFmt (c : Nat) : Bool := decide (c ≤ 0xB) || c == 0xE

/-- The checks that VLDC and VSTC share (R136): the fault, or the element offset and the scale offset. -/
def ldcCheck (x : Ten) (f : CoreWord) : Except Nat (Nat × Nat) :=
  let c := modFld f 24 4
  let off := xGet x f.a + sext16 f.imm16
  if !ldcFmt c then .error 0x21
  else match winCheck x off 4 (8 * codeBits c) with
    | some cause => .error cause
    | none =>
      let so := (xGet x f.b).toNat
      if scaled c && !winIn x so 2 then .error 0x24 else .ok (off.toNat, so)

/-- Whether a VLDC or VSTC word is proper: field B is used by block-scaled formats alone. -/
def ldcOk (f : CoreWord) : Bool :=
  decide (f.pred = 0) && decide (f.c = 0) && decide (f.fn = 0) && modZero f 16 22
    && (scaled (modFld f 24 4) || !ldcFmt (modFld f 24 4) || decide (f.b = 0))

/-- VLDC (R136). -/
def execVldc (t : TenRef) (w : BitVec 56) (s : State) : Host.Outcome State Fault Refusal :=
  let f := coreWord w
  let c := modFld f 24 4
  .next (issueTen t [(true, f.d), (false, f.a), (false, f.b)] (ldcOk f)
    (fun x => match ldcCheck x f with
      | .error cause => .fault cause
      | .ok (off, so) =>
        .done (vLanes x f.d (fun l =>
          let e := elemAt (winByte x) off (codeBits c) l
          if c = 0xE then BitVec.ofInt 32 (sgn 24 e)
          else
            let v := decodeElem c e
            let v := if scaled c then fvScale (winByte x (so + l / 32)).toNat v else v
            BitVec.ofNat 32 (encodeFp fmtFP32 (modBit f 23) v)) (List.range 64)).next false) s)

/-- VSTC (R136). -/
def execVstc (t : TenRef) (w : BitVec 56) (s : State) : Host.Outcome State Fault Refusal :=
  let f := coreWord w
  let c := modFld f 24 4
  .next (issueTen t [(true, f.d), (false, f.a), (false, f.b)] (ldcOk f)
    (fun x => match ldcCheck x f with
      | .error cause => .fault cause
      | .ok (off, so) =>
        let lanes := (List.range 64).map (vGet x f.d)
        if scaled c then
          let q0 := quantBlock c (lanes.take 32)
          let q1 := quantBlock c (lanes.drop 32)
          let y := winWrite x off (packElems (codeBits c) (q0.2 ++ q1.2))
          .done (winWrite y so (leBytes 1 q0.1 ++ leBytes 1 q1.1)).next false
        else
          let code (v : W32) : Nat := match fmtOf c with
            | some m => encodeFp m (modBit f 23) (ofF32 v)
            | none => v.toNat
          .done (winWrite x off (packElems (codeBits c) (lanes.map code))).next false) s)

/-! ### Predicates (R137) -/

/-- The X register that PLOG reads or writes (R137). -/
def plogRegs (f : CoreWord) : List Reg := if f.fn = 5 then [(false, f.a)] else if f.fn = 6 then [(false, f.d)] else []

/-- PLOG (R137). An FN above 6 is improper, and so is a B that is not zero where FN is 4 to 6 and does not use it (R123; DESIGN CHOICE,
notes/assumptions/14.md). -/
def execPlog (t : TenRef) (w : BitVec 56) (s : State) : Host.Outcome State Fault Refusal :=
  let f := coreWord w
  .next (issueTen t (plogRegs f)
    (decide (f.fn ≤ 6) && decide (f.c = 0) && decide (f.pred = 0) && decide (f.mod = 0) && decide (f.imm16 = 0)
      && (if f.fn ≤ 3 then decide (f.b < 8) else decide (f.b = 0))
      && (f.fn == 5 || decide (f.a < 8)) && (f.fn == 6 || decide (f.d < 8)))
    (fun x =>
      let a := pGet x f.a
      let b := pGet x f.b
      match f.fn with
      | 0 => .done (pSet x f.d (a &&& b)).next false
      | 1 => .done (pSet x f.d (a ||| b)).next false
      | 2 => .done (pSet x f.d (a ^^^ b)).next false
      | 3 => .done (pSet x f.d (a &&& ~~~b)).next false
      | 4 => .done (pSet x f.d (~~~a)).next false
      | 5 => .done (pSet x f.d (xGet x f.a)).next false
      | _ => .done (xSet x f.d a).next false) s)

end Sys2Proof.Machine
end

