-- ==== Sys2Proof/Machine/Tensor.lean ====
section
/-! DEFINITION. The tensor and accumulator instructions (spec/05 R138-R141) over the arithmetic of spec/03 R77-R80. -/
namespace Sys2Proof.Machine

/-- Whether two format codes may be paired (R77). -/
def tmmaPair (a b : Nat) : Bool :=
  (decide (a ≤ 9) && decide (b ≤ 9)) || ((a == 0xA || a == 0xB) && (b == 0xA || b == 0xB))

/-- The scale byte of a row's block, 0x7F for a format that has none. -/
def tileScale (x : Ten) (t : TileAddr) (fmt r b : Nat) : Nat :=
  if scaled fmt then (winByte x (blockByteAt t fmt r b)).toNat else 0x7F

/-- The exact value of element `k` of a tile's row. -/
def tileElem (x : Ten) (t : TileAddr) (fmt r k : Nat) : Fv :=
  decodeElem fmt (elemAt (winByte x) (t.base + r * t.stride) (codeBits fmt) k)

/-- One block result added to an element of a bank by its mode (R79, R80). -/
def bankAdd (x : Ten) (bank r c : Nat) (blk : Fv) : Ten × Bool :=
  if bankFgx x bank then
    let (v, o) := accFgx (accGet x bank r c) (gridOf x bank r c) blk
    (accPut x bank r c v, o)
  else (accPut x bank r c (accFp32 (accGet x bank r c) blk), false)

/-- The products of one element and one K-block, positions past K left out (R78). -/
def tmmaBlock (x : Ten) (ta tb : TileAddr) (fa fb k kb r c : Nat) : Fv :=
  let ks := (List.range 32).filter (fun i => decide (32 * kb + i < k))
  blockResult (ks.map (fun i => (tileElem x ta fa r (32 * kb + i), tileElem x tb fb c (32 * kb + i))))
    (tileScale x ta fa r kb) (tileScale x tb fb c kb)

/-- TMMA's loops (R139): K-blocks ascending, then rows, then columns. -/
def tmmaRun (x : Ten) (ta tb : TileAddr) (fa fb k m n bank : Nat) : Ten × Bool :=
  (List.range (ceilDiv k 32)).foldl (fun (acc : Ten × Bool) kb =>
    (List.range m).foldl (fun acc r =>
      (List.range n).foldl (fun acc c =>
        let y := bankAdd acc.1 bank r c (tmmaBlock x ta tb fa fb k kb r c)
        (y.1, acc.2 || y.2)) acc) acc) (x, false)

/-- TMMA (R139). The checks run in the order of the codes of R125. -/
def execTmma (t : TenRef) (w : BitVec 56) (e : EccSeen) (s : State) : Host.Outcome State Fault Refusal :=
  let f := coreWord w
  let fa := modFld f 24 4
  let fb := modFld f 20 4
  .next (issueRead t [(false, f.a), (false, f.b), (false, f.c)]
    (decide (f.d < 4) && decide (f.pred = 0) && decide (f.fn = 0) && modZero f 16 19 && decide (f.imm16 = 0))
    e (fun x =>
      if !tmmaPair fa fb then .fault 0x21
      else match tileAddr (xGet x f.a), tileAddr (xGet x f.b), tileShape (xGet x f.c) true with
        | some ta, some tb, some (k, m, n) =>
          if x.foot ≤ f.d then .fault 0x23
          else if !tileAligned ta fa || !tileAligned tb fb then .fault 0x25
          else
            let kb := ceilDiv k 32
            if !rowsIn x ta m (kb * blockBytes fa) || !rowsIn x tb n (kb * blockBytes fb)
                || (scaled fa && !scalesIn x ta fa m kb) || (scaled fb && !scalesIn x tb fb n kb) then .fault 0x24
            else
              let r := tmmaRun x ta tb fa fb k m n f.d
              .done r.1.next r.2
        | _, _, _ => .fault 0x22) s)

/-! ### Accumulator instructions (R140) -/

/-- ACLR (R140). -/
def execAclr (t : TenRef) (w : BitVec 56) (s : State) : Host.Outcome State Fault Refusal :=
  let f := coreWord w
  let loadg := modBit f 17
  .next (issueTen t [(false, f.a)]
    (decide (f.d < 4) && decide (f.b = 0) && decide (f.c = 0) && decide (f.pred = 0) && decide (f.fn = 0)
      && modZero f 18 27 && decide (f.imm16 = 0) && (loadg || decide (f.a = 0)))
    (fun x =>
      if x.foot ≤ f.d then .fault 0x23
      else
        let off := fld (xGet x f.a).toNat 0 19
        if loadg && !winIn x off 128 then .fault 0x24
        else
          let y := bankClear x f.d (modBit f 16)
          .done (gridPut y f.d (if loadg then winRead x off 128 else List.replicate 128 0x7F)).next false) s)

/-- ALD (R140): ACLR with grid bytes from SBASE, then raw words into the elements of the shape. -/
def execAld (t : TenRef) (w : BitVec 56) (s : State) : Host.Outcome State Fault Refusal :=
  let f := coreWord w
  let loadg := modBit f 17
  .next (issueTen t [(false, f.a), (false, f.c)]
    (decide (f.d < 4) && decide (f.b = 0) && decide (f.pred = 0) && decide (f.fn = 0)
      && modZero f 18 27 && decide (f.imm16 = 0))
    (fun x => match tileAddr (xGet x f.a), tileShape (xGet x f.c) false with
      | some ta, some (_, m, n) =>
        if x.foot ≤ f.d then .fault 0x23
        else if ta.base % 8 ≠ 0 ∨ ta.stride % 4 ≠ 0 then .fault 0x25
        else if !rowsIn x ta m (4 * n) || (loadg && !winIn x ta.sbase 128) then .fault 0x24
        else
          let y := bankClear x f.d (modBit f 16)
          let y := gridPut y f.d (if loadg then winRead x ta.sbase 128 else List.replicate 128 0x7F)
          -- a block written on grid 0xFF holds 0, and FGX_OVF is set (R76)
          let bad (r c : Nat) : Bool := modBit f 16 && gridOf y f.d r c == 0xFF
          .done ((List.range m).foldl (fun z r => (List.range n).foldl (fun z c =>
            accPut z f.d r c (if bad r c then 0 else BitVec.ofNat 32 (ofLE (winRead x (ta.base + r * ta.stride + 4 * c) 4)))) z) y).next
            ((List.range m).any (fun r => (List.range n).any (bad r)))
      | _, _ => .fault 0x22) s)

/-! ### Drain (R141) -/

/-- Whether a bank's mode accepts a target. -/
def drainTarget (fgx : Bool) (dst : Nat) : Bool :=
  if fgx then [0, 1, 0xA, 0xB, 0xC, 0xD, 0xE].contains dst else true

/-- Whether a target writes block bytes; from an FP32 bank it takes whole blocks of columns (R141). -/
def drainBlocks (dst : Nat) : Bool := scaled dst || dst == 0xD || dst == 0xE

/-- A row drained: its element codes, its block bytes, and whether FGX_OVF is set. -/
def drainRow (x : Ten) (bank r n dst : Nat) (sat rtz : Bool) : List Nat × List Nat × Bool :=
  let cols := List.range n
  let g (c : Nat) : Nat := gridOf x bank r c
  let e (c : Nat) : W32 := accGet x bank r c
  if bankFgx x bank then
    let blocks := (List.range (ceilDiv n 32)).map (fun b => g (32 * b))
    -- a raw copy of an element on grid 0xFF is a read of that grid: 0, with FGX_OVF (R76)
    if dst = 0xD then
      (cols.map (fun c => if g c = 0xFF then 0 else (e c).toNat), blocks, cols.any (fun c => g c == 0xFF))
    else if dst = 0xE then
      let v := cols.map (fun c => fgxToFgx 24 (g c) (g c) (e c).toInt)
      (v.map (fun y => lowBits 24 y.1), blocks, v.any (·.2))
    else
      let v := cols.map (fun c => ofFgx (g c) (e c).toInt)
      (v.map (fun y => match fmtOf dst with | some m => encodeFp m sat y.1 | none => 0), [], v.any (·.2))
  else if scaled dst then
    let q := (List.range (n / 32)).map (fun b => quantBlock dst ((List.range 32).map (fun i => e (32 * b + i))))
    (q.flatMap (·.2), q.map (·.1), false)
  else if dst = 0xC then (cols.map (fun c => (e c).toNat), [], false)
  else if dst = 0xD ∨ dst = 0xE then
    let bits := fgxBits dst
    let v := cols.map (fun c => toFgx bits (g c) (ofF32 (e c)))
    (v.map (fun y => lowBits bits y.1), (List.range (n / 32)).map (fun b => g (32 * b)), v.any (·.2))
  else if dst = 0xF then (cols.map (fun c => (toInt32 rtz (ofF32 (e c))).toNat), [], false)
  else (cols.map (fun c => match fmtOf dst with | some m => encodeFp m sat (ofF32 (e c)) | none => 0), [], false)

/-- ADRAIN (R140, R141): the bank is checked first, since its mode decides which targets it accepts. -/
def execAdrain (t : TenRef) (w : BitVec 56) (s : State) : Host.Outcome State Fault Refusal :=
  let f := coreWord w
  let dst := modFld f 24 4
  let sat := modBit f 23
  let rtz := modBit f 22
  .next (issueTen t [(false, f.a), (false, f.c)]
    (decide (f.d < 4) && decide (f.b = 0) && decide (f.pred = 0) && decide (f.fn = 0) && modZero f 16 20 && decide (f.imm16 = 0))
    (fun x =>
      if x.foot ≤ f.d then .fault 0x23
      else if !drainTarget (bankFgx x f.d) dst || (rtz && decide (dst ≠ 0xF)) then .fault 0x21
      else match tileAddr (xGet x f.a), tileShape (xGet x f.c) false with
        | some ta, some (_, m, n) =>
          if !bankFgx x f.d && drainBlocks dst && decide (n ≠ 32) && decide (n ≠ 64) then .fault 0x22
          else if !tileAligned ta dst then .fault 0x25
          else if !rowsIn x ta m ((n * codeBits dst + 7) / 8) || (drainBlocks dst && !scalesIn x ta dst m (ceilDiv n 32)) then .fault 0x24
          else
            let r := (List.range m).foldl (fun (acc : Ten × Bool) r =>
              let (codes, blocks, o) := drainRow x f.d r n dst sat rtz
              let y := winWrite acc.1 (ta.base + r * ta.stride) (packElems (codeBits dst) codes)
              let y := winWrite y (blockByteAt ta dst r 0) (blocks.map (BitVec.ofNat 8 ·))
              (y, acc.2 || o)) (x, false)
            .done (if modBit f 21 then bankClear r.1 f.d (bankFgx x f.d) else r.1).next r.2
        | _, _ => .fault 0x22) s)

end Sys2Proof.Machine
end

