-- ==== Sys2Proof/Machine/KernelEnd.lean ====
section
/-! DEFINITION. The end of a kernel (spec/05 R130, spec/04 R103, spec/07 R204, spec/11 R316): when END's waits are over,
and what the end does. The messages between modules whose encoding the spec does not give are the messages below
(notes/assumptions/22.md). -/
namespace Sys2Proof.Machine

/-- Messages between modules that the spec names and gives no packet for. Their numbers lie above every value of the OPCODE
field (R156), so no packet of R159 is one of them and none of its undefined opcodes is produced (R5). -/
def opDispatch : Nat := 0x1F8
def opKernelEnd : Nat := 0x1F9
def opRunTable : Nat := 0x1FA
def opOwnRecord : Nat := 0x1FB
def opLastRank : Nat := 0x1FC
def opRunDone : Nat := 0x1FD
def opEventRead : Nat := 0x1FE

/-- A kernel end as a packet: run and group in word 4, incarnation in word 5, the overflow mark in word 6, the LCID
in word 7. -/
def kernelEndPkt (x : Ten) : Pkt :=
  { opcode := opKernelEnd, ctx := x.ctx, gen := x.cgen.setWidth 8, w4 := BitVec.ofNat 32 (x.run + x.grp * 2 ^ 16),
    w5 := BitVec.ofNat 32 x.incarn, w6 := BitVec.ofNat 32 (b2n x.kovf), w7 := BitVec.ofNat 32 x.lcid }

/-- The kernel of a tenancy ends: its run is told, the core counts it, and the tenancy stays or is released (R130). -/
def kernelEnd (s : State) (t : TenRef) (release : Bool) : State :=
  match findTen s t with
  | none => s
  | some x =>
    let c := getCore s x.core
    let s := setCore s x.core { c with sinceMatch := c.sinceMatch + 1 }
    let s := match x.remote with
      | none => { s with seq := { s.seq with ends := s.seq.ends ++ [{ run := x.run, incarn := x.incarn, grp := x.grp, ovf := x.kovf, lcid := x.lcid }] } }
      | some m => sendForCtx s x.ctx m x.core m (kernelEndPkt x)
    if release then dropTen s t
    else setTen s { x with running := false, wait := .none, kovf := false, sample := none }

/-- END's next part (R130, R316): its waits, then the held end of a sampled kernel, then the end. The values of remote loads
return first, so that none lands in the registers of a later kernel (DEDUCED from R101, notes/assumptions/14.md). -/
def endStep (s : State) (t : TenRef) (release : Bool) : State :=
  match findTen s t with
  | none => s
  | some x =>
    if x.xf.any (fun f => f.valid) || postedPending s t || loadPending s t then setTen s { x with wait := .ending release }
    else if x.sample.isSome then setTen s { x with wait := .held release }
    else kernelEnd s t release

/-- A tenancy that waits in END is looked at again. -/
def endCheck (s : State) (t : TenRef) : State :=
  match findTen s t with
  | none => s
  | some x => match x.wait, x.loc with
    | .ending r, .resident _ => endStep s t r
    | _, _ => s

end Sys2Proof.Machine
end

