-- ==== Sys2Proof/Machine/Transfer.lean ====
section
/-! DEFINITION. Transfers (spec/04 R116-R119, spec/05 R142-R147): the descriptor, the address of an element, one element
moved with the checks it meets, and XFER, XWAIT, XPROG, TRANSFER_DONE and TRANSFER_FAULT. -/
namespace Sys2Proof.Machine

/-! ### Descriptors (R143) -/

/-- The descriptor at a window offset; window bases keep bits [18:0]. -/
def readDesc (x : Ten) (off : Nat) : Desc :=
  let l := winRead x off 160
  let w0 := numAt l 0 4
  let i64 (o : Nat) : Int := sgn 64 (numAt l o 8)
  let base (kind o : Nat) : W64 := BitVec.ofNat 64 (if kind = 0 then numAt l o 8 else numAt l o 8 % 2 ^ 19)
  { srcKind := fld w0 0 2, dstKind := fld w0 2 2, esize := fld w0 4 3, gather := bitAt w0 7, listOff := numAt l 4 4,
    srcAddr := base (fld w0 0 2) 8, dstAddr := base (fld w0 2 2) 16,
    srcLcid := numAt l 0x18 4 % 2 ^ 24, dstLcid := numAt l 0x1C 4 % 2 ^ 24,
    size := (List.range 5).map (fun i => numAt l (0x20 + 4 * i) 4),
    sst := (List.range 5).map (fun i => i64 (0x40 + 8 * i)), dst := (List.range 5).map (fun i => i64 (0x68 + 8 * i)) }

/-- The CRC-32C of a descriptor (R117). -/
def descCrc (x : Ten) (off : Nat) : W32 := crc32c (winRead x off 160)

/-- TOTAL (R116). -/
def descTotal (d : Desc) : Nat := d.size.foldl (· * ·) 1

/-- The indices of an element, dimension 0 first (R144). -/
def elemIdx (d : Desc) (e : Nat) : List Nat :=
  (d.size.foldl (fun (acc : List Nat × Nat) n => (acc.1 ++ [acc.2 % n], acc.2 / n)) ([], e)).1

/-- The gather entry of an outer index as the list holds it now. -/
def gatherAt (x : Ten) (d : Desc) (i4 : Nat) : Nat := ofLE (winRead x (d.listOff + 8 * i4) 8)

/-- The base of the source for an outer index: SRC_ADDR, or the gather entry, which the cursor read when it entered the index
(R144, R145). -/
def srcBase (x : Ten) (f : Xfer) (i4 : Nat) : Int :=
  if f.desc.gather then
    (match f.gat with
     | some (i, a) => if i = i4 then (a : Int) else (gatherAt x f.desc i4 : Int)
     | none => (gatherAt x f.desc i4 : Int))
  else (f.desc.srcAddr.toNat : Int)

/-- Sum of index times stride. -/
def strideSum (idx : List Nat) (st : List Int) : Int := ((idx.zip st).map (fun e => (e.1 : Int) * e.2)).foldl (· + ·) 0

/-- Source and destination address of element `e` (R144). -/
def srcAddrOf (x : Ten) (f : Xfer) (e : Nat) : Int :=
  let d := f.desc
  let idx := elemIdx d e
  srcBase x f (idx.getD 4 0) + strideSum (if d.gather then idx.take 4 else idx) d.sst
def dstAddrOf (d : Desc) (e : Nat) : Int := (d.dstAddr.toNat : Int) + strideSum (elemIdx d e) d.dst

/-- Lowest and highest byte that strides reach from a base (R144 check 5). -/
def spanOf (base : Int) (size : List Nat) (st : List Int) (es : Nat) : Int × Int :=
  let t := (size.zip st).map (fun e => ((e.1 : Int) - 1) * e.2)
  (base + (t.map (fun v => min 0 v)).foldl (· + ·) 0, base + (t.map (fun v => max 0 v)).foldl (· + ·) 0 + es - 1)

/-- The extent of a side from its base. -/
def sideSpan (x : Ten) (f : Xfer) (src : Bool) (i4 : Nat) : Int × Int :=
  let d := f.desc
  if src then
    (if d.gather then spanOf (srcBase x f i4) (d.size.take 4) d.sst (2 ^ d.esize)
     else spanOf d.srcAddr.toNat d.size d.sst (2 ^ d.esize))
  else spanOf d.dstAddr.toNat d.size d.dst (2 ^ d.esize)

/-! ### Slots (R116, R142) -/

/-- The slot index that holds a transfer with a descriptor offset. -/
def slotOfDesc (x : Ten) (off : Nat) : Option Nat :=
  (List.range 4).find? (fun i => match x.xf[i]? with | some f => f.valid && f.descOff == off | none => false)

/-- The transfer with a descriptor offset. -/
def xferOf (x : Ten) (off : Nat) : Option Xfer := x.xf.find? (fun f => f.valid && f.descOff == off)

/-- The first free slot. -/
def freeXfer (x : Ten) : Option Nat :=
  (List.range 4).find? (fun i => match x.xf[i]? with | some g => !g.valid | none => false)

/-- A slot replaced by descriptor offset; a transfer whose DONE has reached TOTAL leaves it. -/
def setXfer (x : Ten) (f : Xfer) : Ten :=
  { x with xf := x.xf.map (fun g => if g.valid && g.descOff == f.descOff then (if f.doneEl = f.total then {} else f) else g) }

/-- The state with a slot of a tenancy changed. -/
def updXfer (s : State) (t : TenRef) (off : Nat) (g : Xfer → Xfer) : State :=
  match findTen s t with
  | none => s
  | some x => match xferOf x off with
    | none => s
    | some f => setTen s (setXfer x (g f))

/-! ### Where a logical core's window is (spec/02 R37, R53, R115) -/

/-- What stands behind an (LCID, context) of the tenancy's partition. -/
inductive WinPlace where
  | here (t : Ten)
  | far (mid : Nat)
  | hold
  | noTenancy
  | range
deriving DecidableEq, Repr

/-- The place of a window: another module, a tenancy here, one that a save, restore or move makes wait, or none. -/
def winPlace (s : State) (x : Ten) (lcid : Nat) : WinPlace :=
  match hostOf (getSlot s x.slot) lcid with
  | none => .range
  | some m =>
    if m ≠ ownModule s then (if flushHeld s x.slot lcid then .hold else .far m)
    else if (movingOf s x.slot lcid).isSome then .hold
    else match findTen s ⟨lcid, x.ctx⟩ with
      | none => .noTenancy
      | some y => match y.loc with
        | .saving _ => .hold
        | .restoring _ => .hold
        | _ => .here y

/-! ### One element (R117, R119) -/

/-- One side of an element. -/
inductive Side where
  | win (t : TenRef) (off : Nat)
  | mem (a edom : Nat)
  | farWin (mid lcid off : Nat)
  | farMem (mid fpa edom cls : Nat)
  | fault (cause : Nat) (va : W64) (detail : Option Nat)
  | lose (cause : Nat) (va : W64)
  | lost
  | hold
deriving DecidableEq, Repr

/-- The FPA of the first granule of [lo, hi] that memory refuses to a transfer, through entry `e` (R119). Addresses on
another module are tested there. -/
def refusedIn (s : State) (kind : ReqKind) (ctx : Nat) (e : Range) (lo hi : Nat) : Option Nat :=
  if rangeFpa e lo / 2 ^ 42 ≠ ownModule s then none
  else
    let locs : List Nat :=
      if e.ilv = 0 then (gransOf (rangeFpa e lo % 2 ^ 42) (hi + 1 - lo)).map granBase
      else (pieces lo (hi + 1 - lo)).map (fun p => rangeFpa e p.1 % 2 ^ 42)
    (locs.find? (fun a => decide (spanGate s kind ctx (pidOfCtx s ctx) e.edom a 1 ≠ .allow))).map
      (fun a => fpaOf s (max a (if e.ilv = 0 then rangeFpa e lo % 2 ^ 42 else a)))

/-- A memory side at a virtual address: translation, permission, and, on entering a range, ownership of all of the extent
that lies in it. -/
def memSide (s : State) (x : Ten) (f : Xfer) (src : Bool) (va : Int) (i4 : Nat) : Side × State :=
  let kind : ReqKind := if src then .read else .write
  let a := lowBits 64 va
  let ad := BitVec.ofNat 64 a
  match translate s (some (sheafOfCore x.core, some x.core)) x.ctx a with
  | (.miss, _, s) => (.fault 0x01 ad none, s)
  | (.window, _, s) => (.fault 0x04 ad none, s)
  | (.revoked, _, s) => (.lose 0x05 ad, s)
  | (.table, _, s) => (.lost, s)
  | (.hit e, v, s) =>
    if !rangeAllows e kind then (.fault 0x02 ad none, s)
    else
      let (lo, hi) := sideSpan x f src i4
      let entered := if src then f.inSrc else f.inDst
      -- the extent in the entry's own addresses: an Eotha conversion shifts both ends alike
      let sh : Int := (v : Int) - a
      let lo := max (lo + sh).toNat e.va
      let hi := min (hi + sh).toNat (rangeEnd e - 1)
      let bad := if entered = some e.va then none else refusedIn s kind x.ctx e lo hi
      match bad with
      | some fpa => (.fault 0x03 ad (some fpa), s)
      | none =>
        let fpa := rangeFpa e v
        if fpa / 2 ^ 42 = ownModule s then (.mem (fpa % 2 ^ 42) e.edom, s)
        else (.farMem (fpa / 2 ^ 42) fpa e.edom (min x.cls e.cls), s)

/-- One side of element `e`. -/
def sideOf (s : State) (x : Ten) (f : Xfer) (src : Bool) (e : Nat) : Side × State :=
  let d := f.desc
  let i4 := (elemIdx d e).getD 4 0
  let va := if src then srcAddrOf x f e else dstAddrOf d e
  match (if src then d.srcKind else d.dstKind) with
  | 1 => (.win (refOf x) va.toNat, s)
  | 2 =>
    let lcid := if src then d.srcLcid else d.dstLcid
    match winPlace s x lcid with
    | .here y => (.win (refOf y) va.toNat, s)
    | .far m => (.farWin m lcid va.toNat, s)
    | .hold => (.hold, s)
    | .noTenancy => (.lose 0x28 0, s)
    | .range => (.lose 0x29 0, s)
  | _ =>
    if src && d.gather && decide (srcBase x f i4 % (2 ^ d.esize : Nat) ≠ 0) then
      (.lose 0x25 (BitVec.ofInt 64 (srcBase x f i4)), s)
    else memSide s x f src va i4

/-- A prefetched line that a sheaf DMA read finds stale is dropped and counted (spec/07 R206). -/
def useLines (s : State) (m ctx a n : Nat) : State :=
  let fpa := fpaOf s a
  let met (l : Line) : Bool := l.sheaf == m && spanMeets l.fpa 64 fpa n
  let serves (l : Line) : Bool :=
    l.ctx == ctx && l.cgen == (getCtx s ctx).gen && l.count == tabGet (fun _ => 0) s.mem.wcount (granOf (l.fpa % 2 ^ 42)).2
  let s := dropUnfit s (fun l => met l && !serves l)
  { s with mem := { s.mem with lines := s.mem.lines.map (fun l => if met l then { l with used := true } else l) } }

/-- The fault record of a transfer (R234). -/
def xferFault (s : State) (x : Ten) (f : Xfer) (cause kind : Nat) (src : Bool) (va : W64) (detail : Nat) : FaultRec :=
  mkFault s cause kind 0 x.ctx (!src) src va (BitVec.ofNat 64 f.descOff) x.lcid (halfOfCore x.core) (BitVec.ofNat 64 detail)

/-- A transfer stops on a queued fault with its cursor at DONE (R119). -/
def stopXfer (s : State) (x : Ten) (f : Xfer) (src : Bool) (cause : Nat) (va : W64) (detail : Option Nat) : State :=
  let s := updXfer s (refOf x) f.descOff (fun g => { g with faulted := true, srcFault := src })
  submitFault s (.xfer (refOf x) f.descOff) (xferFault s x f cause 0 src va (detail.getD f.doneEl))

/-- A side that cannot be served stops the transfer, loses the context, or leaves it waiting. -/
def sideStop (s : State) (x : Ten) (f : Xfer) (src : Bool) (d : Side) : State :=
  match d with
  | .fault cause va detail => stopXfer s x f src cause va detail
  | .lose cause va => loseCause (xferFault s x f cause 1 src va f.doneEl) s
  | _ => s

/-- DONE advances over an element. -/
def elemDone (s : State) (t : TenRef) (off : Nat) : State := updXfer s t off (fun f => { f with doneEl := f.doneEl + 1 })

/-- The entries that the cursor has entered are remembered (R119). -/
def noteEntered (s : State) (x : Ten) (f : Xfer) (src : Bool) (va : Int) : State :=
  match translate s (some (sheafOfCore x.core, some x.core)) x.ctx (lowBits 64 va) with
  | (.hit e, _, s) => updXfer s (refOf x) f.descOff (fun g => if src then { g with inSrc := some e.va } else { g with inDst := some e.va })
  | (_, _, s) => s

/-- Bytes delivered to the destination side of the element at DONE; the answer says whether the engine can go on. -/
def putElem (s : State) (x : Ten) (f : Xfer) (data : List Byte) : Bool × State :=
  let e := f.doneEl
  let pid := pidOfCtx s x.ctx
  let es := 2 ^ f.desc.esize
  match sideOf s x f false e with
  | (.win t off, s) =>
    match findTen s t with
    | some y => (true, elemDone (setTen s (winWrite y off data)) (refOf x) f.descOff)
    | none => (false, s)
  | (.mem a edom, s) =>
    match memWrite s .write x.ctx pid edom a data with
    | .ok _ s => (true, elemDone (noteEntered s x f false (dstAddrOf f.desc e)) (refOf x) f.descOff)
    | .unc s => (false, s)
    | _ => (false, stopXfer s x f false 0x03 (BitVec.ofInt 64 (dstAddrOf f.desc e)) (some (fpaOf s a)))
  | (.farWin m lcid off, s) =>
    match sendReq s (.xfer (refOf x) f.descOff) x.ctx x.core (600 + halfOfCore x.core) lcid
        { dst := m, vc := 2, kind := 2, target := BitVec.ofNat 64 (lcid + off * 2 ^ 32), tkind := 1, cls := x.cls, len := es, data := data } with
    | some s => (false, s)
    | none => (false, stopXfer s x f false 0x03 (BitVec.ofInt 64 (dstAddrOf f.desc e)) none)
  | (.farMem m fpa edom cls, s) =>
    match sendReq s (.xfer (refOf x) f.descOff) x.ctx x.core (600 + halfOfCore x.core) (fpa / 4096)
        { dst := m, vc := 2, kind := 2, target := BitVec.ofNat 64 fpa, cls := cls, edom := edom, len := es, data := data } with
    | some s => (false, s)
    | none => (false, stopXfer s x f false 0x03 (BitVec.ofInt 64 (dstAddrOf f.desc e)) (some fpa))
  | (d, s) => (false, sideStop s x f false d)

/-- The gather entry of the outer index that the cursor is in: read when the cursor enters the index (R145). -/
def enterGather (s : State) (x : Ten) (f : Xfer) : Xfer × State :=
  let i4 := (elemIdx f.desc f.doneEl).getD 4 0
  if f.desc.gather && f.gat.map (·.1) != some i4 then
    let g := some (i4, gatherAt x f.desc i4)
    ({ f with gat := g }, updXfer s (refOf x) f.descOff (fun f => { f with gat := g }))
  else (f, s)

/-- The element at DONE moved: read from its source, delivered to its destination. -/
def moveElem (s : State) (x : Ten) (f : Xfer) : Bool × State :=
  let (f, s) := enterGather s x f
  let e := f.doneEl
  let es := 2 ^ f.desc.esize
  let pid := pidOfCtx s x.ctx
  match sideOf s x f true e with
  | (.win t off, s) =>
    match findTen s t with
    | some y =>
      let l := winRead y off es
      putElem (if t == refOf x then s else logRead (refOf x) l s) x f l
    | none => (false, s)
  | (.mem a edom, s) =>
    match memRead s .read x.ctx pid edom a es with
    | .ok data s => putElem (logRead (refOf x) data (noteEntered (useLines s (sheafOfCore x.core) x.ctx a es) x f true (srcAddrOf x f e))) x f data
    | .unc s => (false, s)
    | _ => (false, stopXfer s x f true 0x03 (BitVec.ofInt 64 (srcAddrOf x f e)) (some (fpaOf s a)))
  | (.farWin m lcid off, s) =>
    match sendReq s (.xfer (refOf x) f.descOff) x.ctx x.core (600 + halfOfCore x.core) lcid
        { dst := m, vc := vcFor 1 x.cls, kind := 1, target := BitVec.ofNat 64 (lcid + off * 2 ^ 32), tkind := 1, cls := x.cls, len := es } with
    | some s => (false, s)
    | none => (false, stopXfer s x f true 0x03 (BitVec.ofInt 64 (srcAddrOf x f e)) none)
  | (.farMem m fpa edom cls, s) =>
    match sendReq s (.xfer (refOf x) f.descOff) x.ctx x.core (600 + halfOfCore x.core) (fpa / 4096)
        { dst := m, vc := vcFor 1 cls, kind := 1, target := BitVec.ofNat 64 fpa, cls := cls, edom := edom, len := es } with
    | some s => (false, s)
    | none => (false, stopXfer s x f true 0x03 (BitVec.ofInt 64 (srcAddrOf x f e)) (some fpa))
  | (d, s) => (false, sideStop s x f true d)

/-- Whether a transfer of a tenancy moves: the tenancy is resident, its context LIVE, its slot not faulted, and no request
of it is under way on the fabric. -/
def xferRuns (s : State) (x : Ten) (f : Xfer) : Bool :=
  (match x.loc with | .resident _ => true | _ => false) && decide ((getCtx s x.ctx).st = 1) && !f.faulted
    && decide (f.probes = 0) && !(s.fab.outst.any (fun o => o.who == .xfer (refOf x) f.descOff)) && !halfOff s (halfOfCore x.core)

/-- The engine moves elements until DONE reaches `goal` or something stops it; `n` bounds the elements. -/
def engine : Nat → State → TenRef → Nat → Nat → State
  | 0, s, _, _, _ => s
  | n + 1, s, t, off, goal =>
    match findTen s t with
    | none => s
    | some x => match xferOf x off with
      | none => s
      | some f =>
        if goal ≤ f.doneEl || !xferRuns s x f then s
        else
          let r := moveElem s x f
          if r.1 then engine n r.2 t off goal else r.2

/-- Whether a progress wait is satisfied (R146). -/
def progMet (x : Ten) (off : Nat) (target : W64) : Bool :=
  match xferOf x off with
  | none => true
  | some f => decide (target.toNat ≤ f.doneEl)

/-- A tenancy's satisfied progress wait ends. -/
def progWake (s : State) (t : TenRef) : State :=
  match findTen s t with
  | none => s
  | some x => match x.wait, x.loc with
    | .prog off target, .resident _ => if progMet x off target then wakeTen s t else s
    | _, _ => s

/-- A tenancy whose transfers have moved is looked at again: its progress wait, then END's wait. -/
def tenGo (s : State) (t : TenRef) : State := endCheck (progWake s t) t

/-- The engine runs a transfer up to a goal, and the tenancy's wait on it ends where it is satisfied. -/
def engineTo (s : State) (t : TenRef) (off goal : Nat) : State :=
  match findTen s t with
  | none => s
  | some x => match xferOf x off with
    | none => tenGo s t
    | some f => tenGo (engine (min goal f.total - f.doneEl) s t off (min goal f.total)) t

/-! ### Issue (R142, R144) -/

/-- Checks 1 to 5 of R144: the cause of the first that fails. -/
def descCheck (s : State) (x : Ten) (d : Desc) : Option Nat :=
  let es := 2 ^ d.esize
  let winLen (kind lcid : Nat) : Except Nat (Option Nat) :=
    if kind = 1 then .ok (some (winSize x))
    else if kind = 2 then
      match winPlace s x lcid with
      | .range => .error 0x29
      | .noTenancy => .error 0x28
      | .here y => .ok (some (winSize y))
      | .far _ => .ok none
      | .hold => match findTen s ⟨lcid, x.ctx⟩ with
        | some y => .ok (some (winSize y))
        | none => .error 0x28
    else .ok none
  if d.srcKind = 3 ∨ d.dstKind = 3 ∨ 4 < d.esize ∨ d.size.contains 0 ∨ 2 ^ 48 ≤ descTotal d then some 0x26
  else if d.gather ∧ (d.srcKind ≠ 0 ∨ d.listOff % 8 ≠ 0) then some 0x26
  else if (d.sst ++ d.dst).any (fun v => decide (v % (es : Int) ≠ 0)) || decide (d.dstAddr.toNat % es ≠ 0)
      || (!d.gather && decide (d.srcAddr.toNat % es ≠ 0)) then some 0x25
  else match winLen d.srcKind d.srcLcid, winLen d.dstKind d.dstLcid with
    | .error c, _ => some c
    | _, .error c => some c
    | .ok a, .ok b =>
      let out (src : Bool) (n : Option Nat) : Bool :=
        match n with
        | none => false
        | some n => let (lo, hi) := sideSpan x { desc := d } src 0; decide (lo < 0) || decide ((n : Int) ≤ hi)
      if out true a || out false b || (d.gather && decide (winSize x < d.listOff + 8 * d.size.getD 4 0)) then some 0x24
      else none

/-- The check at issue of a memory side whose whole extent lies in one range entry (R119): the side when it fails. -/
def wholeCheck (s : State) (x : Ten) (f : Xfer) (src : Bool) : Option Side × State :=
  let d := f.desc
  if (if src then d.srcKind else d.dstKind) ≠ 0 ∨ (src ∧ d.gather) then (none, s)
  else
    let (lo, hi) := sideSpan x f src 0
    match translate s (some (sheafOfCore x.core, some x.core)) x.ctx (lowBits 64 lo) with
    | (.hit e, v, s) =>
      if (v : Int) + (hi - lo) < rangeEnd e then
        let kind : ReqKind := if src then .read else .write
        let at0 := BitVec.ofInt 64 (if src then srcAddrOf x f 0 else dstAddrOf d 0)
        if !rangeAllows e kind then (some (.fault 0x02 at0 none), s)
        else match refusedIn s kind x.ctx e v (v + (hi - lo).toNat) with
          | some fpa => (some (.fault 0x03 at0 (some fpa)), s)
          | none => (none, s)
      else (none, s)
    | (.revoked, _, s) => (some (.lose 0x05 (BitVec.ofInt 64 (if src then srcAddrOf x f 0 else dstAddrOf d 0))), s)
    | (_, _, s) => (none, s)

/-- Whether a side names a window whose traffic is held until a run-table change has been flushed (spec/02 R62). -/
def sideHeld (s : State) (x : Ten) (d : Desc) : Bool :=
  (d.srcKind == 2 && flushHeld s x.slot d.srcLcid) || (d.dstKind == 2 && flushHeld s x.slot d.dstLcid)

/-- Checks 4 and 5 of R144 for a window on another module, made there before a byte moves: its first and its last byte are asked
for (notes/assumptions/15.md). -/
def probeSide (s : State) (x : Ten) (f : Xfer) (src : Bool) : State :=
  let lcid := if src then f.desc.srcLcid else f.desc.dstLcid
  if (if src then f.desc.srcKind else f.desc.dstKind) ≠ 2 then s
  else match winPlace s x lcid with
    | .far m =>
      let (lo, hi) := sideSpan x f src 0
      let outside := decide (lo < 0) || decide ((2 : Int) ^ 19 ≤ hi)
      let ask (s : State) (off : Nat) : State :=
        match sendReqAt s (.probe (refOf x) f.descOff src outside) (BitVec.ofNat 64 off) x.ctx x.core (600 + halfOfCore x.core) lcid
            { dst := m, vc := vcFor 1 x.cls, kind := 1, target := BitVec.ofNat 64 (lcid + off * 2 ^ 32), tkind := 1, cls := x.cls, len := 1 } with
        | some s => updXfer s (refOf x) f.descOff (fun f => { f with probes := f.probes + 1 })
        | none => stopXfer s x f src 0x03 (BitVec.ofNat 64 off) none
      if outside then ask s 0 else ask (ask s lo.toNat) hi.toNat
    | _ => s

/-- XFER (R142): waits at issue while all four slots are busy or one holds the same descriptor offset. -/
def execXfer (t : TenRef) (w : BitVec 56) (s : State) : Host.Outcome State Fault Refusal :=
  let f := coreWord w
  .next (issue t [(false, f.a)]
    (decide (f.d = 0) && decide (f.b = 0) && decide (f.c = 0) && decide (f.pred = 0) && decide (f.fn = 0)
      && decide (f.mod = 0) && decide (f.imm16 = 0))
    (fun x s =>
      let off := fld (xGet x f.a).toNat 0 19
      if off % 32 ≠ 0 then coreFault x 0x25 false x.pc 0 s
      else if !winIn x off 160 then coreFault x 0x24 false x.pc 0 s
      else if (xferOf x off).isSome || sideHeld s x (readDesc x off) then s
      else match freeXfer x with
        | none => s
        | some i =>
          let d := readDesc x off
          match descCheck s x d with
          | some cause => coreFault x cause false x.pc 0 s
          | none =>
            let g : Xfer := { valid := true, descOff := off, crc := descCrc x off, total := descTotal d, desc := d }
            let y := { x with xf := listSet x.xf i g }.next
            let s := setTen s y
            match wholeCheck s y g true with
            | (some e, s) => sideStop s y g true e
            | (none, s) => match wholeCheck s y g false with
              | (some e, s) => sideStop s y g false e
              | (none, s) => probeSide (probeSide s y g true) y g false) s)

/-- XWAIT (R146): the engine moves what the target needs, and the tenancy waits where it could not. -/
def execXwait (t : TenRef) (w : BitVec 56) (s : State) : Host.Outcome State Fault Refusal :=
  let f := coreWord w
  .next (issue t [(false, f.a), (false, f.b)]
    (decide (f.d = 0) && decide (f.c = 0) && decide (f.pred = 0) && decide (f.fn ≤ 1) && decide (f.mod = 0)
      && decide (f.imm16 = 0) && (f.fn == 0 || decide (f.b = 0)))
    (fun x s =>
      let off := fld (xGet x f.a).toNat 0 19
      let target : W64 := if f.fn = 1 then (match xferOf x off with | some g => BitVec.ofNat 64 g.total | none => 0) else xGet x f.b
      engineTo (setTen s { x with wait := .prog off target }) t off target.toNat) s)

/-- XPROG (R147): `moved` is how many further elements the engine had moved when the value was read, which is input data
(spec/03 R94). -/
def execXprog (t : TenRef) (w : BitVec 56) (moved : Nat) (s : State) : Host.Outcome State Fault Refusal :=
  let f := coreWord w
  .next (issue t [(false, f.d), (false, f.a)]
    (decide (f.b = 0) && decide (f.c = 0) && decide (f.pred = 0) && decide (f.fn = 0) && decide (f.mod = 0) && decide (f.imm16 = 0))
    (fun x s =>
      let off := fld (xGet x f.a).toNat 0 19
      let s := match xferOf x off with
        | some g => engineTo s t off (g.doneEl + moved)
        | none => s
      match findTen s t with
      | none => s
      | some y =>
        if (getCtx s x.ctx).st ≠ 1 then s
        else
          let v : W64 := match xferOf y off with | some g => BitVec.ofNat 64 g.doneEl | none => 0xFFFFFFFFFFFFFFFF
          logRead t (leBytes 8 v.toNat) (setTen s (xSet y f.d v).next)) s)

/-- TRANSFER_DONE (R117): the engine delivers every element, and the slot becomes idle. -/
def execTransferDone (t : TenRef) (off : Nat) (s : State) : Host.Outcome State Fault Refusal :=
  match findTen s t with
  | none => .next s
  | some x => match xferOf x off with
    | none => .next s
    | some f => .next (engineTo s t off f.total)

/-- TRANSFER_FAULT (R119): the engine goes on until a range check stops it at its cursor and its fault is submitted. -/
def execTransferFault (t : TenRef) (off : Nat) (s : State) : Host.Outcome State Fault Refusal :=
  match findTen s t with
  | none => .next s
  | some x => match xferOf x off with
    | none => .next s
    | some f => .next (engineTo s t off f.total)

end Sys2Proof.Machine
end

