-- ==== Sys2Proof/Machine/Remote.lean ====
section
/-! DEFINITION. Accesses that leave the window: remote windows (spec/05 R148, spec/04 R115), near-memory operations
(spec/08 R238-R240), atomics and reduce-on-write (spec/05 R149-R151). -/
namespace Sys2Proof.Machine

/-! ### Remote windows (R148) -/

/-- Bytes of a remote access by FN. -/
def remSize (fn : Nat) : Nat := if fn = 0 then 4 else if fn = 1 then 8 else 256

/-- A value that has returned is written to the register that waits for it; RLD zero-extends (R148). -/
def putReg (s : State) (t : TenRef) (vec : Bool) (reg : Nat) (data : List Byte) : State :=
  match findTen s t with
  | none => s
  | some x =>
    if vec then setTen s (vLanes x reg (fun l => BitVec.ofNat 32 (numAt data (4 * l) 4)) (List.range 64))
    else setTen s (xSet x reg (BitVec.ofNat 64 (ofLE data)))

/-- A remote window access performed at its target (R115, R148): the fault of the issuer where the target has no tenancy
or the offset lies outside its window. -/
def serveRem (s : State) (a : RemAcc) : State :=
  let issuerFault (cause : Nat) : State :=
    match findTen s a.issuer with
    | some x => coreFault { x with pc := a.pc } cause a.store.isSome (BitVec.ofNat 64 a.off) 0 s
    | none => s
  match findTen s a.target with
  | none => issuerFault 0x28
  | some y =>
    if !winIn y a.off a.len then issuerFault 0x24
    else match a.store with
      | some l => setTen s (winWrite y a.off l)
      | none =>
        let l := winRead y a.off a.len
        logRead a.issuer l (putReg s a.issuer a.vec a.reg l)

/-- Whether an access must wait: its target is being saved, restored or moved, or an earlier access waits for it. -/
def remHolds (s : State) (slot : Nat) (t : TenRef) : Bool :=
  s.rem.any (fun a => a.target == t) || (match movingOf s slot t.lcid with | some m => decide (m.st ≠ 10) | none => false)
    || (match findTen s t with
        | some y => (match y.loc with | .saving _ => true | .restoring _ => true | _ => false)
        | none => false)

/-- RST and RLD (R148). An FN above 2 is improper (R123; DESIGN CHOICE, notes/assumptions/14.md). -/
def remoteAcc (t : TenRef) (bits : BitVec 56) (store : Bool) (s : State) : State :=
  let f := coreWord bits
  let vec := f.fn == 2
  issue t [(false, f.a), (false, f.c), (vec, if store then f.b else f.d)]
    (decide (f.fn ≤ 2) && decide (f.pred = 0) && decide (f.mod = 0) && (if store then decide (f.d = 0) else decide (f.b = 0)))
    (fun x s =>
      let lcid := fld (xGet x f.a).toNat 0 24
      let off := xGet x f.c + sext16 f.imm16
      let n := remSize f.fn
      let data : List Byte :=
        if vec then (List.range 64).flatMap (fun l => leBytes 4 (vGet x f.b l).toNat) else leBytes n (xGet x f.b).toNat
      if off.toNat % (if f.fn = 1 then 8 else 4) ≠ 0 then coreFault x 0x25 false x.pc 0 s
      else if flushHeld s x.slot lcid then s
      else match winPlace s x lcid with
        | .range => coreFault x 0x29 store x.pc 0 s
        | .far m =>
          let who : Asker := if store then .posted t else .ten t f.d vec
          let p : FabPkt :=
            { dst := m, vc := if store then 2 else vcFor 1 x.cls, kind := if store then 2 else 1,
              target := BitVec.ofNat 64 (lcid + off.toNat % 2 ^ 19 * 2 ^ 32), tkind := 1, cls := x.cls, len := n,
              data := if store then data else [] }
          if 2 ^ 19 ≤ off.toNat then coreFault x 0x24 store x.pc 0 s
          else match sendReqAt (setTen s x.next) who off x.ctx x.core x.core lcid p with
            | some s => s
            | none => coreFault x 0x2B store x.pc 0 s
        | .noTenancy => if remHolds s x.slot ⟨lcid, x.ctx⟩ then s else coreFault x 0x28 store x.pc 0 s
        | _ =>
          let a : RemAcc := { issuer := t, target := ⟨lcid, x.ctx⟩, off := off.toNat,
                              store := if store then some data else none, len := n, vec := vec, reg := f.d, pc := x.pc }
          if remHolds s x.slot a.target then { setTen s x.next with rem := s.rem ++ [a] }
          else match findTen s a.target with
            | none => coreFault x 0x28 store x.pc 0 s
            | some y => if !winIn y a.off a.len then coreFault x 0x24 store x.pc 0 s else serveRem (setTen s x.next) a) s

/-- RST (R148). -/
def execRst (t : TenRef) (w : BitVec 56) (s : State) : Host.Outcome State Fault Refusal := .next (remoteAcc t w true s)

/-- RLD (R148). -/
def execRld (t : TenRef) (w : BitVec 56) (s : State) : Host.Outcome State Fault Refusal := .next (remoteAcc t w false s)

/-! ### Near-memory operations (R149, R150, R238-R240) -/

/-- Bytes of a near-memory operand: WIDTH 0, 1, 2, or the line of OP 14. -/
def nearLen (op width : Nat) : Nat := if op = 14 then 64 else if width = 1 then 8 else if width = 2 then 2 else 4

/-- The value that an operation stores over `old` (R149, R83, R86, R92). -/
def nearNew (op width old operand compare : Nat) : Nat :=
  let n := 8 * nearLen op width
  let o := old % 2 ^ n
  let v := operand % 2 ^ n
  match op with
  | 0 => (o + v) % 2 ^ n
  | 1 => Nat.land o v
  | 2 => Nat.lor o v
  | 3 => Nat.xor o v
  | 4 => if sgn n v < sgn n o then v else o
  | 5 => if sgn n o < sgn n v then v else o
  | 6 => min o v
  | 7 => max o v
  | 8 => v
  | 9 => if o = compare % 2 ^ n then v else o
  | 10 => if width = 2 then (bf16Add (BitVec.ofNat 16 o) (BitVec.ofNat 16 v)).toNat
          else (f32Add (BitVec.ofNat 32 o) (BitVec.ofNat 32 v)).toNat
  | 11 => if width = 2 then (bf16Min (BitVec.ofNat 16 o) (BitVec.ofNat 16 v)).toNat
          else (f32Min (BitVec.ofNat 32 o) (BitVec.ofNat 32 v)).toNat
  | 12 => if width = 2 then (bf16Max (BitVec.ofNat 16 o) (BitVec.ofNat 16 v)).toNat
          else (f32Max (BitVec.ofNat 32 o) (BitVec.ofNat 32 v)).toNat
  | _ => (o + v) % 2 ^ n

/-- A line of OP 14 with its masked lanes added modulo 2^32 (R238). -/
def nearLine (old lanes : List Byte) (mask : Nat) : List Byte :=
  (List.range 16).flatMap (fun i =>
    let o := numAt old (4 * i) 4
    leBytes 4 (if bitAt mask i then (o + numAt lanes (4 * i) 4) % 2 ^ 32 else o))

/-- The kind of request that an operation is (R151). -/
def nearKind (op : Nat) : ReqKind := if op < 13 then .atomic else .reduce

/-- A near-memory operation at its channel controller: status (0 performed, 1 refused at memory, 2 uncorrectable), the old
bytes, and the state (R239). -/
def nearDo (s : State) (r : NearReq) : Nat × List Byte × State :=
  let n := nearLen r.op r.width
  let a := r.fpa % 2 ^ 42
  if r.fpa / 2 ^ 42 ≠ ownModule s ∨ !inHbm a ∨ a % n ≠ 0 then (1, [], s)
  else match memRead s (nearKind r.op) r.ctx r.pid r.edom a n with
    | .ok old s =>
      let new := if r.op = 14 then nearLine old r.lanes r.compare.toNat
        else leBytes n (nearNew r.op r.width (ofLE old) r.operand.toNat r.compare.toNat)
      (match memWrite s (nearKind r.op) r.ctx r.pid r.edom a new with
      | .ok _ s => (0, old, s)
      | .unc s => (2, [], s)
      | _ => (1, [], s))
    | .unc s => (2, [], s)
    | _ => (1, [], s)

/-- Floating-point atomic add sets RELAXED_USED (R93, R95). When one counts as executed the spec does not say (DESIGN CHOICE,
notes/assumptions/6.md): here, when its channel controller has performed it, for one on another module, when it is sent. -/
def nearRelaxed (s : State) (r : NearReq) : State := if r.op = 10 then ctxRelaxed s r.ctx else s

/-- NEAR_MEMORY_OP (R239): the controller's answer is its reply. -/
def execNearMemoryOp (r : NearReq) (s : State) : Host.Outcome State Fault Refusal :=
  let (st, old, s) := nearDo s r
  .next { s with mem := { s.mem with reply := some { status := st, data := if r.ret then old else [] } } }

/-- A near-memory request of a core instruction: performed here, or sent to the module that the FPA names. `reg` is the
register that waits for the old value, `x` the tenancy before the instruction, which a refusal leaves as it was. A relaxed addition on
another module counts as executed once it has been sent (spec/03 R95 does not say when: DESIGN CHOICE, notes/assumptions/6.md). -/
def nearIssue (s : State) (x : Ten) (va : Nat) (reg : Option Nat) (r : NearReq) : State :=
  let m := r.fpa / 2 ^ 42
  if m = ownModule s then
    match nearDo s r with
    | (0, old, s) =>
      let s := nearRelaxed s r
      (match reg with
      | some d => putReg s (refOf x) false d old
      | none => s)
    | (2, _, s) => setTen s x
    | (_, _, s) => coreFault x 0x2B true (BitVec.ofNat 64 va) 0 (setTen s x)
  else
    let who : Asker := match reg with
      | some d => .ten (refOf x) d false
      | none => .posted (refOf x)
    match sendReqAt s who (BitVec.ofNat 64 va) x.ctx x.core x.core (r.fpa / 4096)
        { dst := m, vc := vcFor 3 r.cls, kind := 3, ctx := x.ctx, cls := r.cls, near := some r } with
    | some s => nearRelaxed s r
    | none => coreFault x 0x2B true (BitVec.ofNat 64 va) 0 (setTen s x)

/-- ATOM (R149, R151). Field C is read by CAS alone. -/
def execAtom (t : TenRef) (w : BitVec 56) (s : State) : Host.Outcome State Fault Refusal :=
  let f := coreWord w
  let width := modFld f 16 2
  .next (issue t [(false, f.d), (false, f.a), (false, f.b), (false, f.c)]
    (decide (f.fn ≤ 12) && decide (width ≠ 3) && modZero f 18 27 && decide (f.pred = 0))
    (fun x s =>
      let s := abandonSample x s
      let x := { x with sample := none }
      let va := (xGet x f.a + sext16 f.imm16).toNat
      if (decide (10 ≤ f.fn) && decide (width = 1)) || (decide (f.fn < 10) && decide (width = 2)) then coreFault x 0x21 true x.pc 0 s
      else if va % nearLen f.fn width ≠ 0 then coreFault x 0x25 true (BitVec.ofNat 64 va) 0 s
      else match coreXlate s x .atomic 0x2B va with
        | (none, s) => s
        | (some (e, fpa), s) =>
          if !inHbm (fpa % 2 ^ 42) then coreFault x 0x2C true (BitVec.ofNat 64 va) 0 s
          else
            let r : NearReq := { fpa := fpa, op := f.fn, width := width, ret := f.d ≠ 0, cls := min x.cls e.cls, ctx := x.ctx,
                                 edom := e.edom, pid := pidOfCtx s x.ctx, operand := xGet x f.b, compare := xGet x f.c, lanes := [] }
            let s := nearIssue (setTen s x.next) x va (if f.d = 0 then none else some f.d) r
            s) s)

/-- RED (R150, R151). -/
def execRed (t : TenRef) (w : BitVec 56) (s : State) : Host.Outcome State Fault Refusal :=
  let f := coreWord w
  .next (issue t [(false, f.a), (false, f.b)]
    (decide (f.d = 0) && decide (f.c = 0) && decide (f.pred = 0) && decide (f.fn = 0) && decide (f.mod = 0))
    (fun x s =>
      let s := abandonSample x s
      let x := { x with sample := none }
      let va := (xGet x f.a + sext16 f.imm16).toNat
      if va % 4 ≠ 0 then coreFault x 0x25 true (BitVec.ofNat 64 va) 0 s
      else match coreXlate s x .reduce 0x2B va with
        | (none, s) => s
        | (some (e, fpa), s) =>
          if !inHbm (fpa % 2 ^ 42) then coreFault x 0x2C true (BitVec.ofNat 64 va) 0 s
          else
            nearIssue (setTen s x.next) x va none
              { fpa := fpa, op := 13, width := 0, ret := false, cls := min x.cls e.cls, ctx := x.ctx, edom := e.edom,
                pid := pidOfCtx s x.ctx, operand := xGet x f.b &&& 0xFFFFFFFF, compare := 0, lanes := [] }) s)

/-- One line of VREDW: its first byte, its lane mask and its lane data (R238). -/
def vredwLine (x : Ten) (v : Nat) (ls : List Nat) (va line : Nat) : Nat × List Byte :=
  let at16 (i : Nat) : Option Nat := ls.find? (fun l => va + 4 * l == 64 * line + 4 * i)
  (((List.range 16).map (fun i => if (at16 i).isSome then 2 ^ i else 0)).sum,
   (List.range 16).flatMap (fun i => leBytes 4 (match at16 i with | some l => (vGet x v l).toNat | none => 0)))

/-- The requests of VREDW, one for each line that an active lane touches, all checked before any is performed; the state
after a fault where a check fails. -/
def vredwReqs (s : State) (x : Ten) (v : Nat) (ls : List Nat) (va : Nat) : List Nat → Option (List (Nat × NearReq)) × State
  | [] => (some [], s)
  | line :: t =>
    match coreXlate s x .reduce 0x2B (64 * line) with
    | (none, s) => (none, s)
    | (some (e, fpa), s) =>
      if !inHbm (fpa % 2 ^ 42) then (none, coreFault x 0x2C true (BitVec.ofNat 64 (64 * line)) 0 s)
      else if fpa / 2 ^ 42 = ownModule s ∧ spanGate s .reduce x.ctx (pidOfCtx s x.ctx) e.edom (fpa % 2 ^ 42) 64 ≠ .allow then
        (none, coreFault x 0x2B true (BitVec.ofNat 64 (64 * line)) 0 s)
      else
        let (mask, lanes) := vredwLine x v ls va line
        let r : NearReq := { fpa := fpa, op := 14, width := 0, ret := false, cls := min x.cls e.cls, ctx := x.ctx, edom := e.edom,
                             pid := pidOfCtx s x.ctx, operand := 0, compare := BitVec.ofNat 64 mask, lanes := lanes }
        match vredwReqs s x v ls va t with
        | (some l, s) => (some ((64 * line, r) :: l), s)
        | (none, s) => (none, s)

/-- VREDW (R150, R151): the lines that active lanes touch, ascending. -/
def execVredw (t : TenRef) (w : BitVec 56) (s : State) : Host.Outcome State Fault Refusal :=
  let f := coreWord w
  .next (issue t [(false, f.a), (true, f.b)]
    (decide (f.d = 0) && decide (f.c = 0) && decide (f.fn = 0) && decide (f.mod = 0))
    (fun x s =>
      let s := abandonSample x s
      let x := { x with sample := none }
      let va := (xGet x f.a + sext16 f.imm16).toNat
      let ls := activeLanes x f.pred
      if va % 4 ≠ 0 then coreFault x 0x25 true (BitVec.ofNat 64 va) 0 s
      else match vredwReqs s x f.b ls va ((ls.map (fun l => (va + 4 * l) / 64)).eraseDups) with
        | (none, s) => s
        | (some l, s) =>
          l.foldl (fun s e => if (getCtx s x.ctx).st = 1 then nearIssue s x e.1 none e.2 else s) (setTen s x.next)) s)

end Sys2Proof.Machine
end

