-- ==== Sys2Proof/Machine/CoreSync.lean ====
section
/-! DEFINITION. Events, barriers, fences and the end of a kernel as core instructions (spec/05 R130, R152-R155). -/
namespace Sys2Proof.Machine

/-! ### Events (R152) -/


/-- A message about an event of another module, its answer awaited under a tag (spec/06 R188, spec/09 R257). -/
def askEvent (s : State) (who : Asker) (pc : W64) (ctx core unit op : Nat) (handle : W32) (v : W64) : State :=
  let (tag, s) := takeTag s
  let o : Outst := { tag := tag, who := who, pc := pc, ctx := ctx, cgen := (getCtx s ctx).gen, bgen := unitGen s ⟨0, core⟩,
                     core := core, dst := evMod handle }
  let s := { s with fab := { s.fab with outst := s.fab.outst ++ [o] } }
  sendForCtx s ctx (evMod handle) unit handle.toNat (remotePkt s op ctx handle v (tagSeq tag))

/-- Whether a word of EREC, EWAIT: D, C, PRED, FN, MOD and IMM16 are zero. -/
def eventOk (f : CoreWord) : Bool :=
  decide (f.d = 0) && decide (f.c = 0) && decide (f.pred = 0) && decide (f.fn = 0) && decide (f.mod = 0) && decide (f.imm16 = 0)

/-- Whether a core may inject an event record: the last was 8 control-network cycles ago or more (spec/01 R23). -/
def recordFree (s : State) (core : Nat) : Bool :=
  match (getCore s core).recAt with | none => true | some t => decide (t + 8 ≤ s.dev.now)

/-- A core injects an event record. -/
def injectRecord (s : State) (core : Nat) : State := setCore s core { getCore s core with recAt := some s.dev.now }

/-- EREC (R152, R155): takes effect only after every earlier remote store, atomic and reduce, and stalls at issue while its core
has injected a record in the last 8 cycles (spec/01 R23). A regression is counted. -/
def execErec (t : TenRef) (w : BitVec 56) (s : State) : Host.Outcome State Fault Refusal :=
  let f := coreWord w
  .next (issue t [(false, f.a), (false, f.b)] (eventOk f)
    (fun x s =>
      if postedPending s t || !recordFree s x.core then s
      else
        let s := abandonSample x s
        let x := { x with sample := none }
        let h : W32 := (xGet x f.a).setWidth 32
        let v := xGet x f.b
        if evMod h ≠ ownModule s then askEvent (setTen (injectRecord s x.core) x.next) (.signal t) x.pc x.ctx x.core x.core 0x42 h v
        else if !evServes s x.ctx (evNum h) then coreFault x 0x2D true x.pc 0 s
        else
          let s := if x.remote.isNone then postBy s (evNum h) v x.run x.incarn else s
          (record (setTen (injectRecord s x.core) x.next) (evNum h) v).2) s)

/-- EWAIT (R152): the tenancy waits, its wait registered at the event; the release ends the instruction. -/
def execEwait (t : TenRef) (w : BitVec 56) (s : State) : Host.Outcome State Fault Refusal :=
  let f := coreWord w
  .next (issue t [(false, f.a), (false, f.b)] (eventOk f)
    (fun x s =>
      let h : W32 := (xGet x f.a).setWidth 32
      let v := xGet x f.b
      if evMod h ≠ ownModule s then askEvent (setTen s { x with wait := .event h v }) (.remWait t) x.pc x.ctx x.core x.core 0x41 h v
      else if !evServes s x.ctx (evNum h) then coreFault x 0x2D false x.pc 0 s
      else registerWait (setTen s { x with wait := .event h v }) { ev := evNum h, target := v, who := .ten t }) s)

/-! ### Barriers (R153, R154) -/

/-- The fields of a group word. -/
def grpFirst (g : W64) : Nat := fld g.toNat 0 24
def grpCount (g : W64) : Nat := fld g.toNat 24 24
def grpStride (g : W64) : Nat := fld g.toNat 48 16

/-- Whether an LCID is a member of a group. -/
def grpHas (g : W64) (lcid : Nat) : Bool :=
  decide (grpFirst g ≤ lcid) && decide ((lcid - grpFirst g) % grpStride g = 0)
    && decide ((lcid - grpFirst g) / grpStride g < grpCount g)

/-- The phase of a tenancy whose arrival is not counted yet (notes/assumptions/24.md). -/
def phaseUnknown : W64 := 0xFFFFFFFFFFFFFFFF

/-- The key of a context's barrier. -/
def barKey (ctx bid : Nat) : Nat := 256 * ctx + bid
def getBar (s : State) (k : Nat) : Bar := tabGet (fun _ => {}) s.part.bars k
def setBar (s : State) (k : Nat) (b : Bar) : State :=
  { s with part := { s.part with bars := tabSet (fun _ => {}) s.part.bars k b } }

/-- A barrier message on the collective VC (spec/09 R256): 0 an arrival, 1 that it is counted, 2 a release; the body, which the
spec leaves open, holds context, LCID, group word, PC of the arriving BAR, half of its core, and which message it is. -/
def barrierPkt (s : State) (what ctx mid bid lcid half : Nat) (ph group pc : W64) : State :=
  let sl := (getCtx s ctx).slot
  let f : FabPkt :=
    { dst := mid, vc := 3, kind := 6, src := ownModule s, lane := laneOf 600 lcid, pid := (getSlot s sl).brec.pid,
      pgen := (getSlot s sl).pgen, tag := BitVec.ofNat 64 (bid + ph.toNat * 2 ^ 8), ctx := ctx,
      data := leBytes 4 ctx ++ leBytes 4 lcid ++ leBytes 8 group.toNat ++ leBytes 8 pc.toNat ++ leBytes 4 half ++ leBytes 4 what }
  match sendSlot s sl none f with
  | .sent s => s
  | .noRoute s => s

/-- BAR (R153): the arrival goes to the state, and the tenancy waits for the release of the phase it arrived in. -/
def execBar (t : TenRef) (w : BitVec 56) (s : State) : Host.Outcome State Fault Refusal :=
  let f := coreWord w
  .next (issue t [(false, f.a)]
    (decide (f.d = 0) && decide (f.b = 0) && decide (f.c = 0) && decide (f.pred = 0) && decide (f.fn = 0) && decide (f.mod = 0)
      && decide (f.imm16 ≤ 255))
    (fun x s =>
      let g := xGet x f.a
      let sl := getSlot s x.slot
      if grpCount g = 0 ∨ grpStride g = 0 then coreFault x 0x20 false x.pc 0 s
      else if !sl.bound || decide (sl.brec.lcount ≤ grpFirst g + (grpCount g - 1) * grpStride g) then coreFault x 0x29 false x.pc 0 s
      else if postedPending s t then s
      else
        let s := abandonSample x s
        let x := { x with sample := none }
        match hostOf sl (grpFirst g) with
        | none => s
        | some m =>
          let s := setTen s { x with wait := .barrier f.imm16 phaseUnknown }
          if m = ownModule s then { s with part := { s.part with barMsgs := s.part.barMsgs ++ [.arrive x.ctx f.imm16 x.lcid g] } }
          else barrierPkt s 0 x.ctx m f.imm16 x.lcid (halfOfCore x.core) phaseUnknown g x.pc) s)

/-- A release sent to every member of a group: a message here, a packet for members on other modules. -/
def barReleaseAll (s : State) (ctx bid : Nat) (ph g : W64) : State :=
  (List.range (grpCount g)).foldl (fun s i =>
    let lcid := grpFirst g + i * grpStride g
    match hostOf (getSlot s (getCtx s ctx).slot) lcid with
    | none => s
    | some m =>
      if m = ownModule s then { s with part := { s.part with barMsgs := s.part.barMsgs ++ [.release ⟨lcid, ctx⟩ bid ph] } }
      else barrierPkt s 2 ctx m bid lcid 0 ph g 0) s

/-- A tenancy's arrival is counted in a phase, for whose release it waits. -/
def barCounted (s : State) (t : TenRef) (bid : Nat) (ph : W64) : State :=
  match findTen s t with
  | none => s
  | some x => match x.wait with
    | .barrier b p => if b = bid ∧ p = phaseUnknown then setTen s { x with wait := .barrier b ph } else s
    | _ => s

/-- An arrival at a barrier's state (R153, R154), of a tenancy here or of one that `src` hosts, with the PC of its BAR and the half of its
core: a mismatch makes the context LOST; else it is counted, its tenancy waits for the phase's release, and the last releases every
member. -/
def barArrive (ctx bid lcid src half : Nat) (group pc : W64) (s : State) : State :=
  let k := barKey ctx bid
  let b := getBar s k
  let fixed := if b.count = 0 then group else b.group
  if group ≠ fixed ∨ !grpHas group lcid then loseCause (fatalFault s 0x2E 3 ctx false pc pc lcid half 0) s
  else
    let s := if src = ownModule s then barCounted s ⟨lcid, ctx⟩ bid b.ph else barrierPkt s 1 ctx src bid lcid 0 b.ph group 0
    if b.count + 1 = grpCount group then barReleaseAll (setBar s k { group := 0, ph := b.ph + 1, count := 0 }) ctx bid b.ph group
    else setBar s k { b with group := fixed, count := b.count + 1 }

/-- BARRIER_ARRIVE (R153, R154): an arrival under way on this module reaches the barrier's state. One of another module's logical
core comes as a BARRIER packet. -/
def execBarrierArrive (ctx bid lcid : Nat) (group : W64) (s : State) : Host.Outcome State Fault Refusal :=
  let msg : BarMsg := .arrive ctx bid lcid group
  if (getCtx s ctx).st ≠ 1 ∨ !s.part.barMsgs.contains msg then .next s
  else
    let s := { s with part := { s.part with barMsgs := s.part.barMsgs.erase msg } }
    match findTen s ⟨lcid, ctx⟩ with
    | none => .next s
    | some x => .next (barArrive ctx bid lcid (ownModule s) (halfOfCore x.core) group x.pc s)

/-- A release reaches a member that waits for its phase; one for a swapped member makes it runnable (R153). -/
def barRelease (t : TenRef) (bid : Nat) (ph : W64) (s : State) : State :=
  match findTen s t with
  | none => s
  | some x => if x.wait = .barrier bid ph then wakeTen s t else s

/-- BARRIER_RELEASE (R153): a release under way on this module reaches its member. -/
def execBarrierRelease (t : TenRef) (bid : Nat) (ph : W64) (s : State) : Host.Outcome State Fault Refusal :=
  let msg : BarMsg := .release t bid ph
  if !s.part.barMsgs.contains msg then .next s
  else .next (barRelease t bid ph { s with part := { s.part with barMsgs := s.part.barMsgs.erase msg } })

/-! ### FENCE and END (R130, R155) -/

/-- FENCE (R155): every field zero; completes once every earlier remote store, atomic and reduce has been performed. -/
def execFence (t : TenRef) (w : BitVec 56) (s : State) : Host.Outcome State Fault Refusal :=
  .next (issue t [] (decide (w = 0)) (fun x s => if postedPending s t then s else setTen s x.next) s)

/-- END (R130): MOD[16] releases the tenancy. -/
def execEndK (t : TenRef) (w : BitVec 56) (s : State) : Host.Outcome State Fault Refusal :=
  let f := coreWord w
  .next (issue t []
    (decide (f.d = 0) && decide (f.a = 0) && decide (f.b = 0) && decide (f.c = 0) && decide (f.pred = 0) && decide (f.fn = 0)
      && modZero f 17 27 && decide (f.imm16 = 0))
    (fun _ s => endStep s t (modBit f 16)) s)

end Sys2Proof.Machine
end

