-- ==== Sys2Proof/Machine/Move.lean ====
section
/-! DEFINITION. Bays, save units and dispatch queues (spec/04 R103-R108), the tenancy image (R113), saving and restoring
(R112-R118), and a logical core's move within a module (spec/02 R53, R419, spec/11 R312). -/
namespace Sys2Proof.Machine

/-! ### Bays and save units (R104, R106) -/

/-- The first bay that a tenancy occupies. -/
def bayOf (x : Ten) : Option Nat :=
  match x.loc with
  | .resident b => some b
  | .saving b => some b
  | .restoring b => some b
  | .swapped => none

/-- The aligned group of a footprint that starts at a bay. -/
def groupBays (g foot : Nat) : List Nat := (List.range foot).map (fun i => g + i)

/-- The first bays of the aligned groups of a footprint. -/
def groupsOf (foot : Nat) : List Nat := if foot = 1 then [0, 1, 2, 3] else if foot = 2 then [0, 2] else [0]

def baysOf (x : Ten) : List Nat :=
  match bayOf x with
  | some b => groupBays b x.foot
  | none => []

def onCore (s : State) (c : Nat) : List Ten := s.tens.filter (fun x => x.core == c)

/-- Save units in use on a core: every tenancy holds its footprint from creation to release. -/
def unitsUsed (s : State) (c : Nat) : Nat := ((onCore s c).map (fun x => x.foot)).sum

def baysUsed (s : State) (c : Nat) : List Nat := (onCore s c).flatMap baysOf

/-- The free aligned groups of a footprint on a core. -/
def freeGroups (s : State) (c foot : Nat) : List Nat :=
  (groupsOf foot).filter (fun g => (groupBays g foot).all (fun b => !(baysUsed s c).contains b))

def isResident (x : Ten) : Bool := match x.loc with | .resident _ => true | _ => false

/-- Whether any bay of a tenancy lies in the group of a footprint at `g`. -/
def inGroup (x : Ten) (g foot : Nat) : Bool := (baysOf x).any (fun b => (groupBays g foot).contains b)

/-! ### Blocked, runnable (spec/04, Time slicing) -/

/-- Whether a tenancy waits on a transfer that has faulted. -/
def faultStalled (x : Ten) : Bool :=
  match x.wait with
  | .prog off _ => (match xferOf x off with | some f => f.faulted | none => false)
  | .ending _ => x.xf.any (fun f => f.valid && f.faulted)
  | _ => false

/-- Whether a resident tenancy is blocked: an unsatisfied event, barrier or progress wait, a stall on a transfer's fault,
or the held end of a sampled kernel (spec/11 R316). -/
def isBlocked (x : Ten) : Bool :=
  isResident x &&
  (match x.wait with
   | .none => false
   | .ending _ => faultStalled x
   | _ => true)

/-- Whether a swapped tenancy is runnable. -/
def isRunnable (x : Ten) : Bool :=
  (x.loc == .swapped) &&
  (x.saved == .preempt ||
   (x.running && (match x.wait with
     | .none => true
     | .prog _ _ => !faultStalled x
     | .ending _ => !faultStalled x
     | _ => false)))

/-! ### The dispatch queue (R108, R419) -/

/-- Whether a core's queue takes an entry: fewer than 16, and none that a move brought waits before it. -/
def queueRoom (s : State) (c : Nat) : Bool := (getCore s c).spill.isEmpty && decide ((getCore s c).queue.length < 16)

/-- An entry enters a core's queue, or waits for room behind those that wait. It counts as runnable from then on, anew where a move
queues it again (R109 does not say from when: DESIGN CHOICE, notes/assumptions/14.md). -/
def enqueue (s : State) (c : Nat) (e : DqEntry) : State :=
  let x := getCore s c
  let e := { e with since := s.dev.now }
  if queueRoom s c then setCore s c { x with queue := x.queue ++ [e] } else setCore s c { x with spill := x.spill ++ [e] }

/-- Waiting entries take the room there is, in order. -/
def refill (s : State) (c : Nat) : State :=
  let x := getCore s c
  let n := 16 - x.queue.length
  setCore s c { x with queue := x.queue ++ x.spill.take n, spill := x.spill.drop n }

/-- Entries that a predicate names leave a core's queue. -/
def dropEntries (s : State) (c : Nat) (p : DqEntry → Bool) : State :=
  let x := getCore s c
  refill (setCore s c { x with queue := x.queue.filter (fun e => !p e), spill := x.spill.filter (fun e => !p e) }) c

/-- Whether an entry is for a logical core of a slot. -/
def entryOn (s : State) (slot lcid : Nat) (e : DqEntry) : Bool := e.lcid == lcid && (getCtx s e.ctx).slot == slot

/-! ### The tenancy image (R113) -/

/-- A list cut in `n` pieces of `w`. -/
def cutEach {α : Type} (w : Nat) : Nat → List α → List (List α)
  | 0, _ => []
  | n + 1, l => l.take w :: cutEach w n (l.drop w)

/-- A table of a list whose first element has key `lo`. -/
def tabOf {α : Type} [DecidableEq α] (d : Nat → α) (lo : Nat) (l : List α) : Tab α :=
  (((List.range l.length).zip l).map (fun e => (lo + e.1, e.2))).filter (fun e => decide (e.2 ≠ d e.1))

/-- WAIT_KIND, WAIT_ID and WAIT_TARGET (R113, R153; notes/assumptions/25.md). -/
def waitFields (x : Ten) : Nat × Nat × Nat :=
  match x.wait with
  | .event h t => (1, evNum h, t.toNat)
  | .barrier b ph => (2, b, ph.toNat)
  | .prog off t => (if faultStalled x then 4 else 3, (slotOfDesc x off).getD 0, t.toNat)
  | .ending _ => match x.xf.findIdx? (fun f => f.valid && f.faulted) with
    | some i => (4, i, 0)
    | none => (0, 0, 0)
  | _ => (0, 0, 0)

/-- A transfer cursor's 32 bytes (R117). -/
def cursorBytes (f : Xfer) : List Byte :=
  if !f.valid then List.replicate 32 0
  else leBytes 4 (1 + b2n f.faulted * 2 + b2n f.srcFault * 4) ++ leBytes 4 f.descOff ++ leBytes 4 f.crc.toNat ++ leBytes 4 0
    ++ leBytes 8 f.doneEl ++ leBytes 8 f.total

/-- The image of a tenancy; one that is saved keeps the fold position and binding generation it was written with. -/
def tenImage (s : State) (x : Ten) : List Byte :=
  let (k, i, tg) := waitFields x
  let (fold, bgen) := if x.loc = .swapped then (x.savedFold, x.savedBgen) else (x.fold, unitGen s ⟨0, x.core⟩)
  let modes := ((List.range x.foot).map (fun b => b2n (bankFgx x b) * 2 ^ (2 * b))).sum
  let sl := getSlot s x.slot
  let hdr := leBytes 4 (x.lcid % 2 ^ 24 + fold % 4 * 2 ^ 24 + x.foot % 8 * 2 ^ 26 + x.cls % 8 * 2 ^ 29)
    ++ leBytes 4 (x.ctx % 1024 + modes % 256 * 2 ^ 10 + b2n sl.brec.conf * 2 ^ 18) ++ leBytes 4 x.cgen.toNat
    ++ leBytes 4 sl.pgen.toNat ++ leBytes 8 x.pc.toNat ++ leBytes 4 k ++ leBytes 4 i ++ leBytes 8 tg
    ++ leBytes 4 bgen.toNat ++ leBytes 4 x.sliceUsed.toNat ++ List.replicate 16 0
  hdr ++ x.xf.flatMap cursorBytes
    ++ (List.range 32).flatMap (fun j => leBytes 8 (xGet x j).toNat)
    ++ (List.range 8).flatMap (fun j => leBytes 8 (pGet x j).toNat)
    ++ (List.range 512).map (fun j => if j / 128 < x.foot then tabGet (fun _ => 0x7F) x.grid j else 0)
    ++ (List.range 2048).flatMap (fun j => leBytes 4 (tabGet (fun _ => 0) x.v j).toNat)
    ++ (List.range (4096 * x.foot)).flatMap (fun j => leBytes 4 (tabGet (fun _ => 0) x.acc j).toNat)
    ++ (List.range (131072 * x.foot)).map (tabGet zeroByte x.win)

/-- Bytes of an image. -/
def imageLen (foot : Nat) : Nat := 9216 + foot * 147456

/-- A tenancy with the state that an image holds. -/
def withImage (x : Ten) (l : List Byte) : Ten :=
  let n := fld (numAt l 0 4) 26 3
  let words (w o cnt : Nat) : List Nat := (cutEach w cnt (l.drop o)).map ofLE
  let y : Ten := { x with
    cls := fld (numAt l 0 4) 29 3, foot := n, pc := BitVec.ofNat 64 (numAt l 16 8), sliceUsed := BitVec.ofNat 32 (numAt l 44 4),
    x := tabSet (fun _ => 0) (tabOf (fun _ => 0) 0 ((words 8 0xC0 32).map (BitVec.ofNat 64))) 0 0,
    p := tabSet (fun _ => 0) (tabOf (fun _ => 0) 0 ((words 8 0x1C0 8).map (BitVec.ofNat 64))) 0 0,
    grid := tabOf (fun _ => 0x7F) 0 ((l.drop 0x200).take (128 * n)),
    v := tabOf (fun _ => 0) 0 ((words 4 0x400 2048).map (BitVec.ofNat 32)),
    acc := tabOf (fun _ => 0) 0 ((words 4 0x2400 (4096 * n)).map (BitVec.ofNat 32)),
    fgx := tabOf (fun _ => false) 0 ((List.range n).map (fun b => bitAt (numAt l 4 4) (10 + 2 * b))),
    win := tabOf zeroByte 0 ((l.drop (0x2400 + 0x4000 * n)).take (131072 * n)) }
  { y with xf := (cutEach 32 4 (l.drop 0x40)).map (fun c =>
      if !bitAt (numAt c 0 4) 0 then {}
      else { valid := true, faulted := bitAt (numAt c 0 4) 1, srcFault := bitAt (numAt c 0 4) 2, descOff := numAt c 4 4,
             crc := BitVec.ofNat 32 (numAt c 8 4), doneEl := numAt c 16 8, total := numAt c 24 8,
             desc := readDesc y (numAt c 4 4) }) }

/-! ### Saving (R112, R114) -/

/-- One unit of SLICE_USED, 10 µs, in control-network cycles. -/
def tenMicro : Nat := 20000

/-- A resident tenancy stops issue and its save begins; its consumed slice is recorded (R113). -/
def beginSave (s : State) (t : TenRef) (why : SaveWhy) : State :=
  match findTen s t with
  | none => s
  | some x => match x.loc with
    | .resident b =>
      setTen s { x with loc := .saving b, saved := why,
                        sliceUsed := x.sliceUsed + BitVec.ofNat 32 ((s.dev.now - x.since) / tenMicro) }
    | _ => s

/-- The tenancies of a logical core. -/
def lcidTens (s : State) (slot lcid : Nat) : List Ten := s.tens.filter (fun x => x.slot == slot && x.lcid == lcid)

/-- Every bay of a logical core is saved: resident tenancies are saved, a restore under way stops (R53 step 4). -/
def saveLcid (s : State) (slot lcid : Nat) : State :=
  (lcidTens s slot lcid).foldl (fun s x =>
    match x.loc with
    | .resident _ => beginSave s (refOf x) .move
    | .restoring _ => setTen s { x with loc := .swapped }
    | _ => s) s

/-! ### The line pool (spec/08 R243) -/

/-- Lines that the images of moves to cores of a sheaf take while they are staged there (R53 step 5, spec/08 R243). -/
def stagedLines (s : State) (m : Nat) : Nat :=
  ((s.part.moving.filter (fun v => v.st == 3 && sheafOfCore v.dstCore == m)).map (fun v =>
    ((lcidTens s v.slot v.lcid).map (fun x => imageLen x.foot / 64)).sum)).sum

/-- Lines of a sheaf's pool: what its store's FREE granules hold, less what moves have staged (spec/08 R243). -/
def poolCap (s : State) (m : Nat) : Nat :=
  4096 * ((List.range 16).filter (fun j => (getTag s (true, 16 * m + j)).st == 0)).length - stagedLines s m

/-- A slot's part of a sheaf's line pool, by the cores it holds there, and a class's guarantee in it (R243, R241). -/
def poolPart (s : State) (m slot : Nat) : Nat :=
  let n (b : BindRec) : Nat := (b.cores.filter (fun c => sheafOfCore c == m)).length
  let all := (s.part.slots.map (fun e => n e.2.brec)).sum
  if all = 0 then 0 else poolCap s m * n (getSlot s slot).brec / all
def poolClass (s : State) (m slot cls : Nat) : Nat :=
  let w := (getSlot s slot).brec.clsShare
  if w.sum = 0 then 0 else poolPart s m slot * w.getD cls 0 / w.sum

/-- A sheaf's lines of a slot, and of a class of it. -/
def poolLines (s : State) (m : Nat) (p : Line → Bool) : Nat := (s.mem.lines.filter (fun l => l.sheaf == m && p l)).length
def lineSlot (s : State) (l : Line) : Nat := (getCtx s l.ctx).slot

/-- Whether a line lies in a part that its slot, or its class of it, does not have a claim to. -/
def lineLent (s : State) (m : Nat) (l : Line) : Bool :=
  l.sheaf == m && decide (poolPart s m (lineSlot s l) < poolLines s m (fun k => lineSlot s k == lineSlot s l))
def lineLoose (s : State) (m : Nat) (l : Line) : Bool :=
  l.sheaf == m && decide (poolClass s m (lineSlot s l) l.cls < poolLines s m (fun k => lineSlot s k == lineSlot s l && k.cls == l.cls))

/-- Room for a line of a slot and class: free room, or the oldest line that gives way; none where the line is dropped. -/
def poolRoom (s : State) (m slot cls : Nat) : Option State :=
  let mine := poolLines s m (fun l => lineSlot s l == slot)
  let ofCls := poolLines s m (fun l => lineSlot s l == slot && l.cls == cls)
  let out (v : Option Line) : Option State := v.map (fun v => dropLines s (fun l => l == v))
  if cls = 7 ∧ poolPart s m slot / 2 ≤ ofCls then none
  else if poolLines s m (fun _ => true) < poolCap s m then some s
  else if mine < poolPart s m slot then out (s.mem.lines.find? (fun l => lineSlot s l != slot && lineLent s m l))
  else if ofCls < poolClass s m slot cls then out (s.mem.lines.find? (fun l => lineSlot s l == slot && l.cls != cls && lineLoose s m l))
  else none

/-- A pool that has grown smaller drops what it no longer holds: lent lines first, then the oldest; `n` bounds them. -/
def poolTrim (m : Nat) : Nat → State → State
  | 0, s => s
  | n + 1, s =>
    if poolLines s m (fun _ => true) ≤ poolCap s m then s
    else match (match s.mem.lines.find? (lineLent s m) with | some l => some l | none => s.mem.lines.find? (fun l => l.sheaf == m)) with
      | some v => poolTrim m n (dropLines s (fun l => l == v))
      | none => s

/-! ### A move's end (R53, R312, R419) -/

/-- The local map of a slot with a logical core on another core. -/
def remapLc (s : State) (slot lcid core fold : Nat) : State :=
  let sl := getSlot s slot
  setSlot s slot { sl with lmap := sl.lmap.map (fun e => if e.lcid == lcid then { e with core := core, fold := fold } else e) }

/-- The units a failed core's slot keeps: the substitute in its place (R312 step 5), and the record of the substitution. -/
def substDone (s : State) (u : Subst) : State :=
  let sl := getSlot s u.slot
  let cores := (sl.brec.cores.filter (fun c => !(c == u.core))) ++ (match u.sub with | some d => [d] | none => [])
  let s := setSlot s u.slot { sl with brec := { sl.brec with cores := cores } }
  let s := { s with units := { s.units with subst := s.units.subst.filter (fun v => !(v.core == u.core)) } }
  if !u.noted then s else
  logNote { cls := 0x07, sev := 1, unitKind := 0, unit := u.core, action := 2, slot := some u.slot,
            half := halfOfCore u.core, detail := u.sub.getD 0 } s

/-- A logical core has left a failed core: the substitution ends with the last. -/
def substStep (s : State) (slot lcid src : Nat) : State :=
  match s.units.subst.find? (fun u => u.core == src && u.slot == slot) with
  | none => s
  | some u =>
    let u := { u with lcids := u.lcids.filter (fun l => !(l == lcid)) }
    if u.lcids.isEmpty then substDone s u
    else { s with units := { s.units with subst := s.units.subst.map (fun v => if v.core == u.core then u else v) } }

/-- Step 7 of R53: the local map is rewritten, MOVING cleared, the queue entries and then the held traffic released. -/
def moveComplete (s : State) (m : Moving) : State :=
  let s := if m.status = 0 then remapLc s m.slot m.lcid m.dstCore m.fold else s
  let mine := entryOn s m.slot m.lcid
  let src := getCore s m.srcCore
  let s := if m.status = 0 ∧ m.dstCore ≠ m.srcCore then dropEntries s m.srcCore mine else s
  let q := if m.status = 0 ∧ m.dstCore ≠ m.srcCore then (src.queue ++ src.spill).filter mine else []
  let s := (q ++ m.held).foldl (fun s e => enqueue s m.dstCore e) (dropMoving s m.slot m.lcid)
  let s := substStep s m.slot m.lcid m.srcCore
  match m.id with
  | some id => finishStatus id m.status s
  | none => s

/-- A move whose tenancies are all restored, or had none to restore, completes. -/
def moveCheck (s : State) (slot lcid : Nat) : State :=
  match movingOf s slot lcid with
  | none => s
  | some m =>
    if m.st = 3 ∧ (lcidTens s slot lcid).all (fun x => match x.loc with | .restoring _ => false | _ => true) then moveComplete s m
    else s

/-- The tenancies of a logical core at a core: those that were resident restore where a group is free, the others stay
swapped in the state they had (R53 step 6, R115). -/
def landTens (s : State) (slot lcid core fold : Nat) : State :=
  (lcidTens s slot lcid).foldl (fun s x =>
    let x := { x with core := core, fold := fold }
    if x.saved = .move then
      match pickOne (freeGroups s core x.foot) s with
      | (some g, s) => setTen s { x with loc := .restoring g }
      | (none, s) => setTen s { x with saved := .preempt, since := s.dev.now }
    else setTen s x) s

/-- Steps 5 and 6 of R53: the saved state goes to the destination core. What is staged in its sheaf takes its room of the line pool first
(spec/08 R243). -/
def moveLand (s : State) (m : Moving) : State :=
  let s := setMoving (landTens s m.slot m.lcid m.dstCore m.fold) { m with st := 3 }
  moveCheck (poolTrim (sheafOfCore m.dstCore) s.mem.lines.length s) m.slot m.lcid

/-- Whether every tenancy of a logical core is saved. -/
def allSwapped (s : State) (slot lcid : Nat) : Bool := (lcidTens s slot lcid).all (fun x => x.loc == .swapped)

/-! ### Entries and tenancies as bytes, for other modules (notes/assumptions/22.md, 25.md) -/

/-- A dispatch-queue entry in 72 bytes. -/
def entryBytes (e : DqEntry) : List Byte :=
  leBytes 4 e.lcid ++ leBytes 4 e.ctx ++ leBytes 4 e.cgen.toNat ++ leBytes 4 (e.cls + 256 * e.foot) ++ leBytes 8 e.entry.toNat
    ++ leBytes 8 e.x1.toNat ++ leBytes 8 e.x2.toNat ++ leBytes 8 e.x3.toNat ++ leBytes 8 e.x4.toNat
    ++ leBytes 4 e.run ++ leBytes 4 e.incarn ++ leBytes 4 e.grp ++ leBytes 4 (match e.remote with | some m => m + 1 | none => 0)

/-- A dispatch-queue entry read from bytes. -/
def entryOf (l : List Byte) : DqEntry :=
  { lcid := numAt l 0 4, ctx := numAt l 4 4, cgen := BitVec.ofNat 32 (numAt l 8 4), cls := fld (numAt l 12 4) 0 8,
    foot := fld (numAt l 12 4) 8 8, entry := BitVec.ofNat 64 (numAt l 16 8), x1 := BitVec.ofNat 64 (numAt l 24 8),
    x2 := BitVec.ofNat 64 (numAt l 32 8), x3 := BitVec.ofNat 64 (numAt l 40 8), x4 := BitVec.ofNat 64 (numAt l 48 8),
    run := numAt l 56 4, incarn := numAt l 60 4, grp := numAt l 64 4,
    remote := if numAt l 68 4 = 0 then none else some (numAt l 68 4 - 1) }

/-- An entry or tenancy of another module's run: the module that its kernel's end is told to. -/
def remoteFor (s : State) (src : Nat) (r : Option Nat) : Option Nat :=
  match r with
  | none => some src
  | some m => if m = ownModule s then none else some m

/-- What a tenancy holds beside its image: 32 bytes. -/
def tenTrailer (x : Ten) : List Byte :=
  let w : Nat := match x.wait with
    | .ending r => 1 + b2n r
    | .held r => 1 + b2n r
    | _ => 0
  let h : W32 := match x.wait with | .event h _ => h | _ => 0
  leBytes 4 x.run ++ leBytes 4 x.incarn ++ leBytes 4 x.grp
    ++ leBytes 4 (b2n x.running + b2n x.kovf * 2 + b2n (x.saved == .move) * 4 + b2n (x.saved == .preempt) * 8 + w * 16)
    ++ leBytes 4 (match x.remote with | some m => m + 1 | none => 0) ++ leBytes 4 h.toNat ++ leBytes 8 0

/-- A tenancy read from its image and trailer, at a slot and core. -/
def tenOf (s : State) (src slot core fold : Nat) (img tr : List Byte) : Ten :=
  let f := numAt tr 12 4
  let k := numAt img 24 4 % 8
  let id := numAt img 28 4
  let tg := BitVec.ofNat 64 (numAt img 32 8)
  let ctx := fld (numAt img 4 4) 0 10
  let x := withImage { lcid := fld (numAt img 0 4) 0 24, ctx := ctx, cgen := BitVec.ofNat 32 (numAt img 8 4), slot := slot,
                       foot := 1, cls := 0, core := core, fold := fold, loc := .swapped } img
  let wait : TenWait :=
    if fld f 4 2 = 1 then .ending false
    else if fld f 4 2 = 2 then .ending true
    else match k with
      | 1 => .event (BitVec.ofNat 32 (numAt tr 20 4)) tg
      | 2 => .barrier id tg
      | 3 => .prog ((x.xf[id]?).map (fun g => g.descOff) |>.getD 0) tg
      | 4 => .prog ((x.xf[id]?).map (fun g => g.descOff) |>.getD 0) tg
      | _ => .none
  { x with run := numAt tr 0 4, incarn := numAt tr 4 4, grp := numAt tr 8 4, running := bitAt f 0, kovf := bitAt f 1,
           savedFold := fld (numAt img 0 4) 24 2, savedBgen := BitVec.ofNat 16 (numAt img 40 2),
           saved := if bitAt f 2 then .move else if bitAt f 3 then .preempt else .evict, wait := wait,
           remote := remoteFor s src (if numAt tr 16 4 = 0 then none else some (numAt tr 16 4 - 1)), since := s.dev.now }

/-- The whole state of a logical core as it is handed to another module (R58): the destination core ID and fold, the save
units, counts, the tenancies, the queue entries. -/
def lcidState (s : State) (m : Moving) : List Byte :=
  let ts := lcidTens s m.slot m.lcid
  let c := getCore s m.srcCore
  let es := (c.queue ++ c.spill).filter (entryOn s m.slot m.lcid)
  leBytes 4 m.dstCore ++ leBytes 4 m.fold ++ leBytes 4 ((ts.map (fun x => x.foot)).sum) ++ leBytes 4 ts.length
    ++ leBytes 4 es.length ++ ts.flatMap (fun x => tenImage s x ++ tenTrailer x) ++ es.flatMap entryBytes

/-- The tenancies that a logical core's state spells; `n` of them, and what follows. -/
def tensOf (s : State) (src slot core fold : Nat) : Nat → List Byte → List Ten × List Byte
  | 0, l => ([], l)
  | n + 1, l =>
    let k := imageLen (fld (numAt l 0 4) 26 3)
    let x := tenOf s src slot core fold (l.take k) ((l.drop k).take 32)
    let r := tensOf s src slot core fold n (l.drop (k + 32))
    (x :: r.1, r.2)

/-- The tenancies and entries of a logical core's state. -/
def lcidParts (s : State) (src slot core fold : Nat) (l : List Byte) : List Ten × List DqEntry :=
  let r := tensOf s src slot core fold (numAt l 12 4) (l.drop 20)
  (r.1, (cutEach 72 (numAt l 16 4) r.2).map (fun b => let e := entryOf b; { e with remote := remoteFor s src e.remote }))

/-- The packets of MOVE_OFFER: 8,192 bytes each, a shorter one last; its end is the SHAKE256 digest of the state (R58). -/
def offerPieces (l : List Byte) : List (List Byte) :=
  let d := l ++ shake256 l 32
  cutEach 8192 (d.length / 8192 + 1) d

/-! ### Handoff messages (R58-R60) -/

/-- SEQ of a handoff message: 2^30, the message and the LCID, so that its answer names it (DESIGN CHOICE,
notes/assumptions/23.md). -/
def handSeq (op lcid : Nat) : Nat :=
  2 ^ 30 + (if op = opOwnRecord then 7 else if op = opRunTable then 0 else op % 8) * 2 ^ 24 + lcid % 2 ^ 24

/-- A handoff message to a module, its epoch in words 6-7; the pieces of an offer are numbered in QPN. -/
def handPkt (s : State) (op slot lcid : Nat) (v : Nat) (piece : Nat) (payload : List Byte) : Pkt :=
  { opcode := op, qpn := piece, seq := BitVec.ofNat 32 (handSeq op lcid), w4 := BitVec.ofNat 32 (getSlot s slot).brec.pid,
    w5 := BitVec.ofNat 32 lcid, w6 := BitVec.ofNat 32 v, w7 := BitVec.ofNat 32 (v / 2 ^ 32), payload := payload, plen := payload.length }

/-- A packet of the module sent for a slot. -/
def sendForSlot (s : State) (mid slot key : Nat) (p : Pkt) : State :=
  let sl := getSlot s slot
  match sendSlot s slot none (commandPkt s mid sl.brec.pid sl.pgen (mgmtUnit s) key p) with
  | .sent s => s
  | .noRoute s => s

/-- A handoff message sent for a slot. -/
def sendHand (s : State) (mid op slot lcid v : Nat) (piece : Nat) (payload : List Byte) : State :=
  sendForSlot s mid slot lcid (handPkt s op slot lcid v piece payload)

/-- The lead of a slot. -/
def leadOf (s : State) (slot : Nat) : Nat := (getSlot s slot).brec.lead

/-- The saved state is offered to the destination (R58, R59). -/
def sendOffers (s : State) (m : Moving) : State :=
  let l := offerPieces (lcidState s m)
  ((List.range l.length).zip l).foldl (fun s d => sendHand s m.dstMod 0x92 m.slot m.lcid m.epoch d.1 d.2) s

/-- Whether a request that a tenancy's instructions or transfers sent to another module has not been answered, or its arrival at a
barrier not been counted. -/
def requestPending (s : State) (t : TenRef) : Bool :=
  (match findTen s t with
   | some x => (match x.wait with | .barrier _ ph => ph == 0xFFFFFFFFFFFFFFFF | _ => false)
   | none => false)
  || s.fab.outst.any (fun o => match o.who with
    | .ten u _ _ => u == t
    | .posted u => u == t
    | .xfer u _ => u == t
    | .probe u _ _ _ => u == t
    | _ => false)

/-- Whether an instruction that a logical core's tenancies issued has not completed (R112): its value would return to a module
that the logical core has left. -/
def issuedPending (s : State) (slot lcid : Nat) : Bool :=
  (lcidTens s slot lcid).any (fun x => requestPending s (refOf x) || s.rem.any (fun a => a.issuer == refOf x))

/-- A move that goes back: its destination is its source, and its end has a status. -/
def homeward (s : State) (m : Moving) (status : Nat) : Moving :=
  { m with dstMod := ownModule s, dstCore := m.srcCore, status := if status = 0 then stRetry else status,
           fold := ((lmapOf (getSlot s m.slot) m.lcid).map (fun e => e.fold)).getD m.fold }

/-- A logical core of a failed core whose substitute fails too is held, with its images, until a MOVE names it (spec/11 R312). -/
def moveHold (s : State) (m : Moving) : State :=
  substStep (setMoving s { m with st := 20, dstCore := m.srcCore }) m.slot m.lcid m.srcCore

/-- A logical core whose tenancies are all saved goes on: to its destination core, back to its own
where that has failed (R53), or as an offer. -/
def moveSaved (s : State) (slot lcid : Nat) : State :=
  match movingOf s slot lcid with
  | none => s
  | some m =>
    if !allSwapped s slot lcid then s
    else if m.st = 2 then
      if m.dstCore = m.srcCore ∨ coreReady s m.dstCore then moveLand s m
      else if m.id.isSome then moveLand s (homeward s m stRetry)
      else moveHold s m
    else if m.st = 15 ∧ !issuedPending s slot lcid then
      let m := { m with st := 11, tries := 0 }
      sendOffers (setMoving s m) m
    else s

end Sys2Proof.Machine
end

