-- ==== Sys2Proof/Machine/HandoffOps.lean ====
section
/-! DEFINITION. Handoffs between modules (spec/02 R57-R62): the source's and the destination's part, the lead's ownership
records with the deputy's copies, run-table changes and flushes. A message that a module has for itself acts at once. -/
namespace Sys2Proof.Machine

/-! ### Members and the run table (R38, R62) -/

/-- The other modules of a slot's partition: those of the run table, the lead and the deputy. -/
def otherMembers (s : State) (slot : Nat) : List Nat :=
  let sl := getSlot s slot
  ((sl.rtab.map (fun e => e.mid)) ++ [sl.brec.lead, sl.brec.deputy]).eraseDups.filter (fun m => !(m == ownModule s))

/-- Whether a module is named in the run table of a slot. -/
def inRunTable (s : State) (slot mid : Nat) : Bool := (getSlot s slot).rtab.any (fun e => e.mid == mid)

/-- Neighbouring runs of one module made one. -/
def mergeRuns : List REnt → List REnt
  | [] => []
  | e :: t => match mergeRuns t with
    | [] => [e]
    | f :: u => if e.mid = f.mid then { e with first := e.first } :: u else e :: f :: u

/-- A run table in which one LCID is hosted by a module. -/
def setHost (rtab : List REnt) (lcount lcid mid : Nat) : List REnt :=
  let old := ((rtab.filter (fun e => decide (e.first ≤ lcid))).getLast?.map (·.mid)).getD mid
  let before := rtab.filter (fun e => decide (e.first < lcid))
  let after := rtab.filter (fun e => decide (lcid + 1 < e.first))
  let next := match rtab.find? (fun e => e.first == lcid + 1) with
    | some e => [e]
    | none => if lcid + 1 < lcount then [{ first := lcid + 1, mid := old }] else []
  mergeRuns (before ++ [{ first := lcid, mid := mid }] ++ next ++ after)

/-- The run table of a slot with an LCID's host changed. -/
def hostPut (s : State) (slot lcid mid : Nat) : State :=
  let sl := getSlot s slot
  if !sl.bound then s
  else
    let r := setHost sl.rtab sl.brec.lcount lcid mid
    setSlot s slot { sl with rtab := r, brec := { sl.brec with runs := r.length } }

/-- The VCs of traffic (R256). -/
def allVcs : List Nat := [0, 1, 2, 3, 4, 5]

/-- The DMA engine that holds or passes on traffic of a logical core: its core's half, else Half 0 (R257; DESIGN CHOICE,
notes/assumptions/21.md). -/
def lcUnit (s : State) (slot lcid : Nat) : Nat :=
  match lmapOf (getSlot s slot) lcid with
  | some e => 600 + halfOfCore e.core
  | none => 600

/-- Flush markers on each VC to the old host (R62). -/
def sendFlush (s : State) (slot lcid old : Nat) : State :=
  let sl := getSlot s slot
  allVcs.foldl (fun s vc =>
    let f : FabPkt := { dst := old, vc := vc, kind := 9, src := ownModule s, lane := laneOf (lcUnit s slot lcid) lcid, pid := sl.brec.pid,
                        pgen := sl.pgen, tag := BitVec.ofNat 64 lcid }
    match sendSlot s slot none f with
    | .sent s => s
    | .noRoute s => s) s

/-- A changed run-table entry applied (R62): new traffic is held and flush markers go through the old host, except on the
old and the new host themselves. -/
def applyRun (s : State) (slot lcid mid : Nat) : State :=
  match hostOf (getSlot s slot) lcid with
  | none => s
  | some old =>
    if old = mid then s
    else
      let s := hostPut s slot lcid mid
      if mid = ownModule s ∨ old = ownModule s then s
      else sendFlush { s with part := { s.part with flushes := s.part.flushes.filter (fun f => !(f.slot == slot && f.lcid == lcid))
                                                      ++ [{ slot := slot, lcid := lcid }] } } slot lcid old

/-- A dispatch-queue entry sent to another module. -/
def sendEntry (s : State) (slot mid : Nat) (e : DqEntry) : State :=
  let b := entryBytes e
  sendForSlot s mid slot e.lcid { opcode := opDispatch, ctx := e.ctx, cls := e.cls, payload := b, plen := b.length }

/-- A changed run-table entry with its epoch applied; a module that holds the entry of a higher epoch keeps it (R59). -/
def applyEpoch (s : State) (slot lcid mid epoch : Nat) : State :=
  let sl := getSlot s slot
  if epoch < tabGet (fun _ => 0) sl.runEpoch lcid then s
  else applyRun (setSlot s slot { sl with runEpoch := tabSet (fun _ => 0) sl.runEpoch lcid epoch }) slot lcid mid

/-- The old host of a logical core no longer passes its traffic on (R62). -/
def endForward (s : State) (slot lcid : Nat) : State :=
  let sl := getSlot s slot
  setSlot s slot { sl with fwd := sl.fwd.filter (fun l => !(l == lcid)) }

/-- Every member has applied a change: the lead reports it to the old host (R62). -/
def pubDone (s : State) (u : RunPub) : State :=
  if u.old = ownModule s then endForward s u.slot u.lcid
  else sendHand s u.old opRunDone u.slot u.lcid u.epoch 0 []

/-- A member has applied the lead's changes of an entry, or has failed. -/
def pubAck (s : State) (mid : Nat) (p : RunPub → Bool) : State :=
  let l := s.part.pubs.map (fun u => if p u then { u with waits := u.waits.filter (fun m => !(m == mid)) } else u)
  (l.filter (fun u => u.waits.isEmpty)).foldl pubDone
    { s with part := { s.part with pubs := l.filter (fun u => !u.waits.isEmpty) } }

/-- The changed entry sent to every member (R62). -/
def publishRun (s : State) (slot lcid mid epoch old : Nat) : State :=
  let ms := otherMembers s slot
  let s := ms.foldl (fun s m => sendHand s m opRunTable slot lcid epoch 0 (leBytes 4 mid)) s
  let s := applyEpoch s slot lcid mid epoch
  let u : RunPub := { slot := slot, lcid := lcid, old := old, epoch := epoch, waits := ms.filter (fun m => !s.part.failedPeers.contains m) }
  if u.waits.isEmpty then pubDone s u else { s with part := { s.part with pubs := s.part.pubs ++ [u] } }

/-! ### The source (R58-R60) -/

/-- The local map and LOCAL_COUNT of a slot without an LCID. -/
def unmapLc (s : State) (slot lcid : Nat) : State :=
  let sl := getSlot s slot
  let l := sl.lmap.filter (fun e => !(e.lcid == lcid))
  setSlot s slot { sl with lmap := l, brec := { sl.brec with localCount := l.length } }

/-- A window access of another module passed on to a logical core's new host (R62); the answer goes back through this module. -/
def relayFab (s : State) (f : FabPkt) (mid : Nat) : State :=
  match sendReq s (.relay f) f.ctx 0 600 (fld f.target.toNat 0 24) { f with dst := mid, conf := false, sealed := [] } with
  | some s => s
  | none => s

/-- Traffic of the fabric held for an LCID goes on to its new host (R62). -/
def forwardFab (s : State) (slot lcid mid : Nat) : State :=
  let mine (f : FabPkt) : Bool := slotOfPid s f.pid == some slot && f.tkind == 1 && fld f.target.toNat 0 24 == lcid
  let l := s.part.heldFab.filter mine
  l.foldl (fun s f => relayFab s f mid)
    { s with part := { s.part with heldFab := s.part.heldFab.filter (fun f => !mine f) } }

/-- Remote window accesses of this module that wait for an LCID go on to its new host. -/
def forwardRem (s : State) (slot lcid mid : Nat) : State :=
  let mine (a : RemAcc) : Bool := a.target.lcid == lcid && (getCtx s a.target.ctx).slot == slot
  let l := s.rem.filter mine
  l.foldl (fun s a =>
    match findTen s a.issuer with
    | none => s
    | some x =>
      let st := a.store.isSome
      let p : FabPkt :=
        { dst := mid, vc := if st then 2 else vcFor 1 x.cls, kind := if st then 2 else 1,
          target := BitVec.ofNat 64 (lcid + a.off % 2 ^ 19 * 2 ^ 32), tkind := 1, cls := x.cls, len := a.len, data := a.store.getD [] }
      match sendReq s (if st then .posted a.issuer else .ten a.issuer a.reg a.vec) x.ctx x.core x.core lcid p with
      | some s => s
      | none => coreFault x 0x2B st x.pc 0 s) { s with rem := s.rem.filter (fun a => !mine a) }

/-- A flush marker sent on (R62): to the new host with the member that sent it in TAG, or as the report to that member. -/
def putFlush (s : State) (f : FabPkt) (dst tag : Nat) : State :=
  sendFor s { dst := dst, vc := f.vc, kind := 9, src := ownModule s, lane := laneOf (match slotOfPid s f.pid with | some i => lcUnit s i (fld f.tag.toNat 0 24) | none => 600) (fld f.tag.toNat 0 24), pid := f.pid, pgen := f.pgen,
              tag := BitVec.ofNat 64 tag }

/-- A flush marker at the old host: passed on to the new one. -/
def passFlush (s : State) (f : FabPkt) (mid : Nat) : State :=
  let org := fld f.tag.toNat 32 16
  putFlush s f mid (fld f.tag.toNat 0 24 + (if org = 0 then f.src + 1 else org) * 2 ^ 32)

/-- A flush marker at the logical core's host: reported to the member that sent it. -/
def reportFlush (s : State) (f : FabPkt) : State :=
  let org := fld f.tag.toNat 32 16
  putFlush s f (if org = 0 then f.src else org - 1) (fld f.tag.toNat 0 24)

/-- Flush markers that came while a logical core was moved go on to its new host, or are reported where it stays. -/
def passFlushes (s : State) (slot lcid mid : Nat) : State :=
  let mine (e : Nat × FabPkt) : Bool := e.1 == slot && fld e.2.tag.toNat 0 24 == lcid
  (s.part.heldFlush.filter mine).foldl (fun s e => if mid = ownModule s then reportFlush s e.2 else passFlush s e.2 mid)
    { s with part := { s.part with heldFlush := s.part.heldFlush.filter (fun e => !mine e) } }

/-- Faulted transfers of a logical core that has gone leave their fault-queue entries (spec/08 R237). -/
def faultsGo (s : State) (slot lcid : Nat) : State :=
  fqLeave s (fun f => match f with
    | .xfer t _ => t.lcid == lcid && (getCtx s t.ctx).slot == slot
    | _ => false)

/-- The source's end after the commit (R59, R62): the saved copy is freed, samples of it are abandoned (spec/11 R316),
held traffic goes to the new host, the PART_REBIND completes. -/
def sourceFinish (s : State) (m : Moving) : State :=
  let s := faultsGo (dropEntries s m.srcCore (entryOn s m.slot m.lcid)) m.slot m.lcid
  let s := (lcidTens s m.slot m.lcid).foldl (fun s x => abandonSample x s) s
  let s := { s with tens := s.tens.filter (fun x => !(x.slot == m.slot && x.lcid == m.lcid)) }
  let s := hostPut (unmapLc (dropMoving s m.slot m.lcid) m.slot m.lcid) m.slot m.lcid m.dstMod
  let sl := getSlot s m.slot
  let s := setSlot s m.slot { sl with fwd := (sl.fwd ++ [m.lcid]).eraseDups, runEpoch := tabSet (fun _ => 0) sl.runEpoch m.lcid m.epoch }
  let s := m.held.foldl (fun s e => sendEntry s m.slot m.dstMod e) s
  let s := forwardFab (forwardRem s m.slot m.lcid m.dstMod) m.slot m.lcid m.dstMod
  let s := passFlushes s m.slot m.lcid m.dstMod
  match m.id with
  | some id => finishStatus id stOk s
  | none => s

/-- The source restores the logical core on its own core and completes with a status (R60, R61). -/
def sourceRestore (s : State) (m : Moving) (status : Nat) : State :=
  moveLand (passFlushes s m.slot m.lcid (ownModule s)) (homeward s m status)

/-- A move that never saved anything ends: held traffic is released and the command completes. -/
def moveDrop (s : State) (m : Moving) (status : Nat) : State :=
  moveComplete (passFlushes s m.slot m.lcid (ownModule s)) (homeward s m status)

/-- An answer of the lead to the source's message `op` (R58, R60). -/
def sourceReply (s : State) (slot lcid op status v : Nat) : State :=
  match movingOf s slot lcid with
  | none => s
  | some m =>
    if op = 0x91 ∧ m.st = 10 then
      if status = stOk then moveSaved (saveLcid (setMoving s { m with st := 15, epoch := v, tries := 0 }) slot lcid) slot lcid
      else moveDrop s m status
    else if op = 0x94 ∧ m.st = 13 then
      if status = stOk then sourceFinish s m else sourceRestore s m stRetry
    else if op = 0x95 ∧ m.st = 14 then
      if status = stOk then sourceRestore s m m.status else sourceFinish s m
    else s

/-! ### The destination (R53 step 1, R58, R59) -/

/-- The fold positions of a core that no logical core has or is moving to. -/
def freeFolds (s : State) (slot c : Nat) : List Nat :=
  (List.range 4).filter (fun f => !(getSlot s slot).lmap.any (fun e => e.core == c && e.fold == f)
    && !s.part.moving.any (fun m => m.slot == slot && m.dstCore == c && m.fold == f && decide (m.st ≠ 20) && decide (m.dstMod = ownModule s))
    && !s.part.offers.any (fun o => o.slot == slot && o.core == c && o.fold == f))

/-- Save units that tenancies moving to a core will need beside those it has. -/
def unitsComing (s : State) (c : Nat) : Nat :=
  ((s.tens.filter (fun x => !(x.core == c) && s.part.moving.any (fun m => m.slot == x.slot && m.lcid == x.lcid && m.dstCore == c
    && decide (m.st ≠ 20) && decide (m.dstMod = ownModule s)))).map (fun x => x.foot)).sum
  + ((s.part.offers.filter (fun o => o.core == c)).map (fun o => numAt o.data 8 4)).sum

/-- Step 1 of R53: the destination core is in the core set and READY with a free fold, and has the save units. -/
def placeCheck (s : State) (slot : Nat) (core : Option Nat) (fold units : Nat) : Option Nat :=
  match core with
  | none => some stDenied
  | some c =>
    if !(getSlot s slot).brec.cores.contains c || !coreReady s c || !(freeFolds s slot c).contains fold then some stDenied
    else if 16 < unitsUsed s c + unitsComing s c + units then some stBusy
    else none

def setOffer (s : State) (o : Offer) : State :=
  { s with part := { s.part with offers := s.part.offers.map (fun x => if x.slot == o.slot && x.lcid == o.lcid then o else x) } }

def dropOffer (s : State) (slot lcid : Nat) : State :=
  { s with part := { s.part with offers := s.part.offers.filter (fun x => !(x.slot == slot && x.lcid == lcid)) } }

/-- The offer that a destination holds for an epoch. -/
def offerOf (s : State) (slot lcid epoch : Nat) : Option Offer :=
  s.part.offers.find? (fun o => o.slot == slot && o.lcid == lcid && o.epoch == epoch)

/-- MOVE_COMMIT at the destination (R59): it owns the logical core now and restores it. Work of contexts that are not LIVE
here is discarded (spec/11 R320); contexts are numbered alike on every member and have each module's own generation. A
transfer that had faulted checks again (spec/08 R237). -/
def destCommit (s : State) (slot lcid epoch : Nat) : State :=
  match offerOf s slot lcid epoch with
  | none => s
  | some o =>
    if !o.good then s
    else
      let (ts, es) := lcidParts s o.src slot o.core o.fold o.data
      let live (c : Nat) : Bool := decide ((getCtx s c).st = 1) && (getCtx s c).slot == slot
      let ts := (ts.filter (fun x => live x.ctx)).map (fun x =>
        { x with cgen := (getCtx s x.ctx).gen, xf := x.xf.map (fun f => { f with faulted := false, srcFault := false }) })
      let es := (es.filter (fun e => live e.ctx)).map (fun e => { e with cgen := (getCtx s e.ctx).gen })
      let s := dropOffer s slot lcid
      let sl := getSlot s slot
      let l := sl.lmap ++ [{ lcid := lcid, core := o.core, fold := o.fold }]
      let s := setSlot s slot { sl with lmap := l, brec := { sl.brec with localCount := l.length },
                                        fwd := sl.fwd.filter (fun k => !(k == lcid)), runEpoch := tabSet (fun _ => 0) sl.runEpoch lcid epoch }
      let s := landTens { (hostPut s slot lcid (ownModule s)) with tens := s.tens ++ ts } slot lcid o.core o.fold
      es.foldl (fun s e => enqueue s o.core e) s

/-- MOVE_ABORT at the destination: its copy is discarded. -/
def destAbort (s : State) (slot lcid epoch : Nat) : State :=
  match offerOf s slot lcid epoch with
  | some _ => dropOffer s slot lcid
  | none => s

/-! ### The lead (R57, R58) -/

/-- The ownership record of an LCID; before any handoff the owner is the run table's. -/
def ownRec (s : State) (slot lcid : Nat) : OwnRec :=
  let r := tabGet (fun _ => {}) (getSlot s slot).own lcid
  if r.owner = 16384 then { r with owner := (hostOf (getSlot s slot) lcid).getD (ownModule s) } else r

def setOwnRec (s : State) (slot lcid : Nat) (r : OwnRec) : State :=
  let sl := getSlot s slot
  setSlot s slot { sl with own := tabSet (fun _ => {}) sl.own lcid r, epochCtr := max sl.epochCtr r.epoch }

def epochCode : EpochSt → Nat
  | .opened => 1
  | .accepted => 2
  | .committed => 3
  | .aborted => 0

/-- A record as the deputy receives it, and back. -/
def recBytes (r : OwnRec) : List Byte :=
  leBytes 4 r.owner ++ leBytes 4 r.src ++ leBytes 4 r.dst ++ leBytes 4 (epochCode r.st) ++ leBytes 8 r.highest ++ leBytes 8 r.epoch

def recOf (l : List Byte) : OwnRec :=
  { owner := numAt l 0 4, src := numAt l 4 4, dst := numAt l 8 4, highest := numAt l 16 8, epoch := numAt l 24 8,
    st := match numAt l 12 4 with | 1 => .opened | 2 => .accepted | 3 => .committed | _ => .aborted }

/-- Whether an epoch is open for a record. -/
def epochOpen (r : OwnRec) : Bool := r.st == .opened || r.st == .accepted

/-- Whether a change of a record waits for the deputy. -/
def actPending (s : State) (slot lcid : Nat) : Option OwnAct := s.part.ownActs.find? (fun a => a.slot == slot && a.lcid == lcid)

/-- A record sent to a module for its copy. -/
def sendRec (s : State) (slot lcid mid : Nat) : State :=
  sendHand s mid opOwnRecord slot lcid 0 0 (recBytes (ownRec s slot lcid))

/-- Every record of a slot sent to a module (R61: a new deputy). -/
def copyRecs (s : State) (slot mid : Nat) : State :=
  if mid = ownModule s then s else (getSlot s slot).own.foldl (fun s e => sendRec s slot e.1 mid) s

/-- A handoff message from the lead to the destination. -/
def tellDest (s : State) (slot lcid mid op epoch : Nat) : State :=
  if mid = ownModule s then (if op = 0x94 then destCommit s slot lcid epoch else destAbort s slot lcid epoch)
  else
    let u : LeadTell := { slot := slot, lcid := lcid, mid := mid, op := op, epoch := epoch }
    sendHand { s with part := { s.part with tells := s.part.tells.filter (fun v => !(v.slot == slot && v.lcid == lcid && v.mid == mid)) ++ [u] } }
      mid op slot lcid epoch 0 []

/-- The lead's reply to a message. -/
def leadReply (s : State) (slot lcid : Nat) (q : QRef) (p : Pkt) (status v : Nat) (payload : List Byte) : State :=
  match q with
  | .fabric mid _ _ =>
    if mid = ownModule s then sourceReply s slot lcid p.opcode status v
    else sendReply q p { replyTo p status with w6 := BitVec.ofNat 32 v, w7 := BitVec.ofNat 32 (v / 2 ^ 32), payload := payload } s
  | _ => s

/-- What follows a record's change once the deputy holds it. -/
def runAct (s : State) (a : OwnAct) : State :=
  let s := leadReply s a.slot a.lcid a.q a.pkt a.status a.epoch []
  let s := match a.tell with
    | some (mid, op) => tellDest s a.slot a.lcid mid op a.epoch
    | none => s
  let r := ownRec s a.slot a.lcid
  if a.publish then publishRun s a.slot a.lcid r.owner r.epoch r.src else s

/-- A record changed: written to the deputy, and acted on when it has acknowledged; at once where there is no other deputy
(R57). -/
def leadChange (s : State) (r : OwnRec) (a : OwnAct) : State :=
  let s := setOwnRec s a.slot a.lcid r
  let d := (getSlot s a.slot).brec.deputy
  if d = ownModule s ∨ s.part.failedPeers.contains d then runAct s a
  else sendRec { s with part := { s.part with ownActs := s.part.ownActs ++ [a] } } a.slot a.lcid d

/-- The deputy has acknowledged. -/
def deputyAck (s : State) (slot lcid : Nat) : State :=
  match actPending s slot lcid with
  | none => s
  | some a => runAct { s with part := { s.part with ownActs := s.part.ownActs.erase a } } a

/-- The module that sent a message. -/
def senderOf (s : State) (q : QRef) : Nat :=
  match q with
  | .fabric mid _ _ => mid
  | _ => ownModule s

/-- A handoff message at the lead (R58). A message, OWNER_QUERY among them, that meets a change still on its way to the
deputy is answered by its repeat, and so is a MOVE_COMMIT of an epoch that is still OPEN (R58 does not say: DESIGN CHOICE,
notes/assumptions/46.md). -/
def leadDo (s : State) (slot : Nat) (q : QRef) (p : Pkt) : State :=
  let lcid := fld p.w5.toNat 0 24
  let v := opB p
  let r := ownRec s slot lcid
  let sender := senderOf s q
  let reply (status e : Nat) : State := leadReply s slot lcid q p status e []
  let act (status e : Nat) (tell : Option (Nat × Nat)) (pub : Bool) : OwnAct :=
    { slot := slot, lcid := lcid, q := q, pkt := p, status := status, epoch := e, tell := tell, publish := pub }
  if (actPending s slot lcid).isSome then s
  else if p.opcode = 0x96 then
    leadReply s slot lcid q p stOk (r.owner + r.highest % 2 ^ 32 * 2 ^ 32) (leBytes 8 r.highest)
  else if p.opcode = 0x91 then
    let dst := v % 2 ^ 14
    if epochOpen r then (if r.st = .opened ∧ r.src = sender ∧ r.dst = dst then reply stOk r.epoch else reply stBusy 0)
    else if r.owner ≠ sender ∨ (hostOf (getSlot s slot) lcid).isNone then reply stEpoch 0
    else
      let e := (getSlot s slot).epochCtr + 1
      leadChange s { r with epoch := e, src := sender, dst := dst, st := .opened } (act stOk e none false)
  else if p.opcode = 0x93 then
    if r.epoch = v ∧ r.st = .opened then leadChange s { r with st := .accepted } (act stOk v none false)
    else if r.epoch = v ∧ r.st ≠ .aborted then reply stOk v
    else reply stEpoch v
  else if p.opcode = 0x94 then
    if r.epoch = v ∧ r.st = .accepted then
      leadChange s { r with owner := r.dst, highest := v, st := .committed } (act stOk v (some (r.dst, 0x94)) true)
    else if r.epoch = v ∧ r.st = .opened then s
    else if r.highest = v then reply stOk v
    else reply stEpoch v
  else if p.opcode = 0x95 then
    if r.epoch = v ∧ epochOpen r then leadChange s { r with st := .aborted } (act stOk v (some (r.dst, 0x95)) false)
    else if r.highest = v then reply stEpoch v
    else reply stOk v
  else s

/-- The module that stands for the lead: the deputy where the lead has failed (R60, R61). -/
def leadFor (s : State) (slot : Nat) : Nat :=
  let b := (getSlot s slot).brec
  if s.part.failedPeers.contains b.lead then b.deputy else b.lead

/-- A message of the source or the destination to the lead. -/
def tellLead (s : State) (slot lcid op v : Nat) : State :=
  let m := leadFor s slot
  if m = ownModule s then
    leadDo s slot (.fabric (ownModule s) (getSlot s slot).brec.pid (getSlot s slot).pgen.toNat) (handPkt s op slot lcid v 0 [])
  else sendHand s m op slot lcid v 0 []

/-- The source gives a handoff up (R60). -/
def sourceAbort (s : State) (m : Moving) (status : Nat) : State :=
  tellLead (setMoving s { m with st := 14, tries := 0, status := status }) m.slot m.lcid 0x95 m.epoch

/-- A move stops before its point of no return (spec/11 R320). -/
def moveStop (s : State) (m : Moving) (status : Nat) : State :=
  if m.id.isNone then s
  else if m.st = 1 ∨ m.st = 10 then moveDrop s m status
  else if m.st = 2 then moveSaved (setMoving s (homeward s m status)) m.slot m.lcid
  else if m.st = 15 then
    let s := tellLead s m.slot m.lcid 0x95 m.epoch
    moveSaved (setMoving s { (homeward s m status) with st := 2 }) m.slot m.lcid
  else if m.st = 11 then sourceAbort s m status
  else s

end Sys2Proof.Machine
end

