-- ==== Sys2Proof/Machine/CoreEvents.lean ====
section
/-! DEFINITION. What happens on cores beside instructions: dispatch-queue entries start (spec/04 R103-R108), slices,
preemption and eviction (R109-R112), the ends of saves and restores (R114, R118), core faults and spare substitution
(spec/11 R311, R312), and the verdicts of winnow replay (R316, R317). -/
namespace Sys2Proof.Machine

/-! ### Dispatch-queue entries (R103-R108) -/

/-- Whether a core serves its queue. -/
def coreServes (s : State) (c : Nat) : Bool :=
  coreReady s c && !(getCore s c).halted && decide (halfPwr s (halfOfCore c) = 0) && !s.res.fenced.contains (halfOfCore c) && decide (s.dev.phase = .ready)

/-- Whether an entry's generation no longer matches its context (R108, R47). -/
def entryStale (s : State) (e : DqEntry) : Bool := decide ((getCtx s e.ctx).gen ≠ e.cgen)

/-- Whether a core is scrubbed of every context but one (R107, spec/11 R317). -/
def scrubbedFor (s : State) (c ctx : Nat) : Bool :=
  match (getCore s c).confCtx with | none => true | some k => k == ctx

/-- Whether a core may hold a tenancy of a context (R107): on a core of a confidential slot every tenancy belongs to one
context; a core without tenancies is scrubbed of the last confidential context, and of the last replica's. -/
def confAllows (s : State) (c slot ctx : Nat) : Bool :=
  (!(getSlot s slot).brec.conf || (onCore s c).all (fun x => x.ctx == ctx))
    && (!(onCore s c).isEmpty || scrubbedFor s c ctx)

/-- A candidate that saves under way freed bays for is started, and no longer kept. -/
def unkeep (s : State) (c : Nat) (t : TenRef) : State :=
  let x := getCore s c
  setCore s c { x with keeps := x.keeps.filter (fun u => !(u == t)) }

/-- Bays of a core that saves freed or are freeing for the candidates that it keeps them for (R109-R111), and that do not need them
no more. -/
def keptBays (s : State) (c : Nat) : List TenRef → List Nat
  | [] => []
  | t :: l =>
    let taken := keptBays s c l
    let foot := match findTen s t with
      | some x => if x.core ≠ c ∨ bayOf x ≠ none then 0 else x.foot
      | none => (((getCore s c).queue.find? (fun e => e.lcid == t.lcid && e.ctx == t.ctx)).map (fun e => e.foot)).getD 0
    if foot = 0 then taken
    else match (groupsOf foot).find? (fun g => (groupBays g foot).all (fun b => !taken.contains b)
        && (onCore s c).all (fun x => !inGroup x g foot || (match x.loc with | .saving _ => true | _ => false))) with
      | some g => taken ++ groupBays g foot
      | none => taken

/-- The free groups of a footprint that a tenancy or entry may take: not those kept for another. -/
def groupsFor (s : State) (c foot : Nat) (t : TenRef) : List Nat :=
  let kept := keptBays s c ((getCore s c).keeps.filter (fun u => !(u == t))).reverse
  (freeGroups s c foot).filter (fun g => (groupBays g foot).all (fun b => !kept.contains b))

/-- Whether an entry could start but for bays: it is the first of its pair, its context is LIVE, its logical core is not
moving, no kernel of its tenancy runs, and the tenancy exists or save units allow it. -/
def entryReady (s : State) (c : Nat) (before : List DqEntry) (e : DqEntry) : Bool :=
  decide ((getCtx s e.ctx).st = 1) && !entryStale s e && !before.any (fun d => d.lcid == e.lcid && d.ctx == e.ctx)
    && (movingOf s (getCtx s e.ctx).slot e.lcid).isNone
    && (match findTen s ⟨e.lcid, e.ctx⟩ with
        | some x => !x.running && (isResident x || x.loc == .swapped)
        | none => decide (unitsUsed s c + e.foot ≤ 16) && confAllows s c (getCtx s e.ctx).slot e.ctx)

/-- Whether a ready entry has bays: its tenancy is resident, or a group of its footprint is free. -/
def entryFits (s : State) (c : Nat) (e : DqEntry) : Bool :=
  match findTen s ⟨e.lcid, e.ctx⟩ with
  | some x => isResident x || decide (x.foot ≠ e.foot) || !(groupsFor s c x.foot (refOf x)).isEmpty
  | none => !(groupsFor s c e.foot ⟨e.lcid, e.ctx⟩).isEmpty

/-- The entries of a queue that satisfy a test of the entries before them and of themselves, oldest first. -/
def entriesWhere (p : List DqEntry → DqEntry → Bool) : List DqEntry → List DqEntry → List DqEntry
  | _, [] => []
  | before, e :: t => if p before e then e :: entriesWhere p (before ++ [e]) t else entriesWhere p (before ++ [e]) t

/-- An entry leaves the queue, and one that waits for room takes its place. -/
def takeEntry (s : State) (c : Nat) (e : DqEntry) : State :=
  let x := getCore s c
  refill (setCore s c { x with queue := x.queue.erase e }) c

/-- Stale entries leave unstarted, each chaff (R108, R47). -/
def dropStale (s : State) (c : Nat) : State :=
  ((getCore s c).queue.filter (entryStale s)).foldl (fun s e => addChaff (takeEntry s c e) (getCtx s e.ctx).slot) s

/-- A kernel's start on a tenancy: X1 to X4 the arguments, the other registers zero, the window, banks, modes and grid
bytes as they are (R105). -/
def kernelStart (x : Ten) (e : DqEntry) : Ten :=
  let regs := tabSetAll (fun _ => 0) [] [(1, e.x1), (2, e.x2), (3, e.x3), (4, e.x4)]
  { x with x := regs, v := [], p := [], pc := e.entry, running := true, wait := .none, cls := e.cls, run := e.run,
           incarn := e.incarn, grp := e.grp, remote := e.remote, kovf := false, sample := none }

/-- A new tenancy in a group (R105). -/
def newTen (s : State) (c g : Nat) (e : DqEntry) : Ten :=
  let slot := (getCtx s e.ctx).slot
  { lcid := e.lcid, ctx := e.ctx, cgen := e.cgen, slot := slot, foot := e.foot, cls := e.cls, core := c,
    fold := ((lmapOf (getSlot s slot) e.lcid).map (fun m => m.fold)).getD 0, loc := .resident g, since := s.dev.now }

/-- Whether a core runs the replica of a sample. -/
def replicaOn (s : State) (c : Nat) : Bool := s.tens.any (fun x => match x.sample with | some k => k.replica == c | none => false)

/-- A core whose storage is scrubbed of what its last context left (R107). -/
def scrubbedCore (c : CoreSt) : CoreSt := { c with confCtx := none, icache := [] }

/-- Idle spare cores of a half: READY, held by no slot, not a substitute under way, no replica on them. -/
def idleSpares (s : State) (half : Nat) : List Nat :=
  (spareCores s).filter (fun c => halfOfCore c == half
    && !(s.units.subst.any (fun u => u.sub == some c)) && !replicaOn s c)

/-- A spare core runs a replica of a context, and is to be scrubbed of it (R317). -/
def useSpare (s : State) (c ctx : Nat) : State := setCore s c { getCore s c with confCtx := some ctx }

/-- Winnow replay samples a kernel where its class, the scale class, a spare and the half's eight samples allow (R316). -/
def takeSample (s : State) (x : Ten) : State :=
  let half := halfOfCore x.core
  let n := (s.tens.filter (fun y => y.sample.isSome && halfOfCore y.core == half)).length
  if s.res.scale.toNat < 2 ∨ (x.cls = 7 ∧ !s.res.winnow7) ∨ 8 ≤ n then s
  else match pickOne ((idleSpares s half).filter (fun c => scrubbedFor s c x.ctx)) s with
    | (none, s) => s
    | (some c, s) => setTen (useSpare s c x.ctx) { x with sample := some { replica := c, image := tenImage s x } }

/-- An entry's kernel starts on a tenancy that is resident. -/
def startEntry (s : State) (c : Nat) (e : DqEntry) (x : Ten) (sample : Bool) : State :=
  let y := kernelStart x e
  let s := unkeep (setTen (takeEntry s c e) y) c (refOf x)
  let s := if (getSlot s x.slot).brec.conf then setCore s c { getCore s c with confCtx := some x.ctx } else s
  if sample then takeSample s y else s

/-- A fatal record for an entry that names no instruction: the spec states no ADDR and no WHERE for it, so both are free
values (notes/assumptions/5.md). -/
def entryFault (s : State) (c : Nat) (e : DqEntry) (cause : Nat) : State :=
  let (a, s) := takeFree s
  let (w, s) := takeFree s
  loseCause (fatalFault s cause 3 e.ctx false a w e.lcid (halfOfCore c) 0) s

/-- A swapped tenancy's restore into a group begins. -/
def beginRestore (s : State) (x : Ten) (g : Nat) : State := unkeep (setTen s { x with loc := .restoring g }) x.core (refOf x)

/-- DISPATCH_ENTRY_START (R108): the oldest entry that can start; `sample` is the choice of winnow replay's generator. A
swapped tenancy is restored first, and its entry stays. -/
def execDispatchEntryStart (core : Nat) (sample : Bool) (s : State) : Host.Outcome State Fault Refusal :=
  if !coreServes s core then .next s
  else
    let s := dropStale s core
    match entriesWhere (fun b e => entryReady s core b e && entryFits s core e) [] (getCore s core).queue with
    | [] => .next s
    | e :: _ =>
      match findTen s ⟨e.lcid, e.ctx⟩ with
      | some x =>
        if x.foot ≠ e.foot then .next (entryFault s core e 0x30)
        else if isResident x then .next (startEntry s core e x sample)
        else match pickOne (groupsFor s core x.foot (refOf x)) s with
          | (some g, s) => .next (beginRestore s x g)
          | (none, s) => .next s
      | none =>
        match pickOne (groupsFor s core e.foot ⟨e.lcid, e.ctx⟩) s with
        | (some g, s) =>
          let x := newTen s core g e
          .next (startEntry { s with tens := s.tens ++ [x] } core e x sample)
        | (none, s) => .next s

/-- TENANCY_EXHAUSTED (R106): the oldest entry whose new tenancy has waited for save units loses its context. -/
def execTenancyExhausted (core : Nat) (s : State) : Host.Outcome State Fault Refusal :=
  match (entriesWhere (fun b e => !b.any (fun d => d.lcid == e.lcid && d.ctx == e.ctx) && !entryStale s e
      && (findTen s ⟨e.lcid, e.ctx⟩).isNone && decide (16 < unitsUsed s core + e.foot)) [] (getCore s core).queue) with
  | [] => .next s
  | e :: _ => .next (entryFault s core e 0x31)

/-- CONF_CORE_SCRUB (R107): a core that holds no tenancy is scrubbed of the context it last held. -/
def execConfCoreScrub (core : Nat) (s : State) : Host.Outcome State Fault Refusal :=
  if (onCore s core).isEmpty ∧ (getCore s core).confCtx.isSome ∧ !replicaOn s core then .next (setCore s core (scrubbedCore (getCore s core)))
  else .next s

/-! ### Candidates for bays (R109) -/

/-- Something runnable that needs bays: a swapped tenancy, or a queue entry. -/
structure Cand where
  cls : Nat
  since : Nat
  lcid : Nat
  ctx : Nat
  foot : Nat
  ten : Bool
deriving DecidableEq, Repr

/-- The order of R109: class 7 first, then runnable for longest, then the lower LCID, then the lower context. -/
def candBefore (a b : Cand) : Bool :=
  let k (c : Cand) : List Nat := [b2n (c.cls != 7), c.since, c.lcid, c.ctx]
  decide (k a < k b)

/-- The runnable things of a core that need bays. -/
def candsOf (s : State) (c : Nat) : List Cand :=
  ((onCore s c).filter (fun x => isRunnable x && (movingOf s x.slot x.lcid).isNone)).map
      (fun x => { cls := x.cls, since := x.since, lcid := x.lcid, ctx := x.ctx, foot := x.foot, ten := true })
    ++ (entriesWhere (fun b e => entryReady s c b e
          && (match findTen s ⟨e.lcid, e.ctx⟩ with | some x => !isResident x | none => true)) [] (getCore s c).queue).map
      (fun e => { cls := e.cls, since := e.since, lcid := e.lcid, ctx := e.ctx, foot := e.foot, ten := false })

/-- The first of some candidates in the order of R109. -/
def firstCand : List Cand → Option Cand
  | [] => none
  | a :: t => match firstCand t with
    | none => some a
    | some b => if candBefore b a then some b else some a

/-- The groups of a footprint that are free or become free by saves under way, apart from bays that are spoken for. -/
def comingGroups (s : State) (c foot : Nat) (taken : List Nat) : List Nat :=
  (groupsOf foot).filter (fun g => (groupBays g foot).all (fun b => !taken.contains b)
    && (onCore s c).all (fun x => !inGroup x g foot || (match x.loc with | .saving _ => true | _ => false)))

/-- The first candidate, in the order of R109, that finds no group after those before it have taken theirs; `n` bounds them. -/
def starvedOf (s : State) (c : Nat) : Nat → List Nat → List Cand → (Cand → Bool) → Option Cand
  | 0, _, _, _ => none
  | n + 1, taken, l, p =>
    match firstCand l with
    | none => none
    | some k =>
      match comingGroups s c k.foot taken with
      | g :: _ => starvedOf s c n (taken ++ groupBays g k.foot) (l.erase k) p
      | [] => if p k then some k else starvedOf s c n taken (l.erase k) p

/-- The candidate of a core that cannot start for want of bays, saves under way counted (R109-R111). -/
def starved (s : State) (c : Nat) (p : Cand → Bool) : Option Cand :=
  let l := candsOf s c
  starvedOf s c l.length [] l p

/-- On a confidential slot's core, preemption and eviction do not act between contexts (R107). -/
def sameCtx (s : State) (c : Nat) (k : Cand) : Bool :=
  (onCore s c).all (fun x => x.ctx == k.ctx || !(getSlot s x.slot).brec.conf)

/-- Every resident tenancy of a group is saved. -/
def saveGroup (s : State) (c g foot : Nat) (why : SaveWhy) : State :=
  ((onCore s c).filter (fun x => isResident x && inGroup x g foot)).foldl (fun s x => beginSave s (refOf x) why) s

/-- The bays that saves under way free are kept for the candidate they are made for. -/
def keepFor (s : State) (c : Nat) (k : Cand) : State :=
  let x := getCore s c
  setCore s c { x with keeps := x.keeps.filter (fun u => !(u == ⟨k.lcid, k.ctx⟩)) ++ [⟨k.lcid, k.ctx⟩] }

/-- SLICE_EXPIRY (R109): a new slice starts where nothing waits, else the tenancy and the group that the candidate needs
are preempted. -/
def execSliceExpiry (t : TenRef) (s : State) : Host.Outcome State Fault Refusal :=
  match findTen s t with
  | none => .next s
  | some x => match x.loc with
    | .resident b =>
      match starved s x.core (fun _ => true) with
      | none => .next (setTen s { x with sliceUsed := 0, since := s.dev.now })
      | some k => .next (keepFor (beginSave (saveGroup s x.core (b - b % k.foot) k.foot .preempt) t .preempt) x.core k)
    | _ => .next s

/-- Save units of the resident tenancies of a group. -/
def groupUnits (s : State) (c g foot : Nat) : Nat :=
  (((onCore s c).filter (fun x => isResident x && inGroup x g foot)).map (fun x => x.foot)).sum

/-- The group that a class-7 candidate preempts: without a class-7 tenancy, nothing being restored into it, its residents with
the fewest save units. -/
def preemptGroup (s : State) (core : Nat) (k : Cand) : Option Nat :=
  let ok := (groupsOf k.foot).filter (fun g => (onCore s core).all (fun x =>
    !inGroup x g k.foot || (decide (x.cls ≠ 7) && (match x.loc with | .restoring _ => false | _ => true))))
  (cheapest (ok.map (fun g => (groupUnits s core g k.foot, g)))).map (·.2)

/-- CLASS7_PREEMPT (R110): the group without a class-7 tenancy whose residents have the fewest save units is preempted. -/
def execClass7Preempt (core : Nat) (s : State) : Host.Outcome State Fault Refusal :=
  if !coreServes s core then .next s
  else match starved s core (fun k => k.cls == 7 && sameCtx s core k) with
    | none => .next s
    | some k => match preemptGroup s core k with
      | none => .next s
      | some g => .next (keepFor (saveGroup s core g k.foot .preempt) core k)

/-- The group that a candidate evicts: its tenancies are all among the blocked ones, and its longest has been blocked longest. -/
def evictGroup (s : State) (core : Nat) (blocked : List TenRef) (k : Cand) : Option Nat :=
  let bl := blocked.filter (fun t => match findTen s t with | some x => x.core == core && isBlocked x | none => false)
  let inG (g : Nat) : List Ten := (onCore s core).filter (fun x => inGroup x g k.foot)
  let ok := (groupsOf k.foot).filter (fun g => !(inG g).isEmpty && (inG g).all (fun x => bl.contains (refOf x)))
  let rank (g : Nat) : Nat := (bl.findIdx? (fun t => (inG g).any (fun x => refOf x == t))).getD bl.length
  (cheapest (ok.map (fun g => (rank g, g)))).map (·.2)

/-- BLOCKED_EVICT (R111): `blocked` names the tenancies that have been blocked for 50 µs, the longest first. The group
whose residents are all among them and whose longest has been blocked longest is evicted. -/
def execBlockedEvict (core : Nat) (blocked : List TenRef) (s : State) : Host.Outcome State Fault Refusal :=
  if !coreServes s core then .next s
  else match starved s core (sameCtx s core) with
    | none => .next s
    | some k => match evictGroup s core blocked k with
      | none => .next s
      | some g => .next (keepFor (saveGroup s core g k.foot .evict) core k)

/-! ### The ends of saves and restores (R114, R118) -/

/-- The candidate that starts next: one that bays are kept for, the oldest of them, else the first of R109. -/
def nextCand (s : State) (c : Nat) : Option Cand :=
  let l := candsOf s c
  match (getCore s c).keeps.findSome? (fun t => l.find? (fun k => k.lcid == t.lcid && k.ctx == t.ctx)) with
  | some k => some k
  | none => firstCand l

/-- After a save has freed bays, the next candidate starts: a swapped tenancy's restore begins; an entry starts by
DISPATCH_ENTRY_START. -/
def startCand (s : State) (c : Nat) : State :=
  match nextCand s c with
  | none => s
  | some k =>
    if !k.ten then s
    else match findTen s ⟨k.lcid, k.ctx⟩, pickOne (groupsFor s c k.foot ⟨k.lcid, k.ctx⟩) s with
      | some x, (some g, s) => beginRestore s x g
      | _, _ => s

/-- A tenancy whose image is written: swapped, with the fold position and the core's binding generation of the image (R113). -/
def swappedTen (s : State) (x : Ten) : Ten :=
  { x with loc := .swapped, since := s.dev.now, savedFold := x.fold, savedBgen := unitGen s ⟨0, x.core⟩ }

/-- A tenancy whose image is in a group again; a gather entry is read again (spec/05 R145). What its slice had left it goes on with; a slice that was used up begins anew
(notes/assumptions/14.md). -/
def residentTen (s : State) (x : Ten) (g : Nat) : Ten :=
  { x with loc := .resident g, saved := .none, since := s.dev.now,
           xf := x.xf.map (fun f => { f with gat := none }),
           sliceUsed := if max 10 (getCore s x.core).slice.toNat ≤ x.sliceUsed.toNat then 0 else x.sliceUsed }

/-- TENANCY_SAVE_DONE (R114): the image is written and the bays are free, once the requests that the tenancy's
transfers and instructions sent have been answered (R112, R117); of a saved tenancy, a handoff that waited for such an answer
goes on. An uncorrectable word of an array that is saved loses the context, and the image with it
(spec/11 R307). -/
def execTenancySaveDone (t : TenRef) (e : EccSeen) (s : State) : Host.Outcome State Fault Refusal :=
  match findTen s t with
  | none => .next s
  | some x => match x.loc with
    | .saving _ =>
      if requestPending s t then .next s
      else if e = .uncorrectable then .next (sramSeen x e s)
      else
        let s := setTen (sramSeen x e s) (swappedTen s x)
        let c := getCore s x.core
        let s := match x.saved with
          | .preempt => setCore s x.core { c with preemptCnt := c.preemptCnt + 1 }
          | .evict => setCore s x.core { c with evictCnt := c.evictCnt + 1 }
          | _ => s
        let s := moveSaved s x.slot x.lcid
        .next (if (movingOf s x.slot x.lcid).isSome then s else startCand s x.core)
    | .swapped => .next (match movingOf s x.slot x.lcid with
        | some m => if m.st = 15 then moveSaved s x.slot x.lcid else s
        | none => s)
    | _ => .next s

/-- A restored tenancy goes on: its transfers' descriptors are read again and checked (R118). -/
def resume (s : State) (t : TenRef) : State :=
  match findTen s t with
  | none => s
  | some x =>
    match x.xf.find? (fun f => f.valid && decide (descCrc x f.descOff ≠ f.crc)) with
    | some f => loseCause (xferFault s x f 0x27 1 true 0 f.doneEl) s
    | none => tenGo s t

/-- Whether a swapped tenancy is the first, in the order of R109, of the candidates that have a free group. -/
def restoresNext (s : State) (x : Ten) : Bool :=
  match firstCand ((candsOf s x.core).filter (fun k => !(groupsFor s x.core k.foot ⟨k.lcid, k.ctx⟩).isEmpty)) with
  | some k => k.ten && k.lcid == x.lcid && k.ctx == x.ctx
  | none => false

/-- A word of a tenancy's image in the save area is uncorrectable: counted in its channel and reported, and the image's context
is LOST with cause UNCORRECTABLE (R115, spec/08 R217). -/
def imageBad (x : Ten) (a : Nat) (s : State) : State :=
  let p := granChan s (granOf a)
  let c := getChan s p
  let half := halfOfChan p
  chargeWord (logNote
    { cls := 0x02, sev := 2, unitKind := 2, unit := p, code := 6, slot := some x.slot, ctx := some x.ctx, half := half, detail := fpaOf s a }
    (setChan s p { c with ue := sat32 c.ue })) x.ctx 6 a half false

/-- TENANCY_RESTORE_DONE (R114, R118): the image is in a group and the tenancy resumes. A runnable swapped tenancy with a
free group restores here when no other candidate comes before it. An uncorrectable word of the image loses its context (R115). -/
def execTenancyRestoreDone (t : TenRef) (bad : Option Nat) (s : State) : Host.Outcome State Fault Refusal :=
  match findTen s t with
  | none => .next s
  | some x =>
    let go (g : Nat) (s : State) : State :=
      match bad with
      | some a => imageBad x a s
      | none => moveCheck (resume (unkeep (setTen s (residentTen s x g)) x.core t) t) x.slot x.lcid
    match x.loc with
    | .restoring g => .next (go g s)
    | .swapped =>
      if !isRunnable x ∨ !coreServes s x.core ∨ (movingOf s x.slot x.lcid).isSome ∨ !restoresNext s x then .next s
      else match pickOne (groupsFor s x.core x.foot t) s with
        | (some g, s) => .next (go g s)
        | (none, s) => .next s
    | _ => .next s

/-! ### Spare substitution (R311, R312) -/

/-- Mesh hops between sheaves of one half. -/
def sheafHops (a b : Nat) : Nat := natDist (sheafRow a) (sheafRow b) + natDist (sheafCol a) (sheafCol b)

/-- The substitute of a failed core: the same sheaf first, then the fewest hops, then the lower ordinal. -/
def substituteFor (s : State) (c : Nat) : Option Nat :=
  (cheapest ((idleSpares s (halfOfCore c)).map (fun d => (sheafHops (sheafOfCore c) (sheafOfCore d) * 576 + d, d)))).map (·.2)

/-- Save units of a logical core's tenancies. -/
def unitsOfLc (s : State) (slot lcid : Nat) : Nat := ((lcidTens s slot lcid).map (fun x => x.foot)).sum

/-- Whether a core has free save units for a logical core's tenancies. -/
def unitsFit (s : State) (c slot lcid : Nat) : Bool := decide (unitsUsed s c + unitsComing s c + unitsOfLc s slot lcid ≤ 16)

/-- Where a logical core goes without a spare: a core of the slot in the half with a free fold and units, the lowest
ordinal first, its own fold where that is free (the fold DEDUCED, notes/assumptions/26.md). -/
def placeFor (s : State) (slot c : Nat) (e : LEnt) : Option (Nat × Nat) :=
  (List.range 576).findSome? (fun d =>
    let fs := freeFolds s slot d
    if (getSlot s slot).brec.cores.contains d && halfOfCore d == halfOfCore c && !(d == c) && coreReady s d && !fs.isEmpty
        && unitsFit s d slot e.lcid then
      some (d, if fs.contains e.fold then e.fold else fs.headD 0)
    else none)

/-- A logical core of a failed core starts its move. -/
def substLc (s : State) (slot c : Nat) (sub : Option Nat) (e : LEnt) : State :=
  if (movingOf s slot e.lcid).isSome then s
  else
    let add (m : Moving) (s : State) : State := { s with part := { s.part with moving := s.part.moving ++ [m] } }
    let mv (st d f : Nat) : Moving :=
      { slot := slot, lcid := e.lcid, id := none, srcCore := c, dstMod := ownModule s, dstCore := d, fold := f, st := st }
    let s := match sub with
      | some d => add (mv 2 d e.fold) s
      | none => match placeFor s slot c e with
        | some (d, f) => add (mv 2 d f) s
        | none => add (mv 20 c e.fold) s
    moveSaved (saveLcid s slot e.lcid) slot e.lcid

/-- Moves that a failing core takes part in (R53): one that was landing on it restores at its source with RETRY_LATER;
one whose state it had not saved loses it. -/
def failMoves (s : State) (c : Nat) : State :=
  s.part.moving.foldl (fun s m =>
    if m.dstMod = ownModule s ∧ m.dstCore = c ∧ m.st = 3 then
      let s := (lcidTens s m.slot m.lcid).foldl (fun s x =>
        setTen s { x with loc := .swapped, saved := if isResident x || bayOf x ≠ none then .move else x.saved }) s
      let home := homeward s m stRetry
      if m.id.isSome then moveLand s home
      else
        let s := (lcidTens s m.slot m.lcid).foldl (fun s x => setTen s { x with core := home.srcCore, fold := home.fold }) s
        moveHold s home
    else if m.srcCore = c ∧ (m.st = 1 ∨ m.st = 2 ∨ m.st = 10 ∨ m.st = 15) ∧ m.id.isSome then
      let s := loseAll (ctxsOnLcid s m.slot m.lcid) stLost (halfOfCore c) s
      let s := if m.st = 15 then tellLead s m.slot m.lcid 0x95 m.epoch else s
      let s := dropMoving s m.slot m.lcid
      match m.id with
      | some id => finishStatus id stUnc s
      | none => s
    else s) s

/-- A core that has failed a check stops: QUARANTINE, its unsavable tenancies' contexts LOST, its logical cores saved and
moved (R312). `noted` says whether the substitution's end is recorded as CORE_DETECTED. -/
def coreFails (s : State) (c : Nat) (unsavable : List TenRef) (noted : Bool) : State :=
  if unitSt s ⟨0, c⟩ ≠ .ready then s
  else
    let half := halfOfCore c
    let s := { s with units := { s.units with subst := s.units.subst.map (fun u => if u.sub = some c then { u with sub := none } else u) } }
    let s := failMoves (setUnit s ⟨0, c⟩ .quarantine) c
    let s := unsavable.foldl (fun s t =>
      match findTen s t with
      | some x =>
        if x.core = c then
          loseStatus x.ctx stUnc half (logNote { cls := 0x07, sev := 2, unitKind := 0, unit := c, slot := some x.slot, ctx := some x.ctx, half := half } s)
        else s
      | none => s) s
    match holderOfCore s c with
    | none =>
      if noted then logNote { cls := 0x07, sev := 1, unitKind := 0, unit := c, action := 4, half := half } s else s
    | some slot =>
      let sub := substituteFor s c
      -- a spare that ran a replica is scrubbed before it takes a tenancy (R317)
      let s := match sub with | some d => setCore s d (scrubbedCore (getCore s d)) | none => s
      let es := (getSlot s slot).lmap.filter (fun e => e.core == c)
      let u : Subst := { core := c, sub := sub, slot := slot, lcids := es.map (fun e => e.lcid), noted := noted }
      if es.isEmpty then substDone s u
      else
        let s := { s with units := { s.units with subst := s.units.subst ++ [u] } }
        let s := es.foldl (fun s e => substLc s slot c sub e) s
        -- held logical cores do not hold back the end of the substitution
        s.part.moving.foldl (fun s m => if m.st = 20 ∧ m.srcCore = c ∧ m.slot = slot then substStep s slot m.lcid c else s) s

/-- CORE_FAULT_DETECTED (R311, R312); `unsavable` names the tenancies that meet an uncorrectable word. -/
def execCoreFaultDetected (core : Nat) (unsavable : List TenRef) (s : State) : Host.Outcome State Fault Refusal :=
  .next (coreFails s core unsavable true)

/-! ### Winnow replay (R316, R317) -/

/-- The record of a mismatch: DETAIL counts the instances of the quarantined core since its last matching sample. -/
def winnowNote (s : State) (x : Ten) (sev act core : Nat) : State :=
  logNote { cls := 0x08, sev := sev, unitKind := 0, unit := core, action := act, slot := some x.slot, ctx := some x.ctx,
            half := halfOfCore core, detail := (getCore s core).sinceMatch } s

/-- The held end of a sampled kernel takes place. -/
def releaseHeld (s : State) (x : Ten) : State :=
  match x.wait with
  | .held r => kernelEnd s (refOf x) r
  | _ => s

/-- WINNOW_VERDICT (R317): matching digests end the sample and the kernel; differing ones wait for the third execution. -/
def execWinnowVerdict (t : TenRef) (same : Bool) (s : State) : Host.Outcome State Fault Refusal :=
  match findTen s t with
  | none => .next s
  | some x => match x.sample, x.wait with
    | some k, .held _ =>
      if k.mismatched then .next s
      else
        let s := { s with res := { s.res with samples := s.res.samples + 1 } }
        if same then
          let s := releaseHeld s x
          .next (setCore s x.core { getCore s x.core with sinceMatch := 0 })
        else
          .next (setTen { s with res := { s.res with mismatch := sat32 s.res.mismatch } } { x with sample := some { k with mismatched := true } })
    | _, _ => .next s

/-- A write of the third execution performed in memory. -/
def replayWrite (s : State) (x : Ten) (va : Nat) (l : List Byte) : State :=
  (pieces va l.length).foldl (fun s (e : Nat × Nat) =>
    match translate s (corePlace x) x.ctx e.1 with
    | (.hit r, v, s) =>
      let f := rangeFpa r v
      let d := sliceZ l (e.1 - va) e.2
      if f / 2 ^ 42 = ownModule s then
        match memWrite s .write x.ctx (pidOfCtx s x.ctx) r.edom (f % 2 ^ 42) d with
        | .ok _ s => s
        | .unc s => s
        | _ => s
      else
        match sendReq s (.posted (refOf x)) x.ctx x.core x.core (f / 4096)
            { dst := f / 2 ^ 42, vc := 2, kind := 2, target := BitVec.ofNat 64 f, cls := min x.cls r.cls, edom := r.edom, len := e.2, data := d } with
        | some s => s
        | none => s
    | (_, _, s) => s) s

/-- A spare that ran a replica is quarantined. -/
def quarantineSpare (s : State) (c : Nat) : State := setUnit s ⟨0, c⟩ .quarantine

/-- The spare of a third execution: another idle spare of the half that is scrubbed of other contexts. -/
def thirdRun (s : State) (x : Ten) : Option Nat × State :=
  match pickOne ((idleSpares s (halfOfCore x.core)).filter (fun c => scrubbedFor s c x.ctx)) s with
  | (some d, s) => (some d, useSpare s d x.ctx)
  | (none, s) => (none, s)

/-- WINNOW_THIRD_VERDICT (R317). The sample ends. The third execution runs on another idle spare of the half; where none is free the case
of no second spare applies, whatever the verdict. -/
def execWinnowThirdVerdict (t : TenRef) (v : ThirdVerdict) (s : State) : Host.Outcome State Fault Refusal :=
  match findTen s t with
  | none => .next s
  | some x => match x.sample with
    | none => .next s
    | some k =>
      let half := halfOfCore x.core
      let lost (s : State) : State := loseStatus x.ctx stLost half s
      if !k.mismatched then .next s
      else
        let (third, s) := thirdRun s x
        let x := { x with sample := none }
        let s := setTen s x
        match v, third with
        | .replica writes image, some _ =>
          let s := writes.foldl (fun s w => replayWrite s x w.1 w.2) s
          let s := winnowNote s x 1 4 x.core
          let y := { withImage x image with foot := x.foot }
          let s := releaseHeld (setTen s y) y
          .next (coreFails s x.core [] false)
        | .replicaOther, some _ => .next (lost (winnowNote s x 2 0 x.core))
        | .primary, some _ =>
          let s := quarantineSpare (winnowNote s x 1 4 k.replica) k.replica
          .next (releaseHeld s x)
        | .neither, some d =>
          .next (lost (quarantineSpare (quarantineSpare (winnowNote s x 2 4 k.replica) k.replica) d))
        | _, _ => .next (lost (coreFails (winnowNote s x 2 4 x.core) x.core [] false))

end Sys2Proof.Machine
end

