-- ==== Sys2Proof/Machine/Runs.lean ====
section
/-! DEFINITION. Runs and programs as the other engines see them (spec/07 R193-R199, R204, R207): versions, groups, waits,
and the end of a run. -/
namespace Sys2Proof.Machine

/-- Every run. -/
def allRuns (s : State) : List (Nat × Run) := s.seq.runs.filterMap (fun e => e.2.map (fun r => (e.1, r)))

/-- S register of a run. -/
def sGet (r : Run) (i : Nat) : W64 := tabGet (fun _ => 0) r.s i
def sSet (r : Run) (i : Nat) (v : W64) : Run := { r with s := tabSet (fun _ => 0) r.s i v }

/-- The incarnation of a run ID (R198). -/
def incarnOf (s : State) (r : Nat) : Nat := tabGet (fun _ => 0) s.seq.incarn r

/-- Outstanding work of a group. -/
def groupOf (r : Run) (g : Nat) : Nat := tabGet (fun _ => 0) r.groups g
def groupPut (r : Run) (g n : Nat) : Run := { r with groups := tabSet (fun _ => 0) r.groups g n }

/-- Whether the groups of a mask have no outstanding work. -/
def groupsIdle (r : Run) (mask : Nat) : Bool := (List.range 8).all (fun g => !bitAt mask g || decide (groupOf r g = 0))

/-- Versions that are neither current nor bound to a run are freed; a RETIRING program without runs is freed, and its
PROG_RETIRE completes (R194, R196). -/
def progCheck (s : State) (g : Nat) : State :=
  match getProg s g with
  | none => s
  | some p =>
    let bound := (allRuns s).filterMap (fun e => if e.2.prog = g then some e.2.ver else none)
    let p := { p with versions := p.versions.filter (fun v => v.num == p.current || bound.contains v.num) }
    match p.retiring with
    | some id =>
      if bound.isEmpty then
        match id with
        | some id => finishStatus id stOk (setProg s g none)
        | none => setProg s g none
      else setProg s g (some p)
    | none => setProg s g (some p)

/-- Every program of a slot is retired (R196). -/
def retireAll (s : State) (slot : Nat) : State :=
  (s.seq.progs.map (·.1)).foldl (fun s g =>
    match getProg s g with
    | some p =>
      if p.slot ≠ slot then s
      else progCheck (setProg s g (some { p with retiring := match p.retiring with | none => some none | x => x })) g
    | none => s) s

/-- Whether a begun command is a COPY of a run. -/
def copyOfRun (r : Nat) (b : Begun) : Bool :=
  match b.job with
  | .copy _ _ _ (some (k, _, _)) => k == r
  | _ => false

/-- Whether a request on the fabric waits for a run. -/
def askerOfRun (r : Nat) (w : Asker) : Bool :=
  match w with
  | .run k => k == r
  | .runSt k => k == r
  | .runSignal k => k == r
  | .runWait k => k == r
  | .runEvent k => k == r
  | .runDisp k _ => k == r
  | _ => false

/-- An UNMAP_WHEN_IDLE that waits for the packet that launched a run waits for the kernels the run leaves (R228). -/
def noteEnded (s : State) (r : Nat) (x : Run) : State :=
  { s with fe := { s.fe with begun := s.fe.begun.map (fun b =>
    match b.job with
    | .unmapIdle va len deps runs =>
      if deps.contains (x.q, x.pkt.seq) then { b with job := .unmapIdle va len deps (runs ++ [(r, incarnOf s r)]) } else b
    | _ => b) } }

/-- The kernels that a run has dispatched and that have not ended stay behind it (spec/08 R228). -/
def leaveKernels (s : State) (r : Nat) (x : Run) : State :=
  let n := ((List.range 8).map (groupOf x)).sum - (s.fe.begun.filter (copyOfRun r)).length - x.toPlace
  if n = 0 then s
  else { s with seq := { s.seq with left := s.seq.left ++ [{ run := r, incarn := incarnOf s r, ctx := x.ctx, n := n }] } }

/-- A kernel that a run left behind has ended. -/
def leftDone (s : State) (r incarn : Nat) : State :=
  { s with seq := { s.seq with left := (s.seq.left.map (fun l =>
    if l.run = r ∧ l.incarn = incarn then { l with n := l.n - 1 } else l)).filter (fun l => decide (l.n ≠ 0)) } }

/-- A run ends with a status (R199, R207): its COPYs stop, its waits and faults leave, and its final COMPLETION is sent. -/
def endRun (r status : Nat) (s : State) : State :=
  match getRun s r with
  | none => s
  | some x =>
    let st := if status = stOk ∧ x.ovf then stFgx else status
    let ids := (s.fe.begun.filter (copyOfRun r)).map (fun b => b.id)
    let s := leaveKernels s r x
    let s := { s with fe := { s.fe with begun := s.fe.begun.filter (fun b => !copyOfRun r b) },
                      fab := { s.fab with outst := s.fab.outst.filter (fun o => !askerOfRun r o.who) } }
    let s := dropWaits s (fun w => w.who == .run r)
    let s := fqLeave s (fun f => match f with | .run k => k == r | .cmd id => ids.contains id | _ => false)
    let s := noteEnded s r x
    let s := setRun s r none
    let s := { s with seq := { s.seq with incarn := tabSet (fun _ => 0) s.seq.incarn r ((incarnOf s r + 1) % 65536) } }
    let v := sGet x 1
    let s := finish x.id (fun q p s => sendReply q p { replyTo p st with
      w4 := BitVec.ofNat 32 (r + 2 ^ 31), w5 := BitVec.ofNat 32 x.ver, w6 := v.setWidth 32, w7 := (v >>> 32).setWidth 32 } s) s
    progCheck s x.prog

/-- A run that waits in JOIN or END goes on when its groups are idle (R204); BOVF then sees the overflow of the work that
has ended. -/
def runCheck (s : State) (r : Nat) : State :=
  match getRun s r with
  | none => s
  | some x =>
    match x.wait with
    | .join mask =>
      if groupsIdle x mask then setRun s r (some { x with wait := .none, ahead := false, pc := x.pc + 1, ovfSeen := x.ovfEnded }) else s
    | .ending => if groupsIdle x 255 then endRun r stOk s else s
    | _ => s

/-- A run's kernels of an LCID that have not ended: `k` more. -/
def workAdd (x : Run) (lcid k : Nat) : Run := { x with work := tabSet (fun _ => 0) x.work lcid (tabGet (fun _ => 0) x.work lcid + k) }

/-- A run's kernel on an LCID has ended. -/
def workEnds (s : State) (r incarn lcid : Nat) : State :=
  match getRun s r with
  | none => s
  | some x =>
    if incarnOf s r ≠ incarn then s
    else setRun s r (some { x with work := tabSet (fun _ => 0) x.work lcid (tabGet (fun _ => 0) x.work lcid - 1) })

/-- Work of a group has ended (R204): discarded where the incarnation is an older one (R198). -/
def groupDone (s : State) (r incarn g : Nat) (ovf : Bool) : State :=
  match getRun s r with
  | none => leftDone s r incarn
  | some x =>
    if incarnOf s r ≠ incarn then leftDone s r incarn
    else if groupOf x g = 0 then s
    else
      let x := groupPut x g (groupOf x g - 1)
      let x := if ovf then { x with ovf := true, ovfEnded := true } else x
      runCheck (setRun s r (some x)) r

/-- A fatal record of a run and its context's loss (R207): run ID and instruction index in WHERE. -/
def runLose (s : State) (r : Nat) (x : Run) (cause : Nat) (write : Bool) (addr : W64) : State :=
  loseCause (fatalFault s cause 2 x.ctx write addr (BitVec.ofNat 64 (r + x.pc * 2 ^ 16)) 0xFFFFFF (x.core / 8) 0) s

end Sys2Proof.Machine
end

