-- ==== Sys2Proof/Machine/Bulk.lean ====
section
/-! DEFINITION. Bulk data in band (spec/06 R175-R179): the checks of an extent, the cursor's progress with its stalls and
refusals, WRITE_DATA, READ_DATA and COPY, on this module and on others (spec/09 R256). -/
namespace Sys2Proof.Machine

/-! ### Extents (R178) -/

/-- What a cursor finds at a virtual address: the entry with the converted address and the bytes of the extent that lie in
it, a refusal, a queued fault, or the loss of the context. -/
inductive Seg where
  | seg (e : Range) (v len : Nat)
  | deny (status : Nat)
  | fault (cause : Nat)
  | lost

/-- The gate of an extent within one entry on this module. -/
def entGate (s : State) (kind : ReqKind) (ctx : Nat) (e : Range) (v n : Nat) : Gate :=
  let pid := pidOfCtx s ctx
  if rangeFpa e v / 2 ^ 42 ≠ ownModule s then .allow
  else if e.ilv = 0 then spanGate s kind ctx pid e.edom (rangeFpa e v % 2 ^ 42) n
  else (pieces v n).foldl (fun g p => if g = .allow then spanGate s kind ctx pid e.edom (rangeFpa e p.1 % 2 ^ 42) p.2 else g) .allow

/-- The extent at a cursor: `va` the address, `rem` the bytes left, `mk` the record of a fault. -/
def segAt (s : State) (pl : Place) (ctx : Nat) (kind : ReqKind) (va rem : Nat) (mk : State → Nat → FaultRec) : Seg × State :=
  match translate s pl ctx va with
  | (.miss, _, s) => (.fault 0x01, s)
  | (.window, _, s) => (.fault 0x04, s)
  | (.revoked, _, s) => (.lost, loseCause { mk s 0x05 with kind := 1 } s)
  | (.table, _, s) => (.lost, s)
  | (.hit e, v, s) =>
    let m := min rem (rangeEnd e - v)
    if !rangeAllows e kind then (.deny stDenied, s)
    else match entGate s kind ctx e v m with
      | .refused => (.deny stDenied, s)
      | .unavail => (.deny stPart, s)
      | .allow => (.seg e v m, s)

/-- Bytes within one entry read on this module. -/
def entRead (s : State) (ctx : Nat) (e : Range) (v n : Nat) : MemRes :=
  (if e.ilv = 0 then [(v, n)] else pieces v n).foldl (fun r p =>
    match r with
    | .ok l s =>
      (match memRead s .read ctx (pidOfCtx s ctx) e.edom (rangeFpa e p.1 % 2 ^ 42) p.2 with
       | .ok d s => .ok (l ++ d) s
       | r => r)
    | r => r) (.ok [] s)

/-- Bytes within one entry written on this module. -/
def entWrite (s : State) (ctx : Nat) (e : Range) (v : Nat) (l : List Byte) : MemRes :=
  (if e.ilv = 0 then [(v, l.length)] else pieces v l.length).foldl (fun r p =>
    match r with
    | .ok _ s => memWrite s .write ctx (pidOfCtx s ctx) e.edom (rangeFpa e p.1 % 2 ^ 42) (sliceZ l (p.1 - v) p.2)
    | r => r) (.ok [] s)

/-- Whether an entry's target is on this module. -/
def entLocal (s : State) (e : Range) (v : Nat) : Bool := rangeFpa e v / 2 ^ 42 == ownModule s

/-- The message number by which a module asks another whether an extent of its memory may be accessed (notes/assumptions/22.md). -/
def opExtent : Nat := 0x1FF

/-- An extent within an entry as it is asked of the module that holds it. -/
def extentBytes (e : Range) (v n : Nat) (kind : ReqKind) : List Byte :=
  rangeBytes e ++ leBytes 8 e.skip ++ leBytes 8 v ++ leBytes 8 n ++ leBytes 8 (b2n (kind == .write))

/-- The module that holds an entry's target is asked whether the context owns an extent of it (R178, spec/09 R278), the answer awaited under
a tag. None where there is no route. -/
def askExtent (s : State) (who : Asker) (ctx core unit : Nat) (e : Range) (v n : Nat) (kind : ReqKind) : Option State :=
  let sl := (getCtx s ctx).slot
  let mid := rangeFpa e v / 2 ^ 42
  let (tag, s) := takeTag s
  let o : Outst := { tag := tag, who := who, kind := 0, ctx := ctx, cgen := (getCtx s ctx).gen, bgen := unitGen s ⟨0, core⟩, core := core, dst := mid }
  let b := extentBytes e v n kind
  match sendSlot s sl none (commandPkt s mid (getSlot s sl).brec.pid (getSlot s sl).pgen unit (rangeFpa e v / 4096)
      { remotePkt s opExtent ctx 0 0 (tagSeq tag) with payload := b, plen := b.length }) with
  | .sent s => some { s with fab := { s.fab with outst := s.fab.outst ++ [o] } }
  | .noRoute _ => none

/-- What the module that is asked finds. -/
def extentGate (s : State) (ctx : Nat) (b : List Byte) : Gate :=
  let w := numAt b 24 4
  let e : Range := { va := numAt b 0 8, fpa := numAt b 8 8, pages := numAt b 16 8, r := bitAt w 0, w := bitAt w 1, a := bitAt w 2, d := bitAt w 3,
                     cls := fld w 4 3, cache := fld w 7 2, edom := fld w 9 4, ilv := fld w 13 3, granary := bitAt w 16, skip := numAt b 32 8 }
  entGate s (if numAt b 56 8 = 1 then .write else .read) ctx e (numAt b 40 8) (numAt b 48 8)

/-- Bytes of one request to another module: at most 4,096, within a 4 KiB block. -/
def farLen (v n : Nat) : Nat := min n (4096 - v % 4096)

/-! ### Commands with a cursor -/

/-- The context of a begun command. -/
def ctxOfBegun (b : Begun) : Nat := b.pkt.ctx

/-- The fault record of a command (R234): SEQ and QPN in WHERE, the bytes moved in DETAIL; of a run's COPY, the run ID and the
COPY's index, which the command keeps in word 4 of its packet. -/
def cmdFault (b : Begun) (write : Bool) (va : Nat) (s : State) (cause : Nat) : FaultRec :=
  match b.job with
  | .copy _ _ _ (some (r, _, _)) =>
    mkFault s cause 0 2 (ctxOfBegun b) write false (BitVec.ofNat 64 va) (BitVec.ofNat 64 (r + b.pkt.w4.toNat * 2 ^ 16)) 0xFFFFFF
      (match getRun s r with | some x => x.core / 8 | none => 0) 0
  | _ =>
    mkFault s cause 0 1 (ctxOfBegun b) write false (BitVec.ofNat 64 va)
      (BitVec.ofNat 64 (b.pkt.seq.toNat + b.pkt.qpn * 2 ^ 32)) 0xFFFFFF (halfOfQ s b.q) (BitVec.ofNat 64 b.cursor)

/-- A command with a cursor ends (R178, R207): its status and cursor, or the end or progress of the run whose COPY it is. -/
def bulkEnd (b : Begun) (status : Nat) (s : State) : State :=
  match b.job with
  | .copy _ _ _ (some (r, inc, g)) =>
    let s := dropBegun s b.id
    if status = stOk then groupDone s r inc g false else endRun r status s
  | _ => answerAt b.q b.pkt status b.cursor (dropBegun s b.id)

/-- The status of a command that meets an uncorrectable word: of a queue pair whose context is thereby LOST, CTX_LOST
(R183), else UNCORRECTABLE (R182). -/
def uncStatus (s : State) (b : Begun) : Nat :=
  match b.q with
  | .qp _ => if (getCtx s (ctxOfBegun b)).st = 1 then stUnc else stLost
  | _ => stUnc

/-- A command stalls on a queued fault with its cursor held. -/
def bulkStall (b : Begun) (write : Bool) (va cause : Nat) (s : State) : State :=
  let s := setBegun s { b with stalled := true }
  submitFault s (.cmd b.id) (cmdFault b write va s cause)

/-- The unit and class under which a command's requests travel. -/
def bulkReq (s : State) (b : Begun) (e : Range) (f : FabPkt) (fpa : Nat) : Option State :=
  let cls := min b.pkt.cls e.cls
  sendReq s (.cmd b.id) (ctxOfBegun b) 0 (600 + halfOfQ s b.q) (fpa / 4096)
    { f with dst := fpa / 2 ^ 42, vc := vcFor f.kind cls, cls := cls, edom := e.edom, target := BitVec.ofNat 64 fpa }

/-- The end of a step of a command: it goes on at once, or it has stalled, waits, or is over. -/
inductive Go where
  | more (s : State)
  | rest (s : State)

/-- Whether an extent that ends at a byte of a command's side lies on this module or has been found owned on another (R178). -/
def sideAsked (s : State) (b : Begun) (second : Bool) (e : Range) (v z : Nat) : Bool :=
  entLocal s e v || decide (z ≤ (if second then b.asked.2 else b.asked.1))

/-- A command asks another module about the extent of one of its sides within an entry, up to its byte `z`, and waits (R178). -/
def sideAsk (s : State) (b : Begun) (second : Bool) (e : Range) (v n z : Nat) (kind : ReqKind) : Go :=
  match askExtent (setBegun s { b with asking := some (second, z) }) (.cmd b.id) (ctxOfBegun b) 0 (600 + halfOfQ s b.q) e v n kind with
  | some s => .rest s
  | none => .rest (bulkEnd b stDenied s)

/-- WRITE_DATA's next piece. -/
def writeStep (b : Begun) (addr : Nat) (s : State) : Go :=
  let total := b.pkt.payload.length
  let va := addr + b.cursor
  if total ≤ b.cursor then .rest (bulkEnd b stOk s)
  else match segAt s none (ctxOfBegun b) .write va (total - b.cursor) (cmdFault b true va) with
    | (.seg e v m, s) =>
      let data (n : Nat) : List Byte := sliceZ b.pkt.payload b.cursor n
      if !sideAsked s b false e v (b.cursor + m) then sideAsk s b false e v m (b.cursor + m) .write
      else if entLocal s e v then
        match entWrite s (ctxOfBegun b) e v (data m) with
        | .ok _ s => .more (setBegun s { b with cursor := b.cursor + m })
        | .unc s => .rest (bulkEnd b (uncStatus s b) s)
        | .refused => .rest (bulkEnd b stDenied s)
        | .unavail => .rest (bulkEnd b stPart s)
      else
        let n := farLen v m
        match bulkReq (setBegun s { b with sent := n }) b e { kind := 2, len := n, data := data n } (rangeFpa e v) with
        | some s => .rest s
        | none => .rest (bulkEnd b stDenied s)
    | (.deny st, s) => .rest (bulkEnd b st s)
    | (.fault cause, s) => .rest (bulkStall b true va cause s)
    | (.lost, s) => .rest (bulkEnd b stLost s)

/-- READ_DATA's next piece, towards the reply of at most 8,192 bytes that is being filled. -/
def readStep (b : Begun) (addr len : Nat) (s : State) : Go :=
  let need := min 8192 (len - b.cursor)
  let at0 := b.cursor + b.buf.length
  let va := addr + at0
  if need ≤ b.buf.length then
    if !b.roomKept && !replyRoom s b.q (slotBytes need) then .rest s else
    let last := decide (b.cursor + need = len)
    let r : Reply := { replyTo b.pkt stOk with
      opcode := 0x22, last := last, payload := b.buf.take need,
      w4 := BitVec.ofNat 32 (addr + b.cursor), w5 := BitVec.ofNat 32 ((addr + b.cursor) / 2 ^ 32),
      w6 := BitVec.ofNat 32 b.cursor, w7 := BitVec.ofNat 32 (b.cursor / 2 ^ 32) }
    let s := if last then dropBegun s b.id else setBegun s { b with cursor := b.cursor + need, buf := [], roomKept := false }
    .rest (sendReply b.q b.pkt r s)
  else match segAt s none (ctxOfBegun b) .read va (len - at0) (cmdFault b false va) with
    | (.seg e v m, s) =>
      let n := min m (need - b.buf.length)
      if !sideAsked s b false e v (at0 + m) then sideAsk s b false e v m (at0 + m) .read
      else if entLocal s e v then
        match entRead s (ctxOfBegun b) e v n with
        | .ok d s => .more (setBegun s { b with buf := b.buf ++ d })
        | .unc s => .rest (bulkEnd b (uncStatus s b) s)
        | .refused => .rest (bulkEnd b stDenied s)
        | .unavail => .rest (bulkEnd b stPart s)
      else
        let n := farLen v n
        match bulkReq s b e { kind := 1, len := n } (rangeFpa e v) with
        | some s => .rest s
        | none => .rest (bulkEnd b stDenied s)
    | (.deny st, s) => .rest (bulkEnd b st s)
    | (.fault cause, s) => .rest (bulkStall b false va cause s)
    | (.lost, s) => .rest (bulkEnd b stLost s)

/-- COPY's next piece: source, then destination, then the bytes that both entries hold. -/
def copyStep (b : Begun) (src dst len : Nat) (s : State) : Go :=
  let ctx := ctxOfBegun b
  let rem := len - b.cursor
  let sa := src + b.cursor
  let da := dst + b.cursor
  if rem = 0 then .rest (bulkEnd b stOk s)
  else match segAt s none ctx .read sa rem (cmdFault b false sa) with
    | (.deny st, s) => .rest (bulkEnd b st s)
    | (.fault cause, s) => .rest (bulkStall b false sa cause s)
    | (.lost, s) => .rest (bulkEnd b stLost s)
    | (.seg es vs ms, s) =>
      match segAt s none ctx .write da rem (cmdFault b true da) with
      | (.deny st, s) => .rest (bulkEnd b st s)
      | (.fault cause, s) => .rest (bulkStall b true da cause s)
      | (.lost, s) => .rest (bulkEnd b stLost s)
      | (.seg ed vd md, s) =>
        let m := min ms md
        let put (b : Begun) (d : List Byte) (s : State) : Go :=
          if entLocal s ed vd then
            match entWrite s ctx ed vd d with
            | .ok _ s => .more (setBegun s { b with cursor := b.cursor + d.length, buf := [] })
            | .unc s => .rest (bulkEnd b (uncStatus s b) s)
            | .refused => .rest (bulkEnd b stDenied s)
            | .unavail => .rest (bulkEnd b stPart s)
          else
            let n := farLen vd d.length
            match bulkReq (setBegun s { b with buf := d, sent := n }) b ed { kind := 2, len := n, data := d.take n } (rangeFpa ed vd) with
            | some s => .rest s
            | none => .rest (bulkEnd b stDenied s)
        if !sideAsked s b false es vs (b.cursor + ms) then sideAsk s b false es vs ms (b.cursor + ms) .read
        else if !sideAsked s b true ed vd (b.cursor + md) then sideAsk s b true ed vd md (b.cursor + md) .write
        else if !b.buf.isEmpty then put b (b.buf.take m) s
        else if entLocal s es vs then
          match entRead s ctx es vs (min m 4096) with
          | .ok d s => put b d s
          | .unc s => .rest (bulkEnd b (uncStatus s b) s)
          | .refused => .rest (bulkEnd b stDenied s)
          | .unavail => .rest (bulkEnd b stPart s)
        else
          match bulkReq s b es { kind := 1, len := farLen vs m } (rangeFpa es vs) with
          | some s => .rest s
          | none => .rest (bulkEnd b stDenied s)

/-- Reads of an image by PROG_LOAD, into the buffer; the caller of `bulkGo` sees the whole image there (R192). -/
def loadStep (b : Begun) (addr len : Nat) (s : State) : Go :=
  let va := addr + b.buf.length
  if len ≤ b.buf.length then .rest s
  else match segAt s none (ctxOfBegun b) .read va (len - b.buf.length) (cmdFault b false va) with
    | (.seg e v m, s) =>
      if !sideAsked s b false e v (b.buf.length + m) then sideAsk s b false e v m (b.buf.length + m) .read
      else if entLocal s e v then
        match entRead s (ctxOfBegun b) e v m with
        | .ok d s => .more (setBegun s { b with buf := b.buf ++ d, cursor := b.cursor + m })
        | .unc s => .rest (bulkEnd b (uncStatus s b) s)
        | .refused => .rest (bulkEnd b stDenied s)
        | .unavail => .rest (bulkEnd b stPart s)
      else
        match bulkReq s b e { kind := 1, len := farLen v m } (rangeFpa e v) with
        | some s => .rest s
        | none => .rest (bulkEnd b stDenied s)
    | (.deny st, s) => .rest (bulkEnd b st s)
    | (.fault cause, s) => .rest (bulkStall b false va cause s)
    | (.lost, s) => .rest (bulkEnd b stLost s)

/-- A begun command runs until it is over, stalls or waits for another module; `n` bounds the pieces. -/
def bulkGo : Nat → Nat → State → State
  | 0, _, s => s
  | n + 1, id, s =>
    match findBegun s id with
    | none => s
    | some b =>
      if b.stalled ∨ s.fab.outst.any (fun o => o.who == .cmd id) then s
      else
        let r : Go := match b.job with
          | .write addr => writeStep b addr s
          | .read addr len => readStep b addr len s
          | .copy src dst len _ => copyStep b src dst len s
          | .load addr len => loadStep b addr len s
          | _ => .rest s
        match r with
        | .more s => bulkGo n id s
        | .rest s => s

/-- A bound on the pieces of a command. -/
def bulkFuel (b : Begun) : Nat :=
  match b.job with
  | .write _ => b.pkt.payload.length + 2
  | .read _ len => min 8192 (len - b.cursor) + 3
  | .copy _ _ len _ => 2 * len + 2
  | .load _ len => len + 2
  | _ => 1

/-- The value in words 6-7. -/
def valB (p : Pkt) : W64 := BitVec.ofNat 64 (opB p)

/-- A record takes effect (R186, R188). -/
def recordNow : Handler := fun q p s =>
  let h := p.w4
  if evMod h ≠ ownModule s then
    let id := s.fe.nextId
    let s := begin q p (.remoteRecord h (valB p)) 0 s
    sendForCtx s p.ctx (evMod h) (600 + halfOfQ s q) h.toNat (remotePkt s 0x42 p.ctx h (valB p) id)
  else if !evServes s p.ctx (evNum h) then answer q p stDenied s
  else
    let r := record s (evNum h) (valB p)
    answer q p (if r.1 then stRegress else stOk) r.2

/-- Whether a begun command of a LIVE context can go on of itself: a WRITE_DATA that nothing holds, or a record whose earlier
writes have been performed. -/
def goesOn (s : State) (b : Begun) : Bool :=
  (getCtx s b.pkt.ctx).st == 1 && match b.job with
  | .write _ => !b.stalled && !bulkHeld s b && !s.fab.outst.any (fun o => o.who == .cmd b.id)
  | .record => !recordHeld s b
  | _ => false

/-- The commands of a queue that earlier ones held back go on, the earliest first (R173); `n` bounds them. -/
def goOn : Nat → QRef → State → State
  | 0, _, s => s
  | n + 1, q, s =>
    match (begunOn s q).find? (goesOn s) with
    | none => s
    | some b => goOn n q (match b.job with
      | .record => recordNow b.q b.pkt (dropBegun s b.id)
      | _ => bulkGo (bulkFuel b) b.id s)

/-- Every command of a queue that can go on does. -/
def goOnAll (q : QRef) (s : State) : State := goOn (begunOn s q).length q s

/-- A begun command run, unless an earlier one holds it back; those that it held back go on behind it. -/
def bulkRun (id : Nat) (s : State) : State :=
  match findBegun s id with
  | some b => goOnAll b.q (if bulkHeld s b then s else bulkGo (bulkFuel b) id s)
  | none => s

/-- A command ends where it stands, and those that it held back go on. -/
def bulkStop (b : Begun) (status : Nat) (s : State) : State := goOnAll b.q (bulkEnd b status s)

/-- The answer to a command's request on another module (R256): data joins the buffer, a write moves the cursor, a refusal
ends the command at its cursor. -/
def bulkAnswer (id status : Nat) (data : List Byte) (s : State) : State :=
  match findBegun s id with
  | none => s
  | some b =>
    if status = 2 then bulkStop b (uncStatus s b) s
    else if status ≠ 0 then bulkStop b stDenied s
    else if b.sent = 0 then
      let s := setBegun s { b with buf := b.buf ++ data, cursor := (match b.job with | .load _ _ => b.cursor + data.length | _ => b.cursor) }
      (match b.job with | .copy _ _ _ _ => bulkRun id s | .read _ _ => bulkRun id s | _ => s)
    else
      bulkRun id (setBegun s { b with cursor := b.cursor + b.sent, sent := 0, buf := b.buf.drop b.sent })

/-- The answer to what a command has asked about an extent (R178): owned, it goes on; refused, it ends at its cursor. -/
def bulkChecked (id status : Nat) (s : State) : State :=
  match findBegun s id with
  | none => s
  | some b => match b.asking with
    | none => s
    | some (second, z) =>
      if status ≠ stOk then bulkStop b (if status = stPart then stPart else stDenied) s
      else bulkRun id (setBegun s { b with asking := none, asked := if second then (b.asked.1, z) else (z, b.asked.2) })

/-! ### Limits (R179) -/

/-- The limits of a COPY. -/
def copyLimits (src dst len : Nat) : Bool :=
  decide (1 ≤ len) && decide (len ≤ 2 ^ 48) && decide (src + len ≤ 2 ^ 57) && decide (dst + len ≤ 2 ^ 57) && !spansMeet src len dst len

/-- The first checks of a COPY, before any byte moves: source, then destination. -/
def copyFirst (id src dst len : Nat) (s : State) : State :=
  match findBegun s id with
  | none => s
  | some b =>
    let ctx := ctxOfBegun b
    match segAt s none ctx .read src len (cmdFault b false src) with
    | (.deny st, s) => bulkStop b st s
    | (.fault cause, s) => bulkStall b false src cause s
    | (.lost, s) => bulkStop b stLost s
    | (.seg _ _ _, s) =>
      match segAt s none ctx .write dst len (cmdFault b true dst) with
      | (.deny st, s) => bulkStop b st s
      | (.fault cause, s) => bulkStall b true dst cause s
      | (.lost, s) => bulkStop b stLost s
      | (.seg _ _ _, s) => s

/-! ### The commands -/

/-- EVENT_RECORD's start (R186, R188): its effect waits for every earlier WRITE_DATA and COPY of its queue (R173). -/
def startRecord : Handler := fun q p s =>
  if (begunOn s q).any writeJob then begin q p .record 0 s else recordNow q p s

/-- WRITE_DATA's start (R175). -/
def startWrite : Handler := fun q p s =>
  let addr := opA p
  let n := p.payload.length
  if n = 0 ∨ 2 ^ 57 < addr + n then answer q p stLen s
  else
    let id := s.fe.nextId
    let s := begin q p (.write addr) 0 s
    bulkRun id s

/-- READ_DATA's start (R176): the extent's first checks; READ_REPLY items follow. -/
def startRead : Handler := fun q p s =>
  let addr := opA p
  let n := p.w6.toNat
  if n = 0 ∨ 2 ^ 57 < addr + n then answer q p stLen s
  else
    let id := s.fe.nextId
    let s := begin q p (.read addr n) 0 s
    match findBegun s id with
    | none => s
    | some b =>
      match segAt s none (ctxOfBegun b) .read addr n (cmdFault b false addr) with
      | (.seg _ _ _, s) => s
      | (.deny st, s) => bulkStop b st s
      | (.fault cause, s) => bulkStall b false addr cause s
      | (.lost, s) => bulkStop b stLost s

/-- COPY's start (R177): its limits and first checks; COPY_DONE moves the bytes. -/
def startCopy : Handler := fun q p s =>
  let src := numAt p.payload 0 8
  let dst := numAt p.payload 8 8
  let len := numAt p.payload 16 8
  if p.payload.length ≠ 24 ∨ !copyLimits src dst len then answer q p stLen s
  else
    let id := s.fe.nextId
    let s := begin q p (.copy src dst len none) 0 s
    copyFirst id src dst len s

/-- WRITE_DATA (R175). -/
def execWriteData (p : Pkt) (s : State) : Host.Outcome State Fault Refusal :=
  .next (arrive startWrite wrongOnFabric { p with opcode := 0x20 } s)

/-- READ_DATA (R176). -/
def execReadData (p : Pkt) (s : State) : Host.Outcome State Fault Refusal :=
  .next (arrive startRead wrongOnFabric { p with opcode := 0x21 } s)

/-- COPY (R177). -/
def execCopy (p : Pkt) (s : State) : Host.Outcome State Fault Refusal :=
  .next (arrive startCopy wrongOnFabric { p with opcode := 0x23 } s)

/-- COPY_DONE (R177): the engine moves the bytes of a started COPY, of a packet or of a run, in ascending order. -/
def execCopyDone (id : Nat) (s : State) : Host.Outcome State Fault Refusal :=
  match findBegun s id with
  | none => .next s
  | some b => match b.job with
    | .copy _ _ _ _ => .next (wakeAll (bulkRun id s))
    | _ => .next s

end Sys2Proof.Machine
end

