-- ==== Sys2Proof/Machine/Queue.lean ====
section
/-! DEFINITION. Queue control and events by packet (spec/06 R165-R168, R184-R189): NOP, QP_CONFIG, QP_QUERY, QP_RESUME, the
event commands, the deadlock scan, and what a Haldip acknowledgement frees. -/
namespace Sys2Proof.Machine

/-! ### NOP -/

/-- NOP (R159, R323): completes; on the escape VC it gets no reply and shows that its sender is alive. Other opcodes that
reach this handler are undefined. -/
def startNop : Handler := fun q p s =>
  if p.opcode ≠ 0 then answer q p stOpcode s
  else match q with
    | .fabric _ _ _ => s
    | _ => answer q p stOk s

/-! ### Queue pairs (R164-R168) -/

/-- A ring lies within one range entry of the context with read and write permission, in granules the context owns. -/
def ringOk (s : State) (ctx base log : Nat) : Bool × State :=
  match translate s none ctx base with
  | (.hit e, v, s) =>
    (decide (v + 2 ^ log ≤ rangeEnd e) && e.r && e.w && entLocal s e v && decide (entGate s .write ctx e v (2 ^ log) = .allow), s)
  | (_, _, s) => (false, s)

/-- Whether a handle names an event of this module that a context holds. -/
def holdsEvent (s : State) (ctx : Nat) (h : W32) : Bool :=
  let x := getEv s (evNum h)
  decide (evMod h = ownModule s) && x.st == 1 && x.ctx == ctx

/-- QP_CONFIG's start (R165). The order of its failures the spec does not give, nor what a queue pair that is UNBINDING gets (DESIGN
CHOICE, notes/assumptions/6.md): the length, NOT_BOUND, the sizes, ACCESS_DENIED, then RESOURCE_BUSY, which UNBINDING gives too. -/
def startQpConfig : Handler := fun q p s =>
  let n := fld p.w4.toNat 0 12
  let x := getQp s n
  let b (o w : Nat) : Nat := numAt p.payload o w
  let sql := b 0x10 1
  let cql := b 0x11 1
  let src := bitAt (b 0x13 1) 0
  let ev (o : Nat) : W32 := BitVec.ofNat 32 (b o 4)
  let evs := [ev 0x14, ev 0x18, ev 0x1C, ev 0x20]
  if p.payload.length ≠ 48 then answer q p stLen s
  else if n = 0 ∨ x.st = 0 then answer q p stUnbound s
  else if sql < 14 ∨ 24 < sql ∨ cql < 14 ∨ 24 < cql ∨ b 0 8 % 2 ^ sql ≠ 0 ∨ b 8 8 % 2 ^ cql ≠ 0 ∨ b 0x12 1 = 0 then answer q p stLen s
  else
    let (okS, s) := ringOk s x.ctx (b 0 8) sql
    let (okC, s) := ringOk s x.ctx (b 8 8) cql
    if !okS || !okC || (src && !evs.all (holdsEvent s x.ctx)) then answer q p stDenied s
    else if x.st = 4 || !x.sq.isEmpty || (x.source && decide (x.sqHead < sqTailOf s x)) || !x.cq.isEmpty || !(begunOn s (.qp n)).isEmpty then answer q p stBusy s
    else
      let x := { x with st := 2, source := src, quantum := b 0x12 1, sqBase := b 0 8, cqBase := b 8 8, sqLog := sql, cqLog := cql,
                        sqTailEvt := ev 0x14, sqHeadEvt := ev 0x18, cqTailEvt := ev 0x1C, cqHeadEvt := ev 0x20,
                        sqHead := 0, sqTail := 0, cqHead := 0, cqTail := 0, sq := [], cq := [], deficit := 0 }
      let s := setQp s n x
      let s := if src then evs.foldl (fun s h => (record s (evNum h) 0).2) s else s
      answer q p stOk s

/-- QP_CONFIG (R165). -/
def execQpConfig (p : Pkt) (s : State) : Host.Outcome State Fault Refusal :=
  .next (arrive startQpConfig wrongOnFabric { p with opcode := 0x01 } s)

/-- The words of QPT_STATE, QPT_SEQ, QPT_STARTED and QPT_DUP_CNT (R168). QPN 0 is QP 0 of the Haldip port that asks (DESIGN
CHOICE, notes/assumptions/6.md). -/
def qptWords (s : State) (port n : Nat) : W32 × W32 × W32 × W32 :=
  if n = 0 then
    let x := getFe s port
    (BitVec.ofNat 32 ((if x.onHold then 3 else 2) + port * 2 ^ 7), x.expected, BitVec.ofNat 32 (begunOn s (.mgmt port)).length, x.dups)
  else
    let x := getQp s n
    (BitVec.ofNat 32 (x.st + b2n x.source * 2 ^ 3 + x.maxCls * 2 ^ 4 + x.port * 2 ^ 7 + x.ctx * 2 ^ 8 + x.quantum * 2 ^ 18),
      x.expected, BitVec.ofNat 32 (begunOn s (.qp n)).length, x.dups)

/-- Whether a queue pair is bound to a context of a confidential slot. -/
def qpConf (s : State) (n : Nat) : Bool := decide ((getQp s n).st ≠ 0) && (getSlot s (getCtx s (getQp s n).ctx).slot).brec.conf

/-- QP_QUERY's start (R168): on QP 0 the two fields that confidential slots hide read as they are. -/
def startQpQuery : Handler := fun q p s =>
  let n := fld p.w4.toNat 0 12
  let x := getQp s n
  let hide := qpConf s n && (match q with | .mgmt _ => false | _ => true)
  let (w, e, c, d) := qptWords s (match q with | .mgmt h => h | _ => 0) n
  let pl := leBytes 4 w.toNat ++ leBytes 4 e.toNat ++ leBytes 4 (if hide then 0 else c.toNat) ++ leBytes 4 (if hide then 0 else d.toNat)
    ++ leBytes 4 x.sqHead ++ leBytes 4 (sqTailOf s x) ++ leBytes 4 (cqHeadOf s x) ++ leBytes 4 x.cqTail
  sendReply q p { replyTo p stOk with payload := pl } s

/-- QP_QUERY (R168). -/
def execQpQuery (p : Pkt) (s : State) : Host.Outcome State Fault Refusal :=
  .next (arrive startQpQuery wrongOnFabric { p with opcode := 0x02 } s)

/-- A queue pair resumed. -/
def resumeQp (n : Nat) : Handler := fun q p s =>
  let x := getQp s n
  let pos := opB p
  if x.st = 0 ∨ x.st = 4 then answer q p stUnbound s
  else if x.st ≠ 3 then answer q p stBusy s
  else if x.source && (decide (pos % 64 ≠ 0) || decide (pos < x.sqHead) || decide (sqTailOf s x < pos)) then answer q p stLen s
  else
    let x := { x with st := if x.quantum = 0 then 1 else 2, expected := p.w5, sqHead := if x.source then pos else x.sqHead,
                      sq := if x.source then [] else x.sq }
    answer q p stOk (setQp s n x)

/-- QP_RESUME's start (R168): on QP 0 for the QP that word 4 names, else for the QP itself. -/
def startQpResume : Handler := fun q p s =>
  match q with
  | .qp n => resumeQp n q p s
  | .mgmt h =>
    let n := fld p.w4.toNat 0 12
    if n ≠ 0 then resumeQp n q p s
    else
      let x := getFe s h
      if x.onHold then answer q p stOk (setFe s h { x with onHold := false, expected := p.w5 }) else answer q p stBusy s
  | _ => answer q p stOpcode s

/-- QP_RESUME (R168). -/
def execQpResume (p : Pkt) (s : State) : Host.Outcome State Fault Refusal :=
  .next (arrive startQpResume wrongOnFabric { p with opcode := 0x03 } s)

/-- HALDIP_REPLY_ACK (R161, R162, R167, spec/11 R308, R309): the oldest of what the link acknowledges is freed. -/
def execHaldipReplyAck (port : Nat) (src : AckSrc) (s : State) : Host.Outcome State Fault Refusal :=
  let x := getFe s port
  if !x.up then .next s
  else match src with
  | .ring n =>
    let y := getQp s n
    match y.cq with
    | [] => .next s
    | (start, r) :: t =>
      if y.source ∨ y.port ≠ port then .next s
      else .next (unbindCheck (setQp s n { y with cq := t, cqHead := start + slotBytes r.payload.length }))
  | .store => .next (setFe s port { x with store := x.store.drop 1 })
  | .refusal => .next (setFe s port { x with refusals := x.refusals.drop 1 })
  | .report =>
    match x.reports with
    | [] => .next s
    | r :: t =>
      let s := setFe s port { x with reports := t }
      let s := if r.opcode = 0xF2 then markLogRead s r.seq else s
      .next (drainAll s)

/-! ### Events (R184-R188) -/

/-- EVENT_RECORD (R186). -/
def execEventRecord (p : Pkt) (s : State) : Host.Outcome State Fault Refusal :=
  .next (arrive startRecord wrongOnFabric { p with opcode := 0x40 } s)

/-- EVENT_WAIT's start (R187, R188): the queue pair blocks until the wait ends. -/
def startWait : Handler := fun q p s =>
  let h := p.w4
  if evMod h ≠ ownModule s then
    let id := s.fe.nextId
    let s := begin q p (.wait h (valB p)) 0 s
    sendForCtx s p.ctx (evMod h) (600 + halfOfQ s q) h.toNat (remotePkt s 0x41 p.ctx h (valB p) id)
  else if !evServes s p.ctx (evNum h) then answer q p stDenied s
  else
    let id := s.fe.nextId
    let s := begin q p (.wait h (valB p)) 0 s
    registerWait s { ev := evNum h, target := valB p, who := .cmd id }

/-- Who a message of another module acts for (R47, R188): a generation that has moved on makes it chaff; the context of another slot is
refused; one that is not LIVE gets what R43 and R183 give its work. -/
inductive CtxGate where
  | chaff
  | refuse (status : Nat)
  | pass
deriving DecidableEq, Repr

def remoteCtx (s : State) (slot : Nat) (p : Pkt) : CtxGate :=
  let c := getCtx s p.ctx
  if p.gen ≠ c.gen.setWidth 8 then .chaff
  else if c.st = 0 ∨ c.slot ≠ slot then .refuse stDenied
  else if c.st ≠ 1 then .refuse (downStatus s p.ctx)
  else if evMod p.w4 ≠ ownModule s ∨ !evServes s p.ctx (evNum p.w4) then .refuse stDenied
  else .pass

/-- The wait of another module (R188, spec/09 R269): held under the sender's PID, it is registered and answered when
released. -/
def startRemoteWait : Handler := fun q p s =>
  match q with
  | .fabric mid _ _ =>
    match slotOfPid s p.w5.toNat with
    | none => addOrphan s
    | some i =>
      match remoteCtx s i p with
      | .chaff => addChaff s i
      | .refuse st => answer q p st s
      | .pass => registerWait s { ev := evNum p.w4, target := valB p, who := .remote mid p.w5.toNat p.seq }
  | _ => answer q p stOpcode s

/-- EVENT_WAIT (R187). -/
def execEventWait (p : Pkt) (s : State) : Host.Outcome State Fault Refusal :=
  .next (arrive startWait startRemoteWait { p with opcode := 0x41 } s)

/-- REMOTE_WAIT (spec/09 R269): opcode 0x41 on the escape VC (the opcode is DESIGN CHOICE, notes/assumptions/27.md). -/
def execRemoteWait (p : Pkt) (s : State) : Host.Outcome State Fault Refusal :=
  match p.src with
  | .fabric _ _ _ => .next (arrive wrongOnFabric startRemoteWait { p with opcode := 0x41 } s)
  | _ => .next s

/-- EVENT_WAIT_TIMEOUT (R187). -/
def execEventWaitTimeout (id : Nat) (s : State) : Host.Outcome State Fault Refusal :=
  match findBegun s id with
  | none => .next s
  | some b => match b.job with
    | .wait _ _ =>
      if b.pkt.w5 = 0 then .next s
      else .next (wakeAll (finishStatus id stTimeout (dropWaits s (fun w => w.who == .cmd id))))
    | _ => .next s

/-- WAIT_REGISTER_RETRY (R188): the first waiter of a half that found the table full tries again. -/
def execWaitRegisterRetry (half : Nat) (s : State) : Host.Outcome State Fault Refusal :=
  match s.ev.retry.find? (fun w => halfOfEvent w.ev == half) with
  | none => .next s
  | some w =>
    if !waitMet (getEv s w.ev).val w.target && !decide (waitsOfHalf s half < 32768) then .next s
    else .next (wakeAll (registerWait { s with ev := { s.ev with retry := s.ev.retry.erase w } } w))

/-- A record of another module (R188): checked for holding under the sender's PID, and answered; a context generation that
has moved on makes it chaff (R47). -/
def startSignal : Handler := fun q p s =>
  match slotOfPid s p.w5.toNat with
  | none => addOrphan s
  | some i =>
    match remoteCtx s i p with
    | .chaff => addChaff s i
    | .refuse st => answer q p st s
    | .pass =>
      let r := record s (evNum p.w4) (valB p)
      answer q p (if r.1 then stRegress else stOk) r.2

/-- The value of an event asked for by a run of another module (notes/assumptions/22.md), under the checks of a record (R188). -/
def startEventRead : Handler := fun q p s =>
  match slotOfPid s p.w5.toNat with
  | none => addOrphan s
  | some i =>
    match remoteCtx s i p with
    | .chaff => addChaff s i
    | .refuse st => answer q p st s
    | .pass =>
      let v := (getEv s (evNum p.w4)).val
      sendReply q p { replyTo p stOk with w6 := v.setWidth 32, w7 := (v >>> 32).setWidth 32 } s

/-- Another module asks whether a context may access an extent of this module's memory (R178, spec/08 R219). -/
def startExtent : Handler := fun q p s =>
  match slotOfPid s p.w5.toNat with
  | none => addOrphan s
  | some i =>
    let c := getCtx s p.ctx
    if p.gen ≠ c.gen.setWidth 8 then addChaff s i
    else if c.st ≠ 1 ∨ c.slot ≠ i then answer q p stDenied s
    else match extentGate s p.ctx p.payload with
      | .allow => answer q p stOk s
      | .refused => answer q p stDenied s
      | .unavail => answer q p stPart s

/-- EVENT_SIGNAL_REMOTE (R188): accepted on the escape VC only. -/
def execEventSignalRemote (p : Pkt) (s : State) : Host.Outcome State Fault Refusal :=
  .next (arrive wrongOnFabric startSignal { p with opcode := 0x42 } s)

/-- The free runs of `n` events in a half: first numbers. -/
def freeEvents (s : State) (half n : Nat) : List Nat :=
  ((List.range (32768 - (n - 1))).map (fun i => 32768 * half + i)).filter (fun e =>
    !(s.ev.evs.any (fun x => decide (e ≤ x.1) && decide (x.1 < e + n) && decide (x.2.st ≠ 0))))

/-- EVENT_ALLOC's start (R185). Where the status of a half in FROST (spec/12 R332) stands among its checks the spec does not say
(DESIGN CHOICE, notes/assumptions/6.md): behind the half field's own check. -/
def startEventAlloc : Handler := fun q p s =>
  let w := p.w4.toNat
  let n := fld w 0 13
  let half := fld w 18 2
  let ctx := fld p.w5.toNat 0 10
  if n = 0 ∨ 4096 < n then answer q p stLen s
  else if half = 3 then answer q p stOpcode s
  else if half < 2 ∧ halfOff s half then answer q p stPart s
  else match slotOfPid s p.w6.toNat with
    | none => answer q p stUnbound s
    | some i =>
      let c := getCtx s ctx
      if !bitAt w 16 && (c.st = 0 || decide (c.slot ≠ i)) then answer q p stUnbound s
      else
        let l := (if half = 1 ∨ halfOff s 0 then [] else freeEvents s 0 n) ++ (if half = 0 ∨ halfOff s 1 then [] else freeEvents s 1 n)
        match pickOne l s with
        | (none, s) => answer q p stBusy s
        | (some e, s) =>
          let x : Ev := if bitAt w 16 then { st := 2, slot := i } else { st := 1, ctx := ctx, slot := i }
          let s := (List.range n).foldl (fun s k => setEv s (e + k) x) s
          answerW4 q p stOk (e + ownModule s * 2 ^ 16) s

/-- EVENT_ALLOC (R185). -/
def execEventAlloc (p : Pkt) (s : State) : Host.Outcome State Fault Refusal :=
  .next (arrive startEventAlloc wrongOnFabric { p with opcode := 0x43 } s)

/-- Whether an event has a registered wait. -/
def evWaited (s : State) (e : Nat) : Bool := s.ev.waits.any (fun w => w.ev == e)

/-- EVENT_FREE's start (R185). -/
def startEventFree : Handler := fun q p s =>
  let e := evNum p.w4
  let n := fld p.w5.toNat 0 13
  let x := getEv s e
  if n = 0 ∨ 4096 < n then answer q p stLen s
  else if evMod p.w4 ≠ ownModule s then answer q p stDenied s
  else if halfOfEvent e ≠ halfOfEvent (e + n - 1) ∨ 65536 < e + n then answer q p stBusy s
  else if (List.range n).all (fun k =>
      let y := getEv s (e + k)
      decide (y.st ≠ 0) && y.st == x.st && y.ctx == x.ctx && y.slot == x.slot && !evWaited s (e + k)) then
    answer q p stOk ((List.range n).foldl (fun s k => setEv s (e + k) {}) s)
  else answer q p stBusy s

/-- EVENT_FREE (R185). -/
def execEventFree (p : Pkt) (s : State) : Host.Outcome State Fault Refusal :=
  .next (arrive startEventFree wrongOnFabric { p with opcode := 0x44 } s)

/-- EVENT_QUERY's start (R184, R185): a QP sees what its context may use; QP 0 and the sideband see every event, those of
confidential slots as zero. -/
def startEventQuery : Handler := fun q p s =>
  let e := evNum p.w4
  let x := getEv s e
  let reply (v : W64) : State := sendReply q p { replyTo p stOk with w6 := v.setWidth 32, w7 := (v >>> 32).setWidth 32 } s
  if evMod p.w4 ≠ ownModule s then answer q p stDenied s
  else match q with
    | .qp _ => if evServes s p.ctx e then reply x.val else answer q p stDenied s
    | _ => reply (if x.st ≠ 0 && (getSlot s x.slot).brec.conf then 0 else x.val)

/-- EVENT_QUERY (R184). -/
def execEventQuery (p : Pkt) (s : State) : Host.Outcome State Fault Refusal :=
  .next (arrive startEventQuery wrongOnFabric { p with opcode := 0x45 } s)

/-! ### The deadlock scan (R189) -/

/-- A node: a queue with an unsatisfied wait on an event of this module. -/
structure WaitNode where
  q : QRef
  id : Nat
  ctx : Nat
  ev : Nat
  target : W64
deriving DecidableEq, Repr

/-- The waits of the module's queue pairs on its own events. R111 counts a swapped tenancy's wait in the scan too, and R189 says that waits
inside kernels are not nodes: the model follows R189 (DEDUCED, notes/assumptions/6.md). -/
def waitNodes (s : State) : List WaitNode :=
  s.fe.begun.filterMap (fun b => match b.job with
    | .wait h t =>
      if evMod h = ownModule s ∧ !waitMet (getEv s (evNum h)).val t then
        some { q := b.q, id := b.id, ctx := b.pkt.ctx, ev := evNum h, target := t }
      else none
    | _ => none)

/-- The packets of every queue that have not started. -/
def unstarted (s : State) : List (QRef × List Pkt) :=
  s.fe.qps.map (fun e => (QRef.qp e.1, ringHolds s e.1)) ++ s.fe.ports.map (fun e => (QRef.mgmt e.1, e.2.held))

/-- Whether a packet is a record that would satisfy a node's wait. -/
def satisfies (s : State) (n : WaitNode) (p : Pkt) : Bool :=
  p.opcode == 0x40 && evNum p.w4 == n.ev && evMod p.w4 == ownModule s && waitMet (valB p) n.target

/-- The queues that hold such a record. -/
def satisfiers (s : State) (n : WaitNode) : List QRef :=
  (unstarted s).filterMap (fun e => if e.2.any (satisfies s n) then some e.1 else none)

/-- One round: nodes that depend on a node of the set, and on no queue outside it, stay. -/
def caughtRound (s : State) (l : List WaitNode) : List WaitNode :=
  l.filter (fun n =>
    let d := satisfiers s n
    !d.isEmpty && d.all (fun q => l.any (fun m => m.q == q)))

/-- The caught set: rounds until nothing leaves. -/
def caughtSet (s : State) : Nat → List WaitNode → List WaitNode
  | 0, l => l
  | n + 1, l => caughtSet s n (caughtRound s l)

/-- DEADLOCK_SCAN (R189): a caught set that the scan before found too, its events unchanged, is declared. -/
def execDeadlockScan (s : State) : Host.Outcome State Fault Refusal :=
  let nodes := waitNodes s
  let caught := caughtSet s (nodes.length + 1) nodes
  let again := caught.filter (fun n => s.ev.caught.contains (n.id, n.ev, (getEv s n.ev).val))
  let decl := caughtSet s (again.length + 1) again
  let rest := (caught.filter (fun n => !decl.contains n)).map (fun n => (n.id, n.ev, (getEv s n.ev).val))
  let s := { s with ev := { s.ev with caught := rest } }
  let s := decl.foldl (fun s n =>
    let h := halfOfEvent n.ev
    let c : W32 := tabGet (fun _ => 0) s.ev.deadlock h
    let s := { s with ev := { s.ev with deadlock := tabSet (fun _ => 0) s.ev.deadlock h (sat32 c) } }
    let s := finishStatus n.id stDeadlock (dropWaits s (fun w => w.who == .cmd n.id))
    loseStatus n.ctx stDeadlock h s) s
  .next s

end Sys2Proof.Machine
end

