-- ==== Sys2Proof/Machine/Collective.lean ====
section
/-! DEFINITION. Collectives (spec/09 R273-R283): streams, descriptors and group tables, announcements, the canonical tree,
results, aborts. The form in which values travel is the model's (notes/assumptions/28.md). -/
namespace Sys2Proof.Machine

/-! ### Memory of the context (R273, R278) -/

/-- The half of a stream's engine (R273). -/
def halfOfStream (n : Nat) : Nat := n / 256

/-- The run that posted a stream's current descriptor, or whose kernel did, with its incarnation. -/
def postedBy (x : Stream) : Option (Nat × Nat) :=
  (x.posts.find? (fun p => !waitMet p.1 (x.count + 1) && waitMet p.2.1 (x.count + 1))).map (fun p => p.2.2)

/-- A collective's saturation in the context's flag and in the indicator of the run that dispatched it (spec/03 R84). -/
def collOvf (s : State) (x : Stream) : State :=
  let s := ctxOvf s x.ctx
  match postedBy x with
  | none => s
  | some (r, i) =>
    let s := runOvf s r i
    match getRun s r with
    | some y => if incarnOf s r = i then setRun s r (some { y with ovfEnded := true }) else s
    | none => s

/-- The part that a stream has asked another module for. -/
def farPart (x : Stream) (op va n : Nat) : Option FarPart := x.far.find? (fun p => p.op == op && p.va == va && p.len == n)

/-- The entry that an extent of a stream's context lies within, with a permission. A REVOKED entry makes the
context LOST (spec/08 R227); the record is a command's of the engine's half, without SEQ and QPN (DESIGN CHOICE, notes/assumptions/28.md). -/
def vEnt (s : State) (n : Nat) (kind : ReqKind) (va len : Nat) : Option (Range × Nat) × State :=
  let ctx := (getStream s n).ctx
  match translate s none ctx va with
  | (.hit e, v, s) => (if decide (v + len ≤ rangeEnd e) && rangeAllows e kind then some (e, v) else none, s)
  | (.revoked, _, s) => (none, ringRevoked s ctx (halfOfStream n) va 0 (kind == .write))
  | (_, _, s) => (none, s)

/-- What the check of an extent finds: it may be accessed, it may not, or another module is being asked. -/
inductive Span where
  | ok (e : Range) (v : Nat) (s : State)
  | bad (s : State)
  | wait (s : State)

/-- An extent of a stream's context: within one range entry, in granules that the context owns, on this module or on another, which is
asked (R278). -/
def vSpan (s : State) (n : Nat) (kind : ReqKind) (va len : Nat) : Span :=
  let ctx := (getStream s n).ctx
  match vEnt s n kind va len with
  | (none, s) => .bad s
  | (some (e, v), s) =>
    if entLocal s e v then (if entGate s kind ctx e v len = .allow then .ok e v s else .bad s)
    else
      let op := b2n (kind == .write)
      let x := getStream s n
      match farPart x op va len with
      | some p => (match p.st with | none => .wait s | some st => if st = stOk then .ok e v s else .bad s)
      | none =>
        match askExtent s (.stream n va op) ctx 0 (602 + halfOfStream n) e v len kind with
        | none => .bad s
        | some s => .wait (setStream s n { x with far := x.far ++ [{ va := va, len := len, op := op }] })

/-- What a read within one entry gives. -/
inductive VRead where
  | ok (l : List Byte) (s : State)
  | bad (s : State)
  | unc (s : State)
  | wait (s : State)

/-- A stream's requests to another module for an extent, each within a 4 KiB block: bytes read (`op` 2), or written (`op` 3). -/
def farPieces (s : State) (n : Nat) (e : Range) (v va len op : Nat) (data : List Byte) : State :=
  (pieces v len).foldl (fun s p =>
    let x := getStream s n
    let fpa := rangeFpa e p.1
    let a := va + (p.1 - v)
    let f : FabPkt := { kind := op - 1, dst := fpa / 2 ^ 42, vc := vcFor (op - 1) e.cls, cls := e.cls, edom := e.edom,
                        target := BitVec.ofNat 64 fpa, len := p.2, data := if op = 3 then sliceZ data (p.1 - v) p.2 else [] }
    let part (st : Option Nat) : FarPart := { va := a, len := p.2, op := op, st := st }
    match sendReq s (.stream n a op) x.ctx 0 (602 + halfOfStream n) (fpa / 4096) f with
    | some s => setStream s n { x with far := x.far ++ [part none] }
    | none => setStream s n { x with far := x.far ++ [part (some stDenied)] }) s

/-- A stream's read within one entry; of another module's bytes, once they have come. -/
def vRead (s : State) (n va len : Nat) : VRead :=
  let ctx := (getStream s n).ctx
  match vSpan s n .read va len with
  | .bad s => .bad s
  | .wait s => .wait s
  | .ok e v s =>
    if entLocal s e v then
      match entRead s ctx e v len with
      | .ok l s => .ok l s
      | .unc s => .unc s
      | _ => .bad s
    else
      let l := (pieces v len).map (fun p => farPart (getStream s n) 2 (va + (p.1 - v)) p.2)
      let has (st : Nat) : Bool := l.any (fun p => match p with | some p => p.st == some st | none => false)
      if l.all (fun p => p.isNone) then .wait (farPieces s n e v va len 2 [])
      else if l.any (fun p => match p with | some p => p.st.isNone | none => true) then .wait s
      else if has stDenied then .bad s
      else if has stUnc then .unc s
      else .ok (l.flatMap (fun p => match p with | some p => p.data | none => [])) s

/-! ### The values (R277, R280, R82, R92) -/

/-- Bytes of an element of a collective's TYPE. -/
def collElem (type : Nat) : Nat := codeBits type / 8

/-- Whether a TYPE is FGX: it has a grid byte per 32 elements. -/
def isFgx (type : Nat) : Bool := type == 0xD || type == 0xE

/-- Whether an OP reduces. -/
def isReduce (op : Nat) : Bool := decide (op ≤ 1)

/-- Elements of a unit, and bytes of a unit as it travels: an element; for an FGX copy a block with its grid byte; for an
FGX reduction 32 exact values of eight bytes with a grid byte each, and a byte that marks differing grids. -/
def unitElems (type : Nat) : Nat := if isFgx type then 32 else 1
def unitBytes (op type : Nat) : Nat :=
  if isFgx type then (if isReduce op then 289 else 32 * collElem type + 1) else collElem type

/-- One combining step (R92, R86, R82), on units. -/
def combineUnit (type red : Nat) (a b : List Byte) : List Byte :=
  let x := ofLE a
  let y := ofLE b
  if type = 0xA then
    let u := BitVec.ofNat 16 x
    let v := BitVec.ofNat 16 y
    leBytes 2 (if red = 0 then bf16Add u v else if red = 1 then bf16Min u v else bf16Max u v).toNat
  else if type = 0xC then
    let u := BitVec.ofNat 32 x
    let v := BitVec.ofNat 32 y
    leBytes 4 (if red = 0 then f32Add u v else if red = 1 then f32Min u v else f32Max u v).toNat
  else if type = 0xF then
    leBytes 4 (if red = 0 then (x + y) % 2 ^ 32
      else if red = 1 then (if sgn 32 y < sgn 32 x then y else x) else (if sgn 32 x < sgn 32 y then y else x))
  else
    let elem (i : Nat) : List Byte :=
      let p := numAt a (9 * i) 8
      let q := numAt b (9 * i) 8
      let g := numAt a (9 * i + 8) 1
      let h := numAt b (9 * i + 8) 1
      if red = 0 then leBytes 8 (lowBits 64 (sgn 64 p + sgn 64 q)) ++ leBytes 1 g
      else
        let u := (ofFgx g (sgn 64 p)).1
        let v := (ofFgx h (sgn 64 q)).1
        if (if red = 1 then fvBelow v u else fvBelow u v) then leBytes 8 q ++ leBytes 1 h else leBytes 8 p ++ leBytes 1 g
    (List.range 32).flatMap elem ++ leBytes 1 (if numAt a 288 1 ≠ 0 ∨ numAt b 288 1 ≠ 0 ∨ numAt a 8 1 ≠ numAt b 8 1 then 1 else 0)

/-- Two vectors combined unit by unit. -/
def combineAll (op type red : Nat) : Nat → List Byte → List Byte → List Byte
  | 0, _, _ => []
  | n + 1, a, b =>
    let w := unitBytes op type
    combineUnit type red (a.take w) (b.take w) ++ combineAll op type red n (a.drop w) (b.drop w)

/-- Elements and grid bytes of memory in the form in which they travel, and whether a reduction read an invalid grid
(R76). -/
def toUnits (op type : Nat) (elems grids : List Byte) : List Byte × Bool :=
  if !isFgx type then (elems, false)
  else
    let e := collElem type
    let blocks := (List.range grids.length).zip (cutEach (32 * e) grids.length elems) |>.map (fun b => (numAt grids b.1 1, b.2))
    if !isReduce op then (blocks.flatMap (fun b => b.2 ++ leBytes 1 b.1), false)
    else
      (blocks.flatMap (fun b =>
        (List.range 32).flatMap (fun i =>
          leBytes 8 (if b.1 = 255 then 0 else lowBits 64 (sgn (8 * e) (numAt b.2 (e * i) e))) ++ leBytes 1 b.1) ++ [0]),
       blocks.any (fun b => b.1 == 255))

/-- One block of an FGX reduction's result: its elements, its grid byte, and whether FGX_OVF is set (R82, R76, R277). The
grid byte of a block whose contributions, or whose winning elements, carry different grids is a free value, one for given
contributions, so that every member and every like run has the same (spec/00 R1, notes/assumptions/28.md). -/
def fgxResult (type red : Nat) (u : List Byte) : List Byte × Byte × Bool :=
  let e := collElem type
  let vals := (List.range 32).map (fun i => sgn 64 (numAt u (9 * i) 8))
  let g := numAt u 8 1
  let zero := List.replicate (32 * e) (0 : Byte)
  let put (g : Byte) : List Byte × Byte × Bool :=
    let l := vals.map (satInt (8 * e))
    (l.flatMap (fun x => leBytes e (lowBits (8 * e) x.1)), g, l.any (fun x => x.2))
  if red = 0 then
    if numAt u 288 1 ≠ 0 then (zero, Config.mixedGrid u, true)
    else if g = 255 then (zero, 255, true)
    else put (BitVec.ofNat 8 g)
  else if (List.range 32).any (fun i => numAt u (9 * i + 8) 1 != g) then put (Config.mixedGrid u)
  else if g = 255 then (zero, 255, true)
  else put (BitVec.ofNat 8 g)

/-- A result's units as elements and grid bytes; the flag says that FGX_OVF is set. -/
def ofUnits (op type red : Nat) : Nat → List Byte → List Byte × List Byte × Bool
  | 0, _ => ([], [], false)
  | n + 1, l =>
    let w := unitBytes op type
    let (el, gr, ov) : List Byte × List Byte × Bool :=
      if !isFgx type then (l.take w, [], false)
      else if !isReduce op then (l.take (w - 1), (l.drop (w - 1)).take 1, false)
      else let (a, g, o) := fgxResult type red (l.take w); (a, [g], o)
    let (el', gr', ov') := ofUnits op type red n (l.drop w)
    (el ++ el', gr ++ gr', ov || ov')

/-! ### The canonical tree (R279) -/

/-- The largest power of two below `n`. -/
def treeHalf (n : Nat) : Nat := 2 ^ Nat.log2 (n - 1)

/-- The node that a rank evaluates, by its size, and the rank that its value goes to. -/
def treeFind : Nat → Nat → Nat → Option Nat → Nat → Nat × Option Nat
  | 0, _, n, p, _ => (n, p)
  | k + 1, lo, n, p, r =>
    if n ≤ 1 ∨ r = lo then (n, p)
    else
      let m := treeHalf n
      if r < lo + m then treeFind k lo m (some lo) r else treeFind k (lo + m) (n - m) (some lo) r

/-- The ranks whose nodes a node at `lo` combines, in the order of the tree. -/
def treeKids : Nat → Nat → Nat → List Nat
  | 0, _, _ => []
  | k + 1, lo, n => if n ≤ 1 then [] else treeKids k lo (treeHalf n) ++ [lo + treeHalf n]

def collParent (c : Coll) : Option Nat := (treeFind 17 0 c.n none c.rank).2
def collKids (c : Coll) : List Nat := treeKids 17 c.rank (treeFind 17 0 c.n none c.rank).1

/-- Every other rank. -/
def othersOf (c : Coll) : List Nat := (List.range c.n).filter (fun r => !(r == c.rank))

/-- The ranks that a member exchanges data with (R278). -/
def exchangeOf (c : Coll) : List Nat :=
  if isReduce c.op then
    let tree := (match collParent c with | some p => [p] | none => []) ++ collKids c
    if c.op = 1 then (if c.rank = 0 then othersOf c else (tree ++ [0]).eraseDups) else tree
  else if c.op = 4 then (if c.rank = c.root then othersOf c else [c.root])
  else othersOf c

/-! ### What has come, and what is due -/

/-- Units that a rank sends this member: a node of the tree from a higher rank, a result from a lower one, or a block. -/
def unitsFrom (c : Coll) (r : Nat) : Nat :=
  (if c.op = 1 ∧ c.rank < r then c.n * c.count else c.count) / unitElems c.type

/-- Pieces put in the order of their offsets. -/
def insertPiece (p : Nat × List Byte) : List (Nat × List Byte) → List (Nat × List Byte)
  | [] => [p]
  | q :: t => if p.1 ≤ q.1 then p :: q :: t else q :: insertPiece p t

/-- What a rank has sent, once whole: its units, and the rank whose contribution to it came last. -/
def gotFrom (c : Coll) (r : Nat) : Option (List Byte × Nat) :=
  let l := ((c.contrib.filter (fun e => e.1 == r)).foldl (fun acc e => insertPiece e.2 acc) []).flatMap (fun e => e.2)
  let n := unitsFrom c r * unitBytes c.op c.type
  if l.length = n + 4 then some (l.take n, numAt l n 4) else none

/-- The rank whose contribution came last, among those that this member has received. -/
def lastHere (c : Coll) (from' : List Nat) : Nat :=
  if c.allEarly then c.rank
  else match (c.arrived.filter (fun r => from'.contains r)).getLast? with
    | some r => (match gotFrom c r with | some (_, l) => l | none => r)
    | none => c.rank

/-- The ranks' values in the order in which a node combines them: canonical, or that of arrival for a RELAXED sum (R279,
R281). -/
def collRelaxed (c : Coll) : Bool := c.arrival && decide (c.red = 0) && (c.type == 0xA || c.type == 0xC) && isReduce c.op

def foldOrder (c : Coll) : List Nat :=
  if collRelaxed c then c.arrived.filter (fun r => (collKids c).contains r) else collKids c

/-- The value of this member's node, once every rank below it has come. -/
def nodeValue (c : Coll) : Option (List Byte) :=
  if (collKids c).all (fun r => (gotFrom c r).isSome) then
    some ((foldOrder c).foldl (fun acc r =>
      match gotFrom c r with
      | some (l, _) => combineAll c.op c.type c.red (acc.length / unitBytes c.op c.type) acc l
      | none => acc) c.own)
  else none

/-- `n` units from unit `o` of a vector. -/
def unitsAt (c : Coll) (l : List Byte) (o n : Nat) : List Byte :=
  let w := unitBytes c.op c.type
  (l.drop (o * w)).take (n * w)

/-- The reduction's result on this member: of the root of the tree, or as it came down; with the last rank. -/
def collResult (c : Coll) : Option (List Byte × Nat) :=
  let k := c.count / unitElems c.type
  match collParent c with
  | none => (nodeValue c).map (fun l => (if c.op = 1 then unitsAt c l 0 k else l, lastHere c (collKids c)))
  | some p => gotFrom c (if c.op = 1 then 0 else p)

/-- What is ready to be sent: rank, units, last rank. -/
def collDue (c : Coll) : List (Nat × List Byte × Nat) :=
  let k := c.count / unitElems c.type
  if isReduce c.op then
    let up := match collParent c, nodeValue c with
      | some p, some l => [(p, l, lastHere c (collKids c))]
      | _, _ => []
    let down :=
      if c.op = 1 then
        (if c.rank = 0 then
          (match nodeValue c with
           | some l => (othersOf c).map (fun r => (r, unitsAt c l (r * k) k, lastHere c (collKids c)))
           | none => [])
         else [])
      else match collResult c with
        | some (l, last) => (collKids c).map (fun r => (r, l, last))
        | none => []
    up ++ down
  else if c.op = 4 then (if c.rank = c.root then (othersOf c).map (fun r => (r, c.own, c.rank)) else [])
  else (othersOf c).map (fun r => (r, if c.op = 3 then unitsAt c c.own (r * k) k else c.own, c.rank))

/-- The ranks that send to this member. -/
def sendersOf (c : Coll) : List Nat :=
  if isReduce c.op then
    collKids c ++ (if c.rank = 0 then [] else if c.op = 1 then [0] else match collParent c with | some p => [p] | none => [])
  else if c.op = 4 then (if c.rank = c.root then [] else [c.root])
  else othersOf c

/-- The ranks that this member sends to. -/
def receiversOf (c : Coll) : List Nat :=
  if isReduce c.op then
    (match collParent c with | some p => [p] | none => [])
      ++ (if c.op = 1 then (if c.rank = 0 then othersOf c else []) else collKids c)
  else if c.op = 4 then (if c.rank = c.root then othersOf c else [])
  else othersOf c

/-- Whether nothing more is to be received or sent. -/
def collDone (c : Coll) : Bool :=
  (sendersOf c).all (fun r => (gotFrom c r).isSome) && (receiversOf c).all (fun r => c.sentTo.contains r)

/-- What RECV receives, in units. -/
def collFinal (c : Coll) : List Byte × Nat :=
  if isReduce c.op then (collResult c).getD ([], c.rank)
  else
    let k := c.count / unitElems c.type
    let last := lastHere c (sendersOf c)
    let blk (r : Nat) : List Byte :=
      if r = c.rank then (if c.op = 3 then unitsAt c c.own (r * k) k else c.own)
      else match gotFrom c r with | some (l, _) => l | none => []
    if c.op = 4 then (if c.rank = c.root then c.own else blk c.root, last)
    else ((List.range c.n).flatMap blk, last)

/-! ### Messages -/


/-- The segments of what goes to a rank: their offsets in elements and their bytes, at most 4,096 (R276). -/
def segsOf (op type : Nat) (l : List Byte) : List (Nat × List Byte) :=
  let w := unitBytes op type
  let per := 4088 / w
  let units := (l.length - 4) / w
  let cnt := max 1 (ceilDiv units per)
  (List.range cnt).map (fun i =>
    (i * per * unitElems type, if i + 1 = cnt then l.drop (i * per * w) else (l.drop (i * per * w)).take (per * w)))

/-- A COLL packet to a rank's module (R256, R276). -/
def collPkt (s : State) (n : Nat) (x : Stream) (c : Coll) (dst : Nat) (body : List Byte) : State :=
  let sl := (getCtx s x.ctx).slot
  let f : FabPkt :=
    { dst := dst, vc := 3, kind := 5, src := ownModule s, lane := laneOf (602 + halfOfStream n) c.groupId,
      pid := (getSlot s sl).brec.pid, pgen := (getSlot s sl).pgen, tag := BitVec.ofNat 64 (c.groupId + c.seq * 2 ^ 32), ctx := x.ctx, data := body }
  match sendSlot s sl (some (c.groupId + c.rank)) f with
  | .sent s => s
  | .noRoute s => { s with fab := { s.fab with cutColls := s.fab.cutColls ++ [(x.ctx, f.tag)] } }

/-- A message to a rank: under way on this module, or a packet whose header's segment index is 2^32 - 1 for an announcement,
2^32 - 2 for an abort and 2^32 - 3 for a grant, with the CRC, the status or the number of segments as its offset; the rank's stream opens the
data (DESIGN CHOICE, notes/assumptions/28.md). -/
def collMsg (s : State) (n : Nat) (x : Stream) (c : Coll) (r : Nat) (m : Nat → CollMsg) (idx off : Nat) (data : List Byte) : State :=
  match c.members[r]? with
  | none => s
  | some (dst, st) =>
    if dst = ownModule s then { s with fab := { s.fab with collMsgs := s.fab.collMsgs ++ [m st] } }
    else collPkt s n x c dst (leBytes 4 c.rank ++ leBytes 4 idx ++ leBytes 8 off ++ leBytes 4 st ++ data)

/-- What a list of ranks with counts gives for a rank. -/
def countOf (l : List (Nat × Nat)) (r dflt : Nat) : Nat := match l.find? (fun e => e.1 == r) with | some e => e.2 | none => dflt

/-- A rank's count put into such a list. -/
def putCount (l : List (Nat × Nat)) (r k : Nat) : List (Nat × Nat) := (r, k) :: l.filter (fun e => !(e.1 == r))

/-- The segments that go to a rank now: those from the first not sent up to the receiver's grant, which is 64 until it tells more (R279). -/
def segsNow (c : Coll) (d : Nat × List Byte × Nat) : List (Nat × Nat × List Byte) :=
  let l := segsOf c.op c.type (d.2.1 ++ leBytes 4 d.2.2)
  (((List.range l.length).zip l).take (countOf c.granted d.1 64)).drop (countOf c.outs d.1 0)

/-- What is due and whose receiver has announced SEQ is sent, as far as the receiver's grant goes (R278, R279). -/
def collAdvance (s : State) (n : Nat) : State :=
  let x := getStream s n
  match x.cur with
  | none => s
  | some c =>
    let due := (collDue c).filter (fun d => c.announced.contains d.1 && !c.sentTo.contains d.1)
    let whole (d : Nat × List Byte × Nat) : Bool :=
      decide ((segsOf c.op c.type (d.2.1 ++ leBytes 4 d.2.2)).length ≤ countOf c.outs d.1 0 + (segsNow c d).length)
    let c' := { c with sentTo := c.sentTo ++ (due.filter whole).map (fun d => d.1),
                       outs := due.foldl (fun l d => putCount l d.1 (countOf l d.1 0 + (segsNow c d).length)) c.outs }
    due.foldl (fun s d => (segsNow c d).foldl (fun s g =>
      collMsg s n x c d.1 (fun st => .seg st c.groupId c.seq c.rank g.2.1 g.2.2) g.1 g.2.1 g.2.2) s) (setStream s n { x with cur := some c' })

/-- Segments of a rank that this member has combined: in a canonical order, those whose turn has come, which the ranks before it in the order have
sent too; otherwise all that have come (R279-R281). -/
def segsTaken (c : Coll) (r : Nat) : Nat :=
  let have' (q : Nat) : Nat := (c.contrib.filter (fun e => e.1 == q)).length
  if isReduce c.op && !collRelaxed c && (collKids c).contains r then
    ((collKids c).takeWhile (fun q => !(q == r))).foldl (fun k q => min k (have' q)) (have' r)
  else have' r

/-- A contributor's grant comes (R279): what it allows is sent. -/
def takeGrant (s : State) (n gid sq rank k : Nat) : State :=
  let x := getStream s n
  match x.cur with
  | none => s
  | some c =>
    if c.groupId = gid ∧ c.seq = sq then
      collAdvance (setStream s n { x with cur := some { c with granted := putCount c.granted rank (max k (countOf c.granted rank 64)) } }) n
    else s

/-- The grants of at most 64 segments ahead of those combined (R279), told each time 32 more are allowed (DESIGN CHOICE, notes/assumptions/28.md). -/
def giveGrants (s : State) (n : Nat) : State :=
  match (getStream s n).cur with
  | none => s
  | some c =>
    (sendersOf c).foldl (fun s r =>
      let x := getStream s n
      match x.cur with
      | none => s
      | some c =>
        let k := segsTaken c r + 64
        if k < countOf c.told r 64 + 32 then s
        else
          let s := setStream s n { x with cur := some { c with told := putCount c.told r k } }
          match c.members[r]? with
          | none => s
          | some (dst, st) =>
            if dst = ownModule s then takeGrant s st c.groupId c.seq c.rank k
            else collMsg s n x c r (fun st => .abort st c.groupId c.seq 0) (2 ^ 32 - 3) k []) s

/-! ### Turns and their ends (R274) -/

/-- The wait on the doorbell for the next descriptor. -/
def armStream (s : State) (n : Nat) : State :=
  let x := getStream s n
  registerWait (setStream s n { x with ready := false }) { ev := evNum x.door, target := x.count + 1, who := .stream n }

/-- What a stream has asked of other modules is forgotten: an answer that still comes is chaff (R47). -/
def dropAsked (s : State) (n : Nat) : State :=
  { s with fab := { s.fab with outst := s.fab.outst.filter (fun o => match o.who with | .stream m _ _ => !(m == n) | _ => true) } }

/-- A stream is OFF: its wait and what it kept leave. -/
def stopStream (s : State) (n : Nat) : State :=
  let x := getStream s n
  dropWaits (setStream (dropAsked s n) n
    { x with st := 0, stopping := false, ready := false, far := [], early := [], aborts := [], cur := none }) (fun w => w.who == .stream n)

/-- The address of the descriptor that a stream's turn is at. -/
def descAt (x : Stream) : Nat := x.ring + x.count.toNat % 2 ^ (x.log2 + 4) * 128

/-- A turn ends: STATUS, LAST_RANK where the collective was completed, and the completion record; the stream goes on. -/
def endTurn (s : State) (n status : Nat) (last : Option Nat) : State :=
  let x := getStream s n
  let s := ringWrite s (halfOfStream n) 0 x.ctx (descAt x + 0x40) (leBytes 4 status ++ (match last with | some r => leBytes 4 r | none => []))
  let x := match x.cur with
    | some c => { x with early := x.early.filter (fun e => !(e.2.1 == c.groupId && e.2.2.1 == c.seq)),
                         aborts := x.aborts.filter (fun e => !(e.1 == c.groupId && e.2.1 == c.seq)),
                         ended := tabSet (fun _ => none) x.ended c.groupId (some c.seq) }
    | none => x
  let posts := x.posts.filter (fun p => !waitMet (x.count + 1) p.2.1)
  let s := setStream (dropAsked s n) n { x with cur := none, count := x.count + 1, ready := false, far := [], posts := posts }
  let s := (record s (evNum x.doneEvt) (x.count + 1)).2
  if (getStream s n).stopping then stopStream s n
  else if (getStream s n).st = 1 then armStream s n
  else s

/-- A member aborts its collective: the status goes to every other rank, and the turn ends with `own` (R283). -/
def collStop (s : State) (n : Nat) (c : Coll) (status own : Nat) : State :=
  let x := getStream s n
  let s := (othersOf c).foldl (fun s r => collMsg s n x c r (fun st => .abort st c.groupId c.seq status) (2 ^ 32 - 2) status [])
    (setStream s n { x with cur := some c })
  endTurn s n own none

/-- The collective of a stream aborted. -/
def collAbort (s : State) (n status own : Nat) : State :=
  match (getStream s n).cur with
  | some c => collStop s n c status own
  | none => s

/-- The collectives and streams of a context that is torn down (R283, R273). -/
def collTeardown (s : State) (ctx own : Nat) : State :=
  ((s.fab.streams.filter (fun e => e.2.ctx == ctx && decide (e.2.st ≠ 0))).map (·.1)).foldl
    (fun s n => stopStream (collAbort s n stUnc own) n) s

/-- The collectives with a member on a module that the fabric reports as gone (R283). -/
def collPeerGone (s : State) (mid : Nat) : State :=
  ((s.fab.streams.filter (fun e => match e.2.cur with
      | some c => c.members.any (fun m => m.1 == mid) | none => false)).map (·.1)).foldl (fun s n => collAbort s n stUnc stUnc) s

/-- Collectives whose packet has found no path end (R283). -/
def collsCut (s : State) : State :=
  s.fab.cutColls.foldl (fun s e =>
    ((s.fab.streams.filter (fun y => y.2.ctx == e.1 && (match y.2.cur with
      | some c => BitVec.ofNat 64 (c.groupId + c.seq * 2 ^ 32) == e.2 | none => false))).map (·.1)).foldl (fun s n => collAbort s n stUnc stUnc) s)
    { s with fab := { s.fab with cutColls := [] } }

/-! ### Streams enabled and disabled (R273) -/

/-- The checks of R273: the status of the first that fails. -/
def streamCheck (s : State) (x : Stream) : Option Nat × State :=
  if (getCtx s x.ctx).st ≠ 1 then (some stLost, s)
  else if 10 < x.log2 ∨ x.ring % 2 ^ (x.log2 + 11) ≠ 0 then (some stLen, s)
  else match ringOk s x.ctx x.ring (x.log2 + 11) with
    | (false, s) => (some stDenied, s)
    | (true, s) => (if holdsEvent s x.ctx x.door && holdsEvent s x.ctx x.doneEvt then none else some stDenied, s)

/-- 1 written to the STATE of a stream. -/
def streamOn (s : State) (n : Nat) : State :=
  let x := getStream s n
  if x.st = 1 then s
  else match streamCheck s x with
    | (some st, s) => setStream s n { x with st := 2, err := BitVec.ofNat 16 st }
    | (none, s) => armStream (setStream s n { x with st := 1, count := 0, stopping := false, ready := false, early := [], aborts := [], ended := [], posts := [], cur := none }) n

/-- 0 written to it: the stream is disabled after its current descriptor. -/
def streamOff (s : State) (n : Nat) : State :=
  let x := getStream s n
  if x.cur.isSome then setStream s n { x with stopping := true } else stopStream s n

/-- DEV_COLS_CTRL written (R273, R288): the stream that DEV_COLS_SEL selects. -/
def colsCtrl (v : W32) (s : State) : State :=
  let n := s.dev.colsSel.toNat
  match fld v.toNat 0 2 with
  | 0 => streamOff s n
  | 1 => streamOn s n
  | _ => s

/-! ### The start of a turn (R278) -/

/-- Elements of SEND and of RECV. -/
def sendElems (op n count : Nat) : Nat := if op = 1 ∨ op = 3 then n * count else count
def recvElems (op n count : Nat) : Nat := if op = 2 ∨ op = 3 then n * count else count

/-- Check 1's part that needs no group: the fields of R275. -/
def descFieldsOk (d : List Byte) : Bool :=
  let w := numAt d 0 4
  let op := fld w 0 4
  let ty := fld w 4 4
  let count := numAt d 0x10 8
  decide (op ≤ 4) && [0xA, 0xC, 0xD, 0xE, 0xF].contains ty && decide (fld w 8 2 ≤ 2) && (decide (op < 2) || decide (fld w 8 2 = 0))
    && (decide (op = 4) || decide (numAt d 8 4 = 0)) && decide (1 ≤ count) && decide (count ≤ 2 ^ 32)
    && (!isFgx ty || decide (count % 32 = 0)) && (isFgx ty || (decide (numAt d 0x30 8 = 0) && decide (numAt d 0x38 8 = 0)))

/-- The buffer extents fit in 2^40 bytes (R277). -/
def descSizesOk (d : List Byte) (n : Nat) : Bool :=
  let op := fld (numAt d 0 4) 0 4
  let e := collElem (fld (numAt d 0 4) 4 4)
  let count := numAt d 0x10 8
  decide (sendElems op n count * e ≤ 2 ^ 40) && decide (recvElems op n count * e ≤ 2 ^ 40)

/-- The collective that a descriptor and a group table spell. -/
def collOf (d tab : List Byte) : Coll :=
  let w := numAt d 0 4
  let n := numAt tab 0 4
  { op := fld w 0 4, type := fld w 4 4, red := fld w 8 2, arrival := bitAt w 10, rank := numAt d 4 4, root := numAt d 8 4,
    seq := numAt d 0xC 4, count := numAt d 0x10 8, recv := numAt d 0x28 8, rgrid := numAt d 0x38 8, n := n,
    groupId := numAt tab 4 4,
    members := (List.range n).map (fun r => let m := numAt tab (16 + 4 * r) 4; (fld m 0 14, fld m 14 9)),
    crc := crc32c (tab ++ sliceZ d 0 4 ++ sliceZ d 8 16), own := [] }

/-- The group table read; `bad` where it cannot be, or its N is out of range. -/
def readGroup (s : State) (n va : Nat) : VRead :=
  match vRead s n va 16 with
  | .ok h s =>
    let k := numAt h 0 4
    if k = 0 ∨ 65536 < k then .bad s else vRead s n va (16 + 4 * k)
  | r => r

/-- Check 3: the extents of the buffers (R278); none while another module is being asked. -/
def buffersOk (s : State) (n : Nat) (c : Coll) (send sgrid : Nat) : Option Bool × State :=
  let e := collElem c.type
  let se := sendElems c.op c.n c.count
  let re := recvElems c.op c.n c.count
  let reads := c.op ≠ 4 ∨ c.rank = c.root
  let l : List (Nat × Nat × ReqKind) :=
    (if reads then [(send, se * e, .read)] else []) ++ [(c.recv, re * e, .write)]
      ++ (if isFgx c.type then (if reads then [(sgrid, se / 32, .read)] else []) ++ [(c.rgrid, re / 32, .write)] else [])
  l.foldl (fun acc b =>
    if acc.1 ≠ some true then acc
    else match vSpan acc.2 n b.2.2 b.1 b.2.1 with
      | .ok _ _ s => (some true, s)
      | .bad s => (some false, s)
      | .wait s => (none, s)) (some true, s)

/-- The contributions of a member read from SEND and SGRID (R277). -/
def readSend (s : State) (n : Nat) (c : Coll) (send sgrid : Nat) : VRead :=
  if c.op = 4 ∧ c.rank ≠ c.root then .ok [] s
  else
    let se := sendElems c.op c.n c.count
    match vRead s n send (se * collElem c.type) with
    | .ok l s =>
      (if !isFgx c.type then .ok l s
       else match vRead s n sgrid (se / 32) with
         | .ok g s =>
           let (u, ov) := toUnits c.op c.type l g
           .ok u (if ov then collOvf s (getStream s n) else s)
         | r => r)
    | r => r

/-- An announcement by a rank for the collective under way (R278): a differing CRC makes the context LOST and aborts. -/
def takeAnnounce (s : State) (n rank : Nat) (crc : W32) : State :=
  let x := getStream s n
  match x.cur with
  | none => s
  | some c =>
    if crc ≠ c.crc then
      collStop (loseStatus x.ctx stLost (halfOfStream n) s) n c stLost stLost
    else collAdvance (setStream s n { x with cur := some { c with announced := (c.announced ++ [rank]).eraseDups } }) n

/-- An abort of a stream's collective: its status ends the turn; CTX_LOST, that announcements disagree, makes the context LOST (R283). -/
def abortTurn (s : State) (n status : Nat) : State :=
  endTurn (if status = stLost then loseStatus (getStream s n).ctx stLost (halfOfStream n) s else s) n status none

/-- A collective begins: an abort that came before the turn ends it (R283); otherwise its own announcements, and those that came early. -/
def beginColl (s : State) (n : Nat) (c : Coll) : State :=
  let x := getStream s n
  let same (g q : Nat) : Bool := g == c.groupId && q == c.seq
  let mine := x.early.filter (fun e => same e.2.1 e.2.2.1)
  let c := { c with allEarly := (othersOf c).all (fun r => mine.any (fun e => e.1 == r) || !(exchangeOf c).contains r) && decide (1 < c.n) }
  let s := setStream s n { x with cur := some c, ready := false, far := [], early := x.early.filter (fun e => !same e.2.1 e.2.2.1) }
  match x.aborts.find? (fun e => same e.1 e.2.1) with
  | some (_, _, st) => abortTurn s n st
  | none =>
    let s := (exchangeOf c).foldl (fun s r =>
      collMsg s n x c r (fun st => .announce st c.rank c.groupId c.seq c.crc) (2 ^ 32 - 1) c.crc.toNat []) s
    mine.foldl (fun s e => takeAnnounce s n e.1 e.2.2.2) s

/-- A check of extents that fails (R278, R283): ACCESS_DENIED; where it has ended the context, what R283 gives its loss. -/
def collDenied (s : State) (n : Nat) (c : Coll) : State :=
  if (getCtx s (getStream s n).ctx).st = 1 then collStop s n c stDenied stDenied else collStop s n c stUnc stLost

/-- COLL_DESCRIPTOR_START (R274, R278): a stream whose doorbell has come reads its next descriptor and begins it, or
aborts it with the first check that fails. -/
def execCollDescriptorStart (n : Nat) (s : State) : Host.Outcome State Fault Refusal :=
  let x := getStream s n
  if x.st ≠ 1 ∨ !x.ready ∨ x.cur.isSome ∨ halfOff s (halfOfStream n) then .next s
  else match vRead s n (descAt x) 128 with
    | .wait s => .next s
    | .bad s => .next (endTurn s n (if (getCtx s x.ctx).st = 1 then stDenied else stLost) none)
    | .unc s => .next (endTurn s n stUnc none)
    | .ok d s =>
      match readGroup s n (numAt d 0x18 8) with
      | .wait s => .next s
      | .unc s => .next (endTurn s n (if descFieldsOk d then stUnc else stLen) none)
      | .bad s => .next (endTurn s n (if (getCtx s x.ctx).st = 1 then stLen else stLost) none)
      | .ok tab s =>
        let c := collOf d tab
        if !descFieldsOk d || !descSizesOk d c.n || decide (c.n ≤ c.root) || decide (c.n ≤ c.rank)
            || decide (c.members[c.rank]? ≠ some (ownModule s, n)) then .next (collStop s n c stLen stLen)
        else
          let send := numAt d 0x20 8
          let sgrid := numAt d 0x30 8
          match buffersOk s n c send sgrid with
          | (none, s) => .next s
          | (some false, s) => .next (collDenied s n c)
          | (some true, s) =>
            match readSend s n c send sgrid with
            | .wait s => .next s
            | .bad s => .next (collDenied s n c)
            | .unc s => .next (collStop s n c stUnc stUnc)
            | .ok l s => .next (beginColl s n { c with own := l })

/-! ### What comes from other members -/

/-- Whether a rank of the collective under way is on another module. -/
def farRank (s : State) (c : Coll) (r : Nat) : Bool := match c.members[r]? with | some m => m.1 != ownModule s | none => false

/-- COLL_ANNOUNCE (R278): an announcement under way on this module, or one of another module's engine; one for a collective
that the stream has not begun is kept for its turn. -/
def execCollAnnounce (n rank : Nat) (g : CollTag) (crc : W32) (s : State) : Host.Outcome State Fault Refusal :=
  let m : CollMsg := .announce n rank g.gid g.seq crc
  let near := s.fab.collMsgs.contains m
  let s := { s with fab := { s.fab with collMsgs := s.fab.collMsgs.erase m } }
  let x := getStream s n
  if x.st ≠ 1 then .next s
  else match x.cur with
    | some c =>
      if c.groupId = g.gid ∧ c.seq = g.seq then .next (if near || farRank s c rank then takeAnnounce s n rank crc else s)
      else .next (setStream s n { x with early := x.early ++ [(rank, g.gid, g.seq, crc)] })
    | none => .next (setStream s n { x with early := x.early ++ [(rank, g.gid, g.seq, crc)] })

/-- COLL (R279): a segment is received, held until what it belongs to is whole, combined in its turn, and what is then due
goes on; the sender is granted more as its segments are combined. -/
def execColl (n rank : Nat) (seg : CollSeg) (data : List Byte) (s : State) : Host.Outcome State Fault Refusal :=
  let g := seg.tag
  let m : CollMsg := .seg n g.gid g.seq rank seg.off data
  let near := s.fab.collMsgs.contains m
  let s := { s with fab := { s.fab with collMsgs := s.fab.collMsgs.erase m } }
  let x := getStream s n
  match x.cur with
  | none => .next s
  | some c =>
    if decide (c.groupId ≠ g.gid) || decide (c.seq ≠ g.seq) || !(near || farRank s c rank) || !(sendersOf c).contains rank || c.contrib.any (fun e => e.1 == rank && e.2.1 == seg.off) then .next s
    else
      let c := { c with contrib := c.contrib ++ [(rank, seg.off, data)] }
      let c := if (gotFrom c rank).isSome then { c with arrived := c.arrived ++ [rank] } else c
      .next (giveGrants (collAdvance (setStream s n { x with cur := some c }) n) n)

/-- The last-arriving rank is told to the power controller of the partition's lead (R282, spec/12 R348): the group, SEQ and
the module of the rank. -/
def tellLast (s : State) (ctx half : Nat) (c : Coll) (last : Nat) : State :=
  let slot := (getCtx s ctx).slot
  let m := match c.members[last]? with | some m => m.1 | none => ownModule s
  let sl := getSlot s slot
  if sl.brec.lead = ownModule s then
    let e := (c.groupId, c.seq, m)
    if sl.lastRank.contains e then s else setSlot s slot { sl with lastRank := sl.lastRank ++ [e] }
  else sendForCtx s ctx sl.brec.lead (602 + half) c.groupId
    { opcode := opLastRank, w4 := BitVec.ofNat 32 c.groupId, w5 := BitVec.ofNat 32 sl.brec.pid, w6 := BitVec.ofNat 32 c.seq,
      w7 := BitVec.ofNat 32 m }

/-- RECV or RGRID written, on this module at once and on another by requests; the write can only miss what has changed since check 3. -/
def bufWrite (s : State) (n va : Nat) (l : List Byte) : State :=
  if l.isEmpty then s
  else
    let ctx := (getStream s n).ctx
    match vEnt s n .write va l.length with
    | (some (e, v), s) =>
      if entLocal s e v then
        match entWrite s ctx e v l with
        | .ok _ s => s
        | .unc s => s
        | _ => s
      else farPieces s n e v va l.length 3 l
    | (none, s) => s

/-- The end of a collective whose results have been written (R274, R280-R282). -/
def finishColl (s : State) (n : Nat) (c : Coll) (last : Nat) (ov : Bool) : State :=
  let x := getStream s n
  let s := if ov then collOvf s x else s
  let s := if collRelaxed c then ctxRelaxed s x.ctx else s
  endTurn (tellLast s x.ctx (halfOfStream n) c last) n (if ov then stFgx else stOk) (some last)

/-- COLL_COMPLETE (R274, R280, R281): once everything has come and gone out, RECV and RGRID, STATUS and LAST_RANK are
written, and the completion is recorded; not before another module has written what it was sent. -/
def execCollComplete (n : Nat) (s : State) : Host.Outcome State Fault Refusal :=
  let x := getStream s n
  match x.cur with
  | none => .next s
  | some c =>
    if !collDone c ∨ halfOff s (halfOfStream n) then .next s
    else
      let (u, last) := collFinal c
      let (el, gr, ov) := ofUnits c.op c.type c.red (u.length / unitBytes c.op c.type) u
      let s := if c.wrote then s
        else bufWrite (bufWrite (setStream s n { x with cur := some { c with wrote := true } }) n c.recv el) n c.rgrid gr
      if (getStream s n).far.any (fun p => p.st.isNone) then .next s
      else .next (finishColl s n c last ov)

/-- What another module answers a stream (R278, R274): with the last answer the start or the end of the turn goes on. -/
def streamAnswer (s : State) (n va op status : Nat) (data : List Byte) : State :=
  let x := getStream s n
  let x := { x with far := x.far.map (fun p => if p.va == va && p.op == op && p.st.isNone then { p with st := some status, data := data } else p) }
  let s := setStream s n x
  if x.far.any (fun p => p.st.isNone) then s
  else match (if x.cur.isSome then execCollComplete n s else execCollDescriptorStart n s) with
    | .next s => s
    | _ => s

/-- COLL_ABORT (R283): an abort under way on this module, or one of another module's engine. One for a collective that the stream has not
begun is kept for its turn; one for a collective that has ended here says nothing more. -/
def execCollAbort (n : Nat) (e : CollEnd) (s : State) : Host.Outcome State Fault Refusal :=
  let g := e.tag
  let m : CollMsg := .abort n g.gid g.seq e.status
  let near := s.fab.collMsgs.contains m
  let s := { s with fab := { s.fab with collMsgs := s.fab.collMsgs.erase m } }
  let x := getStream s n
  let keep : State :=
    if x.st ≠ 1 ∨ tabGet (fun _ => none) x.ended g.gid = some g.seq then s else setStream s n { x with aborts := x.aborts ++ [(g.gid, g.seq, e.status)] }
  match x.cur with
  | none => .next keep
  | some c =>
    if c.groupId = g.gid ∧ c.seq = g.seq then .next (if near || (othersOf c).any (farRank s c) then abortTurn s n e.status else s)
    else .next keep

/-- COLL_TIMEOUT (R283): nothing has come from an awaited rank for DEV_COLS_TIMEOUT. -/
def execCollTimeout (n : Nat) (s : State) : Host.Outcome State Fault Refusal :=
  let x := getStream s n
  match x.cur with
  | none => .next s
  | some c =>
    let waits := (exchangeOf c).any (fun r => !c.announced.contains r) || (sendersOf c).any (fun r => (gotFrom c r).isNone)
    if x.timeout = 0 ∨ !waits then .next s else .next (collAbort s n stTimeout stTimeout)

end Sys2Proof.Machine
end

