-- ==== Sys2Proof/Machine/Handoff.lean ====
section
/-! DEFINITION. The handoff commands (spec/02 R57-R62): messages received from other modules, repeats and timeouts, run-table
updates and flushes, and what follows a module's failure (R61). -/
namespace Sys2Proof.Machine

/-- Whether a module is a member of a slot's partition (R40). -/
def isMember (s : State) (slot mid : Nat) : Bool := (otherMembers s slot).contains mid

/-- The start of a handoff message: from a member module of the partition that word 4 names (R40). -/
def handStart (f : Nat → Handler) : Handler := fun q p s =>
  match q, slotOfPid s p.w4.toNat with
  | .fabric mid _ _, some slot => if isMember s slot mid then f slot q p s else answer q p stOpcode s
  | .fabric _ _ _, none => answer q p stUnbound s
  | _, _ => answer q p stOpcode s

/-- A message for the lead (R58); another module is not the one to ask. -/
def forLead (slot : Nat) : Handler := fun q p s =>
  if leadFor s slot = ownModule s then leadDo s slot q p else answer q p stDenied s

/-- The offer's pieces (R58): the first is checked as step 1 of R53, the last completes the state; a state with a good
digest is accepted, and a repeat is answered again. -/
def takeOffer (slot : Nat) : Handler := fun q p s =>
  let lcid := fld p.w5.toNat 0 24
  let e := opB p
  let src := match q with | .fabric mid _ _ => mid | _ => ownModule s
  let accept (s : State) : State :=
    let s := match offerOf s slot lcid e with
      | some o => setOffer s { o with waits := ([src, leadFor s slot].eraseDups).filter (fun m => !(m == ownModule s)) }
      | none => s
    let s := sendHand s src 0x93 slot lcid e 0 []
    if leadFor s slot = src then s else tellLead s slot lcid 0x93 e
  let whole (o : Offer) (s : State) : State :=
    let n := o.data.length - 32
    let good := decide (32 ≤ o.data.length) && decide (shake256 (o.data.take n) 32 = o.data.drop n)
    if good then accept (setOffer s { o with data := o.data.take n, good := true }) else dropOffer s slot lcid
  match offerOf s slot lcid e with
  | some o =>
    if o.good then (if p.payload.length < 8192 then accept s else s)
    else if o.data.length ≠ 8192 * p.qpn then s
    else
      let o := { o with data := o.data ++ p.payload }
      if p.payload.length < 8192 then whole o s else setOffer s o
  | none =>
    if p.qpn ≠ 0 then s
    else
      let core := coreOfId (numAt p.payload 0 4)
      let fold := numAt p.payload 4 4
      match placeCheck s slot core fold (numAt p.payload 8 4) with
      | some st => answer q p st s
      | none =>
        let s := dropOffer s slot lcid
        let o : Offer := { slot := slot, lcid := lcid, epoch := e, src := src, data := p.payload, good := false,
                           core := core.getD 0, fold := fold }
        let s := { s with part := { s.part with offers := s.part.offers ++ [o] } }
        if p.payload.length < 8192 then whole o s else s

/-- MOVE_ACCEPT at the source: it commits (R58). An accept for an epoch that the source does not offer changes nothing. -/
def sourceAccept (s : State) (slot lcid e mid : Nat) : State :=
  match movingOf s slot lcid with
  | some m =>
    if m.st = 11 ∧ m.epoch = e ∧ m.dstMod = mid then
      tellLead (setMoving s { m with st := 13, tries := 0 }) slot lcid 0x94 e
    else s
  | none => s

/-- MOVE_ACCEPT: at the lead, at the source, or at a module that is both. -/
def takeAccept (slot : Nat) : Handler := fun q p s =>
  let lcid := fld p.w5.toNat 0 24
  let mid := match q with | .fabric mid _ _ => mid | _ => ownModule s
  if leadFor s slot = ownModule s then sourceAccept (leadDo s slot q p) slot lcid (opB p) mid
  else answer q p stOk (sourceAccept s slot lcid (opB p) mid)

/-- MOVE_COMMIT and MOVE_ABORT: at the lead, from the source; at the destination, from the lead alone (R59). -/
def takeEnd (slot : Nat) : Handler := fun q p s =>
  let lcid := fld p.w5.toNat 0 24
  let mid := match q with | .fabric mid _ _ => mid | _ => ownModule s
  if leadFor s slot = ownModule s then leadDo s slot q p
  else if mid ≠ leadFor s slot then answer q p stDenied s
  else
    let s := if p.opcode = 0x94 then destCommit s slot lcid (opB p) else destAbort s slot lcid (opB p)
    answer q p stOk s

/-- MOVE_BEGIN (R58). -/
def execMoveBegin (p : Pkt) (s : State) : Host.Outcome State Fault Refusal :=
  .next (arrive wrongOnFabric (handStart forLead) { p with opcode := 0x91 } s)

/-- MOVE_OFFER (R58, R53). -/
def execMoveOffer (p : Pkt) (s : State) : Host.Outcome State Fault Refusal :=
  .next (arrive wrongOnFabric (handStart takeOffer) { p with opcode := 0x92 } s)

/-- MOVE_ACCEPT (R58). -/
def execMoveAccept (p : Pkt) (s : State) : Host.Outcome State Fault Refusal :=
  .next (arrive wrongOnFabric (handStart takeAccept) { p with opcode := 0x93 } s)

/-- MOVE_COMMIT (R58, R59). -/
def execMoveCommit (p : Pkt) (s : State) : Host.Outcome State Fault Refusal :=
  .next (arrive wrongOnFabric (handStart takeEnd) { p with opcode := 0x94 } s)

/-- MOVE_ABORT (R58, R59). -/
def execMoveAbort (p : Pkt) (s : State) : Host.Outcome State Fault Refusal :=
  .next (arrive wrongOnFabric (handStart takeEnd) { p with opcode := 0x95 } s)

/-- OWNER_QUERY (R58). -/
def execOwnerQuery (p : Pkt) (s : State) : Host.Outcome State Fault Refusal :=
  .next (arrive wrongOnFabric (handStart forLead) { p with opcode := 0x96 } s)

/-! ### Repeats and timeouts (R60) -/

/-- The unanswered message of the source sent again. -/
def resend (s : State) (m : Moving) : State :=
  if m.st = 10 then tellLead s m.slot m.lcid 0x91 m.dstMod
  else if m.st = 11 then sendOffers s m
  else if m.st = 13 then tellLead s m.slot m.lcid 0x94 m.epoch
  else if m.st = 14 then tellLead s m.slot m.lcid 0x95 m.epoch
  else s

/-- The lead's message to a destination sent again, up to four times. -/
def retellDest (s : State) (u : LeadTell) : State :=
  let rest := s.part.tells.erase u
  if u.tries < 4 then
    sendHand { s with part := { s.part with tells := rest ++ [{ u with tries := u.tries + 1 }] } } u.mid u.op u.slot u.lcid u.epoch 0 []
  else { s with part := { s.part with tells := rest } }

/-- A destination's MOVE_ACCEPT sent again, up to four times, to those that have not answered it. -/
def reaccept (s : State) (o : Offer) : State :=
  if o.good && !o.waits.isEmpty && decide (o.tries < 4) then
    o.waits.foldl (fun s m => sendHand s m 0x93 o.slot o.lcid o.epoch 0 []) (setOffer s { o with tries := o.tries + 1 })
  else s

/-- The messages of the lead and of the destination that go out again: the write to the deputy, MOVE_COMMIT and MOVE_ABORT to
the destination, and MOVE_ACCEPT. -/
def resendOthers (s : State) (slot lcid : Nat) : State :=
  let s := match actPending s slot lcid with
    | some _ => sendRec s slot lcid (getSlot s slot).brec.deputy
    | none => s
  let s := (s.part.tells.filter (fun u => u.slot == slot && u.lcid == lcid)).foldl retellDest s
  (s.part.offers.filter (fun o => o.slot == slot && o.lcid == lcid)).foldl reaccept s

/-- HANDOFF_RETRY (R60): every handoff message without an answer goes out again, up to four times; then the source aborts an
offer or commit, and a begin, which has opened nothing that the source knows of, ends with RETRY_LATER. -/
def execHandoffRetry (slot lcid : Nat) (s : State) : Host.Outcome State Fault Refusal :=
  let s := resendOthers s slot lcid
  match movingOf s slot lcid with
  | none => .next s
  | some m =>
    if !([10, 11, 13, 14].contains m.st) then .next s
    else if m.tries < 4 then
      let m := { m with tries := m.tries + 1 }
      .next (resend (setMoving s m) m)
    else if m.st = 10 then .next (moveDrop s m stRetry)
    else if m.st = 14 then
      -- the deputy stands in for a lead that does not answer
      .next (sendHand s (getSlot s slot).brec.deputy 0x95 slot lcid m.epoch 0 [])
    else .next (sourceAbort s m stRetry)

/-- EPOCH_OPEN_TIMEOUT (R60): the lead aborts an epoch that has stayed OPEN. -/
def execEpochOpenTimeout (slot lcid : Nat) (s : State) : Host.Outcome State Fault Refusal :=
  let r := ownRec s slot lcid
  if r.st ≠ .opened ∨ (getSlot s slot).brec.lead ≠ ownModule s then .next s
  else
    .next (leadChange s { r with st := .aborted }
      { slot := slot, lcid := lcid, q := .side, pkt := {}, status := stOk, epoch := r.epoch, tell := some (r.dst, 0x95), publish := false })

/-- A logical core whose state cannot be settled: the contexts with work on it are LOST, the move ends. -/
def loseMove (s : State) (m : Moving) (half : Nat) : State :=
  let s := loseAll (ctxsOnLcid s m.slot m.lcid) stLost half s
  let s := dropMoving s m.slot m.lcid
  match m.id with
  | some id => finishStatus id stUnc s
  | none => s

/-- HANDOFF_LEAD_TIMEOUT (R60): 100 ms after the save without an answer of the lead or the deputy. -/
def execHandoffLeadTimeout (slot lcid : Nat) (s : State) : Host.Outcome State Fault Refusal :=
  match movingOf s slot lcid with
  | none => .next s
  | some m => if [11, 13, 14].contains m.st then .next (loseMove s m (halfOfCore m.srcCore)) else .next s

/-! ### The run table (R62) -/

/-- RUN_TABLE_UPDATE (R62). -/
def execRunTableUpdate (slot first mid : Nat) (s : State) : Host.Outcome State Fault Refusal :=
  if (getSlot s slot).bound ∧ first < (getSlot s slot).brec.lcount ∧ mid < 2 ^ 14 then .next (applyRun s slot first mid)
  else .next s

/-- FLUSH (R62): the flush marker has reached the new host, and the held traffic goes to it. -/
def execFlush (slot lcid : Nat) (s : State) : Host.Outcome State Fault Refusal :=
  match s.part.flushes.find? (fun f => f.slot == slot && f.lcid == lcid) with
  | none => .next s
  | some f =>
    let s := { s with part := { s.part with flushes := s.part.flushes.filter (fun g => !(g.slot == slot && g.lcid == lcid)) } }
    match hostOf (getSlot s slot) lcid with
    | none => .next s
    | some m =>
      .next (f.held.foldl (fun s e =>
        if m = ownModule s then
          (match lmapOf (getSlot s slot) lcid with
           | some l => enqueue s l.core e
           | none => s)
        else sendEntry s slot m e) s)

/-! ### Answers (R58) -/

/-- A COMPLETION from a module whose SEQ names a handoff message. -/
def handAnswer (s : State) (slot mid : Nat) (p : Pkt) : State :=
  let k := fld p.seq.toNat 24 6
  let lcid := fld p.seq.toNat 0 24
  let told (u : LeadTell) : Bool := u.slot == slot && u.lcid == lcid && u.mid == mid && u.op % 8 == k
  if s.part.tells.any told then { s with part := { s.part with tells := s.part.tells.filter (fun u => !told u) } }
  else match k with
  | 0 => pubAck s mid (fun u => u.slot == slot && u.lcid == lcid)
  | 3 =>
    { s with part := { s.part with offers := s.part.offers.map (fun o =>
      if o.slot == slot && o.lcid == lcid then { o with waits := o.waits.filter (fun m => !(m == mid)) } else o) } }
  | 1 => sourceReply s slot lcid 0x91 p.status (opB p)
  | 2 =>
    (match movingOf s slot lcid with
     | some m => if m.st = 11 ∧ p.status ≠ stOk then sourceAbort s m p.status else s
     | none => s)
  | 4 => sourceReply s slot lcid 0x94 p.status (opB p)
  | 5 => sourceReply s slot lcid 0x95 p.status (opB p)
  | 7 => if p.status = stOk then deputyAck s slot lcid else s
  | _ => s

/-! ### A module fails (R61, spec/11 R323) -/

/-- The lead settles the epochs that a failed module takes part in. -/
def settleEpochs (s : State) (slot mid : Nat) : State :=
  (getSlot s slot).own.foldl (fun s e =>
    let r := ownRec s slot e.1
    let act (tell : Option (Nat × Nat)) (pub : Bool) : OwnAct :=
      { slot := slot, lcid := e.1, q := .side, pkt := {}, status := stOk, epoch := r.epoch, tell := tell, publish := pub }
    if r.src = mid ∧ r.st = .opened then leadChange s { r with st := .aborted } (act (some (r.dst, 0x95)) false)
    else if r.src = mid ∧ r.st = .accepted then
      leadChange s { r with owner := r.dst, highest := r.epoch, st := .committed } (act (some (r.dst, 0x94)) true)
    else s) s

/-- Whether a context is known to have work on an LCID that a module hosts: kernels that runs of this module dispatched there. -/
def worksThere (s : State) (slot mid ctx : Nat) : Bool :=
  (allRuns s).any (fun e => e.2.ctx == ctx && e.2.work.any (fun w => decide (0 < w.2) && hostOf (getSlot s slot) w.1 == some mid))
  || s.fab.outst.any (fun o => o.ctx == ctx && o.dst == mid && (match o.who with | .runDisp _ _ => true | _ => false))

/-- The lead loses the contexts with work on an LCID hosted by a failed module (R323). What runs of other modules have dispatched there is not
recorded here, so of a context that no run of this module has work there of, a free value says whether it had some (DESIGN CHOICE,
notes/assumptions/29.md). -/
def loseHosted (s : State) (slot mid : Nat) : State :=
  if inRunTable s slot mid then (liveOf s slot).foldl (fun s c =>
    let (v, s) := takeFree s
    if worksThere s slot mid c || v.getLsbD 0 then loseStatus c stLost 0 s else s) s
  else s

/-- The deputy becomes the lead with every record intact, and names a new deputy: another member where there is one
(R61). -/
def deputyLeads (s : State) (slot : Nat) : State :=
  let sl := getSlot s slot
  let old := sl.brec.lead
  let others := (otherMembers s slot).filter (fun m => !(m == old) && !s.part.failedPeers.contains m)
  match pickOne others s with
  | (some d, s) =>
    let sl := getSlot s slot
    copyRecs (setSlot s slot { sl with brec := { sl.brec with lead := ownModule s, deputy := d } }) slot d
  | (none, s) =>
    let sl := getSlot s slot
    setSlot s slot { sl with brec := { sl.brec with lead := ownModule s, deputy := ownModule s } }

/-- What this module does about its own moves towards a failed destination (R61). -/
def moveDestGone (s : State) (slot mid : Nat) : State :=
  s.part.moving.foldl (fun s m =>
    if m.slot = slot ∧ m.dstMod = mid ∧ m.dstMod ≠ ownModule s then
      (if m.st = 11 ∨ m.st = 13 then sourceAbort s m stRetry
       else if m.st = 10 ∨ m.st = 15 then moveStop s m stRetry
       else s)
    else s) s

/-- One slot after a module has failed: once for each module, however many members report it. -/
def slotPeerGone (s : State) (slot mid : Nat) : State :=
  let sl := getSlot s slot
  let b := sl.brec
  let own := ownModule s
  if sl.gone.contains mid then s else
  let s := pubAck (setSlot s slot { sl with gone := sl.gone ++ [mid] }) mid (fun u => u.slot == slot)
  if s.part.failedPeers.contains b.lead ∧ s.part.failedPeers.contains b.deputy then loseAll (liveOf s slot) stLost 0 s
  else
    let s := if b.lead = mid ∧ b.deputy = own ∧ b.lead ≠ own then deputyLeads s slot else s
    let s :=
      if (getSlot s slot).brec.lead = own then
        let s := if b.deputy = mid then
            -- changes that waited for the failed deputy are acted on
            let l := s.part.ownActs.filter (fun a => a.slot == slot)
            l.foldl runAct { s with part := { s.part with ownActs := s.part.ownActs.filter (fun a => !(a.slot == slot)) } }
          else s
        let s := settleEpochs s slot mid
        loseHosted s slot mid
      else s
    moveDestGone s slot mid

end Sys2Proof.Machine
end

