-- ==== Sys2Proof/Machine/Teardown.lean ====
section
/-! DEFINITION. A context's teardown on one module (spec/11 R318-R321, spec/02 R44), peer notices and failed modules (R322,
R323), and the ends of the partition commands that wait for teardowns (spec/02 R40, R52). -/
namespace Sys2Proof.Machine

/-! ### Steps 1 and 2: work is stopped (R319) -/

/-- The step that a context's teardown has reached. -/
def setDown (s : State) (ctx : Nat) (f : Teardown → Teardown) : State :=
  let c := getCtx s ctx
  setCtx s ctx { c with down := c.down.map f }

/-- Queue entries of a context, and those held for moves and flushes, are removed. -/
def dropCtxEntries (s : State) (ctx : Nat) : State :=
  let mine (e : DqEntry) : Bool := e.ctx == ctx
  let s := (s.units.cores.map (·.1)).foldl (fun s c => dropEntries s c mine) s
  let keep (l : List DqEntry) : List DqEntry := l.filter (fun e => !mine e)
  { s with part := { s.part with
      moving := s.part.moving.map (fun m => { m with held := keep m.held }),
      flushes := s.part.flushes.map (fun f => { f with held := keep f.held }) } }

/-- Whether a command begun is work of a context. -/
def cmdOfCtx (s : State) (ctx : Nat) (b : Begun) : Bool :=
  match b.q with
  | .qp n => (getQp s n).ctx == ctx
  | _ => actsForCtx b.pkt.opcode && b.pkt.ctx == ctx

/-- A command begun ends with a status, at its cursor where it has one (R183, R178). -/
def stopCmd (s : State) (b : Begun) (status : Nat) : State :=
  let s := fqLeave (dropWaits s (fun w => w.who == .cmd b.id)) (fun f => f == .cmd b.id)
  match b.job with
  | .read _ _ => bulkEnd b status s
  | .write _ => bulkEnd b status s
  | .copy _ _ _ _ => bulkEnd b status s
  | _ => finishStatus b.id status s

/-- The commands of a context stopped, but for its runs. -/
def stopCmds (s : State) (ctx status : Nat) : State :=
  (s.fe.begun.filter (fun b => cmdOfCtx s ctx b && (match b.job with
      | .run _ => false
      | .copy _ _ _ (some _) => false
      | _ => true))).foldl (fun s b => stopCmd s b status) s

/-- A context's tenancies stop: transfers end at an element without a cursor, samples are abandoned; a save or restore under way
stops, its image is discarded and its units are free (spec/04 R115). -/
def stopTens (s : State) (ctx : Nat) : State :=
  (s.tens.filter (fun x => x.ctx == ctx)).foldl (fun s x =>
    let s := abandonSample x s
    match x.loc with
    | .saving _ => moveCheck (moveSaved (dropTen s (refOf x)) x.slot x.lcid) x.slot x.lcid
    | .restoring _ => moveCheck (moveSaved (dropTen s (refOf x)) x.slot x.lcid) x.slot x.lcid
    | _ => setTen s { x with sample := none, xf := [{}, {}, {}, {}] }) s

/-- The moves of logical cores on which a context has work stop (R320). -/
def stopMoves (s : State) (ctx status : Nat) : State :=
  let slot := (getCtx s ctx).slot
  let has (m : Moving) : Bool := m.slot == slot
    && (m.held.any (fun e => e.ctx == ctx) || s.tens.any (fun x => x.ctx == ctx && x.lcid == m.lcid)
        || ((getCore s m.srcCore).queue ++ (getCore s m.srcCore).spill).any (fun e => e.ctx == ctx && e.lcid == m.lcid))
  (s.part.moving.filter has).foldl (fun s m => moveStop s m status) s

/-- Steps 1 and 2 of a teardown: the context's work ends with a status. -/
def stopWork (s : State) (ctx st : Nat) : State :=
  let s := stopMoves (setDown s ctx (fun d => { d with step := 1 })) ctx st
  let s := dropCtxEntries s ctx
  let s := ((allRuns s).filter (fun e => e.2.ctx == ctx)).foldl (fun s e => endRun e.1 st s) s
  let s := collTeardown s ctx st
  let s := stopCmds (stopTens s ctx) ctx st
  { s with seq := { s.seq with kv := s.seq.kv.filter (fun k => !(k.ctx == ctx)) } }

/-- CONTEXT_TEARDOWN (R319 steps 1 and 2): the context is fenced, and its work is stopped. -/
def execContextTeardown (ctx : Nat) (s : State) : Host.Outcome State Fault Refusal :=
  match (getCtx s ctx).down with
  | none => .next s
  | some d =>
    if d.step ≠ 0 then .next s
    else
      .next (wakeAll (stopWork s ctx (downStatus s ctx)))

/-! ### Steps 4 to 6 (R319, R322) -/

/-- The record that a peer notice of a loss carries: the CONTEXT_LOST record of the log, or one made again. -/
def lostRecord (s : State) (ctx : Nat) (d : Teardown) : LogRec :=
  let l := s.res.log.filterMap (fun e => match e.2 with
    | some r => if r.cls = 0x16 ∧ r.ctx = some ctx ∧ r.cgen = (getCtx s ctx).gen then some r else none
    | none => none)
  l.getLast?.getD (mkLogRec s { cls := 0x16, sev := 2, code := d.code, unit := ownModule s % 4096, slot := some (getCtx s ctx).slot, ctx := some ctx })

/-- An ERROR_REPORT to another module: the record, its SEQ, and its context (R322). -/
def noticePkt (s : State) (ctx : Nat) (r : LogRec) : Pkt :=
  { opcode := 0xF2, ctx := ctx, gen := (getCtx s ctx).gen.setWidth 8, seq := r.seq, payload := logBytes r false, plen := 64 }

/-- The peer notices of a context's loss, to every other module of the run table. -/
def sendNotices (s : State) (ctx : Nat) (d : Teardown) : State :=
  let slot := (getCtx s ctx).slot
  let r := lostRecord s ctx d
  let mids := ((getSlot s slot).rtab.map (fun e => e.mid)).eraseDups.filter (fun m => !(m == ownModule s))
  mids.foldl (fun s m =>
    let s := { s with part := { s.part with notices := s.part.notices ++ [{ ctx := ctx, mid := m, tries := 0, seq := r.seq }] } }
    sendForSlot s m slot ctx (noticePkt s ctx r)) s

/-- The events of a context freed, their waits ended (R319 step 5). -/
def freeEventsOf (s : State) (ctx : Nat) : State :=
  ((s.ev.evs.filter (fun e => decide (e.2.st = 1) && e.2.ctx == ctx)).map (·.1)).foldl
    (fun s e => setEv (dropWaits s (fun w => w.ev == e)) e {}) s

/-- The queue pairs of a context unbinding: what is left in their rings completes under R183 as replies have room (R51). -/
def unbindQpsOf (s : State) (ctx : Nat) : State :=
  ((s.fe.qps.filter (fun e => decide (e.2.st ≠ 0) && e.2.ctx == ctx)).map (·.1)).foldl (fun s n => setQp s n { getQp s n with st := 4 }) s

/-- What a device-sourced ring still holds in memory joins the packets that the front end has read (R183). -/
def gatherRing (s : State) (n : Nat) : State := setQp s n { getQp s n with sq := ringHolds s n }

/-- The packets left in a queue pair's ring completed while replies have room, in ring order. -/
def flushRing (n : Nat) : Nat → State → State
  | 0, s => s
  | k + 1, s =>
    match (getQp s n).sq with
    | [] => s
    | p :: _ =>
      if replyRoom s (.qp n) 64 then flushRing n k (answer (.qp n) p (downStatus s (getQp s n).ctx) (popQp s n)) else s

/-- Granules of a context's own: OWNED, not SHARED (R44). -/
def ownGrans (s : State) (ctx : Nat) : List Gran :=
  let mine (t : Tag) : Bool := t.st == 1 && !t.shared && t.ctx == ctx
  (s.mem.tags.filter (fun e => mine e.2)).map (fun e => (false, e.1)) ++ (s.mem.ssTags.filter (fun e => mine e.2)).map (fun e => (true, e.1))

/-- What a context loses once its requests have drained: tenancies, remote accesses, barriers, events, queue pairs, fault
entries and translations; its ring packets complete and its peers are told (R319 steps 4 to 6). -/
def drained (s : State) (ctx : Nat) (d : Teardown) : State :=
  let c := getCtx s ctx
  let s := { s with fab := { s.fab with outst := s.fab.outst.filter (fun o => !(o.ctx == ctx)) },
                    seq := { s.seq with left := s.seq.left.filter (fun l => !(l.ctx == ctx)) } }
  let s := if !d.live && !d.quiet then sendNotices s ctx d else s
  let lcs := ((s.tens.filter (fun x => x.ctx == ctx)).map (fun x => x.lcid)).eraseDups
  let s := { s with tens := s.tens.filter (fun x => !(x.ctx == ctx)),
                    rem := s.rem.filter (fun a => !(a.issuer.ctx == ctx)),
                    part := { s.part with
                      bars := tabClear s.part.bars (256 * ctx) 256,
                      barMsgs := s.part.barMsgs.filter (fun m => match m with
                        | .arrive k _ _ _ => !(k == ctx)
                        | .release t _ _ => !(t.ctx == ctx)) } }
  let s := lcs.foldl (fun s l => moveCheck (moveSaved s c.slot l) c.slot l) s
  let qs := (s.fe.qps.filter (fun e => decide (e.2.st ≠ 0) && e.2.ctx == ctx)).map (·.1)
  let s := unbindQpsOf (freeEventsOf (qs.foldl gatherRing s) ctx) ctx
  let s := invalCtx (fqDropCtx s ctx) ctx 0 0
  qs.foldl (fun s n => flushRing n 256 s) s

/-- TEARDOWN_DRAIN_DONE (R319 steps 4 to 6). -/
def execTeardownDrainDone (ctx : Nat) (s : State) : Host.Outcome State Fault Refusal :=
  let c := getCtx s ctx
  match c.down with
  | none => .next s
  | some d =>
    if d.step ≠ 1 then .next s
    else
      let s := drained s ctx d
      let s := setCtx s ctx { getCtx s ctx with down := if c.st = 2 then none else some { d with step := 2 } }
      .next (wakeAll (unbindCheck s))

/-! ### The ends of CTX_DESTROY, RESET and PART_DESTROY (R40, R44, R52) -/

/-- Whether a slot has a context that is not FREE. -/
def slotHasCtx (s : State) (slot : Nat) : Bool := s.part.ctxs.any (fun e => decide (e.2.st ≠ 0) && e.2.slot == slot)

/-- Map counts of granary images that a context's range entries have (R67, R68): none once the context is gone. -/
def unmapImages (s : State) (slot : Nat) (l : List Range) : State :=
  (l.filter (fun e => e.granary && !e.revoked)).foldl (fun s e =>
    let k := (granOf (e.fpa % 2 ^ 42)).2
    match imageAt s slot k with
    | none => s
    | some i =>
      let i := { i with maps := i.maps - 1 }
      let sl := getSlot s slot
      let s := setSlot s slot { sl with images := sl.images.map (fun j => if j.model == i.model then i else j) }
      if i.st = 2 ∧ i.maps = 0 then dropImage s slot i.model else s) s

/-- The link keys of a slot, and its agreements, end (spec/13 R369). -/
def dropLinkKeys (s : State) (slot : Nat) : State :=
  { s with fab := { s.fab with keys := s.fab.keys.filter (fun k => !(k.slot == slot)), kex := s.fab.kex.filter (fun k => !(k.slot == slot)) } }

/-- What PART_DESTROY does when every context is torn down: the slot's granules are zeroed and freed, its programs, SHARED
events, images and keys go, and the slot is FREE with PGEN + 1 (R40, R44, R46). -/
def destroySlot (s : State) (slot : Nat) : State :=
  let sl := getSlot s slot
  -- a re-binding that the destruction meets ends with FENCED (DEDUCED, notes/assumptions/30.md)
  let ids := (match sl.rebind with | some i => [i] | none => [])
    ++ (s.part.moving.filter (fun m => m.slot == slot)).filterMap (fun m => m.id)
    ++ (s.mem.migr.filter (fun m => m.slot == slot)).filterMap (fun m => m.id)
    ++ sl.images.filterMap (fun i => i.id)
  let s := ids.eraseDups.foldl (fun s i => finishStatus i stFenced s) s
  let gr := (s.mem.tags.filter (fun e => decide (e.2.st = 1) && e.2.slot == slot)).map (fun e => ((false, e.1) : Gran))
    ++ (s.mem.ssTags.filter (fun e => decide (e.2.st = 1) && e.2.slot == slot)).map (fun e => (true, e.1))
  let s := dropLinkKeys (gr.foldl freeGran s) slot
  let s := { s with
    seq := { s.seq with progs := s.seq.progs.filter (fun e => match e.2 with | some g => !(g.slot == slot) | none => false) },
    mem := { s.mem with migr := s.mem.migr.filter (fun m => !(m.slot == slot)) },
    part := { s.part with
      moving := s.part.moving.filter (fun m => !(m.slot == slot)), offers := s.part.offers.filter (fun o => !(o.slot == slot)),
      flushes := s.part.flushes.filter (fun f => !(f.slot == slot)), ownActs := s.part.ownActs.filter (fun a => !(a.slot == slot)),
      heldFab := s.part.heldFab.filter (fun f => !(f.pid == sl.brec.pid)) },
    units := { s.units with subst := s.units.subst.filter (fun u => !(u.slot == slot)) } }
  let s := ((s.ev.evs.filter (fun e => decide (e.2.st = 2) && e.2.slot == slot)).map (·.1)).foldl
    (fun s e => setEv (dropWaits s (fun w => w.ev == e)) e {}) s
  setSlot s slot { pgen := sl.pgen + 1, chaff := sl.chaff }

/-- A slot whose last context is torn down: the command that waits for it ends. -/
def slotCheck (s : State) (slot : Nat) : State :=
  if s.part.ctxs.any (fun e => decide (e.2.st = 3) && e.2.slot == slot) then s
  else
    let sl := getSlot s slot
    if sl.st = 5 then
      if slotHasCtx s slot then s else
      let s := destroySlot s slot
      match sl.destroy with
      | some id => finishStatus id stOk s
      | none => s
    else match s.fe.begun.find? (fun b => sl.rebind == some b.id && (match b.job with | .rebindReset _ => true | _ => false)) with
      | some b => finishStatus b.id stOk (setSlot s slot { sl with rebind := none })
      | none => s

/-- CTX_DESTROY replies. -/
def destroyEnd (cmd : Option Nat) (s : State) : State :=
  match cmd with
  | some id => finishStatus id stOk s
  | none => s

/-- TEARDOWN_ZERO_DONE (R44): the context's granules are zeroed and returned, the context is FREE, and CTX_DESTROY
replies. -/
def execTeardownZeroDone (ctx : Nat) (s : State) : Host.Outcome State Fault Refusal :=
  let c := getCtx s ctx
  match c.down with
  | none => .next s
  | some d =>
    if c.st ≠ 3 ∨ d.step ≠ 2 then .next s
    else
      let s := unmapImages s c.slot c.ranges
      let s := (ownGrans s ctx).foldl freeGran s
      .next (wakeAll (slotCheck (destroyEnd d.destroy (setCtx s ctx { gen := c.gen })) c.slot))

/-- A context's destruction begins, for the command `id`, or goes on from the teardown of its loss (R44, R320). -/
def beginDestroy (s : State) (ctx : Nat) (id : Option Nat) : State :=
  let c := getCtx s ctx
  match c.st, c.down with
  | 1, _ => setCtx s ctx { c with st := 3, down := some { code := 0, status := stFenced, step := 0, destroy := id, live := true } }
  | 2, some d => setCtx s ctx { c with st := 3, down := some { d with destroy := id, live := false } }
  | 2, none => setCtx s ctx { c with st := 3, down := some { code := 0, status := stLost, step := 2, destroy := id, live := false } }
  | _, _ => s

/-- The destruction of every context of a slot begins (R321). -/
def destroyCtxs (s : State) (slot : Nat) : State :=
  ((s.part.ctxs.filter (fun e => e.2.slot == slot && (e.2.st == 1 || e.2.st == 2))).map (·.1)).foldl (fun s c => beginDestroy s c none) s

/-! ### Modules that fail (R323) -/

/-- A record of class PEER_FAILED, its module in UNIT. -/
def peerNote (mid : Nat) (slot : Option Nat) : Note :=
  { cls := 0x15, sev := 2, unitKind := 13, unit := mid % 4096, slot := slot, detail := mid }

/-- Granary pulls from a failed module end with TIMEOUT, their images discarded (spec/02 R69). -/
def pullsGone (s : State) (mid : Nat) : State :=
  (s.part.slots.map (·.1)).foldl (fun s i =>
    ((getSlot s i).images.filter (fun x => x.st == 0 && !x.host && x.peer == mid)).foldl (fun s x =>
      let s := dropImage s i x.model
      match x.id with
      | some id => finishStatus id stTimeout s
      | none => s) s) s

/-- A module is failed: recorded, told to the leads of the partitions that name it, and settled here (R323, R61, spec/09
R283). -/
def peerFailed (s : State) (mid : Nat) : State :=
  if s.part.foundPeers.contains mid then s
  else
    let r := mkLogRec s (peerNote mid none)
    let s := logNote (peerNote mid none) s
    let slots := ((s.part.slots.filter (fun e => decide (e.2.st ≠ 0))).map (·.1)).filter (fun i =>
      inRunTable s i mid || (getSlot s i).brec.lead == mid || (getSlot s i).brec.deputy == mid)
    let s := { s with part := { s.part with failedPeers := (s.part.failedPeers ++ [mid]).eraseDups, foundPeers := s.part.foundPeers ++ [mid] } }
    let s := slots.foldl (fun s i =>
      let lead := leadFor s i
      let s := if inRunTable s i mid ∧ lead ≠ ownModule s ∧ lead ≠ mid then
          sendForSlot s lead i mid { opcode := 0xF2, seq := r.seq, payload := logBytes r false, plen := 64 }
        else s
      slotPeerGone s i mid) s
    let s := { s with part := { s.part with notices := s.part.notices.filter (fun n => !(n.mid == mid)) } }
    collPeerGone (pullsGone s mid) mid

/-- A module that another member reports as failed (R323): the lead acts on it. -/
def peerReported (s : State) (mid slot : Nat) : State :=
  slotPeerGone { s with part := { s.part with failedPeers := (s.part.failedPeers ++ [mid]).eraseDups } } slot mid

/-- A peer notice (R322): the named context becomes LOST here, without notices of its own, and the notice is answered. -/
def startNotice : Handler := fun q p s =>
  let w1 := numAt p.payload 4 4
  let cls := fld w1 0 8
  let code := fld w1 16 16
  let w3 := numAt p.payload 12 4
  match slotOfPid s (if cls = 0x15 then (match q with | .fabric _ pid _ => pid | _ => 0) else numAt p.payload 16 4) with
  | none => addOrphan s
  | some slot =>
    if cls = 0x16 then
      let ctx := fld w3 6 10
      let c := getCtx s ctx
      let s :=
        if c.st = 1 ∧ c.slot = slot then
          setDown (lose ctx code stLost 0 s) ctx (fun d => { d with quiet := true })
        else s
      answer q p stOk s
    else if cls = 0x15 then answer q p stOk (peerReported s (numAt p.payload 32 4 % 16384) slot)
    else answer q p stOk s

/-- ERROR_REPORT (R322): on the escape VC alone. -/
def execErrorReport (p : Pkt) (s : State) : Host.Outcome State Fault Refusal :=
  .next (arrive wrongOnFabric startNotice { p with opcode := 0xF2 } s)

/-- PEER_NOTICE_RETRY (R322): an unanswered notice goes out again, up to eight times; then its member is reported failed. -/
def execPeerNoticeRetry (ctx mid : Nat) (s : State) : Host.Outcome State Fault Refusal :=
  match s.part.notices.find? (fun n => n.ctx == ctx && n.mid == mid) with
  | none => .next s
  | some n =>
    if n.tries < 8 then
      let s := { s with part := { s.part with notices := s.part.notices.map (fun m => if m == n then { n with tries := n.tries + 1 } else m) } }
      let r := lostRecord s ctx { code := 0, status := stLost, step := 2, destroy := none, live := false }
      .next (sendForSlot s mid (getCtx s ctx).slot ctx (noticePkt s ctx { r with seq := n.seq }))
    else .next (peerFailed { s with part := { s.part with notices := s.part.notices.erase n } } mid)

/-- The ports of this module whose cable leads to a module. -/
def portsTo (s : State) (mid : Nat) : List Nat :=
  (List.range 32).filter (fun q => bitAt (getPort s q).cfg.toNat 21 && decide (fld (getPort s q).cfg.toNat 0 14 = mid)
    && decide (fld (getPort s q).cfg.toNat 19 2 ≠ 0))

/-- PEER_SILENT (R323): for 5 ms no NOP has come from a neighbour, and each of its ports here is DOWN or, being UP, SILENT. -/
def execPeerSilent (mid : Nat) (s : State) : Host.Outcome State Fault Refusal :=
  let qs := portsTo s mid
  if qs.isEmpty || !qs.all (fun q => (getPort s q).st == 3 || (getPort s q).st == 2) then .next s
  else .next (peerFailed s mid)

/-- RES_PEER_FAIL written (R323): the host names a failed module. -/
def peerFailWrite (v : W32) (s : State) : State :=
  let mid := fld v.toNat 0 14
  peerFailed s mid

end Sys2Proof.Machine
end

