-- ==== Sys2Proof/Machine/Partition.lean ====
section
/-! DEFINITION. Partition commands (spec/02 R34-R56): creation, binding, queries, re-binding, contexts and queue pairs. -/
namespace Sys2Proof.Machine

/-! ### Binding records and tables as bytes (R36, R38) -/

/-- A binding record read from its 192 bytes. -/
def recOfBytes (l : List Byte) : BindRec :=
  let w (i : Nat) : Nat := numAt l (4 * i) 4
  { pid := w 0, pgen := BitVec.ofNat 32 (w 1), lcount := fld (w 2) 0 24, slot := fld (w 2) 24 6, conf := bitAt (w 2) 30,
    lead := fld (w 3) 0 14, deputy := fld (w 3) 16 14, localCount := fld (w 4) 0 24, runs := fld (w 5) 0 16, granary := fld (w 5) 16 16,
    cores := mapBits (sliceZ l 24 72) 576, chans := mapBits (sliceZ l 96 24) 192,
    share := tabOf (fun _ => 0) 0 ((List.range 32).map (fun q => numAt l (120 + q) 1)),
    clsShare := (List.range 7).map (fun c => numAt l (152 + c) 1), class7 := bitAt (w 39) 24 }

/-- The 192 bytes of a binding record. -/
def bytesOfRec (r : BindRec) : List Byte :=
  leBytes 4 r.pid ++ leBytes 4 r.pgen.toNat ++ leBytes 4 (r.lcount + r.slot * 2 ^ 24 + b2n r.conf * 2 ^ 30)
    ++ leBytes 4 (r.lead + r.deputy * 2 ^ 16) ++ leBytes 4 r.localCount ++ leBytes 4 (r.runs + r.granary * 2 ^ 16)
    ++ bitsMap r.cores 72 ++ bitsMap r.chans 24 ++ (List.range 32).flatMap (fun q => leBytes 1 (tabGet (fun _ => 0) r.share q))
    ++ sliceZ (r.clsShare.flatMap (leBytes 1)) 0 7 ++ leBytes 1 (b2n r.class7) ++ List.replicate 32 0

/-- The eight bytes of a local-map entry. -/
def lentBytes (e : LEnt) : List Byte := leBytes 4 e.lcid ++ leBytes 4 (idOfCore e.core + e.fold * 2 ^ 10)

/-! ### The slot a command names (R40) -/

/-- A command for the slot of the PID in a word: NOT_BOUND where no slot holds it, RESOURCE_BUSY where it is DESTROYING. -/
def withSlot (pid : Pkt → Nat) (f : Nat → Handler) : Handler := fun q p s =>
  match slotOfPid s (pid p) with
  | none => answer q p stUnbound s
  | some i => if (getSlot s i).st = 5 then answer q p stBusy s else f i q p s

def pid4 (p : Pkt) : Nat := p.w4.toNat
def pid5 (p : Pkt) : Nat := p.w5.toNat

/-- Whether a half that some cores or channels are in is in FROST (spec/12 R332). -/
def coldUnits (s : State) (cores chans : List Nat) : Bool :=
  cores.any (fun c => halfOff s (halfOfCore c)) || chans.any (fun n => halfOff s (halfOfChan n))

/-! ### PART_CREATE, PART_QUERY, PART_DESTROY (R40, R41) -/

/-- PART_CREATE's start (R40, spec/13 R354, R366). -/
def startCreate : Handler := fun q p s =>
  let r := recOfBytes p.payload
  if p.payload.length ≠ 192 then answer q p stLen s
  else if r.pid = 0 then answer q p stDenied s
  else if (slotOfPid s r.pid).isSome ∨ (getSlot s r.slot).st ≠ 0 then answer q p stBusy s
  else if s.sec.lc = 0 ∨ s.sec.lc = 5 ∨ (r.conf ∧ !s.sec.trngOk) then answer q p stKey s
  else
    let r := { r with cores := [], chans := [], share := [] }
    let old := getSlot s r.slot
    let s := if r.conf then { s with part := { s.part with memKeyCtr := s.part.memKeyCtr + 1 } } else s
    let key := if r.conf then some s.part.memKeyCtr.toNat else none
    answer q p stOk (setSlot s r.slot { st := 1, pgen := r.pgen, brec := r, chaff := old.chaff, memKey := key })

/-- PART_CREATE (R40). -/
def execPartCreate (p : Pkt) (s : State) : Host.Outcome State Fault Refusal :=
  .next (arrive startCreate wrongOnFabric { p with opcode := 0x88 } s)

/-- PART_QUERY's start (R41). -/
def startPartQuery : Handler := fun q p s =>
  match slotOfPid s p.w4.toNat with
  | none => answer q p stUnbound s
  | some i =>
    let sl := getSlot s i
    let first := fld p.w6.toNat 0 16
    let rest := sl.lmap.drop first
    let es := rest.take 1000
    sendReply q p { replyTo p stOk with
      w6 := BitVec.ofNat 32 es.length, w7 := BitVec.ofNat 32 (rest.length - es.length),
      payload := bytesOfRec sl.brec ++ es.flatMap lentBytes } s

/-- PART_QUERY (R41). -/
def execPartQuery (p : Pkt) (s : State) : Host.Outcome State Fault Refusal :=
  .next (arrive startPartQuery wrongOnFabric { p with opcode := 0x90 } s)

/-- PART_DESTROY's start (R40, R321). -/
def startPartDestroy : Handler := withSlot pid4 (fun i q p s =>
  let id := s.fe.nextId
  let s := begin q p (.destroyPart i) 0 s
  let sl := getSlot s i
  slotCheck (destroyCtxs (retireAll (setSlot s i { sl with st := 5, destroy := some id }) i) i) i)

/-- PART_DESTROY (R40). -/
def execPartDestroy (p : Pkt) (s : State) : Host.Outcome State Fault Refusal :=
  .next (arrive startPartDestroy wrongOnFabric { p with opcode := 0x8B } s)

/-! ### PART_BIND (R39) -/

/-- One packet's segment staged. -/
def stageSeg (t : Staged) (seg first : Nat) (l : List Byte) : Staged :=
  if seg = 0 then { t with record := some (recOfBytes l) }
  else
    let es := cutEach 8 (l.length / 8) l
    if seg = 1 then
      { t with lmap := ((List.range es.length).zip es).foldl (fun m e =>
          let w := numAt e.2 4 4
          tabSet (fun _ => (2 ^ 32, none, 0)) m (first + e.1) (fld (numAt e.2 0 4) 0 24, coreOfId (fld w 0 10), fld w 10 2)) t.lmap }
    else
      { t with rtab := ((List.range es.length).zip es).foldl (fun m e =>
          tabSet (fun _ => { first := 2 ^ 32, mid := 0 }) m (first + e.1)
            { first := fld (numAt e.2 0 4) 0 24, mid := fld (numAt e.2 4 4) 0 14 }) t.rtab }

/-- Whether FIRST rises strictly, from 0, below LCOUNT (R38). -/
def runsOk (lcount : Nat) : Option Nat → List REnt → Bool
  | none, [] => false
  | some _, [] => true
  | none, e :: t => decide (e.first = 0) && decide (0 < lcount) && runsOk lcount (some 0) t
  | some f, e :: t => decide (f < e.first) && decide (e.first < lcount) && runsOk lcount (some e.first) t

/-- LCIDs of the runs that name a module. -/
def lcsOf (lcount mid : Nat) : List REnt → Nat
  | [] => 0
  | [e] => if e.mid = mid then lcount - e.first else 0
  | e :: f :: t => (if e.mid = mid then f.first - e.first else 0) + lcsOf lcount mid (f :: t)

/-- A slot's share of a port; one that PORT_SHARE has set counts before it takes effect. -/
def slotShare (sl : Slot) (port : Nat) : Nat :=
  match tabGet (fun _ => 0) sl.sharePend port with
  | 0 => tabGet (fun _ => 0) sl.brec.share port
  | v + 1 => v

/-- The total of the shares of a port, with one slot's replaced (R35). -/
def shareTotal (s : State) (port slot v : Nat) : Nat :=
  v + ((s.part.slots.filter (fun e => !(e.1 == slot))).map (fun e => slotShare e.2 port)).sum

/-- Resources that a slot would hold, within R35, R63 and R304. -/
def resourcesOk (s : State) (slot : Nat) (cores chans : List Nat) : Bool :=
  let old := (getSlot s slot).brec
  let others (e : Nat × Slot) : Bool := !(e.1 == slot)
  let k := s.res.scale.toNat
  let otherCores := ((s.part.slots.filter others).map (fun e => e.2.brec.cores.length)).sum
  let otherChans := ((s.part.slots.filter others).map (fun e => e.2.brec.chans.length)).sum
  let newChans := chans.filter (fun n => !old.chans.contains n)
  cores.all (fun c => old.cores.contains c || (coreReady s c && (holderOfCore s c).isNone && !(s.units.subst.any (fun u => u.sub == some c))))
    && chans.all (fun n => old.chans.contains n || (chanReady s n && (holderOfChan s n).isNone))
    && decide (otherCores + cores.length ≤ 576 - coresReserved k) && decide (otherChans + chans.length ≤ 192 - chansReserved k)
    && (newChans.isEmpty || [0, 1].all (fun h =>
        let left := (List.range 192).filter (fun n => halfOfChan n == h && chanReady s n && !chans.contains n
          && (match holderOfChan s n with | some i => i == slot | none => true))
        decide (chansReserved k / 2 ≤ left.length)))

/-- Checks 1 to 5 at a packet with LAST: the new binding, or the status of the first that fails. -/
def bindCheck (s : State) (i : Nat) (t : Staged) : Except Nat (BindRec × List LEnt × List REnt) :=
  let sl := getSlot s i
  let r := t.record.getD sl.brec
  let lm := (List.range r.localCount).map (fun k => tabGet (fun _ => (2 ^ 32, none, 0)) t.lmap k)
  let rt := (List.range r.runs).map (fun k => tabGet (fun _ => { first := 2 ^ 32, mid := 0 }) t.rtab k)
  let own := ownModule s
  let host (l : Nat) : Option Nat := (rt.filter (fun e => decide (e.first ≤ l))).getLast?.map (·.mid)
  let ents := lm.filterMap (fun e => e.2.1.map (fun c => ({ lcid := e.1, core := c, fold := e.2.2 } : LEnt)))
  if r.pid ≠ sl.brec.pid ∨ r.pgen ≠ sl.pgen ∨ r.slot ≠ i ∨ r.conf ≠ sl.brec.conf then .error stDenied
  else if lm.any (fun e => e.1 == 2 ^ 32) || rt.any (fun e => e.first == 2 ^ 32) then .error stLen
  else if !runsOk r.lcount none rt || decide (lcsOf r.lcount own rt ≠ r.localCount) then .error stLen
  else if ents.length ≠ lm.length ∨ ents.any (fun e => decide (r.lcount ≤ e.lcid) || host e.lcid != some own || !r.cores.contains e.core)
      ∨ (ents.map (fun e => e.lcid)).eraseDups.length ≠ ents.length
      ∨ (ents.map (fun e => (e.core, e.fold))).eraseDups.length ≠ ents.length ∨ 4 * r.cores.length < r.localCount then .error stDenied
  else if coldUnits s (r.cores.filter (fun c => !sl.brec.cores.contains c)) (r.chans.filter (fun n => !sl.brec.chans.contains n)) then .error stPart
  else if !resourcesOk s i r.cores r.chans || (List.range 32).any (fun q => decide (256 < shareTotal s q i
      (if t.record.isSome then tabGet (fun _ => 0) r.share q else slotShare sl q))) then .error stBusy
  else .ok (r, ents, rt)

/-- Whether a re-binding of a slot is in progress (R52). -/
def rebinding (s : State) (i : Nat) : Bool :=
  (getSlot s i).rebind.isSome || s.part.moving.any (fun m => m.slot == i && m.id.isSome)

/-- PART_BIND's start (R39). A packet with LAST = 1 that meets a re-binding is answered RESOURCE_BUSY and ends the staging, as a check
that fails does (R39 does not say: DESIGN CHOICE, notes/assumptions/30.md). -/
def startBind : Handler := withSlot pid4 (fun i q p s =>
  let seg := fld p.w5.toNat 0 2
  let last := bitAt p.w5.toNat 2
  let first := fld p.w6.toNat 0 16
  let n := p.payload.length
  if seg = 3 then answer q p stOpcode s
  else if (seg = 0 ∧ n ≠ 192) ∨ (seg ≠ 0 ∧ (n = 0 ∨ n % 8 ≠ 0)) ∨ (seg = 1 ∧ 2176 < first + n / 8) ∨ (seg = 2 ∧ 32768 < first + n / 8) then
    answer q p stLen s
  else
    let sl := getSlot s i
    let t := stageSeg sl.staged seg first p.payload
    if !last then answer q p stOk (setSlot s i { sl with staged := t })
    else if rebinding s i then answer q p stBusy (setSlot s i { sl with staged := {} })
    else match bindCheck s i t with
      | .error st => answer q p st (setSlot s i { sl with staged := {} })
      | .ok (r, lm, rt) =>
        answer q p stOk ((setSlot s i
          { sl with st := 2, bound := true, brec := r, lmap := lm, rtab := rt, staged := {},
                    sharePend := if t.record.isSome then [] else sl.sharePend })))

/-- PART_BIND (R39). -/
def execPartBind (p : Pkt) (s : State) : Host.Outcome State Fault Refusal :=
  .next (arrive startBind wrongOnFabric { p with opcode := 0x89 } s)

/-! ### PART_REBIND (R52) -/

/-- Payload length of an OP. -/
def rebindLen (op : Nat) : Nat := if op = 1 ∨ op = 2 then 72 else if op = 3 ∨ op = 4 then 24 else 0

/-- The record of a slot changed. -/
def setRec (s : State) (i : Nat) (f : BindRec → BindRec) : State :=
  let sl := getSlot s i
  setSlot s i { sl with brec := f sl.brec }

/-- GROW_CORES. -/
def growCores (i : Nat) : Handler := fun q p s =>
  let l := mapBits p.payload 576
  let old := (getSlot s i).brec
  if coldUnits s l [] then answer q p stPart s
  else if l.any (fun c => old.cores.contains c) || !resourcesOk s i (old.cores ++ l) old.chans then answer q p stBusy s
  else answer q p stOk (setRec s i (fun r => { r with cores := r.cores ++ l }))

/-- Whether a core hosts a logical core of a slot or is a move's destination. -/
def hostsLc (s : State) (i c : Nat) : Bool :=
  (getSlot s i).lmap.any (fun e => e.core == c)
    || s.part.moving.any (fun m => m.slot == i && (m.srcCore == c || (m.dstCore == c && m.dstMod == ownModule s)))
    || s.part.offers.any (fun o => o.slot == i && o.core == c)

/-- Live contexts of a slot. -/
def liveCount (s : State) (i : Nat) : Nat := (liveOf s i).length

/-- Whether a slot owns a granule of a sheaf store in which these cores leave it no core (spec/08 R220). -/
def ownsStore (s : State) (i : Nat) (rest : List Nat) : Bool :=
  s.mem.ssTags.any (fun e => decide (e.2.st = 1) && e.2.slot == i && !rest.any (fun c => sheafOfCore c == e.1 / 16))

/-- SHRINK_CORES (R52, R42). -/
def shrinkCores (i : Nat) : Handler := fun q p s =>
  let l := mapBits p.payload 576
  let old := (getSlot s i).brec
  if l.any (fun c => !old.cores.contains c) then answer q p stDenied s
  else if l.any (hostsLc s i) || ownsStore s i (old.cores.filter (fun c => !l.contains c)) || (old.conf && decide (old.cores.length - l.length < liveCount s i)) then answer q p stBusy s
  else answer q p stOk (setRec s i (fun r => { r with cores := r.cores.filter (fun c => !l.contains c) }))

/-- GROW_CHANNELS. -/
def growChannels (i : Nat) : Handler := fun q p s =>
  let l := mapBits p.payload 192
  let old := (getSlot s i).brec
  if coldUnits s [] l then answer q p stPart s
  else if l.any (fun c => old.chans.contains c) || !resourcesOk s i old.cores (old.chans ++ l) then answer q p stBusy s
  else answer q p stOk (setRec s i (fun r => { r with chans := r.chans ++ l }))

/-- Whether a slot owns a granule on a channel. -/
def ownsOn (s : State) (i n : Nat) : Bool :=
  s.mem.tags.any (fun e => decide (e.2.st = 1) && e.2.slot == i && granChan s (false, e.1) == n)

/-- SHRINK_CHANNELS. -/
def shrinkChannels (i : Nat) : Handler := fun q p s =>
  let l := mapBits p.payload 192
  let old := (getSlot s i).brec
  if l.any (fun c => !old.chans.contains c) then answer q p stDenied s
  else if l.any (fun n => ownsOn s i n || s.mem.migr.any (fun m => m.src == n || m.dst == n)) then answer q p stBusy s
  else answer q p stOk (setRec s i (fun r => { r with chans := r.chans.filter (fun c => !l.contains c) }))

/-- PORT_SHARE (R52, R35): the share takes effect at the port's next frame boundary (spec/09 R271). -/
def portShare (i : Nat) : Handler := fun q p s =>
  let port := fld p.w6.toNat 0 5
  let v := fld p.w6.toNat 8 8
  if 256 < shareTotal s port i v then answer q p stBusy s
  else
    let sl := getSlot s i
    answer q p stOk (setSlot s i { sl with sharePend := tabSet (fun _ => 0) sl.sharePend port (v + 1) })

/-- A slot's new share of a port taken over, where it has one. -/
def applyShare (port : Nat) (s : State) (i : Nat) : State :=
  let sl := getSlot s i
  match tabGet (fun _ => 0) sl.sharePend port with
  | 0 => s
  | v + 1 => setSlot s i { sl with sharePend := tabSet (fun _ => 0) sl.sharePend port 0,
                                   brec := { sl.brec with share := tabSet (fun _ => 0) sl.brec.share port v } }

/-- PORT_SHARE_APPLY (spec/09 R271). -/
def execPortShareApply (port : Nat) (s : State) : Host.Outcome State Fault Refusal :=
  .next ((s.part.slots.map (·.1)).foldl (applyShare port) s)

/-- MOVE (R52, R53, R58). -/
def moveStart (i : Nat) : Handler := fun q p s =>
  let lcid := fld p.w6.toNat 0 24
  let mid := fld p.w7.toNat 0 14
  let cid := fld p.w7.toNat 16 10
  let fold := fld p.w7.toNat 26 2
  let sl := getSlot s i
  let old := movingOf s i lcid
  let heldMove := match old with | some m => m.st == 20 | none => false
  match hostOf sl lcid, lmapOf sl lcid with
  | some h, some e =>
    if h ≠ ownModule s then answer q p stDenied s
    else if (old.isSome && !heldMove) || decide (16 ≤ (s.part.moving.filter (fun m => m.id.isSome)).length) then answer q p stBusy s
    else
      let put (m : Moving) (s : State) : State :=
        if heldMove then setMoving s m else { s with part := { s.part with moving := s.part.moving ++ [m] } }
      let held := match old with | some m => m.held | none => []
      if mid = ownModule s then
        let core := coreOfId cid
        let units := if core = some e.core then 0 else unitsOfLc s i lcid
        match placeCheck s i core fold units with
        | some st => answer q p st s
        | none =>
          let id := s.fe.nextId
          let s := begin q p .move 0 s
          let m : Moving := { slot := i, lcid := lcid, id := some id, srcCore := e.core, dstMod := mid, dstCore := core.getD 0,
                              fold := fold, st := if heldMove then 2 else 1, held := held }
          let s := put m s
          if heldMove then moveSaved s i lcid else s
      else
        let id := s.fe.nextId
        let s := begin q p .move 0 s
        let m : Moving := { slot := i, lcid := lcid, id := some id, srcCore := e.core, dstMod := mid, dstCore := cid, fold := fold,
                            st := 10, held := held }
        tellLead (put m s) i lcid 0x91 mid
  | _, _ => answer q p stDenied s

/-- MOVE_DRAIN_RETURN (R53 steps 3 and 4): the drain markers have returned, and the logical core is saved. -/
def execMoveDrainReturn (slot lcid : Nat) (s : State) : Host.Outcome State Fault Refusal :=
  match movingOf s slot lcid with
  | some m =>
    if m.st = 1 then .next (moveSaved (saveLcid (setMoving s { m with st := 2 }) slot lcid) slot lcid) else .next s
  | none => .next s

/-- CHANNEL_MIGRATE (R55). A channel that is being migrated already, by the module itself too (spec/11 R313), is refused as one in a
state that the rule does not allow, ACCESS_DENIED (R55 does not say: DESIGN CHOICE, notes/assumptions/30.md). -/
def migrateStart (i : Nat) : Handler := fun q p s =>
  let src := fld p.w6.toNat 0 8
  let dst := fld p.w6.toNat 8 8
  if 192 ≤ dst ∨ !chanReady s dst ∨ (holderOfChan s dst).isSome ∨ !(getSlot s i).brec.chans.contains src
      ∨ s.mem.migr.any (fun m => m.src == src || m.dst == src) then answer q p stDenied s
  else
    let id := s.fe.nextId
    let s := begin q p .migrate 0 s
    let sl := getSlot s i
    beginMigration (setSlot s i { sl with rebind := some id }) i src dst (some id)

/-- A migration ends: its entry goes, the slot keeps what it keeps, and its command is answered. -/
def migrEnd (s : State) (m : Migration) (gone status : Nat) : State :=
  let s := { s with mem := { s.mem with migr := s.mem.migr.erase m } }
  let s := setRec s m.slot (fun r => { r with chans := r.chans.filter (fun n => !(n == gone)) })
  match m.id with
  | none => s
  | some id =>
    let sl := getSlot s m.slot
    finishStatus id status (setSlot s m.slot { sl with rebind := none })

/-- The contexts that own granules on a channel: a SHARED granule's are those of its slot (spec/11 R306). -/
def ownersOn (s : State) (n : Nat) : List Nat :=
  ((s.mem.tags.filter (fun e => decide (e.2.st = 1) && granChan s (false, e.1) == n)).flatMap (fun e =>
    if e.2.shared then liveOf s e.2.slot else [e.2.ctx])).eraseDups

/-- A channel fails (spec/11 R306): FAILED, the owners of its granules LOST. -/
def chanFails (s : State) (n : Nat) : State :=
  let half := halfOfChan n
  let s := logNote { cls := 0x03, sev := 2, unitKind := 2, unit := n, action := 5, slot := holderOfChan s n, half := half } s
  let l := ownersOn s n
  loseAll l stUnc half (setUnit s ⟨2, n⟩ .failed)

/-- What the copy of a channel reads (R56): corrected words are copied corrected, an uncorrectable word makes its owner LOST
and is copied as zero. -/
def copyChannel (s : State) (n : Nat) : State :=
  let a := achanFor s n
  (upsetIn s (a * chanSpan) chanSpan).foldl (fun s e =>
    match meetWord s e.1 e.2 none with
    | (true, s) => s
    | (false, s) => zeroSpan s (16 * e.1) 16) s

/-- MIGRATE_COPY_DONE (R55 step 2, R56). -/
def execMigrateCopyDone (chan : Nat) (outcome : MigrateEnd) (s : State) : Host.Outcome State Fault Refusal :=
  match s.mem.migr.find? (fun m => m.src == chan && !m.drained) with
  | none => .next s
  | some m =>
    match outcome with
    | .done =>
      let s := copyChannel s chan
      .next { s with mem := { s.mem with migr := s.mem.migr.map (fun x => if x == m then { m with drained := true } else x) } }
    | .destFault => .next (chanFails (migrEnd s m m.dst stUnc) m.dst)
    | .sourceFault => .next (chanFails (migrEnd s m m.dst stUnc) m.src)

/-- The remap of two channels exchanged (R55 step 3, spec/08 R211). -/
def swapRemap (s : State) (a b : Nat) : State :=
  let x := achanFor s a
  let y := achanFor s b
  { s with mem := { s.mem with remap := tabSet (fun k => k) (tabSet (fun k => k) s.mem.remap x b) y a } }

/-- MIGRATE_DRAIN_DONE (R55 steps 3 and 4). -/
def execMigrateDrainDone (chan : Nat) (s : State) : Host.Outcome State Fault Refusal :=
  match s.mem.migr.find? (fun m => m.src == chan && m.drained) with
  | none => .next s
  | some m => .next (migrEnd (setUnit (swapRemap s m.src m.dst) ⟨2, m.src⟩ .quarantine) m m.src stOk)

/-- RESET (R52, R46, R321, spec/13 R369). -/
def resetStart (i : Nat) : Handler := fun q p s =>
  let sl := getSlot s i
  let d := (p.w6 - sl.pgen).toNat
  if d = 0 ∨ 2 ^ 31 ≤ d then answer q p stGen s
  else
    let id := s.fe.nextId
    let s := begin q p (.rebindReset p.w6) 0 s
    let s := setSlot s i { sl with rebind := some id, pgen := p.w6, brec := { sl.brec with pgen := p.w6 } }
    slotCheck (destroyCtxs (retireAll (dropLinkKeys s i) i) i) i

/-- SET_LEAD (R52, R61): a module that kept the records hands its copies to the new lead and deputy. -/
def leadStart (i : Nat) : Handler := fun q p s =>
  let old := (getSlot s i).brec
  let lead := fld p.w6.toNat 0 14
  let dep := fld p.w6.toNat 16 14
  let s := setRec s i (fun r => { r with lead := lead, deputy := dep })
  let s := if old.lead = ownModule s then copyRecs (if dep = lead then s else copyRecs s i dep) i lead else s
  answer q p stOk s

/-- PART_REBIND's start: the checks that every OP shares, then the OP (R52). -/
def startRebind : Handler := withSlot pid4 (fun i q p s =>
  let op := fld p.w5.toNat 0 4
  if op = 0 ∨ 10 ≤ op then answer q p stOpcode s
  else if p.payload.length ≠ rebindLen op then answer q p stLen s
  else if (getSlot s i).rebind.isSome || (op != 6 && rebinding s i) then answer q p stBusy s
  else match op with
    | 1 => growCores i q p s
    | 2 => shrinkCores i q p s
    | 3 => growChannels i q p s
    | 4 => shrinkChannels i q p s
    | 5 => portShare i q p s
    | 6 => moveStart i q p s
    | 7 => migrateStart i q p s
    | 8 => resetStart i q p s
    | _ => leadStart i q p s)

/-- A PART_REBIND packet of an OP. -/
def rebindPkt (p : Pkt) (op : Nat) : Pkt := { p with opcode := 0x8A, w5 := BitVec.ofNat 32 (p.w5.toNat / 16 * 16 + op) }

/-- PART_REBIND GROW_CORES (R52). -/
def execGrowCores (p : Pkt) (s : State) : Host.Outcome State Fault Refusal := .next (arrive startRebind wrongOnFabric (rebindPkt p 1) s)

/-- PART_REBIND SHRINK_CORES (R52). -/
def execShrinkCores (p : Pkt) (s : State) : Host.Outcome State Fault Refusal := .next (arrive startRebind wrongOnFabric (rebindPkt p 2) s)

/-- PART_REBIND GROW_CHANNELS (R52). -/
def execGrowChannels (p : Pkt) (s : State) : Host.Outcome State Fault Refusal := .next (arrive startRebind wrongOnFabric (rebindPkt p 3) s)

/-- PART_REBIND SHRINK_CHANNELS (R52). -/
def execShrinkChannels (p : Pkt) (s : State) : Host.Outcome State Fault Refusal := .next (arrive startRebind wrongOnFabric (rebindPkt p 4) s)

/-- PART_REBIND PORT_SHARE (R52). -/
def execPortShare (p : Pkt) (s : State) : Host.Outcome State Fault Refusal := .next (arrive startRebind wrongOnFabric (rebindPkt p 5) s)

/-- PART_REBIND MOVE (R53). -/
def execMoveLc (p : Pkt) (s : State) : Host.Outcome State Fault Refusal := .next (arrive startRebind wrongOnFabric (rebindPkt p 6) s)

/-- PART_REBIND CHANNEL_MIGRATE (R55). -/
def execChannelMigrate (p : Pkt) (s : State) : Host.Outcome State Fault Refusal := .next (arrive startRebind wrongOnFabric (rebindPkt p 7) s)

/-- PART_REBIND RESET (R52). -/
def execReset (p : Pkt) (s : State) : Host.Outcome State Fault Refusal := .next (arrive startRebind wrongOnFabric (rebindPkt p 8) s)

/-- PART_REBIND SET_LEAD (R52). -/
def execSetLead (p : Pkt) (s : State) : Host.Outcome State Fault Refusal := .next (arrive startRebind wrongOnFabric (rebindPkt p 9) s)

/-! ### Contexts (R42, R44) -/

/-- CTX_CREATE's start (R42). -/
def startCtxCreate : Handler := withSlot pid5 (fun i q p s =>
  let ctx := fld p.w4.toNat 0 10
  let c := getCtx s ctx
  let b := (getSlot s i).brec
  if c.st ≠ 0 ∨ (b.conf ∧ b.cores.length ≤ liveCount s i) then answer q p stBusy s
  else
    let g := c.gen + 1
    sendReply q p { replyTo p stOk with w4 := g, w5 := BitVec.ofNat 32 i } (setCtx s ctx { st := 1, slot := i, gen := g }))

/-- CTX_CREATE (R42). -/
def execCtxCreate (p : Pkt) (s : State) : Host.Outcome State Fault Refusal :=
  .next (arrive startCtxCreate wrongOnFabric { p with opcode := 0x8C } s)

/-- CTX_DESTROY's start (R44, R40, spec/11 R320). -/
def startCtxDestroy : Handler := fun q p s =>
  let ctx := fld p.w4.toNat 0 10
  let c := getCtx s ctx
  match slotOfPid s (pid5 p) with
  | none => answer q p stUnbound s
  | some i =>
    if (getSlot s i).st = 5 then answer q p stBusy s
    else if c.st = 0 ∨ c.slot ≠ i then answer q p stUnbound s
    else if c.st = 3 then answer q p stBusy s
    else
      let id := s.fe.nextId
      let s := begin q p (.destroyCtx ctx) 0 s
      beginDestroy s ctx (some id)

/-- CTX_DESTROY (R44). -/
def execCtxDestroy (p : Pkt) (s : State) : Host.Outcome State Fault Refusal :=
  .next (arrive startCtxDestroy wrongOnFabric { p with opcode := 0x8D } s)

/-! ### Queue pairs (R49, R51) -/

/-- QP_BIND's start (R49). -/
def startQpBind : Handler := fun q p s =>
  let n := fld p.w4.toNat 0 12
  let ctx := fld p.w5.toNat 0 10
  let c := getCtx s ctx
  let cls := fld p.w7.toNat 1 3
  if (getQp s n).st ≠ 0 then answer q p stBusy s
  else if c.st ≠ 1 then answer q p stLost s
  else if (cls = 7 ∧ !(getSlot s c.slot).brec.class7) ∨ n = 0 then answer q p stDenied s
  else answer q p stOk (setQp s n { st := 1, maxCls := cls, port := fld p.w7.toNat 0 1, adapter := p.w6, ctx := ctx, cgen := c.gen })

/-- QP_BIND (R49). -/
def execQpBind (p : Pkt) (s : State) : Host.Outcome State Fault Refusal :=
  .next (arrive startQpBind wrongOnFabric { p with opcode := 0x8E } s)

/-- QP_UNBIND's start (R51, spec/11 R315). The rules name no status for a QPN without a binding (NOT_BOUND, DEDUCED) or a
second QP_UNBIND (RESOURCE_BUSY, DEDUCED): notes/assumptions/30.md. -/
def startQpUnbind : Handler := fun q p s =>
  let n := fld p.w4.toNat 0 12
  let x := getQp s n
  if n = 0 ∨ x.st = 0 then answer q p stUnbound s
  else if s.fe.begun.any (fun b => b.job == .unbind n) then answer q p stBusy s
  else
    let s := begin q p (.unbind n) 0 s
    let x := { x with st := 4, sq := if (getFe s x.port).up then x.sq else [] }
    unbindCheck (setQp s n x)

/-- QP_UNBIND (R51). -/
def execQpUnbind (p : Pkt) (s : State) : Host.Outcome State Fault Refusal :=
  .next (arrive startQpUnbind wrongOnFabric { p with opcode := 0x8F } s)

end Sys2Proof.Machine
end

