-- ==== Sys2Proof/Machine/Granary.lean ====
section
/-! DEFINITION. The granary (spec/02 R65-R69): loads from the host and from a peer, seals, pins and evictions. What the rules
leave to the module, such as which granules an image takes, is in notes/assumptions/31.md. -/
namespace Sys2Proof.Machine

/-! ### Granules and candidates -/

/-- The model ID of a granary command. -/
def modelOf (p : Pkt) : Nat := opA p
def pid6 (p : Pkt) : Nat := p.w6.toNat

/-- The image of a model that a slot's granary holds. -/
def imageOf (s : State) (i model : Nat) : Option Image := (getSlot s i).images.find? (fun x => x.model == model)

/-- An image of a slot replaced. -/
def setImage (s : State) (i : Nat) (x : Image) : State :=
  let sl := getSlot s i
  setSlot s i { sl with images := sl.images.map (fun y => if y.model == x.model then x else y) }

/-- FREE granules on the READY channels of a slot, by address. -/
def freeHbm (s : State) (i : Nat) : List Nat :=
  let chans := (getSlot s i).brec.chans
  let acs := (List.range 192).filter (fun a => chans.contains (pchanOf s a) && chanReady s (pchanOf s a))
  acs.flatMap (fun a => ((List.range 1152).map (fun g => 1152 * a + g)).filter (fun k => (getTag s (false, k)).st == 0))

/-- The lowest run of `n` consecutive granules of an ascending list; `acc` is the run that is growing, last first. -/
def runOf (n : Nat) : List Nat → List Nat → Option (List Nat)
  | [], _ => none
  | k :: t, acc =>
    let acc := match acc with
      | j :: _ => if k = j + 1 then k :: acc else [k]
      | [] => [k]
    if acc.length = n then some acc.reverse else runOf n t acc

/-- The granules an image takes: consecutive ones where there are any, else the lowest. -/
def pickGrans (n : Nat) (free : List Nat) : List Nat := (runOf n free []).getD (free.take n)

/-- The order in which images are evicted (R67): least recent use first, then ascending model ID. -/
def older (a b : Image) : Bool := decide (a.used < b.used) || (a.used == b.used && decide (a.model ≤ b.model))

def insertImg (x : Image) : List Image → List Image
  | [] => [x]
  | y :: t => if older x y then x :: y :: t else y :: insertImg x t

def sortImgs (l : List Image) : List Image := l.foldr insertImg []

/-- Images that may be evicted, in order (R67). -/
def evictable (s : State) (i : Nat) : List Image :=
  sortImgs ((getSlot s i).images.filter (fun x => x.st == 1 && x.pins == 0 && x.maps == 0))

/-- Granules that the images of a slot's granary take. -/
def granaryUsed (s : State) (i : Nat) : Nat := ((getSlot s i).images.map (fun x => x.granules.length)).sum

/-- The shortest list of evictions that leaves room for `n` granules and one more image, none where no list does; `u` granules
of the granary are in use, `f` granules are free and `c` images are held. -/
def evictPlan (n size : Nat) : List Image → Nat → Nat → Nat → Option (List Image)
  | l, u, f, c =>
    if u + n ≤ size ∧ n ≤ f ∧ c < 256 then some []
    else match l with
      | [] => none
      | x :: t => (evictPlan n size t (u - x.granules.length) (f + x.granules.length) (c - 1)).map (fun r => x :: r)

/-! ### GRANARY_LOAD (R66) -/

/-- The reply with an image's base FPA. -/
def answerBase (q : QRef) (p : Pkt) (s : State) (x : Image) : State := answerAt q p stOk (fpaOf s x.base) s

/-- GRANARY_LOAD's start. -/
def startLoad : Handler := withSlot pid6 (fun i q p s =>
  let model := modelOf p
  let size := numAt p.payload 0 8
  let source := numAt p.payload 40 4
  let peer := fld (numAt p.payload 44 4) 0 14
  let n := ceilDiv size granSpan
  if p.payload.length ≠ 48 ∨ size = 0 then answer q p stLen s
  else if 1 < source then answer q p stOpcode s
  else match imageOf s i model with
    | some x =>
      if x.st = 1 then
        let x := { x with used := s.dev.now }
        answerBase q p (setImage s i x) x
      else answer q p stRetry s
    | none =>
      if source = 1 && (!inRunTable s i peer || peer == ownModule s) then answer q p stDenied s
      else
        let b := (getSlot s i).brec
        match evictPlan n b.granary (evictable s i) (granaryUsed s i) (freeHbm s i).length (getSlot s i).images.length with
        | none => answer q p stBusy s
        | some l =>
          let s := l.foldl (fun s x => dropImage s i x.model) s
          let gr := pickGrans n (freeHbm s i)
          let s := gr.foldl (fun s k => setTag s (false, k) { slot := i, shared := true, conf := b.conf, st := 1 }) s
          let x : Image :=
            { model := model, base := granBase (false, gr.headD 0), size := size, granules := gr, digest := sliceZ p.payload 8 32,
              host := source == 0, peer := peer, st := 0, pins := 0, maps := 0, used := s.dev.now, id := none }
          let put (x : Image) (s : State) : State :=
            let sl := getSlot s i
            setSlot s i { sl with images := sl.images ++ [x] }
          if source = 0 then answerBase q p (put x s) x
          else
            let id := s.fe.nextId
            let s := begin q p (.pull i model) 0 s
            put { x with id := some id } s)

/-- GRANARY_LOAD (R66). -/
def execGranaryLoad (p : Pkt) (s : State) : Host.Outcome State Fault Refusal :=
  .next (arrive startLoad wrongOnFabric { p with opcode := 0x97 } s)

/-! ### The check of an image (R69) -/

/-- The bytes of an image in the order of its granules, or none where a word cannot be corrected; `n` bytes are left. -/
def imageBytes : List Nat → Nat → List Byte → State → Option (List Byte) × State
  | [], _, acc, s => (some acc, s)
  | k :: t, n, acc, s =>
    match readServe s .internal 0 (granBase (false, k)) (min n granSpan) with
    | .ok d s => imageBytes t (n - granSpan) (acc ++ d) s
    | .unc s => (none, s)
    | _ => (none, s)

/-- An image becomes READY, its granules read only, when its digest matches; else it is discarded. The answer's status; a word that cannot be
corrected discards the image with UNCORRECTABLE (DESIGN CHOICE, notes/assumptions/31.md). -/
def sealImage (s : State) (i : Nat) (x : Image) : Nat × State :=
  match imageBytes x.granules x.size [] s with
  | (none, s) => (stUnc, dropImage s i x.model)
  | (some l, s) =>
    if shake256 l 32 = x.digest then
      let s := x.granules.foldl (fun s k => setTag s (false, k) { getTag s (false, k) with ro := true }) s
      (stOk, setImage s i { x with st := 1, used := s.dev.now, id := none })
    else (stAuth, dropImage s i x.model)

/-- The image that a granary command names (R68): NOT_BOUND without one, and no payload. -/
def withGranImage (f : Nat → Image → Handler) : Handler := fun q p s =>
  if p.payload.length ≠ 0 then answer q p stLen s
  else match slotOfPid s (pid6 p) with
    | none => answer q p stUnbound s
    | some i =>
      match imageOf s i (modelOf p) with
      | none => answer q p stUnbound s
      | some x => f i x q p s

/-- GRANARY_SEAL's start (R68, R69). -/
def startSeal : Handler := withGranImage (fun i x q p s =>
  if x.st ≠ 0 ∨ !x.host then answer q p stBusy s
  else
    let (status, s) := sealImage s i x
    answer q p status s)

/-- GRANARY_SEAL (R69). -/
def execGranarySeal (p : Pkt) (s : State) : Host.Outcome State Fault Refusal :=
  .next (arrive startSeal wrongOnFabric { p with opcode := 0x98 } s)

/-- GRANARY_PIN's start (R67, R68). -/
def startPin : Handler := withGranImage (fun i x q p s =>
  if x.st = 0 then answer q p stRetry s
  else if bitAt p.w7.toNat 0 then
    if 65535 ≤ x.pins then answer q p stBusy s else answer q p stOk (setImage s i { x with pins := x.pins + 1 })
  else if x.pins = 0 then answer q p stDenied s
  else answer q p stOk (setImage s i { x with pins := x.pins - 1 }))

/-- GRANARY_PIN (R67). -/
def execGranaryPin (p : Pkt) (s : State) : Host.Outcome State Fault Refusal :=
  .next (arrive startPin wrongOnFabric { p with opcode := 0x99 } s)

/-- GRANARY_EVICT's start (R67, R68). -/
def startEvict : Handler := withGranImage (fun i x q p s =>
  if x.st = 0 then answer q p stRetry s
  else if x.pins ≠ 0 ∨ x.maps ≠ 0 then answer q p stBusy s
  else answer q p stOk (dropImage s i x.model))

/-- GRANARY_EVICT (R68). -/
def execGranaryEvict (p : Pkt) (s : State) : Host.Outcome State Fault Refusal :=
  .next (arrive startEvict wrongOnFabric { p with opcode := 0x9A } s)

/-! ### The end of a pull (R69) -/

/-- The bytes of an image written to its granules. -/
def writeImage (s : State) (x : Image) (data : List Byte) : State :=
  ((List.range x.granules.length).zip x.granules).foldl (fun s e =>
    let d := sliceZ (data.take x.size) (e.1 * granSpan) (min granSpan (x.size - e.1 * granSpan))
    putBytes s (granBase (false, e.2)) d) s

/-- A LOADING image that comes from a peer, with the command that waits for it. -/
def pulling (s : State) (slot model : Nat) : Option Image :=
  match imageOf s slot model with
  | some x => if x.st = 0 ∧ !x.host then some x else none
  | none => none

/-- GRANARY_PEER_PULL_END (R69): the bytes that the peer has sent. -/
def execGranaryPeerPullEnd (slot model : Nat) (data : List Byte) (s : State) : Host.Outcome State Fault Refusal :=
  match pulling s slot model with
  | none => .next s
  | some x =>
    let (status, s) := sealImage (writeImage s x data) slot x
    match x.id with
    | none => .next s
    | some id => .next (wakeAll (finish id (fun q p s => if status = stOk then answerBase q p s x else answer q p status s) s))

/-- A pull that its peer does not go on with ends, and its image is discarded. -/
def pullStops (s : State) (slot : Nat) (x : Image) : State :=
  let s := dropImage s slot x.model
  match x.id with
  | none => s
  | some id => finishStatus id stTimeout s

/-- GRANARY_PEER_TIMEOUT (R69). -/
def execGranaryPeerTimeout (slot model : Nat) (s : State) : Host.Outcome State Fault Refusal :=
  match pulling s slot model with
  | none => .next s
  | some x => .next (wakeAll (pullStops s slot x))

end Sys2Proof.Machine
end

