-- ==== Sys2Proof/Machine/PowerOps.lean ====
section
/-! DEFINITION. The effective limits of power and heat (spec/12 R342, R350, R353), and phase hints (R347): the phase word,
of a packet or of a sequencer's HINT. -/
namespace Sys2Proof.Machine

/-! ### Limits in force -/

/-- Whether the module is STOPPED by the coolant stop (R351). -/
def powerStopped (s : State) : Bool := s.pwr.half0 == 3 || s.pwr.half1 == 3

/-- PWR_CAP_MW.LIMIT as it acts: the nearest bound outside 1,200,000 to 2,700,000 (R342). -/
def limitEff (s : State) : Nat := min 2700000 (max 1200000 s.pwr.limit.toNat)

/-- The effective cap C in mW (R342); 1,000,000 during a coolant stop (R351). -/
def capEff (s : State) : Nat :=
  if powerStopped s then 1000000
  else (min 2700000 (max 1000000 ((limitEff s : Int) + s.pwr.offset - s.pwr.reduction))).toNat

/-- PWR_FREQ.FMAX as it acts: steps of 100 MHz from 400 to 2,400, other values the next step down (R353). -/
def fmaxEff (s : State) : Nat := min 2400 (max 400 (s.pwr.fmax.toNat / 100 * 100))

/-- THM_LIMIT as it acts (R353). -/
def throttleEff (s : State) : Nat := min 100 (max 70 s.pwr.throttle.toNat)
def critEff (s : State) : Nat := min 110 (max (throttleEff s + 5) s.pwr.crit.toNat)

/-- The half whose power a temperature sensor needs (R353). -/
def halfOfSensor (n : Nat) : Nat := if n < 36 then n / 18 else if n < 38 then n - 36 else (n - 38) / 6

/-- PWR_STATE (R353). -/
def pwrState (s : State) : Nat := s.pwr.half0 % 4 + s.pwr.half1 % 4 * 2 ^ 2 + b2n s.pwr.capUnmet * 2 ^ 4

/-! ### Budgets (R348) -/

/-- A new offset from a lead: refused by a module that accepts none or another lead's, else clamped to its range and
applied. -/
def takeBudget (s : State) (lead : Nat) (ofs : Int) : Option (Int × State) :=
  if !s.pwr.shiftEn || s.pwr.shiftLead.toNat ≠ lead then none
  else
    let r : Int := s.pwr.shiftRange.toNat * 10000
    let v := min r (max (-r) ofs)
    some (v, { s with pwr := { s.pwr with offset := v } })

/-- The offset that the lead knows of a member. -/
def offsetOf (s : State) (slot mid : Nat) : Int := tabGet (fun _ => 0) (getSlot s slot).offsets mid
def setOffset (s : State) (slot mid : Nat) (v : Int) : State :=
  let sl := getSlot s slot
  setSlot s slot { sl with offsets := tabSet (fun _ => 0) sl.offsets mid v }

/-- A POWER_BUDGET to another member; `k` tells the answers of a donor (8) from the others (9) (notes/assumptions/23.md). -/
def sendBudget (s : State) (slot mid k : Nat) (v : Int) : State :=
  let p : Pkt := {
    opcode := 0xC2, quiet := false, seq := BitVec.ofNat 32 (2 ^ 30 + k * 2 ^ 24 + slot),
    w4 := BitVec.ofNat 32 (ownModule s), w5 := BitVec.ofInt 32 v }
  sendForSlot s mid slot slot p

/-- A member's offset told to it; the lead's own module applies its own. -/
def tellBudget (s : State) (slot mid k : Nat) (v : Int) : State :=
  let s := setOffset s slot mid v
  if mid ≠ ownModule s then sendBudget s slot mid k v
  else match takeBudget s mid v with
    | some (w, s) => setOffset s slot mid w
    | none => s

/-- The donor has answered OK: the recipient's raised offset follows (R348 step 4). -/
def donorDone (s : State) (slot : Nat) : State :=
  let sl := getSlot s slot
  match sl.donorMove with
  | none => s
  | some (_, r) => tellBudget (setSlot s slot { sl with donorMove := none }) slot r 9 (offsetOf s slot r + 50000)

/-- The answer of a member to POWER_BUDGET; word 5 is the offset it applies. -/
def budgetAnswer (s : State) (slot mid k : Nat) (p : Pkt) : State :=
  if p.status ≠ stOk then s
  else
    let s := setOffset s slot mid (sgn 32 p.w5.toNat)
    match (getSlot s slot).donorMove with
    | some (d, _) => if k = 8 ∧ d = mid then donorDone s slot else s
    | none => s

/-! ### Phase hints -/

/-- Whether a phase word's KIND is one of the four and its HALVES are those the kind may name. -/
def hintOk (v : Nat) : Bool := decide (fld v 0 4 ≤ 3) && (decide (fld v 0 4 = 0) || decide (fld v 36 2 = 0))

/-- A phase hinted by half `half`: it replaces one that has not started. -/
def hintPost (s : State) (half v : Nat) : State :=
  let hs := if fld v 0 4 = 0 then (if fld v 36 2 = 0 then 2 ^ half else fld v 36 2) else 3
  { s with pwr := { s.pwr with hint := some { kind := fld v 0 4, delay := fld v 4 16, dur := fld v 20 16, halves := hs } } }

/-- A sequencer's HINT with MOD = 1: one that breaks the rules is ignored and counted. -/
def hintWord (s : State) (half v : Nat) : State :=
  if hintOk v then hintPost s half v
  else { s with pwr := { s.pwr with hintIgnored := if s.pwr.hintIgnored = 0xFFFFFFF then s.pwr.hintIgnored else s.pwr.hintIgnored + 1 } }

end Sys2Proof.Machine
end

