-- ==== Sys2Proof/Machine/SeqOps.lean ====
section
/-! DEFINITION. Sequencer words and images (spec/07 R191, R192, R200), the program store, a run's accesses to memory with
their stalls and endings (R207), and the issue of a run's next instruction (R202). -/
namespace Sys2Proof.Machine

/-! ### Words (R200) -/

/-- The fields of a sequencer instruction. -/
structure SeqW where
  op : Nat
  d : Nat
  a : Nat
  b : Nat
  c : Nat
  md : Nat
  imm : Nat
deriving DecidableEq, Repr

def seqW (w : W64) : SeqW :=
  let n := w.toNat
  { op := fld n 56 8, d := fld n 52 4, a := fld n 48 4, b := fld n 44 4, c := fld n 40 4, md := fld n 32 8, imm := fld n 0 32 }

/-- IMM32 sign-extended. -/
def simm (w : SeqW) : W64 := BitVec.ofInt 64 (sgn 32 w.imm)

/-- Whether a word is proper: a defined opcode, its MOD values, and zero in the fields that it does not use. HINT with MOD 0
uses D, which R205 names (DEDUCED, notes/assumptions/32.md). -/
def seqProper (w : SeqW) : Bool :=
  let z (d a b c md imm : Bool) : Bool :=
    (d || w.d == 0) && (a || w.a == 0) && (b || w.b == 0) && (c || w.c == 0) && (md || w.md == 0) && (imm || w.imm == 0)
  let y := true
  let n := false
  match w.op with
  | 0x00 => z n n n n n n
  | 0x01 => z y n n n n y
  | 0x02 => z y y n n n y
  | 0x03 =>
    let i := bitAt w.md 7
    z y y (!i) n y i && decide (fld w.md 0 4 ≤ 9) && decide (fld w.md 4 3 = 0)
  | 0x04 => z y y n n y y && decide (w.md ≤ 1)
  | 0x05 => z n y y n y y && decide (w.md ≤ 1)
  | 0x06 => z y y n n n n
  | 0x10 => z n y y n y y && decide (fld w.md 0 3 ≤ 5) && decide (fld w.md 3 4 = 0)
  | 0x11 => z n y y n y y && decide (fld w.md 1 6 = 0)
  | 0x12 => z n y y n y y && decide (fld w.md 0 3 ≤ 5) && decide (fld w.md 3 4 = 0)
  | 0x13 => z y n n n n y
  | 0x14 => z n n n n n y
  | 0x15 => z n n n n y y && decide (fld w.md 0 7 = 0)
  | 0x16 => z n n n n y n && decide (w.md ≤ 1)
  | 0x20 => z (decide (w.imm ≠ 0)) y y n n y
  | 0x21 => z n y y n n n
  | 0x22 => z n n n n y n
  | 0x30 => z y y y y y y && decide (w.md ≤ 7)
  | 0x31 => z n y y y y n && decide (w.md ≤ 7)
  | 0x32 => if w.md = 0 then z y n n n n y else z n y n n y n && decide (w.md = 1)
  | 0x40 => z y y y n n n
  | 0x41 => z y y y n n n
  | 0x42 => z y y y n n n
  | 0x50 => z n y y y n n
  | 0x51 => z n n n n n n
  | _ => false

def seqBranches (w : SeqW) : Bool := [0x10, 0x11, 0x12, 0x13, 0x14, 0x15].contains w.op

/-- The index a branch at `i` goes to. -/
def branchTo (i : Nat) (w : SeqW) : Int := (i : Int) + sgn 32 w.imm

/-- Step 4's test of the word at an index of `n` words, `recs` records. -/
def wordOk (n recs i : Nat) (x : W64) : Bool :=
  let w := seqW x
  seqProper w
    && (!seqBranches w || (decide (0 ≤ branchTo i w) && decide (branchTo i w < n)))
    && (!(w.op == 0x30 || (w.op == 0x32 && w.md == 0)) || decide (w.imm < recs))
    && (decide (i + 1 ≠ n) || w.op == 0x51 || w.op == 0x14)

/-! ### Records and images (R191, R192) -/

/-- A field of word `i` of a record. -/
def recWord (r : List W32) (i : Nat) : Nat := (r.getD i 0).toNat

def recEntry (r : List W32) : Nat := recWord r 0 + fld (recWord r 1) 0 25 * 2 ^ 32
def recFirst (r : List W32) : Nat := fld (recWord r 2) 0 24
def recFoot (r : List W32) : Nat := fld (recWord r 2) 24 2
def recCls (r : List W32) : Nat := fld (recWord r 2) 26 3
def recCount (r : List W32) : Nat := fld (recWord r 3) 0 24
def recStride (r : List W32) : Nat := fld (recWord r 4) 0 24
def recPfReg (r : List W32) : Nat := fld (recWord r 5) 0 4
def recPfN (r : List W32) : Nat := fld (recWord r 5) 4 2

/-- Prefetch extent `k` of a record: address, length, member. -/
def recPf (r : List W32) (k : Nat) : Nat × Nat × Nat :=
  (recWord r (8 + 4 * k) + recWord r (9 + 4 * k) * 2 ^ 32, recWord r (10 + 4 * k), recWord r (11 + 4 * k))

/-- Step 5's test of a record. -/
def recOk (r : List W32) : Bool :=
  decide (recEntry r % 8 = 0) && decide (recFoot r ≠ 3) && decide (1 ≤ recCount r) && decide (1 ≤ recStride r)
    && decide (recFirst r + (recCount r - 1) * recStride r < 2 ^ 24) && decide (recPfN r ≤ 2)
    && (List.range (recPfN r)).all (fun k => decide (1 ≤ (recPf r k).2.1) && decide ((recPf r k).2.1 ≤ 4194304))

/-- The indices of a list with its elements. -/
def indexed {α : Type} (l : List α) : List (Nat × α) := (List.range l.length).zip l

/-- Steps 4 and 5: the index that word 6 of the refusal holds, none where the image passes. -/
def progCheckImage (entry : Nat) (code : List W64) (recs : List (List W32)) : Option Nat :=
  let n := code.length
  if n ≤ entry then some 0xFFFFFFFF
  else match (indexed code).find? (fun e => !wordOk n recs.length e.1 e.2) with
    | some e => some e.1
    | none => ((indexed recs).find? (fun e => !recOk e.2)).map (fun e => n + e.1)

/-- `n` pieces of `w` bytes from an offset, as numbers. -/
def numsAt (l : List Byte) (o w n : Nat) : List Nat := (cutEach w n (sliceZ l o (w * n))).map ofLE

/-- The code words and the records of an image. -/
def imageCode (l : List Byte) : List W64 := (numsAt l 32 8 (numAt l 4 4 % 2 ^ 17)).map (BitVec.ofNat 64)
def imageRecs (l : List Byte) : List (List W32) :=
  let n := fld (numAt l 8 4) 0 13
  (cutEach 64 n (sliceZ l (32 + 8 * fld (numAt l 4 4) 0 17) (64 * n))).map (fun r => (numsAt r 0 4 16).map (BitVec.ofNat 32))

/-- Step 2's test of a header against the size. -/
def headerOk (l : List Byte) (size : Nat) : Bool :=
  let n := fld (numAt l 4 4) 0 17
  let m := fld (numAt l 8 4) 0 13
  decide (numAt l 0 4 = 0x5E0CA001) && decide (1 ≤ n) && decide (n ≤ 65536) && decide (m ≤ 4096) && decide (size = 32 + 8 * n + 64 * m)

/-- Bytes that a version takes in each half's store. -/
def versionBytes (v : Version) : Nat := 32 + 8 * v.code.length + 64 * v.recs.length

/-- Every program. -/
def allProgs (s : State) : List (Nat × Prog) := s.seq.progs.filterMap (fun e => e.2.map (fun p => (e.1, p)))

/-- Free bytes of the program store of a half: 32 MiB less every version held (R193). -/
def storeFree (s : State) : Nat :=
  0x2000000 - ((allProgs s).map (fun e => (e.2.versions.map versionBytes).sum)).sum

/-- The version of a number of a program. -/
def versionOf (s : State) (prog num : Nat) : Option Version :=
  match getProg s prog with
  | some p => p.versions.find? (fun v => v.num == num)
  | none => none

/-! ### A run's accesses (R207) -/

/-- The fault record of a run (R234). -/
def runFault (r : Nat) (x : Run) (write : Bool) (va : Nat) (s : State) (cause : Nat) : FaultRec :=
  mkFault s cause 0 2 x.ctx write false (BitVec.ofNat 64 va) (BitVec.ofNat 64 (r + x.pc * 2 ^ 16)) 0xFFFFFF (x.core / 8) 0

/-- What a run finds at an address: an entry, or it has ended, stalls, or is to be torn down. -/
inductive RunSeg where
  | seg (e : Range) (v len : Nat) (s : State)
  | stop (s : State)

/-- The extent of a run's access at a cursor. -/
def runSeg (s : State) (r : Nat) (x : Run) (kind : ReqKind) (va n : Nat) : RunSeg :=
  match segAt s none x.ctx kind va n (runFault r x (kind == .write) va) with
  | (.seg e v m, s) => .seg e v m s
  | (.deny st, s) => .stop (endRun r st s)
  | (.fault cause, s) =>
    .stop (submitFault (setRun s r (some { x with wait := .fault })) (.run r) (runFault r x (kind == .write) va s cause))
  | (.lost, s) => .stop s

/-- A run's access met an uncorrectable word: its context is LOST, or the run ends UNCORRECTABLE. -/
def runUnc (s : State) (r : Nat) (x : Run) : State := if (getCtx s x.ctx).st = 1 then endRun r stUnc s else s

/-- What became of a run's read. -/
inductive RunRead where
  | ok (data : List Byte) (s : State)
  | stop (s : State)

/-- The bytes that memory answers, or the run's end. -/
def runRes (r : Nat) (x : Run) (s : State) : MemRes → RunRead
  | .ok d s => .ok d s
  | .unc s => .stop (runUnc s r x)
  | .refused => .stop (endRun r stDenied s)
  | .unavail => .stop (endRun r stPart s)

/-- A request of a run on another module; without a route the access is as refused (spec/09 R267). -/
def runReq (s : State) (r : Nat) (x : Run) (who : Asker) (e : Range) (v : Nat) (f : FabPkt) : State :=
  let fpa := rangeFpa e v
  let cls := min x.cls e.cls
  match sendReq s who x.ctx 0 (576 + x.core) (fpa / 4096)
      { f with dst := fpa / 2 ^ 42, vc := vcFor f.kind cls, cls := cls, edom := e.edom, target := BitVec.ofNat 64 fpa } with
  | some s => s
  | none => endRun r stDenied s

/-- Whether an access within one word is on this module, and its bytes, or the request that fetches them (the run then waits
for the answer). -/
def runLoad (s : State) (r : Nat) (x : Run) (va n : Nat) : RunRead :=
  match runSeg s r x .read va n with
  | .stop s => .stop s
  | .seg e v _ s =>
    if entLocal s e v then runRes r x s (entRead s x.ctx e v n)
    else .stop (runReq (setRun s r (some { x with wait := .remote })) r x (.run r) e v { kind := 1, len := n })

/-! ### Issue (R202) -/

/-- The run at its next instruction. -/
def Run.next (x : Run) : Run := { x with pc := x.pc + 1, kvWaited := false }

/-- The run stored. -/
def putRun (s : State) (r : Nat) (x : Run) : State := setRun s r (some x)

/-- Waits at which an instruction is looked at again when it is sent again: for room or for the run's own work. -/
def retryWait (w : RunWait) : Bool :=
  match w with
  | .none => true
  | .emitRoom => true
  | .kvRoom => true
  | .kvClose _ => true
  | _ => false

/-- The word at which a run stands. -/
def runWord (s : State) (x : Run) : Option SeqW :=
  match versionOf s x.prog x.ver with
  | some v => (v.code[x.pc]?).map seqW
  | none => none

/-- Whether earlier stores of a run on other modules are still to be performed (R204). -/
def runStores (s : State) (r : Nat) : Bool := s.fab.outst.any (fun o => o.who == .runSt r)

/-- Whether COPYs of a run are still to be performed. -/
def runCopies (s : State) (r : Nat) : Bool := s.fe.begun.any (copyOfRun r)

/-- Whether a group takes `n` more (R204). -/
def groupRoom (x : Run) (g n : Nat) : Bool := decide (groupOf x g + n ≤ 4294967295)

/-- The record that a DISPATCH or HINT names. -/
def recOfRun (s : State) (x : Run) (w : SeqW) : Option (List W32) :=
  match versionOf s x.prog x.ver with
  | some v => v.recs[w.imm]?
  | none => none

/-- Whether R204 holds an instruction back: for the run's earlier stores or COPYs, or for the room of its group. -/
def heldBack (s : State) (r : Nat) (x : Run) (w : SeqW) : Bool :=
  match w.op with
  | 0x21 => runStores s r || runCopies s r
  | 0x30 => runStores s r || !groupRoom x w.md (match recOfRun s x w with | some rc => recCount rc | none => 0)
  | 0x31 => !groupRoom x w.md 1
  | 0x50 => runStores s r
  | _ => false

/-- Whether a run can do its next instruction but for its turn: its context is LIVE, its sequencer core serves, and it does not
wait. -/
def runServed (s : State) (x : Run) : Bool :=
  decide ((getCtx s x.ctx).st = 1) && (getCtx s x.ctx).gen == x.cgen && unitSt s ⟨7, x.core⟩ == .ready && !halfOff s (x.core / 8)
    && retryWait x.wait

/-- Whether a run can issue (R202): one that waits for room of a ring or table is left out. -/
def runCanIssue (s : State) (e : Nat × Run) : Bool :=
  runServed s e.2 && decide (e.2.wait = .none) && (match runWord s e.2 with | some w => !heldBack s e.1 e.2 w | none => false)

/-- How far a run lies behind the one that a list of a sequencer core served last, in the order of run IDs. -/
def turnDist (last r : Nat) : Nat := (r + 4096 - last - 1) % 4096

/-- The round-robin list of a run (R202): of its sequencer core, for class 7 or for the others. -/
def turnList (x : Run) : Nat := 2 * x.core + b2n (x.cls == 7)

/-- Whether it is a run's turn on its sequencer core (R202): no other run that can issue goes first, class 7 before the others, each in
round-robin order. -/
def seqTurn (s : State) (r : Nat) (x : Run) : Bool :=
  let last := tabGet (fun _ => 4095) s.seq.rr (turnList x)
  (allRuns s).all (fun e =>
    !(e.2.core == x.core && e.1 != r && runCanIssue s e
      && (if (e.2.cls == 7) == (x.cls == 7) then decide (turnDist last e.1 < turnDist last r) else e.2.cls == 7)))

/-- A run's turn taken. -/
def takeTurn (s : State) (r : Nat) (x : Run) : State :=
  { s with seq := { s.seq with rr := tabSet (fun _ => 4095) s.seq.rr (turnList x) r } }

/-- Whether a line was prefetched for a run behind the first `k` branches of a path that it was predicted to take. -/
def guessedBehind (s : State) (r k : Nat) (l : Line) : Bool := l.run == (r, incarnOf s r) && decide (k < l.guess)

/-- The first branch of a run's predicted path is taken: as predicted, or the lines behind it are dropped (R206). -/
def settleGuess (s : State) (r pc : Nat) (w : SeqW) : State :=
  match getRun s r with
  | none => s
  | some x =>
    match x.guesses with
    | [] => s
    | (g, taken) :: t =>
      if !seqBranches w ∨ x.pc = pc then s
      else if g = pc ∧ x.pc = (if taken then (branchTo pc w).toNat else pc + 1) then
        let s := setRun s r (some { x with guesses := t })
        { s with mem := { s.mem with lines := s.mem.lines.map (fun l => if guessedBehind s r 0 l then { l with guess := l.guess - 1 } else l) } }
      else dropLines (setRun s r (some { x with guesses := [] })) (guessedBehind s r 0)

/-- A run issues its next instruction when that is of opcode `op` and it is its turn (R202). -/
def seqIssue (op : Nat) (r : Nat) (f : Run → SeqW → State → State) (s : State) : State :=
  match getRun s r with
  | none => s
  | some x =>
    if !runServed s x ∨ !seqTurn s r x then s
    else match runWord s x with
      | none => s
      | some w =>
        if w.op = op then wakeAll (settleGuess (f { x with wait := .none, ahead := false } w (takeTurn s r x)) r x.pc w) else s

/-- A condition of BR and BMW. -/
def seqCond (c : Nat) (a b : W64) : Bool :=
  match c with
  | 0 => a == b
  | 1 => a != b
  | 2 => decide (a.toNat < b.toNat)
  | 3 => decide (b.toNat ≤ a.toNat)
  | 4 => decide (a.toInt < b.toInt)
  | _ => decide (b.toInt ≤ a.toInt)

/-- The run after a branch. -/
def branched (x : Run) (w : SeqW) (taken : Bool) : Run :=
  if taken then { x with pc := (branchTo x.pc w).toNat } else x.next

end Sys2Proof.Machine
end

