-- ==== Sys2Proof/Machine/Programs.lean ====
section
/-! DEFINITION. Programs and launches as packets (spec/07 R191-R199): PROG_LOAD, PATCH_SEQ, PROG_RETIRE, LAUNCH_SEQ, and a run's
timeout. -/
namespace Sys2Proof.Machine

/-! ### PROG_LOAD (R192, R193) -/

/-- The image that a PROG_LOAD has read is validated and stored. -/
def loadCheck (b : Begun) (size : Nat) (s : State) : State :=
  let l := b.buf
  let done (st w6 : Nat) (s : State) : State := finish b.id (fun q p s => answerAt q p st w6 s) s
  if !headerOk l size then done stLen 0 s
  else if shake256 l 32 ≠ b.pkt.payload then done stAuth 0 s
  else
    let code := imageCode l
    let recs := imageRecs l
    let entry := fld (numAt l 12 4) 0 16
    match progCheckImage entry code recs with
    | some i => done stOpcode i s
    | none =>
      let v : Version := { num := 1, code := code, recs := recs }
      if storeFree s < versionBytes v then done stBusy 0 s
      else match pickOne ((List.range 2048).filter (fun g => (getProg s g).isNone)) s with
        | (none, s) => done stBusy 0 s
        | (some g, s) =>
          let s := setProg s g (some { slot := (getCtx s b.pkt.ctx).slot, entry := entry, current := 1, versions := [v] })
          finish b.id (fun q p s => sendReply q p { replyTo p stOk with w4 := BitVec.ofNat 32 g, w5 := 1 } s) s

/-- A begun command goes on: its bytes move, and a PROG_LOAD whose image is whole is checked. -/
def cmdGo (id : Nat) (s : State) : State :=
  let s := bulkRun id s
  match findBegun s id with
  | none => s
  | some b => match b.job with
    | .load _ len => if len ≤ b.buf.length ∧ !b.stalled then loadCheck b len s else s
    | _ => s

/-- PROG_LOAD's start. -/
def startProgLoad : Handler := fun q p s =>
  let size := fld p.w6.toNat 0 20
  if p.payload.length ≠ 32 ∨ size < 32 ∨ 786464 < size then answer q p stLen s
  else
    let id := s.fe.nextId
    let s := begin q p (.load (opA p) size) 0 s
    cmdGo id s

/-- PROG_LOAD (R192). -/
def execProgLoad (p : Pkt) (s : State) : Host.Outcome State Fault Refusal :=
  .next (arrive startProgLoad wrongOnFabric { p with opcode := 0x62 } s)

/-! ### The program a packet names (R196) -/

/-- The slot of the context a packet is sent for. -/
def slotOfPkt (s : State) (p : Pkt) : Nat := (getCtx s p.ctx).slot

/-- NOT_BOUND without the program, ACCESS_DENIED for one of another slot. -/
def withProg (f : Nat → Prog → Handler) : Handler := fun q p s =>
  let g := fld p.w4.toNat 0 11
  match getProg s g with
  | none => answer q p stUnbound s
  | some x => if x.slot ≠ slotOfPkt s p then answer q p stDenied s else f g x q p s

/-! ### PATCH_SEQ (R194) -/

/-- One entry applied: word index, new word. None beyond the image. -/
def patchWord (v : Version) (j : Nat) (x : W64) : Option Version :=
  let n := v.code.length
  if j < n then some { v with code := listSet v.code j x }
  else
    let k := j - n
    if k / 8 < v.recs.length then
      let row := v.recs.getD (k / 8) []
      let row := listSet (listSet row (2 * (k % 8)) (x.setWidth 32)) (2 * (k % 8) + 1) ((x >>> 32).setWidth 32)
      some { v with recs := listSet v.recs (k / 8) row }
    else none

/-- The entries of a payload, in order. -/
def patchAll : List (List Byte) → Version → Option Version
  | [], v => some v
  | e :: t, v =>
    match patchWord v (numAt e 0 4) (BitVec.ofNat 64 (numAt e 8 8)) with
    | some v => patchAll t v
    | none => none

/-- PATCH_SEQ's start: the whole patch is one step, so that no other is in progress with it. -/
def startPatch : Handler := withProg (fun g x q p s =>
  let n := p.payload.length
  if n = 0 ∨ n % 16 ≠ 0 ∨ 8192 < n then answer q p stLen s
  else if 4 ≤ x.versions.length ∨ x.current = 65535 ∨ x.retiring.isSome then answer q p stProg s
  else match versionOf s g x.current with
    | none => answer q p stProg s
    | some v =>
      match patchAll (cutEach 16 (n / 16) p.payload) v with
      | none => answer q p stLen s
      | some v =>
        match progCheckImage x.entry v.code v.recs with
        | some i => answerAt q p stOpcode i s
        | none =>
          if storeFree s < versionBytes v then answer q p stBusy s
          else
            let num := x.current + 1
            let s := setProg s g (some { x with current := num, versions := x.versions ++ [{ v with num := num }] })
            sendReply q p { replyTo p stOk with w5 := BitVec.ofNat 32 num } (progCheck s g))

/-- PATCH_SEQ (R194). -/
def execPatchSeq (p : Pkt) (s : State) : Host.Outcome State Fault Refusal :=
  .next (arrive startPatch wrongOnFabric { p with opcode := 0x61 } s)

/-! ### PROG_RETIRE (R196) -/

/-- PROG_RETIRE's start. -/
def startRetire : Handler := withProg (fun g x q p s =>
  if x.retiring.isSome then answer q p stBusy s
  else
    let id := s.fe.nextId
    let s := begin q p (.retire g) 0 s
    progCheck (setProg s g (some { x with retiring := some (some id) })) g)

/-- PROG_RETIRE (R196). -/
def execProgRetire (p : Pkt) (s : State) : Host.Outcome State Fault Refusal :=
  .next (arrive startRetire wrongOnFabric { p with opcode := 0x63 } s)

/-! ### LAUNCH_SEQ (R197, R198) -/

/-- The sequencer core with the fewest runs, the lower index on a tie. -/
def fewestRuns (s : State) : List Nat → Option Nat
  | [] => none
  | n :: t =>
    match fewestRuns s t with
    | none => some n
    | some m => if runsOnCore s m < runsOnCore s n then some m else some n

/-- LAUNCH_SEQ's start; the refusals are looked for in the order in which R197 lists them. -/
def startLaunch : Handler := fun q p s =>
  let n := p.payload.length
  let g := fld p.w4.toNat 0 11
  let num := fld p.w4.toNat 16 16
  if 128 < n ∨ n % 8 ≠ 0 then answer q p stLen s
  else match getProg s g with
    | none => answer q p stUnbound s
    | some x =>
      let num := if num = 0 then x.current else num
      match versionOf s g num with
      | none => answer q p stUnbound s
      | some v =>
        if x.retiring.isSome then answer q p stProg s
        else if x.slot ≠ slotOfPkt s p then answer q p stDenied s
        else
          let half := halfOfQ s q
          match fewestRuns s (seqCoresOf s half), pickOne (freeRuns s half) s with
          | some core, (some r, s) =>
            let id := s.fe.nextId
            let s := begin q p (.run r) 0 s
            let regs := tabSetAll (fun _ => 0) [] ((indexed (numsAt p.payload 0 8 (n / 8))).map (fun e => (e.1, BitVec.ofNat 64 e.2)))
            setRun s r (some { core := core, cls := p.cls, prog := g, ver := v.num, ctx := p.ctx, cgen := (getCtx s p.ctx).gen,
                               slot := x.slot, q := q, pkt := p, s := regs, pc := x.entry, id := id })
          | _, (_, s) => answer q p stBusy s

/-- LAUNCH_SEQ (R197). -/
def execLaunchSeq (p : Pkt) (s : State) : Host.Outcome State Fault Refusal :=
  .next (arrive startLaunch wrongOnFabric { p with opcode := 0x60 } s)

/-- RUN_TIMEOUT (R197, R207). -/
def execRunTimeout (run : Nat) (s : State) : Host.Outcome State Fault Refusal :=
  match getRun s run with
  | none => .next s
  | some x => if fld x.pkt.w5.toNat 0 16 = 0 then .next s else .next (wakeAll (endRun run stTimeout s))

end Sys2Proof.Machine
end

