-- ==== Sys2Proof/Machine/Sequencer.lean ====
section
/-! DEFINITION. Sequencer instructions (spec/07 R200-R206) but for KV: each runs when it is the next instruction of the run it
names. Instructions that R204 holds back for earlier stores or COPYs, or for room, have no effect until they can go on, and are
then sent again (notes/assumptions/32.md). -/
namespace Sys2Proof.Machine

/-! ### Registers and branches -/

/-- NOP. -/
def execSeqNop (run : Nat) (s : State) : Host.Outcome State Fault Refusal :=
  .next (seqIssue 0x00 run (fun x _ s => putRun s run x.next) s)

/-- MOVI. -/
def execSeqMovi (run : Nat) (s : State) : Host.Outcome State Fault Refusal :=
  .next (seqIssue 0x01 run (fun x w s => putRun s run (sSet x.next w.d (simm w))) s)

/-- MOVHI. -/
def execMovhi (run : Nat) (s : State) : Host.Outcome State Fault Refusal :=
  .next (seqIssue 0x02 run (fun x w s =>
    putRun s run (sSet x.next w.d ((sGet x w.a &&& 0xFFFFFFFF) ||| (BitVec.ofNat 64 w.imm <<< 32)))) s)

/-- The operation that MOD[3:0] of ALU selects. -/
def aluOp (op : Nat) (a b : W64) : W64 :=
  match op with
  | 0 => a + b
  | 1 => a - b
  | 2 => a &&& b
  | 3 => a ||| b
  | 4 => a ^^^ b
  | 5 => a <<< (b.toNat % 64)
  | 6 => a >>> (b.toNat % 64)
  | 7 => a * b
  | 8 => if a.toNat ≤ b.toNat then a else b
  | _ => if a.toNat ≤ b.toNat then b else a

/-- ALU. -/
def execAlu (run : Nat) (s : State) : Host.Outcome State Fault Refusal :=
  .next (seqIssue 0x03 run (fun x w s =>
    let b := if bitAt w.md 7 then simm w else sGet x w.b
    putRun s run (sSet x.next w.d (aluOp (fld w.md 0 4) (sGet x w.a) b))) s)

/-- BR. -/
def execSeqBr (run : Nat) (s : State) : Host.Outcome State Fault Refusal :=
  .next (seqIssue 0x10 run (fun x w s => putRun s run (branched x w (seqCond (fld w.md 0 3) (sGet x w.a) (sGet x w.b)))) s)

/-- LOOP. -/
def execLoopS (run : Nat) (s : State) : Host.Outcome State Fault Refusal :=
  .next (seqIssue 0x13 run (fun x w s =>
    let v := sGet x w.d - 1
    putRun s run (branched (sSet x w.d v) w (v != 0))) s)

/-- JMP. -/
def execJmp (run : Nat) (s : State) : Host.Outcome State Fault Refusal :=
  .next (seqIssue 0x14 run (fun x w s => putRun s run (branched x w true)) s)

/-- BOVF (R200, R204). -/
def execBovf (run : Nat) (s : State) : Host.Outcome State Fault Refusal :=
  .next (seqIssue 0x15 run (fun x w s => putRun s run (branched x w x.ovfSeen)) s)

/-- OVFCLR. -/
def execOvfclr (run : Nat) (s : State) : Host.Outcome State Fault Refusal :=
  .next (seqIssue 0x16 run (fun x w s =>
    let s := if bitAt w.md 0 then setCtx s x.ctx { getCtx s x.ctx with fgxOvf := false } else s
    putRun s run { x.next with ovf := false, ovfEnded := false, ovfSeen := false }) s)

/-! ### Memory -/

/-- The bytes of LD or BMW have come: the instruction ends. -/
def loadEnd (s : State) (r : Nat) (x : Run) (w : SeqW) (data : List Byte) : State :=
  let v := BitVec.ofNat 64 (ofLE data)
  if w.op = 0x04 then putRun s r (sSet x.next w.d v)
  else putRun s r (branched x w (seqCond (fld w.md 0 3) v (sGet x w.b)))

/-- An aligned load of a run. -/
def loadStart (s : State) (r : Nat) (x : Run) (w : SeqW) (va n : Nat) : State :=
  if va % n ≠ 0 then endRun r stLen s
  else match runLoad s r x va n with
    | .ok d s => loadEnd s r x w d
    | .stop s => s

/-- LD (R200, R207). -/
def execSeqLd (run : Nat) (s : State) : Host.Outcome State Fault Refusal :=
  .next (seqIssue 0x04 run (fun x w s =>
    loadStart s run x w (sGet x w.a + simm w).toNat (if bitAt w.md 0 then 8 else 4)) s)

/-- BMW (R200, R207). -/
def execBmw (run : Nat) (s : State) : Host.Outcome State Fault Refusal :=
  .next (seqIssue 0x12 run (fun x w s => loadStart s run x w (sGet x w.a).toNat 8) s)

/-- ST (R200, R207): on another module the run goes on and the answer is awaited. -/
def execSeqSt (run : Nat) (s : State) : Host.Outcome State Fault Refusal :=
  .next (seqIssue 0x05 run (fun x w s =>
    let va := (sGet x w.a + simm w).toNat
    let n := if bitAt w.md 0 then 8 else 4
    let data := leBytes n (sGet x w.b).toNat
    if va % n ≠ 0 then endRun run stLen s
    else match runSeg s run x .write va n with
      | .stop s => s
      | .seg e v _ s =>
        if entLocal s e v then
          match runRes run x s (entWrite s x.ctx e v data) with
          | .ok _ s => putRun s run x.next
          | .stop s => s
        else runReq (putRun s run x.next) run x (.runSt run) e v { kind := 2, len := n, data := data }) s)

/-! ### Events -/

/-- The event that a handle names where the context may use it: of this module, or of another. -/
inductive EvRef where
  | here (e : Nat)
  | far
  | bad

def evRef (s : State) (x : Run) (h : W32) : EvRef :=
  if evMod h ≠ ownModule s then .far else if evServes s x.ctx (evNum h) then .here (evNum h) else .bad

/-- EVREAD or BEV with the event's value. -/
def eventEnd (x : Run) (w : SeqW) (v : W64) : Run :=
  if w.op = 0x06 then sSet x.next w.d v else branched x w (waitMet v (sGet x w.b) != bitAt w.md 0)

/-- EVREAD or BEV (R200, R207): the value of an event of another module is asked of it, and the run waits for the answer (DESIGN CHOICE,
notes/assumptions/32.md). -/
def eventStart (r : Nat) (x : Run) (w : SeqW) (s : State) : State :=
  let h : W32 := (sGet x w.a).setWidth 32
  match evRef s x h with
  | .here e => putRun s r (eventEnd x w (getEv s e).val)
  | .far => askEvent (putRun s r { x with wait := .remote }) (.runEvent r) (BitVec.ofNat 64 x.pc) x.ctx 0 (576 + x.core) opEventRead h 0
  | .bad => runLose s r x 0x42 false 0

/-- EVREAD (R200, R207). -/
def execEvread (run : Nat) (s : State) : Host.Outcome State Fault Refusal := .next (seqIssue 0x06 run (eventStart run) s)

/-- BEV (R200, R207). -/
def execBev (run : Nat) (s : State) : Host.Outcome State Fault Refusal := .next (seqIssue 0x11 run (eventStart run) s)

/-- WAIT (R200, R188, R207). -/
def execWaitEv (run : Nat) (s : State) : Host.Outcome State Fault Refusal :=
  .next (seqIssue 0x20 run (fun x w s =>
    let h : W32 := (sGet x w.a).setWidth 32
    let v := sGet x w.b
    let x' := { x with wait := .event h v (if w.imm = 0 then none else some w.d) }
    match evRef s x h with
    | .here e => registerWait (putRun s run x') { ev := e, target := v, who := .run run }
    | .far => askEvent (putRun s run x') (.runWait run) (BitVec.ofNat 64 x.pc) x.ctx 0 (576 + x.core) 0x41 h v
    | .bad => runLose s run x 0x42 false 0) s)

/-- WAIT_TIMEOUT_EXPIRY (R200): S[D] = 1, and the run goes on. -/
def execWaitTimeoutExpiry (run : Nat) (s : State) : Host.Outcome State Fault Refusal :=
  match getRun s run with
  | none => .next s
  | some x => match x.wait with
    | .event _ _ (some d) =>
      let s := dropWaits s (fun w => w.who == .run run)
      let s := { s with fab := { s.fab with outst := s.fab.outst.filter (fun o => !(o.who == .runWait run)) } }
      .next (putRun s run (sSet { x.next with wait := .none, ahead := false } d 1))
    | _ => .next s

/-- REC (R200, R204): only after every earlier ST and COPY of the run. -/
def execRecEv (run : Nat) (s : State) : Host.Outcome State Fault Refusal :=
  .next (seqIssue 0x21 run (fun x w s =>
    let h : W32 := (sGet x w.a).setWidth 32
    let v := sGet x w.b
    if runStores s run || runCopies s run then s
    else match evRef s x h with
      | .here e => (record (putRun (postBy s e v run (incarnOf s run)) run x.next) e v).2
      | .far => askEvent (putRun s run x.next) (.runSignal run) (BitVec.ofNat 64 x.pc) x.ctx 0 (576 + x.core) 0x42 h v
      | .bad => runLose s run x 0x42 true 0) s)

/-! ### Groups -/

/-- JOIN (R204). -/
def execJoinG (run : Nat) (s : State) : Host.Outcome State Fault Refusal :=
  .next (seqIssue 0x22 run (fun x w s => runCheck (putRun s run { x with wait := .join w.md }) run) s)

/-- END (R199, R204). -/
def execSeqEnd (run : Nat) (s : State) : Host.Outcome State Fault Refusal :=
  .next (seqIssue 0x51 run (fun x _ s => runCheck (putRun s run { x with wait := .ending }) run) s)

/-- KERNEL_END_NOTIFY (R204): a kernel end that is on its way reaches its run. -/
def execKernelEndNotify (run incarn grp : Nat) (ovf : Bool) (s : State) : Host.Outcome State Fault Refusal :=
  match s.seq.ends.find? (fun n => n.run == run && n.incarn == incarn && n.grp == grp && n.ovf == ovf) with
  | some n =>
    .next (wakeAll (groupDone (workEnds { s with seq := { s.seq with ends := s.seq.ends.erase n } } run incarn n.lcid) run incarn grp ovf))
  | none => .next s

/-! ### DISPATCH (R203) -/

/-- The queue entry of member `i`. -/
def memberEntry (s : State) (r : Nat) (x : Run) (w : SeqW) (rec' : List W32) (i lcid : Nat) : DqEntry :=
  { lcid := lcid, ctx := x.ctx, cgen := x.cgen, cls := recCls rec', foot := 2 ^ recFoot rec', entry := BitVec.ofNat 64 (recEntry rec'),
    x1 := sGet x w.a, x2 := sGet x w.b, x3 := sGet x w.c, x4 := BitVec.ofNat 64 i, run := r, incarn := incarnOf s r, grp := w.md }

/-- A member enqueued on its core, held for a move or a flush, or sent to its host; none while its core's queue is full. -/
def placeMember (s : State) (slot : Nat) (e : DqEntry) : Option State :=
  match movingOf s slot e.lcid with
  | some m => some (setMoving s { m with held := m.held ++ [e] })
  | none =>
    if flushHeld s slot e.lcid then
      some { s with part := { s.part with flushes := s.part.flushes.map (fun f =>
        if f.slot == slot && f.lcid == e.lcid then { f with held := f.held ++ [e] } else f) } }
    else match hostOf (getSlot s slot) e.lcid, lmapOf (getSlot s slot) e.lcid with
      | some h, m =>
        if h ≠ ownModule s then some (sendEntry s slot h e)
        else match m with
          | some m => if queueRoom s m.core then some (enqueue s m.core e) else none
          | none => some s
      | none, _ => some s

/-- What becomes of a run's member: accepted by its core's queue, delayed there or by a move (R53 step 2, R62), or on its way to the
module that hosts it, whose answer says whether its queue has accepted it. -/
inductive Placed where
  | done (s : State)
  | delayed
  | sent (s : State)

/-- A member sent to another module, the answer awaited under a tag. -/
def askMember (s : State) (r core slot mid : Nat) (e : DqEntry) : State :=
  let (tag, s) := takeTag s
  let o : Outst := { tag := tag, who := .runDisp r e.lcid, ctx := e.ctx, cgen := (getCtx s e.ctx).gen, bgen := unitGen s ⟨0, 0⟩, core := 0, dst := mid }
  let b := entryBytes e
  sendForCtx { s with fab := { s.fab with outst := s.fab.outst ++ [o] } } e.ctx mid (576 + core) e.lcid
    { opcode := opDispatch, ctx := e.ctx, cls := e.cls, seq := BitVec.ofNat 32 (tagSeq tag), payload := b, plen := b.length }

/-- A run's member (R203). -/
def placeRun (s : State) (r core slot : Nat) (e : DqEntry) : Placed :=
  if (movingOf s slot e.lcid).isSome || flushHeld s slot e.lcid then .delayed
  else match hostOf (getSlot s slot) e.lcid with
    | some h =>
      if h ≠ ownModule s then .sent (askMember s r core slot h e)
      else match placeMember s slot e with
        | some s => .done s
        | none => .delayed
    | none => .done s

/-- Members from `i` on, `n` of them, each accepted by its core's queue before the next; the run waits at the one that is not (R203). -/
def placeFrom (r : Nat) (x : Run) (w : SeqW) (rec' : List W32) (base : Nat) : Nat → Nat → State → State
  | 0, _, s => putRun s r { x.next with wait := .none, ahead := false, toPlace := 0 }
  | n + 1, i, s =>
    match placeRun s r x.core x.slot (memberEntry s r x w rec' i (base + i * recStride rec')) with
    | .done s => placeFrom r (workAdd x (base + i * recStride rec') 1) w rec' base n (i + 1) s
    | .delayed => putRun s r { x with wait := .dispatch i, toPlace := n + 1 }
    | .sent s => putRun s r { x with wait := .dispatchFar i, toPlace := n + 1 }

/-- FIRST with the offset of S[D]; members are u64 sums. -/
def dispatchBase (x : Run) (w : SeqW) (rec' : List W32) : Nat := (recFirst rec' + (sGet x w.d).toNat) % 2 ^ 64

/-- DISPATCH (R203, R204, R207): the run's class and every LCID are checked before any member is enqueued. A sum that wraps
passes through LCIDs above every LCOUNT. -/
def execDispatch (run : Nat) (s : State) : Host.Outcome State Fault Refusal :=
  .next (seqIssue 0x30 run (fun x w s =>
    match recOfRun s x w with
    | none => s
    | some rec' =>
      let base := dispatchBase x w rec'
      let n := recCount rec'
      let sl := getSlot s x.slot
      if runStores s run then s
      else if x.cls < recCls rec' then runLose s run x 0x41 false 0
      else if !sl.bound || decide (sl.brec.lcount ≤ base + (n - 1) * recStride rec') then runLose s run x 0x40 false 0
      else if !groupRoom x w.md n then s
      else placeFrom run (groupPut x w.md (groupOf x w.md + n)) w rec' base n 0 s) s)

/-- A DISPATCH that waits at member `i` goes on. -/
def dispatchGo (run : Nat) (x : Run) (i : Nat) (s : State) : State :=
  match runWord s x with
  | none => s
  | some w =>
    if (getCtx s x.ctx).st ≠ 1 ∨ unitSt s ⟨7, x.core⟩ ≠ .ready ∨ halfOff s (x.core / 8) then putRun s run { x with wait := .dispatch i }
    else match recOfRun s x w with
      | none => s
      | some rec' => placeFrom run { x with ahead := false } w rec' (dispatchBase x w rec') (recCount rec' - i) i s

/-- DISPATCH_QUEUE_ROOM (R203): a delayed DISPATCH goes on. -/
def execDispatchQueueRoom (run : Nat) (s : State) : Host.Outcome State Fault Refusal :=
  match getRun s run with
  | none => .next s
  | some x => match x.wait with
    | .dispatch i => .next (dispatchGo run x i s)
    | _ => .next s

/-- The answer of the module that hosts a member: its core's queue has accepted it, or has no room, and it is sent again when the
DISPATCH goes on. -/
def memberAnswer (s : State) (r lcid status : Nat) : State :=
  match getRun s r with
  | none => s
  | some x => match x.wait with
    | .dispatchFar i => if status = stRetry then putRun s r { x with wait := .dispatch i } else dispatchGo r (workAdd x lcid 1) (i + 1) s
    | _ => s

/-! ### COPY (R200, R204, R207) -/

/-- COPY: its limits and first checks; the engine moves the bytes at COPY_DONE. -/
def execSeqCopy (run : Nat) (s : State) : Host.Outcome State Fault Refusal :=
  .next (seqIssue 0x31 run (fun x w s =>
    let src := (sGet x w.a).toNat
    let dst := (sGet x w.b).toNat
    let len := (sGet x w.c).toNat
    if !copyLimits src dst len then endRun run stLen s
    else if !groupRoom x w.md 1 then s
    else
      let p := { x.pkt with ctx := x.ctx, cls := x.cls, w4 := BitVec.ofNat 32 x.pc }
      let id := s.fe.nextId
      let s := begin x.q p (.copy src dst len (some (run, incarnOf s run, w.md))) 0 s
      let s := match findBegun s id with
        | some b => setBegun s { b with roomKept := false }
        | none => s
      copyFirst id src dst len (putRun s run (groupPut x.next w.md (groupOf x w.md + 1)))) s)

/-! ### EMIT (R201) -/

/-- The COMPLETION of an EMIT. -/
def emitSend (s : State) (r : Nat) (x : Run) (w : SeqW) (data : List Byte) : State :=
  let v := sGet x w.c
  let n := slotBytes data.length
  if !replyRoom s x.q n then putRun s r { x with wait := .emitRoom, buf := data }
  else
    let p := { x.pkt with quiet := false }
    sendReply x.q p { replyTo p stOk with w4 := BitVec.ofNat 32 r, w6 := v.setWidth 32, w7 := (v >>> 32).setWidth 32, payload := data }
      (putRun s r { x.next with wait := .none, buf := [] })

/-- The bytes of an EMIT read, piece by piece; `n` bounds the pieces. -/
def emitRead (r : Nat) (w : SeqW) : Nat → Run → State → State
  | 0, _, s => s
  | n + 1, x, s =>
    let len := (sGet x w.b).toNat
    if len ≤ x.buf.length then emitSend s r x w x.buf
    else match runSeg s r x .read ((sGet x w.a).toNat + x.buf.length) (len - x.buf.length) with
      | .stop s => s
      | .seg e v m s =>
        if entLocal s e v then
          match runRes r x s (entRead s x.ctx e v m) with
          | .ok d s => emitRead r w n { x with buf := x.buf ++ d } s
          | .stop s => s
        else runReq (putRun s r { x with wait := .remote }) r x (.run r) e v { kind := 1, len := farLen v m }

/-- EMIT (R201, R204, R207). -/
def execEmit (run : Nat) (s : State) : Host.Outcome State Fault Refusal :=
  .next (seqIssue 0x50 run (fun x w s =>
    let len := (sGet x w.b).toNat
    if len % 8 ≠ 0 ∨ 4096 < len then endRun run stLen s
    else if runStores s run then s
    else emitRead run w 4100 x s) s)

/-! ### Answers of other modules (R188, R207, spec/09 R256, R267) -/

/-- The status of a run whose access another module did not perform. -/
def farStatus (status : Nat) : Nat := if status = 2 then stUnc else stDenied

/-- The answer to the read of a run that waits for it. -/
def runAnswer (s : State) (r status : Nat) (data : List Byte) : State :=
  match getRun s r with
  | none => s
  | some x =>
    match x.wait, runWord s x with
    | .remote, some w =>
      if status ≠ 0 then endRun r (farStatus status) s
      else
        let x := { x with wait := .none }
        if w.op = 0x50 then emitRead r w 4100 { x with buf := x.buf ++ data } s else settleGuess (loadEnd s r x w data) r x.pc w
    | _, _ => s

/-- The answer to a run's store. -/
def runStAnswer (s : State) (r status : Nat) : State := if status = 0 then s else endRun r (farStatus status) s

/-- The answer to a run's REC or WAIT on another module's event. -/
def runEvAnswer (s : State) (r status pc : Nat) (wait : Bool) : State :=
  match getRun s r with
  | none => s
  | some x =>
    if status = stDenied then runLose s r { x with pc := pc } 0x42 (!wait) 0
    else if wait then wakeRun s r
    else s

/-- The answer to an EVREAD or BEV of another module's event: its value, or a refusal (R207). -/
def runEvValue (s : State) (r status : Nat) (v : W64) : State :=
  match getRun s r with
  | none => s
  | some x =>
    match x.wait, runWord s x with
    | .remote, some w =>
      if status = stDenied then runLose s r x 0x42 false 0
      else if status = stOk then settleGuess (putRun s r (eventEnd { x with wait := .none } w v)) r x.pc w
      else s
    | _, _ => s

/-! ### Prefetches (R205, R206) -/

/-- The words of a line as a prefetch reads them: corrected ones are written back (spec/08 R215). One that cannot be corrected is counted, and
the line is dropped without any other effect (R206; DEDUCED, notes/assumptions/32.md). -/
def prefetchMet (s : State) (a : Nat) : Bool × State :=
  if (upsetIn s a 64).any (fun e => (decodeWord s e.1 e.2).2 == .uncorrectable) then
    let p := granChan s (granOf a)
    (false, setChan s p { getChan s p with ue := sat32 (getChan s p).ue })
  else meetAll none (upsetIn s a 64) s

/-- One line read into a sheaf store, `by'` the run and how many predicted branches lie before it: dropped where translation, permission or ownership refuses it, or the pool has no room. -/
def prefetchLine (core : Option Nat) (by' : (Nat × Nat) × Nat) (ctx cls sheaf va : Nat) (s : State) : Bool × State :=
  match translate s none ctx va with
  | (.hit e, v, s) =>
    let fpa := rangeFpa e v
    let a := fpa % 2 ^ 42
    if !e.r || e.cache == 1 || decide (fpa / 2 ^ 42 ≠ ownModule s) || !inHbm a || decide (spanGate s .read ctx (pidOfCtx s ctx) e.edom a 64 ≠ .allow) then (false, s)
    else
      let cnt := tabGet (fun _ => 0) s.mem.wcount (granOf a).2
      let same (l : Line) : Bool := l.sheaf == sheaf && l.ctx == ctx && l.cgen == (getCtx s ctx).gen && l.fpa == fpa
      if s.mem.lines.any (fun l => same l && l.count == cnt) then (false, s)
      else
        let r := prefetchMet (dropLines s same) a
        if !r.1 then r
        else match poolRoom r.2 sheaf (getCtx s ctx).slot cls with
        | none => (false, r.2)
        | some s =>
        let s := { s with mem := { s.mem with lines := s.mem.lines ++
          [{ sheaf := sheaf, ctx := ctx, cgen := (getCtx s ctx).gen, fpa := fpa, cls := cls, count := cnt, core := core,
             run := by'.1, guess := by'.2 }] } }
        match core with
        | none => (true, s)
        | some c => (true, { s with seq := { s.seq with pfIssued := tabSet (fun _ => 0) s.seq.pfIssued c (tabGet (fun _ => 0) s.seq.pfIssued c + 1) } })
  | (_, _, s) => (false, s)

/-- The lines of an extent, and how many were issued. -/
def prefetchCount (core : Option Nat) (by' : (Nat × Nat) × Nat) (ctx cls sheaf va len : Nat) (s : State) : Nat × State :=
  if len = 0 then (0, s)
  else (List.range ((va + len - 1) / 64 - va / 64 + 1)).foldl (fun r i =>
    let x := prefetchLine core by' ctx cls sheaf ((va / 64 + i) * 64) r.2
    (r.1 + b2n x.1, x.2)) (0, s)

/-- The sheaves on this module that host a member of a record, or every member. -/
def memberSheaves (s : State) (slot base : Nat) (rec' : List W32) (member : Nat) : List Nat :=
  let st := recStride rec'
  ((getSlot s slot).lmap.filter (fun m =>
    decide (base ≤ m.lcid) && decide ((m.lcid - base) % st = 0) && decide ((m.lcid - base) / st < recCount rec')
      && (member == 0xFFFFFFFF || (m.lcid - base) / st == member))).map (fun m => sheafOfCore m.core) |>.eraseDups

/-- The prefetches of a record for a run, behind `k` predicted branches. -/
def prefetchRec (s : State) (r k : Nat) (x : Run) (rec' : List W32) (off reg : W64) : State :=
  let base := (recFirst rec' + off.toNat) % 2 ^ 64
  (List.range (recPfN rec')).foldl (fun s j =>
    let (va, len, member) := recPf rec' j
    (memberSheaves s x.slot base rec' member).foldl (fun s m =>
      (prefetchCount (some x.core) ((r, incarnOf s r), k) x.ctx x.cls m ((va + reg.toNat) % 2 ^ 64) len s).2) s) s

/-- HINT (R200, R205, spec/12 R347). -/
def execHint (run : Nat) (s : State) : Host.Outcome State Fault Refusal :=
  .next (seqIssue 0x32 run (fun x w s =>
    if fld w.md 0 4 = 0 then
      match recOfRun s x w with
      | some rec' => putRun (prefetchRec s run 0 x rec' (sGet x w.d) (sGet x (recPfReg rec'))) run x.next
      | none => s
    else putRun (hintWord s (x.core / 8) (sGet x w.a).toNat) run x.next) s)

/-! ### Run-ahead (R205) -/

/-- The shadow registers: known values. -/
abbrev Shadow := Nat → Option W64

def shSet (g : Shadow) (i : Nat) (v : Option W64) : Shadow := fun j => if j = i then v else g j

/-- An operation on known values. -/
def known2 (f : W64 → W64 → W64) : Option W64 → Option W64 → Option W64
  | some a, some b => some (f a b)
  | _, _ => none

/-- The shadow's registers and the way a branch takes after one instruction. -/
def shadowStep (g : Shadow) (w : SeqW) : Shadow × Bool :=
  let hint := bitAt w.md 7
  match w.op with
  | 0x01 => (shSet g w.d (some (simm w)), false)
  | 0x02 => (shSet g w.d ((g w.a).map (fun a => (a &&& 0xFFFFFFFF) ||| (BitVec.ofNat 64 w.imm <<< 32))), false)
  | 0x03 => (shSet g w.d (known2 (aluOp (fld w.md 0 4)) (g w.a) (if hint then some (simm w) else g w.b)), false)
  | 0x04 => (shSet g w.d none, false)
  | 0x06 => (shSet g w.d none, false)
  | 0x10 => (g, match g w.a, g w.b with | some a, some b => seqCond (fld w.md 0 3) a b | _, _ => hint)
  | 0x11 => (g, hint)
  | 0x12 => (g, hint)
  | 0x13 => match g w.d with
    | some v => (shSet g w.d (some (v - 1)), v - 1 != 0)
    | none => (g, false)
  | 0x14 => (g, true)
  | 0x15 => (g, hint)
  | 0x40 => (shSet g w.d none, false)
  | 0x41 => (shSet g w.d none, false)
  | 0x42 => (shSet g w.d none, false)
  | _ => (g, false)

/-- Run-ahead from an index: `n` instructions are left, `ext` extents have been issued, `path` is the way that the branches took so
far, with what it leaves. -/
def aheadFrom (r : Nat) (x : Run) (v : Version) : Nat → Nat → Nat → List (Nat × Bool) → Shadow → State → List (Nat × Bool) × State
  | 0, _, _, path, _, s => (path, s)
  | n + 1, pc, ext, path, g, s =>
    match v.code[pc]? with
    | none => (path, s)
    | some word =>
      let w := seqW word
      if w.op = 0x51 ∨ 16 ≤ ext then (path, s)
      else
        let (ext, s) :=
          if w.op = 0x30 ∨ (w.op = 0x32 ∧ w.md = 0) then
            match v.recs[w.imm]? with
            | some rec' =>
              match g w.d, g (recPfReg rec') with
              | some off, some reg =>
                if ext + recPfN rec' ≤ 16 then (ext + recPfN rec', prefetchRec s r path.length x rec' off reg) else (16, s)
              | _, _ => (ext, s)
            | none => (ext, s)
          else (ext, s)
        let (g, taken) := shadowStep g w
        aheadFrom r x v n (if taken then (branchTo pc w).toNat else pc + 1) ext (if seqBranches w then path ++ [(pc, taken)] else path) g s

/-- How much two paths have in common. -/
def commonPath : List (Nat × Bool) → List (Nat × Bool) → Nat
  | a :: l, b :: m => if a = b then commonPath l m + 1 else 0
  | _, _ => 0

/-- Whether a run is blocked where its sequencer core may run ahead (R205): WAIT, JOIN, a delayed DISPATCH. -/
def runBlocked (x : Run) : Bool :=
  match x.wait with
  | .event _ _ _ => true
  | .join _ => true
  | .dispatch _ => true
  | _ => false

/-- RUN_AHEAD (R205): the code ahead of the block is followed in a shadow; only its prefetches stay, and the path that they follow. Lines
of a path that is no longer predicted are dropped (R206). -/
def execRunAhead (run : Nat) (s : State) : Host.Outcome State Fault Refusal :=
  match getRun s run with
  | none => .next s
  | some x =>
    if !runBlocked x ∨ (getCtx s x.ctx).st ≠ 1 ∨ unitSt s ⟨7, x.core⟩ ≠ .ready ∨ halfOff s (x.core / 8) then .next s
    else match versionOf s x.prog x.ver with
      | none => .next s
      | some v =>
        let follow := aheadFrom run x v 64 (x.pc + 1) 0 [] (fun i => some (sGet x i))
        let path := (follow s).1
        let k := commonPath x.guesses path
        let s := if k < x.guesses.length then dropLines s (guessedBehind s run k) else s
        .next (putRun (follow s).2 run { x with ahead := true, guesses := path })

/-! ### Failure of a sequencer core (R202) -/

/-- The runs of a sequencer core go to the other READY ones of its half, each to the one with the fewest (R202). -/
def moveRuns (s : State) (core : Nat) : State :=
  ((allRuns s).filter (fun e => e.2.core == core)).foldl (fun s e =>
    let cs := ((List.range 8).map (fun i => 8 * (core / 8) + i)).filter (fun n => n != core && unitSt s ⟨7, n⟩ == .ready)
    match getRun s e.1, fewestRuns s cs with
    | some x, some c => putRun s e.1 { x with core := c }
    | _, _ => s) s

/-- A sequencer core fails: QUARANTINE, a record of class SEQ_CORE; a run whose entry cannot be corrected ends UNCORRECTABLE and
loses its context (R202, R207). -/
def seqCoreFails (s : State) (core : Nat) (lost : List Nat) : State :=
  if unitSt s ⟨7, core⟩ ≠ .ready then s
  else
    let half := core / 8
    let s := logNote { cls := 0x0B, sev := 1, unitKind := 7, unit := core, action := 11, half := half } s
    let s := setUnit s ⟨7, core⟩ .quarantine
    let s := ((allRuns s).filter (fun e => e.2.core == core && lost.contains e.1)).foldl (fun s e =>
      loseStatus e.2.ctx stUnc half (endRun e.1 stUnc s)) s
    moveRuns s core

/-- SEQ_CORE_FAILOVER (R202). -/
def execSeqCoreFailover (core : Nat) (lost : List Nat) (s : State) : Host.Outcome State Fault Refusal :=
  if 16 ≤ core then .next s else .next (wakeAll (seqCoreFails s core lost))

end Sys2Proof.Machine
end

