-- ==== Sys2Proof/Machine/Kv.lean ====
section
/-! DEFINITION. KV epochs (spec/10 R289-R297): KVOPEN, KVCOMMIT, KVROLLBACK and the pending zero extents. -/
namespace Sys2Proof.Machine

/-! ### Descriptors and lists (R289, R290) -/

/-- A KV descriptor as read: its address, FPA and fields. -/
structure KvDesc where
  va : Nat
  fpa : Nat
  base : Nat
  slotBytes : Nat
  cap : Nat
  len : Nat
  epoch : W64
  tail : Nat
  accept : Nat
deriving DecidableEq, Repr

/-- An entry of a KV list. -/
structure KvEnt where
  desc : Nat
  tail : Nat
  accept : Nat
deriving DecidableEq, Repr

def kvEnt (l : List Byte) : KvEnt := { desc := numAt l 0 8, tail := numAt l 8 2, accept := numAt l 10 2 }

/-- Bytes read for a KV instruction, on this module; `n` bounds the pieces. Memory elsewhere is refused (R292 step 2). -/
def kvRead (r : Nat) (x : Run) (va len : Nat) : Nat → List Byte → State → RunRead
  | 0, acc, s => .ok acc s
  | n + 1, acc, s =>
    if len ≤ acc.length then .ok acc s
    else match runSeg s r x .read (va + acc.length) (len - acc.length) with
      | .stop s => .stop s
      | .seg e v m s =>
        if !entLocal s e v then .stop (endRun r stDenied s)
        else match runRes r x s (entRead s x.ctx e v m) with
          | .stop s => .stop s
          | .ok d s => kvRead r x va len n (acc ++ d) s

/-- Step 2's test of a span: HBM of this module, R and W permission, ownership. `n` bounds the pieces. -/
def kvSpan (r : Nat) (x : Run) (va len : Nat) : Nat → Nat → State → Option State × State
  | 0, _, s => (none, s)
  | n + 1, done, s =>
    if len ≤ done then (none, s)
    else match runSeg s r x .write (va + done) (len - done) with
      | .stop s => (some s, s)
      | .seg e v m s =>
        if !e.r || !entLocal s e v || !inHbm (rangeFpa e v % 2 ^ 42) then (some (endRun r stDenied s), s)
        else kvSpan r x va len n (done + m) s

/-- Several spans tested in turn: the run's end at the first that fails. -/
def kvSpans (r : Nat) (x : Run) : List (Nat × Nat) → State → Option State × State
  | [], s => (none, s)
  | (va, len) :: t, s =>
    match kvSpan r x va len (len / 4096 + 3) 0 s with
    | (some z, s) => (some z, s)
    | (none, s) => kvSpans r x t s

/-- A list read: its entries, or the run's end (steps 1). -/
inductive KvList where
  | ok (l : List KvEnt) (s : State)
  | stop (s : State)

def kvList (s : State) (r : Nat) (x : Run) (va : Nat) : KvList :=
  match kvRead r x va 16 4 [] s with
  | .stop s => .stop s
  | .ok h s =>
    let n := numAt h 0 4
    if n = 0 ∨ 1024 < n then .stop (endRun r stLen s)
    else match kvRead r x (va + 16) (16 * n) 8 [] s with
      | .stop s => .stop s
      | .ok d s => .ok ((cutEach 16 n d).map kvEnt) s

/-- The FPA of a descriptor, or the run's end. -/
inductive KvAt where
  | ok (fpa : Nat) (s : State)
  | stop (s : State)

def kvFpa (s : State) (r : Nat) (x : Run) (va : Nat) : KvAt :=
  match runSeg s r x .read va 64 with
  | .stop s => .stop s
  | .seg e v _ s => .ok (rangeFpa e v) s

/-- Descriptors read in the order of the list. -/
inductive KvDescs where
  | ok (l : List KvDesc) (s : State)
  | stop (s : State)

/-- A descriptor's fields in range for KVOPEN (R289, R290, R292 step 1). -/
def kvFieldsOk (d : KvDesc) : Bool :=
  decide (d.base % 64 = 0) && decide (d.base < 2 ^ 57) && decide (d.slotBytes % 64 = 0) && decide (64 ≤ d.slotBytes)
    && decide (d.slotBytes ≤ 65536) && decide (1 ≤ d.cap) && decide (d.cap ≤ 65536) && decide (1 ≤ d.tail) && decide (d.tail ≤ 256)
    && decide (d.len + d.tail ≤ d.cap)

def kvDescOf (e : KvEnt) (fpa : Nat) (l : List Byte) : KvDesc :=
  { va := e.desc, fpa := fpa, base := numAt l 0 8, slotBytes := numAt l 8 4, cap := numAt l 12 4, len := numAt l 16 4,
    epoch := BitVec.ofNat 64 (numAt l 24 8), tail := e.tail, accept := e.accept }

/-- Step 1 of KVOPEN, entry by entry. -/
def kvOpenDescs (r : Nat) (x : Run) : List KvEnt → List KvDesc → State → KvDescs
  | [], acc, s => .ok acc.reverse s
  | e :: t, acc, s =>
    if e.desc % 64 ≠ 0 then .stop (endRun r stLen s)
    else match kvFpa s r x e.desc with
      | .stop s => .stop s
      | .ok fpa s =>
        match kvRead r x e.desc 64 2 [] s with
        | .stop s => .stop s
        | .ok l s =>
          let d := kvDescOf e fpa l
          if !kvFieldsOk d || acc.any (fun c => c.fpa == fpa) then .stop (endRun r stLen s) else kvOpenDescs r x t (d :: acc) s

/-- Step 1 of a close: addresses and FPAs alone. -/
def kvCloseDescs (r : Nat) (x : Run) : List KvEnt → List KvDesc → State → KvDescs
  | [], acc, s => .ok acc.reverse s
  | e :: t, acc, s =>
    if e.desc % 64 ≠ 0 then .stop (endRun r stLen s)
    else match kvFpa s r x e.desc with
      | .stop s => .stop s
      | .ok fpa s =>
        if acc.any (fun c => c.fpa == fpa) then .stop (endRun r stLen s)
        else kvCloseDescs r x t ({ kvDescOf e fpa [] with va := e.desc } :: acc) s

/-! ### The tables and the descriptors (R291) -/

/-- The open record on a descriptor. -/
def kvRecOf (s : State) (fpa : Nat) : Option KvRec := s.seq.kv.find? (fun k => k.fpa == fpa)

/-- The half whose HBM holds an FPA of this module. -/
def halfOfFpa (s : State) (fpa : Nat) : Nat := granHalf s (granOf (fpa % 2 ^ 42))

def kvUsed (s : State) (half : Nat) : Nat := (s.seq.kv.filter (fun k => k.half == half)).length

/-- The words of the descriptors that a close reads before it writes them: one that cannot be corrected ends the run first (R297,
spec/08 R217). -/
def kvMeet (r : Nat) (x : Run) (ds : List KvDesc) (s : State) : RunRead :=
  ds.foldl (fun acc d => match acc with
    | .ok _ s => runRes r x s (memRead s .read x.ctx (pidOfCtx s x.ctx) (b2n (getTag s (granOf (d.fpa % 2 ^ 42))).conf) (d.fpa % 2 ^ 42 + 0x20) 4)
    | .stop s => .stop s) (.ok [] s)

/-- Bytes of a descriptor written by the module. -/
def kvWrite (s : State) (ctx fpa off : Nat) (l : List Byte) : State :=
  match memWrite s .internal ctx 0 0 (fpa % 2 ^ 42 + off) l with
  | .ok _ s => s
  | .unc s => s
  | _ => s

/-- The answer 0x12, counted (R297). -/
def kvConflict (s : State) (r : Nat) (x : Run) (w : SeqW) : State :=
  let s := { s with seq := { s.seq with kvConflict := sat32 s.seq.kvConflict } }
  putRun s r (sSet x.next w.d (BitVec.ofNat 64 stEpoch))

/-! ### KVOPEN (R292) -/

/-- Step 5. -/
def kvOpenAll (s : State) (x : Run) (epoch : W64) (l : List KvDesc) : State :=
  l.foldl (fun s d =>
    let k : KvRec := { half := halfOfFpa s d.fpa, fpa := d.fpa, ctx := x.ctx, cgen := x.cgen, epoch := epoch, base := d.base,
                       slotBytes := d.slotBytes, len := d.len, tail := d.tail, prior := d.epoch }
    let s := { s with seq := { s.seq with kv := s.seq.kv ++ [k] } }
    kvWrite s x.ctx d.fpa 0x14 (leBytes 4 (d.tail + 2 ^ 16) ++ leBytes 8 epoch.toNat)) s

/-- The spans of step 2: the list, every descriptor and every tail. -/
def kvOpenSpans (va n : Nat) (l : List KvDesc) : List (Nat × Nat) :=
  (va, 16 + 16 * n) :: l.map (fun d => (d.va, 64)) ++ l.map (fun d => (d.base + d.len * d.slotBytes, d.tail * d.slotBytes))

/-- KVOPEN. -/
def execKvopen (run : Nat) (s : State) : Host.Outcome State Fault Refusal :=
  .next (seqIssue 0x40 run (fun x w s =>
    let va := (sGet x w.a).toNat
    let epoch := sGet x w.b
    match kvList s run x va with
    | .stop s => s
    | .ok es s =>
      match kvOpenDescs run x es [] s with
      | .stop s => s
      | .ok ds s =>
        if epoch = 0 then endRun run stLen s
        else match kvSpans run x (kvOpenSpans va es.length ds) s with
          | (some s, _) => s
          | (none, s) =>
            if ds.any (fun d => (kvRecOf s d.fpa).isSome || decide (epoch.toNat ≤ d.epoch.toNat)) then kvConflict s run x w
            else if [0, 1].any (fun h => decide (8192 < kvUsed s h + (ds.filter (fun d => halfOfFpa s d.fpa == h)).length)) then
              let s := if x.kvWaited then s else { s with seq := { s.seq with kvWait := sat32 s.seq.kvWait } }
              putRun s run { x with wait := .kvRoom, kvWaited := true }
            else putRun (kvOpenAll s x epoch ds) run (sSet x.next w.d 0)) s)

/-! ### Discarded slots (R294) -/

/-- The extents to zero, or the address at which the context is lost: through a REVOKED range, or by its table. -/
inductive Zeros where
  | ok (l : List (Nat × Nat))
  | revoked (va : Nat)
  | table

/-- A local piece joins the extents: one extent is what of a granule is contiguous. -/
def addZero (l : List (Nat × Nat)) (a n : Nat) : List (Nat × Nat) :=
  match l.getLast? with
  | some e => if e.1 + e.2 = a ∧ granOf e.1 = granOf a then l.dropLast ++ [(e.1, e.2 + n)] else l ++ [(a, n)]
  | none => [(a, n)]

/-- A discarded span, translated piece by piece: the local extents to zero. Spans without a range are skipped. -/
def zeroPieces (ctx va len : Nat) : Nat → Nat → List (Nat × Nat) → State → Zeros × State
  | 0, _, acc, s => (.ok acc, s)
  | n + 1, done, acc, s =>
    if len ≤ done then (.ok acc, s)
    else
      let m := min (len - done) (4096 - (va + done) % 4096)
      match translate s none ctx (va + done) with
      | (.hit e, v, s) =>
        let fpa := rangeFpa e v
        let ok := fpa / 2 ^ 42 == ownModule s && inHbm (fpa % 2 ^ 42)
        zeroPieces ctx va len n (done + m) (if ok then addZero acc (fpa % 2 ^ 42) m else acc) s
      | (.revoked, _, s) => (.revoked (va + done), s)
      | (.table, _, s) => (.table, s)
      | (_, _, s) => zeroPieces ctx va len n (done + m) acc s

/-- The zero extents of a close, or none with the loss of the context through a REVOKED range (R294, R227). -/
def closeZeros (r : Nat) (x : Run) : List (KvDesc × KvRec × Nat) → List (Nat × Nat) → State → Option (List (Nat × Nat)) × State
  | [], acc, s => (some acc, s)
  | (_, k, a) :: t, acc, s =>
    let va := k.base + (k.len + a) * k.slotBytes
    let n := (k.tail - a) * k.slotBytes
    match zeroPieces x.ctx va n (n / 4096 + 2) 0 [] s with
    | (.ok l, s) => closeZeros r x t (acc ++ l) s
    | (.revoked a, s) => (none, loseCause { runFault r x true a s 0x05 with kind := 1 } s)
    | (.table, s) => (none, s)

/-- Pending zero extents of a channel. -/
def zpendOf (s : State) (n : Nat) : Nat := tabGet (fun _ => 0) s.mem.zpend n

/-- The channels that zero extents use, with how many each takes. -/
def zeroNeeds (s : State) (l : List (Nat × Nat)) : List (Nat × Nat) :=
  let cs := l.map (fun e => granChan s (granOf e.1))
  cs.eraseDups.map (fun c => (c, (cs.filter (fun d => d == c)).length))

/-- Whether every controller has room for the extents that it is to take. One that is to take more than the 4,096 that it holds has room
when it holds none (DESIGN CHOICE, notes/assumptions/49.md). -/
def zeroRoom (s : State) (zs : List (Nat × Nat)) : Bool := (zeroNeeds s zs).all (fun e => decide (zpendOf s e.1 + min e.2 4096 ≤ 4096))

/-- The zero extents taken by their controllers: every later access reads zeros, and the controllers keep them pending. -/
def zeroAll (s : State) (l : List (Nat × Nat)) : State :=
  let needs := zeroNeeds s l
  let s := l.foldl (fun s e => bumpWrites (zeroSpan s e.1 e.2) e.1 e.2) s
  needs.foldl (fun s e => { s with mem := { s.mem with zpend := tabSet (fun _ => 0) s.mem.zpend e.1 (zpendOf s e.1 + min e.2 4096) } }) s

/-- KV_ZERO_WRITE (R294): a controller performs its next pending zero extent. -/
def execKvZeroWrite (chan : Nat) (s : State) : Host.Outcome State Fault Refusal :=
  if zpendOf s chan = 0 then .next s
  else .next { s with mem := { s.mem with zpend := tabSet (fun _ => 0) s.mem.zpend chan (zpendOf s chan - 1) } }

/-! ### KVCOMMIT and KVROLLBACK (R293) -/

/-- Steps 5 and 6 for one entry: `a` slots of the tail are kept. -/
def kvCloseOne (commit : Bool) (s : State) (d : KvDesc) (k : KvRec) (a : Nat) : State :=
  let s := { s with seq := { s.seq with kv := s.seq.kv.erase k } }
  let commits := (numAt (rawRead s (d.fpa % 2 ^ 42 + 0x20) 4) 0 4 + b2n commit) % 2 ^ 32
  let epoch := if commit then k.epoch else k.prior
  kvWrite s k.ctx d.fpa 0x10 (leBytes 4 (k.len + a) ++ leBytes 4 0 ++ leBytes 8 epoch.toNat ++ leBytes 4 commits)

/-- A close, once the run's own work has ended. -/
def kvClose (commit : Bool) (s : State) (r : Nat) (x : Run) (w : SeqW) : State :=
  let va := (sGet x w.a).toNat
  let epoch := sGet x w.b
  match kvList s r x va with
  | .stop s => s
  | .ok es s =>
    match kvCloseDescs r x es [] s with
    | .stop s => s
    | .ok ds s =>
      match kvSpans r x ((va, 16 + 16 * es.length) :: ds.map (fun d => (d.va, 64))) s with
      | (some s, _) => s
      | (none, s) =>
        let recs := ds.filterMap (fun d => (kvRecOf s d.fpa).map (fun k => (d, k, if commit then d.accept else 0)))
        if recs.length ≠ ds.length ∨ recs.any (fun e => e.2.1.ctx != x.ctx || e.2.1.cgen != x.cgen || e.2.1.epoch != epoch) then
          kvConflict s r x w
        else if recs.any (fun e => decide (e.2.1.tail < e.2.2)) then endRun r stLen s
        else match closeZeros r x recs [] s with
          | (none, s) => s
          | (some zs, s) =>
            if !zeroRoom s zs then putRun s r { x with wait := .kvRoom }
            else match kvMeet r x ds s with
            | .stop s => s
            | .ok _ s =>
              let s := zeroAll s zs
              let s := recs.foldl (fun s e => kvCloseOne commit s e.1 e.2.1 e.2.2) s
              let s := { s with seq := { s.seq with
                kvCommits := if commit then s.seq.kvCommits + 1 else s.seq.kvCommits,
                kvRollbacks := if commit then s.seq.kvRollbacks else s.seq.kvRollbacks + 1 } }
              putRun s r (sSet x.next w.d 0)

/-- A close first waits for the run's kernels and COPYs; sent again once they have ended, it goes on. -/
def kvCloseStart (commit : Bool) (r : Nat) (x : Run) (w : SeqW) (s : State) : State :=
  if groupsIdle x 255 then kvClose commit s r x w else putRun s r { x with wait := .kvClose commit }

/-- KVCOMMIT. -/
def execKvcommit (run : Nat) (s : State) : Host.Outcome State Fault Refusal :=
  .next (seqIssue 0x41 run (kvCloseStart true run) s)

/-- KVROLLBACK. -/
def execKvrollback (run : Nat) (s : State) : Host.Outcome State Fault Refusal :=
  .next (seqIssue 0x42 run (kvCloseStart false run) s)

end Sys2Proof.Machine
end

