-- ==== Sys2Proof/Machine/MemCmds.lean ====
section
/-! DEFINITION. The memory and translation commands (spec/08): requests at memory and the patrol scrub, OWN_SET, edits of the
range tables, invalidation, PREFETCH and ADVISE, the fault queue's commands, and Eotha mode. -/
namespace Sys2Proof.Machine

/-! ### The controller's queue (R241, R242) -/

/-- Whether a request is the module's own: walks, saves and restores, scrub, copies and staging. -/
def innerReq (r : MemReq) : Bool := r.kind == .internal

/-- Requests of a class that hold slots. -/
def clsHeld (q : List MemReq) (c : Nat) : Nat := (q.filter (fun r => !innerReq r && r.cls == c)).length

/-- The weights of classes 0 to 6 of the slot that holds a channel. -/
def chanWeights (s : State) (chan : Nat) : List Nat :=
  match holderOfChan s chan with
  | some i => (getSlot s i).brec.clsShare.take 7
  | none => []

/-- The slots guaranteed to a class. -/
def clsSlots (w : List Nat) (c : Nat) : Nat := if w.sum = 0 ∨ 6 < c then 0 else 32 * w.getD c 0 / w.sum

/-- Slots of the 64 that are held beyond guarantees. -/
def looseHeld (w : List Nat) (q : List MemReq) : Nat := clsHeld q 7 + ((List.range 7).map (fun c => clsHeld q c - clsSlots w c)).sum

/-- Whether a request finds a slot: 8 are the module's, 64 the holder's, of which class 7 holds at most 32; a class without weight takes only
slots that are not guaranteed. -/
def slotFor (w : List Nat) (q : List MemReq) (r : MemReq) : Bool :=
  let held := (q.filter (fun x => !innerReq x)).length
  if innerReq r then decide (q.length - held < 8)
  else decide (held < 64) &&
    (if r.cls = 7 then decide (clsHeld q 7 < 32)
     else if w.getD r.cls 0 = 0 then decide (looseHeld w q < 64 - ((List.range 7).map (clsSlots w)).sum)
     else true)

/-- The waiting request that takes a slot next: one of a class below its guarantee, else the first that finds one. -/
def nextAdmitted (w : List Nat) (q l : List MemReq) : Option MemReq :=
  match l.find? (fun r => slotFor w q r && !innerReq r && decide (clsHeld q r.cls < clsSlots w r.cls)) with
  | some r => some r
  | none => l.find? (slotFor w q)

/-- Waiting requests take slots; `n` bounds them. -/
def admitReqs (w : List Nat) : Nat → Chan → Chan
  | 0, c => c
  | n + 1, c =>
    match nextAdmitted w c.queue c.waits with
    | some r => admitReqs w n { c with queue := c.queue ++ [r], waits := c.waits.erase r }
    | none => c

/-- The class that weighted round robin serves next of those with requests, and what is left of its turn. A class alone takes no turn; one
without weight is served when no other has requests (DESIGN CHOICE, notes/assumptions/47.md). -/
def nextTurn (w : List Nat) (q : List MemReq) (turn : Nat × Nat) : Option (Nat × (Nat × Nat)) :=
  let cs := (List.range 7).filter (fun c => clsHeld q c != 0)
  let ws := cs.filter (fun c => w.getD c 0 != 0)
  match cs with
  | [] => none
  | [c] => some (c, turn)
  | c :: _ =>
    if ws.contains turn.1 && turn.2 != 0 then some (turn.1, (turn.1, turn.2 - 1))
    else match (((List.range 7).map (fun i => (turn.1 + 1 + i) % 7)).find? (fun c => ws.contains c)) with
      | some c => some (c, (c, w.getD c 0 - 1))
      | none => some (c, turn)

/-- The request that the scheduler serves: class 7, then the module's, then classes 0 to 6 in turn. That the module's come second is a
DESIGN CHOICE (notes/assumptions/47.md). -/
def nextServed (w : List Nat) (c : Chan) : Option (MemReq × (Nat × Nat)) :=
  match c.queue.find? (fun r => !innerReq r && r.cls == 7), c.queue.find? innerReq, nextTurn w c.queue c.turn with
  | some r, _, _ => some (r, c.turn)
  | none, some r, _ => some (r, c.turn)
  | none, none, some (k, t) => (c.queue.find? (fun r => r.cls == k)).map (fun r => (r, t))
  | none, none, none => none

/-! ### Requests at memory (R214-R219) -/

/-- An upset added to what a codeword already holds of upsets. -/
def addUpset (s : State) (cw : Nat) (u : Upset) : State :=
  let o := tabGet (fun _ => ({} : Upset)) s.mem.upsets cw
  let n : Upset := ⟨o.data ^^^ u.data, o.check ^^^ u.check⟩
  { s with mem := { s.mem with upsets := tabSet (fun _ => {}) s.mem.upsets cw n } }

/-- What memory answered, kept in `mem.reply`. -/
def putReply (s : State) (st : Nat) (data : List Byte) : State :=
  { s with mem := { s.mem with reply := some { status := st, data := data } } }

/-- The answer of memory to a request (R219, R217). -/
def memAnswer (s : State) (r : MemRes) (f : List Byte → State → State) : State :=
  match r with
  | .ok d s => f d s
  | .unc s => putReply s 2 []
  | _ => putReply s 1 []

/-- A request performed, by what reads and what writes. An atomic or reduce-on-write brings the bytes it leaves, and an atomic answers those
it found. -/
def reqDo (r : MemReq) (rd : State → MemRes) (wr : State → MemRes) (s : State) : State :=
  match r.kind with
  | .read => memAnswer s (rd s) (fun d s => putReply s 0 d)
  | .write => memAnswer s (wr s) (fun _ s => putReply s 0 [])
  | .internal => if r.data.isEmpty then memAnswer s (rd s) (fun d s => putReply s 0 d) else memAnswer s (wr s) (fun _ s => putReply s 0 [])
  | .atomic => memAnswer s (rd s) (fun d s => memAnswer s (wr s) (fun _ s => putReply s 0 d))
  | .reduce => memAnswer s (rd s) (fun _ s => memAnswer s (wr s) (fun _ s => putReply s 0 []))

/-- A request that comes to memory: tested, then performed. -/
def reqTested (r : MemReq) (s : State) : State :=
  reqDo r (fun s => memRead s r.kind r.ctx r.pid r.edom r.addr r.len) (fun s => memWrite s r.kind r.ctx r.pid r.edom r.addr r.data) s

/-- A channel's scheduler serves a request that holds a slot and has been tested; a waiting one takes the slot. -/
def hbmServe (s : State) (chan : Nat) : State :=
  let c := getChan s chan
  let w := chanWeights s chan
  match nextServed w c with
  | none => s
  | some (r, t) =>
    reqDo r (fun s => readServe s r.kind r.ctx r.addr r.len) (fun s => writeServe s r.kind r.ctx r.addr r.data)
      (setChan s chan (admitReqs w c.waits.length { c with queue := c.queue.erase r, turn := t }))

/-- What a channel's queue does in an idle cycle: every controller with requests serves one, in channel order (DESIGN CHOICE,
notes/assumptions/47.md). -/
def hbmTick (s : State) : State :=
  ((s.mem.chans.filter (fun e => !e.2.queue.isEmpty)).map (·.1)).foldl hbmServe s

/-- The request of a span that waits at a controller. -/
def reqWaits (s : State) (p : MemReq → Bool) : Bool := s.mem.chans.any (fun e => e.2.queue.any p || e.2.waits.any p)

/-- MEMORY_REQUEST (R219, R242): the ownership test comes first, and a refused request takes no slot. One that finds its channel's queue
empty and HBM timing ready (`now`), or goes to a sheaf store, is served at once; any other takes a slot or waits for one, and the scheduler
serves a request if HBM timing allows it. -/
def execMemoryRequest (r : MemReq) (s : State) : Host.Outcome State Fault Refusal :=
  let s := if inHbm r.addr || inStore r.addr then addUpset s (r.addr / 16) r.upset else s
  let chan := granChan s (granOf r.addr)
  let c := getChan s chan
  let n := if r.kind = .write ∨ (r.kind = .internal ∧ !r.data.isEmpty) then r.data.length else r.len
  if !inHbm r.addr ∨ spanGate s r.kind r.ctx r.pid r.edom r.addr n ≠ .allow ∨ (r.now ∧ c.queue.isEmpty ∧ c.waits.isEmpty) then
    .next (reqTested r s)
  else
    let w := chanWeights s chan
    let s := setChan s chan (admitReqs w (c.waits.length + 1) { c with waits := c.waits ++ [r] })
    .next (if r.now then hbmServe s chan else s)

/-- Codewords of a channel. -/
def chanWords : Nat := chanSpan / 16

/-- PATROL_SCRUB (R216): the channel's next codeword is read, corrected and written back, or found uncorrectable. The patrol
pauses while the channel's half is in LULL or FROST, and waits for one of the module's slots (R242). -/
def execPatrolScrub (chan : Nat) (u : Upset) (s : State) : Host.Outcome State Fault Refusal :=
  if chan ≥ 192 ∨ halfPwr s (halfOfChan chan) ≠ 0 ∨ halfOff s (halfOfChan chan) ∨ !chanReady s chan
      ∨ 8 ≤ ((getChan s chan).queue.filter innerReq).length then .next s
  else
    let c := getChan s chan
    let cw := achanFor s chan * chanWords + c.patrol
    let wrap := c.patrol + 1 = chanWords
    let s := setChan s chan { c with patrol := if wrap then 0 else c.patrol + 1, scrub := if wrap then c.scrub + 1 else c.scrub }
    let s := addUpset s cw u
    let o := tabGet (fun _ => ({} : Upset)) s.mem.upsets cw
    .next (if o = {} then s else wakeAll (meetWord s cw o none).2)

/-! ### OWN_SET (R220) -/

/-- The granules an OWN_SET names. -/
def ownNamed (p : Pkt) : List Gran :=
  let w := p.w4.toNat
  let store := bitAt w 16
  let per := if store then 16 else 1152
  (List.range (fld w 8 8)).flatMap (fun i => (List.range (fld p.w6.toNat 0 11)).map (fun j =>
    (store, (fld w 0 8 + i) * per + fld p.w5.toNat 0 11 + j)))

/-- OWN_SET's start: geometry, power, then checks 2 and 3, then all granules or none. -/
def startOwnSet : Handler := fun q p s =>
  let w := p.w4.toNat
  let a0 := fld w 0 8
  let nch := fld w 8 8
  let store := bitAt w 16
  let action := fld w 17 2
  let j0 := fld p.w5.toNat 0 11
  let cnt := fld p.w6.toNat 0 11
  let slot := (getCtx s p.ctx).slot
  let b := (getSlot s slot).brec
  if nch = 0 ∨ cnt = 0 ∨ action = 3 ∨ (if store then 36 else 192) < a0 + nch ∨ (if store then 16 else 1152) < j0 + cnt then
    answer q p stLen s
  else
    let gs := ownNamed p
    if gs.any (fun g => halfOff s (granHalf s g)) then answer q p stPart s
    else if gs.any (fun g =>
        (if g.1 then !b.cores.any (fun c => sheafOfCore c == g.2 / 16) else !b.chans.contains (granChan s g))
        || decide (2 ≤ (getTag s g).st)) then answer q p stDenied s
    else
      let ok (g : Gran) : Bool :=
        let t := getTag s g
        if action = 2 then t.st == 1 && t.slot == slot && (t.shared || t.ctx == p.ctx) && !t.ro && !t.table
        else t.st == 0
      if !gs.all ok then answer q p stBusy s
      else if action = 2 then begin q p (.own gs) 0 s
      else
        let t : Tag := { slot := slot, ctx := if action = 1 then 0 else p.ctx, shared := action == 1, conf := b.conf, st := 1 }
        let s := gs.foldl (fun s g => setTag s g t) s
        let ms := (gs.filter (fun g => g.1)).map (fun g => g.2 / 16) |>.eraseDups
        answer q p stOk (ms.foldl (fun s m => poolTrim m s.mem.lines.length s) s)

/-- OWN_SET (R220). -/
def execOwnSet (p : Pkt) (s : State) : Host.Outcome State Fault Refusal :=
  .next (arrive startOwnSet wrongOnFabric { p with opcode := 0xA6 } s)

/-- A release that names granules no longer holds them. -/
def dropGrans (gs : List Gran) (x : Begun) : Begun :=
  match x.job with
  | .own l => { x with job := .own (l.filter (fun g => !gs.contains g)) }
  | _ => x

/-- OWN_SET_RELEASE_DONE (R220): the admitted requests have been performed; the granules are zeroed and FREE. A granule that two
releases name is freed once. -/
def execOwnSetReleaseDone (id : Nat) (s : State) : Host.Outcome State Fault Refusal :=
  match findBegun s id with
  | none => .next s
  | some b => match b.job with
    | .own gs =>
      if reqWaits s (fun r => gs.contains (granOf r.addr)) then .next s else
      let s := gs.foldl freeGran s
      let s := { s with fe := { s.fe with begun := s.fe.begun.map (fun x => if x.id = id then x else dropGrans gs x) } }
      .next (wakeAll (finishStatus id stOk s))
    | _ => .next s

/-! ### Range entries as pieces -/

/-- The part of an entry between two of its addresses. -/
def piece (e : Range) (lo hi : Nat) : List Range :=
  if hi ≤ lo then []
  else [{ e with va := lo, pages := (hi - lo) / 4096, fpa := if e.ilv = 0 then e.fpa + (lo - e.va) else e.fpa,
                 skip := if e.ilv = 0 then 0 else e.skip + (lo - e.va) / 4096 }]

/-- An entry's pieces before, within and after a span. -/
def before (e : Range) (lo : Nat) : List Range := piece e e.va (min lo (rangeEnd e))
def within (e : Range) (lo hi : Nat) : List Range := piece e (max lo e.va) (min hi (rangeEnd e))
def after (e : Range) (hi : Nat) : List Range := piece e (max hi e.va) (rangeEnd e)

/-- Whether an entry meets a span. -/
def meets (e : Range) (lo hi : Nat) : Bool := decide (e.va < hi) && decide (lo < rangeEnd e)

/-- Entries that meet a span, where `p` chooses them, are cut at its ends, and `f` gives what becomes of the part within. -/
def cutAt (p : Range → Bool) (f : Range → List Range) (lo hi : Nat) (l : List Range) : List Range :=
  l.flatMap (fun e => if p e && meets e lo hi then before e lo ++ (within e lo hi).flatMap f ++ after e hi else [e])

/-- Map counts of granary images that live range entries add (R226, spec/02 R65). -/
def mapImages (s : State) (slot : Nat) (l : List Range) : State :=
  (l.filter (fun e => e.granary && !e.revoked)).foldl (fun s e =>
    match imageAt s slot (granOf (e.fpa % 2 ^ 42)).2 with
    | none => s
    | some i => setImage s slot { i with maps := i.maps + 1 }) s

/-- A context's table becomes `l`; map counts follow the entries (R226), and the granule holds what the table says (R224). -/
def putTable (s : State) (ctx : Nat) (l : List Range) : State :=
  let c := getCtx s ctx
  let s := mapImages s c.slot (l.filter (fun e => !c.ranges.contains e))
  let s := unmapImages s c.slot (c.ranges.filter (fun e => !l.contains e))
  syncTable (setCtx s ctx { getCtx s ctx with ranges := l }) ctx

/-- The requests under way to memory of other modules that were translated through an entry of contexts over a span of virtual addresses
(R229): those that an entry puts in the span, and those of an entry that is gone. -/
def underCtxs (s : State) (l : List Nat) (va n : Nat) : List Nat :=
  s.fab.outst.filterMap (fun o => match o.fpa with
    | none => none
    | some f =>
      let vs := (getCtx s o.ctx).ranges.filterMap (fun e => rangeVa e f)
      if l.contains o.ctx && (vs.isEmpty || vs.any (fun v => spanMeets va n v 1)) then some o.tag else none)

/-- The requests under way to a span of FPAs. -/
def underFpa (s : State) (f n : Nat) : List Nat :=
  s.fab.outst.filterMap (fun o => match o.fpa with
    | none => none
    | some x => if spanMeets f n x 1 then some o.tag else none)

/-- The answer after an invalidation: once every request translated through what it removed has been performed (R229). -/
def invalAnswer (tags : List Nat) : Handler := fun q p s =>
  if tags.isEmpty then answer q p stOk s else begin q p (.inval [] tags) 0 s

/-- A command whose invalidation is done, or waits. -/
def invalEnd (id : Nat) (tags : List Nat) (s : State) : State :=
  if tags.isEmpty then finishStatus id stOk s
  else match findBegun s id with
    | some b => setBegun s { b with job := .inval [] tags }
    | none => s

/-- Invalidations that wait for requests which have been performed since end. -/
def invalSettle (s : State) : State :=
  s.fe.begun.foldl (fun s b => match b.job with
    | .inval [] tags => if s.fab.outst.any (fun o => tags.contains o.tag) then s else finishStatus b.id stOk s
    | _ => s) s

/-- Entries a table holds (R224). -/
def tableMax : Nat := 65536

/-! ### RANGE_MAP (R226) -/

/-- The entry records of a payload. -/
def entryRecs (payload : List Byte) : List (List Byte) :=
  (List.range (payload.length / 32)).map (fun i => sliceZ payload (32 * i) 32)

/-- Check 1 over an entry's bytes. -/
def mapForm (eotha : Bool) (l : List Byte) : Bool :=
  let va := numAt l 0 8
  let fpa := numAt l 8 8
  let pg := numAt l 16 8
  let f := numAt l 24 4
  let pages := pg % 2 ^ 37
  decide (va % 4096 = 0) && decide (va < 2 ^ 57) && decide (fpa % 4096 = 0) && decide (fpa < 2 ^ 56) && decide (pg < 2 ^ 37)
    && decide (f < 2 ^ 17) && decide (numAt l 28 4 = 0) && decide (1 ≤ pages) && decide (pages ≤ 2 ^ 36)
    && decide (fld f 13 3 ≤ 6) && decide (pages % 2 ^ fld f 13 3 = 0)
    && decide (va + pages * 4096 ≤ (if eotha then 2 ^ 56 else 2 ^ 57)) && decide (fld f 7 2 ≤ 1) && decide (fld f 9 4 ≤ 1)

/-- The spans of local addresses that an entry's target takes. -/
def targetSpans (e : Range) : List (Nat × Nat) :=
  let loc := e.fpa % 2 ^ 42
  if e.ilv = 0 then [(loc, e.pages * 4096)]
  else (List.range (2 ^ e.ilv)).map (fun i => (loc + i * chanSpan, e.pages / 2 ^ e.ilv * 4096))

/-- Check 2: the target's place, and EDOM. -/
def mapTarget (conf : Bool) (e : Range) : Bool :=
  let loc := e.fpa % 2 ^ 42
  let w := 2 ^ e.ilv
  (if e.ilv = 0 then
     (decide (loc + e.pages * 4096 ≤ hbmEnd)) || (inStore loc && decide (loc + e.pages * 4096 ≤ storeEnd))
   else inHbm loc && decide (loc / chanSpan + w ≤ 192) && decide (loc % chanSpan + e.pages / w * 4096 ≤ chanSpan))
  && e.edom == b2n conf

/-- Check 3: granary entries lie in one READY image and only read; others touch no read-only granule. -/
def mapGranary (s : State) (slot : Nat) (e : Range) : Bool :=
  let own := e.fpa / 2 ^ 42 == ownModule s
  let gs := (targetSpans e).flatMap (fun x => gransOf x.1 x.2)
  if e.granary then
    own && e.r && !e.w && !e.a && !e.d
      && (getSlot s slot).images.any (fun i => i.st == 1 && gs.all (fun g => !g.1 && i.granules.contains g.2))
  else !own || !gs.any (fun g => (getTag s g).ro)

/-- Whether some two of a list of entries overlap. -/
def overlapping : List Range → Bool
  | [] => false
  | e :: t => t.any (fun f => meets f e.va (rangeEnd e)) || overlapping t

/-- An entry put where its VA places it. -/
def insertRange (e : Range) : List Range → List Range
  | [] => [e]
  | f :: t => if e.va < f.va then e :: f :: t else f :: insertRange e t

/-- A table with new entries, what was REVOKED under them trimmed. -/
def tableWith (old new : List Range) : List Range :=
  new.foldl (fun l e => insertRange e (cutAt (fun r => r.revoked) (fun _ => []) e.va (rangeEnd e) l)) old

/-- The granule a context's first RANGE_MAP takes (R224). -/
def tableGran (s : State) (slot : Nat) : Option Nat :=
  let b := (getSlot s slot).brec
  ((List.range 192).filter (fun p => b.chans.contains p)).findSome? (fun p =>
    ((List.range 1152).map (fun j => achanFor s p * 1152 + j)).find? (fun k => (getTag s (false, k)).st == 0))

/-- RANGE_MAP's start: the checks of R226, each over every entry before the next. -/
def startRangeMap : Handler := fun q p s =>
  let n := p.payload.length
  let c := getCtx s p.ctx
  let conf := (getSlot s c.slot).brec.conf
  if n = 0 ∨ n % 32 ≠ 0 then answer q p stLen s
  else
    let recs := entryRecs p.payload
    let es := recs.map rangeOf
    if !recs.all (mapForm c.eotha) then answer q p stLen s
    else if !es.all (mapTarget conf) then answer q p stDenied s
    else if !es.all (mapGranary s c.slot) then answer q p stDenied s
    else if overlapping es || es.any (fun e => c.ranges.any (fun f => !f.revoked && meets f e.va (rangeEnd e))) then answer q p stBusy s
    else
      let l := tableWith c.ranges es
      if tableMax < l.length then answer q p stBusy s
      else match c.table with
        | some _ => withTable p.ctx (answer q p stLost) (fun s => answerW4 q p stOk l.length (putTable s p.ctx l)) s
        | none => match tableGran s c.slot with
          | none => answer q p stBusy s
          | some k =>
            let s := setTag s (false, k) { slot := c.slot, ctx := p.ctx, conf := conf, table := true, st := 1 }
            answerW4 q p stOk l.length (putTable (setCtx s p.ctx { c with table := some k }) p.ctx l)

/-- RANGE_MAP (R226). -/
def execRangeMap (p : Pkt) (s : State) : Host.Outcome State Fault Refusal :=
  .next (arrive startRangeMap wrongOnFabric { p with opcode := 0xA0 } s)

/-! ### RANGE_UNMAP and UNMAP_WHEN_IDLE (R227, R228) -/

/-- The limits of a span to unmap or advise on. -/
def spanOk (p : Pkt) : Bool :=
  decide (opA p % 4096 = 0) && decide (opA p < 2 ^ 57) && decide (opB p ≠ 0) && decide (opB p % 4096 = 0)
    && decide (opA p + opB p ≤ 2 ^ 57)

/-- RANGE_UNMAP's start. -/
def startRangeUnmap : Handler := fun q p s =>
  let lo := opA p
  let hi := lo + opB p
  if !spanOk p then answer q p stLen s
  else
    let l := cutAt (fun e => !e.revoked) (fun e => [{ e with revoked := true }]) lo hi (getCtx s p.ctx).ranges
    if tableMax < l.length then answer q p stBusy s
    else withTable p.ctx (answer q p stLost)
      (fun s => invalAnswer (underCtxs s [p.ctx] lo (hi - lo)) q p (invalCtx (putTable s p.ctx l) p.ctx lo (hi - lo))) s

/-- RANGE_UNMAP (R227). -/
def execRangeUnmap (p : Pkt) (s : State) : Host.Outcome State Fault Refusal :=
  .next (arrive startRangeUnmap wrongOnFabric { p with opcode := 0xA1 } s)

/-- The packets of a context accepted and not complete: those that have begun, and those that wait in a ring or on QP 0. -/
def packetsOf (s : State) (ctx : Nat) : List (QRef × W32) :=
  (s.fe.begun.filter (fun b => b.pkt.ctx == ctx)).map (fun b => (b.q, b.pkt.seq))
  ++ (s.fe.qps.filter (fun e => e.2.ctx == ctx)).flatMap (fun e => e.2.sq.map (fun p => (QRef.qp e.1, p.seq)))
  ++ s.fe.ports.flatMap (fun e => (e.2.held.filter (fun p => actsForCtx p.opcode && p.ctx == ctx)).map (fun p => (QRef.mgmt e.1, p.seq)))

/-- Whether a kernel that a run's ended incarnation dispatched has not ended, on this module or another. -/
def kernelLeft (s : State) (r : Nat × Nat) : Bool := s.seq.left.any (fun l => l.run == r.1 && l.incarn == r.2)

/-- UNMAP_WHEN_IDLE's start: the context's earlier work is remembered. -/
def startUnmapIdle : Handler := fun q p s =>
  if !spanOk p then answer q p stLen s
  else
    let deps := packetsOf s p.ctx
    let runs := (allRuns s).filterMap (fun e => if e.2.ctx == p.ctx && deps.contains (e.2.q, e.2.pkt.seq) then some (e.1, incarnOf s e.1) else none)
    begin q p (.unmapIdle (opA p) (opB p) deps runs) 0 s

/-- UNMAP_WHEN_IDLE (R228). -/
def execUnmapWhenIdle (p : Pkt) (s : State) : Host.Outcome State Fault Refusal :=
  .next (arrive startUnmapIdle wrongOnFabric { p with opcode := 0xA5 } s)

/-- UNMAP_WHEN_IDLE_EFFECT (R228): once the earlier work is complete, the span's entries are removed, those across its ends
trimmed or split, and the context's translations invalidated. -/
def execUnmapWhenIdleEffect (id : Nat) (s : State) : Host.Outcome State Fault Refusal :=
  match findBegun s id with
  | none => .next s
  | some b => match b.job with
    | .unmapIdle va len deps runs =>
      let ctx := b.pkt.ctx
      if (packetsOf s ctx).any (fun x => x != (b.q, b.pkt.seq) && deps.contains x)
          || runs.any (fun r => kernelLeft s r || ((getRun s r.1).isSome && incarnOf s r.1 == r.2)) then .next s
      else
        let l := cutAt (fun _ => true) (fun _ => []) va (va + len) (getCtx s ctx).ranges
        if tableMax < l.length then .next (wakeAll (finishStatus id stBusy s))
        else .next (wakeAll (withTable ctx (finishStatus id stLost)
          (fun s => invalEnd id (underCtxs s [ctx] va len) (putTable (invalCtx s ctx va len) ctx l)) s))
    | _ => .next s

/-! ### RANGE_INVAL (R229) -/

/-- The module-local part for a scope. -/
def invalHere (s : State) (scope ctx slot start len : Nat) : State :=
  if scope = 0 then invalCtx s ctx start len
  else if scope = 1 then
    invalCtxs s ((s.part.ctxs.filter (fun e => decide (e.2.st ≠ 0) && e.2.slot == slot)).map (·.1)) start len
  else invalFpa s start len

/-- The requests under way through what a scope's invalidation removes here. -/
def underScope (s : State) (scope ctx slot start len : Nat) : List Nat :=
  if scope = 0 then underCtxs s [ctx] start len
  else if scope = 1 then
    underCtxs s ((s.part.ctxs.filter (fun e => decide (e.2.st ≠ 0) && e.2.slot == slot)).map (·.1)) start len
  else underFpa s start len

/-- The modules that a scope 2 packet lists. -/
def invalList (p : Pkt) : List Nat :=
  (List.range ((p.payload.length - 16) / 2)).map (fun i => numAt p.payload (16 + 2 * i) 2 % 16384)

/-- The checks of a RANGE_INVAL's payload. -/
def invalLen (scope n : Nat) : Bool := if scope = 2 then decide (16 ≤ n) && n % 2 == 0 else n == 16

/-- RANGE_INVAL's start. -/
def startInval : Handler := fun q p s =>
  let scope := fld p.w4.toNat 0 2
  let start := numAt p.payload 0 8
  let len := numAt p.payload 8 8
  if scope = 3 then answer q p stOpcode s
  else if !invalLen scope p.payload.length then answer q p stLen s
  else match (if scope = 1 then slotOfPid s p.w5.toNat else some (getCtx s p.ctx).slot) with
    | none => answer q p stUnbound s
    | some i =>
      let mods := (if scope = 0 then [] else if scope = 1 then otherMembers s i
        else (invalList p).eraseDups.filter (fun m => decide (m ≠ ownModule s)))
      let tags := underScope s scope p.ctx i start len
      let s := invalHere s scope p.ctx i start len
      if mods.isEmpty then invalAnswer tags q p s
      else
        let id := s.fe.nextId
        let s := begin q p (.inval mods tags) 0 s
        let sl := getSlot s i
        let fwd : Pkt := { p with seq := BitVec.ofNat 32 id, payload := p.payload.take 16, plen := 16 }
        mods.foldl (fun s m =>
          if scope = 1 then sendForSlot s m i id fwd
          else sendPlain s (some i) (commandPkt s m 0 0 (600 + halfOfQ s q) id { fwd with w5 := BitVec.ofNat 32 sl.brec.pid })) s

/-- RANGE_INVAL from another module: its scope on this module, acknowledged. -/
def fabInval : Handler := fun q p s =>
  let scope := fld p.w4.toNat 0 2
  if scope ≠ 1 ∧ scope ≠ 2 then answer q p stOpcode s
  else if p.payload.length ≠ 16 then answer q p stLen s
  else match (if scope = 1 then slotOfPid s p.w5.toNat else some 0) with
    | none => answer q p stUnbound s
    | some i =>
      let start := numAt p.payload 0 8
      let len := numAt p.payload 8 8
      invalAnswer (underScope s scope 0 i start len) q p (invalHere s scope 0 i start len)

/-- RANGE_INVAL (R229). -/
def execRangeInval (p : Pkt) (s : State) : Host.Outcome State Fault Refusal :=
  .next (arrive startInval fabInval { p with opcode := 0xA2 } s)

/-- A module in scope has acknowledged. -/
def invalAck (s : State) (id mid : Nat) : State :=
  match findBegun s id with
  | none => s
  | some b => match b.job with
    | .inval mods tags => invalSettle (setBegun s { b with job := .inval (mods.filter (fun m => !(m == mid))) tags })
    | _ => s

/-- RANGE_INVAL_TIMEOUT (R229): TIMEOUT with the number of silent modules. -/
def execRangeInvalTimeout (id : Nat) (s : State) : Host.Outcome State Fault Refusal :=
  match findBegun s id with
  | none => .next s
  | some b => match b.job with
    | .inval mods _ => if mods.isEmpty then .next s else .next (wakeAll (finish id (fun q p s => answerW4 q p stTimeout mods.length s) s))
    | _ => .next s

/-! ### Walks, PREFETCH, ADVISE (R224, R225, R231, R232) -/

/-- RANGE_WALK (R224, R225): a translation made in a sheaf; a miss there walks the table and fills the sheaf's TLB. Its record of a REVOKED
entry is a transfer's, whose translations a sheaf makes (DEDUCED, notes/assumptions/8.md). -/
def execRangeWalk (sheaf ctx va : Nat) (s : State) : Host.Outcome State Fault Refusal :=
  if (getCtx s ctx).st ≠ 1 ∨ 36 ≤ sheaf then .next s
  else match translate s (some (sheaf, none)) ctx va with
    | (.revoked, _, s) => .next (wakeAll (loseCause (fatalFault s 0x05 0 ctx false (BitVec.ofNat 64 va) 0 0xFFFFFF (halfOfSheaf sheaf) 0) s))
    | (_, _, s) => .next (wakeAll s)

/-- PREFETCH's start (R231). -/
def startPrefetch : Handler := fun q p s =>
  let len := p.w6.toNat
  if len = 0 ∨ 4194304 < len ∨ 2 ^ 57 < opA p + len then answer q p stLen s
  else match lmapOf (getSlot s (getCtx s p.ctx).slot) (fld p.w7.toNat 0 24) with
    | none => answerW4 q p stOk 0 s
    | some e =>
      let (n, s) := prefetchCount none ((0, 0), 0) p.ctx p.cls (sheafOfCore e.core) (opA p) len s
      answerW4 q p stOk n s

/-- PREFETCH (R231). -/
def execPrefetch (p : Pkt) (s : State) : Host.Outcome State Fault Refusal :=
  .next (arrive startPrefetch wrongOnFabric { p with opcode := 0xA3 } s)

/-- ADVISE's start (R232). -/
def startAdvise : Handler := fun q p s =>
  let lo := opA p
  let hi := lo + opB p
  let a := numAt p.payload 0 8
  let adv := fld a 0 4
  if !spanOk p ∨ p.payload.length ≠ 8 then answer q p stLen s
  else if 3 < adv then answer q p stOpcode s
  else
    let c := getCtx s p.ctx
    let edit (e : Range) : Range :=
      if adv = 1 then { e with cache := 1 } else if adv = 2 then { e with cache := 0 } else { e with cls := fld a 4 3 }
    let l := c.ranges.map (fun e => if decide (lo ≤ e.va) && decide (rangeEnd e ≤ hi) then edit e else e)
    let done (s : State) : State := invalAnswer (underCtxs s [p.ctx] lo (hi - lo)) q p (invalCtx s p.ctx lo (hi - lo))
    if adv = 0 then done s else withTable p.ctx (answer q p stLost) (fun s => done (putTable s p.ctx l)) s

/-- ADVISE (R232). -/
def execAdvise (p : Pkt) (s : State) : Host.Outcome State Fault Refusal :=
  .next (arrive startAdvise wrongOnFabric { p with opcode := 0xA4 } s)

/-! ### The fault queue's commands (R235, R236) -/

/-- A transfer checks again from its cursor, and moves as far as its tenancy waits for (R236, R119). -/
def retryXfer (s : State) (t : TenRef) (off : Nat) : State :=
  let ran := match findTen s t with | some x => isRunnable x | none => false
  let s := updXfer s t off (fun f => { f with faulted := false, inSrc := none, inDst := none, gat := none })
  match findTen s t with
  | none => s
  | some x =>
    let s := if isRunnable x && !ran then setTen s { x with since := s.dev.now } else s
    match xferOf x off, x.loc with
    | some f, .resident _ =>
      match sideOf s x f true f.doneEl with
      | (.fault c va d, s) => sideStop s x f true (.fault c va d)
      | (.lose c va, s) => sideStop s x f true (.lose c va)
      | (_, s) => match sideOf s x f false f.doneEl with
        | (.fault c va d, s) => sideStop s x f false (.fault c va d)
        | (.lose c va, s) => sideStop s x f false (.lose c va)
        | (_, s) => engineTo s t off (match x.wait with
          | .prog o g => if o = off then g.toNat else f.doneEl
          | _ => f.doneEl)
    | _, _ => s

/-- What FAULT_RESOLVE does to a faulter; a COPY's engine then goes on by COPY_DONE. -/
def resolve (fail : Bool) (r : FaultRec) (s : State) (f : Faulter) : State :=
  match f with
  | .xfer t off => if fail then loseCause { r with kind := 1, entry := 0xFFFF, time := cntOf s r.half } s else retryXfer s t off
  | .cmd id =>
    match findBegun s id with
    | none => s
    | some b =>
      if fail then bulkStop b stRange s
      else
        let s := setBegun s { b with stalled := false }
        match b.job with
        | .copy _ _ _ _ => s
        | _ => cmdGo id s
  | .run n =>
    match getRun s n with
    | none => s
    | some x => if fail then endRun n stRange s else putRun s n { x with wait := .none }

/-- FAULT_RESOLVE's start (R236): the entry frees, faulters that stalled take what is free (R235), and the entry's act. -/
def startResolve : Handler := fun q p s =>
  let i := fld p.w4.toNat 0 8
  match fqGet s i with
  | none => sendReply q p { replyTo p stOk with dup := true } s
  | some x =>
    if x.seq ≠ p.w5 then sendReply q p { replyTo p stOk with dup := true } s
    else
      let s := fqDrain (answer q p stOk (fqTrim (fqSet s i none)))
      fqDrain (x.faulters.foldl (resolve (bitAt p.w6.toNat 0) x.record) s)

/-- FAULT_RESOLVE (R236). -/
def execFaultResolve (p : Pkt) (s : State) : Host.Outcome State Fault Refusal :=
  .next (arrive startResolve wrongOnFabric { p with opcode := 0xA7 } s)

/-- FAULT_QUEUE_STALL_TIMEOUT (R235): a faulter that has stalled for 100 ms ends with FAULT_QUEUE_FULL and loses its context. -/
def execFaultQueueStallTimeout (f : Faulter) (s : State) : Host.Outcome State Fault Refusal :=
  match s.xlt.stalled.find? (fun y => y.f == f) with
  | none => .next s
  | some y =>
    let r := y.record
    let s := { s with xlt := { s.xlt with stalled := s.xlt.stalled.filter (fun z => !(z.f == f)) } }
    let s := match f with
      | .cmd id => (match findBegun s id with | some b => bulkStop b stFqFull s | none => s)
      | .run n => endRun n stFqFull s
      | .xfer _ _ => s
    .next (wakeAll (loseCause { r with cause := 0x08, kind := 1, entry := 0xFFFF, time := cntOf s r.half } s))

/-! ### Eotha mode (R230) -/

/-- EOTHA_CONFIG's start. -/
def startEotha : Handler := fun q p s =>
  let en := bitAt p.w4.toNat 0
  let h := numAt p.payload 0 8
  let d := numAt p.payload 8 8
  let n := numAt p.payload 16 8
  if en ∧ (p.payload.length ≠ 24 ∨ h % 4096 ≠ 0 ∨ d % 4096 ≠ 0 ∨ n % 4096 ≠ 0 ∨ 2 ^ 56 < h + n ∨ 2 ^ 56 < d + n) then answer q p stLen s
  else if s.fe.qps.any (fun e => decide (e.2.st ≠ 0) && e.2.ctx == p.ctx) then answer q p stBusy s
  else
    let c := getCtx s p.ctx
    answer q p stOk (setCtx s p.ctx (if en then { c with eotha := true, hbase := h, dbase := d, elen := n }
      else { c with eotha := false, hbase := 0, dbase := 0, elen := 0 }))

/-- EOTHA_CONFIG (R230). -/
def execEothaConfig (p : Pkt) (s : State) : Host.Outcome State Fault Refusal :=
  .next (arrive startEotha wrongOnFabric { p with opcode := 0xA8 } s)

end Sys2Proof.Machine
end

