-- ==== Sys2Proof/Machine/Fabric.lean ====
section
/-! DEFINITION. The receiving side of the fabric (spec/09): ports and their training (R247-R249), frames (R250-R254), transit
(R264), flows (R257-R260), what the units do with the packets delivered to them (R256, R62), and answers (R267, R47). -/
namespace Sys2Proof.Machine

/-! ### Ports (R247-R249, R260) -/

def portEnabled (x : Port) : Bool := bitAt x.cfg.toNat 21

/-- Whether a port is a global one (R262). -/
def globalPort (q : Nat) : Bool := (decide (7 ≤ q) && decide (q ≤ 15)) || decide (23 ≤ q)

/-- A packet of this module that finds no path: discarded and counted, and where it is a request, refused at memory (R267, R219), or
where it is a collective's, the collective's end (R283). -/
def noPath (s : State) (f : FabPkt) : State :=
  { s with dev := { s.dev with fabNoRoute := sat32 s.dev.fabNoRoute },
           fab := { s.fab with refused := if f.src = ownModule s ∧ (f.kind = 1 ∨ f.kind = 2 ∨ f.kind = 3) then s.fab.refused ++ [f.tag.toNat]
                                          else s.fab.refused,
                                cutColls := if f.src = ownModule s ∧ f.kind = 5 then s.fab.cutColls ++ [(f.ctx, f.tag)] else s.fab.cutColls } }

/-- A packet put on a new path chosen for its flow, with the number it has; without one it is discarded (R260, R267). A packet in transit has
one next port. -/
def reroute (s : State) (f : FabPkt) : State :=
  if f.src ≠ ownModule s then noPath s f
  else
    let cur := (findTx s (flowOf f)).getD { key := flowOf f, port := 32 }
    if cur.port < 32 && routable s cur.port then putOut s cur.port (onPath cur f)
    else match choosePath s (slotOfPid s f.pid) f.vc f.dst f.flowSeq (collKey f) with
    | none => noPath s f
    | some p =>
      let t := takePath cur p
      putOut (setTx s t) t.port (onPath t f)

/-- The packets that a port holds, in order: in frames not acknowledged, the rest of those that VCs are sending, and those that wait. -/
def heldPkts (s : State) (q : Nat) : List FabPkt :=
  ((getPort s q).kept.flatMap (fun f => f.pkts) ++ (getPort s q).cur.filterMap (fun e => e.2.map (fun o => o.pkt))).eraseDups
    ++ (s.fab.sent.filter (fun o => o.port == q)).map (fun o => o.pkt)

/-- Packets in transit that came in on ports which are DOWN and are not whole can not go on: what is left of them is dropped. -/
def cutTransit (s : State) (qs : List Nat) : State :=
  let cut (o : OutPkt) : Bool := match o.src with
    | some (p, _) => qs.contains p && decide (o.sent + o.flits.length < o.total)
    | none => false
  { s with fab := { s.fab with
    sent := s.fab.sent.filter (fun o => !cut o),
    ports := s.fab.ports.map (fun e => (e.1, { e.2 with cur := e.2.cur.filter (fun c => match c.2 with | some o => !cut o | none => true) })) } }

/-- The buffers of flits in transit that do not leave by ports which are DOWN are free (R254). -/
def freeTransit (s : State) (l : List OutPkt) : State :=
  l.foldl (fun s o => match o.src with
    | some (p, pool) =>
      let y := getPort s p
      setPort s p { y with freed := tabSet (fun _ => 0) y.freed pool (tabGet (fun _ => 0) y.freed pool + o.flits.length) }
    | none => s) s

/-- Ports stop carrying traffic: they are DOWN, leave every route, and what they hold goes out again by other paths, in order
(R249, R260). A port that is OFF stays OFF. -/
def portsOff (s : State) (qs : List Nat) : State :=
  let qs := qs.filter (fun q => (getPort s q).st != 0 && (getPort s q).st != 3)
  let l := qs.flatMap (heldPkts s)
  let outs := (s.fab.sent.filter (fun o => qs.contains o.port)) ++ qs.flatMap (fun q => (getPort s q).cur.filterMap (·.2))
  let s := { s with fab := { s.fab with sent := s.fab.sent.filter (fun o => !qs.contains o.port) } }
  let s := qs.foldl (fun s q => setUnit (setPort s q { getPort s q with
    st := 3, kept := [], credits := [], rx := [], freed := [], cur := [], drr := [], txNext := 0, rxNext := 0, nak := false, spareReq := 7,
    refusals := 0, again := false, wired := false, lanesOk := 0 }) ⟨4, q⟩ .quarantine) s
  l.foldl reroute (freeTransit (cutTransit s qs) outs)

/-- A port enters DOWN by a fault of its link or by its configuration (R249). -/
def portDown (s : State) (q : Nat) : State :=
  if (getPort s q).st = 3 then s
  else portsOff (logNote { cls := 0x0D, sev := 1, unitKind := 4, unit := q, action := 12, half := halfOfPort q } s) [q]

/-- A Haldip port enters DOWN (R249, spec/11 R315): its unit leaves service, its queue pairs keep what they hold, and its
reports not yet acknowledged go through the other port where RES_RPT lets them (spec/11 R308). -/
def haldipDown (s : State) (p : Nat) : State :=
  let x := getFe s p
  if !x.up then s
  else
    let s := setUnit (setPort (setFe s p { x with up := false, reports := [] }) (32 + p) {}) ⟨6, p⟩ .quarantine
    let s := { s with fe := { s.fe with heldReports := x.reports ++ s.fe.heldReports } }
    unbindCheck (drainAll (logNote { cls := 0x0E, sev := 1, unitKind := 6, unit := p, action := 4, half := p } s))

/-- A port retrains (R252): its frames and credits stay. -/
def retrain (s : State) (q : Nat) : State :=
  let x := getPort s q
  setPort s q { x with st := 1, again := true, refusals := 0, retrain := sat16 x.retrain }

/-- The lanes of a mask. -/
def laneMask (l : List Bool) : BitVec 9 := BitVec.ofNat 9 (((List.range 9).map (fun i => b2n (l.getD i false) * 2 ^ i)).sum)

/-- The lane that carries no data after training: a lane that does not work, else the last. -/
def spareAfter (n : Nat) (l : List Bool) : Nat := ((List.range n).find? (fun i => !l.getD i false)).getD (n - 1)

/-- What a training leaves in a port's registers. -/
def trained (q : Nat) (x : Port) (r : TrainResult) : Port :=
  let n := laneCount q
  let l := r.lanes.take n
  { x with peerModule := r.peerModule % 16384, peerPort := r.peerPort % 32, flight := BitVec.ofNat 8 (min r.flight 255),
           lanesOk := laneMask l, badTx := ~~~ (laneMask l), badRx := ~~~ (laneMask l),
           spareTx := spareAfter n l, spareRx := spareAfter n l, spareReq := 7 }

/-- Lanes that work. -/
def goodLanes (q : Nat) (r : TrainResult) : Nat := ((List.range (laneCount q)).filter (fun i => r.lanes.getD i false)).length

/-- Whether a training found too few lanes for a port, or a link that is too long (R247, R249). -/
def trainFails (q : Nat) (r : TrainResult) : Bool := decide (goodLanes q r < laneCount q - 1) || decide (250 < 2 * r.flight)

/-- The fixed peer of a stook-local port: module and port (R262). -/
def fixedPeer (s : State) (q : Nat) : Option (Nat × Nat) :=
  let m := ownModule s
  let row := posOf m / 8
  let col := posOf m % 8
  if q < 7 then some (64 * stookOf m + 8 * row + (col + 1 + q) % 8, 6 - q)
  else if 16 ≤ q ∧ q < 23 then some (64 * stookOf m + 8 * ((row + 1 + q - 16) % 8) + col, 38 - q)
  else none

/-- The role that a port has unless it is unused (R262). -/
def roleFor (q : Nat) : Nat := if q < 7 then 1 else if 16 ≤ q ∧ q < 23 then 2 else 3

/-- Whether training found the peer that FAB_PORT_CFG names, which for a stook-local port is its fixed one, as its role is the port's own
(R247, R262; that a port configured otherwise is MISWIRED is DEDUCED, notes/assumptions/20.md). -/
def peerFits (s : State) (q : Nat) (y : Port) : Bool :=
  let peer := (fld y.cfg.toNat 0 14, fld y.cfg.toNat 14 5)
  roleOf s q == 0 || ((y.peerModule, y.peerPort) == peer && roleOf s q == roleFor q
    && (match fixedPeer s q with | some p => p == peer | none => true))

/-- PORT_TRAIN of a Haldip port, 32 or 33 (R245): nine lanes, eight of them active. -/
def haldipTrain (port : Nat) (r : TrainResult) (s : State) : State :=
  let x := getPort s port
  if unitSt s ⟨6, port - 32⟩ ≠ .ready ∨ halfOff s (port - 32) then s
  else if (!r.inTime && x.again) || (r.inTime && trainFails port r) then wakeAll (haldipDown (setPort s port (trained port x r)) (port - 32))
  else if !r.inTime then s
  else setPort s port { trained port x r with st := 2, again := false }

/-- PORT_TRAIN (R247, R249): training ends. A port that is UP, not enabled, or whose unit is not READY does not train. -/
def execPortTrain (port : Nat) (r : TrainResult) (s : State) : Host.Outcome State Fault Refusal :=
  let x := getPort s port
  if 32 ≤ port then .next (if port < 34 then haldipTrain port r s else s)
  else if !portEnabled x || unitSt s ⟨4, port⟩ ≠ .ready || x.st = 2 || halfOff s (halfOfPort port) then .next s
  else
    let y := trained port x r
    if !r.inTime then .next (if x.again || x.wired then portDown s port else setPort s port { x with st := 1 })
    else if trainFails port r then .next (portDown (setPort s port y) port)
    else if !peerFits s port y then .next (setPort s port { y with st := 4, wired := false })
    else
      let n := if x.again then x.kept.length else 0
      .next (setPort s port { y with st := 2, again := false, wired := false, replay := (List.range n).foldl (fun v _ => sat32 v) y.replay })

/-- MISWIRED_RETRAIN (R247). -/
def execMiswiredRetrain (port : Nat) (s : State) : Host.Outcome State Fault Refusal :=
  let x := getPort s port
  if x.st ≠ 4 ∨ !portEnabled x then .next s else .next (setPort s port { x with st := 1, wired := true, retrain := sat16 x.retrain })

/-- A link enters DOWN. -/
def linkDown (s : State) (q : Nat) : State := if q < 32 then portDown s q else haldipDown s (q - 32)

/-- A direction's lane retired (R248): the spare takes its place, or the port has too few lanes. Every retirement counts. -/
def retireLane (s : State) (q lane : Nat) (rx : Bool) : State :=
  let x := getPort s q
  let bad := if rx then x.badRx else x.badTx
  let spare := if rx then x.spareRx else x.spareTx
  let bad' := bad ||| BitVec.ofNat 9 (2 ^ lane)
  let y := { x with lanesOk := x.lanesOk &&& ~~~ (BitVec.ofNat 9 (2 ^ lane)), spared := sat8 x.spared }
  let y := if rx then { y with badRx := bad' } else { y with badTx := bad' }
  if bitAt bad.toNat lane then s
  else if lane = spare then setPort s q y
  else if bitAt bad.toNat spare || (rx && decide (x.spareReq < 7)) then linkDown (setPort s q { y with spared := x.spared }) q
  else
    let s := setPort s q (if rx then { y with spareReq := lane } else { y with spareTx := lane })
    logNote (if q < 32 then { cls := 0x0C, sev := 1, unitKind := 5, unit := 5 * q + lane, action := 2, half := halfOfPort q }
      else { cls := 0x0C, sev := 1, unitKind := 6, unit := q - 32, action := 2, half := q - 32 }) s

/-- LANE_RETIRE (R248). -/
def execLaneRetire (port lane : Nat) (receive : Bool) (s : State) : Host.Outcome State Fault Refusal :=
  if 34 ≤ port ∨ laneCount port ≤ lane ∨ !linkUp s port then .next s else .next (retireLane s port lane receive)

/-- PORT_DOWN (R249): of a fabric port, or, as 32 and 33, of a Haldip port. -/
def execPortDown (port : Nat) (s : State) : Host.Outcome State Fault Refusal :=
  if 32 ≤ port then .next (if port < 34 then wakeAll (haldipDown s (port - 32)) else s)
  else if (getPort s port).st = 0 then .next s else .next (wakeAll (portDown s port))

/-- LINK_REPLAY_TIMEOUT (R252): ACK has made no progress for 1 ms. -/
def execLinkReplayTimeout (port : Nat) (s : State) : Host.Outcome State Fault Refusal :=
  if 34 ≤ port ∨ !linkUp s port ∨ (getPort s port).kept.isEmpty then .next s else .next (retrain s port)

/-! ### Flows at the source (R259, R265) -/

/-- MARK sent on a flow's old path; until it is answered the flow's packets are held (R259). -/
def sendMark (s : State) (t : FlowTx) : State :=
  let (n, s) := takeTag s
  let m : FabPkt := { dst := t.key.dst, vc := t.key.vc, kind := 7, src := t.key.src, lane := t.key.lane, flowSeq := t.next,
                      tag := BitVec.ofNat 64 n }
  putOut (setTx s { t with next := t.next + 1, marker := some n }) t.port (onPath t m)

/-- PATH_REEVALUATE (R265, R259): a flow whose first-hop port has no credit for what waits looks for another path; a change of
path begins with MARK on the old one. A collective flow changes only when its port is DOWN (R266). -/
def execPathReevaluate (flow : FlowKey) (s : State) : Host.Outcome State Fault Refusal :=
  match findTx s flow with
  | none => .next s
  | some t =>
    match s.fab.sent.find? (fun o => o.port == t.port && flowOf o.pkt == flow) with
    | none => .next s
    | some o =>
      let f := o.pkt
      if t.marker.isSome ∨ f.kind = 5 then .next s
      else match choosePath s (slotOfPid s f.pid) f.vc f.dst f.flowSeq none with
        | none => .next s
        | some p =>
          if p.port = t.port ∧ p.gw = (t.gwPos, t.gwPort) ∧ p.inter = t.inter then .next s
          else
            .next (sendMark s t)

/-- A marker's answer has come: the held packets go out on a new path (R259). -/
def markAcked (s : State) (src n : Nat) : State :=
  match s.fab.tx.find? (fun t => t.marker == some n && t.key.dst == src) with
  | none => s
  | some t =>
    let slot := match t.held.head? with | some f => slotOfPid s f.pid | none => none
    let t' := { t with marker := none, held := [] }
    match choosePath s slot t.key.vc t.key.dst t.next none with
    | some p =>
      let t' := takePath t' p
      t.held.foldl (fun s f => putOut s p.port (onPath t' f)) (setTx s t')
    | none => t.held.foldl reroute (setTx s t')

/-! ### Answers sent (R256) -/

/-- The RESPONSE to a request. -/
def respond (s : State) (f : FabPkt) (status : Nat) (data : List Byte) : State :=
  sendFor s { dst := f.src, vc := vcFor 4 f.cls, kind := 4, src := ownModule s, lane := f.lane, pid := f.pid, pgen := f.pgen,
              tag := f.tag, target := f.target, tkind := f.tkind, ctx := f.ctx, cls := f.cls, edom := f.edom, status := status,
              len := f.len, data := data }

/-- The answer of memory to a request of another module (R219, R332). -/
def respondMem (s : State) (f : FabPkt) (r : MemRes) : State :=
  match r with
  | .ok d s => respond s f 0 d
  | .unc s => respond s f 2 []
  | _ => respond s f 1 []

/-! ### Windows (R62, spec/04 R115) -/

/-- The pair a window access names. -/
def winRef (f : FabPkt) : TenRef := ⟨fld f.target.toNat 0 24, f.ctx⟩

/-- A window access performed at its target: no tenancy is status 3, an offset outside the window status 4. -/
def winServe (s : State) (f : FabPkt) : State :=
  let off := fld f.target.toNat 32 19
  match findTen s (winRef f) with
  | none => respond s f 3 []
  | some y =>
    if f.kind = 1 then (if winIn y off f.len then respond s f 0 (winRead y off f.len) else respond s f 4 [])
    else if winIn y off f.data.length then respond (setTen s (winWrite y off f.data)) f 0 [] else respond s f 4 []

/-- A window access arrives: held while its target is saved, restored or moved, passed on to a new host until the
lead has reported that every member knows it (R62). -/
def winTake (s : State) (f : FabPkt) : State :=
  match slotOfPid s f.pid with
  | none => s
  | some i =>
    let t := winRef f
    match hostOf (getSlot s i) t.lcid with
    | none => respond s f 3 []
    | some h =>
      if h ≠ ownModule s ∧ (movingOf s i t.lcid).isNone then
        (if (getSlot s i).fwd.contains t.lcid then relayFab s f h else respond s f 3 [])
      else if remHolds s i t || s.part.heldFab.any (fun g => winRef g == t && g.pid == f.pid) then
        { s with part := { s.part with heldFab := s.part.heldFab ++ [f] } }
      else winServe s f

/-- REMOTE_ACCESS_SERVE (spec/04 R115): the oldest waiting access to a pair whose save, restore or move has ended, of this
module first. -/
def execRemoteAccessServe (lcid ctx : Nat) (s : State) : Host.Outcome State Fault Refusal :=
  let t : TenRef := ⟨lcid, ctx⟩
  if remHolds { s with rem := [] } (getCtx s ctx).slot t then .next s
  else match s.rem.find? (fun a => a.target == t) with
    | some a => .next (wakeAll (endCheck (serveRem { s with rem := s.rem.erase a } a) a.issuer))
    | none =>
      match s.part.heldFab.find? (fun f => winRef f == t) with
      | some f => .next (winServe { s with part := { s.part with heldFab := s.part.heldFab.erase f } } f)
      | none => .next s

/-! ### Answers received (R47, R64, R256) -/

/-- Whether a core made a request. -/
def coreAsker (w : Asker) : Bool :=
  match w with
  | .ten _ _ _ => true
  | .posted _ => true
  | .xfer _ _ => true
  | .signal _ => true
  | .remWait _ => true
  | .probe _ _ _ _ => true
  | .fetch _ _ => true
  | _ => false

/-- The answer to a core instruction's request: the value returns, or the refusal is the instruction's fault (R151). -/
def tenAnswer (s : State) (o : Outst) (t : TenRef) (reg : Option (Nat × Bool)) (status : Nat) (data : List Byte) : State :=
  match findTen s t with
  | none => s
  | some x =>
    let bad (cause : Nat) : State := coreFault { x with pc := o.pc } cause (o.kind != 1) o.addr 0 s
    match status with
    | 0 => endCheck (match reg with
        | some (r, v) => (let s := putReg s t v r data; if o.kind = 1 then logRead t data s else s)
        | none => s) t
    | 2 => bad 0x06
    | 3 => bad 0x28
    | 4 => bad 0x24
    | _ => bad 0x2B

/-- The answer to a transfer's request (R117, R119, R219): a read element goes to its destination, a written one is done; the
engine then moves as far as the tenancy waits for. -/
def xferAnswer (s : State) (o : Outst) (t : TenRef) (off status : Nat) (data : List Byte) : State :=
  match findTen s t with
  | none => s
  | some x => match xferOf x off with
    | none => s
    | some f =>
      let src := o.kind == 1
      let va := if src then srcAddrOf x f f.doneEl else dstAddrOf f.desc f.doneEl
      match status with
      | 0 =>
        let r := if src then putElem (logRead t data s) x f data else (true, elemDone s t off)
        if !r.1 then r.2
        else
          let s := r.2
          (match findTen s t with
           | some y => engineTo s t off (match y.wait with | .prog o' g => if o' = off then g.toNat else f.doneEl + 1 | _ => f.doneEl + 1)
           | none => s)
      | 1 =>
        let fpa := match translate s none x.ctx (lowBits 64 va) with
          | (.hit e, v, _) => some (rangeFpa e v)
          | _ => none
        stopXfer s x f src 0x03 (BitVec.ofInt 64 va) fpa
      | n => loseCause (xferFault s x f (if n = 2 then 0x06 else if n = 3 then 0x28 else 0x24) 1 src (BitVec.ofInt 64 va) f.doneEl) s

/-- The answer to a fetch of another module's line (spec/04 R99): the line enters the core's cache, or the fetch is refused (R125). -/
def fetchAnswer (s : State) (o : Outst) (t : TenRef) (l : ILine) (status : Nat) : State :=
  if status = 0 then icFill s o.core l
  else match findTen s t with
    | none => s
    | some x => coreFault { x with pc := o.pc } (if status = 2 then 0x06 else 0x2A) false o.addr 0 s

/-- The answer to the check of a transfer's side on another module (spec/05 R144): with the last one the transfer moves; the first that
fails is the instruction's fault. -/
def probeAnswer (s : State) (o : Outst) (t : TenRef) (off : Nat) (outside : Bool) (status : Nat) : State :=
  match findTen s t with
  | none => s
  | some x =>
    let bad (cause : Nat) : State := coreFault { x with pc := o.pc } cause (o.kind != 1) o.addr 0 s
    match status with
    | 0 => if outside then bad 0x24 else updXfer s t off (fun f => { f with probes := f.probes - 1 })
    | 3 => bad 0x28
    | 4 => bad 0x24
    | 2 => bad 0x06
    | _ => bad 0x2B

/-- Who asked gets the answer. -/
def giveAnswer (s : State) (o : Outst) (status : Nat) (data : List Byte) : State :=
  match o.who with
  | .ten t r v => tenAnswer s o t (some (r, v)) status data
  | .posted t => tenAnswer s o t none status data
  | .xfer t off => xferAnswer s o t off status data
  | .probe t off _ outside => probeAnswer s o t off outside status
  | .fetch t l => fetchAnswer s o t l status
  | .cmd id => cmdGo id (if o.kind = 0 then bulkChecked id (if status = 0 then stOk else stDenied) s else bulkAnswer id status data s)
  | .stream n va op => streamAnswer s n va op (match status with | 0 => stOk | 2 => stUnc | _ => stDenied) data
  | .run r => runAnswer s r status data
  | .runSt r => runStAnswer s r status
  | .relay g => respond s g status data
  | _ => s

/-- Whether an answer is stale (R47, R64): the context's generation, or the requesting core's, has moved on. -/
def staleAnswer (s : State) (o : Outst) : Bool :=
  decide ((getCtx s o.ctx).gen ≠ o.cgen) || (coreAsker o.who && decide (unitGen s ⟨0, o.core⟩ ≠ o.bgen))

/-- A RESPONSE finds its request by tag and source; one for a retired tag is chaff in the slot (spec/11 R319, R47). -/
def takeResponse (s : State) (f : FabPkt) : State :=
  match s.fab.outst.find? (fun o => o.tag == f.tag.toNat && o.dst == f.src) with
  | none => (match slotOfPid s f.pid with | some i => addChaff s i | none => s)
  | some o =>
    let s := { s with fab := { s.fab with outst := s.fab.outst.erase o } }
    if staleAnswer s o then addChaff s (getCtx s o.ctx).slot else wakeAll (giveAnswer s o f.status f.data)

/-- Requests that found no path are answered as refused at memory (R267). -/
def refusedSettle (s : State) : State :=
  s.fab.refused.foldl (fun s tag => match s.fab.outst.find? (fun o => o.tag == tag) with
    | none => s
    | some o => wakeAll (giveAnswer { s with fab := { s.fab with outst := s.fab.outst.erase o } } o 1 []))
    { s with fab := { s.fab with refused := [] } }

/-- REMOTE_RESPONSE_TIMEOUT (R267): an access without a RESPONSE after 10 ms makes its context LOST; the record's DETAIL names
the silent module. -/
def execRemoteResponseTimeout (tag : Nat) (s : State) : Host.Outcome State Fault Refusal :=
  match s.fab.outst.find? (fun o => o.tag == tag) with
  | none => .next s
  | some o => match o.who with
    | .signal _ => .next s
    | .remWait _ => .next s
    | .runSignal _ => .next s
    | .runWait _ => .next s
    | _ =>
      let s := { s with fab := { s.fab with outst := s.fab.outst.erase o } }
      .next (wakeAll (loseFor o.dst o.ctx (0x8000 + stLost) stLost (halfOfCore o.core) s))

/-- The answer to a message about another module's event (spec/06 R188): a refusal is EVENT_OWNER, a release ends the wait. The answer about
a member of a run's DISPATCH says whether it was accepted (spec/07 R203), and that about an extent whether it may be accessed (R178). -/
def eventAnswer (s : State) (o : Outst) (status : Nat) (v : W64) : State :=
  let t? : Option TenRef := match o.who with | .signal t => some t | .remWait t => some t | _ => none
  match t? with
  | some t =>
    (match findTen s t with
     | none => s
     | some x =>
       if status = stDenied then coreFault { x with pc := o.pc } 0x2D (match o.who with | .signal _ => true | _ => false) o.pc 0 s
       else match o.who, x.wait with
         | .remWait _, .event _ _ => wakeTen s t
         | _, _ => s)
  | none => match o.who with
    | .runSignal r => runEvAnswer s r status o.pc.toNat false
    | .runWait r => runEvAnswer s r status o.pc.toNat true
    | .runEvent r => runEvValue s r status v
    | .runDisp r l => memberAnswer s r l status
    | .cmd id => cmdGo id (bulkChecked id status s)
    | .stream n va op => streamAnswer s n va op status []
    | _ => s

/-- The answer to a command's message about another module's event: an EVENT_RECORD or EVENT_WAIT ends. -/
def commandAnswer (s : State) (id mid : Nat) (p : Pkt) : State :=
  match findBegun s id with
  | none => s
  | some b => match b.job with
    | .remoteRecord _ _ => finishStatus id p.status s
    | .wait h _ => if evMod h = ownModule s then s else finishStatus id p.status s
    | .inval _ _ => if p.status = stOk then invalAck s id mid else s
    | _ => s

/-- A COMPLETION from another module: an answer to a peer notice, to a command's or a handoff's message, or to a core's or a
run's. -/
def takeCompletion : Handler := fun q p s =>
  match q with
  | .fabric mid pid _ =>
    if s.part.notices.any (fun n => n.mid == mid && n.ctx == p.ctx && n.seq == p.seq) then
      { s with part := { s.part with notices := s.part.notices.filter (fun n => !(n.mid == mid && n.ctx == p.ctx && n.seq == p.seq)) } }
    else if p.seq.toNat < 2 ^ 30 then commandAnswer s p.seq.toNat mid p
    else if p.seq.toNat < 2 ^ 31 then
      (match slotOfPid s pid with
       | some i => if 8 ≤ fld p.seq.toNat 24 6 then budgetAnswer s i mid (fld p.seq.toNat 24 6) p else handAnswer s i mid p
       | none => if fld p.seq.toNat 24 6 = 10 then takeKexAnswer s mid p else s)
    else match s.fab.outst.find? (fun o => o.tag % 2 ^ 31 == p.seq.toNat - 2 ^ 31 && (o.dst == mid || (match o.who with | .runDisp _ _ => true | _ => false))) with
      | none => s
      | some o =>
        let s := { s with fab := { s.fab with outst := s.fab.outst.erase o } }
        if staleAnswer s o then addChaff s (getCtx s o.ctx).slot else eventAnswer s o p.status (valB p)
  | _ => s

/-- COMPLETION (spec/06 R181): the module's own replies are sent as they end; one that arrives is the answer of another
module, and on any other path an undefined opcode. -/
def execCompletion (p : Pkt) (s : State) : Host.Outcome State Fault Refusal :=
  .next (arrive wrongOnFabric (fun q p s => wakeAll (takeCompletion q p s)) { p with opcode := 0xF0 } s)

/-! ### Packets between modules that carry no host command -/

/-- A dispatch-queue entry of another module's run (R54, R203). A run that waits for its acceptance is answered; one that a move passes on
comes without a SEQ and waits in the queue. -/
def takeDispatch : Handler := fun q p s =>
  match q with
  | .fabric mid pid _ =>
    (match slotOfPid s pid with
     | none => s
     | some i =>
       let e := entryOf p.payload
       let c := getCtx s e.ctx
       if c.slot ≠ i ∨ c.st ≠ 1 then addChaff s i
       else
         let e := { e with cgen := c.gen, remote := remoteFor s mid e.remote }
         let asked := decide (p.seq ≠ 0)
         match placeMember s i e with
         | some s => if asked then answer q p stOk s else s
         | none =>
           if asked then answer q p stRetry s
           else (match lmapOf (getSlot s i) e.lcid with | some m => enqueue s m.core e | none => s))
  | _ => s

/-- A kernel end for a run of this module (R204). -/
def takeKernelEnd : Handler := fun _ p s =>
  { s with seq := { s.seq with ends := s.seq.ends ++
    [{ run := fld p.w4.toNat 0 16, incarn := p.w5.toNat, grp := fld p.w4.toNat 16 8, ovf := bitAt p.w6.toNat 0,
       lcid := p.w7.toNat }] } }

/-- A message that only the lead of the partition in word 4 sends. -/
def fromLead (f : Nat → Handler) : Handler := fun q p s =>
  match slotOfPid s p.w4.toNat with
  | none => answer q p stUnbound s
  | some i => if senderOf s q = leadFor s i then f i q p s else answer q p stDenied s

/-- A changed run-table entry from the lead (R62); an entry of a lower epoch than the one held changes nothing (R59). -/
def takeRunTable : Handler := fromLead (fun i q p s =>
  answer q p stOk (applyEpoch s i (fld p.w5.toNat 0 24) (numAt p.payload 0 4 % 2 ^ 14) (opB p)))

/-- The deputy's copy of an ownership record (R57); one that is older than the copy held changes nothing (R59). -/
def takeOwnRecord : Handler := fromLead (fun i q p s =>
  let lcid := fld p.w5.toNat 0 24
  let old := tabGet (fun _ => {}) (getSlot s i).own lcid
  let new := recOf p.payload
  answer q p stOk (if new.epoch < old.epoch then s else setOwnRec s i lcid new))

/-- The lead's report that every member has applied a change (R62): the old host no longer passes traffic on. -/
def takeRunDone : Handler := fromLead (fun i _ p s =>
  let lcid := fld p.w5.toNat 0 24
  if tabGet (fun _ => 0) (getSlot s i).runEpoch lcid = opB p then endForward s i lcid else s)

/-- A last-arriving rank, for the power controller of the partition's lead (R282). -/
def takeLastRank : Handler := fun _ p s =>
  match slotOfPid s p.w5.toNat with
  | none => s
  | some i =>
    let sl := getSlot s i
    let e := (p.w4.toNat, p.w6.toNat, p.w7.toNat)
    if sl.lastRank.contains e then s else setSlot s i { sl with lastRank := sl.lastRank ++ [e] }

/-- The streams of a slot. -/
def streamsOf (s : State) (slot : Nat) : List (Nat × Stream) :=
  s.fab.streams.filter (fun e => e.2.st == 1 && (getCtx s e.2.ctx).slot == slot)

/-- The state an execution answers. -/
def nextOf (s : State) (o : Host.Outcome State Fault Refusal) : State :=
  match o with
  | .next s => s
  | _ => s

/-- A COLL packet: an announcement, an abort or a segment for a stream of the slot (R278-R283; the wire form is
notes/assumptions/28.md). -/
def takeColl (s : State) (slot : Nat) (f : FabPkt) : State :=
  let rank := numAt f.data 0 4
  let idx := numAt f.data 4 4
  let off := numAt f.data 8 8
  let n := numAt f.data 16 4
  let body := f.data.drop 20
  let gid := f.tag.toNat % 2 ^ 32
  let sq := f.tag.toNat / 2 ^ 32
  if !(streamsOf s slot).any (fun e => e.1 == n) then s
  else if idx = 2 ^ 32 - 1 then nextOf s (execCollAnnounce n rank ⟨gid, sq⟩ (BitVec.ofNat 32 off) s)
  else if idx = 2 ^ 32 - 2 then nextOf s (execCollAbort n ⟨⟨gid, sq⟩, off⟩ s)
  else if idx = 2 ^ 32 - 3 then takeGrant s n gid sq rank off
  else nextOf s (execColl n rank ⟨⟨gid, sq⟩, off⟩ body s)

/-- A BARRIER packet (R153): an arrival at the module that hosts the group's first member, that an arrival is counted, or a
release. -/
def takeBarrier (s : State) (f : FabPkt) : State :=
  let ctx := numAt f.data 0 4
  let lcid := numAt f.data 4 4
  let g : W64 := BitVec.ofNat 64 (numAt f.data 8 8)
  let bid := f.tag.toNat % 256
  let ph : W64 := BitVec.ofNat 64 (f.tag.toNat / 256)
  match numAt f.data 28 4 with
  | 0 =>
    if (getCtx s ctx).st = 1 ∧ hostOf (getSlot s (getCtx s ctx).slot) (grpFirst g) = some (ownModule s) then
      barArrive ctx bid lcid f.src (numAt f.data 24 4 % 2) g (BitVec.ofNat 64 (numAt f.data 16 8)) s
    else s
  | 1 => barCounted s ⟨lcid, ctx⟩ bid ph
  | _ => barRelease ⟨lcid, ctx⟩ bid ph s

/-- A flush marker (R62): passed on by the old host, held by one that does not yet know how the move ended, reported by the
new one, and counted by the member that holds traffic, whose hold ends when every VC's marker is back. TAG holds the LCID and,
from the old host on, the member (DESIGN CHOICE, notes/assumptions/25.md). -/
def takeFlush (s : State) (slot : Nat) (f : FabPkt) : State :=
  let lcid := fld f.tag.toNat 0 24
  let org := fld f.tag.toNat 32 16
  match hostOf (getSlot s slot) lcid with
  | none => s
  | some m =>
    match s.part.flushes.find? (fun h => h.slot == slot && h.lcid == lcid && m == f.src && org == 0) with
    | some h =>
      let h' := { h with back := (h.back ++ [f.vc]).eraseDups }
      let s := { s with part := { s.part with flushes := s.part.flushes.map (fun x => if x == h then h' else x) } }
      if allVcs.all (fun v => h'.back.contains v) then nextOf s (execFlush slot lcid s) else s
    | none =>
      if m ≠ ownModule s then passFlush s f m
      else match movingOf s slot lcid with
        | some v => if v.dstMod = ownModule s then reportFlush s f
                    else { s with part := { s.part with heldFlush := s.part.heldFlush ++ [(slot, f)] } }
        | none => reportFlush s f

/-! ### The destination's steps (R256, R258, R284, R285) -/

/-- Whether a KIND is defined and travels on its VC (R256). -/
def kindOk (kind vc : Nat) : Bool :=
  match kind with
  | 0 => vc == 5
  | 1 => vc == 0 || vc == 4
  | 2 => vc == 2
  | 3 => vc == 0 || vc == 4
  | 4 => vc == 1 || vc == 4
  | 5 => vc == 3
  | 6 => vc == 3
  | 7 => decide (vc ≤ 5)
  | 8 => vc == 5
  | 9 => decide (vc ≤ 5)
  | _ => false

/-- A near-memory request performed at its memory, and its result returned where it asks for one (R256). -/
def nearServe (s : State) (f : FabPkt) (r : NearReq) : State :=
  let f := { f with ctx := r.ctx, cls := r.cls, edom := r.edom, target := BitVec.ofNat 64 r.fpa, len := nearLen r.op r.width }
  let a := nearDo s { r with pid := f.pid }
  respond a.2.2 f a.1 (if r.ret then a.2.1 else [])

/-- Whether a request names a context that is fenced here: it is refused at memory (R318, R319 step 4). -/
def ingressFenced (s : State) (f : FabPkt) : Bool :=
  let ctx := match f.near with | some r => r.ctx | none => f.ctx
  (f.kind == 1 || f.kind == 2 || f.kind == 3) && (slotOfPid s f.pid).isSome && decide ((getCtx s ctx).st = 2 ∨ (getCtx s ctx).st = 3)

/-- Everything but a COMMAND delivered to its unit, for a context that is not fenced; `cmd` delivers a COMMAND. -/
def deliverTo (cmd : FabPkt → Pkt → State → State) (f : FabPkt) (s : State) : State :=
  let slot := slotOfPid s f.pid
  if ingressFenced s f then respond s (match f.near with | some r => { f with ctx := r.ctx, cls := r.cls, edom := r.edom } | none => f) 1 []
  else match f.kind with
  | 0 => (match f.cmd with | some p => cmd f { p with src := .fabric f.src f.pid f.pgen.toNat } s | none => s)
  | 1 =>
    if f.tkind = 1 then winTake s f
    else if f.target.toNat / 2 ^ 42 ≠ ownModule s then respond s f 1 []
    else respondMem s f (memRead s .read f.ctx f.pid f.edom (f.target.toNat % 2 ^ 42) f.len)
  | 2 =>
    if f.tkind = 1 then winTake s f
    else if f.target.toNat / 2 ^ 42 ≠ ownModule s then respond s f 1 []
    else respondMem s f (memWrite s .write f.ctx f.pid f.edom (f.target.toNat % 2 ^ 42) f.data)
  | 3 =>
    (match f.near with
     | some r => nearServe s f r
     | none => respond s f 1 [])
  | 4 => takeResponse s f
  | 5 => (match slot with | some i => takeColl s i f | none => s)
  | 6 => takeBarrier s f
  | 7 => sendFor s { dst := f.src, vc := 5, kind := 8, src := ownModule s, lane := f.lane, tag := f.tag }
  | 8 => markAcked s f.src f.tag.toNat
  | 9 => (match slot with | some i => takeFlush s i f | none => s)
  | _ => s

/-- A refused encrypted packet (R285): counted, recorded with its source, and the slot's contexts LOST. -/
def authFail (s : State) (slot src : Nat) : State :=
  let s := { s with dev := { s.dev with fabGcmFail := sat32 s.dev.fabGcmFail } }
  let s := logNote { cls := 0x18, sev := 3, unitKind := 13, unit := src % 4096, slot := some slot, detail := src } s
  loseAll (liveOf s slot) stLost 0 s

/-- A packet of no slot that comes encrypted (R285): no key verifies its tag. -/
def authNoSlot (s : State) (src : Nat) : State :=
  logNote { cls := 0x18, sev := 3, unitKind := 13, unit := src % 4096, detail := src }
    { s with dev := { s.dev with fabGcmFail := sat32 s.dev.fabGcmFail } }

/-- The check of an encrypted packet (R285): the packet opened, or refused; one of a PID that no slot holds goes on to be
dropped as an orphan (R47). A packet as delivered, without the bytes sent, has
been opened. -/
def openConf (s : State) (f : FabPkt) : Except State (FabPkt × State) :=
  if !f.conf then .ok (if f.sealed.isEmpty then f else fabOpen f f.sealed, s)
  else match slotOfPid s f.pid with
    | none => if f.pid = 0 then .error (authNoSlot s f.src) else .ok (f, s)
    | some i =>
      match s.fab.keys.find? (fun k => k.slot == i && k.peer == f.src && k.keyix == f.keyix) with
      | none => .error (authFail s i f.src)
      | some k =>
        let n := numAt f.sealed 0 8
        if n + 4096 < k.high ∨ k.seen.contains n then .error (authFail s i f.src)
        else match Config.gcmOpen (k.rx.take 32) (k.rx.drop 32 ++ leBytes 8 n) (aadOf f f.sealed.length) (f.sealed.drop 8) with
          | none => .error (authFail s i f.src)
          | some b =>
            let high := max k.high n
            let k' := { k with high := high, seen := (n :: k.seen).filter (fun c => decide (high ≤ c + 4096)) }
            .ok (fabOpen f b, { s with fab := { s.fab with keys := s.fab.keys.map (fun j => if j == k then k' else j) } })

/-- Steps 5 to 7 of R258. -/
def accept (dlv : FabPkt → State → State) (f : FabPkt) (s : State) : State :=
  match openConf s f with
  | .error s => s
  | .ok (f, s) => match fabGate s f.pid f.pgen.toNat with
    | .drop s => s
    | .pass => dlv f s

/-- The receiving side of a flow. -/
def findRx (s : State) (k : FlowKey) : FlowRx := (s.fab.rx.find? (fun t => t.key == k)).getD { key := k }
def setRx (s : State) (t : FlowRx) : State :=
  { s with fab := { s.fab with rx := s.fab.rx.filter (fun u => !(u.key == t.key)) ++ [t] } }

/-- Held copies of a packet, all but one, are duplicates, discarded and counted (R258). -/
def countCopies (s : State) (l : List FabPkt) : State :=
  { s with dev := { s.dev with fabDup := (l.drop 1).foldl (fun n _ => sat32 n) s.dev.fabDup } }

/-- Held packets that have become due, in FLOW_SEQ order; `n` bounds them. -/
def rxDrain (dlv : FabPkt → State → State) (k : FlowKey) : Nat → State → State
  | 0, s => s
  | n + 1, s =>
    let t := findRx s k
    match t.held.filter (fun f => f.flowSeq == t.expected) with
    | [] => s
    | f :: l =>
      let rest := t.held.filter (fun g => !(g.flowSeq == t.expected))
      rxDrain dlv k n (accept dlv f (countCopies (setRx s { t with expected := t.expected + 1, held := rest }) (f :: l)))

/-- R258's steps for a packet addressed to this module. -/
def receive (dlv : FabPkt → State → State) (f : FabPkt) (s : State) : State :=
  if !kindOk f.kind f.vc then { s with dev := { s.dev with fabBadKind := sat32 s.dev.fabBadKind } }
  else
    let k := flowOf f
    let t := findRx s k
    if f.flowSeq = t.expected then
      let s := accept dlv f (setRx s { t with expected := t.expected + 1 })
      wakeAll (rxDrain dlv k (findRx s k).held.length s)
    else if 2 ^ 31 ≤ (f.flowSeq - t.expected).toNat then { s with dev := { s.dev with fabDup := sat32 s.dev.fabDup } }
    else setRx s { t with held := t.held ++ [f] }

/-- FLOW_GAP_TIMEOUT (R258): a gap of 10 ms is skipped to the first held packet. -/
def gapSkip (dlv : FabPkt → State → State) (k : FlowKey) (s : State) : State :=
  let t := findRx s k
  match cheapest (t.held.map (fun f => ((f.flowSeq - t.expected).toNat, f.flowSeq))) with
  | none => s
  | some (_, q) =>
    let s := { s with dev := { s.dev with fabGap := sat32 s.dev.fabGap } }
    wakeAll (rxDrain dlv k t.held.length (setRx s { t with expected := q }))

/-! ### Transit (R264, R267, R323) -/

/-- The next port of a packet for another module, its header as it leaves (R264); 32 where the route table names none. -/
def nextHop (s : State) (f : FabPkt) : FabPkt × Nat :=
  let own := ownModule s
  let turns := f.nonmin && decide (stookOf own = f.inter)
  let cs := candidates s (stookOf f.dst)
  let gw := cs[(f.lane + f.src) % cs.length]?
  let f := if turns then (match gw with | some g => { f with nonmin := false, gwPos := g.1, gwPort := g.2 } | none => f) else f
  let t := if f.nonmin then f.inter else stookOf f.dst
  (f, if turns && gw.isNone then 32
      else if stookOf own ≠ t then (if posOf own = f.gwPos then f.gwPort else localPort (posOf own) f.gwPos)
      else localPort (posOf own) (posOf f.dst))

/-- Whether a packet in transit can go on by a port (R267, spec/11 R323). -/
def canGoOn (s : State) (f : FabPkt) (q : Nat) : Bool := !s.part.failedPeers.contains f.dst && decide (q < 32) && routable s q

/-- A whole packet for another module goes on. -/
def transit (s : State) (f : FabPkt) : State :=
  let (f, q) := nextHop s f
  if canGoOn s f q then putOut s q f else noPath s f

/-- A whole packet that came in on a port. -/
def fabArrive (dlv : FabPkt → State → State) (f : FabPkt) (s : State) : State :=
  if f.dst = ownModule s then receive dlv f s else transit s f

/-! ### Frames (R250-R254) -/

def frameTag (b : List Byte) (i : Nat) : Nat := fld (numAt b 42 12) (5 * i - 5) 5

/-- Whether a frame is intact and in order (R251, R252). Tags of a VC 6, or of a phase above 2, mark it corrupted. -/
def frameGood (x : Port) (f : Frame) : Bool :=
  f.uncorrectable == 0 && f.bytes.length == 1285 && crc32c (f.bytes.take 1280) == BitVec.ofNat 32 (numAt f.bytes 1280 4)
    && (List.range 19).all (fun i => let t := frameTag f.bytes (i + 1); t % 8 != 6 && (t % 8 == 7 || decide (t / 8 ≤ 2)))
    && BitVec.ofNat 16 (numAt f.bytes 0 2) == x.rxNext

/-- The control slot's effects on the other direction (R251, R252, R254, R248). -/
def frameControl (s : State) (q : Nat) (b : List Byte) : State :=
  let x := getPort s q
  let ack : BitVec 16 := BitVec.ofNat 16 (numAt b 2 2)
  let kept := x.kept.filter (fun e => decide (2 ^ 15 ≤ (ack - e.seq).toNat))
  let credits := (List.range 18).foldl (fun t p =>
    tabSet (fun k => poolSize (k / 3)) t p (min (poolSize (p / 3)) (tabGet (fun k => poolSize (k / 3)) t p + numAt b (6 + 2 * p) 2))) x.credits
  let w := numAt b 4 1
  let nak := bitAt w 0
  let again := nak && !kept.isEmpty
  let same := again && x.refusals != 0 && x.refusedFrame == ack + 1
  let x := { x with kept := kept, credits := credits,
                    refusedFrame := if again then ack + 1 else x.refusedFrame,
                    refusals := if same then x.refusals + 1 else if again then 1 else 0,
                    replay := if again then (List.range kept.length).foldl (fun v _ => sat32 v) x.replay else x.replay,
                    spareRx := fld w 4 3, spareReq := if x.spareReq = fld w 4 3 then 7 else x.spareReq }
  let s := setPort s q x
  let req := fld w 1 3
  let s := if req < 5 ∧ !bitAt x.badTx.toNat req then retireLane s q req false else s
  if x.refusals = 16 then retrain s q else s

/-- A flit's buffer is free: its credit goes back (R254). -/
def freeFlit (s : State) (q pool : Nat) : State :=
  let x := getPort s q
  setPort s q { x with freed := tabSet (fun _ => 0) x.freed pool (tabGet (fun _ => 0) x.freed pool + 1) }

/-- A flit in transit joins those of its packet that have not left; one whose packet is gone is dropped. -/
def passFlit (s : State) (q pool out : Nat) (flit : List Byte) : State :=
  let mine (o : OutPkt) : Bool := o.src == some (q, pool) && decide (o.sent + o.flits.length < o.total)
  let add (o : OutPkt) : OutPkt := { o with flits := o.flits ++ [flit] }
  let x := getPort s out
  if s.fab.sent.any mine then { s with fab := { s.fab with sent := s.fab.sent.map (fun o => if mine o then add o else o) } }
  else if x.cur.any (fun e => e.2.any mine) then
    setPort s out { x with cur := x.cur.map (fun e => (e.1, e.2.map (fun o => if mine o then add o else o))) }
  else freeFlit s q pool

/-- The first flit of a packet: it is for this module, or goes on by its next port as its flits come, or finds none (R254, R264). -/
def firstFlit (s : State) (q pool : Nat) (flit : List Byte) : RxPkt × State :=
  let n := fld (numAt flit 20 4) 0 14
  let total := ceilDiv (32 + n) 64
  let h := fabHeadOf flit
  let f := { h with sealed := [], phase := if globalPort q then (h.phase + 1) % 4 else h.phase }
  if f.dst = ownModule s then ({ dest := .own, total := total, got := 1, data := flit }, freeFlit s q pool)
  else
    let (f, out) := nextHop s f
    if canGoOn s f out then
      ({ dest := .port out, total := total, got := 1 },
        { s with fab := { s.fab with sent := s.fab.sent ++
          [{ port := out, pkt := f, flits := [fabHeader f n ++ flit.drop 32], total := total, src := some (q, pool) }] } })
    else ({ dest := .drop, total := total, got := 1 }, freeFlit (noPath s f) q pool)

/-- One flit of a frame: the first of a packet, or its next. A packet for this module that it makes whole is received; a global link raises
the phase. -/
def takeFlit (dlv : FabPkt → State → State) (q tag : Nat) (flit : List Byte) (s : State) : State :=
  if tag % 8 = 7 then s
  else
    let pool := 3 * (tag % 8) + tag / 8
    let r := match tabGet (fun _ => none) (getPort s q).rx pool with
      | none => firstFlit s q pool flit
      | some (r : RxPkt) =>
        let r' := { r with got := r.got + 1 }
        match r.dest with
        | .own => ({ r' with data := r.data ++ flit }, freeFlit s q pool)
        | .port out => (r', passFlit s q pool out flit)
        | .drop => (r', freeFlit s q pool)
    let x := getPort r.2 q
    if r.1.got < r.1.total then setPort r.2 q { x with rx := tabSet (fun _ => none) x.rx pool (some r.1) }
    else
      let s := setPort r.2 q { x with rx := tabSet (fun _ => none) x.rx pool none }
      match r.1.dest with
      | .own =>
        let f := fabHeadOf r.1.data
        fabArrive dlv { f with phase := if globalPort q then (f.phase + 1) % 4 else f.phase } s
      | _ => s

/-- What a frame's decoding adds to the port's counts (R287). -/
def decoded (x : Port) (f : Frame) : Port :=
  { x with fecCorr := x.fecCorr + BitVec.ofNat 64 f.corrected,
           fecUncorr := (List.range (min 2 f.uncorrectable)).foldl (fun v _ => sat32 v) x.fecUncorr }

/-- FRAME_RECEIVE (R252): a frame that fails is discarded and asked for again. -/
def frameIn (dlv : FabPkt → State → State) (q : Nat) (f : Frame) (s : State) : State :=
  let x := getPort s q
  if 32 ≤ q ∨ x.st ≠ 2 then s
  else if !frameGood x f then setPort s q { decoded x f with nak := true, crcErr := sat32 x.crcErr }
  else
    let s := frameControl (setPort s q { decoded x f with rxNext := x.rxNext + 1, nak := false }) q f.bytes
    (List.range 19).foldl (fun s i => takeFlit dlv q (frameTag f.bytes (i + 1)) (sliceZ f.bytes (64 * (i + 1)) 64) s) s

/-! ### Keys and routes (R286, R288) -/

/-- LINK_KEY_ROTATE (R286, spec/13 R369): at 2^39 packets the sender begins a new agreement. -/
def execLinkKeyRotate (slot peer keyix : Nat) (s : State) : Host.Outcome State Fault Refusal :=
  match s.fab.keys.find? (fun k => k.slot == slot && k.peer == peer && k.keyix == keyix) with
  | none => .next s
  | some k => if k.sent < 2 ^ 39 ∨ (keysOf s slot peer).length = 4 then .next s else .next (kexStart s slot peer [])

/-- LINK_KEY_WAIT_TIMEOUT (R286): packets have waited 10 ms for a key past 2^40; their contexts are LOST. -/
def execLinkKeyWaitTimeout (slot peer : Nat) (s : State) : Host.Outcome State Fault Refusal :=
  if !(keysOf s slot peer).any (fun k => k.waiting) then .next s
  else
    let ctxs := heldCtxs s slot peer
    let s := { s with fab := { s.fab with
      kex := s.fab.kex.map (fun x => if x.slot == slot && x.peer == peer then { x with held := [] } else x),
      keys := s.fab.keys.map (fun k => if k.slot == slot && k.peer == peer then { k with waiting := false } else k) } }
    .next (wakeAll (loseAll ctxs stLost 0 s))

/-- A write of DEV_RT_DATA2 (R288): the selected stook's entry is committed as a whole. -/
def rtCommit (v : W32) (s : State) : State :=
  let k := s.dev.rtSel.toNat
  let old := (tabGet (fun _ => (0 : BitVec 96)) s.dev.rt k).toNat
  let d0 := match s.dev.rtStage0 with | some w => w.toNat | none => fld old 0 32
  let d1 := match s.dev.rtStage1 with | some w => w.toNat | none => fld old 32 32
  let e : BitVec 96 := BitVec.ofNat 96 (d0 + d1 * 2 ^ 32 + v.toNat * 2 ^ 64)
  { s with dev := { s.dev with rt := tabSet (fun _ => 0) s.dev.rt k e, rtStage0 := none, rtStage1 := none } }

/-! ### Liveness (spec/11 R323) -/

/-- A NOP, QUIET, to the module at a port's other end; held while its flow's marker is outstanding (R259). -/
def sendNop (s : State) (q : Nat) : State :=
  let f := commandPkt s (getPort s q).peerModule 0 0 (mgmtUnit s) q { quiet := true }
  let t := (findTx s (flowOf f)).getD { key := flowOf f, port := q }
  let f := { f with flowSeq := t.next }
  if t.marker.isSome then setTx s { t with next := t.next + 1, held := t.held ++ [f] }
  else putOut (setTx s { t with next := t.next + 1 }) q (onPath t f)

/-- LIVENESS_NOP: a NOP, QUIET, on every UP port whose role is not unused. -/
def execLivenessNop (s : State) : Host.Outcome State Fault Refusal :=
  let qs := (List.range 32).filter (fun q => portUp s q && decide (roleOf s q ≠ 0))
  .next (qs.foldl sendNop s)

end Sys2Proof.Machine
end

