-- ==== Sys2Proof/Machine/RegRead.lean ====
section
/-! DEFINITION. What registers read as (spec/15 R387, R390, R397): the block map, the words of every block in the order of
the tables of spec/01 to spec/15, the rules by which confidential slots hide theirs (spec/13 R370), and a read with its
latching. -/
namespace Sys2Proof.Machine

/-! ### Addresses (R387) -/

/-- The decode width of a block: none for an unassigned block. -/
def blockWidth (b : Nat) : Option Nat :=
  if b = 0 then some 11
  else if b = 1 then some 4
  else if b = 2 then some 6
  else if b = 3 then some 4
  else if b = 4 then some 14
  else if b = 5 then some 5
  else if b = 6 then some 5
  else if 0x10 ≤ b ∧ b ≤ 0x1F then some 10
  else if b = 0x20 ∨ b = 0x21 then some 5
  else if b = 0x30 ∨ b = 0x40 then some 5
  else if 0x80 ≤ b ∧ b ≤ 0x8B then some 13
  else if 0xC0 ≤ b ∧ b ≤ 0xDF then some 9
  else if b = 0xE0 ∨ b = 0xE1 then some 9
  else if 0x100 ≤ b ∧ b ≤ 0x123 then some 13
  else if b = 0x200 then some 7
  else if b = 0x210 then some 9
  else if b = 0x220 ∨ b = 0x230 then some 5
  else none

/-- The half that owns a block, none for the module: which half must be powered to reach it. -/
def blockHalf (b off : Nat) : Option Nat :=
  if 0x10 ≤ b ∧ b ≤ 0x1F then (if off < 0x100 then some ((b - 0x10) / 8) else none)
  else if b = 0x20 ∨ b = 0x21 then some (b - 0x20)
  else if 0x80 ≤ b ∧ b ≤ 0x8B then some ((b - 0x80) / 6)
  else if 0xC0 ≤ b ∧ b ≤ 0xDF then some ((b - 0xC0) / 16)
  else if b = 0xE0 ∨ b = 0xE1 then some (b - 0xE0)
  else if 0x100 ≤ b ∧ b ≤ 0x123 then some ((b - 0x100) / 18)
  else none

/-- A decoded register address. `form`: 0 direct, 1 SET, 2 CLEAR, 3 TOGGLE. -/
structure RegAt where
  blk : Nat
  form : Nat
  off : Nat
deriving DecidableEq, Repr

def regBase : Nat := 0x3F000000000
def inRegSpace (a : Nat) : Bool := decide (regBase ≤ a) && decide (a < regBase + 2 ^ 32)

/-- An address decoded: none where it is not a multiple of 4, outside register space, or in an unassigned block. -/
def regAt (a : Nat) : Option RegAt :=
  if a % 4 ≠ 0 || !inRegSpace a then none
  else
    let b := (a - regBase) / 65536
    let o := (a - regBase) % 65536
    (blockWidth b).map (fun w => { blk := b, form := o / 2 ^ 14, off := o % 2 ^ 14 % 2 ^ w })

/-- Whether the half that owns a register's block is powered and not stopped (R397, R398 step 4). -/
def blockServed (s : State) (r : RegAt) : Bool :=
  match blockHalf r.blk r.off with
  | some h => decide (halfPwr s h < 2)
  | none => true

/-- The entry of a list of words by offset; an offset that holds no register reads as zero (R387). -/
def regPick (o : Nat) (l : List (Nat × Nat)) : Nat := ((l.find? (fun e => e.1 == o)).map (fun e => e.2)).getD 0

def lo32 (x : W64) : Nat := x.toNat % 2 ^ 32
def hi32 (x : W64) : Nat := x.toNat / 2 ^ 32

/-- A unit's state as SHF_CORE_STATE.UNIT encodes it (spec/04 R121). -/
def unitCode (s : State) (u : UnitRef) : Nat :=
  match unitSt s u with
  | .quarantine => 0
  | .scrub => 1
  | .bist => 2
  | .ready => 3
  | .failed => 4

/-- Whether a path is QP 0 of a Haldip port (spec/13 R370). -/
def onQp0 (path : Nat) : Bool := decide (path ≤ 1)

/-- Whether a context belongs to a confidential slot. -/
def ctxConf (s : State) (c : Nat) : Bool := decide ((getCtx s c).st ≠ 0) && (getSlot s (getCtx s c).slot).brec.conf

/-! ### Block DEV -/

/-- Whether a channel is in service for the distance map: READY, or at boot not yet scrubbed, since the map's reset value is
the entry of an in-service channel (R28). -/
def chanInMap (s : State) (n : Nat) : Bool := chanReady s n || (s.dev.phase == .boot && unitSt s ⟨2, n⟩ == .scrub)

/-- DEV_DIST_DATA (spec/01 R28, R29). -/
def distData (s : State) : Nat :=
  let m := s.dev.distSheaf.toNat
  let n := s.dev.distChan.toNat
  if 35 < m ∨ 191 < n then 0xFF else if !chanInMap s n then 0xFF else distWord m n

/-- The route entry of the selected stook (spec/09 R288). -/
def rtEntry (s : State) : Nat := (tabGet (fun _ => (0 : BitVec 96)) s.dev.rt s.dev.rtSel.toNat).toNat

/-- A half's counter as registers show it: zero in FROST (spec/01 R33). -/
def cntShown (s : State) (h : Nat) : W64 := if halfPwr s h = 2 then 0 else cntOf s h

/-- The registers of block DEV. -/
def devRegs (s : State) (path : Nat) : List (Nat × Nat) :=
  let d := s.dev
  let n := d.colsSel.toNat
  let x := getStream s n
  let hide := ctxConf s x.ctx && !onQp0 path
  let ac := d.chremapSel.toNat
  [ (0x000, 0x2448 + d.stepping.toNat * 2 ^ 16 + 2 ^ 24),
    (0x010, 0x50 + d.strap.toNat + d.strap.toNat * 2 ^ 7),
    (0x014, d.smbDiscard.toNat), (0x018, d.smbNack.toNat),
    (0x100, d.distSheaf.toNat + d.distChan.toNat * 2 ^ 8), (0x104, distData s),
    (0x110, ac),
    (0x114, if 191 < ac then 0xFF else pchanOf s ac + b2n (s.mem.migr.any (fun m => m.src == pchanOf s ac)) * 2 ^ 8),
    (0x200, lo32 (cntShown s 0)), (0x204, hi32 (cntShown s 0)), (0x208, lo32 (cntShown s 1)), (0x20C, hi32 (cntShown s 1)) ] ++
  [ (0x400, d.fabId.toNat), (0x410, d.rtSel.toNat),
    (0x414, rtEntry s % 2 ^ 32), (0x418, rtEntry s / 2 ^ 32 % 2 ^ 32), (0x41C, rtEntry s / 2 ^ 64),
    (0x420, d.adaptBias.toNat + d.adaptStall.toNat * 2 ^ 8 + b2n d.nonminEn * 2 ^ 16),
    (0x430, d.fabDup.toNat), (0x434, d.fabGap.toNat), (0x438, d.fabBadKind.toNat), (0x43C, d.fabNoRoute.toNat),
    (0x440, d.fabGcmFail.toNat), (0x500, n) ] ++
  [ (0x504, if hide then 0 else x.ctx), (0x508, x.ring % 2 ^ 32), (0x50C, x.ring / 2 ^ 32),
    (0x510, if hide then 0 else x.log2), (0x514, x.door.toNat), (0x518, x.doneEvt.toNat),
    (0x51C, if hide then 0 else x.st + x.err.toNat * 2 ^ 8), (0x520, x.timeout.toNat),
    (0x524, lo32 x.count), (0x528, hi32 x.count) ]

/-! ### Blocks CLK, PWR, THM (spec/15, spec/12 R353) -/

/-- A half's core clock: 0 in FROST or STOPPED, and before the module is ready. -/
def coreMhz (s : State) (h : Nat) : Nat := if halfPwr s h < 2 ∧ s.dev.phase = .ready then s.pwr.cur.toNat else 0

def clkRegs (s : State) : List (Nat × Nat) :=
  let d := s.dev
  [ (0x0, d.pll0.toNat + d.pll1.toNat * 2 ^ 4 + b2n d.pllMgmt * 2 ^ 8 + b2n d.onFio * 2 ^ 9),
    (0x4, coreMhz s 0 + coreMhz s 1 * 2 ^ 12), (0x8, d.fio0.toNat + d.fio1.toNat * 2 ^ 9) ]

def pwrRegs (s : State) : List (Nat × Nat) :=
  let p := s.pwr
  [ (0x00, pwrState s), (0x04, b2n p.lullEn + p.lullIdle.toNat * 2), (0x08, p.limit.toNat), (0x0C, capEff s),
    (0x10, p.est.toNat), (0x14, p.tel.toNat), (0x18, p.duty),
    (0x1C, p.cur.toNat + p.fmax.toNat * 2 ^ 12 + p.memf.toNat * 2 ^ 24),
    (0x20, p.thresh.toNat + p.squalls.toNat * 2 ^ 8), (0x24, b2n p.diverge + p.diverges.toNat * 2),
    (0x28, b2n p.shiftEn + p.shiftLead.toNat * 2 + p.shiftRange.toNat * 2 ^ 15),
    (0x2C, lowBits 32 p.offset), (0x30, p.reduction), (0x34, p.hintKind.toNat + p.hintIgnored.toNat * 2 ^ 4) ]

/-- THM_DATA. -/
def thmData (s : State) : Nat :=
  let n := s.pwr.thmSel.toNat
  if 49 < n ∨ halfOff s (halfOfSensor n) then 0x8000 else lowBits 16 (tabGet (fun _ => 0) s.pwr.temps n)

def thmRegs (s : State) : List (Nat × Nat) :=
  [ (0x0, s.pwr.thmSel.toNat), (0x4, thmData s), (0x8, s.pwr.throttle.toNat + s.pwr.crit.toNat * 2 ^ 8),
    (0xC, b2n s.dev.thermAlert + b2n s.dev.coolantFault * 2 + b2n s.pwr.hbm2x * 4) ]

/-! ### Block RES (spec/11 R328) -/

/-- Sections of a dump (R326). -/
def dumpSections : List Nat := [0x1000, 0x81000, 0x1081000, 0x1085000, 0x1185000, 0x1195000, 0x3195000]

/-- The header words of a dump, in the order R326 names them (notes/assumptions/36.md), without the CRC. -/
def dumpHead (d : Dump) : List W32 :=
  [0x474C4E31, d.seq, d.epoch, BitVec.ofNat 32 (d.cls + d.sev * 2 ^ 8), d.logSeq, BitVec.ofNat 32 (lo32 d.cnt0), BitVec.ofNat 32 (hi32 d.cnt0),
   BitVec.ofNat 32 (lo32 d.cnt1), BitVec.ofNat 32 (hi32 d.cnt1)] ++ dumpSections.map (BitVec.ofNat 32)

/-- The word of a dump at a byte offset: header, error log, registers; sections whose layout the spec does not give are
free words. -/
def dumpWord (d : Dump) (o : Nat) : W32 :=
  if o < 0x1000 then
    (dumpHead d ++ [crc32c (wordBytes (dumpHead d))]).getD (o / 4) 0
  else if o < 0x81000 then
    match tabGet (fun _ => none) d.log ((o - 0x1000) / 64) with
    | some r => BitVec.ofNat 32 (numAt (logBytes r true) (o % 64) 4)
    | none => 0
  else if o < 0x1081000 then tabGet (fun _ => 0) d.regs ((o - 0x81000) / 4)
  else if o < 0x3195000 then Config.dumpWord d.seq (o / 4)
  else 0

/-- RES_GLEAN_DATA: a word of the selected page of the selected half's gleanings; zero while the half is fenced or in FROST. -/
def gleanWord (s : State) (i : Nat) : Nat :=
  let h := b2n s.res.gleanHalf
  if halfOff s h then 0
  else
    let page := s.res.gleanSel.toNat
    match (tabGet (fun _ => []) s.res.dumps h).find? (fun d => d.pos == page / 8192) with
    | some d => (dumpWord d (page % 8192 * 8192 + 4 * i)).toNat
    | none => 0

/-- RES_LOG_DATA: a word of the selected record, with what confidential slots hide as zero (R309). -/
def logWord (s : State) (i : Nat) : Nat :=
  match tabGet (fun _ => none) s.res.log s.res.logSel.toNat with
  | some r => numAt (logBytes r true) (4 * i) 4
  | none => 0

def resRegs (s : State) : List (Nat × Nat) :=
  let r := s.res
  let c := r.scale.toNat
  [ (0x00, c),
    (0x08, coresReserved c + min 127 (spareCores s).length * 2 ^ 7 + chansReserved c * 2 ^ 14 + min 255 (spareChans s).length * 2 ^ 18),
    (0x0C, b2n r.winnow7), (0x10, r.samples.toNat), (0x14, r.mismatch.toNat), (0x18, r.abandon.toNat), (0x1C, r.ceThresh.toNat),
    (0x20, b2n r.rptPort + b2n r.failover * 2), (0x24, r.rptDrop.toNat), (0x28, r.logHead.toNat), (0x2C, r.logSeq.toNat),
    (0x30, r.logOver.toNat), (0x34, r.epoch.toNat) ] ++
  [ (0x38, r.escSheaf.toNat + r.escHalf.toNat * 2 ^ 8 + r.escModule.toNat * 2 ^ 16),
    (0x3C, b2n r.active + b2n r.dormantOk * 2 + r.failovers.toNat * 2 ^ 8), (0x40, r.peerFail.toNat % 2 ^ 14),
    (0x44, s.units.svcCmd.toNat % 2 ^ 18), (0x48, b2n s.units.svcBusy + s.units.svcStatus.toNat * 2 ^ 16),
    (0x4C, b2n r.gleanHalf * 2), (0x50, r.gleanSel.toNat), (0x54, r.logSel.toNat) ]

/-- A word of block RES. -/
def resReg (s : State) (o : Nat) : Nat :=
  if 0x2000 ≤ o then gleanWord s ((o - 0x2000) / 4)
  else if 0x1000 ≤ o ∧ o < 0x1040 then logWord s ((o - 0x1000) / 4)
  else regPick o (resRegs s)

/-! ### Blocks LCK and CRC (spec/15) -/

def lckRegs (s : State) : List (Nat × Nat) :=
  let bits (f : PathSt → Bool) : Nat := ((List.range 5).map (fun p => b2n (f (getPath s p)) * 2 ^ p)).sum
  [ (0x08, bits (fun x => x.armed) + bits (fun x => x.pendingW.isSome) * 2 ^ 8), (0x0C, s.lck.viol.toNat), (0x10, s.lck.rsvWr.toNat) ]

def crcRegs (s : State) : List (Nat × Nat) :=
  let k := s.lck
  [ (0x00, b2n k.crcEn), (0x08, k.crcRef.toNat), (0x10, k.crcCur.toNat), (0x14, b2n k.drift + b2n k.grace * 2), (0x18, k.driftCnt.toNat) ]

/-! ### Block SEQ (spec/07 R209, spec/10) -/

/-- SEQ_RUN_INFO.STATE. -/
def runCode (x : Run) : Nat :=
  match x.wait with
  | .ending => 4
  | .none => 1
  | _ => if x.ahead then 3 else 2

def seqRegs (s : State) (b : Nat) : List (Nat × Nat) :=
  let n := b - 0x10
  let own := [(0x000, unitCode s ⟨7, n⟩ + runsOnCore s n * 2 ^ 3), (0x004, (tabGet (fun _ => (0 : W32)) s.seq.pfIssued n).toNat),
    (0x008, (tabGet (fun _ => (0 : W32)) s.seq.pfDiscard n).toNat)]
  if b ≠ 0x10 then own
  else
    let r := s.seq.runSel.toNat
    let run : Nat × Nat × Nat := match getRun s r with
      | none => (0, incarnOf s r * 2 ^ 16, 0)
      | some x =>
        if (getSlot s x.slot).brec.conf then (0, 0, 0)
        else (runCode x + x.core * 2 ^ 3 + x.cls * 2 ^ 7 + x.prog * 2 ^ 10 + x.ctx * 2 ^ 21 + b2n x.ovf * 2 ^ 31,
              x.ver + incarnOf s r * 2 ^ 16, x.pc % 2 ^ 16)
    let prog := match getProg s s.seq.progSel.toNat with
      | none => 0
      | some g =>
        if (getSlot s g.slot).brec.conf then 0
        else (if g.retiring.isSome then 2 else 1) + g.slot * 2 ^ 2 + g.versions.length * 2 ^ 8 + g.current * 2 ^ 16
    let used (h : Nat) : Nat := (s.seq.kv.filter (fun k => k.half == h)).length
    own ++
    [ (0x100, r), (0x104, run.1), (0x108, run.2.1), (0x10C, run.2.2), (0x200, s.seq.progSel.toNat), (0x204, prog),
      (0x208, storeFree s / 1024), (0x300, used 0 + used 1 * 2 ^ 16), (0x304, s.seq.kvConflict.toNat), (0x308, s.seq.kvWait.toNat),
      (0x30C, (s.mem.zpend.map (fun e => e.2)).foldl max 0), (0x310, lo32 s.seq.kvCommits), (0x314, hi32 s.seq.kvCommits),
      (0x318, lo32 s.seq.kvRollbacks), (0x31C, hi32 s.seq.kvRollbacks) ]

/-! ### Blocks EVT, QPT, XLT, HBM (spec/06, spec/08) -/

def evtRegs (s : State) (h : Nat) : List (Nat × Nat) :=
  let i := (tabGet (fun _ => (0 : BitVec 15)) s.ev.sel h).toNat
  let e := 32768 * h + i
  let x := getEv s e
  let hide := (x.st == 1 || x.st == 2) && (getSlot s x.slot).brec.conf
  let waiters := min 1023 (s.ev.waits.filter (fun w => w.ev == e)).length
  let reg : W64 := tabGet (fun _ => 0) s.ev.regress h
  [ (0x00, i), (0x04, if hide then 0 else lo32 x.val), (0x08, if hide then 0 else hi32 x.val),
    (0x0C, if hide then 0 else x.st + x.ctx * 2 ^ 2 + x.slot * 2 ^ 12 + waiters * 2 ^ 18),
    (0x10, lo32 reg), (0x14, hi32 reg), (0x18, (tabGet (fun _ => (0 : W32)) s.ev.deadlock h).toNat) ]

/-- QPT_STARTED and QPT_DUP_CNT of a confidential context read as zero on every path; QP_QUERY shows them (R168). -/
def qptRegs (s : State) (path : Nat) : List (Nat × Nat) :=
  let n := s.fe.qptSel.toNat
  let (w, e, c, d) := qptWords s (if path = 1 then 1 else 0) n
  [ (0x00, n), (0x04, w.toNat), (0x08, e.toNat), (0x0C, if qpConf s n then 0 else c.toNat), (0x10, if qpConf s n then 0 else d.toNat) ]

def xltRegs (s : State) : List (Nat × Nat) :=
  let x := s.xlt
  [ (0x00, (x.fq.filter (fun e => e.2.isSome)).length + min 1023 x.stalled.length * 2 ^ 9), (0x04, x.quota.toNat),
    (0x08, lo32 x.ovf), (0x0C, hi32 x.ovf), (0x10, lo32 x.walks), (0x14, hi32 x.walks), (0x18, x.invalCnt.toNat) ]

/-- RETIRED granules of a physical channel. -/
def retiredOn (s : State) (n : Nat) : Nat := (s.mem.tags.filter (fun e => e.2.st == 3 && pchanOf s (e.1 / 1152) == n)).length

def hbmReg (s : State) (b o : Nat) : Nat :=
  let st := b - 0x80
  let sel := (tabGet (fun _ => (0 : BitVec 15)) s.mem.tagSel st).toNat
  if 0x1000 ≤ o ∧ o < 0x1200 then
    let n := 16 * st + (o - 0x1000) / 0x20
    let x := getChan s n
    let held := match holderOfChan s n with | some i => i * 2 ^ 3 + 2 ^ 9 | none => 0
    regPick (o % 0x20) [(0x00, unitCode s ⟨2, n⟩ + held), (0x04, x.ce.toNat), (0x08, x.ue.toNat), (0x0C, x.scrub.toNat), (0x10, retiredOn s n)]
  else if o = 0x100 then sel
  else if o = 0x104 then
    (if 1151 < sel / 16 then 0 else (tagWord (getTag s (false, achanFor s (16 * st + sel % 16) * 1152 + sel / 16))).toNat)
  else 0

/-! ### Blocks FAB, HLD, SHF (spec/09 R287, spec/06, spec/04 R121) -/

def fabRegs (s : State) (path q : Nat) : List (Nat × Nat) :=
  let x := getPort s q
  let slot := x.shareSel.toNat
  let b := (getSlot s slot).brec
  let share := tabGet (fun _ => 0) b.share q
  let hide := b.conf && decide (share ≠ 0) && !onQp0 path
  [ (0x000, x.cfg.toNat),
    (0x004, x.st + x.spareTx * 2 ^ 3 + x.spareRx * 2 ^ 6 + x.lanesOk.toNat * 2 ^ 9 + x.flight.toNat * 2 ^ 14),
    (0x008, unitCode s ⟨4, q⟩), (0x00C, x.peerModule + x.peerPort * 2 ^ 14), (0x010, lo32 x.fecCorr), (0x014, hi32 x.fecCorr),
    (0x018, x.fecUncorr.toNat), (0x01C, x.crcErr.toNat), (0x020, x.replay.toNat), (0x024, x.retrain.toNat + x.spared.toNat * 2 ^ 16),
    (0x028, x.transit.toNat), (0x100, slot), (0x104, if hide then 0 else share + b2n (b.conf && decide (share ≠ 0)) * 2 ^ 8) ]

def hldRegs (s : State) (h : Nat) : List (Nat × Nat) :=
  let x := getFe s h
  [ (0x100, x.rxDiscard.toNat), (0x104, x.refused.toNat), (0x108, x.replyDrop.toNat) ]

/-- Whether a core holds a tenancy of a confidential slot. -/
def coreConf (s : State) (c : Nat) : Bool := (onCore s c).any (fun x => (getSlot s x.slot).brec.conf)

def shfReg (s : State) (b o : Nat) : Nat :=
  if o < 0x1000 ∨ 0x1400 ≤ o then 0
  else
    let c := 16 * (b - 0x100) + (o - 0x1000) / 0x40
    let x := getCore s c
    let conf := coreConf s c
    let l := onCore s c
    let resident := l.filter isResident
    let state := unitCode s ⟨0, c⟩ + b2n conf * 2 ^ 3 + (if conf then 0 else
      ((List.range 4).map (fun b => b2n ((baysUsed s c).contains b) * 2 ^ b)).sum * 2 ^ 4 + l.length * 2 ^ 8 + unitsUsed s c * 2 ^ 13
        + x.queue.length * 2 ^ 18 + b2n (!resident.isEmpty && resident.all isBlocked) * 2 ^ 23)
    regPick (o % 0x40) [(0x00, state), (0x04, (unitGen s ⟨0, c⟩).toNat), (0x08, x.slice.toNat),
      (0x0C, if conf then 0 else x.preemptCnt.toNat), (0x10, if conf then 0 else x.evictCnt.toNat)]

/-! ### Blocks SEC, WGB, PRT, CTX (spec/13 R371, spec/14 R385, spec/02 R48) -/

def secRegs (s : State) : List (Nat × Nat) :=
  let x := s.sec
  let n := x.serial.toNat
  [ (0x00, x.lc % 8 + b2n (testRoot s) * 2 ^ 3 + b2n x.cert.isSome * 2 ^ 4), (0x04, x.epoch.toNat),
    (0x10, n % 2 ^ 32), (0x14, n / 2 ^ 32 % 2 ^ 32), (0x18, n / 2 ^ 64 % 2 ^ 32), (0x1C, n / 2 ^ 96),
    (0x20, x.updCnt.toNat), (0x24, x.fwVer.toNat), (0x28, x.fwFloor.toNat), (0x2C, x.cur % 2 ^ 21), (0x30, x.lim % 2 ^ 21),
    (0x34, x.attGen.toNat % 2 ^ 16 + x.attUsed % 2 ^ 11 * 2 ^ 16), (0x38, b2n x.trngOk + x.trngFails.toNat * 2),
    (0x3C, x.kexCnt.toNat), (0x40, x.kexFail.toNat) ]

def wgbRegs (s : State) : List (Nat × Nat) :=
  let m := s.wb.mirror
  let e := m.attr.getD m.attrSel.toNat (0, 0, 0)
  [ (0x000, b2n m.present + b2n m.sealOk * 2 + b2n m.paired * 4 + b2n m.feedOk * 8 + b2n m.auditFull * 16),
    (0x004, m.power.toNat), (0x008, lo32 m.energy), (0x00C, hi32 m.energy), (0x010, lo32 m.secNo), (0x014, hi32 m.secNo),
    (0x018, m.blockNo.toNat), (0x01C, m.fwChanges.toNat + m.pairings.toNat * 2 ^ 16), (0x020, m.vMin.toNat + m.vMax.toNat * 2 ^ 16),
    (0x024, m.feedRej.toNat), (0x100, m.attrSel.toNat), (0x104, e.1), (0x108, e.2.1), (0x10C, e.2.2 % 2 ^ 32), (0x110, e.2.2 / 2 ^ 32) ]

/-- PRT: a bound slot reads REBINDING while a re-binding is in progress (R52). -/
def prtRegs (s : State) : List (Nat × Nat) :=
  let i := s.part.prtSel.toNat
  let x := getSlot s i
  let bd := decide (x.st ≠ 0)
  let own := ownModule s
  let st := if x.st = 2 ∧ rebinding s i then 3 else x.st
  [ (0x00, i), (0x04, st + b2n x.brec.conf * 2 ^ 4 + b2n (bd && x.brec.lead == own) * 2 ^ 5 + b2n (bd && x.brec.deputy == own) * 2 ^ 6),
    (0x08, x.pgen.toNat), (0x0C, if x.st = 0 then 0 else x.brec.pid), (0x10, lo32 x.chaff), (0x14, hi32 x.chaff),
    (0x18, lo32 s.part.orphan), (0x1C, hi32 s.part.orphan) ]

def ctxRegs (s : State) (path : Nat) : List (Nat × Nat) :=
  let c := s.part.ctxSel.toNat
  let x := getCtx s c
  let hide := ctxConf s c && !onQp0 path
  let t := match x.table with | some k => fpaOf s (granBase (false, k)) | none => 0
  [ (0x00, c), (0x04, x.st + (if x.st = 0 then 0 else x.slot) * 2 ^ 2), (0x08, x.gen.toNat), (0x0C, b2n x.fgxOvf + b2n x.relaxed * 2),
    (0x10, if hide then 0 else x.ranges.length + b2n x.eotha * 2 ^ 17 + min 63 (fqHeld s c) * 2 ^ 18),
    (0x14, if hide then 0 else t % 2 ^ 32), (0x18, if hide then 0 else t / 2 ^ 32) ]

/-! ### A read -/

/-- The key of a register in `Dev.rsv` and in a dump. -/
def regKey (r : RegAt) : Nat := 4096 * r.blk + r.off / 4

/-- Whether what a confidential slot hides makes a whole register read as zero on a path (spec/13 R370). -/
def regHidden (s : State) (path : Nat) (r : RegAt) : Bool :=
  let b := r.blk
  let o := r.off
  let slotConf (i : Nat) : Bool := (getSlot s i).brec.conf
  if b = 0 then [0x504, 0x510, 0x51C].contains o && ctxConf s (getStream s s.dev.colsSel.toNat).ctx && !onQp0 path
  else if b = 0x10 then
    ([0x104, 0x108, 0x10C].contains o && (match getRun s s.seq.runSel.toNat with | some x => slotConf x.slot | none => false))
      || (o == 0x204 && (match getProg s s.seq.progSel.toNat with | some g => slotConf g.slot | none => false))
  else if b = 0x20 ∨ b = 0x21 then
    let x := getEv s (32768 * (b - 0x20) + (tabGet (fun _ => (0 : BitVec 15)) s.ev.sel (b - 0x20)).toNat)
    [0x04, 0x08, 0x0C].contains o && (x.st == 1 || x.st == 2) && slotConf x.slot
  else if 0xC0 ≤ b ∧ b ≤ 0xDF then
    let x := getPort s (b - 0xC0)
    o == 0x104 && slotConf x.shareSel.toNat && decide (tabGet (fun _ => 0) (getSlot s x.shareSel.toNat).brec.share (b - 0xC0) ≠ 0) && !onQp0 path
  else if b = 0x230 then [0x10, 0x14, 0x18].contains o && ctxConf s s.part.ctxSel.toNat && !onQp0 path
  else false

/-- The word a register reads as on a path, before any latching; reserved bits written in DEBUG or RMA are live (R389), but for a
register that a confidential slot hides. -/
def regVal (s : State) (path : Nat) (r : RegAt) : W32 :=
  let b := r.blk
  let o := r.off
  (if regHidden s path r then 0 else tabGet (fun _ => 0) s.dev.rsv (regKey r)) ||| BitVec.ofNat 32 (
    if b = 0 then regPick o (devRegs s path)
    else if b = 1 then regPick o (clkRegs s)
    else if b = 2 then regPick o (pwrRegs s)
    else if b = 3 then regPick o (thmRegs s)
    else if b = 4 then resReg s o
    else if b = 5 then regPick o (lckRegs s)
    else if b = 6 then regPick o (crcRegs s)
    else if 0x10 ≤ b ∧ b ≤ 0x1F then regPick o (seqRegs s b)
    else if b = 0x20 ∨ b = 0x21 then regPick o (evtRegs s (b - 0x20))
    else if b = 0x30 then regPick o (qptRegs s path)
    else if b = 0x40 then regPick o (xltRegs s)
    else if 0x80 ≤ b ∧ b ≤ 0x8B then hbmReg s b o
    else if 0xC0 ≤ b ∧ b ≤ 0xDF then regPick o (fabRegs s path (b - 0xC0))
    else if b = 0xE0 ∨ b = 0xE1 then regPick o (hldRegs s (b - 0xE0))
    else if 0x100 ≤ b ∧ b ≤ 0x123 then shfReg s b o
    else if b = 0x200 then regPick o (secRegs s)
    else if b = 0x210 then regPick o (wgbRegs s)
    else if b = 0x220 then regPick o (prtRegs s)
    else if b = 0x230 then regPick o (ctxRegs s path)
    else 0)

/-- The _LO registers (R390): block prefix by its first block, offset. -/
def isLo (b o : Nat) : Bool :=
  if b = 0 then [0x200, 0x208, 0x508, 0x524].contains o
  else if b = 0x10 then [0x310, 0x318].contains o
  else if b = 0x20 ∨ b = 0x21 then [0x04, 0x10].contains o
  else if b = 0x40 then [0x08, 0x10].contains o
  else if 0xC0 ≤ b ∧ b ≤ 0xDF then o == 0x10
  else if b = 0x210 then [0x08, 0x10, 0x10C].contains o
  else if b = 0x220 then [0x10, 0x18].contains o
  else if b = 0x230 then o == 0x14
  else false

/-- What a path's shadow of a block holds: the _LO offset read last (0: another register was) and the high word latched. -/
def shadowOf (s : State) (path b : Nat) : Nat × W32 := tabGet (fun _ => (0, 0)) (getPath s path).shadow b
def setShadow (s : State) (path b : Nat) (x : Nat × W32) : State :=
  let p := getPath s path
  setPath s path { p with shadow := tabSet (fun _ => (0, 0)) p.shadow b x }

/-- A read (R390): _LO latches its high word, the next read of its _HI returns it; reading word 15 of a log record marks the
record read (spec/11 R309). -/
def regRead (s : State) (path : Nat) (r : RegAt) : W32 × State :=
  let v := regVal s path r
  let sh := shadowOf s path r.blk
  if isLo r.blk r.off then (v, setShadow s path r.blk (r.off, regVal s path { r with off := r.off + 4 }))
  else
    let hi := isLo r.blk (r.off - 4) && sh.1 == r.off - 4 && decide (4 ≤ r.off)
    let s := setShadow s path r.blk (0, 0)
    let s := if r.blk = 4 ∧ r.off = 0x103C then
        match tabGet (fun _ => none) s.res.log s.res.logSel.toNat with
        | some l => markLogRead s l.seq
        | none => s
      else s
    (if hi then sh.2 else v, s)

/-! ### Dumps (spec/11 R326) -/

/-- Offsets at which a block has registers: those below its decode width. -/
def blockOffs (b : Nat) : List Nat :=
  match blockWidth b with
  | some w => (List.range (2 ^ w / 4)).map (fun i => 4 * i)
  | none => []

/-- Every register, read as the TAP reads it, by 4,096 block + offset / 4; zeros are not listed. -/
def regSnapshot (s : State) : Tab W32 :=
  (List.range 0x231).flatMap (fun b => (blockOffs b).filterMap (fun o =>
    let r : RegAt := { blk := b, form := 0, off := o }
    let v := if blockServed s r then regVal s 4 r else 0
    if v = 0 then none else some (4096 * b + o / 4, v)))

/-- A dump written to a half's gleanings: metadata only, the oldest of sixteen replaced. -/
def writeDump (s : State) (half cls sev : Nat) : State :=
  let l := tabGet (fun _ => []) s.res.dumps half
  let pos := match l.getLast? with | some d => (d.pos + 1) % 16 | none => 0
  let d : Dump := { pos := pos, seq := s.res.dumpSeq, epoch := s.res.epoch, cls := cls, sev := sev, logSeq := s.res.logSeq,
                    cnt0 := s.dev.cnt0, cnt1 := s.dev.cnt1, log := s.res.log, regs := regSnapshot s }
  { s with res := { s.res with
      dumpSeq := s.res.dumpSeq + 1, dumps := tabSet (fun _ => []) s.res.dumps half (l.filter (fun e => !(e.pos == pos)) ++ [d]) } }

end Sys2Proof.Machine
end

