-- ==== Sys2Proof/Machine/UnitOps.lean ====
section
/-! DEFINITION. Re-entry of units (spec/02 R63) and the failure of a channel (spec/11 R306). -/
namespace Sys2Proof.Machine

/-- The storage of a unit zeroed (R63). -/
def scrubUnit (s : State) (u : UnitRef) : State :=
  match u.kind with
  | 0 =>
    let s := setCore s u.idx { getCore s u.idx with queue := [], spill := [], confCtx := none, keeps := [], icache := [] }
    { s with xlt := { s.xlt with micro := tabSet (fun _ => []) s.xlt.micro u.idx [] } }
  | 1 =>
    let s := zeroSpan s (storeBase + u.idx * 0x400000) 0x400000
    { s with xlt := { s.xlt with tlb := tabSet (fun _ => []) s.xlt.tlb u.idx [] } }
  | 2 =>
    let a := achanFor s u.idx
    let s := (List.range 1152).foldl (fun s g => bumpWrites s (granBase (false, 1152 * a + g)) 1) s
    zeroSpan s (a * chanSpan) chanSpan
  | 4 => setPort s u.idx { getPort s u.idx with kept := [], rx := [], credits := [], cur := [], freed := [], lines := [] }
  | 6 => setFe s u.idx { getFe s u.idx with held := [], store := [], refusals := [], reports := [] }
  | _ => s

/-- Held replies go out on a port that has come UP. -/
def flushHeldReplies (s : State) : State :=
  match (List.range 2).find? (fun h => (getFe s h).up) with
  | none => s
  | some h =>
    let x := getFe s h
    { setFe s h { x with store := x.store ++ s.pwr.heldReply } with pwr := { s.pwr with heldReply := [] } }

/-- A unit that has passed BIST; a Haldip port whose adapter is known carries traffic again. -/
def unitPass (s : State) (u : UnitRef) : State :=
  let s := unitReady s u
  if u.kind = 6 then flushHeldReplies (drainAll (setFe s u.idx { getFe s u.idx with up := (getFe s u.idx).adapter.isSome }))
  else if u.kind = 1 then { s with units := { s.units with isolated := s.units.isolated.filter (fun m => !(m == u.idx)) } } else s

/-- A unit that has failed BIST: recorded, and FAILED (R63, spec/11 R306). -/
def unitFail (s : State) (u : UnitRef) : State :=
  setUnit (logNote { cls := 0x1A, sev := 1, unitKind := u.kind, unit := u.idx, action := 5, half := halfOfUnit u } s) u .failed

/-- Whether a core's substitution is still under way. -/
def substOn (s : State) (u : UnitRef) : Bool := u.kind == 0 && s.units.subst.any (fun x => x.core == u.idx)

/-- HBM_CHANNEL_FAILURE (spec/11 R306, spec/02 R56): a migration that uses the channel ends UNCORRECTABLE. -/
def execHbmChannelFailure (chan : Nat) (s : State) : Host.Outcome State Fault Refusal :=
  if 192 ≤ chan || unitSt s ⟨2, chan⟩ == .failed then .next s
  else match s.mem.migr.find? (fun m => m.src == chan || m.dst == chan) with
    | none => .next (wakeAll (chanFails s chan))
    | some m => .next (wakeAll (chanFails (migrEnd s m m.dst stUnc) chan))

end Sys2Proof.Machine
end

