-- ==== Sys2Proof/Machine/Recovery.lean ====
section
/-! DEFINITION. Recovery (spec/11): failover of the management complex (R314), reset escalation (R324, R325), re-entry of units
(spec/02 R63) and service of units (R327). -/
namespace Sys2Proof.Machine

/-! ### Records -/

/-- Severity and ACTION of an escalation step (R325). -/
def escSev (step : Nat) : Nat := if step = 1 then 1 else if step ≤ 3 then 2 else if step ≤ 5 then 4 else 5
def escAction (step : Nat) : Nat :=
  if step = 1 then 6 else if step ≤ 3 then 7 else if step ≤ 5 then 8 else if step = 6 then 9 else 10

/-- A step is reached: its record of class ESCALATION, and the escalation waits in it. -/
def escStep (s : State) (u : UnitRef) (step : Nat) : State :=
  let s := logNote { cls := 0x17, sev := escSev step, code := step, unitKind := u.kind, unit := u.idx, action := escAction step, half := halfOfUnit u } s
  { s with units := { s.units with esc := s.units.esc.filter (fun e => !(e.u == u)) ++ [{ u := u, step := step }] } }

/-- An escalation ends. -/
def escEnd (s : State) (u : UnitRef) : State := { s with units := { s.units with esc := s.units.esc.filter (fun e => !(e.u == u)) } }

def escOf (s : State) (u : UnitRef) : Option Esc := s.units.esc.find? (fun e => e.u == u)

/-- The contexts of tenancies that cannot be saved are LOST (R324). -/
def loseTens (s : State) (l : List TenRef) (half : Nat) : State := loseAll ((l.map (fun t => t.ctx)).eraseDups) stLost half s

/-! ### Steps 1 to 3: core and sheaf -/

/-- The tenancies of a core whose state is not in the save area. -/
def unsavedOn (s : State) (c : Nat) : List TenRef := (s.tens.filter (fun x => x.core == c && x.loc != .swapped)).map refOf

/-- Step 1: the core is reset; its tenancies are saved and substituted first (R324). One in QUARANTINE whose saves do not finish is
hung too (R312): the contexts of the tenancies it has not saved are LOST. -/
def coreReset (s : State) (c : Nat) (unsavable : List TenRef) : State :=
  let half := halfOfCore c
  let note (s : State) : State := logNote { cls := 0x09, sev := 1, unitKind := 0, unit := c, action := 6, half := half } s
  if unitSt s ⟨0, c⟩ = .quarantine ∧ unsavedOn s c ≠ [] then loseTens (escStep (note s) ⟨0, c⟩ 1) (unsavedOn s c) half
  else if unitSt s ⟨0, c⟩ ≠ .ready then s
  else
    let s := note s
    let bad := unsavable.filter (fun t => match findTen s t with | some x => x.core == c | none => false)
    coreFails (loseTens (escStep s ⟨0, c⟩ 1) bad half) c [] false

/-- The cores of a sheaf. -/
def coresOf (m : Nat) : List Nat := (List.range 16).map (fun i => 16 * m + i)

/-- Step 2: the sheaf is cut off from its router; what can be saved of its cores is (R324), and its store refuses requests. -/
def sheafIsolate (s : State) (m : Nat) (unsavable : List TenRef) : State :=
  if s.units.isolated.contains m then s
  else
    let half := halfOfSheaf m
    let s := escStep s ⟨1, m⟩ 2
    let s := { s with units := { s.units with isolated := s.units.isolated ++ [m] }, res := { s.res with escSheaf := sat8 s.res.escSheaf } }
    let bad := unsavable.filter (fun t => match findTen s t with | some x => sheafOfCore x.core == m | none => false)
    (coresOf m).foldl (fun s c => coreFails (escEnd s ⟨0, c⟩) c [] false) (loseTens s bad half)

/-- Sheaves whose store showed an uncorrectable word that no context owns are isolated (R307, R306). -/
def sheavesFail (s : State) : State :=
  s.res.sheafDue.foldl (fun s m => sheafIsolate s m []) { s with res := { s.res with sheafDue := [] } }

/-- The contexts that own granules of a sheaf store: all of the slot's for a SHARED one. -/
def storeOwners (s : State) (m : Nat) : List Nat :=
  ((s.mem.ssTags.filter (fun e => e.1 / 16 == m && e.2.st == 1)).flatMap (fun e => if e.2.shared then liveOf s e.2.slot else [e.2.ctx])).eraseDups

/-- Step 3: cores, store, DMA engine and range TLB of the sheaf are reset; contexts with unsaved state in it are LOST. -/
def sheafReset (s : State) (m : Nat) : State :=
  let half := halfOfSheaf m
  let left := (coresOf m).flatMap (unsavedOn s)
  let s := loseAll (storeOwners s m) stLost half (loseTens (escStep s ⟨1, m⟩ 3) left half)
  let s := dropLines s (fun l => l.sheaf == m)
  setUnit { s with xlt := { s.xlt with tlb := tabSet (fun _ => []) s.xlt.tlb m [] } } ⟨1, m⟩ .quarantine

/-! ### Steps 4 and 5: the half -/

/-- The units of a half. -/
def unitsOfHalf (h : Nat) : List UnitRef :=
  (List.range 288).map (fun i => ⟨0, 288 * h + i⟩) ++ (List.range 18).map (fun i => ⟨1, 18 * h + i⟩) ++
  (List.range 96).map (fun i => ⟨2, 96 * h + i⟩) ++ (List.range 16).map (fun i => ⟨4, 16 * h + i⟩) ++
  (List.range 8).map (fun i => ⟨7, 8 * h + i⟩) ++ [⟨6, h⟩]

/-- The contexts with state in a half: tenancies, queue entries, runs, memory, held events, streams, started packets. -/
def ctxsInHalf (s : State) (h : Nat) : List Nat :=
  let a := (s.tens.filter (fun x => halfOfCore x.core == h)).map (fun x => x.ctx)
  let q := (s.units.cores.filter (fun e => halfOfCore e.1 == h)).flatMap (fun e => (e.2.queue ++ e.2.spill).map (fun d => d.ctx))
  let r := ((allRuns s).filter (fun e => e.2.core / 8 == h)).map (fun e => e.2.ctx)
  let g (ss : Bool) (l : Tab Tag) : List Nat := (l.filter (fun e => e.2.st == 1 && granHalf s (ss, e.1) == h)).flatMap (fun e =>
    if e.2.shared then liveOf s e.2.slot else [e.2.ctx])
  let v := (s.ev.evs.filter (fun e => halfOfEvent e.1 == h)).flatMap (fun e =>
    if e.2.st = 1 then [e.2.ctx] else if e.2.st = 2 then liveOf s e.2.slot else [])
  let c := (s.fab.streams.filter (fun e => e.2.st != 0 && halfOfStream e.1 == h)).map (fun e => e.2.ctx)
  let b := s.fe.begun.flatMap (fun b => match b.q with
    | .qp n => if (getQp s n).port = h then [(getQp s n).ctx] else []
    | .mgmt p => if p = h ∧ actsForCtx b.pkt.opcode then [b.pkt.ctx] else []
    | _ => [])
  (a ++ q ++ r ++ g false s.mem.tags ++ g true s.mem.ssTags ++ v ++ c ++ b).eraseDups

/-- A Haldip port carries nothing any more; its reports not yet acknowledged wait for a port (R308, R315). -/
def haldipOff (s : State) (p : Nat) : State :=
  let x := getFe s p
  let s := setPort (setFe s p { x with up := false, reports := [] }) (32 + p) {}
  unbindCheck (drainAll { s with fe := { s.fe with heldReports := x.reports ++ s.fe.heldReports } })

/-- Step 4: the half is fenced (R325); `cls` and `sev` are the class and severity of what led here. -/
def halfFence (s : State) (h cls sev : Nat) : State :=
  if s.res.fenced.contains h then s
  else
    let s := { s with units := { s.units with esc := s.units.esc.filter (fun e => !(halfOfUnit e.u == h)) } }
    let s := escStep s ⟨12, h⟩ 4
    let s := loseAll (ctxsInHalf s h) stLost h { s with res := { s.res with escHalf := sat8 s.res.escHalf } }
    let s := if halfOff s (1 - h) then s else writeDump s (1 - h) cls sev
    let s := portsOff s ((List.range 16).map (fun i => 16 * h + i))
    let s := { s with res := { s.res with fenced := s.res.fenced ++ [h] } }
    (unitsOfHalf h).foldl (fun s u => setUnit s u .quarantine) (haldipOff s h)

/-- Step 5: the half is powered and its units come back through R63. -/
def halfReset (s : State) (h : Nat) : State := { s with res := { s.res with fenced := s.res.fenced.filter (fun x => !(x == h)) } }

/-! ### Steps 6 and 7: the module -/

/-- What survives a module reset (R45, R63, R310, R371): retention SRAM, the gleanings, the secure store, RETIRED tags, what is
fused, pins and the weighbridge. Everything else is as at reset. -/
def afterReset (s : State) : State :=
  let d := s.dev
  let r := s.res
  let k := s.sec
  let dev : Dev := {
    phase := .boot, now := d.now, stepping := d.stepping, strap := d.strap, wbStrap := d.wbStrap, wake := d.wake,
    pwrEn := d.pwrEn, coolantFault := d.coolantFault, coolantSince := d.coolantSince, flashReq := d.flashReq }
  let units : Units := { bgenBase := s.units.bgenBase, bgen := s.units.bgen }
  let slots := (s.part.slots.map (fun e => (e.1, ({ pgen := e.2.pgen, chaff := e.2.chaff } : Slot)))).filter (fun e => decide (e.2 ≠ {}))
  let ctxs := (s.part.ctxs.map (fun e => (e.1, ({ gen := e.2.gen } : Ctx)))).filter (fun e => decide (e.2 ≠ {}))
  let part : Part := { slots := slots, ctxs := ctxs, orphan := s.part.orphan, memKeyCtr := s.part.memKeyCtr }
  let res : Res := {
    rptDrop := r.rptDrop, log := r.log, logHead := r.logHead, logSeq := r.logSeq, logOver := r.logOver, epoch := r.epoch,
    escSheaf := r.escSheaf, escHalf := r.escHalf, escModule := r.escModule, failovers := r.failovers, dumps := r.dumps, dumpSeq := r.dumpSeq }
  let sec : Sec := { k with attUsed := 0, attCert := [], trngOk := true, trngFails := 0, kexCnt := 0, kexFail := 0 }
  let mem : Mem := { tags := s.mem.tags.filterMap (fun e => if e.2.st = 3 then some (e.1, { st := 3 }) else none) }
  { pending := s.pending, fresh := s.fresh, dev := dev, units := units, part := part, mem := mem, res := res, sec := sec,
    wb := { s.wb with mirror := {} }, tap := s.tap }

/-- Step 6: a module reset; the module boots again (spec/16 R411). `esc` says whether escalation led here; it then ends when
the module is ready. -/
def moduleReset (s : State) (cls sev : Nat) (esc : Bool) : State :=
  let s := if esc then
      let u : UnitRef := ⟨13, ownModule s % 4096⟩
      { escStep s u 6 with res := { (escStep s u 6).res with escModule := sat8 s.res.escModule } }
    else s
  let s := if !halfOff s 0 then writeDump s 0 cls sev else if !halfOff s 1 then writeDump s 1 cls sev else s
  let s := afterReset s
  let s := { s with res := { s.res with epoch := s.res.epoch + 1 } }
  if esc then { s with units := { s.units with esc := [{ u := ⟨13, ownModule s % 4096⟩, step := 6 }] } } else s

/-- Step 7: every transmitter off, THERM_ALERT_N asserted, the sideband alive. -/
def moduleStop (s : State) : State :=
  let s := portsOff (escStep s ⟨13, ownModule s % 4096⟩ 7) (List.range 32)
  let s := haldipOff (haldipOff s 0) 1
  { s with dev := { s.dev with phase := .stopped, thermAlert := true } }

/-! ### Management failover (R314) -/

/-- Every lock and pending write is cleared (spec/15 R396). -/
def clearLocks (s : State) : State :=
  { s with lck := { s.lck with paths := (s.lck.paths.map (fun e =>
      (e.1, { e.2 with armed := false, pendingW := none, matched := none }))).filter (fun e => decide (e.2 ≠ {})) } }

/-- The dormant complex takes over, or, FAILED itself, the module is reset. `left` is what becomes of the complex left. Its record has the half
of the complex that failed, not of the one that takes over and writes it (DESIGN CHOICE, notes/assumptions/8.md). -/
def failover (s : State) (left : UnitSt) : State :=
  let old := b2n s.res.active
  if !s.res.dormantOk then
    moduleReset (logNote { cls := 0x10, sev := 5, unitKind := 8, unit := old, action := 9, half := old } s) 0x10 5 true
  else
    let s := logNote { cls := 0x10, sev := 1, unitKind := 8, unit := old, action := 11, half := old } s
    let s := clearLocks (setUnit s ⟨8, old⟩ left)
    { s with res := { s.res with takeover := true, active := !s.res.active, dormantOk := false, failovers := sat8 s.res.failovers } }

/-- MGMT_FAILOVER. -/
def execMgmtFailover (s : State) : Host.Outcome State Fault Refusal :=
  if s.dev.phase ≠ .ready then .next s else .next (failover s .failed)

/-- MGMT_HEARTBEAT: the active complex lives; a takeover under way is complete. -/
def execMgmtHeartbeat (s : State) : Host.Outcome State Fault Refusal :=
  .next { s with res := { s.res with takeover := false } }

/-! ### Escalation's events (R324, R325, R306) -/

/-- UNIT_HANG. -/
def execUnitHang (u : UnitRef) (unsavable : List TenRef) (s : State) : Host.Outcome State Fault Refusal :=
  if !unitExists u || s.dev.phase ≠ .ready || halfOff s (halfOfUnit u) then .next s
  else .next (wakeAll (
    match u.kind with
    | 0 => coreReset s u.idx unsavable
    | 1 => sheafIsolate s u.idx unsavable
    | 7 => seqCoreFails s u.idx []
    | 8 => if u.idx = b2n s.res.active then failover s .failed else s
    | 12 => halfFence s u.idx 0x17 4
    | _ => s))

/-- ESCALATION_STEP_TIMEOUT. Step 6 passes to step 7 while its boot runs and does not wait for the flash (spec/16 R409); a boot
that found no image stays as R410 says. -/
def execEscalationStepTimeout (u : UnitRef) (s : State) : Host.Outcome State Fault Refusal :=
  match escOf s u with
  | none => .next s
  | some e =>
    let s := escEnd s u
    .next (wakeAll (
      match e.step with
      | 1 => sheafIsolate s (sheafOfCore u.idx) (unsavedOn s u.idx)
      | 2 => halfFence s (halfOfUnit u) 0x17 4
      | 3 => halfFence s (halfOfUnit u) 0x17 4
      | 4 => escStep s u 5
      | 5 => moduleReset s 0x17 5 true
      | 6 => if s.dev.phase = .boot ∧ s.dev.bootWaits = none then moduleStop s else s
      | _ => s))

/-- SHEAF_FAULT (R306): the sheaf is isolated and reset. -/
def execSheafFault (sheaf : Nat) (s : State) : Host.Outcome State Fault Refusal :=
  if 36 ≤ sheaf ∨ s.units.isolated.contains sheaf ∨ s.dev.phase ≠ .ready ∨ halfOff s (halfOfSheaf sheaf) then .next s
  else
    let s := logNote { cls := 0x0A, sev := 2, unitKind := 1, unit := sheaf, action := 7, half := halfOfSheaf sheaf } s
    .next (wakeAll (sheafIsolate s sheaf []))

/-- SEAM_CRC_FAILURE (R306): Half 1 is fenced. -/
def execSeamCrcFailure (s : State) : Host.Outcome State Fault Refusal :=
  if s.dev.phase ≠ .ready ∨ halfOff s 1 then .next s
  else .next (wakeAll (halfFence (logNote { cls := 0x0F, sev := 4, unitKind := 9, action := 8, half := 1 } s) 1 0x0F 4))

/-- MODULE_RESET (R325 step 6). -/
def execModuleReset (s : State) : Host.Outcome State Fault Refusal :=
  if s.dev.phase = .off then .next s else .next (moduleReset s 0x17 5 true)

/-! ### Service (R327) -/

/-- Whether the service action under way is on a unit. -/
def svcOn (s : State) (u : UnitRef) : Bool :=
  s.units.svcBusy && fld s.units.svcCmd.toNat 0 4 == u.kind && fld s.units.svcCmd.toNat 4 12 == u.idx

/-- A service action ends. -/
def svcEnd (s : State) (status : Nat) : State :=
  { s with units := { s.units with svcBusy := false, svcStatus := BitVec.ofNat 16 status } }

/-- A unit out of service stays so. -/
def addOut (s : State) (u : UnitRef) : State :=
  { s with units := { s.units with out := s.units.out.filter (fun v => !(v == u)) ++ [u] } }

/-- The unit fenced and drained (R327 OUT). -/
def takeOut (s : State) (u : UnitRef) : State :=
  let s := match u.kind with
    | 4 => portsOff s [u.idx]
    | 6 => haldipOff s u.idx
    | 7 => moveRuns s u.idx
    | _ => s
  addOut (setUnit s u .quarantine) u

/-- RES_SVC_CMD written with GO: the action starts; one under way is not disturbed. A unit that a slot holds is busy. -/
def svcGo (s : State) (v : W32) : State :=
  let u : UnitRef := ⟨fld v.toNat 0 4, fld v.toNat 4 12⟩
  let act := fld v.toNat 16 2
  if s.units.svcBusy then s
  else if act = 3 ∨ !([0, 1, 2, 4, 6, 7, 8].contains u.kind) ∨ !unitExists u then svcEnd s stOpcode
  else if u.kind = 8 then (if s.res.dormantOk then svcEnd (failover s .quarantine) stOk else svcEnd s stBusy)
  else if halfOff s (halfOfUnit u) then svcEnd s stPart
  else if unitHeld s u then svcEnd s stBusy
  else if act = 0 then svcEnd (takeOut s u) stOk
  else if act = 2 ∧ unitSt s u = .ready then svcEnd s stOk
  else
    let s := takeOut s u
    let s := if act = 2 then { s with units := { s.units with out := s.units.out.filter (fun w => !(w == u)) } } else s
    setUnit { s with units := { s.units with svcBusy := true } } u .scrub

/-- SCRUB of a unit is complete (R63). -/
def scrubbed (s : State) (u : UnitRef) : State :=
  if unitSt s u ≠ .scrub ∨ halfOff s (halfOfUnit u) then s else setUnit (scrubUnit s u) u .bist

/-- BIST of a unit is complete (R63); a service action on it ends. -/
def bisted (s : State) (u : UnitRef) (pass : Bool) : State :=
  if unitSt s u ≠ .bist ∨ halfOff s (halfOfUnit u) then s
  else if svcOn s u then
    if !pass then svcEnd (unitFail s u) stUnc
    else if fld s.units.svcCmd.toNat 16 2 = 1 then svcEnd (setUnit s u .quarantine) stOk
    else svcEnd (unitPass s u) stOk
  else if pass then unitPass s u
  else unitFail s u

/-! ### Re-entry (spec/02 R63) -/

/-- UNIT_FENCE_DONE: a unit's fencing is complete. It ends the step of an escalation, of which 2 passes to 3 and 4 to 5; a
unit taken OUT, whose substitution goes on, or whose pins the TAP has (spec/16 R415), stays in QUARANTINE. -/
def execUnitFenceDone (u : UnitRef) (s : State) : Host.Outcome State Fault Refusal :=
  if !unitExists u then .next s
  else match escOf s u, u.kind with
    | some ⟨_, 2⟩, 1 => .next (wakeAll (sheafReset s u.idx))
    | some ⟨_, 4⟩, 12 => .next (escStep s u 5)
    | some ⟨_, 5⟩, 12 => .next (halfReset (escEnd s u) u.idx)
    | _, _ =>
      let held := (u.kind == 4 || u.kind == 6) && (getDie s (halfOfUnit u)).pins
      if unitSt s u ≠ .quarantine ∨ s.units.out.contains u ∨ substOn s u ∨ halfOff s (halfOfUnit u) ∨ held then .next s
      else .next (setUnit (escEnd s u) u .scrub)

/-- UNIT_SCRUB_DONE. -/
def execUnitScrubDone (u : UnitRef) (s : State) : Host.Outcome State Fault Refusal :=
  if !unitExists u then .next s else .next (scrubbed s u)

/-- UNIT_BIST_DONE. -/
def execUnitBistDone (u : UnitRef) (pass : Bool) (s : State) : Host.Outcome State Fault Refusal :=
  if !unitExists u then .next s else .next (bisted s u pass)

end Sys2Proof.Machine
end

