-- ==== Sys2Proof/Machine/Power.lean ====
section
/-! DEFINITION. Power and cooling (spec/12): power states and waking (R329-R337), rails (R339, R340), capping (R342-R348),
thermal limits and the coolant stop (R350-R352). -/
namespace Sys2Proof.Machine

/-! ### Replies (R333) -/

/-- A reply on QP 0 whose port is off goes out on the other port when that one is UP, else it is held for the thaw. -/
def powerReply (status : Nat) (q : QRef) (p : Pkt) (s : State) : State :=
  let r := { replyTo p status with w4 := BitVec.ofNat 32 (pwrState s) }
  match q with
  | .mgmt h =>
    if (getFe s h).up then sendReply q p r s
    else if (getFe s (1 - h)).up then sendReply (.mgmt (1 - h)) p r s
    else if p.quiet && decide (status = 0) then s
    else { s with pwr := { s.pwr with heldReply := s.pwr.heldReply ++ [r] } }
  | _ => sendReply q p r s

/-- Whether a half has reached the target of a POWER_STATE. -/
def reached (s : State) (h target : Nat) : Bool :=
  halfPwr s h == target && !s.pwr.frostFor.any (fun e => e.half == h) && !s.pwr.thawing.contains h

/-- Every POWER_STATE whose halves have reached its target is answered. -/
def powerCheck (s : State) : State :=
  (s.fe.begun.filter (fun b => match b.job with
    | .power a c t => (!a || reached s 0 t) && (!c || reached s 1 t)
    | _ => false)).foldl (fun s b => finish b.id (powerReply stOk) s) s

/-! ### Entry and thaw (R331, R335, R337) -/

/-- Whether a front end's half has a started packet that is not complete. -/
def startedIn (s : State) (h : Nat) : Bool :=
  s.fe.begun.any (fun b => match b.q with
    | .qp n => (getQp s n).port == h
    | .mgmt p => p == h
    | _ => false)

/-- Whether a half holds work, or OWNED sheaf-store granules (R331). -/
def holdsWork (s : State) (h : Nat) : Bool :=
  s.tens.any (fun x => halfOfCore x.core == h)
    || s.units.cores.any (fun e => halfOfCore e.1 == h && !(e.2.queue ++ e.2.spill).isEmpty)
    || (allRuns s).any (fun e => e.2.core / 8 == h)
    || s.ev.evs.any (fun e => halfOfEvent e.1 == h && e.2.st != 0)
    || s.fab.streams.any (fun e => halfOfStream e.1 == h && e.2.st != 0)
    || startedIn s h
    || s.mem.ssTags.any (fun e => halfOfSheaf (e.1 / 16) == h && e.2.st == 1)

/-- Whether every slot has this module as its only member (R331). -/
def aloneEverywhere (s : State) : Bool :=
  s.part.slots.all (fun e => e.2.st == 0 || e.2.rtab.all (fun r => r.mid == ownModule s))

/-- Whether the named halves may enter FROST. -/
def frostOk (s : State) (hs : List Nat) : Bool :=
  let all := (List.range 2).all (fun h => hs.contains h || halfPwr s h == 2)
  !s.dev.wake && !powerStopped s && hs.all (fun h => halfPwr s h == 2 || (!holdsWork s h && !s.res.fenced.contains h && !s.pwr.thawing.contains h))
    && (!all || aloneEverywhere s)

/-- The management complex runs on the FIO, its PLL off (R337, R351). -/
def mgmtOnFio (s : State) : State := { s with dev := { s.dev with pllMgmt := false, onFio := true } }

/-- PLLs of a half. -/
def setPlls (s : State) (h : Nat) (v : BitVec 4) : State :=
  if h = 0 then { s with dev := { s.dev with pll0 := v } } else { s with dev := { s.dev with pll1 := v } }

/-- What a half loses without its rails: links, PLLs, sheaf stores with their tags, translations and prefetched lines. -/
def railsOff (s : State) (h : Nat) : State :=
  let s := haldipOff (portsOff s ((List.range 16).map (fun i => 16 * h + i))) h
  let s := dropLines (setPlls s h 0) (fun l => halfOfSheaf l.sheaf == h)
  let s := zeroSpan s (storeBase + 18 * h * 0x400000) (18 * 0x400000)
  { s with mem := { s.mem with ssTags := tabClear s.mem.ssTags (288 * h) 288 },
           xlt := { s.xlt with tlb := tabClear s.xlt.tlb (18 * h) 18, micro := tabClear s.xlt.micro (288 * h) 288 },
           pwr := { s.pwr with avs := s.pwr.avs.filter (fun a => !(a.half == h)) } }

/-- A thaw starts: its rails rise in order, VSRAM first (R337 step 2). -/
def thawStart (s : State) (h : Nat) : State :=
  if halfPwr s h < 2 ∨ s.pwr.thawing.contains h then s
  else { s with pwr := { s.pwr with asleep := false, thawing := s.pwr.thawing ++ [h],
                                    avs := s.pwr.avs ++ [{ half := h, rail := 1, tries := 0, kind := 2 }] } }

/-- A half enters FROST; with both in it the management complex sleeps. -/
def frostEnter (s : State) (h : Nat) : State :=
  let s := setHalfPwr (railsOff s h) h 2
  if s.pwr.half0 = 2 ∧ s.pwr.half1 = 2 then mgmtOnFio { s with pwr := { s.pwr with asleep := true } } else s

/-- The entry of some halves ends without FROST: their POWER_STATE is answered. -/
def frostDrop (s : State) (l : List Frost) (status : Nat) : State :=
  let s := { s with pwr := { s.pwr with frostFor := (s.pwr.frostFor.filter (fun e => !l.contains e)).map (fun e =>
    if l.any (fun x => x.id == e.id) then { e with id := none } else e) } }
  ((l.filterMap (fun e => e.id)).eraseDups).foldl (fun s i => finish i (powerReply status) s) s

/-- Whether work that came while a half's entry was under way stands against it: a half with work does not enter (R331). -/
def frostBarred (s : State) (h : Nat) : Bool :=
  let b := s.fe.begun.filter (fun b => match b.job with | .power _ _ _ => false | _ => true)
  holdsWork { s with fe := { s.fe with begun := b } } h || s.res.fenced.contains h || (halfPwr s (1 - h) == 2 && !aloneEverywhere s)

/-- FROST_ENTRY_WINDOW_END (R335): the half is in FROST; a level still asserted starts a thaw at once. -/
def execFrostEntryWindowEnd (half : Nat) (s : State) : Host.Outcome State Fault Refusal :=
  if !s.pwr.frostFor.any (fun e => e.half == half) then .next s
  else if frostBarred s half then .next (frostDrop s (s.pwr.frostFor.filter (fun e => e.half == half)) stBusy)
  else
    let s := { s with pwr := { s.pwr with frostFor := s.pwr.frostFor.filter (fun e => !(e.half == half)) } }
    let s := powerCheck (frostEnter s half)
    .next (wakeAll (if s.dev.wake then thawStart s half else s))

/-- A wake meets the entries of some halves (R335): before the window it aborts them, within it it is lost. The spec gives the
part before the window no length, so which of the two it is is a free value. -/
def wakeEntries (s : State) (hs : List Nat) : State :=
  let l := s.pwr.frostFor.filter (fun e => hs.contains e.half && !e.window)
  if l.isEmpty then s
  else
    let (v, s) := takeFree s
    if v.toNat % 2 = 1 then
      { s with pwr := { s.pwr with frostFor := s.pwr.frostFor.map (fun e => if l.contains e then { e with window := true } else e) } }
    else
      frostDrop (l.foldl (fun s e => setHalfPwr s e.half 0) s) l stRetry

/-- A source wakes some halves (R334); while COOLANT_FAULT_N is asserted, and in STOPPED, it is ignored (R352). -/
def wakeHalves (s : State) (hs : List Nat) : State :=
  if s.dev.coolantFault || powerStopped s then s
  else
    let s := wakeEntries { s with pwr := { s.pwr with asleep := false } } hs
    hs.foldl (fun s h => if halfPwr s h = 2 then thawStart s h else s) s

/-- WAKE_N held low (R334). -/
def execWakeN (s : State) : Host.Outcome State Fault Refusal :=
  .next (wakeAll (wakeHalves { s with dev := { s.dev with wake := true } } [0, 1]))

/-- WAKE_N released. -/
def execWakeNRelease (s : State) : Host.Outcome State Fault Refusal := .next { s with dev := { s.dev with wake := false } }

/-- SMBUS_WAKE (R334): an address match wakes the management complex only; the transaction is answered with a NACK. -/
def execSmbusWake (s : State) : Host.Outcome State Fault Refusal := .next { s with pwr := { s.pwr with asleep := false } }

/-- HALDIP_WAKE_BEACON (R334): the half that owns the port wakes. -/
def execHaldipWakeBeacon (port : Nat) (s : State) : Host.Outcome State Fault Refusal :=
  if 2 ≤ port ∨ (halfPwr s port < 2 ∧ !s.pwr.frostFor.any (fun e => e.half == port)) then .next s
  else .next (wakeAll (wakeHalves s [port]))

/-- A bound core that fails BIST is replaced (R337 step 6); a failed unit is recorded and FAILED. -/
def thawFail (s : State) (u : UnitRef) : State :=
  unitFail (if u.kind = 0 then coreFails s u.idx [] false else s) u

/-- What a thaw makes of a half: units through R63, counters at zero, PLLs locked, its ports on their way through R63 (R337 steps
3 to 8). A unit that is FAILED or out of service stays so. -/
def thawHalf (s : State) (h : Nat) (failed : List UnitRef) : State :=
  let s := setPlls (railsOff s h) h 0xF
  let us := (unitsOfHalf h).filter (fun u => (u.kind == 0 || u.kind == 1 || u.kind == 7) && unitSt s u != .failed && !s.units.out.contains u)
  let s := us.foldl (fun s u => unitReady s u) s
  let s := (us.filter (fun u => failed.contains u)).foldl (fun s u => thawFail s u) s
  let s := (⟨6, h⟩ :: (List.range 16).map (fun i => (⟨4, 16 * h + i⟩ : UnitRef))).foldl (fun s u =>
    if unitSt s u == .failed || s.units.out.contains u then s else setUnit s u .scrub) s
  let s := if h = 0 then { s with dev := { s.dev with cnt0 := 0 } } else { s with dev := { s.dev with cnt1 := 0 } }
  let s := { s with dev := { s.dev with pllMgmt := true, onFio := false },
                    pwr := { s.pwr with thawing := s.pwr.thawing.filter (fun x => !(x == h)) } }
  let lull := s.fe.begun.any (fun b => match b.job with
    | .power a c 1 => if h = 0 then a else c
    | _ => false)
  setHalfPwr s h (if lull then 1 else 0)

/-- THAW (R337): the rest of a thaw whose rails are confirmed. -/
def execThaw (half : Nat) (failed : List UnitRef) (s : State) : Host.Outcome State Fault Refusal :=
  if !s.pwr.thawing.contains half ∨ s.pwr.avs.any (fun a => a.half == half && a.kind == 2) ∨ s.dev.coolantFault then .next s
  else
    let s := thawHalf s half failed
    let s := if powerStopped s then s else { s with dev := { s.dev with thermAlert := decide (0 < s.pwr.reduction) } }
    .next (wakeAll (flushHeldReplies (powerCheck s)))

/-! ### POWER_STATE (R333, R331, R352) -/

/-- Whether COOLANT_FAULT_N has been deasserted for 1 s (R352). -/
def coolantOk (s : State) : Bool :=
  !s.dev.coolantFault && (match s.dev.coolantSince with | some t => decide (oneSecond ≤ s.dev.now - t) | none => true)

/-- A POWER_STATE begins: its halves move towards the target. -/
def powerGo (q : QRef) (p : Pkt) (target : Nat) (hs : List Nat) (s : State) : State :=
  let id := s.fe.nextId
  let s := begin q p (.power (hs.contains 0) (hs.contains 1) target) 0 s
  let s := if target = 2 then s else wakeEntries s hs
  let s := if (findBegun s id).isNone then s else hs.foldl (fun s h =>
    let x := halfPwr s h
    if target = 2 then
      (if x = 2 ∨ s.pwr.frostFor.any (fun e => e.half == h) then s
       else { s with pwr := { s.pwr with frostFor := s.pwr.frostFor ++ [{ half := h, id := some id }] } })
    else if 2 ≤ x then thawStart s h
    else setHalfPwr s h target) s
  powerCheck s

/-- POWER_STATE's start. A STOPPED module leaves that state as a whole. -/
def startPowerState : Handler := fun q p s =>
  let t := fld p.w4.toNat 0 2
  let hs := (List.range 2).filter (fun h => bitAt p.w4.toNat (2 + h))
  if t = 3 ∨ hs.isEmpty then answer q p stOpcode s
  else if powerStopped s ∨ s.dev.coolantFault then
    if t = 2 then answer q p stBusy s
    else if t = 0 ∧ q = .side ∧ coolantOk s then powerGo q p 0 [0, 1] s
    else answer q p stPower s
  else if t = 2 ∧ !frostOk s hs then answer q p stBusy s
  else powerGo q p t hs s

/-- POWER_STATE. -/
def execPowerState (p : Pkt) (s : State) : Host.Outcome State Fault Refusal :=
  .next (arrive startPowerState wrongOnFabric { p with opcode := 0xC1 } s)

/-! ### LULL (R330) -/

/-- Whether a half is idle: nothing of it issues, and nothing of it has a request outstanding. -/
def halfIdle (s : State) (h : Nat) : Bool :=
  !s.tens.any (fun x => halfOfCore x.core == h && (executes s x || x.xf.any (fun f => f.valid && !f.faulted)))
    && !(allRuns s).any (fun e => e.2.core / 8 == h && e.2.wait == .none)
    && !s.fab.outst.any (fun o => halfOfCore o.core == h)
    && !s.fab.streams.any (fun e => halfOfStream e.1 == h && e.2.cur.isSome)
    && !s.fe.begun.any (fun b => bulkJob b && (match b.q with
        | .qp n => (getQp s n).port == h
        | .mgmt p => p == h
        | _ => false))

/-- LULL_AUTO_ENTRY. -/
def execLullAutoEntry (half : Nat) (s : State) : Host.Outcome State Fault Refusal :=
  if 2 ≤ half ∨ !s.pwr.lullEn ∨ halfPwr s half ≠ 0 ∨ s.dev.phase ≠ .ready ∨ halfOff s half ∨ !halfIdle s half
      ∨ s.pwr.frostFor.any (fun e => e.half == half) then .next s
  else .next (setHalfPwr s half 1)

/-- LULL_EXIT. -/
def execLullExit (half : Nat) (s : State) : Host.Outcome State Fault Refusal :=
  if 2 ≤ half then .next s else .next (lullWake s half)

/-! ### Rails and clocks (R339, R340) -/

/-- The halves whose core rails are on. -/
def liveHalves (s : State) : List Nat := (List.range 2).filter (fun h => !halfOff s h)

/-- A change of VCORE begins in every live half that has none under way; in a takeover the regulators hold their setpoints (spec/11 R314). -/
def vcoreMove (s : State) (kind : Nat) : State :=
  if s.res.takeover then s
  else (liveHalves s).foldl (fun s h =>
    if s.pwr.avs.any (fun a => a.half == h && a.rail == 0) then s
    else { s with pwr := { s.pwr with avs := s.pwr.avs ++ [{ half := h, rail := 0, tries := 0, kind := kind }] } }) s

/-- One step down: the clock first, then the voltage. -/
def clockDown (s : State) : State :=
  if s.pwr.cur.toNat ≤ 400 then s
  else vcoreMove { s with pwr := { s.pwr with cur := BitVec.ofNat 12 (max 400 (s.pwr.cur.toNat - 100)) } } 0

/-- One step up: the voltage first; the clock follows its confirmation. -/
def clockUp (s : State) : State :=
  if fmaxEff s ≤ s.pwr.cur.toNat ∨ s.pwr.avs.any (fun a => a.kind == 1) then s else vcoreMove s 1

/-- A status read that shows a shed phase writes a REGULATOR record of severity 1 (spec/11 R306). -/
def phaseShed (s : State) (half rail : Nat) (shed : Bool) : State :=
  if shed && !s.res.takeover && decide (half < 2) && decide (rail < 4) && s.dev.phase == .ready then
    logNote { cls := 0x11, sev := 1, unitKind := 10, unit := half, half := half } s
  else s

/-- AVS_STATUS_POLL: a status read; a confirmed rail of a thaw is followed by the next, VSRAM, VCORE, VSERDES. -/
def execAvsStatusPoll (half rail : Nat) (st : RailStatus) (s : State) : Host.Outcome State Fault Refusal :=
  let s := phaseShed s half rail st.shed
  match s.pwr.avs.find? (fun a => a.half == half && a.rail == rail) with
  | none => .next s
  | some a =>
    if !st.reached || s.res.takeover then .next s
    else
      let rest := s.pwr.avs.erase a
      let more : List Avs := if a.kind = 2 ∧ rail = 1 then [{ half := half, rail := 0, tries := 0, kind := 2 }]
        else if a.kind = 2 ∧ rail = 0 then [{ half := half, rail := 2, tries := 0, kind := 2 }] else []
      let s := { s with pwr := { s.pwr with avs := rest ++ more } }
      if a.kind = 1 ∧ !rest.any (fun b => b.kind == 1) then
        .next { s with pwr := { s.pwr with cur := BitVec.ofNat 12 (min (fmaxEff s) (s.pwr.cur.toNat + 100)) } }
      else .next s

/-- A rail that is not confirmed after the third retry (R339). -/
def railLost (s : State) (half rail : Nat) : State :=
  let stop := rail == 3
  let s := { s with pwr := { s.pwr with avs := s.pwr.avs.filter (fun a => !(a.half == half)) } }
  let s := logNote { cls := 0x11, sev := 4, unitKind := 10, unit := half, action := if stop then 10 else if halfPwr s half < 2 then 8 else 0, half := half } s
  if stop then moduleStop s
  else if halfPwr s half < 2 then halfFence s half 0x11 4
  else
    let ids := (s.fe.begun.filter (fun b => match b.job with
      | .power a c t => t != 2 && (if half = 0 then a else c)
      | _ => false)).map (fun b => b.id)
    ids.foldl (fun s i => finish i (powerReply stTimeout) s)
      { s with pwr := { s.pwr with thawing := s.pwr.thawing.filter (fun x => !(x == half)) } }

/-- AVS_TIMEOUT: the sequence is repeated up to three times. A timeout on a rail that no change of this model has under way is
the first of a change that firmware makes. -/
def execAvsTimeout (half rail : Nat) (s : State) : Host.Outcome State Fault Refusal :=
  if 2 ≤ half ∨ 4 ≤ rail ∨ s.dev.phase ≠ .ready then .next s
  else match s.pwr.avs.find? (fun a => a.half == half && a.rail == rail) with
    | none =>
      if rail < 3 ∧ halfOff s half then .next s
      else .next { s with pwr := { s.pwr with avs := s.pwr.avs ++ [{ half := half, rail := rail, tries := 1, kind := 3 }] } }
    | some a =>
      if a.tries < 3 then
        .next { s with pwr := { s.pwr with avs := s.pwr.avs.map (fun b => if b == a then { a with tries := a.tries + 1 } else b) } }
      else .next (wakeAll (railLost s half rail))

/-! ### Capping (R343-R346) -/

/-- ceil and floor of x / s for the step s = T / (64 - D), x not negative; T is not 0. -/
def stepsUp (x d t : Nat) : Nat := ceilDiv (x * (64 - d)) t
def stepsDown (x d t : Nat) : Nat := x * (64 - d) / t

/-- The duty of the next window. -/
def nextDuty (d t : Nat) (x : Int) : Nat :=
  if t = 0 then d
  else if 0 < x then min 56 (d + stepsUp x.toNat d t)
  else d - min d (stepsDown (-x).toNat d t)

/-- DUTY_WINDOW (R343): the end of a 100 ns window with its estimate and tensor power in mW; the rules of R344 that act in a
window. -/
def execDutyWindow (est tcur : Nat) (s : State) : Host.Outcome State Fault Refusal :=
  if s.dev.phase ≠ .ready ∨ powerStopped s then .next s
  else
    let p := s.pwr
    let pow := if p.diverge then max est p.tel.toNat else est
    let x : Int := (pow : Int) - capEff s
    let quiet := decide (p.duty = 0) && decide (20 * x ≤ -(capEff s : Int))
    let floor := decide (p.cur.toNat ≤ 400) && decide (p.duty = 56) && decide (0 < x)
    let s := { s with pwr := { p with est := BitVec.ofNat 32 est, duty := nextDuty p.duty tcur x, dutySum := p.dutySum + p.duty,
                                      dutyWins := p.dutyWins + 1, msQuiet := p.msQuiet && quiet,
                                      capUnmet := floor || (p.capUnmet && decide (0 < x)) } }
    .next (if p.duty = 56 ∧ 0 < x then clockDown s else s)

/-- FREQ_LOOP_TICK (R344): the end of a millisecond; in a MEMORY phase the clock goes down to MEMF while D is 0 (R347). -/
def execFreqLoopTick (s : State) : Host.Outcome State Fault Refusal :=
  if s.dev.phase ≠ .ready ∨ powerStopped s then .next s
  else
    let p := s.pwr
    let quiet := if p.msQuiet ∧ 0 < p.dutyWins then p.quietMs + 1 else 0
    let memory := p.hintKind == 1
    let memf := max 400 (100 * p.memf.toNat)
    let s := { s with pwr := { p with dutySum := 0, dutyWins := 0, msQuiet := true, quietMs := min 10 quiet } }
    if (0 < p.dutyWins ∧ 4 * p.dutyWins ≤ p.dutySum) ∨ fmaxEff s < p.cur.toNat then .next (clockDown s)
    else if memory ∧ p.duty = 0 ∧ memf < p.cur.toNat then .next (clockDown s)
    else if 10 ≤ quiet ∧ !(memory && decide (memf ≤ p.cur.toNat)) then .next (clockUp s)
    else .next s

/-- SQUALL_DETECT (R345): the half's cores take a local duty until the droop has cleared; the detection is counted. -/
def execSquallDetect (half : Nat) (s : State) : Host.Outcome State Fault Refusal :=
  if 2 ≤ half ∨ halfOff s half then .next s
  else .next { s with pwr := { s.pwr with
    squall := (s.pwr.squall.filter (fun h => !(h == half))) ++ [half],
    squalls := if s.pwr.squalls = 0xFFFFFF then s.pwr.squalls else s.pwr.squalls + 1 } }

/-- SQUALL_RELEASE (R345). -/
def execSquallRelease (half : Nat) (s : State) : Host.Outcome State Fault Refusal :=
  .next { s with pwr := { s.pwr with squall := s.pwr.squall.filter (fun h => !(h == half)) } }

/-- TELEMETRY_SAMPLE (R346): the millisecond's mean estimate and the measured power in mW. -/
def execTelemetrySample (est tel : Nat) (s : State) : Host.Outcome State Fault Refusal :=
  if s.dev.phase ≠ .ready then .next s
  else
    let p := s.pwr
    let d := natDist est tel
    let bad := if 15 * tel < 100 * d then p.bad + 1 else 0
    let good := if p.diverge ∧ 100 * d ≤ 10 * tel then p.good + 1 else 0
    let s := { s with pwr := { p with tel := BitVec.ofNat 32 tel, bad := min 10 bad, good := good } }
    if !p.diverge ∧ 10 ≤ bad then
      let s := logNote { cls := 0x14, sev := 0, unitKind := 13, unit := ownModule s % 4096 } s
      .next { s with pwr := { s.pwr with diverge := true, good := 0, diverges := if p.diverges = 0x7FFFFFFF then p.diverges else p.diverges + 1 } }
    else if p.diverge ∧ 100 ≤ good then .next { s with pwr := { s.pwr with diverge := false, good := 0, bad := 0 } }
    else .next s

/-! ### Hints (R347) -/

/-- HINT_PHASE's start. -/
def startHintPhase : Handler := fun q p s =>
  let v := opA p
  if !hintOk v then answer q p stOpcode s else answer q p stOk (hintPost s (halfOfQ s q) v)

/-- HINT_PHASE. -/
def execHintPhase (p : Pkt) (s : State) : Host.Outcome State Fault Refusal :=
  .next (arrive startHintPhase wrongOnFabric { p with opcode := 0xC0 } s)

/-- A phase in force ends; the clock at which a DENSE phase settled is kept. -/
def phaseEnd (s : State) : State :=
  { s with pwr := { s.pwr with hintKind := 3, hintHalves := 0, dense := if s.pwr.hintKind = 2 then s.pwr.cur else s.pwr.dense } }

/-- HINT_PHASE_START: the hinted phase starts. -/
def execHintPhaseStart (s : State) : Host.Outcome State Fault Refusal :=
  match s.pwr.hint with
  | none => .next s
  | some h =>
    let s := phaseEnd { s with pwr := { s.pwr with hint := none } }
    let s := { s with pwr := { s.pwr with hintKind := BitVec.ofNat 4 h.kind, hintHalves := h.halves } }
    .next (if h.kind = 2 then { s with pwr := { s.pwr with cur := BitVec.ofNat 12 (min (fmaxEff s) s.pwr.dense.toNat) } } else s)

/-- HINT_PHASE_END: the phase's duration is over. -/
def execHintPhaseEnd (s : State) : Host.Outcome State Fault Refusal := .next (phaseEnd s)

/-! ### Critical-path shifting (R348) -/

/-- The members of a slot's partition, in ascending order of module ID. -/
def membersOf (s : State) (slot : Nat) : List Nat :=
  let l := ((getSlot s slot).rtab.map (fun e => e.mid)).eraseDups
  (List.range 16384).filter (fun m => l.contains m)

/-- The first member of the greatest, or least, count. -/
def mostLate (l : List (Nat × Nat)) : Option (Nat × Nat) :=
  l.foldl (fun a e => match a with | none => some e | some b => if b.2 < e.2 then some e else a) none
def leastLate (l : List (Nat × Nat)) : Option (Nat × Nat) :=
  l.foldl (fun a e => match a with | none => some e | some b => if e.2 < b.2 then some e else a) none

/-- SHIFT_TICK: the lead's power controller, every 10 ms. A donor move still waiting for its donor is left to end first. -/
def execShiftTick (slot : Nat) (s : State) : Host.Outcome State Fault Refusal :=
  let sl := getSlot s slot
  if sl.st < 2 ∨ !sl.bound ∨ leadFor s slot ≠ ownModule s then .next s
  else
    let ms := membersOf s slot
    let l := ms.map (fun m => (m, (sl.lastRank.filter (fun e => e.2.2 == m)).length))
    let s := setSlot s slot { sl with lastRank := [] }
    let range : Int := s.pwr.shiftRange.toNat * 10000
    let move : Option (Nat × Nat) := match mostLate l, leastLate l with
      | some r, some d =>
        if d.2 < r.2 ∧ -range + 50000 < offsetOf s slot d.1 ∧ offsetOf s slot r.1 < range - 50000 ∧ sl.donorMove.isNone then some (d.1, r.1) else none
      | _, _ => none
    match move with
    | none => .next (ms.foldl (fun s m => tellBudget s slot m 9 (offsetOf s slot m)) s)
    | some (d, r) =>
      let s := (ms.filter (fun m => !(m == d))).foldl (fun s m => tellBudget s slot m 9 (offsetOf s slot m)) s
      let s := setSlot s slot { getSlot s slot with donorMove := some (d, r) }
      let v := offsetOf s slot d - 50000
      if d ≠ ownModule s then .next (tellBudget s slot d 8 v)
      else match takeBudget s d v with
        | some (w, s) => .next (donorDone (setOffset s slot d w) slot)
        | none => .next (setSlot s slot { getSlot s slot with donorMove := none })

/-- POWER_BUDGET received (R348). -/
def takePowerBudget : Handler := fun q p s =>
  match q with
  | .fabric mid _ _ =>
    let lead := fld p.w4.toNat 0 14
    (match (if lead = mid then takeBudget s lead (sgn 32 p.w5.toNat) else none) with
     | some (v, s) => sendReply q p { replyTo p stOk with w5 := BitVec.ofInt 32 v } s
     | none => answer q p stDenied s)
  | _ => answer q p stOpcode s

/-- POWER_BUDGET: on the fabric's escape VC only. -/
def execPowerBudget (p : Pkt) (s : State) : Host.Outcome State Fault Refusal :=
  .next (arrive takePowerBudget takePowerBudget { p with opcode := 0xC2 } s)

/-- BUDGET_DONOR_TIMEOUT: the donor has not answered; the recipient is not changed. -/
def execBudgetDonorTimeout (slot : Nat) (s : State) : Host.Outcome State Fault Refusal :=
  .next (setSlot s slot { getSlot s slot with donorMove := none })

/-- SHIFT_OFFSET_LAPSE: no refresh has arrived; the offset falls back to 0. -/
def execShiftOffsetLapse (s : State) : Host.Outcome State Fault Refusal := .next { s with pwr := { s.pwr with offset := 0 } }

/-! ### Heat and the coolant stop (R350-R352) -/

/-- Temperature of a sensor in 1/16 °C: none where it is unpowered. -/
def tempOf (s : State) (n : Nat) : Option Int := if halfOff s (halfOfSensor n) then none else some (tabGet (fun _ => 0) s.pwr.temps n)

/-- Whether a sensor exists at or above limits in °C of die and stack. -/
def anyAt (s : State) (die stack : Int) : Bool :=
  (List.range 50).any (fun n => match tempOf s n with | some t => decide (16 * (if n < 38 then die else stack) ≤ t) | none => false)

/-- The temperatures of the 50 sensors as read: an unpowered one reads 0; HBM refreshes at twice the rate above 85 °C. -/
def readTemps (s : State) (temps : List Int) : State :=
  let new : Tab Int := ((List.range 50).map (fun n => (n, if halfOff s (halfOfSensor n) then 0 else temps.getD n 0))).filter (fun e => decide (e.2 ≠ 0))
  let s := { s with pwr := { s.pwr with temps := new } }
  { s with pwr := { s.pwr with hbm2x := (List.range 12).any (fun i => match tempOf s (38 + i) with | some t => decide (16 * 85 < t) | none => false) } }

/-- Whether every powered sensor is as far below its limit as the reduction's end asks. -/
def allCool (s : State) : Bool :=
  (List.range 50).all (fun n => match tempOf s n with
    | some t => if n < 38 then decide (t ≤ 16 * ((throttleEff s : Int) - 3)) else decide (t < 16 * 82)
    | none => true)

/-- THERMAL_TICK (R350): every 10 ms, the temperatures of the 50 sensors in 1/16 °C. -/
def execThermalTick (temps : List Int) (s : State) : Host.Outcome State Fault Refusal :=
  if s.dev.phase ≠ .ready then .next s
  else
    let s := readTemps s temps
    if powerStopped s then .next s
    else if anyAt s (throttleEff s) 85 then
      let s := if s.dev.thermAlert then s else logNote { cls := 0x12, sev := 0, unitKind := 11 } s
      .next { s with dev := { s.dev with thermAlert := true }, pwr := { s.pwr with reduction := min (2 ^ 32 - 1) (s.pwr.reduction + 50000) } }
    else if !allCool s then .next s
    else
      let red := s.pwr.reduction - 50000
      .next { s with dev := { s.dev with thermAlert := decide (0 < red) }, pwr := { s.pwr with reduction := red } }

/-- The module stops (R351): contexts LOST with POWER_STOP unless the module was in FROST, rails and links off, the clock on its
way to 400 MHz, STOPPED. -/
def coolStop (s : State) : State :=
  if powerStopped s then s
  else
    let frosty := decide (s.pwr.half0 = 2) && decide (s.pwr.half1 = 2)
    let live := (s.part.ctxs.filter (fun e => e.2.st == 1)).map (fun e => e.1)
    let s := if frosty then s else live.foldl (fun s c => stopWork (loseStatus c stPower 0 s) c stPower) s
    let ids := (s.fe.begun.filter (fun b => match b.job with | .power _ _ _ => true | _ => false)).map (fun b => b.id)
    let s := { s with pwr := { s.pwr with duty := 56, cur := 400, frostFor := [], thawing := [], avs := [], asleep := false, squall := [] } }
    let s := mgmtOnFio (railsOff (railsOff s 0) 1)
    let s := logNote { cls := 0x12, sev := 5, unitKind := 11, action := 10 } s
    let s := { s with pwr := { s.pwr with half0 := 3, half1 := 3 }, dev := { s.dev with thermAlert := true } }
    ids.foldl (fun s i => finish i (powerReply stPower) s) s

/-- COOLANT_STOP: the filtered edge of COOLANT_FAULT_N. -/
def execCoolantStop (s : State) : Host.Outcome State Fault Refusal :=
  let s := { s with dev := { s.dev with coolantFault := true, coolantSince := none } }
  if s.dev.phase ≠ .ready then .next s else .next (wakeAll (coolStop s))

/-- THERMAL_CRIT (R350): a limit has been exceeded for 1 ms. -/
def execThermalCrit (s : State) : Host.Outcome State Fault Refusal :=
  if s.dev.phase ≠ .ready then .next s else .next (wakeAll (coolStop s))

/-- COOLANT_FAULT_DEASSERT (R352). -/
def execCoolantFaultDeassert (s : State) : Host.Outcome State Fault Refusal :=
  if s.dev.coolantFault then .next { s with dev := { s.dev with coolantFault := false, coolantSince := some s.dev.now } } else .next s

end Sys2Proof.Machine
end

