-- ==== Sys2Proof/Machine/Weighbridge.lean ====
section
/-! DEFINITION. The weighbridge and the module's side of it (spec/14 R372-R386). -/
namespace Sys2Proof.Machine

def wbSerial (w : Wb) : List Byte := sized 16 w.serial

/-- The number of the weighbridge's ML-KEM key, and of its block key (`Config`). -/
def wbKem : Nat := 2 ^ 64
def wbKey : Nat := 2 ^ 33

/-- The weighbridge's encapsulation key, as it publishes it (R376). -/
def wbEncap : List Byte := sized 1568 (Config.kemKey wbKem)

/-- The feed key of a shared secret (R376). -/
def feedKeyOf (ss serial modSerial : List Byte) : List Byte :=
  shake256 (sized 32 ss ++ ascii "IAF-2448 feed" ++ serial ++ modSerial) 32

/-! ### The activity feed (R374, R375) -/

/-- The 40 bytes of a slot's entry. -/
def feedEntry (s : State) (slot : Nat) (l : List (Nat × List Nat)) : List Byte :=
  let sl := getSlot s slot
  let a := ((l.find? (fun e => e.1 == slot)).map (fun e => e.2)).getD []
  leBytes 4 sl.brec.pid ++ leBytes 4 sl.pgen.toNat ++ (List.range 8).flatMap (fun c => leBytes 4 (a.getD c 0))

/-- FEED_SEQ of the next frame, and its record in the secure store every 2^19 frames (R374). -/
def feedAdvance (x : Sec) : Sec :=
  let n := x.feedSeq + 1
  { x with feedSeq := n, feedStored := if n.toNat % 2 ^ 19 = 0 then n else x.feedStored }

/-- FEED_FRAME_SEND (R374): the frame that goes out; without a feed key none can be made. -/
def execFeedFrameSend (f : FeedEnergies) (s : State) : Host.Outcome State Fault Refusal :=
  match s.sec.feedKey with
  | none => .next s
  | some k =>
    if s.dev.phase ≠ .ready ∧ s.dev.phase ≠ .stopped then .next s
    else
      let x := feedAdvance s.sec
      let slots := (List.range 64).filter (fun i => (getSlot s i).st != 0)
      let b := leBytes 4 0x46440001 ++ leBytes 4 x.feedSeq.toNat ++ leBytes 1 slots.length ++ [0, 0, 0] ++ leBytes 4 f.aMod
        ++ slots.flatMap (fun i => feedEntry s i f.slots)
      .next { s with sec := { x with feedOut := b ++ kmac256 k b 32 (ascii "IAF feed") } }

/-- A frame's contents. -/
def feedFrameOf (b : List Byte) : FeedFrame :=
  { seq := BitVec.ofNat 32 (numAt b 4 4), aMod := numAt b 12 4,
    slots := (List.range (numAt b 8 1)).map (fun i =>
      (numAt b (0x10 + 40 * i) 4, numAt b (0x14 + 40 * i) 4, (List.range 8).map (fun c => numAt b (0x18 + 40 * i + 4 * c) 4))) }

/-- Two frames of one second, summed entry by entry (R375). -/
def feedSum (f g : FeedFrame) : FeedFrame :=
  let both := f.slots.map (fun e =>
    match g.slots.find? (fun d => d.1 == e.1 && d.2.1 == e.2.1) with
    | some d => (e.1, e.2.1, (List.range 8).map (fun c => e.2.2.getD c 0 + d.2.2.getD c 0))
    | none => e)
  { seq := g.seq, aMod := f.aMod + g.aMod,
    slots := both ++ g.slots.filter (fun d => !f.slots.any (fun e => e.1 == d.1 && e.2.1 == d.2.1)) }

/-- Whether a frame is accepted (R375). -/
def feedGood (w : Wb) (b : List Byte) : Bool :=
  match w.paired, w.feedKey with
  | some _, some k =>
    let n := numAt b 8 1
    decide (b.length = 48 + 40 * n) && sliceZ b (16 + 40 * n) 32 == kmac256 k (b.take (16 + 40 * n)) 32 (ascii "IAF feed")
      && decide (w.lastFeed.toNat < numAt b 4 4)
  | _, _ => false

/-- A frame that is no good: discarded and counted. -/
def feedReject (w : Wb) : Wb := { w with feedRej := sat32 w.feedRej, rejected := true, feedOk := false }

/-- FEED_FRAME_RECEIVE (R375). -/
def execFeedFrameReceive (bytes : List Byte) (s : State) : Host.Outcome State Fault Refusal :=
  let w := s.wb
  if !w.power then .next s
  else if !feedGood w bytes then .next { s with wb := feedReject w }
  else
    let g := feedFrameOf bytes
    let f := match w.frame with
      | some f => if w.frameAge = 0 then feedSum f g else g
      | none => g
    .next { s with wb := { w with frame := some f, frameAge := 0, lastFeed := g.seq, feedOk := true } }

/-! ### Audit entries and signatures (R380, R383) -/

/-- The 64 bytes of an audit entry; fields in the order in which R383 names them (DESIGN CHOICE, notes/assumptions/39.md). -/
def auditBody (a : Audit) : List Byte :=
  leBytes 4 a.num ++ leBytes 4 a.kind ++ leBytes 4 a.blockNo.toNat ++ sized 32 a.detail ++ List.replicate 20 0

/-- A signature with the block key; indices are reserved 1,024 at a time (R380). After a breach of the seal there is no key. -/
def wbSign (w : Wb) (msg : List Byte) : List Byte × Wb :=
  if w.sealBroken then ([], w)
  else
    let lim := if w.sigNext = w.sigLim then w.sigLim + 1024 else w.sigLim
    (sized 5605 (Config.xmssSign wbKey w.sigNext msg), { w with sigNext := w.sigNext + 1, sigLim := lim })

def auditFull (w : Wb) : Bool := decide (4096 ≤ w.audit.length)

/-- An audit entry is written, signed, while the log has room (R383). -/
def auditAdd (w : Wb) (kind : Nat) (detail : List Byte) : Wb :=
  if auditFull w then w
  else
    let a : Audit := { num := w.audit.length, kind := kind, blockNo := BitVec.ofNat 32 w.blockNo, detail := sized 32 detail, signature := [] }
    let (g, w) := wbSign w (auditBody a)
    { w with audit := w.audit ++ [{ a with signature := g }] }

/-! ### Pairing (R376) -/

/-- PAIR: the frame as the weighbridge receives it; one that is no PAIR frame is discarded and counted (R375). -/
def execPairWb (bytes : List Byte) (s : State) : Host.Outcome State Fault Refusal :=
  let w := s.wb
  let sn := sliceZ bytes 4 16
  if !w.power then .next s
  else if bytes.length ≠ 1588 ∨ numAt bytes 0 4 ≠ 0x464400A1 then .next { s with wb := feedReject w }
  else if auditFull w then .next s
  else if w.paired.isSome ∧ w.paired ≠ some sn then .next { s with wb := auditAdd w 3 sn }
  else
    let k := feedKeyOf (Config.kemSecret (sliceZ bytes 20 1568) wbKem) (wbSerial w) sn
    .next { s with wb := auditAdd { w with paired := some sn, feedKey := some k, pairings := w.pairings + 1 } 3 sn }

/-- The module's firmware pairs: it encapsulates to the weighbridge's key, keeps the feed key, and sends a PAIR frame. -/
def pairSend (s : State) : State :=
  let (n, s) := takeNum s
  let ss := Config.kemSecret wbEncap n
  let b := leBytes 4 0x464400A1 ++ serialBytes s ++ sized 1568 (Config.kemCipher wbEncap n)
  { s with sec := { s.sec with feedKey := some (feedKeyOf ss (wbSerial s.wb) (serialBytes s)), feedOut := b, pairDue := false } }

/-! ### Attribution (R377) -/

/-- Energy joins the entry of a pair; the module entry is (0, 0). Entries stay ascending. -/
def addEntry (pid pgen e : Nat) : List (Nat × Nat × Nat) → List (Nat × Nat × Nat)
  | [] => [(pid, pgen, e)]
  | (p, g, x) :: t =>
    if p = pid ∧ g = pgen then (p, g, x + e) :: t
    else if pid < p ∨ (pid = p ∧ pgen < g) then (pid, pgen, e) :: (p, g, x) :: t
    else (p, g, x) :: addEntry pid pgen e t

/-- Energy of a pair in the open block: past 127 partition entries it goes to the module entry (R377). -/
def attrAdd (w : Wb) (pid pgen e : Nat) : Wb :=
  let known := w.attr.any (fun x => x.1 == pid && x.2.1 == pgen)
  let n := (w.attr.filter (fun x => x.1 != 0)).length
  if pid = 0 then { w with attr := addEntry 0 0 e w.attr }
  else if !known && decide (127 ≤ n) then { w with attr := addEntry 0 0 e w.attr, attrOvf := true }
  else { w with attr := addEntry pid pgen e w.attr }

/-- The weight of an entry's energies. -/
def entryWeight (a : List Nat) : Nat := ((List.range 8).map (fun c => (if c = 7 then 20 else 16) * a.getD c 0)).sum

/-- The shares of a second's energy: one per entry, then what is left to the module (R377). -/
def sharesOf (e aMod : Nat) (slots : List (Nat × Nat × List Nat)) : List (Nat × Nat × Nat) × Nat :=
  let total := (slots.map (fun x => entryWeight x.2.2)).sum + 16 * aMod
  if total = 0 then ([], e)
  else
    let l := slots.map (fun x => (x.1, x.2.1, e * entryWeight x.2.2 / total))
    (l, e - (l.map (fun x => x.2.2)).sum)

/-- The frame that a second uses: its own, or the most recent within 5 s (R377). -/
def usableFrame (w : Wb) : Option FeedFrame := if w.frameAge ≤ 5 then w.frame else none

/-- One second's energy attributed. -/
def attribute1 (w : Wb) (e : Nat) : Wb :=
  match usableFrame w with
  | none => attrAdd w 0 0 e
  | some f =>
    let r := sharesOf e f.aMod f.slots
    attrAdd (r.1.foldl (fun w x => attrAdd w x.1 x.2.1 x.2.2) w) 0 0 r.2

/-! ### Records and blocks (R372, R378-R381) -/

/-- Flags of a second record (R372, R378). -/
def secFlags (w : Wb) (e : Nat) (part : Bool) : BitVec 16 :=
  BitVec.ofNat 16 (b2n (decide (3240000 < e)) + b2n (decide (e < 135000)) * 2 + b2n w.gap * 4 + b2n part * 8
    + b2n (usableFrame w).isNone * 16 + b2n w.rejected * 32)

/-- The 32 bytes of a second record. -/
def secBytes (r : SecRec) : List Byte :=
  leBytes 8 r.secNo.toNat ++ leBytes 4 r.energy ++ leBytes 2 r.vMin ++ leBytes 2 r.vMax ++ leBytes 2 r.pPeak
    ++ leBytes 2 r.flags.toNat ++ leBytes 4 r.feedSeq.toNat ++ List.replicate 8 0

/-- A second ends: its record is written and its energy attributed (R372, R377, R378); readings are clamped at 4,000 W. -/
def secondEnd (w : Wb) (m : Measure) (part : Bool) : Wb :=
  let e := min m.energy 4000000
  let fs : W32 := match usableFrame w with | some f => f.seq | none => 0
  let r : SecRec := {
    secNo := w.secNo, energy := e, vMin := m.vMin % 65536, vMax := m.vMax % 65536, pPeak := min m.pPeak 4000,
    flags := secFlags w e part, feedSeq := fs }
  let w := attribute1 w e
  { w with recs := w.recs ++ [r], lastRec := some r, secNo := w.secNo + 1, total := w.total + e, gap := false, rejected := false,
           frameAge := w.frameAge + 1 }

/-- CHAIN_IN of the open block (R379). -/
def chainIn (w : Wb) : List Byte := w.chain.getD (shake256 (ascii "IAF-2448 weighbridge" ++ wbSerial w) 32)

/-- The chain over a block's records. -/
def chainOut (w : Wb) : List Byte := w.recs.foldl (fun h r => shake256 (h ++ secBytes r) 32) (chainIn w)

/-- The attribution entries of the open block, the module entry first (R379). -/
def attrList (w : Wb) : List (Nat × Nat × Nat) := if w.attr.any (fun x => x.1 == 0) then w.attr else (0, 0, 0) :: w.attr

/-- A block's bytes before its signature (R379). -/
def blockBody (w : Wb) (short : Bool) : List Byte :=
  let l := attrList w
  let first : W64 := match w.recs.head? with | some r => r.secNo | none => w.secNo
  leBytes 4 0x57420001 ++ leBytes 4 w.blockNo ++ leBytes 8 first.toNat ++ leBytes 1 w.recs.length
    ++ leBytes 1 (b2n short + b2n w.attrOvf * 2 + b2n w.sealBroken * 4 + b2n w.paired.isNone * 8) ++ leBytes 2 l.length
    ++ leBytes 2 w.fwChanges ++ leBytes 2 w.pairings ++ leBytes 4 w.fwVersion.toNat ++ leBytes 4 w.audit.length
    ++ wbSerial w ++ sized 16 (w.paired.getD []) ++ chainIn w ++ w.recs.flatMap secBytes
    ++ l.flatMap (fun x => leBytes 4 x.1 ++ leBytes 4 x.2.1 ++ leBytes 8 x.2.2) ++ chainOut w

/-- Blocks kept (R381). -/
def blocksKept : Nat := 576000

/-- The firmware committed takes over at a block boundary (R383). -/
def fwTakesOver (w : Wb) : Wb :=
  match w.fwNext with
  | some v => { w with fwVersion := v, fwNext := none, fwChanges := w.fwChanges + 1 }
  | none => w

/-- The open block closes: signed, while the seal is whole, and stored; the oldest goes when storage is full (R379-R381,
R384). -/
def closeBlock (w : Wb) (short : Bool) : Wb :=
  let b := blockBody w short
  let out := chainOut w
  let attr := attrList w
  let (g, w) := wbSign w b
  let n := w.blockNo
  let full := decide (w.oldest + blocksKept ≤ n)
  let blocks := tabSet (fun _ => []) (if full then tabClear w.blocks w.oldest 1 else w.blocks) n (b ++ g)
  fwTakesOver { w with
    blocks := blocks, oldest := if full then w.oldest + 1 else w.oldest, blockNo := n + 1, chain := some out, recs := [], attr := [],
    signedNo := if w.sealBroken then w.signedNo else n, attrOvf := false, lastAttr := attr }

/-- WB_SECOND_CLOSE (R377, R378). A block that is full closes first. -/
def execWbSecondClose (m : Measure) (s : State) : Host.Outcome State Fault Refusal :=
  if !s.wb.power then .next s
  else
    let w := if 60 ≤ s.wb.recs.length then closeBlock s.wb false else s.wb
    .next { s with wb := secondEnd w m false }

/-- WB_BLOCK_CLOSE (R379): sixty seconds form a block. -/
def execWbBlockClose (s : State) : Host.Outcome State Fault Refusal :=
  if !s.wb.power ∨ s.wb.recs.length < 60 then .next s else .next { s with wb := closeBlock s.wb false }

/-- WB_INPUT_LOSS (R373): the last record, PARTIAL, from the hold-up store. The TAP will come up with IDCODE. -/
def execWbInputLoss (m : Measure) (s : State) : Host.Outcome State Fault Refusal :=
  if !s.wb.power then .next s
  else
    let w := if 60 ≤ s.wb.recs.length then closeBlock s.wb false else s.wb
    let w := secondEnd w m true
    let w := { w with power := false, frame := none, frameAge := 0, feedOk := false, staged := [], stagedLen := 0 }
    .next { s with wb := { w with message := [], tapIr := 1, tapMute := false } }

/-- WB_POWER_RETURN (R373, R379, R380): indices left of the reserved block are skipped, the block cut short is signed, and the
next record carries GAP. -/
def execWbPowerReturn (s : State) : Host.Outcome State Fault Refusal :=
  if s.wb.power then .next s
  else
    let w := auditAdd { s.wb with power := true, gap := true, sigNext := s.wb.sigLim } 4 (leBytes 8 s.wb.sigNext)
    .next { s with wb := if w.recs.isEmpty then w else closeBlock w (decide (w.recs.length < 60)) }

/-! ### Retrieval (R382) -/

/-- A reply on the weighbridge's SMBus; without input, and while its TAP has the pins (spec/16 R416), it does not answer. -/
def wbReply (s : State) (l : List Byte) : State := if s.wb.power && !s.wb.tapMute then { s with wb := { s.wb with reply := l } } else s

/-- The newest block (R382). -/
def newestBlock (w : Wb) : Nat := w.blockNo - 1

/-- INFO (R382); fields in the order in which R382 names them. -/
def execWbInfo (s : State) : Host.Outcome State Fault Refusal :=
  let w := s.wb
  let b := wbSerial w ++ sized 16 (w.paired.getD []) ++ leBytes 4 w.fwVersion.toNat ++ leBytes 2 w.fwChanges ++ leBytes 2 w.pairings
    ++ leBytes 4 w.audit.length ++ leBytes 4 w.oldest ++ leBytes 4 (newestBlock w) ++ leBytes 1 (b2n w.sealBroken)
  .next (wbReply s (0 :: sized 64 b))

/-- A chunk of 240 bytes, BAD_ARGUMENT past the end. -/
def wbChunk (l : List Byte) (chunk : Nat) : List Byte :=
  if l.length ≤ 240 * chunk then [3] else 0 :: (l.drop (240 * chunk)).take 240

/-- KEYS (R382). -/
def execWbKeys (chunk : Nat) (s : State) : Host.Outcome State Fault Refusal :=
  .next (wbReply s (wbChunk (sized 68 (Config.publicKey wbKey) ++ s.wb.metCert ++ wbEncap) chunk))

/-- READ_BLOCK (R381, R382). -/
def execReadBlock (blockNo chunk : Nat) (s : State) : Host.Outcome State Fault Refusal :=
  .next (wbReply s (
    if blockNo < s.wb.oldest then [1]
    else if s.wb.blockNo ≤ blockNo then [2]
    else wbChunk (tabGet (fun _ => []) s.wb.blocks blockNo) chunk))

/-- READ_AUDIT (R382). -/
def execReadAudit (entry chunk : Nat) (s : State) : Host.Outcome State Fault Refusal :=
  .next (wbReply s (match s.wb.audit[entry]? with
    | some a => wbChunk (auditBody a ++ a.signature) chunk
    | none => [3]))

/-- FW_LOAD (R382). -/
def execFwLoad (off : Nat) (data : List Byte) (s : State) : Host.Outcome State Fault Refusal :=
  if !s.wb.power ∨ s.wb.tapMute then .next s
  else if 240 < data.length then .next (wbReply s [3])
  else
    let w := s.wb
    let staged := tabSetAll (fun _ => 0) w.staged ((List.range data.length).map (fun i => (off + i, data.getD i 0)))
    .next (wbReply { s with wb := { w with staged := staged, stagedLen := max w.stagedLen (off + data.length) } } [0])

/-- The staged image. -/
def wbImage (w : Wb) : List Byte := (List.range w.stagedLen).map (fun i => tabGet (fun _ => 0) w.staged i)

/-- Whether a message carries a good signature of the metrology authority in its last 2,820 bytes (DESIGN CHOICE,
notes/assumptions/39.md). -/
def authSigned (w : Wb) (m : List Byte) : Bool :=
  decide (2820 ≤ m.length) && Config.xmssVerify (keyId w.authority) (m.take (m.length - 2820)) (m.drop (m.length - 2820))

/-- FW_COMMIT (R382, R383): the image takes over at the next block. Its first word is its version. -/
def execFwCommit (s : State) : Host.Outcome State Fault Refusal :=
  let w := s.wb
  let img := wbImage w
  if !w.power ∨ w.tapMute then .next s
  else if w.fwNext.isSome then .next (wbReply s [6])
  else if !authSigned w img then .next (wbReply s [4])
  else if auditFull w then .next (wbReply s [5])
  else
    let w := auditAdd { w with fwNext := some (BitVec.ofNat 32 (numAt img 0 4)), staged := [], stagedLen := 0 } 1 (shake256 img 32)
    .next (wbReply { s with wb := w } [0])

/-- AUTHORITY (R382, R383), a chunk of a signed message: its first byte says whether it is the last; the message is 1 and the
signature (UNPAIR), or 2, the new public key and the signature. -/
def execAuthority (bytes : List Byte) (s : State) : Host.Outcome State Fault Refusal :=
  let w := s.wb
  let m := w.message ++ bytes.drop 1
  if !w.power ∨ w.tapMute then .next s
  else if bytes.isEmpty then .next (wbReply s [3])
  else if numAt bytes 0 1 = 0 then .next (wbReply { s with wb := { w with message := m } } [0])
  else
    let w := { w with message := [] }
    let s := { s with wb := w }
    if !authSigned w m then .next (wbReply s [4])
    else if auditFull w then .next (wbReply s [5])
    else if numAt m 0 1 = 1 ∧ m.length = 2821 then
      .next (wbReply { s with wb := auditAdd { w with paired := none, feedKey := none } 3 (w.paired.getD []) } [0])
    else if numAt m 0 1 = 2 ∧ m.length = 2889 then
      .next (wbReply { s with wb := auditAdd { w with authority := sliceZ m 1 68 } 2 (keyId (sliceZ m 1 68)) } [0])
    else .next (wbReply s [3])

/-! ### Seal and mirror (R384, R385) -/

/-- SEAL_BREACH (R384): the audit entry is signed with the last index, then there is no key. -/
def execSealBreach (s : State) : Host.Outcome State Fault Refusal :=
  let w := s.wb
  if w.sealBroken then .next s
  else
    let a : Audit := { num := w.audit.length, kind := 5, blockNo := BitVec.ofNat 32 w.blockNo, detail := List.replicate 32 0, signature := [] }
    let a := { a with signature := sized 5605 (Config.xmssSign wbKey (2 ^ 40 - 1) (auditBody a)) }
    .next { s with wb := { w with
      sealBroken := true, feedKey := none, audit := if auditFull w then w.audit else w.audit ++ [a] } }

/-- What a mirror frame carries (R385). -/
def mirrorOf (s : State) : Mirror :=
  let w := s.wb
  let r := w.lastRec
  let get (f : SecRec → Nat) : Nat := match r with | some x => f x | none => 0
  { present := true, sealOk := !w.sealBroken, paired := w.paired == some (serialBytes s), feedOk := w.feedOk, auditFull := auditFull w,
    power := BitVec.ofNat 32 (get (fun x => x.energy)), energy := BitVec.ofNat 64 w.total,
    secNo := (match r with | some x => x.secNo | none => 0), blockNo := BitVec.ofNat 32 w.signedNo,
    fwChanges := BitVec.ofNat 16 w.fwChanges, pairings := BitVec.ofNat 16 w.pairings,
    vMin := BitVec.ofNat 16 (get (fun x => x.vMin)), vMax := BitVec.ofNat 16 (get (fun x => x.vMax)), feedRej := w.feedRej,
    attr := w.lastAttr, attrSel := s.wb.mirror.attrSel }

/-- MIRROR_FRAME (R385, R376, R386): the readings are held in block WGB; after a power-up, firmware pairs the module with a
weighbridge it shares no key with. -/
def execMirrorFrame (s : State) : Host.Outcome State Fault Refusal :=
  if !s.wb.power ∨ (s.dev.phase ≠ .ready ∧ s.dev.phase ≠ .stopped) then .next s
  else
    let s := { s with wb := { s.wb with mirror := mirrorOf s } }
    if !s.sec.pairDue then .next s
    else if s.wb.mirror.paired && s.sec.feedKey.isSome then .next { s with sec := { s.sec with pairDue := false } }
    else .next (pairSend s)

/-- MIRROR_LOST (R385): no frame for 3 s. -/
def execMirrorLost (s : State) : Host.Outcome State Fault Refusal :=
  if !s.wb.mirror.present then .next s
  else .next (logNote { cls := 0x19, sev := 0, unitKind := 14 } { s with wb := { s.wb with mirror := { s.wb.mirror with present := false } } })

end Sys2Proof.Machine
end

