-- ==== Sys2Proof/Machine/Boot.lean ====
section
/-! DEFINITION. Loss of power, boot and the boot flash (spec/16 R408-R412). -/
namespace Sys2Proof.Machine

/-! ### Loss of power (R408, R355, R362, R374) -/

/-- What survives a loss of power: what is fused, the secure store, the weighbridge, and the pins. -/
def powerLoss (s : State) : State :=
  let d := s.dev
  let k := s.sec
  let dev : Dev := {
    phase := .off, now := d.now, stepping := d.stepping, strap := d.strap, wbStrap := d.wbStrap, wake := d.wake, pwrEn := false,
    coolantFault := d.coolantFault, coolantSince := d.coolantSince, flashReq := d.flashReq, flashGnt := false }
  let sec : Sec := {
    lc := k.lc, epoch := k.epoch, serial := k.serial, updCnt := k.updCnt, fwFloor := k.fwFloor, owner := k.owner, cert := k.cert,
    vendor := k.vendor, revoked := k.revoked, mus := k.mus, rmaFuse := k.rmaFuse, next := k.next, feedStored := k.feedStored, feedKey := k.feedKey,
    storeFails := k.storeFails }
  { pending := s.pending, fresh := s.fresh, dev := dev, sec := sec, wb := { s.wb with mirror := {} } }

/-- POWER_OFF (R408): PWR_EN falls. -/
def execPowerOff (s : State) : Host.Outcome State Fault Refusal := .next (powerLoss s)

/-! ### Image acceptance (R410) -/

/-- The fields of an image slot (R410). -/
def imgVersion (x : List Byte) : Nat := numAt x 4 4
def imgLen (x : List Byte) : Nat := numAt x 8 4
def imgKey (x : List Byte) : List Byte := sliceZ x 0x10 68
def imgBody (x : List Byte) : List Byte := sliceZ x 0x60 (imgLen x)
def imgSigned (x : List Byte) : List Byte := sliceZ x 0 (0x60 + imgLen x)
def imgSig (x : List Byte) : List Byte := sliceZ x (0x60 + imgLen x) 2820

/-- Whether the boot ROM accepts an image slot: in RETIRED no root is in use (spec/13 R354). -/
def slotOk (s : State) (x : List Byte) : Bool :=
  decide (numAt x 0 4 = 0x46570001) && decide (imgLen x ≤ 0x3FF0000) && decide (s.sec.fwFloor.toNat ≤ imgVersion x) && decide (s.sec.lc ≠ 5)
    && (vendorKeyOk s (keyId (imgKey x)) || (testRoot s && keyId (imgKey x) == keyId (sized 68 (identityPub s))))
    && Config.xmssVerify (keyId (imgKey x)) (imgSigned x) (imgSig x)

/-- The slots in the order in which they are tried: the higher version first, slot A first when they are equal. -/
def slotsTried (c : BootCfg) : List (List Byte) :=
  if imgVersion c.slotA < imgVersion c.slotB then [c.slotB, c.slotA] else [c.slotA, c.slotB]

/-! ### The boot (R411, R412) -/

/-- At power-up, generations of slots and contexts are filled from the TRNG (spec/02 R45): one free value each. -/
def fillGens (s : State) : State :=
  let n := s.fresh
  let gen (i : Nat) : W32 := (Config.freeValue (n + i)).setWidth 32
  let slots := ((List.range 64).map (fun i => (i, ({ pgen := gen i } : Slot)))).filter (fun e => decide (e.2 ≠ {}))
  let ctxs := ((List.range 1024).map (fun i => (i, ({ gen := gen (64 + i) } : Ctx)))).filter (fun e => decide (e.2 ≠ {}))
  { s with fresh := n + 1088, part := { s.part with slots := slots, ctxs := ctxs } }

/-- Step 2: the TRNG's health tests and the secure store; at power-up the retained indices are those of the store, and the first
boot in BLANK enters VENDOR (spec/13 R354, R362, R374). -/
def bootSec (s : State) (c : BootCfg) (up : Bool) : State :=
  let k := s.sec
  let k := { k with trngOk := c.trngOk, trngFails := if c.trngOk then k.trngFails else k.trngFails + 1, storeFails := !c.storeOk,
                    pairDue := c.trngOk }
  let k := if up then { k with cur := k.next, lim := k.next, feedSeq := k.feedStored + 0x100000, vendor := c.vendorHashes } else k
  let k := if k.lc = 0 ∧ c.trngOk then { k with lc := 1, epoch := k.epoch + 1, mus := true } else k
  { s with sec := k }

/-- Steps 4 and 6: clocks, measured FIO (a free value of 360 to 440 MHz, spec/01 R30), and the units, each through R63; with a
coolant fault the rails of the cores stay down (R412). -/
def bootUnits (s : State) (c : BootCfg) : State :=
  let (a, s) := takeFree s
  let (b, s) := takeFree s
  let fio (v : W64) : BitVec 9 := BitVec.ofNat 9 (360 + v.toNat % 81)
  let s := { s with dev := { s.dev with pllMgmt := true, onFio := false, fio0 := fio a, fio1 := fio b } }
  let s := if s.dev.coolantFault then
      let s := (List.range 192).foldl (fun s n => unitReady s ⟨2, n⟩) s
      (List.range 2).foldl (fun s n => unitReady s ⟨8, n⟩) s
    else
      { s with
        units := { s.units with
          base := .ready, marks := [], bgenBase := s.units.bgenBase + 1, bgen := s.units.bgen.map (fun e => (e.1, e.2 + 1)), out := [], isolated := [] },
        dev := { s.dev with pll0 := 0xF, pll1 := 0xF } }
  (c.failed.filter (fun u => unitExists u && (!s.dev.coolantFault || u.kind == 2))).foldl unitFail s

/-- Step 8: the Haldip ports train and learn their adapters; with a coolant fault they stay off. -/
def bootPorts (s : State) (c : BootCfg) : State :=
  let one (s : State) (p : Nat) (a : Option Nat) : State :=
    setFe s p { getFe s p with adapter := a, up := a.isSome && !s.dev.coolantFault && unitSt s ⟨6, p⟩ == .ready }
  one (one s 0 c.adapter0) 1 c.adapter1

/-- Steps 3 to 8 once an image is loaded; its body's digest is FW_DIGEST (R410). -/
def bootOn (s : State) (c : BootCfg) (x : List Byte) : State :=
  let s := { s with sec := { s.sec with fwVer := BitVec.ofNat 32 (imgVersion x), fwDigest := shake256 (imgBody x) 32 } }
  let s := bootUnits s c
  let s := if c.trngOk && decide (s.sec.lc ≠ 0) && decide (s.sec.lc ≠ 5) then newAttKey s else s
  let s := bootPorts s c
  let hot := s.dev.coolantFault
  let h := if hot then 3 else 0
  { s with dev := { s.dev with phase := .ready, flashGnt := true, pwrEn := true, thermAlert := hot, cnt0 := 0, cnt1 := 0 },
           units := { s.units with esc := s.units.esc.filter (fun e => e.u.kind != 13) }, pwr := { s.pwr with half0 := h, half1 := h } }

/-- The flash is read and an image tried (R410): when none is accepted the module stays in boot. -/
def bootRead (s : State) (c : BootCfg) : State :=
  match (slotsTried c).find? (slotOk s) with
  | some x => bootOn s c x
  | none => { s with dev := { s.dev with phase := .bootFailed, flashGnt := true } }

/-- BOOT (R411): power-up, or the boot of a module reset; a flash that the management controller has asked for is waited for
(R409). -/
def execBoot (c : BootCfg) (s : State) : Host.Outcome State Fault Refusal :=
  if s.dev.phase ≠ .off ∧ s.dev.phase ≠ .boot ∨ s.dev.bootWaits.isSome then .next s
  else
    let up := c.powerUp || s.dev.phase == .off
    let s := if up then fillGens (powerLoss s) else s
    let s := { s with dev := { s.dev with phase := .boot, pwrEn := true, strap := if up then c.strap else s.dev.strap } }
    let s := bootSec s c up
    if s.dev.flashReq then .next { s with dev := { s.dev with bootWaits := some c, flashGnt := true } } else .next (bootRead s c)

/-! ### The flash port (R409) -/

/-- FLASH_REQUEST: granted at once, or at the end of the read under way. -/
def execFlashRequest (reading : Bool) (s : State) : Host.Outcome State Fault Refusal :=
  let now := decide (s.dev.phase ≠ .off) && !(reading && s.dev.phase == .boot)
  .next { s with dev := { s.dev with flashReq := true, flashGnt := now } }

/-- FLASH_RELEASE: a boot that waits goes on. -/
def execFlashRelease (s : State) : Host.Outcome State Fault Refusal :=
  let s := { s with dev := { s.dev with flashReq := false } }
  match s.dev.bootWaits with
  | some c => .next (bootRead { s with dev := { s.dev with bootWaits := none } } c)
  | none => .next s

end Sys2Proof.Machine
end

