-- ==== Sys2Proof/Machine/CoreWord.lean ====
section
/-! DEFINITION. A whole 64-bit instruction word at a tenancy's PC (spec/05 R122-R124): its opcode picks the instruction. -/
namespace Sys2Proof.Machine

/-- The meaning of an instruction word below its opcode. -/
abbrev Meaning := TenRef → BitVec 56 → State → Host.Outcome State Fault Refusal

/-- The meanings by opcode: the scalar instructions. -/
def scalarRuns : List (Nat × Meaning) :=
  [(0x01, execAdd), (0x02, execSub), (0x03, execAndX), (0x04, execOrX), (0x05, execXorX), (0x06, execShl), (0x07, execShr),
   (0x08, execSra), (0x09, execMul), (0x0A, execMulhu), (0x0B, execMulhs), (0x0C, execDivu), (0x0D, execDivs),
   (0x0E, execRemu), (0x0F, execRems), (0x10, execSlt), (0x11, execSltu), (0x12, execSeqEq), (0x13, execMins),
   (0x14, execMaxs), (0x15, execMinu), (0x16, execMaxu), (0x17, execSel), (0x18, execMovi), (0x19, execSethi),
   (0x20, fun t w => execLd t w .clean), (0x21, execSt)]

/-- The meanings by opcode: the vector and predicate instructions. -/
def vectorRuns : List (Nat × Meaning) :=
  [(0x30, execVadd), (0x31, execVsub), (0x32, execVmul), (0x33, execVfma), (0x34, execVdiv), (0x35, execVmin),
   (0x36, execVmax), (0x37, execVand), (0x38, execVor), (0x39, execVxor), (0x3A, execVshl), (0x3B, execVshr),
   (0x3C, execVsra), (0x3D, execVsgn), (0x40, execVfunc), (0x41, execVcmp), (0x42, execVcvt), (0x43, execVred),
   (0x44, execVbcast), (0x45, execVext), (0x46, execVins), (0x47, execVperm), (0x48, execViota),
   (0x49, fun t w => execVld t w .clean), (0x4A, execVst), (0x4B, execVldc), (0x4C, execVstc), (0x4D, execPlog)]

/-- The meanings by opcode: the tensor and accumulator instructions. -/
def matrixRuns : List (Nat × Meaning) :=
  [(0x60, fun t w => execTmma t w .clean), (0x70, execAclr), (0x71, execAdrain), (0x72, execAld)]

/-- The meanings by opcode: data movement, remote access, atomics, synchronisation and control. -/
def dataRuns : List (Nat × Meaning) :=
  [(0x80, execXfer), (0x81, execXwait), (0x82, fun t w => execXprog t w 0), (0x84, execRst), (0x85, execRld),
   (0x88, execAtom), (0x89, execRed), (0x8A, execVredw), (0xA0, execErec), (0xA1, execEwait), (0xA4, execBar),
   (0xA5, execFence), (0xC0, execBr), (0xC1, execJal), (0xC2, execJalr), (0xC4, execEndK), (0xC5, execSpr),
   (0xC6, execFlagclr), (0xC7, execTrap)]

/-- The meanings by opcode (R124). -/
def coreRuns : List (Nat × Meaning) := scalarRuns ++ vectorRuns ++ matrixRuns ++ dataRuns

/-- The instruction that a 64-bit word holds, by its opcode (R122): NOP with every field zero (R126), a listed one, or an undefined
one, which is improper (R123, R124). -/
def execCoreNop (t : TenRef) (w : W64) (s : State) : Host.Outcome State Fault Refusal :=
  match coreRuns.find? (fun e => e.1 == coreOpcode w) with
  | some e => e.2 t (w.setWidth 56) s
  | none => .next (issueTen t [] (decide (w = 0)) (fun x => .done x.next false) s)

end Sys2Proof.Machine
end

