-- ==== Sys2Proof/Machine/Registers.lean ====
section
/-! DEFINITION. Register writes (spec/15): access codes of every register (spec/00 R6), aliases and reserved bits (R388,
R389), guards and violations (R392-R396), the sealed configuration check (R401-R404), and the paths (R397-R399). -/
namespace Sys2Proof.Machine

/-! ### Access codes (R6) -/

/-- The bits of a register by access code; bits in none of them are RO or WO. -/
structure Acc where
  rw : Nat := 0
  w1c : Nat := 0
  w1s : Nat := 0
  rwk : Nat := 0
  rwc : Nat := 0
  rsv : Nat := 0
deriving DecidableEq, Repr

/-- The registers of a block with a bit that is not RO or WO, by offset; a block of a group answers for all of it, and
registers of a channel or core for all channels and cores (`regNorm`). -/
def accTable (b : Nat) : List (Nat × Acc) :=
  if b = 0 then
    [ (0x010, { rsv := 0xFFFFFC00 }), (0x100, { rw := 0xFF3F, rsv := 0xFFFF00C0 }), (0x104, { rsv := 0xE00 }),
      (0x110, { rw := 0xFF, rsv := 0xFFFFFF00 }), (0x114, { rsv := 0xFFFFFE00 }), (0x400, { rwk := 0x3FFF, rsv := 0xFFFFC000 }),
      (0x410, { rw := 0xFF, rsv := 0xFFFFFF00 }), (0x414, { rw := 0xFFFFFFFF }), (0x418, { rw := 0xFFFFFFFF }),
      (0x41C, { rw := 0xFFFFFFFF }), (0x420, { rw := 0x1FFFF, rsv := 0xFFFE0000 }), (0x500, { rw := 0x1FF, rsv := 0xFFFFFE00 }),
      (0x504, { rw := 0x3FF, rsv := 0xFFFFFC00 }), (0x508, { rw := 0xFFFFFFFF }), (0x50C, { rw := 0xFFFFFFFF }),
      (0x510, { rw := 0xF, rsv := 0xFFFFFFF0 }), (0x514, { rw := 0xFFFFFFFF }), (0x518, { rw := 0xFFFFFFFF }),
      (0x51C, { rw := 0x3, rsv := 0xFF0000FC }), (0x520, { rw := 0xFFFF, rsv := 0xFFFF0000 }) ]
  else if b = 1 then [(0x0, { rsv := 0xFFFFFC00 }), (0x4, { rsv := 0xFF000000 }), (0x8, { rsv := 0xFFFC0000 })]
  else if b = 2 then
    [ (0x00, { rsv := 0xFFFFFFE0 }), (0x04, { rw := 0xFFFF, rsv := 0xFFFF0000 }), (0x08, { rwk := 0xFFFFFFFF }),
      (0x18, { rsv := 0xFFFFFFC0 }), (0x1C, { rwk := 0xFFF000, rw := 0xFF000000 }), (0x20, { rwk := 0xFF }),
      (0x28, { rwk := 0xFFFFFF, rsv := 0xFF000000 }) ]
  else if b = 3 then
    [(0x0, { rw := 0x3F, rsv := 0xFFFFFFC0 }), (0x4, { rsv := 0xFFFF0000 }), (0x8, { rwk := 0xFFFF, rsv := 0xFFFF0000 }), (0xC, { rsv := 0xFFFFFFF8 })]
  else if b = 4 then
    [ (0x00, { rwc := 0x3, rsv := 0xFFFFFFFC }), (0x08, { rsv := 0xFC000000 }), (0x0C, { rw := 0x1, rsv := 0xFFFFFFFE }),
      (0x1C, { rw := 0xFFFF, rsv := 0xFFFF0000 }), (0x20, { rw := 0x3, rsv := 0xFFFFFFFC }), (0x28, { rsv := 0xFFFFE000 }),
      (0x38, { rsv := 0xFF000000 }), (0x3C, { rsv := 0xFFFF00FC }), (0x40, { rwk := 0x7FFF, rsv := 0xFFFF8000 }),
      (0x44, { rwk := 0x7FFFF, rsv := 0xFFF80000 }), (0x48, { rsv := 0xFFFE }), (0x4C, { w1s := 0x1, rw := 0x2, rsv := 0xFFFFFFFC }),
      (0x50, { rw := 0x1FFFF, rsv := 0xFFFE0000 }), (0x54, { rw := 0x1FFF, rsv := 0xFFFFE000 }) ]
  else if b = 5 then [(0x08, { rsv := 0xFFFFE0E0 })]
  else if b = 6 then [(0x00, { rwc := 0x3, rsv := 0xFFFFFFFC }), (0x08, { rwc := 0xFFFFFFFF }), (0x14, { w1c := 0x1, rsv := 0xFFFFFFFC })]
  else if b = 0x10 then
    [ (0x000, { rsv := 0xFFFFF000 }), (0x100, { rw := 0xFFF, rsv := 0xFFFFF000 }), (0x10C, { rsv := 0xFFFF0000 }),
      (0x200, { rw := 0x7FF, rsv := 0xFFFFF800 }), (0x204, { rsv := 0xF800 }), (0x208, { rsv := 0xFFFF0000 }),
      (0x300, { rsv := 0xC000C000 }), (0x30C, { rsv := 0xFFFFE000 }) ]
  else if 0x11 ≤ b ∧ b ≤ 0x1F then [(0x000, { rsv := 0xFFFFF000 })]
  else if b = 0x20 ∨ b = 0x21 then [(0x00, { rw := 0x7FFF, rsv := 0xFFFF8000 }), (0x0C, { rsv := 0xF0000000 })]
  else if b = 0x30 then [(0x00, { rw := 0xFFF, rsv := 0xFFFFF000 }), (0x04, { rsv := 0xFC000000 }), (0x0C, { rsv := 0xFFFFFE00 })]
  else if b = 0x40 then [(0x00, { rsv := 0xFFF80000 }), (0x04, { rw := 0x1FF, rsv := 0xFFFFFE00 })]
  else if 0x80 ≤ b ∧ b ≤ 0x8B then
    [(0x100, { rw := 0x7FFF, rsv := 0xFFFF8000 }), (0x1000, { rsv := 0xFFFFFC00 }), (0x1010, { rsv := 0xFFFFF800 })]
  else if 0xC0 ≤ b ∧ b ≤ 0xDF then
    [ (0x000, { rwk := 0x3FFFFF, rsv := 0xFFC00000 }), (0x004, { rsv := 0xFFC00000 }), (0x008, { rsv := 0xFFFFFFF8 }),
      (0x00C, { rsv := 0xFFF80000 }), (0x024, { rsv := 0xFF000000 }), (0x028, { rw := 0x1FF, rsv := 0xFFFFFE00 }),
      (0x100, { rw := 0x3F, rsv := 0xFFFFFFC0 }), (0x104, { rsv := 0xFFFFFE00 }) ]
  else if 0x100 ≤ b ∧ b ≤ 0x123 then
    [(0x1000, { rsv := 0xFF000000 }), (0x1004, { rsv := 0xFFFF0000 }), (0x1008, { rw := 0x3FF, rsv := 0xFFFFFC00 })]
  else if b = 0x200 then
    [(0x00, { rsv := 0xFFFFFFE0 }), (0x2C, { rsv := 0xFFE00000 }), (0x30, { rsv := 0xFFE00000 }), (0x34, { rsv := 0xF8000000 })]
  else if b = 0x210 then [(0x000, { rsv := 0xFFFFFFE0 }), (0x100, { rw := 0x7F, rsv := 0xFFFFFF80 })]
  else if b = 0x220 then [(0x00, { rw := 0x3F, rsv := 0xFFFFFFC0 }), (0x04, { rsv := 0xFFFFFF80 })]
  else if b = 0x230 then
    [ (0x00, { rw := 0x3FF, rsv := 0xFFFFFC00 }), (0x04, { rsv := 0xFFFFFF00 }), (0x0C, { w1c := 0x3, rsv := 0xFFFFFFFC }),
      (0x10, { rsv := 0xFF000000 }) ]
  else []

/-- The offset that stands for a register in `accTable`. -/
def regNorm (r : RegAt) : Nat :=
  if 0x80 ≤ r.blk ∧ r.blk ≤ 0x8B ∧ 0x1000 ≤ r.off ∧ r.off < 0x1200 then 0x1000 + r.off % 0x20
  else if 0x100 ≤ r.blk ∧ r.blk ≤ 0x123 ∧ 0x1000 ≤ r.off ∧ r.off < 0x1400 then 0x1000 + r.off % 0x40
  else r.off

/-- The access codes of a register; an offset that holds none has none (R387). -/
def accOf (r : RegAt) : Acc := ((accTable r.blk).find? (fun e => e.1 == regNorm r)).elim {} (fun e => e.2)

/-! ### What a write does to each register -/

/-- Every slot is FREE. -/
def allFree (s : State) : Bool := s.part.slots.all (fun e => e.2.st == 0)

/-- Half of a selected stream's field. -/
def setStreamSel (s : State) (f : Stream → Stream) : State :=
  setStream s s.dev.colsSel.toNat (f (getStream s s.dev.colsSel.toNat))

/-- A field of a stream that is writable only while it is OFF (spec/09 R288). -/
def setStreamOff (s : State) (f : Stream → Stream) : State :=
  if (getStream s s.dev.colsSel.toNat).st = 0 then setStreamSel s f else s

/-- Block DEV. -/
def writeDev (s : State) (o : Nat) (v : W32) : State :=
  let d := s.dev
  let n := v.toNat
  let dev (d : Dev) : State := { s with dev := d }
  if o = 0x100 then dev { d with distSheaf := BitVec.ofNat 6 n, distChan := BitVec.ofNat 8 (n / 256) }
  else if o = 0x110 then dev { d with chremapSel := BitVec.ofNat 8 n }
  else if o = 0x400 then (if allFree s then dev { d with fabId := BitVec.ofNat 14 n } else s)
  else if o = 0x410 then dev { d with rtSel := BitVec.ofNat 8 n }
  else if o = 0x414 then dev { d with rtStage0 := some v }
  else if o = 0x418 then dev { d with rtStage1 := some v }
  else if o = 0x41C then rtCommit v s
  else if o = 0x420 then dev { d with adaptBias := BitVec.ofNat 8 n, adaptStall := BitVec.ofNat 8 (n / 256), nonminEn := bitAt n 16 }
  else if o = 0x500 then dev { d with colsSel := BitVec.ofNat 9 n }
  else if o = 0x504 then setStreamOff s (fun x => { x with ctx := n % 1024 })
  else if o = 0x508 then setStreamOff s (fun x => { x with ring := x.ring / 2 ^ 32 * 2 ^ 32 + n })
  else if o = 0x50C then setStreamOff s (fun x => { x with ring := x.ring % 2 ^ 32 + n * 2 ^ 32 })
  else if o = 0x510 then setStreamSel s (fun x => { x with log2 := n % 16 })
  else if o = 0x514 then setStreamSel s (fun x => { x with door := v })
  else if o = 0x518 then setStreamSel s (fun x => { x with doneEvt := v })
  else if o = 0x51C then colsCtrl v s
  else if o = 0x520 then setStreamSel s (fun x => { x with timeout := BitVec.ofNat 16 n })
  else s

/-- Blocks PWR and THM. -/
def writePwr (s : State) (b o : Nat) (v : W32) : State :=
  let p := s.pwr
  let n := v.toNat
  let pwr (p : Pwr) : State := { s with pwr := p }
  if b = 3 then
    if o = 0x0 then pwr { p with thmSel := BitVec.ofNat 6 n }
    else if o = 0x8 then pwr { p with throttle := BitVec.ofNat 8 n, crit := BitVec.ofNat 8 (n / 256) }
    else s
  else if o = 0x04 then pwr { p with lullEn := bitAt n 0, lullIdle := BitVec.ofNat 15 (n / 2) }
  else if o = 0x08 then pwr { p with limit := v }
  else if o = 0x1C then pwr { p with fmax := BitVec.ofNat 12 (n / 2 ^ 12), memf := BitVec.ofNat 8 (n / 2 ^ 24) }
  else if o = 0x20 then pwr { p with thresh := BitVec.ofNat 8 n }
  else if o = 0x28 then pwr { p with shiftEn := bitAt n 0, shiftLead := BitVec.ofNat 14 (n / 2), shiftRange := BitVec.ofNat 9 (n / 2 ^ 15) }
  else s

/-- RES_SCALE: no effect while any slot is not FREE; a committed change clears every path's guard state (spec/11 R303, R396). -/
def writeScale (s : State) (v : W32) : State :=
  let c := BitVec.ofNat 2 v.toNat
  if !allFree s || c == s.res.scale then s else clearLocks { s with res := { s.res with scale := c } }

/-- RES_SVC_CMD: while an action is under way, no effect (notes/assumptions/40.md). -/
def writeSvc (s : State) (v : W32) : State :=
  if s.units.svcBusy then s
  else
    let s := { s with units := { s.units with svcCmd := BitVec.ofNat 19 v.toNat } }
    if bitAt v.toNat 18 then svcGo s v else s

/-- Block RES. -/
def writeRes (s : State) (o : Nat) (v : W32) : State :=
  let r := s.res
  let n := v.toNat
  let res (r : Res) : State := { s with res := r }
  if o = 0x00 then writeScale s v
  else if o = 0x0C then res { r with winnow7 := bitAt n 0 }
  else if o = 0x1C then res { r with ceThresh := BitVec.ofNat 16 n }
  else if o = 0x20 then drainAll (res { r with rptPort := bitAt n 0, failover := bitAt n 1 })
  else if o = 0x40 then
    let s := res { r with peerFail := BitVec.ofNat 15 (n % 2 ^ 14) }
    if bitAt n 14 then peerFailWrite v s else s
  else if o = 0x44 then writeSvc s v
  else if o = 0x4C then
    let s := res { r with gleanHalf := bitAt n 1 }
    if bitAt n 0 && !halfOff s (fld n 1 1) then writeDump s (fld n 1 1) 0 0 else s
  else if o = 0x50 then res { r with gleanSel := BitVec.ofNat 17 n }
  else if o = 0x54 then res { r with logSel := BitVec.ofNat 13 n }
  else s

/-- A committed CRC_REF ends grace and lets drift be raised again (R403). -/
def commitRef (s : State) (v : W32) : State := { s with lck := { s.lck with crcRef := v, grace := false, raised := false } }

/-- Block CRC. -/
def writeCrc (s : State) (o : Nat) (v : W32) : State :=
  let n := v.toNat
  if o = 0x00 then { s with lck := { s.lck with crcEn := bitAt n 0, commit := s.lck.commit || bitAt n 1 } }
  else if o = 0x08 then commitRef s v
  else if o = 0x14 then { s with lck := { s.lck with drift := s.lck.drift && !bitAt n 0 } }
  else s

/-- FAB_PORT_CFG: ENABLE lets an OFF port train; cleared, the port is DOWN (spec/09 R247, R249). -/
def writePortCfg (s : State) (q : Nat) (v : W32) : State :=
  let x := getPort s q
  let on := bitAt v.toNat 21
  let s := if !on && portEnabled x && x.st != 0 then portDown s q else s
  let y := getPort s q
  setPort s q { y with cfg := BitVec.ofNat 22 v.toNat, st := if on && y.st == 0 then 1 else y.st }

/-- The other blocks. -/
def writeBlock (s : State) (b o : Nat) (v : W32) : State :=
  let n := v.toNat
  if b = 0x10 then
    if o = 0x100 then { s with seq := { s.seq with runSel := BitVec.ofNat 12 n } }
    else if o = 0x200 then { s with seq := { s.seq with progSel := BitVec.ofNat 11 n } }
    else s
  else if b = 0x20 ∨ b = 0x21 then
    (if o = 0x00 then { s with ev := { s.ev with sel := tabSet (fun _ => 0) s.ev.sel (b - 0x20) (BitVec.ofNat 15 n) } } else s)
  else if b = 0x30 then (if o = 0x00 then { s with fe := { s.fe with qptSel := BitVec.ofNat 12 n } } else s)
  else if b = 0x40 then (if o = 0x04 then fqDrain { s with xlt := { s.xlt with quota := BitVec.ofNat 9 n } } else s)
  else if 0x80 ≤ b ∧ b ≤ 0x8B then
    (if o = 0x100 then { s with mem := { s.mem with tagSel := tabSet (fun _ => 0) s.mem.tagSel (b - 0x80) (BitVec.ofNat 15 n) } } else s)
  else if 0xC0 ≤ b ∧ b ≤ 0xDF then
    let q := b - 0xC0
    if o = 0x000 then writePortCfg s q v
    else if o = 0x028 then setPort s q { getPort s q with transit := BitVec.ofNat 9 n }
    else if o = 0x100 then setPort s q { getPort s q with shareSel := BitVec.ofNat 6 n }
    else s
  else if 0x100 ≤ b ∧ b ≤ 0x123 then
    (if 0x1000 ≤ o ∧ o < 0x1400 ∧ o % 0x40 = 0x08 then
      let c := 16 * (b - 0x100) + (o - 0x1000) / 0x40
      setCore s c { getCore s c with slice := BitVec.ofNat 10 n }
    else s)
  else if b = 0x210 then
    (if o = 0x100 then { s with wb := { s.wb with mirror := { s.wb.mirror with attrSel := BitVec.ofNat 7 n } } } else s)
  else if b = 0x220 then (if o = 0x00 then { s with part := { s.part with prtSel := BitVec.ofNat 6 n } } else s)
  else if b = 0x230 then
    if o = 0x00 then { s with part := { s.part with ctxSel := BitVec.ofNat 10 n } }
    else if o = 0x0C then
      let c := s.part.ctxSel.toNat
      let x := getCtx s c
      setCtx s c { x with fgxOvf := x.fgxOvf && !bitAt n 0, relaxed := x.relaxed && !bitAt n 1 }
    else s
  else s

/-- A word written to a register's fields by their codes, every guard passed. -/
def regApply (s : State) (r : RegAt) (v : W32) : State :=
  if r.blk = 0 then writeDev s r.off v
  else if r.blk = 2 ∨ r.blk = 3 then writePwr s r.blk r.off v
  else if r.blk = 4 then writeRes s r.off v
  else if r.blk = 6 then writeCrc s r.off v
  else writeBlock s r.blk r.off v

/-! ### The sealed set (R401-R404) -/

/-- The mask of a sealed register. -/
def sealedMask (r : RegAt) : Nat :=
  if r.blk = 0 ∧ r.off = 0x400 then 0x3FFF
  else if r.blk = 2 ∧ r.off = 0x08 then 0xFFFFFFFF
  else if r.blk = 2 ∧ r.off = 0x1C then 0xFFF000
  else if r.blk = 2 ∧ r.off = 0x20 then 0xFF
  else if r.blk = 2 ∧ r.off = 0x28 then 0xFFFFFF
  else if r.blk = 3 ∧ r.off = 0x08 then 0xFFFF
  else if r.blk = 4 ∧ r.off = 0x00 then 0x3
  else if 0xC0 ≤ r.blk ∧ r.blk ≤ 0xDF ∧ r.off = 0x000 then 0x3FFFFF
  else 0

/-- What a register contributes to the sealed set: its masked word, or the route entry for DEV_RT_DATA2. -/
def sealedVal (s : State) (r : RegAt) : Nat :=
  if r.blk = 0 ∧ r.off = 0x41C then rtEntry s
  else if sealedMask r = 0 then 0
  else (regVal s 0 r &&& BitVec.ofNat 32 (sealedMask r)).toNat

/-- A write that changed a sealed word starts a grace period (R403). -/
def startGrace (before : Nat) (r : RegAt) (s : State) : State :=
  if sealedVal s r = before then s else { s with lck := { s.lck with grace := true } }

/-- A direct register. -/
def regAtOf (b o : Nat) : RegAt := { blk := b, form := 0, off := o }

/-- The 807 sealed words in order (R401). -/
def sealedWords (s : State) : List W32 :=
  let one (b o : Nat) : W32 := BitVec.ofNat 32 (sealedVal s (regAtOf b o))
  let rt := (List.range 256).flatMap (fun t =>
    let e := tabGet (fun _ => (0 : BitVec 96)) s.dev.rt t
    [e.setWidth 32, (e >>> 32).setWidth 32, (e >>> 64).setWidth 32])
  [one 0 0x400] ++ rt ++ [one 2 0x08, one 2 0x1C, one 2 0x20, one 2 0x28, one 3 0x08, one 4 0x00]
    ++ (List.range 32).map (fun q => one (0xC0 + q) 0x000)

/-- The CRC of the sealed set (R402). -/
def sealedCrc (s : State) : W32 := crc32c (wordBytes (sealedWords s))

/-! ### Violations and reserved bits (R389, R395) -/

/-- The DETAIL of a record of class 0x13. -/
def driftDetail (addr reason path : Nat) (v : W32) : Nat := addr + (reason + path * 2 ^ 4) * 2 ^ 64 + v.toNat * 2 ^ 96

/-- A record of class 0x13. -/
def driftLog (s : State) (addr reason path : Nat) (v : W32) : State :=
  logNote { cls := 0x13, sev := 0, unitKind := 15, detail := driftDetail addr reason path v } s

/-- A violation. -/
def violate (s : State) (path addr : Nat) (v : W32) : State :=
  driftLog { s with lck := { s.lck with viol := sat32 s.lck.viol } } addr 1 path v

/-- Reserved bits of a direct write: a change is ignored, counted and recorded, or, in DEBUG and RMA, takes effect. -/
def writeRsv (s : State) (path addr : Nat) (r : RegAt) (v : W32) : State :=
  let m : W32 := BitVec.ofNat 32 (accOf r).rsv
  let old := tabGet (fun _ => (0 : W32)) s.dev.rsv (regKey r)
  if v &&& m = old then s
  else if testRoot s then { s with dev := { s.dev with rsv := tabSet (fun _ => 0) s.dev.rsv (regKey r) (v &&& m) } }
  else driftLog { s with lck := { s.lck with rsvWr := sat32 s.lck.rsvWr } } addr 3 path v

/-! ### One register write on a path (R392-R394) -/

/-- The register whose _CPL guards a register: its own for RWC, LCK_CPL for RWK. -/
def cplOf (r : RegAt) : RegAt := if (accOf r).rwc ≠ 0 then regAtOf r.blk (r.off + 4) else regAtOf 5 0x04

/-- Whether a register is a _CPL. -/
def isCpl (r : RegAt) : Bool :=
  (r.blk == 5 && r.off == 0x04) || (r.blk == 4 && r.off == 0x04) || (r.blk == 6 && (r.off == 0x04 || r.off == 0x0C))

/-- Whether a register's guarded writes need a complement now (R392). -/
def atComplement (s : State) (r : RegAt) : Bool :=
  decide ((accOf r).rwc ≠ 0) || (decide ((accOf r).rwk ≠ 0) && decide (2 ≤ s.res.scale.toNat))

/-- Whether a direct write would change an RWK or RWC bit. -/
def isGuarded (s : State) (r : RegAt) (v : W32) : Bool :=
  ((v ^^^ regVal s 0 r) &&& BitVec.ofNat 32 ((accOf r).rwk ||| (accOf r).rwc)) != 0

/-- A write performed: reserved bits, fields, grace. -/
def perform (s : State) (path addr : Nat) (r : RegAt) (v : W32) : State :=
  let before := sealedVal s r
  startGrace before r (regApply (writeRsv s path addr r v) r v)

/-- The word that an alias write gives a register (R388). -/
def aliasWord (old v : W32) (form : Nat) (rw : W32) : W32 :=
  let b := v &&& rw
  if form = 1 then old ||| b else if form = 2 then old &&& ~~~ b else old ^^^ b

/-- An alias write: only RW bits; a 1 in an RWK or RWC bit is a violation. The flag is false for a violation. -/
def writeAlias (s : State) (path addr : Nat) (r : RegAt) (v : W32) : Bool × State :=
  let a := accOf r
  if v &&& BitVec.ofNat 32 (a.rwk ||| a.rwc) ≠ 0 then (false, violate s path addr v)
  else if a.rw = 0 then (true, s)
  else
    let d : RegAt := { r with form := 0 }
    let before := sealedVal s d
    let keep : W32 := BitVec.ofNat 32 (a.rw ||| a.rwk ||| a.rwc)
    (true, startGrace before d (regApply s d (aliasWord (regVal s 0 d) v r.form (BitVec.ofNat 32 a.rw) &&& keep)))

/-- The key that arms a lock. -/
def unlockKey : W32 := 0xA5C33C5A

/-- A write to LCK_UNLOCK (R393). -/
def writeUnlock (s : State) (path addr : Nat) (v : W32) : Bool × State :=
  let p := getPath s path
  let arm := decide (s.res.scale.toNat < 2) && v == unlockKey
  let s := setPath s path { p with armed := arm }
  if arm then (true, s) else (false, violate s path addr v)

/-- Guarded or plain, a direct write (R392-R394). `pair`: the complement comes with it; `last`: no further write of its packet
follows. -/
def writeDirect (s : State) (path addr : Nat) (r : RegAt) (v : W32) (pair last : Bool) : Bool × State :=
  let p := getPath s path
  if isGuarded s r v then
    if atComplement s r then
      if pair then (true, perform s path addr r v)
      else if last then (false, violate s path addr v)
      else (true, setPath s path { p with pendingW := some (addr, v) })
    else if p.armed then (true, perform s path addr r v)
    else (false, violate s path addr v)
  else
    let s := perform s path addr r v
    let p := getPath s path
    (true, if atComplement s r && !pair then setPath s path { p with matched := some (addr, v) } else s)

/-- A write goes by its register and form; the path's lock is disarmed after it (R393). -/
def writeOwn (s : State) (path addr : Nat) (r : RegAt) (v : W32) (pair last near : Bool) : Bool × State :=
  if r.form = 0 ∧ r.blk = 5 ∧ r.off = 0x00 then writeUnlock s path addr v
  else
    let o := if r.form ≠ 0 then writeAlias s path addr r v
      else if isCpl r then (if near then (true, s) else (false, violate s path addr v))
      else writeDirect s path addr r v pair last
    let p := getPath o.2 path
    (o.1, setPath o.2 path { p with armed := false })

/-- What a path's next write meets (R394): it completes a pending or matched write, or it discards a pending one. -/
inductive Settled where
  | done (s : State)
  | go (s : State) (violated near : Bool)

/-- The pending and matched writes of a path settled by its next write. -/
def settle (s : State) (path : Nat) (r : RegAt) (v : W32) : Settled :=
  let p := getPath s path
  match p.pendingW with
  | some (a, w) =>
    let s := setPath s path { p with pendingW := none, matched := none, armed := false }
    (match regAt a with
     | some t => if cplOf t = r ∧ v = ~~~ w then .done (perform s path a t w) else .go (violate s path a w) true false
     | none => .go s false false)
  | none =>
    match p.matched with
    | some (a, w) =>
      let s := setPath s path { p with matched := none }
      (match regAt a with
       | some t => if cplOf t = r ∧ v = ~~~ w then .done (setPath s path { p with matched := none, armed := false }) else .go s false true
       | none => .go s false false)
    | none => .go s false false

/-- One register write that comes alone on a path. -/
def regWrite (s : State) (path addr : Nat) (v : W32) : State :=
  match regAt addr with
  | none => s
  | some r =>
    if !blockServed s r then s
    else match settle s path r v with
      | .done s => s
      | .go s _ near => (writeOwn s path addr r v false false near).2

/-! ### Paths (R397) -/

/-- Whether a path is available. -/
def pathOpen (s : State) (path : Nat) : Bool :=
  let up := s.dev.phase == .ready || s.dev.phase == .stopped
  match path with
  | 0 => up && (getFe s 0).up && !takingOver s
  | 1 => up && (getFe s 1).up && !takingOver s
  | 2 => up && !takingOver s && !sideMuted s
  | 3 => s.dev.phase == .ready && (decide (halfPwr s 0 = 0) || decide (halfPwr s 1 = 0))
  | 4 => up && testRoot s
  | _ => false

/-- A write on a path, where it is available. -/
def pathWrite (s : State) (path addr : Nat) (v : W32) : State := if pathOpen s path then wakeAll (regWrite s path addr v) else s

/-- A read on a path, where it is available; what was read. -/
def pathRead (s : State) (path addr : Nat) : W32 × State :=
  if !pathOpen s path then (0, s)
  else match regAt addr with
    | none => (0, s)
    | some r => if blockServed s r then regRead s path r else (0, s)

/-- The address of a register. -/
def regAddr (b o : Nat) : Nat := regBase + b * 65536 + o

/-! ### Packets (R398, spec/06 R180) -/

/-- The path of a queue. -/
def pathOf (q : QRef) : Nat :=
  match q with
  | .mgmt h => h
  | .side => 2
  | _ => 3

/-- Steps 2 to 4 of R398 for an extent of `n` registers. -/
def extentCheck (s : State) (addr n : Nat) : Option Nat :=
  let l := (List.range n).map (fun i => regAt (addr + 4 * i))
  if addr % 4 ≠ 0 ∨ !inRegSpace addr then some stDenied
  else if l.any (fun x => x.isNone) then some stDenied
  else if l.any (fun x => match x with | some r => !blockServed s r | none => false) then some stPart
  else none

/-- The registers of an extent read in order. -/
def readExtent : Nat → Nat → Nat → State → List Byte × State
  | 0, _, _, s => ([], s)
  | n + 1, path, addr, s =>
    match regAt addr with
    | none => ([], s)
    | some r =>
      let (v, s) := regRead s path r
      let (l, s) := readExtent n path (addr + 4) s
      (leBytes 4 v.toNat ++ l, s)

/-- REG_READ's start (R398). -/
def startRegRead : Handler := fun q p s =>
  let n := p.w6.toNat
  if n = 0 ∨ (if q = .side then 54 else 2048) < n then answer q p stLen s
  else match extentCheck s (opA p) n with
    | some st => answer q p st s
    | none =>
      let (l, s) := readExtent n (pathOf q) (opA p) s
      sendReply q p { replyTo p stOk with payload := l } s

/-- The words of a packet without PAIRED, from index `i`: how many were written before a violation, or all. In a packet, the
word after a guarded write that is not its complement is not written (R395; DEDUCED, notes/assumptions/40.md). -/
def writeWords : List W32 → Nat → Nat → Nat → State → (Bool × Nat) × State
  | [], _, i, _, s => ((true, i), s)
  | v :: t, path, i, addr, s =>
    match regAt addr with
    | none => ((true, i), s)
    | some r =>
      match settle s path r v with
      | .done s => writeWords t path (i + 1) (addr + 4) s
      | .go s bad near =>
        if bad && decide (i ≠ 0) then ((false, i - 1), s)
        else match writeOwn s path addr r v false t.isEmpty near with
          | (false, s) => ((false, i), s)
          | (true, s) => writeWords t path (i + 1) (addr + 4) s

/-- The pairs of a PAIRED packet (R398). -/
def writePairs : List (W32 × W32) → Nat → Nat → Nat → State → (Bool × Nat) × State
  | [], _, i, _, s => ((true, i), s)
  | (v, c) :: t, path, i, addr, s =>
    match regAt addr with
    | none => ((true, i), s)
    | some r =>
      let s := match settle s path { blk := 0x10000, form := 0, off := 0 } v with
        | .done s => s
        | .go s _ _ => s
      if c ≠ ~~~ v then ((false, i), violate s path addr v)
      else match writeOwn s path addr r v true true false with
        | (false, s) => ((false, i), s)
        | (true, s) => writePairs t path (i + 1) (addr + 4) s

/-- The words of a payload. -/
def payloadWords (l : List Byte) : List W32 := (List.range (l.length / 4)).map (fun i => BitVec.ofNat 32 (numAt l (4 * i) 4))

/-- The pairs of a payload. -/
def payloadPairs (l : List Byte) : List (W32 × W32) :=
  (List.range (l.length / 8)).map (fun i => (BitVec.ofNat 32 (numAt l (8 * i) 4), BitVec.ofNat 32 (numAt l (8 * i + 4) 4)))

/-- REG_WRITE's start (R398). -/
def startRegWrite : Handler := fun q p s =>
  let paired := bitAt p.w6.toNat 0
  let n := p.payload.length
  let unit := if paired then 8 else 4
  if n = 0 ∨ n % unit ≠ 0 ∨ 8192 < n then answer q p stLen s
  else match extentCheck s (opA p) (n / unit) with
    | some st => answer q p st s
    | none =>
      let r := if paired then writePairs (payloadPairs p.payload) (pathOf q) 0 (opA p) s
        else writeWords (payloadWords p.payload) (pathOf q) 0 (opA p) s
      answerAt q p (if r.1.1 then stOk else stGuard) r.1.2 r.2

/-- REG_READ (R180, R398). -/
def execRegRead (p : Pkt) (s : State) : Host.Outcome State Fault Refusal :=
  .next (arrive startRegRead wrongOnFabric { p with opcode := 0x80 } s)

/-- REG_WRITE (R180, R398). -/
def execRegWrite (p : Pkt) (s : State) : Host.Outcome State Fault Refusal :=
  .next (arrive startRegWrite wrongOnFabric { p with opcode := 0x81 } s)

/-! ### The sideband (R399) -/

/-- Whether the management domain answers on the sideband; asleep, a transaction only wakes it (spec/12 R334), and a takeover answers with a
NACK (spec/11 R314). -/
def sideAnswers (s : State) : Bool := (s.dev.phase == .ready || s.dev.phase == .stopped) && !s.pwr.asleep && !sideMuted s
  && !takingOver s

def sideWake (s : State) : State := if sideMuted s then s else { s with pwr := { s.pwr with asleep := false } }

/-- SMB_BLOCK_READ: the oldest held reply is read and removed. -/
def execSmbBlockRead (s : State) : Host.Outcome State Fault Refusal :=
  if !sideAnswers s then .next (sideWake s)
  else match s.fe.sideHeld with
  | [] => .next { s with fe := { s.fe with sideOut := [0] } }
  | r :: t => .next { s with fe := { s.fe with sideHeld := t, sideOut := replyBytes r } }

/-- SMB_READ_BYTE. -/
def execSmbReadByte (s : State) : Host.Outcome State Fault Refusal :=
  let n := s.fe.sideHeld.length
  if !sideAnswers s then .next (sideWake s)
  else .next { s with fe := { s.fe with sideOut := [BitVec.ofNat 8 (b2n (decide (0 < n)) + b2n (decide (4 ≤ n)) * 2)] } }

/-- SMB_BUS_TIMEOUT: the bus is released and the transaction abandoned; what it would have returned is not taken. -/
def execSmbBusTimeout (s : State) : Host.Outcome State Fault Refusal :=
  .next { s with fe := { s.fe with sideOut := [] } }

/-! ### The commands on one register -/

/-- REGISTER_WRITE (R6, R389). -/
def execRegisterWrite (path addr : Nat) (v : W32) (s : State) : Host.Outcome State Fault Refusal := .next (pathWrite s path addr v)

/-- ALIAS_WRITE (R388): an address without an alias form is no alias write. -/
def execAliasWrite (path addr : Nat) (v : W32) (s : State) : Host.Outcome State Fault Refusal :=
  match regAt addr with
  | some r => if r.form = 0 then .next s else .next (pathWrite s path addr v)
  | none => .next s

/-- LO_LATCH_READ (R390). -/
def execLoLatchRead (path addr : Nat) (s : State) : Host.Outcome State Fault Refusal := .next (pathRead s path addr).2

/-- LCK_UNLOCK (R393). -/
def execLckUnlock (path : Nat) (v : W32) (s : State) : Host.Outcome State Fault Refusal := .next (pathWrite s path (regAddr 5 0x00) v)

/-- LOCK_EXPIRY (R393). -/
def execLockExpiry (path : Nat) (s : State) : Host.Outcome State Fault Refusal :=
  .next (setPath s path { getPath s path with armed := false })

/-- CPL_WRITE (R394): an address that is no _CPL register is no write of one. -/
def execCplWrite (path addr : Nat) (v : W32) (s : State) : Host.Outcome State Fault Refusal :=
  match regAt addr with
  | some r => if r.form = 0 ∧ isCpl r then .next (pathWrite s path addr v) else .next s
  | none => .next s

/-- PENDING_LAPSE (R394): 64 management cycles have passed. -/
def execPendingLapse (path : Nat) (s : State) : Host.Outcome State Fault Refusal :=
  let p := getPath s path
  let t := setPath s path { p with pendingW := none, matched := none }
  match p.pendingW with
  | some (a, w) => .next (violate t path a w)
  | none => .next t

/-- The end of a pass that has computed `c`: committed as the reference, or compared with it. -/
def crcEnd (c : W32) (s : State) : State :=
  let s := { s with lck := { s.lck with crcCur := c } }
  if s.lck.commit then commitRef { s with lck := { s.lck with commit := false } } c
  else if c = s.lck.crcRef then { s with lck := { s.lck with raised := false } }
  else if s.lck.grace || s.lck.raised then s
  else driftLog { s with lck := { s.lck with drift := true, raised := true, driftCnt := sat32 s.lck.driftCnt } } 0 0 15 c

/-- CRC_PASS (R402-R404). -/
def execCrcPass (s : State) : Host.Outcome State Fault Refusal :=
  if !s.lck.crcEn then .next s else .next (crcEnd (sealedCrc s) s)

/-- GRACE_EXPIRY (R403). -/
def execGraceExpiry (s : State) : Host.Outcome State Fault Refusal := .next { s with lck := { s.lck with grace := false } }

/-- CRC_COMMIT (R404): CRC_CTRL with COMMIT = 1, then a word to CRC_CTRL_CPL. -/
def execCrcCommit (path : Nat) (v cpl : W32) (s : State) : Host.Outcome State Fault Refusal :=
  .next (pathWrite (pathWrite s path (regAddr 6 0x00) (v ||| 2)) path (regAddr 6 0x04) cpl)

/-- SCALE_CLASS_WRITE (spec/11 R303, R394): RES_SCALE, then a word to RES_SCALE_CPL. -/
def execScaleClassWrite (path : Nat) (v cpl : W32) (s : State) : Host.Outcome State Fault Refusal :=
  .next (pathWrite (pathWrite s path (regAddr 4 0x00) v) path (regAddr 4 0x04) cpl)

/-- PEER_FAIL_DECLARE (spec/11 R323): RES_PEER_FAIL written with GO. -/
def execPeerFailDeclare (path : Nat) (v : W32) (s : State) : Host.Outcome State Fault Refusal :=
  .next (pathWrite s path (regAddr 4 0x40) (v ||| 0x4000))

/-- COLS_ENABLE (spec/09 R273): DEV_COLS_CTRL written with STATE 1. -/
def execColsEnable (path : Nat) (v : W32) (s : State) : Host.Outcome State Fault Refusal :=
  .next (pathWrite s path (regAddr 0 0x51C) ((v &&& 0xFFFFFFFC) ||| 1))

/-- COLS_DISABLE (spec/09 R273): DEV_COLS_CTRL written with STATE 0. -/
def execColsDisable (path : Nat) (v : W32) (s : State) : Host.Outcome State Fault Refusal :=
  .next (pathWrite s path (regAddr 0 0x51C) (v &&& 0xFFFFFFFC))

/-- RT_ENTRY_COMMIT (spec/09 R288): DEV_RT_DATA2 written. -/
def execRtEntryCommit (path : Nat) (v : W32) (s : State) : Host.Outcome State Fault Refusal :=
  .next (pathWrite s path (regAddr 0 0x41C) v)

/-- The word of a service command: its action, with GO. -/
def svcWord (v : W32) (act : Nat) : W32 := (v &&& 0xFFFCFFFF) ||| BitVec.ofNat 32 (act * 2 ^ 16 + 2 ^ 18)

/-- The unit of a service command. -/
def svcUnit (v : W32) : UnitRef := ⟨fld v.toNat 0 4, fld v.toNat 4 12⟩

/-- SCRUB and BIST of a service action end. -/
def svcRun (s : State) (v : W32) (pass : Bool) : State :=
  let u := svcUnit v
  if svcOn s u then wakeAll (bisted (scrubbed s u) u pass) else s

/-- SVC_OUT (spec/11 R327). -/
def execSvcOut (path : Nat) (v : W32) (s : State) : Host.Outcome State Fault Refusal :=
  .next (pathWrite s path (regAddr 4 0x44) (svcWord v 0))

/-- SVC_TEST (spec/11 R327). -/
def execSvcTest (path : Nat) (v : W32) (pass : Bool) (s : State) : Host.Outcome State Fault Refusal :=
  .next (svcRun (pathWrite s path (regAddr 4 0x44) (svcWord v 1)) v pass)

/-- SVC_IN (spec/11 R327). -/
def execSvcIn (path : Nat) (v : W32) (pass : Bool) (s : State) : Host.Outcome State Fault Refusal :=
  .next (svcRun (pathWrite s path (regAddr 4 0x44) (svcWord v 2)) v pass)

/-- GLEAN_DUMP (spec/11 R326): RES_GLEAN_CTRL written with DUMP. -/
def execGleanDump (path : Nat) (v : W32) (s : State) : Host.Outcome State Fault Refusal :=
  .next (pathWrite s path (regAddr 4 0x4C) (v ||| 1))

/-- LOG_RECORD_READ (spec/11 R309): word 15 of the selected record is read. -/
def execLogRecordRead (path : Nat) (s : State) : Host.Outcome State Fault Refusal := .next (pathRead s path (regAddr 4 0x103C)).2

end Sys2Proof.Machine
end

