-- ==== Sys2Proof/Machine/Security.lean ====
section
/-! DEFINITION. Key updates (spec/13 R358-R361) and attestation (R363-R365). -/
namespace Sys2Proof.Machine

/-! ### KEY_UPDATE (R358-R361) -/

/-- The encoding identifiers of XMSS-SHAKE256 with height 10, 16 and 20 (PRESUMED from NIST SP 800-208, big-endian as RFC
8391 encodes it), with the signature size of each (R356). -/
def xmssSizes : List (List Byte × Nat) := [([0, 0, 0, 0x10], 2500), ([0, 0, 0, 0x11], 2692), ([0, 0, 0, 0x12], 2820)]

/-- The signature size of an encoded public key. -/
def sigSizeOf (key : List Byte) : Option Nat := (xmssSizes.find? (fun e => e.1 == key.take 4)).map (fun e => e.2)

/-- A KEY_UPDATE payload's fields (R358). -/
structure KeyUpd where
  kind : Nat
  signer : Nat
  bodyLen : Nat
  counter : Nat
  body : List Byte
  kid : List Byte
  msg : List Byte
  sig : List Byte
deriving DecidableEq, Repr

def keyUpdOf (l : List Byte) : KeyUpd :=
  let n := numAt l 6 2
  { kind := numAt l 4 1, signer := numAt l 5 1, bodyLen := n, counter := numAt l 0x18 4, body := sliceZ l 0x20 n,
    kid := sliceZ l (0x20 + n) 32, msg := sliceZ l 0 (0x20 + n), sig := l.drop (0x40 + n) }

/-- Whether KEY_ID names the owner root. -/
def namesOwner (s : State) (kid : List Byte) : Bool :=
  match s.sec.owner with
  | some k => kid == keyId (k.take 68)
  | none => false

/-- The signature size of the key that KEY_ID names: a KEY_ID that names none admits the three sizes, and fails step 5
(notes/assumptions/38.md). -/
def sigLenOk (s : State) (kid : List Byte) (n : Nat) : Bool :=
  if namesOwner s kid then sigSizeOf (s.sec.owner.getD []) == some n
  else if s.sec.vendor.contains kid then n == 2820
  else xmssSizes.any (fun e => e.2 == n)

/-- Whether the BODY is right for its KIND (R360). -/
def updBodyOk (s : State) (u : KeyUpd) : Bool :=
  match u.kind with
  | 0 => decide (u.bodyLen = 100) && (sigSizeOf u.body).isSome
  | 1 => decide (u.bodyLen = 100) && (sigSizeOf u.body).isSome
  | 7 => decide (u.bodyLen = 4) && decide (s.sec.fwFloor.toNat < numAt u.body 0 4)
  | 8 => decide (u.bodyLen = 2948)
  | k => decide (9 ≤ k) || decide (u.bodyLen = 0)

/-- Whether the state allows the KIND and the signer (R360; 1 vendor, 2 owner). -/
def updAllowed (lc : Nat) (u : KeyUpd) : Bool :=
  let vendor := u.signer == 1
  let owner := u.signer == 2
  match u.kind with
  | 0 => lc == 1 && vendor
  | 1 => lc == 2 && owner
  | 2 => lc == 2 && owner
  | 3 => lc == 3 && owner
  | 4 => (lc == 2 || lc == 3) && owner
  | 5 => lc == 4 && vendor
  | 6 => ((lc == 1 || lc == 4) && vendor) || ((lc == 2 || lc == 3) && owner)
  | 7 => ((lc == 1 || lc == 4) && vendor) || (lc == 2 && (vendor || owner))
  | 8 => lc == 1 && vendor
  | _ => false

/-- Step 5 of R359, with INSTALL_CERT's own check (R360). -/
def updAuth (s : State) (p : Pkt) (u : KeyUpd) : Bool :=
  sliceZ p.payload 8 16 == serialBytes s && (if u.signer = 1 then vendorKeyOk s u.kid else namesOwner s u.kid)
    && Config.xmssVerify u.kid u.msg u.sig && decide (s.sec.updCnt.toNat < u.counter)
    && (u.kind != 8 || (sliceZ u.body 4 16 == serialBytes s && sliceZ u.body 0x14 68 == sized 68 (Config.publicKey 0)))

/-- The checks of R359, in order. -/
def updCheck (s : State) (p : Pkt) (u : KeyUpd) : Option Nat :=
  if numAt p.payload 0 4 ≠ 0x4B550001 ∨ 4096 < u.bodyLen ∨ p.payload.length < 64 + u.bodyLen ∨ !sigLenOk s u.kid u.sig.length
      ∨ !updBodyOk s u then some stLen
  else if 9 ≤ u.kind then some stOpcode
  else if !updAllowed s.sec.lc u then some stKey
  else if u.kind ≤ 6 ∧ s.part.slots.any (fun e => e.2.st != 0) then some stBusy
  else if !updAuth s p u then some stAuth
  else none

/-- The secure-store record of a KIND (R360, R361). -/
def updApply (x : Sec) (u : KeyUpd) : Sec :=
  let x := { x with updCnt := BitVec.ofNat 32 u.counter, epoch := if u.kind ≤ 6 then x.epoch + 1 else x.epoch }
  match u.kind with
  | 0 => { x with lc := 2, owner := some u.body }
  | 1 => { x with owner := some u.body }
  | 2 => { x with lc := 3 }
  | 3 => { x with lc := 2 }
  | 4 => { x with lc := 4, owner := none, rmaFuse := true }
  | 5 => { x with lc := 1 }
  | 6 => { x with lc := 5, owner := none, mus := false }
  | 7 => { x with fwFloor := BitVec.ofNat 32 (numAt u.body 0 4) }
  | _ => { x with cert := some u.body }

/-- KEY_UPDATE's start (R359, R361): the record, the reply, then for a life-cycle change the module reset. -/
def startKeyUpdate : Handler := fun q p s =>
  let u := keyUpdOf p.payload
  match updCheck s p u with
  | some st => answer q p st s
  | none =>
    let s := answer q p stOk { s with sec := updApply s.sec u }
    if u.kind ≤ 6 then moduleReset s 0 0 false else s

/-- A KEY_UPDATE packet of a KIND. -/
def updRow (p : Pkt) (kind : Nat) : Pkt := { withByte p 4 kind with opcode := 0xE0 }

/-- CLAIM_OWNER (R360). -/
def execClaimOwner (p : Pkt) (s : State) : Host.Outcome State Fault Refusal :=
  .next (arrive startKeyUpdate wrongOnFabric (updRow p 0) s)

/-- TRANSFER_OWNER (R360). -/
def execTransferOwner (p : Pkt) (s : State) : Host.Outcome State Fault Refusal :=
  .next (arrive startKeyUpdate wrongOnFabric (updRow p 1) s)

/-- ENTER_DEBUG (R360). -/
def execEnterDebug (p : Pkt) (s : State) : Host.Outcome State Fault Refusal :=
  .next (arrive startKeyUpdate wrongOnFabric (updRow p 2) s)

/-- LEAVE_DEBUG (R360). -/
def execLeaveDebug (p : Pkt) (s : State) : Host.Outcome State Fault Refusal :=
  .next (arrive startKeyUpdate wrongOnFabric (updRow p 3) s)

/-- ENTER_RMA (R360). -/
def execEnterRma (p : Pkt) (s : State) : Host.Outcome State Fault Refusal :=
  .next (arrive startKeyUpdate wrongOnFabric (updRow p 4) s)

/-- RMA_RETURN (R360). -/
def execRmaReturn (p : Pkt) (s : State) : Host.Outcome State Fault Refusal :=
  .next (arrive startKeyUpdate wrongOnFabric (updRow p 5) s)

/-- RETIRE (R360). -/
def execRetire (p : Pkt) (s : State) : Host.Outcome State Fault Refusal :=
  .next (arrive startKeyUpdate wrongOnFabric (updRow p 6) s)

/-- FW_FLOOR (R360). -/
def execFwFloor (p : Pkt) (s : State) : Host.Outcome State Fault Refusal :=
  .next (arrive startKeyUpdate wrongOnFabric (updRow p 7) s)

/-- INSTALL_CERT (R360). -/
def execInstallCert (p : Pkt) (s : State) : Host.Outcome State Fault Refusal :=
  .next (arrive startKeyUpdate wrongOnFabric (updRow p 8) s)

/-! ### ATTEST (R365) -/

/-- The first 192 bytes of a quote (R365). -/
def quoteBody (s : State) (kind : Nat) (nonce : List Byte) (slot : Option Nat) : List Byte :=
  let sl := match slot with | some i => getSlot s i | none => {}
  let conf := slot.isSome && sl.brec.conf
  let keys := match slot with | some i => (s.fab.keys.filter (fun k => k.slot == i)).length | none => 0
  let flags := b2n (testRoot s) + b2n conf * 2 + b2n conf * 4 + b2n (conf && (s.sec.lc == 1 || s.sec.lc == 2)) * 8
  leBytes 4 0x51540001 ++ [BitVec.ofNat 8 kind, BitVec.ofNat 8 s.sec.lc, BitVec.ofNat 8 flags, 0] ++ serialBytes s ++ nonce ++ fwDigest s
    ++ leBytes 4 s.sec.fwVer.toNat ++ leBytes 4 s.sec.fwFloor.toNat ++ ownerHash s ++ leBytes 4 s.res.epoch.toNat
    ++ leBytes 4 s.sec.attGen.toNat ++ leBytes 4 (if slot.isSome then sl.brec.pid else 0) ++ leBytes 4 (if slot.isSome then sl.pgen.toNat else 0)
    ++ (if slot.isSome then shake256 (bytesOfRec sl.brec) 32 else List.replicate 32 0) ++ leBytes 4 keys
    ++ leBytes 4 (match sl.memKey with | some k => k | none => 0) ++ List.replicate 8 0

/-- A quote, its attestation signature and the attestation certificate, or KEY_LOCKED. -/
def quote (q : QRef) (p : Pkt) (kind : Nat) (slot : Option Nat) (s : State) : State :=
  -- the key that signs is in place before the quote names its generation
  let s := if 1024 ≤ s.sec.attUsed then newAttKey s else s
  let b := quoteBody s kind (sliceZ p.payload 0 32) slot
  match attSign s b with
  | (none, s) => answer q p stKey s
  | (some sig, s) => sendReply q p { replyTo p stOk with payload := b ++ sig ++ sized 2980 s.sec.attCert } s

/-- ATTEST's start, by KIND (R365); KEY_LOCKED when the identity key is exhausted (R362). -/
def startAttest : Handler := fun q p s =>
  let kind := fld p.w4.toNat 0 2
  if kind = 3 ∨ p.payload.length ≠ (if kind = 0 then 0 else 32) then answer q p stLen s
  else if s.sec.lc = 0 ∨ s.sec.lc = 5 ∨ idExhausted s then answer q p stKey s
  else match kind with
    | 0 =>
      let cert := s.sec.cert.getD []
      sendReply q p { replyTo p stOk with w6 := BitVec.ofNat 32 cert.length, payload := sized 68 (identityPub s) ++ cert } s
    | 1 => quote q p 1 none s
    | _ => (match slotOfPid s p.w5.toNat with
      | none => answer q p stUnbound s
      | some i => quote q p 2 (some i) s)

/-- An ATTEST packet of a KIND. -/
def attRow (p : Pkt) (kind : Nat) : Pkt := { p with opcode := 0xE1, w4 := (p.w4 &&& 0xFFFFFFFC) ||| BitVec.ofNat 32 kind }

/-- ATTEST KIND 0 (R365). -/
def execAttestChain (p : Pkt) (s : State) : Host.Outcome State Fault Refusal :=
  .next (arrive startAttest wrongOnFabric (attRow p 0) s)

/-- ATTEST KIND 1 (R365). -/
def execQuoteModule (p : Pkt) (s : State) : Host.Outcome State Fault Refusal :=
  .next (arrive startAttest wrongOnFabric (attRow p 1) s)

/-- ATTEST KIND 2 (R365). -/
def execQuoteSlot (p : Pkt) (s : State) : Host.Outcome State Fault Refusal :=
  .next (arrive startAttest wrongOnFabric (attRow p 2) s)

end Sys2Proof.Machine
end

