-- ==== Sys2Proof/Machine/Frontend.lean ====
section
/-! DEFINITION. The front ends at work (spec/06 R166, R169, R170): which meaning an opcode starts, device-sourced rings, the
deficit round robin; and what the fabric delivers (spec/09 R252, R256-R259). -/
namespace Sys2Proof.Machine

/-! ### Opcodes (R159) -/

/-- What a packet of an opcode starts on a queue pair or the sideband. Undefined opcodes go to `startNop`, which answers
OPCODE_INVALID. -/
def startOp : Handler := fun q p s =>
  match p.opcode with
  | 0x01 => startQpConfig q p s
  | 0x02 => startQpQuery q p s
  | 0x03 => startQpResume q p s
  | 0x20 => startWrite q p s
  | 0x21 => startRead q p s
  | 0x23 => startCopy q p s
  | 0x40 => startRecord q p s
  | 0x41 => startWait q p s
  | 0x43 => startEventAlloc q p s
  | 0x44 => startEventFree q p s
  | 0x45 => startEventQuery q p s
  | 0x60 => startLaunch q p s
  | 0x61 => startPatch q p s
  | 0x62 => startProgLoad q p s
  | 0x63 => startRetire q p s
  | 0x80 => startRegRead q p s
  | 0x81 => startRegWrite q p s
  | 0x88 => startCreate q p s
  | 0x89 => startBind q p s
  | 0x8A => startRebind q p s
  | 0x8B => startPartDestroy q p s
  | 0x8C => startCtxCreate q p s
  | 0x8D => startCtxDestroy q p s
  | 0x8E => startQpBind q p s
  | 0x8F => startQpUnbind q p s
  | 0x90 => startPartQuery q p s
  | 0x97 => startLoad q p s
  | 0x98 => startSeal q p s
  | 0x99 => startPin q p s
  | 0x9A => startEvict q p s
  | 0xA0 => startRangeMap q p s
  | 0xA1 => startRangeUnmap q p s
  | 0xA2 => startInval q p s
  | 0xA3 => startPrefetch q p s
  | 0xA4 => startAdvise q p s
  | 0xA5 => startUnmapIdle q p s
  | 0xA6 => startOwnSet q p s
  | 0xA7 => startResolve q p s
  | 0xA8 => startEotha q p s
  | 0xC0 => startHintPhase q p s
  | 0xC1 => startPowerState q p s
  | 0xE0 => startKeyUpdate q p s
  | 0xE1 => startAttest q p s
  | _ => startNop q p s

/-- What a command packet starts that another module sends on the escape VC (R159, spec/09 R269), and what a message starts
that has no opcode of R159 (notes/assumptions/22.md). -/
def fabOp : Handler := fun q p s =>
  match p.opcode with
  | 0x00 => startNop q p s
  | 0x41 => startRemoteWait q p s
  | 0x42 => startSignal q p s
  | 0x91 => handStart forLead q p s
  | 0x92 => handStart takeOffer q p s
  | 0x93 => handStart takeAccept q p s
  | 0x94 => handStart takeEnd q p s
  | 0x95 => handStart takeEnd q p s
  | 0x96 => handStart forLead q p s
  | 0xA2 => fabInval q p s
  | 0xC2 => takePowerBudget q p s
  | 0xE2 => startKex q p s
  | 0xF0 => takeCompletion q p s
  | 0xF2 => startNotice q p s
  | 0x1F8 => takeDispatch q p s
  | 0x1F9 => takeKernelEnd q p s
  | 0x1FA => takeRunTable q p s
  | 0x1FB => takeOwnRecord q p s
  | 0x1FC => takeLastRank q p s
  | 0x1FD => takeRunDone q p s
  | 0x1FE => startEventRead q p s
  | 0x1FF => startExtent q p s
  | _ => wrongOnFabric q p s

/-- What a packet starts that no row but NOP's names: NOP itself, an undefined opcode, or an OP of PART_REBIND, a KIND of KEY_UPDATE
or a KIND of ATTEST without a row. -/
def startOther : Handler := fun q p s => if [0x8A, 0xE0, 0xE1].contains p.opcode then startOp q p s else startNop q p s

/-- NOP (R159), and every packet that no other row names (notes/assumptions/1.md). -/
def execNop (p : Pkt) (s : State) : Host.Outcome State Fault Refusal := .next (arrive startOther startNop p s)

/-! ### Device-sourced rings (R166) -/

/-- The checks of R166 after the first, in order. -/
def devCheck (s : State) (x : Qp) (p : Pkt) : Option Nat :=
  if p.ctx ≠ x.ctx ∨ p.gen ≠ x.cgen.setWidth 8 ∨ (getCtx s x.ctx).gen ≠ x.cgen then some stGen
  else if x.maxCls < p.cls then some stDenied
  else if !onD p.opcode then some stOpcode
  else none

/-- The head of a device-sourced ring moves past a packet and is recorded. -/
def devConsume (s : State) (n size : Nat) : State :=
  let x := getQp s n
  let head := x.sqHead + size
  (record (setQp s n { x with sqHead := head }) (evNum x.sqHeadEvt) (BitVec.ofNat 64 head)).2

/-- DEVICE_SQ_FETCH (R166): the next packet of a device-sourced ring is read and checked. One that passes waits as the queue's
head or starts at once; its start, or its refusal, consumes it. -/
def execDeviceSqFetch (qpn : Nat) (s : State) : Host.Outcome State Fault Refusal :=
  let x := getQp s qpn
  let q := QRef.qp qpn
  if s.dev.phase ≠ .ready || halfOff s x.port || x.st != 2 || !x.source || !x.sq.isEmpty || decide (sqTailOf s x ≤ x.sqHead)
      || !replyRoom s q 64 then .next s
  else
    let s := lullWake s x.port
    match devPacket s .read qpn x.sqHead x with
    | (.good p, s) =>
      (match devCheck s x p with
      | some st => .next (wakeAll (answer q p st (devConsume s qpn (slotBytes p.plen))))
      | none =>
        let now := startsNow s x.port q p
        let s := setQp s qpn { x with sq := [p] }
        .next (if now then startItem startOp x.port q p (popQp s qpn) else s))
    | (.bad p, s) => .next (wakeAll (answer q p stLen (setQp s qpn { x with st := 3 })))
    | (.none, s) => .next s

/-! ### The deficit round robin (R169, R170) -/

def queueNum (q : QRef) : Nat :=
  match q with
  | .qp n => n
  | _ => 0

/-- The queue visited after the one numbered `rr`. -/
def nextVisit (l : List (QRef × Item)) (rr : Nat) : Option (QRef × Item) :=
  match l.find? (fun e => decide (rr < queueNum e.1)) with
  | some e => some e
  | none => l.head?

/-- What a visit adds to a queue's deficit; QP 0 has no QUANTUM. -/
def grantVisit (s : State) (q : QRef) : State :=
  match q with
  | .qp n => let x := getQp s n; setQp s n { x with deficit := x.deficit + x.quantum * 4096 }
  | _ => s

/-- Whether a visited queue's item can be paid for; QP 0 starts one item a visit (DESIGN CHOICE, notes/assumptions/6.md). -/
def affords (s : State) (e : QRef × Item) : Bool :=
  match e.1 with
  | .qp n => decide (e.2.cost ≤ (getQp s n).deficit)
  | _ => true

/-- Visits until an item can be paid for; `n` bounds them. -/
def visit : Nat → List (QRef × Item) → Nat → State → Option (QRef × Item × State)
  | 0, _, _, _ => none
  | n + 1, l, rr, s =>
    match nextVisit l rr with
    | none => none
    | some e =>
      let s := grantVisit s e.1
      if affords s e then some (e.1, e.2, s) else visit n l (queueNum e.1) s

/-- The next item of a list of eligible queues: more of the queue under visit, else of the queues after it. -/
def nextItem (l : List (QRef × Item)) (rr : Nat) (s : State) : Option (QRef × Item × State) :=
  match l.find? (fun e => queueNum e.1 == rr && decide (e.1 ≠ .mgmt 0) && decide (e.1 ≠ .mgmt 1) && affords s e) with
  | some e => some (e.1, e.2, s)
  | none => visit (3 * l.length + 3) l rr s

/-- Queues of a half that are not eligible leave the lists. -/
def clearDeficits (s : State) (half : Nat) : State :=
  (queuesOf s half).foldl (fun s q =>
    match q with
    | .qp n => let x := getQp s n; if x.deficit ≠ 0 ∧ (headItem s q).isNone then setQp s n { x with deficit := 0 } else s
    | _ => s) s

/-- The item the front end of a half starts next: class 7 first, within its share while others are eligible (R170). -/
def chooseItem (s : State) (half : Nat) : Option (QRef × Item × State) :=
  let l := (queuesOf s half).filterMap (fun q => (headItem s q).map (fun i => (q, i)))
  let l7 := l.filter (fun e => e.2.cls == 7)
  let l0 := l.filter (fun e => e.2.cls != 7)
  let x := getFe s half
  match nextItem l7 x.rr7 s with
  | some (q, i, t) => if l0.isEmpty ∨ x.win7 + i.cost ≤ 65536 then some (q, i, t) else nextItem l0 x.rr s
  | none => nextItem l0 x.rr s

/-- The deficit paid, the place in the round robin kept. -/
def payItem (half : Nat) (q : QRef) (i : Item) (s : State) : State :=
  let s := match q with
    | .qp n => let x := getQp s n; setQp s n { x with deficit := x.deficit - i.cost }
    | _ => s
  let x := getFe s half
  chargeItem half i.cls i.cost (setFe s half (if i.cls = 7 then { x with rr7 := queueNum q } else { x with rr := queueNum q }))

/-- An item starts: a read's reply, or the queue's head packet. -/
def runItem (q : QRef) (i : Item) (s : State) : State :=
  match i.read with
  | some id => wakeAll (bulkRun id s)
  | none =>
    match (waitingOn s q).head? with
    | none => s
    | some p => startWith startOp q p (match q with | .qp n => popQp s n | .mgmt h => popMgmt s h | _ => s)

/-- The item that a half's front end starts next, with the state in which it does: none while the half does not run. -/
def frontNext (s : State) (half : Nat) : Option (QRef × Item × State) :=
  if 2 ≤ half || s.dev.phase ≠ .ready || halfOff s half then none else chooseItem (clearDeficits s half) half

/-- An item started and paid for. -/
def frontStart (half : Nat) (q : QRef) (i : Item) (s : State) : State := clearDeficits (runItem q i (payItem half q i s)) half

/-- FRONT_END_START_ITEM (R169-R171); with no item to start, a sideband packet that waited (R157). -/
def execFrontEndStartItem (half : Nat) (s : State) : Host.Outcome State Fault Refusal :=
  match frontNext s half with
  | none => .next (sideGoesOn startOp s)
  | some (q, i, s) => .next (frontStart half q i s)

/-- READ_REPLY (R176, R169): a started read sends its next reply, when its ring or store has room and the deficit round robin comes to
it. -/
def execReadReply (id : Nat) (s : State) : Host.Outcome State Fault Refusal :=
  match findBegun s id with
  | none => .next s
  | some b =>
    match frontNext s (halfOfQ s b.q) with
    | some (q, i, t) => if i.read = some id then .next (frontStart (halfOfQ s b.q) q i t) else .next s
    | none => .next s

/-- What an idle step does: the free-running counter of each half that is not in FROST or off counts one cycle (spec/01 R32), each HBM
controller serves a request that waits (spec/08 R242), an invalidation whose requests have been performed ends (R229), a sheaf whose store
failed is isolated (spec/11 R306), a collective that has lost a path ends (spec/09 R283), a request without a path is refused (spec/09 R267), a sideband packet that waited starts (R157), and every
link sends its next frame when a frame time ends (spec/09 R250). -/
def idle (s : State) : State :=
  let tick (h : Nat) (c : W64) : W64 := if h < 2 then c + 1 else c
  frameTick (sideGoesOn startOp (refusedSettle (collsCut (sheavesFail (invalSettle (hbmTick
    { s with dev := { s.dev with now := s.dev.now + 1, cnt0 := tick s.pwr.half0 s.dev.cnt0, cnt1 := tick s.pwr.half1 s.dev.cnt1 } }))))))

/-! ### What the fabric delivers (spec/09 R252, R256-R259) -/

/-- A packet delivered to this module. A COMMAND whose trailer fails is dropped (R158). -/
def deliver (f : FabPkt) (s : State) : State :=
  wakeAll (deliverTo (fun f p s => if p.rxOk then fabOp (.fabric f.src f.pid f.pgen.toNat) p s else s) f s)

/-- A packet of a KIND comes in. -/
def fabIn (kind : Nat) (f : FabPkt) (s : State) : State :=
  if s.dev.phase = .ready then fabArrive deliver { f with kind := kind } s else s

/-- One flit of a Haldip port's frame (R245): command packets come on the escape, interactive and request VCs. The adapter is the one that
the port has learned, its function index 0: the flits carry none (DESIGN CHOICE, notes/assumptions/48.md). -/
def haldipFlit (q tag : Nat) (flit : List Byte) (s : State) : State :=
  if tag % 8 = 7 then s
  else
    let pool := 3 * (tag % 8) + tag / 8
    let r : RxPkt := match tabGet (fun _ => none) (getPort s q).rx pool with
      | none => { dest := .own, total := ceilDiv (36 + numAt flit 2 2) 64, got := 1, data := flit }
      | some r => { r with got := r.got + 1, data := r.data ++ flit }
    let s := freeFlit s q pool
    let x := getPort s q
    if r.got < r.total then setPort s q { x with rx := tabSet (fun _ => none) x.rx pool (some r) }
    else
      arrive startOp wrongOnFabric
        { pktOfBytes (.haldip (q - 32)) r.data with adapter := BitVec.ofNat 32 ((getFe s (q - 32)).adapter.getD 0) }
        (setPort s q { x with rx := tabSet (fun _ => none) x.rx pool none })

/-- A frame that a Haldip port receives: as a fabric port's (R245, R252). -/
def haldipFrame (q : Nat) (f : Frame) (s : State) : State :=
  let x := getPort s q
  if !linkUp s q then s
  else if !frameGood x f then setPort s q { decoded x f with nak := true, crcErr := sat32 x.crcErr }
  else
    let s := frameControl (setPort s q { decoded x f with rxNext := x.rxNext + 1, nak := false }) q f.bytes
    (List.range 19).foldl (fun s i => haldipFlit q (frameTag f.bytes (i + 1)) (sliceZ f.bytes (64 * (i + 1)) 64) s) s

/-- FRAME_RECEIVE (R252): on a fabric port, or, as 32 and 33, on a Haldip port. -/
def execFrameReceive (port : Nat) (f : Frame) (s : State) : Host.Outcome State Fault Refusal :=
  .next (if s.dev.phase ≠ .ready then s
    else if port < 32 then frameIn deliver port f s
    else if port < 34 then haldipFrame port f s
    else s)

/-- FABRIC_COMMAND (R258, R269). -/
def execFabricCommand (f : FabPkt) (s : State) : Host.Outcome State Fault Refusal := .next (fabIn 0 f s)

/-- FABRIC_READ (R256). -/
def execFabricRead (f : FabPkt) (s : State) : Host.Outcome State Fault Refusal := .next (fabIn 1 f s)

/-- FABRIC_WRITE (R256). -/
def execFabricWrite (f : FabPkt) (s : State) : Host.Outcome State Fault Refusal := .next (fabIn 2 f s)

/-- FABRIC_NEAR (R256). -/
def execFabricNear (f : FabPkt) (s : State) : Host.Outcome State Fault Refusal := .next (fabIn 3 f s)

/-- FABRIC_RESPONSE (R256). -/
def execFabricResponse (f : FabPkt) (s : State) : Host.Outcome State Fault Refusal := .next (fabIn 4 f s)

/-- MARK (R259). -/
def execMarkF (f : FabPkt) (s : State) : Host.Outcome State Fault Refusal := .next (fabIn 7 f s)

/-- MARK_ACK (R259). -/
def execMarkAck (f : FabPkt) (s : State) : Host.Outcome State Fault Refusal := .next (fabIn 8 f s)

/-- FLOW_GAP_TIMEOUT (R258). -/
def execFlowGapTimeout (flow : FlowKey) (s : State) : Host.Outcome State Fault Refusal := .next (gapSkip deliver flow s)

end Sys2Proof.Machine
end

