-- ==== Sys2Proof/Machine/Scan.lean ====
section
/-! DEFINITION. The TAPs of the dies and of the weighbridge (spec/16 R413-R416), with the debug accesses of R400 and R414. -/
namespace Sys2Proof.Machine

/-- Cells of a die's boundary register. -/
def cellsOf (die : Nat) : Nat := if die = 0 then 193 else 178

/-- Whether a die's TAP answers: it has power. -/
def tapOn (s : State) (die : Nat) : Bool := decide (die < 2) && decide (s.dev.phase ≠ .off)

def setShift (s : State) (v : Nat) : State := { s with tap := { s.tap with shift := v } }

/-- The units of a half's links. -/
def linkUnits (h : Nat) : List UnitRef := (List.range 16).map (fun i => ⟨4, 16 * h + i⟩) ++ [⟨6, h⟩]

/-- Whether a die accepts an instruction that takes the pins (R415). -/
def pinsFree (s : State) (die : Nat) : Bool :=
  allFree s && !(getFe s die).up
    && (List.range 16).all (fun i => let st := (getPort s (16 * die + i)).st; st == 0 || st == 3)

/-- An instruction that takes the pins: accepted, the half's links are out until R63 brings them back; refused, BYPASS (R415). -/
def takePins (s : State) (die code : Nat) : State :=
  if !tapOn s die then s
  else
    let x := getDie s die
    if pinsFree s die then
      let s := setDie s die { x with ir := code, refused := false, pins := true }
      (linkUnits die).foldl (fun s u => if unitSt s u == .failed then s else setUnit s u .quarantine) s
    else setShift (setDie s die { x with ir := 0xFF, refused := true }) 0

/-- An instruction that leaves the pins to the module's logic (R415): the links come back through R63. -/
def leavePins (s : State) (die code : Nat) : State :=
  let x := getDie s die
  setDie s die { x with ir := code, refused := false, pins := false }

/-- EXTEST (R415). -/
def execExtest (die : Nat) (s : State) : Host.Outcome State Fault Refusal := .next (takePins s die 0x00)

/-- CLAMP (R415): the bypass register is shifted. -/
def execClamp (die : Nat) (s : State) : Host.Outcome State Fault Refusal := .next (setShift (takePins s die 0x03) 0)

/-- HIGHZ (R415): the bypass register is shifted. -/
def execHighz (die : Nat) (s : State) : Host.Outcome State Fault Refusal := .next (setShift (takePins s die 0x04) 0)

/-- EXTEST_PULSE (R415). -/
def execExtestPulse (die : Nat) (s : State) : Host.Outcome State Fault Refusal := .next (takePins s die 0x05)

/-- EXTEST_TRAIN (R415). -/
def execExtestTrain (die : Nat) (s : State) : Host.Outcome State Fault Refusal := .next (takePins s die 0x06)

/-- The IDCODE of a die (R413). -/
def idcodeOf (s : State) (die : Nat) : Nat :=
  s.dev.stepping.toNat % 16 * 2 ^ 28 + (0x2448 + die) * 2 ^ 12 + 0x4E9 * 2 + 1

/-- IDCODE (R413). -/
def execIdcode (die : Nat) (s : State) : Host.Outcome State Fault Refusal :=
  if !tapOn s die then .next s else .next (setShift (leavePins s die 0x01) (idcodeOf s die))

/-- SAMPLE/PRELOAD (R413): what the pins show is shifted out, what is shifted in is held in the cells. The cells of a half in
FROST read as bypass (R406). -/
def execSamplePreload (die sampled shifted : Nat) (s : State) : Host.Outcome State Fault Refusal :=
  if !tapOn s die then .next s
  else
    let x := getDie s die
    let n := 2 ^ cellsOf die
    let s := setDie s die { x with ir := 0x02, refused := false, cells := shifted % n }
    .next (setShift s (if halfPwr s die = 2 then 0 else sampled % n))

/-- BYPASS (R413). -/
def execBypass (die : Nat) (s : State) : Host.Outcome State Fault Refusal :=
  if !tapOn s die then .next s else .next (setShift (leavePins s die 0xFF) 0)

/-! ### Debug (R400, R414, spec/13 R370) -/

/-- Value and result of the debug data register. -/
def tapResult (s : State) (v : W32) (r : Nat) : State := { s with tap := { s.tap with value := v, result := r } }

/-- An instruction offered only in DEBUG and RMA; elsewhere it acts as BYPASS (R413). -/
def debugOnly (s : State) (code : Nat) (f : State → State) : State :=
  if !tapOn s 0 then s
  else if testRoot s then f (leavePins s 0 code)
  else setShift (leavePins s 0 0xFF) 0

/-- A register access of the TAP (R400, R414). -/
def tapReg (addr : Nat) (v cpl : W32) (s : State) : State :=
  if 2 ^ 42 ≤ addr then tapResult s 0 2
  else match regAt addr with
    | none => tapResult s 0 2
    | some r =>
      if !blockServed s r then tapResult s 0 3
      else if cpl = v then
        let (x, s) := regRead s 4 r
        tapResult s x 0
      else
        let o := writePairs [(v, cpl)] 4 0 addr s
        tapResult o.2 v (if o.1.1 then 0 else 1)

/-- REGACCESS (R414). -/
def execRegaccess (addr : Nat) (v cpl : W32) (s : State) : Host.Outcome State Fault Refusal :=
  .next (wakeAll (debugOnly s 0x10 (tapReg addr v cpl)))

/-- Whether a slot of confidential work holds a unit. -/
def confHeld (s : State) (slot : Option Nat) : Bool := match slot with | some i => (getSlot s i).brec.conf | none => false

/-- Whether R370 closes a local address: a core, a channel or a sheaf store held by a confidential slot. -/
def tapRefused (s : State) (a : Nat) : Bool :=
  if inHbm a then confHeld s (holderOfChan s (pchanOf s (achanOf a)))
  else if inStore a then
    let m := (a - storeBase) / 0x400000
    (List.range 16).any (fun i => confHeld s (holderOfCore s (16 * m + i)))
      || (gransOf a 4).any (fun g => (getTag s g).conf)
  else confHeld s (holderOfCore s ((a - 0x24000000000) / 0x80000))

/-- The tenancy whose window holds a local-store address, with the offset in it (spec/04 R98, R104). -/
def windowAt (s : State) (a : Nat) : Option (Ten × Nat) :=
  let c := (a - 0x24000000000) / 0x80000
  let o := (a - 0x24000000000) % 0x80000
  match (onCore s c).find? (fun x => (baysOf x).contains (o / 0x20000)) with
  | some x => (match bayOf x with | some b => some (x, o - b * 0x20000) | none => none)
  | none => none

/-- The half of a local address. -/
def halfOfAddr (s : State) (a : Nat) : Nat :=
  if inHbm a then halfOfChan (pchanOf s (achanOf a))
  else if inStore a then halfOfSheaf ((a - storeBase) / 0x400000)
  else halfOfCore ((a - 0x24000000000) / 0x80000)

/-- What an access of the TAP to memory gives. A word that cannot be read delivers nothing (spec/08 R215), so the value is free. -/
def tapGives (v : List Byte → W32) (s : State) : MemRes → State
  | .ok d s => tapResult s (v d) 0
  | .unc s => let (w, s) := takeFree s; tapResult s (w.setWidth 32) 0
  | _ => let (w, s) := takeFree s; tapResult s (w.setWidth 32) 0

/-- A memory access of the TAP (R414). A bay that no tenancy holds keeps contents that the spec does not name: what is read
there is a free value. -/
def tapMem (addr : Nat) (v flag : W32) (s : State) : State :=
  let inLocal := decide (0x24000000000 ≤ addr) && decide (addr + 4 ≤ 0x24012000000)
  let known := (inHbm addr && inHbm (addr + 3)) || (inStore addr && inStore (addr + 3)) || inLocal
  if !known then tapResult s 0 2
  else if halfOff s (halfOfAddr s addr) then tapResult s 0 3
  else if tapRefused s addr then tapResult s 0 0
  else if flag = 0xFFFFFFFF then
    if inLocal then
      match windowAt s addr with
      | some (x, o) => tapResult s (BitVec.ofNat 32 (ofLE (winRead x o 4))) 0
      | none => let (w, s) := takeFree s; tapResult s (w.setWidth 32) 0
    else tapGives (fun d => BitVec.ofNat 32 (ofLE d)) s (memRead s .internal 0 0 0 addr 4)
  else if flag = 0 then
    let l := leBytes 4 v.toNat
    if inLocal then
      match windowAt s addr with
      | some (x, o) => tapResult (setTen s (winWrite x o l)) v 0
      | none => tapResult s v 0
    else tapGives (fun _ => v) s (memWrite s .internal 0 0 0 addr l)
  else tapResult s v 0

/-- MEMACCESS (R414). -/
def execMemaccess (addr : Nat) (v cpl : W32) (s : State) : Host.Outcome State Fault Refusal :=
  .next (debugOnly s 0x11 (tapMem addr v cpl))

/-- HALT (R413): a core's issue stopped or resumed, unless a confidential slot holds the core (R370). -/
def execHalt (core : Nat) (stop : Bool) (s : State) : Host.Outcome State Fault Refusal :=
  .next (debugOnly s 0x12 (fun s =>
    if 576 ≤ core ∨ confHeld s (holderOfCore s core) then s else setCore s core { getCore s core with halted := stop }))

/-! ### The weighbridge's TAP (R416) -/

/-- WB_EXTEST: each entry writes an audit entry; the weighbridge's SMBus is mute. -/
def execWbExtest (s : State) : Host.Outcome State Fault Refusal :=
  let w := s.wb
  if !w.power ∨ w.tapIr = 0 then .next s
  else .next { s with wb := { auditAdd w 6 [] with tapIr := 0, tapMute := true } }

/-- WB_IDCODE. -/
def execWbIdcode (s : State) : Host.Outcome State Fault Refusal :=
  if !s.wb.power then .next s else .next (setShift { s with wb := { s.wb with tapIr := 1, tapMute := false } } 0x0244A9D3)

/-- WB_SAMPLE_PRELOAD: six cells. -/
def execWbSamplePreload (sampled shifted : Nat) (s : State) : Host.Outcome State Fault Refusal :=
  if !s.wb.power then .next s
  else .next (setShift { s with wb := { s.wb with tapIr := 2, tapCells := shifted % 64 } } (sampled % 64))

/-- WB_BYPASS. -/
def execWbBypass (s : State) : Host.Outcome State Fault Refusal :=
  if !s.wb.power then .next s else .next (setShift { s with wb := { s.wb with tapIr := 0xF, tapMute := false } } 0)

end Sys2Proof.Machine
end

