-- ==== Sys2Proof/Machine/Dispatch.lean ====
section
/-! DEFINITION. Which meaning each command calls: one arm per constructor of Instr. -/
namespace Sys2Proof.Machine

/-- The effect of a command on everything but the queue. -/
def exec (i : Instr) (s : State) : Host.Outcome State Fault Refusal :=
  match i with
  | .nop p => Sys2Proof.Machine.execNop p s
  | .qpConfig p => Sys2Proof.Machine.execQpConfig p s
  | .qpQuery p => Sys2Proof.Machine.execQpQuery p s
  | .qpResume p => Sys2Proof.Machine.execQpResume p s
  | .deviceSqFetch qpn => Sys2Proof.Machine.execDeviceSqFetch qpn s
  | .frontEndStartItem half => Sys2Proof.Machine.execFrontEndStartItem half s
  | .writeData p => Sys2Proof.Machine.execWriteData p s
  | .readData p => Sys2Proof.Machine.execReadData p s
  | .readReply id => Sys2Proof.Machine.execReadReply id s
  | .copy p => Sys2Proof.Machine.execCopy p s
  | .eventRecord p => Sys2Proof.Machine.execEventRecord p s
  | .eventWait p => Sys2Proof.Machine.execEventWait p s
  | .eventWaitTimeout id => Sys2Proof.Machine.execEventWaitTimeout id s
  | .waitRegisterRetry half => Sys2Proof.Machine.execWaitRegisterRetry half s
  | .eventSignalRemote p => Sys2Proof.Machine.execEventSignalRemote p s
  | .remoteWait p => Sys2Proof.Machine.execRemoteWait p s
  | .eventAlloc p => Sys2Proof.Machine.execEventAlloc p s
  | .eventFree p => Sys2Proof.Machine.execEventFree p s
  | .eventQuery p => Sys2Proof.Machine.execEventQuery p s
  | .deadlockScan => Sys2Proof.Machine.execDeadlockScan s
  | .regRead p => Sys2Proof.Machine.execRegRead p s
  | .regWrite p => Sys2Proof.Machine.execRegWrite p s
  | .completion p => Sys2Proof.Machine.execCompletion p s
  | .errorReport p => Sys2Proof.Machine.execErrorReport p s
  | .haldipReplyAck port src => Sys2Proof.Machine.execHaldipReplyAck port src s
  | .smbBlockRead => Sys2Proof.Machine.execSmbBlockRead s
  | .smbReadByte => Sys2Proof.Machine.execSmbReadByte s
  | .smbBusTimeout => Sys2Proof.Machine.execSmbBusTimeout s
  | .partCreate p => Sys2Proof.Machine.execPartCreate p s
  | .partBind p => Sys2Proof.Machine.execPartBind p s
  | .growCores p => Sys2Proof.Machine.execGrowCores p s
  | .shrinkCores p => Sys2Proof.Machine.execShrinkCores p s
  | .growChannels p => Sys2Proof.Machine.execGrowChannels p s
  | .shrinkChannels p => Sys2Proof.Machine.execShrinkChannels p s
  | .portShare p => Sys2Proof.Machine.execPortShare p s
  | .portShareApply port => Sys2Proof.Machine.execPortShareApply port s
  | .moveLc p => Sys2Proof.Machine.execMoveLc p s
  | .moveDrainReturn slot lcid => Sys2Proof.Machine.execMoveDrainReturn slot lcid s
  | .channelMigrate p => Sys2Proof.Machine.execChannelMigrate p s
  | .migrateCopyDone chan outcome => Sys2Proof.Machine.execMigrateCopyDone chan outcome s
  | .migrateDrainDone chan => Sys2Proof.Machine.execMigrateDrainDone chan s
  | .reset p => Sys2Proof.Machine.execReset p s
  | .setLead p => Sys2Proof.Machine.execSetLead p s
  | .partDestroy p => Sys2Proof.Machine.execPartDestroy p s
  | .partQuery p => Sys2Proof.Machine.execPartQuery p s
  | .ctxCreate p => Sys2Proof.Machine.execCtxCreate p s
  | .ctxDestroy p => Sys2Proof.Machine.execCtxDestroy p s
  | .qpBind p => Sys2Proof.Machine.execQpBind p s
  | .qpUnbind p => Sys2Proof.Machine.execQpUnbind p s
  | .moveBegin p => Sys2Proof.Machine.execMoveBegin p s
  | .moveOffer p => Sys2Proof.Machine.execMoveOffer p s
  | .moveAccept p => Sys2Proof.Machine.execMoveAccept p s
  | .moveCommit p => Sys2Proof.Machine.execMoveCommit p s
  | .moveAbort p => Sys2Proof.Machine.execMoveAbort p s
  | .ownerQuery p => Sys2Proof.Machine.execOwnerQuery p s
  | .handoffRetry slot lcid => Sys2Proof.Machine.execHandoffRetry slot lcid s
  | .epochOpenTimeout slot lcid => Sys2Proof.Machine.execEpochOpenTimeout slot lcid s
  | .handoffLeadTimeout slot lcid => Sys2Proof.Machine.execHandoffLeadTimeout slot lcid s
  | .runTableUpdate slot first mid => Sys2Proof.Machine.execRunTableUpdate slot first mid s
  | .flush slot lcid => Sys2Proof.Machine.execFlush slot lcid s
  | .granaryLoad p => Sys2Proof.Machine.execGranaryLoad p s
  | .granarySeal p => Sys2Proof.Machine.execGranarySeal p s
  | .granaryPin p => Sys2Proof.Machine.execGranaryPin p s
  | .granaryEvict p => Sys2Proof.Machine.execGranaryEvict p s
  | .granaryPeerPullEnd slot model data => Sys2Proof.Machine.execGranaryPeerPullEnd slot model data s
  | .granaryPeerTimeout slot model => Sys2Proof.Machine.execGranaryPeerTimeout slot model s
  | .unitFenceDone u => Sys2Proof.Machine.execUnitFenceDone u s
  | .unitScrubDone u => Sys2Proof.Machine.execUnitScrubDone u s
  | .unitBistDone u pass => Sys2Proof.Machine.execUnitBistDone u pass s
  | .coreNop t w => Sys2Proof.Machine.execCoreNop t w s
  | .add t w => Sys2Proof.Machine.execAdd t w s
  | .sub t w => Sys2Proof.Machine.execSub t w s
  | .andX t w => Sys2Proof.Machine.execAndX t w s
  | .orX t w => Sys2Proof.Machine.execOrX t w s
  | .xorX t w => Sys2Proof.Machine.execXorX t w s
  | .shl t w => Sys2Proof.Machine.execShl t w s
  | .shr t w => Sys2Proof.Machine.execShr t w s
  | .sra t w => Sys2Proof.Machine.execSra t w s
  | .mul t w => Sys2Proof.Machine.execMul t w s
  | .mulhu t w => Sys2Proof.Machine.execMulhu t w s
  | .mulhs t w => Sys2Proof.Machine.execMulhs t w s
  | .divu t w => Sys2Proof.Machine.execDivu t w s
  | .divs t w => Sys2Proof.Machine.execDivs t w s
  | .remu t w => Sys2Proof.Machine.execRemu t w s
  | .rems t w => Sys2Proof.Machine.execRems t w s
  | .slt t w => Sys2Proof.Machine.execSlt t w s
  | .sltu t w => Sys2Proof.Machine.execSltu t w s
  | .seqEq t w => Sys2Proof.Machine.execSeqEq t w s
  | .mins t w => Sys2Proof.Machine.execMins t w s
  | .maxs t w => Sys2Proof.Machine.execMaxs t w s
  | .minu t w => Sys2Proof.Machine.execMinu t w s
  | .maxu t w => Sys2Proof.Machine.execMaxu t w s
  | .sel t w => Sys2Proof.Machine.execSel t w s
  | .movi t w => Sys2Proof.Machine.execMovi t w s
  | .sethi t w => Sys2Proof.Machine.execSethi t w s
  | .ld t w c => Sys2Proof.Machine.execLd t w c s
  | .st t w => Sys2Proof.Machine.execSt t w s
  | .br t w => Sys2Proof.Machine.execBr t w s
  | .jal t w => Sys2Proof.Machine.execJal t w s
  | .jalr t w => Sys2Proof.Machine.execJalr t w s
  | .endK t w => Sys2Proof.Machine.execEndK t w s
  | .spr t w => Sys2Proof.Machine.execSpr t w s
  | .flagclr t w => Sys2Proof.Machine.execFlagclr t w s
  | .trap t w => Sys2Proof.Machine.execTrap t w s
  | .vadd t w => Sys2Proof.Machine.execVadd t w s
  | .vsub t w => Sys2Proof.Machine.execVsub t w s
  | .vmul t w => Sys2Proof.Machine.execVmul t w s
  | .vfma t w => Sys2Proof.Machine.execVfma t w s
  | .vdiv t w => Sys2Proof.Machine.execVdiv t w s
  | .vmin t w => Sys2Proof.Machine.execVmin t w s
  | .vmax t w => Sys2Proof.Machine.execVmax t w s
  | .vand t w => Sys2Proof.Machine.execVand t w s
  | .vor t w => Sys2Proof.Machine.execVor t w s
  | .vxor t w => Sys2Proof.Machine.execVxor t w s
  | .vshl t w => Sys2Proof.Machine.execVshl t w s
  | .vshr t w => Sys2Proof.Machine.execVshr t w s
  | .vsra t w => Sys2Proof.Machine.execVsra t w s
  | .vsgn t w => Sys2Proof.Machine.execVsgn t w s
  | .vfunc t w => Sys2Proof.Machine.execVfunc t w s
  | .vcmp t w => Sys2Proof.Machine.execVcmp t w s
  | .vcvt t w => Sys2Proof.Machine.execVcvt t w s
  | .vred t w => Sys2Proof.Machine.execVred t w s
  | .vbcast t w => Sys2Proof.Machine.execVbcast t w s
  | .vext t w => Sys2Proof.Machine.execVext t w s
  | .vins t w => Sys2Proof.Machine.execVins t w s
  | .vperm t w => Sys2Proof.Machine.execVperm t w s
  | .viota t w => Sys2Proof.Machine.execViota t w s
  | .vld t w c => Sys2Proof.Machine.execVld t w c s
  | .vst t w => Sys2Proof.Machine.execVst t w s
  | .vldc t w => Sys2Proof.Machine.execVldc t w s
  | .vstc t w => Sys2Proof.Machine.execVstc t w s
  | .plog t w => Sys2Proof.Machine.execPlog t w s
  | .tmma t w c => Sys2Proof.Machine.execTmma t w c s
  | .aclr t w => Sys2Proof.Machine.execAclr t w s
  | .adrain t w => Sys2Proof.Machine.execAdrain t w s
  | .ald t w => Sys2Proof.Machine.execAld t w s
  | .xfer t w => Sys2Proof.Machine.execXfer t w s
  | .transferFault t descOff => Sys2Proof.Machine.execTransferFault t descOff s
  | .faultQueueStallTimeout f => Sys2Proof.Machine.execFaultQueueStallTimeout f s
  | .transferDone t descOff => Sys2Proof.Machine.execTransferDone t descOff s
  | .xwait t w => Sys2Proof.Machine.execXwait t w s
  | .xprog t w moved => Sys2Proof.Machine.execXprog t w moved s
  | .rst t w => Sys2Proof.Machine.execRst t w s
  | .rld t w => Sys2Proof.Machine.execRld t w s
  | .remoteAccessServe lcid ctx => Sys2Proof.Machine.execRemoteAccessServe lcid ctx s
  | .atom t w => Sys2Proof.Machine.execAtom t w s
  | .red t w => Sys2Proof.Machine.execRed t w s
  | .vredw t w => Sys2Proof.Machine.execVredw t w s
  | .erec t w => Sys2Proof.Machine.execErec t w s
  | .ewait t w => Sys2Proof.Machine.execEwait t w s
  | .bar t w => Sys2Proof.Machine.execBar t w s
  | .barrierArrive ctx bid lcid group => Sys2Proof.Machine.execBarrierArrive ctx bid lcid group s
  | .barrierRelease t bid ph => Sys2Proof.Machine.execBarrierRelease t bid ph s
  | .fence t w => Sys2Proof.Machine.execFence t w s
  | .dispatchEntryStart core sample => Sys2Proof.Machine.execDispatchEntryStart core sample s
  | .tenancyExhausted core => Sys2Proof.Machine.execTenancyExhausted core s
  | .sliceExpiry t => Sys2Proof.Machine.execSliceExpiry t s
  | .class7Preempt core => Sys2Proof.Machine.execClass7Preempt core s
  | .blockedEvict core blocked => Sys2Proof.Machine.execBlockedEvict core blocked s
  | .tenancySaveDone t c => Sys2Proof.Machine.execTenancySaveDone t c s
  | .tenancyRestoreDone t c => Sys2Proof.Machine.execTenancyRestoreDone t c s
  | .confCoreScrub core => Sys2Proof.Machine.execConfCoreScrub core s
  | .coreFaultDetected core unsavable => Sys2Proof.Machine.execCoreFaultDetected core unsavable s
  | .progLoad p => Sys2Proof.Machine.execProgLoad p s
  | .patchSeq p => Sys2Proof.Machine.execPatchSeq p s
  | .progRetire p => Sys2Proof.Machine.execProgRetire p s
  | .launchSeq p => Sys2Proof.Machine.execLaunchSeq p s
  | .runTimeout run => Sys2Proof.Machine.execRunTimeout run s
  | .seqNop run => Sys2Proof.Machine.execSeqNop run s
  | .seqMovi run => Sys2Proof.Machine.execSeqMovi run s
  | .movhi run => Sys2Proof.Machine.execMovhi run s
  | .alu run => Sys2Proof.Machine.execAlu run s
  | .seqLd run => Sys2Proof.Machine.execSeqLd run s
  | .seqSt run => Sys2Proof.Machine.execSeqSt run s
  | .evread run => Sys2Proof.Machine.execEvread run s
  | .seqBr run => Sys2Proof.Machine.execSeqBr run s
  | .bev run => Sys2Proof.Machine.execBev run s
  | .bmw run => Sys2Proof.Machine.execBmw run s
  | .loopS run => Sys2Proof.Machine.execLoopS run s
  | .jmp run => Sys2Proof.Machine.execJmp run s
  | .bovf run => Sys2Proof.Machine.execBovf run s
  | .ovfclr run => Sys2Proof.Machine.execOvfclr run s
  | .waitEv run => Sys2Proof.Machine.execWaitEv run s
  | .waitTimeoutExpiry run => Sys2Proof.Machine.execWaitTimeoutExpiry run s
  | .recEv run => Sys2Proof.Machine.execRecEv run s
  | .joinG run => Sys2Proof.Machine.execJoinG run s
  | .dispatch run => Sys2Proof.Machine.execDispatch run s
  | .dispatchQueueRoom run => Sys2Proof.Machine.execDispatchQueueRoom run s
  | .kernelEndNotify run incarn grp ovf => Sys2Proof.Machine.execKernelEndNotify run incarn grp ovf s
  | .seqCopy run => Sys2Proof.Machine.execSeqCopy run s
  | .hint run => Sys2Proof.Machine.execHint run s
  | .kvopen run => Sys2Proof.Machine.execKvopen run s
  | .kvcommit run => Sys2Proof.Machine.execKvcommit run s
  | .kvrollback run => Sys2Proof.Machine.execKvrollback run s
  | .kvZeroWrite chan => Sys2Proof.Machine.execKvZeroWrite chan s
  | .emit run => Sys2Proof.Machine.execEmit run s
  | .seqEnd run => Sys2Proof.Machine.execSeqEnd run s
  | .runAhead run => Sys2Proof.Machine.execRunAhead run s
  | .seqCoreFailover core lost => Sys2Proof.Machine.execSeqCoreFailover core lost s
  | .memoryRequest r => Sys2Proof.Machine.execMemoryRequest r s
  | .nearMemoryOp r => Sys2Proof.Machine.execNearMemoryOp r s
  | .patrolScrub chan upset => Sys2Proof.Machine.execPatrolScrub chan upset s
  | .rangeMap p => Sys2Proof.Machine.execRangeMap p s
  | .rangeUnmap p => Sys2Proof.Machine.execRangeUnmap p s
  | .unmapWhenIdle p => Sys2Proof.Machine.execUnmapWhenIdle p s
  | .unmapWhenIdleEffect id => Sys2Proof.Machine.execUnmapWhenIdleEffect id s
  | .rangeInval p => Sys2Proof.Machine.execRangeInval p s
  | .rangeInvalTimeout id => Sys2Proof.Machine.execRangeInvalTimeout id s
  | .rangeWalk sheaf ctx va => Sys2Proof.Machine.execRangeWalk sheaf ctx va s
  | .prefetch p => Sys2Proof.Machine.execPrefetch p s
  | .advise p => Sys2Proof.Machine.execAdvise p s
  | .ownSet p => Sys2Proof.Machine.execOwnSet p s
  | .faultResolve p => Sys2Proof.Machine.execFaultResolve p s
  | .eothaConfig p => Sys2Proof.Machine.execEothaConfig p s
  | .frameReceive port f => Sys2Proof.Machine.execFrameReceive port f s
  | .linkReplayTimeout port => Sys2Proof.Machine.execLinkReplayTimeout port s
  | .portTrain port r => Sys2Proof.Machine.execPortTrain port r s
  | .miswiredRetrain port => Sys2Proof.Machine.execMiswiredRetrain port s
  | .laneRetire port lane receive => Sys2Proof.Machine.execLaneRetire port lane receive s
  | .portDown port => Sys2Proof.Machine.execPortDown port s
  | .fabricCommand f => Sys2Proof.Machine.execFabricCommand f s
  | .fabricRead f => Sys2Proof.Machine.execFabricRead f s
  | .fabricWrite f => Sys2Proof.Machine.execFabricWrite f s
  | .fabricNear f => Sys2Proof.Machine.execFabricNear f s
  | .fabricResponse f => Sys2Proof.Machine.execFabricResponse f s
  | .markF f => Sys2Proof.Machine.execMarkF f s
  | .markAck f => Sys2Proof.Machine.execMarkAck f s
  | .flowGapTimeout flow => Sys2Proof.Machine.execFlowGapTimeout flow s
  | .pathReevaluate flow => Sys2Proof.Machine.execPathReevaluate flow s
  | .remoteResponseTimeout tag => Sys2Proof.Machine.execRemoteResponseTimeout tag s
  | .livenessNop => Sys2Proof.Machine.execLivenessNop s
  | .peerSilent mid => Sys2Proof.Machine.execPeerSilent mid s
  | .peerFailDeclare path v => Sys2Proof.Machine.execPeerFailDeclare path v s
  | .colsEnable path v => Sys2Proof.Machine.execColsEnable path v s
  | .colsDisable path v => Sys2Proof.Machine.execColsDisable path v s
  | .collDescriptorStart stream => Sys2Proof.Machine.execCollDescriptorStart stream s
  | .collAnnounce stream rank tag crc => Sys2Proof.Machine.execCollAnnounce stream rank tag crc s
  | .coll stream rank seg data => Sys2Proof.Machine.execColl stream rank seg data s
  | .collComplete stream => Sys2Proof.Machine.execCollComplete stream s
  | .collAbort stream status => Sys2Proof.Machine.execCollAbort stream status s
  | .collTimeout stream => Sys2Proof.Machine.execCollTimeout stream s
  | .linkKeyRotate slot peer keyix => Sys2Proof.Machine.execLinkKeyRotate slot peer keyix s
  | .linkKeyWaitTimeout slot peer => Sys2Proof.Machine.execLinkKeyWaitTimeout slot peer s
  | .rtEntryCommit path v => Sys2Proof.Machine.execRtEntryCommit path v s
  | .powerState p => Sys2Proof.Machine.execPowerState p s
  | .frostEntryWindowEnd half => Sys2Proof.Machine.execFrostEntryWindowEnd half s
  | .lullAutoEntry half => Sys2Proof.Machine.execLullAutoEntry half s
  | .lullExit half => Sys2Proof.Machine.execLullExit half s
  | .wakeN => Sys2Proof.Machine.execWakeN s
  | .smbusWake => Sys2Proof.Machine.execSmbusWake s
  | .haldipWakeBeacon port => Sys2Proof.Machine.execHaldipWakeBeacon port s
  | .thaw half failed => Sys2Proof.Machine.execThaw half failed s
  | .avsStatusPoll half rail status => Sys2Proof.Machine.execAvsStatusPoll half rail status s
  | .avsTimeout half rail => Sys2Proof.Machine.execAvsTimeout half rail s
  | .dutyWindow est tcur => Sys2Proof.Machine.execDutyWindow est tcur s
  | .freqLoopTick => Sys2Proof.Machine.execFreqLoopTick s
  | .squallDetect half => Sys2Proof.Machine.execSquallDetect half s
  | .squallRelease half => Sys2Proof.Machine.execSquallRelease half s
  | .telemetrySample est tel => Sys2Proof.Machine.execTelemetrySample est tel s
  | .hintPhase p => Sys2Proof.Machine.execHintPhase p s
  | .hintPhaseStart => Sys2Proof.Machine.execHintPhaseStart s
  | .hintPhaseEnd => Sys2Proof.Machine.execHintPhaseEnd s
  | .shiftTick slot => Sys2Proof.Machine.execShiftTick slot s
  | .powerBudget p => Sys2Proof.Machine.execPowerBudget p s
  | .budgetDonorTimeout slot => Sys2Proof.Machine.execBudgetDonorTimeout slot s
  | .shiftOffsetLapse => Sys2Proof.Machine.execShiftOffsetLapse s
  | .thermalTick temps => Sys2Proof.Machine.execThermalTick temps s
  | .thermalCrit => Sys2Proof.Machine.execThermalCrit s
  | .coolantStop => Sys2Proof.Machine.execCoolantStop s
  | .contextTeardown ctx => Sys2Proof.Machine.execContextTeardown ctx s
  | .teardownDrainDone ctx => Sys2Proof.Machine.execTeardownDrainDone ctx s
  | .teardownZeroDone ctx => Sys2Proof.Machine.execTeardownZeroDone ctx s
  | .peerNoticeRetry ctx mid => Sys2Proof.Machine.execPeerNoticeRetry ctx mid s
  | .mgmtHeartbeat => Sys2Proof.Machine.execMgmtHeartbeat s
  | .mgmtFailover => Sys2Proof.Machine.execMgmtFailover s
  | .winnowVerdict t same => Sys2Proof.Machine.execWinnowVerdict t same s
  | .winnowThirdVerdict t v => Sys2Proof.Machine.execWinnowThirdVerdict t v s
  | .unitHang u unsavable => Sys2Proof.Machine.execUnitHang u unsavable s
  | .escalationStepTimeout u => Sys2Proof.Machine.execEscalationStepTimeout u s
  | .moduleReset => Sys2Proof.Machine.execModuleReset s
  | .svcOut path v => Sys2Proof.Machine.execSvcOut path v s
  | .svcTest path v pass => Sys2Proof.Machine.execSvcTest path v pass s
  | .svcIn path v pass => Sys2Proof.Machine.execSvcIn path v pass s
  | .gleanDump path v => Sys2Proof.Machine.execGleanDump path v s
  | .logRecordRead path => Sys2Proof.Machine.execLogRecordRead path s
  | .scaleClassWrite path v cpl => Sys2Proof.Machine.execScaleClassWrite path v cpl s
  | .claimOwner p => Sys2Proof.Machine.execClaimOwner p s
  | .transferOwner p => Sys2Proof.Machine.execTransferOwner p s
  | .enterDebug p => Sys2Proof.Machine.execEnterDebug p s
  | .leaveDebug p => Sys2Proof.Machine.execLeaveDebug p s
  | .enterRma p => Sys2Proof.Machine.execEnterRma p s
  | .rmaReturn p => Sys2Proof.Machine.execRmaReturn p s
  | .retire p => Sys2Proof.Machine.execRetire p s
  | .fwFloor p => Sys2Proof.Machine.execFwFloor p s
  | .installCert p => Sys2Proof.Machine.execInstallCert p s
  | .attestChain p => Sys2Proof.Machine.execAttestChain p s
  | .quoteModule p => Sys2Proof.Machine.execQuoteModule p s
  | .quoteSlot p => Sys2Proof.Machine.execQuoteSlot p s
  | .linkKexChain p => Sys2Proof.Machine.execLinkKexChain p s
  | .linkKexInit p => Sys2Proof.Machine.execLinkKexInit p s
  | .linkKexResp p => Sys2Proof.Machine.execLinkKexResp p s
  | .linkKexConfirm p => Sys2Proof.Machine.execLinkKexConfirm p s
  | .linkKexRetry slot peer => Sys2Proof.Machine.execLinkKexRetry slot peer s
  | .linkKexGiveUp slot peer => Sys2Proof.Machine.execLinkKexGiveUp slot peer s
  | .linkKeyExpire slot peer keyix => Sys2Proof.Machine.execLinkKeyExpire slot peer keyix s
  | .feedFrameSend f => Sys2Proof.Machine.execFeedFrameSend f s
  | .feedFrameReceive bytes => Sys2Proof.Machine.execFeedFrameReceive bytes s
  | .pairWb bytes => Sys2Proof.Machine.execPairWb bytes s
  | .wbSecondClose m => Sys2Proof.Machine.execWbSecondClose m s
  | .wbBlockClose => Sys2Proof.Machine.execWbBlockClose s
  | .wbInputLoss m => Sys2Proof.Machine.execWbInputLoss m s
  | .wbPowerReturn => Sys2Proof.Machine.execWbPowerReturn s
  | .wbInfo => Sys2Proof.Machine.execWbInfo s
  | .wbKeys chunk => Sys2Proof.Machine.execWbKeys chunk s
  | .readBlock blockNo chunk => Sys2Proof.Machine.execReadBlock blockNo chunk s
  | .readAudit entry chunk => Sys2Proof.Machine.execReadAudit entry chunk s
  | .fwLoad off data => Sys2Proof.Machine.execFwLoad off data s
  | .fwCommit => Sys2Proof.Machine.execFwCommit s
  | .authority bytes => Sys2Proof.Machine.execAuthority bytes s
  | .sealBreach => Sys2Proof.Machine.execSealBreach s
  | .mirrorFrame => Sys2Proof.Machine.execMirrorFrame s
  | .mirrorLost => Sys2Proof.Machine.execMirrorLost s
  | .registerWrite path addr v => Sys2Proof.Machine.execRegisterWrite path addr v s
  | .aliasWrite path addr v => Sys2Proof.Machine.execAliasWrite path addr v s
  | .loLatchRead path addr => Sys2Proof.Machine.execLoLatchRead path addr s
  | .lckUnlock path v => Sys2Proof.Machine.execLckUnlock path v s
  | .lockExpiry path => Sys2Proof.Machine.execLockExpiry path s
  | .cplWrite path addr v => Sys2Proof.Machine.execCplWrite path addr v s
  | .pendingLapse path => Sys2Proof.Machine.execPendingLapse path s
  | .crcPass => Sys2Proof.Machine.execCrcPass s
  | .graceExpiry => Sys2Proof.Machine.execGraceExpiry s
  | .crcCommit path v cpl => Sys2Proof.Machine.execCrcCommit path v cpl s
  | .boot c => Sys2Proof.Machine.execBoot c s
  | .powerOff => Sys2Proof.Machine.execPowerOff s
  | .flashRequest reading => Sys2Proof.Machine.execFlashRequest reading s
  | .flashRelease => Sys2Proof.Machine.execFlashRelease s
  | .extest die => Sys2Proof.Machine.execExtest die s
  | .idcode die => Sys2Proof.Machine.execIdcode die s
  | .samplePreload die sampled shifted => Sys2Proof.Machine.execSamplePreload die sampled shifted s
  | .clamp die => Sys2Proof.Machine.execClamp die s
  | .highz die => Sys2Proof.Machine.execHighz die s
  | .extestPulse die => Sys2Proof.Machine.execExtestPulse die s
  | .extestTrain die => Sys2Proof.Machine.execExtestTrain die s
  | .regaccess addr v cpl => Sys2Proof.Machine.execRegaccess addr v cpl s
  | .memaccess addr v cpl => Sys2Proof.Machine.execMemaccess addr v cpl s
  | .halt core stop => Sys2Proof.Machine.execHalt core stop s
  | .bypass die => Sys2Proof.Machine.execBypass die s
  | .wbExtest => Sys2Proof.Machine.execWbExtest s
  | .wbIdcode => Sys2Proof.Machine.execWbIdcode s
  | .wbSamplePreload sampled shifted => Sys2Proof.Machine.execWbSamplePreload sampled shifted s
  | .wbBypass => Sys2Proof.Machine.execWbBypass s
  | .copyDone id => Sys2Proof.Machine.execCopyDone id s
  | .ownSetReleaseDone id => Sys2Proof.Machine.execOwnSetReleaseDone id s
  | .hbmChannelFailure chan => Sys2Proof.Machine.execHbmChannelFailure chan s
  | .sheafFault sheaf => Sys2Proof.Machine.execSheafFault sheaf s
  | .seamCrcFailure => Sys2Proof.Machine.execSeamCrcFailure s
  | .coolantFaultDeassert => Sys2Proof.Machine.execCoolantFaultDeassert s
  | .wakeNRelease => Sys2Proof.Machine.execWakeNRelease s

end Sys2Proof.Machine
end

