-- ==== Sys2Proof/Safety.lean ====
section
/-! DEFINITION. The terms that statements use: an outcome that is a next state, when an instruction of a core issues, and
when a command packet starts as it arrives on QP 0 of a Haldip port or comes in from another module. -/
namespace Sys2Proof.Machine

/-- An outcome that is a next state: the module never stops without a state it goes on from. -/
def completes (o : Host.Outcome State Fault Refusal) : Prop := ∃ t, o = .next t

/-- Nothing waits inside the module that an idle cycle would carry on: no sideband packet, no request without a path, no collective that has
lost one, no sheaf to isolate, no invalidation that has been acknowledged, no request at an HBM controller. -/
def Quiet (s : State) : Prop :=
  s.fe.sideWait = [] ∧ s.fab.refused = [] ∧ s.fab.cutColls = [] ∧ s.res.sheafDue = []
    ∧ (∀ b ∈ s.fe.begun, ∀ tags, b.job ≠ .inval [] tags) ∧ (∀ e ∈ s.mem.chans, e.2.queue = [])

/-! ### Instructions of a core (spec/04 R101, spec/05 R122-R125) -/

/-- The instruction at the PC of tenancy `t` issues: `t` executes as `x`, no value is pending for a register in `regs`, and
the fetch at its PC is allowed, which leaves `u`. -/
def Issues (s : State) (t : TenRef) (regs : List Reg) (x : Ten) (u : State) : Prop :=
  canIssue s t = some x ∧ regs.any (regPending s t) = false ∧ fetch s x = (true, u)

/-- `mk` is an instruction of tenancy `t` that issues under `Issues` and then leaves `effect x u`. -/
def Executes (regs : CoreWord → List Reg) (proper : CoreWord → Bool) (mk : TenRef → BitVec 56 → Instr)
    (cond : CoreWord → Ten → State → Prop) (effect : CoreWord → Ten → State → State) : Prop :=
  ∀ s t w x u, Issues s t (regs (coreWord w)) x u → proper (coreWord w) = true → cond (coreWord w) x u →
    exec (mk t w) s = .next (effect (coreWord w) x u)

/-- `mk` is a scalar instruction of the "opB" form (spec/05 R126): when it issues with a proper word, X[D] receives
`f X[A] opB X[C]`, the PC goes on by 8 and nothing else changes. -/
def ComputesX (useC : Bool) (mk : TenRef → BitVec 56 → Instr) (f : W64 → W64 → W64 → W64) : Prop :=
  Executes (fun c => [(false, c.d), (false, c.a), (false, c.b), (false, c.c)])
    (fun c => opBOk c && decide (c.pred = 0) && decide (c.fn = 0) && (useC || decide (c.c = 0))) mk
    (fun _ _ _ => True)
    (fun c x u => setTen u (xSet x c.d
      (f (xGet x c.a) (if modBit c 16 then sext16 c.imm16 else xGet x c.b) (xGet x c.c))).next)

/-- The state after an instruction that leaves its tenancy `x` as `y`, past the instruction, and sets FGX_OVF where `ovf`
(spec/03 R83, spec/05 R129). -/
def ended (u : State) (x y : Ten) (ovf : Bool) : State :=
  if ovf then tenOvf (setTen u y.next) (refOf x) else setTen u y.next

/-- Each active lane of V[D] takes a result and the others keep their value (spec/05 R132); FGX_OVF is set where the result of
an active lane sets it. -/
def endedLanes (u : State) (x : Ten) (c : CoreWord) (f : Nat → W32 × Bool) : State :=
  ended u x (vLanes x c.d (fun l => (f l).1) (activeLanes x c.pred)) ((activeLanes x c.pred).any (fun l => (f l).2))

/-- `mk` is a lane instruction (spec/05 R132) on the lane types `tys`, using field B where `useB` says so, field C where
`useC` does and FN up to `fnMax`: when it issues, each active lane of V[D] receives `f` of its type, FN and operands. -/
def ComputesV (useB : CoreWord → Bool) (useC : Bool) (fnMax : Nat) (tys : List Nat) (mk : TenRef → BitVec 56 → Instr)
    (f : Nat → Nat → W32 → W32 → W32 → W32 × Bool) : Prop :=
  Executes (fun c => [(true, c.d), (true, c.a)] ++ (if useB c then [(true, c.b)] else []) ++ (if useC then [(true, c.c)] else []))
    (fun c => (useB c || decide (c.b = 0)) && (useC || decide (c.c = 0)) && decide (c.fn ≤ fnMax)
      && modZero c 20 27 && decide (c.imm16 = 0)) mk
    (fun c _ _ => modFld c 16 4 ∈ tys)
    (fun c x u => endedLanes u x c (fun l => f (modFld c 16 4) c.fn (vGet x c.a l) (vGet x c.b l) (vGet x c.c l)))

/-- The state after a read of words of an array of tenancy `x`'s core in which its code finds `e` (spec/11 R307): `v`, with the
effect of what was read, where nothing was found; a corrected error is reported besides; an uncorrectable word is reported, the
context is LOST, and the state is `u`, without the effect. -/
def afterRead (e : EccSeen) (x : Ten) (u v : State) : State :=
  match e with
  | .clean => v
  | .corrected => logNote { cls := 0x05, sev := 0, unitKind := 0, unit := x.core, action := 1, half := halfOfCore x.core } v
  | .uncorrectable => loseStatus x.ctx 0x0C (halfOfCore x.core) (logNote
      { cls := 0x06, sev := 2, unitKind := 0, unit := x.core, slot := some x.slot, ctx := some x.ctx, half := halfOfCore x.core } u)

/-- The state after a word of the image of tenancy `x`, at local address `a` of the save area, is found uncorrectable (spec/04 R115,
spec/08 R217): it is counted in its channel and reported, and the image's context is LOST with cause UNCORRECTABLE. -/
def imageLost (x : Ten) (a : Nat) (u : State) : State :=
  let p := granChan u (granOf a)
  let v := logNote
    { cls := 0x02, sev := 2, unitKind := 2, unit := p, code := 6, slot := some x.slot, ctx := some x.ctx, half := halfOfChan p,
      detail := fpaOf u a }
    (setChan u p { getChan u p with ue := sat32 (getChan u p).ue })
  loseCause (fatalFault v 6 4 x.ctx false (BitVec.ofNat 64 a) 0 0xFFFFFF (halfOfChan p) 0) v

/-! ### Sequencer instructions (spec/07 R200, R202) -/

/-- Run `r` is `x` and can issue its next instruction, `w`: its context is LIVE, its sequencer core serves, it does not wait
for anything but to be looked at again, and it is its turn. -/
def RunAt (s : State) (r : Nat) (x : Run) (w : SeqW) : Prop :=
  getRun s r = some x ∧ (getCtx s x.ctx).st = 1 ∧ (getCtx s x.ctx).gen = x.cgen ∧ unitSt s ⟨7, x.core⟩ = .ready
    ∧ halfOff s (x.core / 8) = false ∧ retryWait x.wait = true ∧ seqTurn s r x = true ∧ runWord s x = some w

/-- `mk` is the sequencer instruction of opcode `op`: when it issues and `cond` holds, it takes its turn and has `effect`, a prediction that its
branch settles is settled, and waits that this satisfies are released. -/
def Sequences (op : Nat) (mk : Nat → Instr) (cond : Nat → Run → SeqW → State → Prop)
    (effect : Nat → Run → SeqW → State → State) : Prop :=
  ∀ s r x w, RunAt s r x w → w.op = op → cond r { x with wait := .none, ahead := false } w (takeTurn s r x) →
    exec (mk r) s = .next (wakeAll (settleGuess (effect r { x with wait := .none, ahead := false } w (takeTurn s r x)) r x.pc w))

/-- The run's EVREAD or BEV asks another module for its event's value, and the run waits for the answer. -/
def eventAsked (r : Nat) (x : Run) (w : SeqW) (s : State) : State :=
  askEvent (putRun s r { x with wait := .remote }) (.runEvent r) (BitVec.ofNat 64 x.pc) x.ctx 0 (576 + x.core) opEventRead
    ((sGet x w.a).setWidth 32) 0

/-! ### Command packets (spec/06 R160, R161, R169) -/

/-- QP 0 of a Haldip port with a packet admitted: the half is awake and the next sequence number is expected. -/
def admitted (s : State) (h : Nat) : State :=
  setFe (lullWake s h) h { getFe s h with expected := (getFe s h).expected + 1 }

/-- The state in which a packet of QP 0 that starts as it arrives is carried out: admitted, and its cost counted. -/
def taken (s : State) (h : Nat) (p : Pkt) : State := chargeItem h p.cls (itemCost p.payload.length) (admitted s h)

/-- Packet `p` arrives on QP 0 of Haldip port `h`, passes the checks of R160 and R161 and is the item that the front end
starts next (R169). -/
def MgmtTakes (s : State) (h : Nat) (p : Pkt) : Prop :=
  p.src = .haldip h ∧ p.qpn = 0 ∧ (getFe s h).up = true ∧ p.rxOk = true ∧ takingOver s = false ∧ checkAdapter0 s h p = none
    ∧ p.plen = p.payload.length ∧ p.plen ≤ 8192 ∧ (getFe s h).onHold = false ∧ onM p.opcode = true
    ∧ p.seq = (getFe s h).expected ∧ (getFe s h).held = [] ∧ startsNow (admitted s h) h (.mgmt h) p = true

/-- `mk` carries a packet that reads as `f` of it and that, taken on QP 0 in a state where `cond` holds, has `effect`; waits
that this satisfies are then released. -/
def RunsVia (mk : Pkt → Instr) (f : Pkt → Pkt) (cond : Nat → Pkt → State → Prop) (effect : Nat → Pkt → State → State) : Prop :=
  ∀ s h p, MgmtTakes s h (f p) → cond h (f p) (taken s h (f p)) →
    exec (mk p) s = .next (wakeAll (effect h (f p) (taken s h (f p))))

/-- A queue pair of Haldip port `h` with packet `p` accepted (R164): it is written into the submission ring. -/
def qpAdmitted (s : State) (h : Nat) (p : Pkt) : State :=
  let u := lullWake s h
  let x := getQp u p.qpn
  ringPut u x.port (seqQpn p.seq p.qpn) x.ctx x.sqBase x.sqLog x.sqTail (slotBytes p.plen) (pktBytes p)

/-- The state in which a packet of a queue pair that starts as it arrives is carried out: its cost counted, and off the ring. -/
def qpTaken (s : State) (h : Nat) (p : Pkt) : State :=
  let x := getQp (lullWake s h) p.qpn
  let start := ringAt x.sqLog x.sqTail (slotBytes p.plen)
  let u := qpAdmitted s h p
  chargeItem x.port p.cls (itemCost p.payload.length) (popQp (setQp u p.qpn { getQp u p.qpn with
    expected := x.expected + 1, sqTail := start + slotBytes p.plen, sq := x.sq ++ [p] }) p.qpn)

/-- Packet `p` arrives on a queue pair of Haldip port `h`, passes the checks of R160, is the item that the front end starts
next (R169), and its context is LIVE when it starts (R183). -/
def QpTakes (s : State) (h : Nat) (p : Pkt) : Prop :=
  p.src = .haldip h ∧ p.qpn ≠ 0 ∧ (getFe s h).up = true ∧ p.rxOk = true ∧ checkQp (lullWake s h) h p = .accept
    ∧ startsNow (qpAdmitted s h p) (getQp (lullWake s h) p.qpn).port (.qp p.qpn) p = true
    ∧ startGate (qpTaken s h p) (.qp p.qpn) p = none

/-- `mk` carries a packet of opcode `op` that, taken on a queue pair, is carried out by `f`. -/
def RunsOnQp (mk : Pkt → Instr) (op : Nat) (f : Handler) : Prop :=
  ∀ s h p, QpTakes s h { p with opcode := op } →
    exec (mk p) s = .next (wakeAll (f (.qp p.qpn) { p with opcode := op } (qpTaken s h { p with opcode := op })))

/-- `RunsVia` for a packet of opcode `op`. -/
def RunsOn0 (mk : Pkt → Instr) (op : Nat) (cond : Nat → Pkt → State → Prop) (effect : Nat → Pkt → State → State) : Prop :=
  RunsVia mk (fun p => { p with opcode := op }) cond effect

/-- A PART_REBIND packet of an OP for slot `i`, which can re-bind (R52): some slot `i` holds its PID, no other re-binding is in
progress, and the payload has the OP's length. -/
def Rebinds (u : State) (p : Pkt) (op i : Nat) : Prop :=
  slotOfPid u p.w4.toNat = some i ∧ (getSlot u i).st ≠ 5 ∧ (getSlot u i).rebind = none ∧ (op ≠ 6 → rebinding u i = false)
    ∧ p.payload.length = rebindLen op

/-- Packet `p` comes in from module `mid` under a PID and a PGEN: the module is READY and the PGEN is the one its slot has
(R47). -/
def FabricTakes (s : State) (p : Pkt) (mid pid pgen : Nat) : Prop :=
  p.src = .fabric mid pid pgen ∧ s.dev.phase = .ready ∧ fabGate s pid pgen = .pass

/-- `mk` carries a packet of opcode `op` that, coming in from another module in a state where `cond` holds, has `effect`. -/
def RunsOnFabric (mk : Pkt → Instr) (op : Nat) (cond : QRef → Pkt → State → Prop) (effect : QRef → Pkt → State → State) : Prop :=
  ∀ s p mid pid pgen, FabricTakes s p mid pid pgen → cond (.fabric mid pid pgen) { p with opcode := op } s →
    exec (mk p) s = .next (effect (.fabric mid pid pgen) { p with opcode := op } s)

/-- A handoff message of module `mid` for the slot that word 4 names, of whose partition `mid` is a member (R40, R58). -/
def HandTakes (s : State) (p : Pkt) (mid pid pgen slot : Nat) : Prop :=
  FabricTakes s p mid pid pgen ∧ slotOfPid s p.w4.toNat = some slot ∧ isMember s slot mid = true

/-! ### Bulk commands (spec/06 R175-R178) -/

/-- What the check of an extent of a begun command finds (R178): the entry that it begins in, with the converted address and the bytes of the
extent that the entry holds; and the state that the check leaves. -/
def extent (s : State) (b : Begun) (kind : ReqKind) (va n : Nat) : Seg × State :=
  segAt s none b.pkt.ctx kind va n (cmdFault b (kind == .write) va)

/-- `P`, which QP 0 of port `h` takes, as the command that it begins, under a number that no other has. -/
def begunBy (s : State) (h : Nat) (P : Pkt) (j : Job) (b : Begun) : Prop :=
  b = { id := (taken s h P).fe.nextId, q := .mgmt h, pkt := P, job := j, cursor := 0 } ∧ findBegun (taken s h P) b.id = none

/-! ### Packets of the fabric (spec/09 R256, R258) -/

/-- Packet `f` comes in for this module in its flow's order, on a virtual channel of its KIND, not encrypted, under the PGEN of
its slot (R258, R47); `u` is the state in which its unit takes it. -/
def TakesPkt (s : State) (f : FabPkt) (u : State) : Prop :=
  s.dev.phase = .ready ∧ f.dst = ownModule s ∧ kindOk f.kind f.vc = true ∧ f.flowSeq = (findRx s (flowOf f)).expected
    ∧ f.conf = false ∧ f.sealed = [] ∧ u = setRx s { findRx s (flowOf f) with expected := f.flowSeq + 1 }
    ∧ fabGate u f.pid f.pgen.toNat = .pass

/-- What follows a packet's delivery, which has left `v`: released waits, then held packets of the flow that have become due. -/
def delivered (f : FabPkt) (v : State) : State :=
  wakeAll (rxDrain deliver (flowOf f) (findRx (wakeAll v) (flowOf f)).held.length (wakeAll v))

/-- `mk` carries a packet of KIND `kind` that, coming in where `cond` holds, has `effect`. -/
def Delivers (mk : FabPkt → Instr) (kind : Nat) (cond : FabPkt → State → Prop) (effect : FabPkt → State → State) : Prop :=
  ∀ s f u, TakesPkt s { f with kind := kind } u → cond { f with kind := kind } u →
    exec (mk f) s = .next (delivered { f with kind := kind } (effect { f with kind := kind } u))

/-! ### Register writes (spec/15 R389-R397) -/

/-- A write of `v` to `addr` on a path takes effect at once: the path is available, `addr` names register `r` by its own address,
whose block answers, nothing of the path is pending or matched, `r` is neither a lock nor a _CPL, and where `v` changes guarded
bits the path is armed and no complement is asked for. -/
def WriteOk (s : State) (path addr : Nat) (r : RegAt) (v : W32) : Prop :=
  pathOpen s path = true ∧ regAt addr = some r ∧ blockServed s r = true ∧ (getPath s path).pendingW = none
    ∧ (getPath s path).matched = none ∧ r.form = 0 ∧ ¬ (r.blk = 5 ∧ r.off = 0) ∧ isCpl r = false
    ∧ (isGuarded s r v = true → atComplement s r = false ∧ (getPath s path).armed = true)

/-- The state that such a write leaves: it is performed, a value that changes no guarded bit of a register with complements is
kept as matched, and the path's lock is disarmed. -/
def written (s : State) (path addr : Nat) (r : RegAt) (v : W32) : State :=
  let u := perform s path addr r v
  let u := if isGuarded s r v = false ∧ atComplement u r = true then setPath u path { getPath u path with matched := some (addr, v) } else u
  setPath u path { getPath u path with armed := false }

/-- A guarded write that waits for its complement: as `WriteOk`, but `v` changes guarded bits of a register with complements. -/
def WritePends (s : State) (path addr : Nat) (r : RegAt) (v : W32) : Prop :=
  pathOpen s path = true ∧ regAt addr = some r ∧ blockServed s r = true ∧ (getPath s path).pendingW = none
    ∧ (getPath s path).matched = none ∧ r.form = 0 ∧ ¬ (r.blk = 5 ∧ r.off = 0) ∧ isCpl r = false
    ∧ isGuarded s r v = true ∧ atComplement s r = true

/-- The state in which such a write is held. -/
def held (s : State) (path addr : Nat) (v : W32) : State :=
  let u := setPath s path { getPath s path with pendingW := some (addr, v) }
  setPath u path { getPath u path with armed := false }

/-! ### Fields that fit their packets (spec/06 R156, spec/08 R238, spec/09 R255-R256, spec/02 R36) -/

/-- A command packet whose fields fit the header and whose payload has its declared length. -/
def pktFits (p : Pkt) : Prop :=
  p.opcode < 256 ∧ p.qpn < 4096 ∧ p.ctx < 1024 ∧ p.status < 65536 ∧ p.cls < 8 ∧ p.payload.length < 65536
    ∧ p.plen = p.payload.length

/-- A near-memory request whose fields fit; only OP 14 carries lane data. -/
def nearFits (r : NearReq) : Prop :=
  r.fpa < 2 ^ 56 ∧ r.op < 16 ∧ r.width < 4 ∧ r.cls < 8 ∧ r.ctx < 1024 ∧ r.edom < 2 ∧ r.pid < 2 ^ 32
    ∧ (if r.op = 14 then r.lanes.length = 64 else r.lanes = [])

/-- The fields of a fabric packet's header, all else as in a packet that says nothing. -/
def fabHead (f : FabPkt) : FabPkt :=
  { dst := f.dst, vc := f.vc, kind := f.kind, conf := f.conf, nonmin := f.nonmin, inter := f.inter, src := f.src, lane := f.lane,
    phase := f.phase, keyix := f.keyix, flowSeq := f.flowSeq, pid := f.pid, pgen := f.pgen, gwPos := f.gwPos, gwPort := f.gwPort,
    tag := f.tag }

/-- The body of a fabric packet holds what its KIND carries and nothing else. -/
def bodyFits (f : FabPkt) : Prop :=
  match f.kind with
  | 0 => ∃ p, pktFits p ∧ p.src = .fabric f.src f.pid f.pgen.toNat ∧ p.rxOk = true ∧ p.adapter = 0 ∧ f = { fabHead f with cmd := some p }
  | 1 => f.data = [] ∧ f.cmd = none ∧ f.near = none ∧ f.tkind < 16 ∧ f.ctx < 1024 ∧ f.cls < 8 ∧ f.edom < 2 ∧ f.status < 32 ∧ f.len < 65536
  | 2 | 4 => f.cmd = none ∧ f.near = none ∧ f.tkind < 16 ∧ f.ctx < 1024 ∧ f.cls < 8 ∧ f.edom < 2 ∧ f.status < 32 ∧ f.len < 65536
  | 3 => ∃ r, nearFits r ∧ f = { fabHead f with near := some r }
  | 5 | 6 => f = { fabHead f with data := f.data }
  | _ => f = fabHead f

/-- A fabric packet in plaintext whose fields fit the header and whose body fits its KIND. -/
def fabFits (f : FabPkt) : Prop :=
  f.dst < 16384 ∧ f.vc < 8 ∧ f.kind < 16 ∧ f.inter < 256 ∧ f.src < 16384 ∧ f.lane < 16 ∧ f.phase < 4 ∧ f.keyix < 4
    ∧ f.pid < 2 ^ 32 ∧ f.gwPos < 64 ∧ f.gwPort < 32 ∧ f.counter = 0 ∧ f.sealed = [] ∧ (fabBody f).length < 16384 ∧ bodyFits f

/-- A binding record whose fields fit; cores, channels and port shares are in the order that the record's maps give. -/
def recFits (r : BindRec) : Prop :=
  r.pid < 2 ^ 32 ∧ r.lcount < 2 ^ 24 ∧ r.slot < 64 ∧ r.lead < 2 ^ 14 ∧ r.deputy < 2 ^ 14 ∧ r.localCount < 2 ^ 24 ∧ r.runs < 2 ^ 16
    ∧ r.granary < 2 ^ 16 ∧ r.cores = (List.range 576).filter (fun c => r.cores.contains c)
    ∧ r.chans = (List.range 192).filter (fun n => r.chans.contains n)
    ∧ tabWf (fun _ => 0) r.share = true ∧ (∀ e ∈ r.share, e.1 < 32 ∧ e.2 < 256)
    ∧ r.clsShare.length = 7 ∧ (∀ x ∈ r.clsShare, x < 256)

/-! ### Frames of core instructions, and records on an event -/

/-- `mk` is a scalar instruction of the "opB" form (R126) that changes its tenancy's X[D] and PC alone: when it issues with a
proper word, every next state is the one its fetch left, but for that register and the PC. -/
def KeepsX (useC : Bool) (mk : TenRef → BitVec 56 → Instr) : Prop :=
  ∀ s t w x u v, Issues s t [(false, (coreWord w).d), (false, (coreWord w).a), (false, (coreWord w).b), (false, (coreWord w).c)] x u →
    scalarOk (coreWord w) useC = true → exec (mk t w) s = .next v →
    v = { u with tens := v.tens } ∧ (∀ r, r ≠ t → findTen v r = findTen u r)
      ∧ ((findTen u t).isSome = true → ∃ y, findTen v t = some y ∧ y = { x with x := y.x, pc := x.pc + 8 }
          ∧ ∀ i, i ≠ (coreWord w).d → xGet y i = xGet x i)

/-- `mk`, whose operands are registers of the X file, faults with ILLEGAL_INSTRUCTION when it issues with an improper word. -/
def FaultsX (proper : CoreWord → Bool) (mk : TenRef → BitVec 56 → Instr) : Prop :=
  ∀ s t w x u, Issues s t [(false, (coreWord w).d), (false, (coreWord w).a), (false, (coreWord w).b), (false, (coreWord w).c)] x u →
    proper (coreWord w) = false → exec (mk t w) s = .next (coreFault x 0x20 false x.pc 0 u)

/-- `FaultsX` for operands of the V file. -/
def FaultsV (proper : CoreWord → Bool) (mk : TenRef → BitVec 56 → Instr) : Prop :=
  ∀ s t w x u, Issues s t [(true, (coreWord w).d), (true, (coreWord w).a), (true, (coreWord w).b), (true, (coreWord w).c)] x u →
    proper (coreWord w) = false → exec (mk t w) s = .next (coreFault x 0x20 false x.pc 0 u)

/-- The value of an event after a record of `v` on `c` (spec/06 R186). -/
def recorded (c v : W64) : W64 := if recAdvances c v then v else c

end Sys2Proof.Machine
end

