-- ==== Sys2Proof/Certificates/Slice0/Obligations.lean ====
section
/-! DEFINITION. The statements for the provers. Most say where commands complete: what state a command leaves when it is carried
out. The others state rules of the machine as a whole. -/
section
open Sys2Proof Sys2Proof.Machine

/-- (R164, R201: commands take effect one at a time in the order of their queue; notes/assumptions/1.md.) A step takes the
command at the front of the queue and carries it out with the queue's rest. -/
def Obligations.StepRunsTheFrontCommand : Prop :=
  ∀ (c : Instr) (rest : List Instr) (s : State), step { s with pending := c :: rest } = exec c { s with pending := rest }

/-- (R32, R250; that an empty queue lets one cycle pass is the model's choice, notes/assumptions/2.md, and so is the cycle in which a frame
ends, notes/assumptions/48.md.) A step on an empty queue, where nothing waits inside the module, counts one control-network cycle: each half's
counter counts unless the half is in FROST or off, and, where no link is UP, nothing else changes. A link that is UP and has not 256 frames
unacknowledged sends one frame, of 1,285 bytes, when a frame time ends, and keeps it. -/
def Obligations.EmptyQueueCountsOneCycle : Prop :=
  (∀ s : State, s.pending = [] → Quiet s → (∀ q, q < 34 → linkUp s q = false) →
    ∃ c0 c1, step s = .next { s with dev := { s.dev with now := s.dev.now + 1, cnt0 := c0, cnt1 := c1 } }
      ∧ (halfPwr s 0 < 2 → c0 = s.dev.cnt0 + 1) ∧ (2 ≤ halfPwr s 0 → c0 = s.dev.cnt0)
      ∧ (halfPwr s 1 < 2 → c1 = s.dev.cnt1 + 1) ∧ (2 ≤ halfPwr s 1 → c1 = s.dev.cnt1))
  ∧ (∀ s : State, s.pending = [] → Quiet s → ∃ t, step s = .next t ∧ t.dev.now = s.dev.now + 1
      ∧ ∀ q, q < 34 → linkUp s q = true → (getPort s q).kept.length < 256 →
        (frameDue (s.dev.now + 1) = false → getPort t q = getPort s q)
        ∧ (frameDue (s.dev.now + 1) = true → ∃ f, (getPort t q).kept = (getPort s q).kept ++ [f] ∧ f.seq = (getPort s q).txNext
            ∧ f.bytes.length = 1285 ∧ (getPort t q).txNext = (getPort s q).txNext + 1))

/-- (R182, R125: whatever goes wrong has a status, a fault record or a discard, and the module goes on.) Every command, on any
operands and in any state, ends in a next state. -/
def Obligations.EveryStepHasANextState : Prop := ∀ s : State, ∃ t, step s = .next t

/-- (notes/assumptions/4.md names the values the spec does not give; none of those is here.) What reset leaves in the registers
whose reset value the spec's tables give, and that memory lists nothing and the queue is empty. -/
def Obligations.ResetValues : Prop :=
  (State.reset.pending = [] ∧ State.reset.mem.bytes = [] ∧ Memory.wf State.reset.mem = true)
  ∧ ((∀ k, granReserved k = true → (getTag State.reset (false, k)).st = 2) ∧ (∀ k, granReserved k = false → getTag State.reset (false, k) = {}))
  ∧ ((∀ i, pchanOf State.reset i = i) ∧ (∀ i, getSlot State.reset i = {}) ∧ (∀ i, getCtx State.reset i = {}))
  ∧ ((∀ i, (getQp State.reset i).st = 0) ∧ (∀ i, (getEv State.reset i).val = 0) ∧ State.reset.tens = [] ∧ State.reset.fe.begun = [])
  ∧ (∀ e ∈ [
      (0x0, 0x104, 0xFF3DA001), (0x0, 0x420, 0x00010220), (0x0, 0x520, 100), (0x1, 0x0, 0x200), (0x2, 0x4, 201), (0x2, 0x8,
      2400000), (0x2, 0x20, 40), (0x2, 0x28, 0x000F0000), (0x2, 0x34, 3), (0x3, 0x8, 0x695F), (0x4, 0x8, 32), (0x4, 0x20,
      2), (0x4, 0x3c, 2), (0x10, 0x0, 1), (0x10, 0x208, 0x8000), (0x40, 0x4, 32), (0x80, 0x1000, 1), (0xc0, 0x4, 0x120),
      (0xc0, 0x8, 1), (0xc0, 0x28, 128), (0x100, 0x1000, 1), (0x200, 0x38, 1)],
      (regVal State.reset 0 (regAtOf e.1 e.2.1)).toNat = e.2.2)

/-- (R99.) X0 reads as zero and P0 as all ones, and a write to either is discarded; a write to another register is read back and
leaves every other register of the set as it was. -/
def Obligations.HardWiredRegisters : Prop :=
  ∀ (t : Ten) (i j : Nat) (v : W64),
    (xGet t 0 = 0 ∧ pGet t 0 = -1 ∧ xSet t 0 v = t ∧ pSet t 0 v = t)
    ∧ (i ≠ 0 → xGet (xSet t i v) i = v ∧ pGet (pSet t i v) i = v)
    ∧ (j ≠ i → xGet (xSet t i v) j = xGet t j ∧ pGet (pSet t i v) j = pGet t j)
    ∧ (∀ k, pGet (xSet t i v) k = pGet t k ∧ xGet (pSet t i v) k = xGet t k)

/-- (R132.) Writing the active lanes of a vector register gives each of them its result; an inactive lane of the register, and
every lane of another, keeps its value. -/
def Obligations.InactiveLanesKeep : Prop :=
  ∀ (t : Ten) (v p : Nat) (f : Nat → W32) (r l : Nat), l < 64 →
    vGet (vLanes t v f (activeLanes t p)) r l = if r = v ∧ laneOn t p l = true then f l else vGet t r l

/-- (R186, R187.) A record leaves an event on which nobody waits at `recorded`. Records whose values lie, with the counter's,
within 2^63 of each other leave it at the largest value in the modular sense, so in whatever order they arrive. -/
def Obligations.RecordsCommute : Prop :=
  (∀ s e v, s.ev.waits = [] → (getEv (record s e v).2 e).val = recorded (getEv s e).val v)
  ∧ (∀ (base c : W64) (l : List W64), (∀ v ∈ c :: l, (v - base).toNat < 2 ^ 63) →
      (l.foldl recorded c - base).toNat = (l.map (fun v => (v - base).toNat)).foldl max (c - base).toNat)

/-- (R219, R216, R221.) A write of bytes at memory that is served, where no codeword that it must read first differs from what was written: its
bytes read as written, every other byte as before, and memory keeps its canonical form. -/
def Obligations.MemoryWriteThenRead : Prop :=
  ∀ s kind ctx pid edom a l t d, partWords s a l.length = [] → memWrite s kind ctx pid edom a l = .ok d t →
    rawRead t a l.length = l
    ∧ (∀ b, b < a ∨ a + l.length ≤ b → tabGet zeroByte t.mem.bytes b = tabGet zeroByte s.mem.bytes b)
    ∧ t.mem.tags = s.mem.tags ∧ t.mem.ssTags = s.mem.ssTags ∧ (Memory.wf s.mem = true → Memory.wf t.mem = true)

/-- (R156, R157, R158.) A command packet whose fields fit the header, written as bytes and read again, is itself: every field of
header, payload and trailer keeps its place. -/
def Obligations.CommandPacketRoundTrip : Prop :=
  ∀ p : Pkt, pktFits p → pktOfBytes p.src (pktBytes p) = { p with rxOk := true, adapter := 0 }

/-- (R255, R256.) The header of a fabric packet whose fields fit, written and read, is itself, and the body it carries is opened
to the packet that was sent: by KIND a command packet, an access descriptor with data, a near-memory request, or data. -/
def Obligations.FabricPacketRoundTrip : Prop :=
  ∀ f : FabPkt, fabFits f →
    fabHeadOf (fabBytes f) = { fabHead f with sealed := fabBody f }
    ∧ fabOpen (fabHeadOf (fabBytes f)) (fabBody f) = f

/-- (R36.) A binding record whose fields fit, written as its 192 bytes and read again, is itself. -/
def Obligations.BindingRecordRoundTrip : Prop := ∀ r : BindRec, recFits r → (bytesOfRec r).length = 192 ∧ recOfBytes (bytesOfRec r) = r

/-- (R160, R162.) A packet on a Haldip port that fails an arrival check has no effect: whatever command it carries, it changes
its port, its queue pair's state and count and the sleep of its half, and nothing else; its reply, with the check's status, is
the last that the port holds. -/
def Obligations.RefusedPacketsHaveNoEffect : Prop :=
  ∀ (f hf : Handler) (s : State) (port : Nat) (p : Pkt) (st : Nat) (hold dup : Bool) (w4 : W32), p.src = .haldip port →
    (getFe s port).up = true → p.rxOk = true → (getFe s port).refusals.length < 64 →
    (if p.qpn = 0 then checkMgmt (lullWake s port) port p else checkQp (lullWake s port) port p) = .refuse st hold dup w4 →
    arrive f hf p s = { s with fe := (arrive f hf p s).fe, pwr := (arrive f hf p s).pwr }
    ∧ (arrive f hf p s).fe.begun = s.fe.begun
    ∧ (getFe (arrive f hf p s) port).refusals = (getFe s port).refusals ++ [{ replyTo p st with dup := dup, w4 := w4 }]
    ∧ (getFe (arrive f hf p s) port).store = (getFe s port).store ∧ (getFe (arrive f hf p s) port).held = (getFe s port).held
    ∧ (getFe (arrive f hf p s) port).expected = (getFe s port).expected
    ∧ (∀ n, (getQp (arrive f hf p s) n).sq = (getQp s n).sq ∧ (getQp (arrive f hf p s) n).cq = (getQp s n).cq
        ∧ (getQp (arrive f hf p s) n).expected = (getQp s n).expected)

/-- (R126, R132.) The frame of a scalar instruction: where one issues with a proper word, it leaves every state but its
tenancy's X[D] and PC as its fetch left it: every other tenancy, every other register, the window and the banks of its own, all
of memory, and every other part of the module. -/
def Obligations.ScalarFrame : Prop := 
  (∀ mk ∈ [Instr.add, .sub, .andX, .orX, .xorX, .shl, .shr, .sra, .mul, .mulhu, .mulhs, .divu, .divs, .remu, .rems, .slt, .sltu, .seqEq, .mins,
      .maxs, .minu, .maxu], KeepsX false mk)
  ∧ KeepsX true .sel

/-- (R123, R125.) A scalar or vector word with a set bit in an unused field, where it issues, raises ILLEGAL_INSTRUCTION with its
PC and LCID and has no other effect. -/
def Obligations.ImproperWordsFault : Prop := 
  (∀ mk ∈ [Instr.add, .sub, .andX, .orX, .xorX, .shl, .shr, .sra, .mul, .mulhu, .mulhs, .divu, .divs, .remu, .rems, .slt, .sltu, .seqEq, .mins,
      .maxs, .minu, .maxu],
      FaultsX (fun c => opBOk c && decide (c.pred = 0) && decide (c.fn = 0) && decide (c.c = 0)) mk)
  ∧ FaultsX (fun c => opBOk c && decide (c.pred = 0) && decide (c.fn = 0)) .sel
  ∧ (∀ mk ∈ [Instr.vadd, .vsub, .vmul, .vdiv, .vmin, .vmax, .vand, .vor, .vxor, .vshl, .vshr, .vsra],
      FaultsV (fun c => decide (c.c = 0) && decide (c.fn = 0) && modZero c 20 27 && decide (c.imm16 = 0)) mk)
  ∧ FaultsV (fun c => decide (c.fn = 0) && modZero c 20 27 && decide (c.imm16 = 0)) .vfma
  ∧ FaultsV (fun c => decide (c.b = 0) && decide (c.c = 0) && decide (c.fn ≤ 4) && modZero c 20 27 && decide (c.imm16 = 0)) .vfunc
  ∧ FaultsV (fun c => (decide (c.fn = 2) || decide (c.b = 0)) && decide (c.c = 0) && decide (c.fn ≤ 2) && modZero c 20 27
      && decide (c.imm16 = 0)) .vsgn

/-- (R226.) Where no new entry of a RANGE_MAP overlaps another new one, or an entry of the table that is not REVOKED, the table that
it leaves, what was REVOKED under the new entries trimmed, has no two overlapping entries. -/
def Obligations.RangesStayApart : Prop :=
  ∀ old new : List Range, (∀ e ∈ old ++ new, 0 < e.pages) → overlapping old = false → overlapping new = false →
    (∀ e ∈ new, ∀ f ∈ old, f.revoked = false → meets f e.va (rangeEnd e) = false) → overlapping (tableWith old new) = false

/-- (R127.) Division never faults: where DIVU, DIVS, REMU or REMS issues with a proper word, X[D] receives a result and the PC goes
on. By zero, a quotient is all ones and a remainder the dividend; the most negative number by -1 gives itself and no remainder. -/
def Obligations.DivisionCorners : Prop :=
  ∀ s t w x u,
    Issues s t [(false, (coreWord w).d), (false, (coreWord w).a), (false, (coreWord w).b), (false, (coreWord w).c)] x u →
    scalarOk (coreWord w) false = true →
    let a := xGet x (coreWord w).a
    let b := opBVal x (coreWord w)
    let gives (i : Instr) (r : W64) : Prop := exec i s = .next (setTen u (xSet x (coreWord w).d r).next)
    (∀ mk ∈ [Instr.divu, .divs, .remu, .rems], ∃ r, gives (mk t w) r)
    ∧ (b = 0 → gives (.divu t w) 0xFFFFFFFFFFFFFFFF ∧ gives (.remu t w) a ∧ gives (.divs t w) (-1) ∧ gives (.rems t w) a)
    ∧ (a = BitVec.intMin 64 → b = -1 → gives (.divs t w) (BitVec.intMin 64) ∧ gives (.rems t w) 0)

/-- (R86.) MIN and MAX of FP32: −0 is below +0, a NaN operand gives the canonical NaN, and both are commutative and associative. -/
def Obligations.MinAndMaxAreALattice : Prop :=
  (f32Min 0x80000000 0 = 0x80000000 ∧ f32Min 0 0x80000000 = 0x80000000 ∧ f32Max 0x80000000 0 = 0 ∧ f32Max 0 0x80000000 = 0)
  ∧ (∀ a b, isNan (ofF32 a) = true ∨ isNan (ofF32 b) = true → f32Min a b = 0x7FC00000 ∧ f32Max a b = 0x7FC00000)
  ∧ (∀ a b, f32Min a b = f32Min b a ∧ f32Max a b = f32Max b a)
  ∧ (∀ a b c, f32Min (f32Min a b) c = f32Min a (f32Min b c) ∧ f32Max (f32Max a b) c = f32Max a (f32Max b c))

/-- (R342; that a coolant stop lowers it to its bound is R351.) The effective cap is LIMIT, held within its bounds, with the offset
and without the reduction, held within 1,000,000 and 2,700,000 mW; LIMIT resets to 2,400,000, and PWR_CAP_EFF, which has no reserved bit to keep,
shows the cap. -/
def Obligations.EffectiveCap : Prop :=
  (∀ s, powerStopped s = false →
    (capEff s : Int) = max 1000000 (min 2700000 (max 1200000 (min 2700000 (s.pwr.limit.toNat : Int)) + s.pwr.offset - s.pwr.reduction)))
  ∧ State.reset.pwr.limit.toNat = 2400000
  ∧ (∀ s path, tabGet (fun _ => 0) s.dev.rsv (regKey (regAtOf 2 0x0C)) = 0 → (regVal s path (regAtOf 2 0x0C)).toNat = capEff s)

/-- (R215.) Every error confined to one nibble of a codeword is corrected: one in the check bits leaves the data, one in the data
gives back what was stored; and what was stored reads as clean. Every error confined to two nibbles is uncorrectable. -/
def Obligations.CodewordErrors : Prop :=
  ∀ d : Nat, d < 2 ^ 128 →
    eccDecode d (eccEncode d) = .clean
    ∧ (∀ i e, i < 4 → 0 < e → e < 16 → eccDecode d (Nat.xor (eccEncode d) (e * 2 ^ (4 * i))) = .check)
    ∧ (∀ i e, i < 32 → 0 < e → e < 16 → eccDecode (Nat.xor d (e * 2 ^ (4 * i))) (eccEncode d) = .data d)
    ∧ (∀ i j e f, i < j → 0 < e → e < 16 → 0 < f → f < 16 →
        (j < 4 → eccDecode d (Nat.xor (eccEncode d) (e * 2 ^ (4 * i) + f * 2 ^ (4 * j))) = .uncorrectable)
        ∧ (j < 32 → eccDecode (Nat.xor d (e * 2 ^ (4 * i) + f * 2 ^ (4 * j))) (eccEncode d) = .uncorrectable))
    ∧ (∀ i k e g, i < 32 → k < 4 → 0 < e → e < 16 → 0 < g → g < 16 →
        eccDecode (Nat.xor d (e * 2 ^ (4 * i))) (Nat.xor (eccEncode d) (g * 2 ^ (4 * k))) = .uncorrectable)

/-- (R258, R256, R47.) What this module takes of the packets that come in for it: one of a KIND that its virtual channel does not
carry is discarded and counted; one behind its flow's expected FLOW_SEQ is a duplicate, discarded and counted; one ahead of it
is held and nothing else happens until the gap fills. A message for a partition under a PGEN that is not its slot's, or for a PID
that no slot holds, has no effect: it is counted as chaff of the slot, or as an orphan. -/
def Obligations.FabricIngress : Prop :=
  (∀ (s : State) (f : FabPkt), f.dst = ownModule s → kindOk f.kind f.vc = false →
      fabArrive deliver f s = { s with dev := { s.dev with fabBadKind := sat32 s.dev.fabBadKind } })
  ∧ (∀ (s : State) (f : FabPkt), f.dst = ownModule s → kindOk f.kind f.vc = true →
      2 ^ 31 ≤ (f.flowSeq - (findRx s (flowOf f)).expected).toNat →
      fabArrive deliver f s = { s with dev := { s.dev with fabDup := sat32 s.dev.fabDup } })
  ∧ (∀ (s : State) (f : FabPkt), f.dst = ownModule s → kindOk f.kind f.vc = true →
      f.flowSeq ≠ (findRx s (flowOf f)).expected → (f.flowSeq - (findRx s (flowOf f)).expected).toNat < 2 ^ 31 →
      fabArrive deliver f s = setRx s { findRx s (flowOf f) with held := (findRx s (flowOf f)).held ++ [f] }
      ∧ (findRx (fabArrive deliver f s) (flowOf f)).expected = (findRx s (flowOf f)).expected
      ∧ ∀ k, k ≠ flowOf f → findRx (fabArrive deliver f s) k = findRx s k)
  ∧ (∀ (f hf : Handler) (s : State) (p : Pkt) (mid pid pgen : Nat), p.src = .fabric mid pid pgen → pid ≠ 0 → s.dev.phase = .ready →
      (slotOfPid s pid = none → arrive f hf p s = addOrphan s)
      ∧ (∀ i, slotOfPid s pid = some i → (getSlot s i).pgen ≠ BitVec.ofNat 32 pgen → arrive f hf p s = addChaff s i))

/-- (Memory's canonical form is the model's own.) Every step of every command keeps memory in canonical form: what is listed rises
by address, and nothing is listed that an unlisted address would read as. -/
def Obligations.StepKeepsMemoryCanonical : Prop :=
  ∀ s t : State, Memory.wf s.mem = true → step s = .next t → Memory.wf t.mem = true

/-- The scalar instructions of R126 and R127, in every operand form: where one issues, X[D] receives the row's result (a write
to X0 is discarded, R99), the PC goes on by 8, and nothing else changes. -/
def Obligations.ScalarArithmeticCompletes : Prop :=
  (∀ s t x u, Issues s t [] x u → exec (.coreNop t 0) s = .next (setTen u x.next))
  ∧ ComputesX false .add (fun a b _ => a + b)
  ∧ ComputesX false .sub (fun a b _ => a - b)
  ∧ ComputesX false .andX (fun a b _ => a &&& b)
  ∧ ComputesX false .orX (fun a b _ => a ||| b)
  ∧ ComputesX false .xorX (fun a b _ => a ^^^ b)
  ∧ ComputesX false .shl (fun a b _ => a <<< (b.toNat % 64))
  ∧ ComputesX false .shr (fun a b _ => a >>> (b.toNat % 64))
  ∧ ComputesX false .sra (fun a b _ => a.sshiftRight (b.toNat % 64))
  ∧ ComputesX false .mul (fun a b _ => a * b)
  ∧ ComputesX false .mulhu (fun a b _ => BitVec.ofNat 64 (a.toNat * b.toNat / 2 ^ 64))
  ∧ ComputesX false .mulhs (fun a b _ => BitVec.ofInt 64 (a.toInt * b.toInt / 2 ^ 64))
  ∧ ComputesX false .divu (fun a b _ => if b = 0 then -1 else a.udiv b)
  ∧ ComputesX false .divs (fun a b _ => if b = 0 then -1 else a.sdiv b)
  ∧ ComputesX false .remu (fun a b _ => if b = 0 then a else a.umod b)
  ∧ ComputesX false .rems (fun a b _ => if b = 0 then a else a.srem b)
  ∧ ComputesX false .slt (fun a b _ => if a.slt b then 1 else 0)
  ∧ ComputesX false .sltu (fun a b _ => if a.ult b then 1 else 0)
  ∧ ComputesX false .seqEq (fun a b _ => if a = b then 1 else 0)
  ∧ ComputesX false .mins (fun a b _ => if a.sle b then a else b)
  ∧ ComputesX false .maxs (fun a b _ => if a.sle b then b else a)
  ∧ ComputesX false .minu (fun a b _ => if a.ule b then a else b)
  ∧ ComputesX false .maxu (fun a b _ => if a.ule b then b else a)
  ∧ ComputesX true .sel (fun a b c => if c = 0 then b else a)
  ∧ Executes (fun c => [(false, c.d)]) (fun c => decide (c.a = 0)) .movi (fun _ _ _ => True)
      (fun c x u => setTen u (xSet x c.d (sext46 c.imm46)).next)
  ∧ Executes (fun c => [(false, c.d), (false, c.a)]) (fun c => decide (c.imm46 / 2 ^ 18 % 2 ^ 28 = 0)) .sethi (fun _ _ _ => True)
      (fun c x u => setTen u (xSet x c.d
        ((xGet x c.a &&& 0x00003FFFFFFFFFFF) ||| (BitVec.ofNat 64 c.imm46 <<< 46))).next)

/-- Window accesses and control instructions (R128, R129, R131): a load or a store inside the window and aligned to its size
moves the size's bytes between X and the window, little-endian, and what the window's code finds in a load is reported or loses
the context (R307); a branch, a jump, SPR, FLAGCLR and TRAP have their row's
effect; what SPR reads enters the read log of a sampled tenancy (R316). -/
def Obligations.ScalarMemoryAndControlComplete : Prop :=
  (∀ e, Executes (fun c => [(false, c.d), (false, c.a)])
      (fun c => decide (c.fn ≤ 6) && decide (c.b = 0) && decide (c.c = 0) && decide (c.pred = 0) && decide (c.mod = 0)) (fun t w => .ld t w e)
      (fun c x _ => (xGet x c.a + sext16 c.imm16).toNat % 2 ^ (c.fn % 4) = 0
        ∧ (xGet x c.a + sext16 c.imm16).toNat + 2 ^ (c.fn % 4) ≤ x.foot * 131072)
      (fun c x u => afterRead e x u (setTen u (xSet x c.d (
        let n := 2 ^ (c.fn % 4)
        let v := ofLE (winRead x (xGet x c.a + sext16 c.imm16).toNat n)
        if c.fn < 4 then BitVec.ofNat 64 v else BitVec.ofInt 64 (sgn (8 * n) v))).next)))
  ∧ Executes (fun c => [(false, c.a), (false, c.b)])
      (fun c => decide (c.fn ≤ 3) && decide (c.d = 0) && decide (c.c = 0) && decide (c.pred = 0) && decide (c.mod = 0)) .st
      (fun c x _ => (xGet x c.a + sext16 c.imm16).toNat % 2 ^ c.fn = 0
        ∧ (xGet x c.a + sext16 c.imm16).toNat + 2 ^ c.fn ≤ x.foot * 131072 ∧ c.fn ≤ 3)
      (fun c x u => setTen u (winWrite x (xGet x c.a + sext16 c.imm16).toNat (leBytes (2 ^ c.fn) (xGet x c.b).toNat)).next)
  ∧ Executes (fun c => [(false, c.a), (false, c.b)])
      (fun c => decide (c.fn ≤ 5) && decide (c.d = 0) && decide (c.c = 0) && decide (c.pred = 0) && decide (c.mod = 0)) .br
      (fun c _ _ => c.fn ≤ 5)
      (fun c x u =>
        let a := xGet x c.a
        let b := xGet x c.b
        let taken := if c.fn = 0 then decide (a = b) else if c.fn = 1 then decide (a ≠ b) else if c.fn = 2 then a.slt b
          else if c.fn = 3 then b.sle a else if c.fn = 4 then a.ult b else b.ule a
        setTen u { x with pc := if taken then x.pc + 8 * sext16 c.imm16 else x.pc + 8 })
  ∧ Executes (fun c => [(false, c.d)]) (fun c => decide (c.a = 0)) .jal (fun _ _ _ => True)
      (fun c x u => setTen u { xSet x c.d (x.pc + 8) with pc := x.pc + 8 * sext46 c.imm46 })
  ∧ Executes (fun c => [(false, c.d), (false, c.a)])
      (fun c => decide (c.b = 0) && decide (c.c = 0) && decide (c.pred = 0) && decide (c.fn = 0) && decide (c.mod = 0)) .jalr
      (fun c x _ => (xGet x c.a + sext16 c.imm16).toNat % 8 = 0)
      (fun c x u => setTen u { xSet x c.d (x.pc + 8) with pc := xGet x c.a + sext16 c.imm16 })
  ∧ Executes (fun c => [(false, c.d)])
      (fun c => decide (c.imm16 ≤ 5) && decide (c.a = 0) && decide (c.b = 0) && decide (c.c = 0) && decide (c.pred = 0)
        && decide (c.fn = 0) && decide (c.mod = 0)) .spr (fun _ _ _ => True)
      (fun c x u =>
        let v : W64 :=
          if c.imm16 = 0 then BitVec.ofNat 64 (ctxArith u x.ctx) else if c.imm16 = 1 then BitVec.ofNat 64 x.lcid
          else if c.imm16 = 2 then BitVec.ofNat 64 (getSlot u x.slot).brec.lcount else if c.imm16 = 3 then BitVec.ofNat 64 x.foot
          else if c.imm16 = 4 then BitVec.ofNat 64 x.ctx else cntOf u (halfOfCore x.core)
        logRead (refOf x) (leBytes 8 v.toNat) (setTen u (xSet x c.d v).next))
  ∧ Executes (fun c => [(false, c.a)])
      (fun c => decide (c.d = 0) && decide (c.b = 0) && decide (c.c = 0) && decide (c.pred = 0) && decide (c.fn = 0)
        && decide (c.mod = 0) && decide (c.imm16 = 0)) .flagclr (fun _ _ _ => True)
      (fun c x u => ctxArithClear (setTen u x.next) x.ctx (xGet x c.a).toNat)
  ∧ Executes (fun _ => [])
      (fun c => decide (c.d = 0) && decide (c.a = 0) && decide (c.b = 0) && decide (c.c = 0) && decide (c.pred = 0)
        && decide (c.fn = 0) && decide (c.mod = 0)) .trap (fun _ _ _ => True)
      (fun c x u => loseCause (fatalFault u 0x2F 3 x.ctx false x.pc x.pc x.lcid (halfOfCore x.core) (sext16 c.imm16)) u)

/-- The lane instructions of R132: where one issues with a lane type that its row accepts, each active lane of V[D] receives the
row's result, an inactive lane keeps its value, FGX_OVF is set where an active lane saturates, and nothing else changes. -/
def Obligations.VectorLanesComplete : Prop :=
  ComputesV (fun _ => true) false 0 [0xC, 0xD, 0xE, 0xF] .vadd (fun ty _ a b _ =>
      if ty = 0xC then (f32Add a b, false) else if ty = 0xF then (a + b, false)
      else satLane (fgxBits ty) (laneInt ty a + laneInt ty b))
  ∧ ComputesV (fun _ => true) false 0 [0xC, 0xD, 0xE, 0xF] .vsub (fun ty _ a b _ =>
      if ty = 0xC then (f32Sub a b, false) else if ty = 0xF then (a - b, false)
      else satLane (fgxBits ty) (laneInt ty a - laneInt ty b))
  ∧ ComputesV (fun _ => true) false 0 [0xC, 0xF] .vmul (fun ty _ a b _ => (if ty = 0xC then f32Mul a b else a * b, false))
  ∧ ComputesV (fun _ => true) true 0 [0xC] .vfma (fun _ _ a b c => (f32Fma a b c, false))
  ∧ ComputesV (fun _ => true) false 0 [0xC] .vdiv (fun _ _ a b _ => (f32Div a b, false))
  ∧ ComputesV (fun _ => true) false 0 [0xC, 0xD, 0xE, 0xF] .vmin (fun ty _ a b _ =>
      (if ty = 0xC then f32Min a b else BitVec.ofInt 32 (min (laneInt ty a) (laneInt ty b)), false))
  ∧ ComputesV (fun _ => true) false 0 [0xC, 0xD, 0xE, 0xF] .vmax (fun ty _ a b _ =>
      (if ty = 0xC then f32Max a b else BitVec.ofInt 32 (max (laneInt ty a) (laneInt ty b)), false))
  ∧ ComputesV (fun _ => true) false 0 [0xC, 0xD, 0xE, 0xF] .vand (fun _ _ a b _ => (a &&& b, false))
  ∧ ComputesV (fun _ => true) false 0 [0xC, 0xD, 0xE, 0xF] .vor (fun _ _ a b _ => (a ||| b, false))
  ∧ ComputesV (fun _ => true) false 0 [0xC, 0xD, 0xE, 0xF] .vxor (fun _ _ a b _ => (a ^^^ b, false))
  ∧ ComputesV (fun _ => true) false 0 [0xF] .vshl (fun _ _ a b _ => (a <<< (b.toNat % 32), false))
  ∧ ComputesV (fun _ => true) false 0 [0xF] .vshr (fun _ _ a b _ => (a >>> (b.toNat % 32), false))
  ∧ ComputesV (fun _ => true) false 0 [0xF] .vsra (fun _ _ a b _ => (a.sshiftRight (b.toNat % 32), false))
  ∧ ComputesV (fun c => decide (c.fn = 2)) false 2 [0xC] .vsgn (fun _ fn a b _ =>
      (if fn = 0 then f32Flip a else if fn = 1 then f32Abs a else f32CopySign a b, false))
  ∧ ComputesV (fun _ => false) false 4 [0xC] .vfunc (fun _ fn a _ _ =>
      (if fn = 0 then f32Exp2 a else if fn = 1 then f32Log2 a else if fn = 2 then f32Rcp a else if fn = 3 then f32Sqrt a
       else f32Rsqrt a, false))
  ∧ Executes (fun c => [(true, c.a), (true, c.b)])
      (fun c => decide (c.d < 8) && decide (c.c = 0) && decide (c.fn ≤ 7) && modZero c 20 27 && decide (c.imm16 = 0)) .vcmp
      (fun c _ _ => modFld c 16 4 ∈ [0xC, 0xD, 0xE, 0xF] ∧ (6 ≤ c.fn → modFld c 16 4 = 0xF))
      (fun c x u => ended u x (pSet x c.d (BitVec.ofNat 64
        (((activeLanes x c.pred).filter (fun l => laneCmp (modFld c 16 4) c.fn (vGet x c.a l) (vGet x c.b l))).map (2 ^ ·)).sum)) false)
  ∧ Executes (fun c => [(true, c.d), (true, c.a)])
      (fun c => decide (c.b = 0) && decide (c.c = 0) && decide (c.fn = 0) && modZero c 26 27) .vcvt
      (fun c _ _ => cvtPair (modFld c 16 4) (modFld c 20 4) = true
        ∧ (modBit c 25 = true → modFld c 16 4 = 0xC ∧ modFld c 20 4 = 0xF)
        ∧ (c.imm16 % 256 ≠ 0 → modFld c 16 4 = 0xD ∨ modFld c 16 4 = 0xE)
        ∧ (c.imm16 / 256 % 256 ≠ 0 → modFld c 20 4 = 0xD ∨ modFld c 20 4 = 0xE))
      (fun c x u => endedLanes u x c (fun l =>
        cvtLane (modFld c 16 4) (modFld c 20 4) (c.imm16 % 256) (c.imm16 / 256 % 256) (modBit c 24) (modBit c 25) (vGet x c.a l)))
  ∧ Executes (fun c => [(true, c.d), (true, c.a)])
      (fun c => decide (c.b = 0) && decide (c.c = 0) && decide (c.fn ≤ 2) && modZero c 20 27 && decide (c.imm16 = 0)) .vred
      (fun c _ _ => modFld c 16 4 ∈ [0xC, 0xD, 0xE, 0xF])
      (fun c x u =>
        let ty := modFld c 16 4
        let r := redTree (redOp ty c.fn) ((List.range 64).map (fun l =>
          if laneOn x c.pred l then (if ty = 0xE then BitVec.ofInt 32 (laneInt ty (vGet x c.a l)) else vGet x c.a l)
          else redIdle ty c.fn))
        ended u x (vLanes x c.d (fun _ => r.1) (List.range 64)) r.2)

/-- Moves between lanes, registers, the window and predicates (R132, R135-R137): where one issues on a lane type or format that
it accepts, and inside the window and aligned where it accesses it, it has its row's effect and nothing else changes, but for what the window's code finds in the
words of a VLD, which is reported or loses the context (R307). -/
def Obligations.VectorMovesComplete : Prop :=
  Executes (fun c => [(true, c.d), (false, c.a)])
      (fun c => decide (c.b = 0) && decide (c.c = 0) && decide (c.fn = 0) && modZero c 20 27 && decide (c.imm16 = 0)) .vbcast
      (fun c _ _ => modFld c 16 4 ∈ [0xC, 0xD, 0xE, 0xF])
      (fun c x u => endedLanes u x c (fun _ => ((xGet x c.a).setWidth 32, false)))
  ∧ Executes (fun c => [(false, c.d), (true, c.a)])
      (fun c => decide (c.b = 0) && decide (c.c = 0) && decide (c.pred = 0) && decide (c.fn = 0) && modZero c 20 27
        && decide (c.imm16 < 64)) .vext
      (fun c _ _ => modFld c 16 4 ∈ [0xC, 0xD, 0xE, 0xF])
      (fun c x u => ended u x (xSet x c.d ((vGet x c.a c.imm16).setWidth 64)) false)
  ∧ Executes (fun c => [(true, c.d), (false, c.a)])
      (fun c => decide (c.b = 0) && decide (c.c = 0) && decide (c.pred = 0) && decide (c.fn = 0) && modZero c 20 27
        && decide (c.imm16 < 64)) .vins
      (fun c _ _ => modFld c 16 4 ∈ [0xC, 0xD, 0xE, 0xF])
      (fun c x u => ended u x (vPut x c.d c.imm16 ((xGet x c.a).setWidth 32)) false)
  ∧ Executes (fun c => [(true, c.d), (true, c.a), (true, c.b)])
      (fun c => decide (c.c = 0) && decide (c.fn = 0) && modZero c 20 27 && decide (c.imm16 = 0)) .vperm
      (fun c _ _ => modFld c 16 4 ∈ [0xC, 0xD, 0xE, 0xF])
      (fun c x u => endedLanes u x c (fun l => (vGet x c.a ((vGet x c.b l).toNat % 64), false)))
  ∧ Executes (fun c => [(true, c.d)])
      (fun c => decide (c.a = 0) && decide (c.b = 0) && decide (c.c = 0) && decide (c.fn = 0) && modZero c 20 27
        && decide (c.imm16 = 0)) .viota
      (fun c _ _ => modFld c 16 4 = 0xF)
      (fun c x u => endedLanes u x c (fun l => (BitVec.ofNat 32 l, false)))
  ∧ (∀ e, Executes (fun c => [(true, c.d), (false, c.a)])
      (fun c => decide (c.b = 0) && decide (c.c = 0) && decide (c.fn = 0) && decide (c.mod = 0)) (fun t w => .vld t w e)
      (fun c x _ => (xGet x c.a + sext16 c.imm16).toNat % 4 = 0 ∧ (xGet x c.a + sext16 c.imm16).toNat + 256 ≤ x.foot * 131072)
      (fun c x u => afterRead e x u (endedLanes u x c (fun l =>
        (BitVec.ofNat 32 (ofLE (winRead x ((xGet x c.a + sext16 c.imm16).toNat + 4 * l) 4)), false)))))
  ∧ Executes (fun c => [(true, c.b), (false, c.a)])
      (fun c => decide (c.d = 0) && decide (c.c = 0) && decide (c.fn = 0) && decide (c.mod = 0)) .vst
      (fun c x _ => (xGet x c.a + sext16 c.imm16).toNat % 4 = 0 ∧ (xGet x c.a + sext16 c.imm16).toNat + 256 ≤ x.foot * 131072)
      (fun c x u => ended u x ((activeLanes x c.pred).foldl (fun y l =>
        winWrite y ((xGet x c.a + sext16 c.imm16).toNat + 4 * l) (leBytes 4 (vGet x c.b l).toNat)) x) false)
  ∧ Executes (fun c => [(true, c.d), (false, c.a), (false, c.b)]) ldcOk .vldc
      (fun c x _ => ldcFmt (modFld c 24 4) = true ∧ (xGet x c.a + sext16 c.imm16).toNat % 4 = 0
        ∧ (xGet x c.a + sext16 c.imm16).toNat + 8 * codeBits (modFld c 24 4) ≤ x.foot * 131072
        ∧ (scaled (modFld c 24 4) = true → (xGet x c.b).toNat + 2 ≤ x.foot * 131072))
      (fun c x u => ended u x (vLanes x c.d (fun l =>
        let f := modFld c 24 4
        let e := elemAt (winByte x) (xGet x c.a + sext16 c.imm16).toNat (codeBits f) l
        if f = 0xE then BitVec.ofInt 32 (sgn 24 e)
        else
          let v := decodeElem f e
          let v := if scaled f then fvScale (winByte x ((xGet x c.b).toNat + l / 32)).toNat v else v
          BitVec.ofNat 32 (encodeFp fmtFP32 (modBit c 23) v)) (List.range 64)) false)
  ∧ Executes (fun c => [(true, c.d), (false, c.a), (false, c.b)]) ldcOk .vstc
      (fun c x _ => ldcFmt (modFld c 24 4) = true ∧ (xGet x c.a + sext16 c.imm16).toNat % 4 = 0
        ∧ (xGet x c.a + sext16 c.imm16).toNat + 8 * codeBits (modFld c 24 4) ≤ x.foot * 131072
        ∧ (scaled (modFld c 24 4) = true → (xGet x c.b).toNat + 2 ≤ x.foot * 131072))
      (fun c x u =>
        let f := modFld c 24 4
        let off := (xGet x c.a + sext16 c.imm16).toNat
        let lanes := (List.range 64).map (vGet x c.d)
        if scaled f then
          let q0 := quantBlock f (lanes.take 32)
          let q1 := quantBlock f (lanes.drop 32)
          ended u x (winWrite (winWrite x off (packElems (codeBits f) (q0.2 ++ q1.2))) (xGet x c.b).toNat
            (leBytes 1 q0.1 ++ leBytes 1 q1.1)) false
        else
          ended u x (winWrite x off (packElems (codeBits f) (lanes.map (fun v =>
            match fmtOf f with
            | some m => encodeFp m (modBit c 23) (ofF32 v)
            | none => v.toNat)))) false)
  ∧ Executes (fun c => if c.fn = 5 then [(false, c.a)] else if c.fn = 6 then [(false, c.d)] else [])
      (fun c => decide (c.fn ≤ 6) && decide (c.c = 0) && decide (c.pred = 0) && decide (c.mod = 0) && decide (c.imm16 = 0)
        && (if c.fn ≤ 3 then decide (c.b < 8) else decide (c.b = 0))
        && (c.fn == 5 || decide (c.a < 8)) && (c.fn == 6 || decide (c.d < 8))) .plog (fun c _ _ => c.fn ≤ 6)
      (fun c x u =>
        let a := pGet x c.a
        let b := pGet x c.b
        if c.fn = 6 then ended u x (xSet x c.d a) false
        else ended u x (pSet x c.d (if c.fn = 0 then a &&& b else if c.fn = 1 then a ||| b else if c.fn = 2 then a ^^^ b
          else if c.fn = 3 then a &&& ~~~b else if c.fn = 4 then ~~~a else xGet x c.a)) false)

/-- The tensor and accumulator instructions (R139-R141): where one issues on formats, address and shape words, a bank, alignment
and a window that it accepts, the tensor array's sums join the bank element by element in R79's order, a bank is cleared,
loaded (0 on grid 0xFF, which sets FGX_OVF, R76) or drained, and nothing else changes, but for what the code of the arrays
finds in the words that TMMA reads, which is reported or loses the context (R307). -/
def Obligations.TensorInstructionsComplete : Prop :=
  (∀ e, Executes (fun c => [(false, c.a), (false, c.b), (false, c.c)])
      (fun c => decide (c.d < 4) && decide (c.pred = 0) && decide (c.fn = 0) && modZero c 16 19 && decide (c.imm16 = 0))
      (fun t w => .tmma t w e)
      (fun c x _ => ∃ ta tb k m n, tmmaPair (modFld c 24 4) (modFld c 20 4) = true
        ∧ tileAddr (xGet x c.a) = some ta ∧ tileAddr (xGet x c.b) = some tb ∧ tileShape (xGet x c.c) true = some (k, m, n)
        ∧ c.d < x.foot ∧ tileAligned ta (modFld c 24 4) = true ∧ tileAligned tb (modFld c 20 4) = true
        ∧ rowsIn x ta m (ceilDiv k 32 * blockBytes (modFld c 24 4)) = true
        ∧ rowsIn x tb n (ceilDiv k 32 * blockBytes (modFld c 20 4)) = true
        ∧ (scaled (modFld c 24 4) = true → scalesIn x ta (modFld c 24 4) m (ceilDiv k 32) = true)
        ∧ (scaled (modFld c 20 4) = true → scalesIn x tb (modFld c 20 4) n (ceilDiv k 32) = true))
      (fun c x u =>
        match tileAddr (xGet x c.a), tileAddr (xGet x c.b), tileShape (xGet x c.c) true with
        | some ta, some tb, some (k, m, n) =>
          let r := tmmaRun x ta tb (modFld c 24 4) (modFld c 20 4) k m n c.d
          afterRead e x u (ended u x r.1 r.2)
        | _, _, _ => u))
  ∧ Executes (fun c => [(false, c.a)])
      (fun c => decide (c.d < 4) && decide (c.b = 0) && decide (c.c = 0) && decide (c.pred = 0) && decide (c.fn = 0)
        && modZero c 18 27 && decide (c.imm16 = 0) && (modBit c 17 || decide (c.a = 0))) .aclr
      (fun c x _ => c.d < x.foot ∧ (modBit c 17 = true → (xGet x c.a).toNat % 2 ^ 19 + 128 ≤ x.foot * 131072))
      (fun c x u => ended u x (gridPut (bankClear x c.d (modBit c 16)) c.d
        (if modBit c 17 then winRead x ((xGet x c.a).toNat % 2 ^ 19) 128 else List.replicate 128 0x7F)) false)
  ∧ Executes (fun c => [(false, c.a), (false, c.c)])
      (fun c => decide (c.d < 4) && decide (c.b = 0) && decide (c.pred = 0) && decide (c.fn = 0) && modZero c 18 27
        && decide (c.imm16 = 0)) .ald
      (fun c x _ => ∃ ta k m n, tileAddr (xGet x c.a) = some ta ∧ tileShape (xGet x c.c) false = some (k, m, n) ∧ c.d < x.foot
        ∧ ta.base % 8 = 0 ∧ ta.stride % 4 = 0 ∧ rowsIn x ta m (4 * n) = true
        ∧ (modBit c 17 = true → ta.sbase + 128 ≤ x.foot * 131072))
      (fun c x u =>
        match tileAddr (xGet x c.a), tileShape (xGet x c.c) false with
        | some ta, some (_, m, n) =>
          let y := gridPut (bankClear x c.d (modBit c 16)) c.d
            (if modBit c 17 then winRead x ta.sbase 128 else List.replicate 128 0x7F)
          let bad (r j : Nat) : Bool := modBit c 16 && gridOf y c.d r j == 0xFF
          ended u x ((List.range m).foldl (fun z r => (List.range n).foldl (fun z j =>
            accPut z c.d r j (if bad r j then 0 else BitVec.ofNat 32 (ofLE (winRead x (ta.base + r * ta.stride + 4 * j) 4)))) z) y)
            ((List.range m).any (fun r => (List.range n).any (bad r)))
        | _, _ => u)
  ∧ Executes (fun c => [(false, c.a), (false, c.c)])
      (fun c => decide (c.d < 4) && decide (c.b = 0) && decide (c.pred = 0) && decide (c.fn = 0) && modZero c 16 20
        && decide (c.imm16 = 0)) .adrain
      (fun c x _ => ∃ ta k m n, tileAddr (xGet x c.a) = some ta ∧ tileShape (xGet x c.c) false = some (k, m, n) ∧ c.d < x.foot
        ∧ drainTarget (bankFgx x c.d) (modFld c 24 4) = true ∧ (modBit c 22 = true → modFld c 24 4 = 0xF)
        ∧ (bankFgx x c.d = false → drainBlocks (modFld c 24 4) = true → n = 32 ∨ n = 64)
        ∧ tileAligned ta (modFld c 24 4) = true ∧ rowsIn x ta m ((n * codeBits (modFld c 24 4) + 7) / 8) = true
        ∧ (drainBlocks (modFld c 24 4) = true → scalesIn x ta (modFld c 24 4) m (ceilDiv n 32) = true))
      (fun c x u =>
        match tileAddr (xGet x c.a), tileShape (xGet x c.c) false with
        | some ta, some (_, m, n) =>
          let dst := modFld c 24 4
          let r := (List.range m).foldl (fun (acc : Ten × Bool) r =>
            let (codes, blocks, o) := drainRow x c.d r n dst (modBit c 23) (modBit c 22)
            let y := winWrite acc.1 (ta.base + r * ta.stride) (packElems (codeBits dst) codes)
            (winWrite y (blockByteAt ta dst r 0) (blocks.map (BitVec.ofNat 8 ·)), acc.2 || o)) (x, false)
          ended u x (if modBit c 21 then bankClear r.1 c.d (bankFgx x c.d) else r.1) r.2
        | _, _ => u)

/-- Transfers (R117, R119, R142, R146, R147, R235): XFER takes a free slot, checks and starts its transfer; XWAIT and XPROG
answer from DONE; a transfer's engine moves an element between windows, the gather entry read as it enters the outer index, or stops at its cursor with a queued fault; a fault that
the fault queue cannot take for 100 ms ends its context. -/
def Obligations.TransferInstructionsComplete : Prop :=
  Executes (fun c => [(false, c.a)])
      (fun c => decide (c.d = 0) && decide (c.b = 0) && decide (c.c = 0) && decide (c.pred = 0) && decide (c.fn = 0)
        && decide (c.mod = 0) && decide (c.imm16 = 0)) .xfer
      (fun c x u =>
        let off := (xGet x c.a).toNat % 2 ^ 19
        off % 32 = 0 ∧ off + 160 ≤ x.foot * 131072 ∧ xferOf x off = none ∧ sideHeld u x (readDesc x off) = false
        ∧ (∃ i, freeXfer x = some i)
        ∧ descCheck u x (readDesc x off) = none)
      (fun c x u =>
        let off := (xGet x c.a).toNat % 2 ^ 19
        let d := readDesc x off
        let g : Xfer := { valid := true, descOff := off, crc := descCrc x off, total := descTotal d, desc := d }
        let i := (freeXfer x).getD 0
        let y := { x with xf := listSet x.xf i g }.next
        let a := wholeCheck (setTen u y) y g true
        match a.1 with
        | some e => sideStop a.2 y g true e
        | none =>
          let b := wholeCheck a.2 y g false
          match b.1 with
          | some e => sideStop b.2 y g false e
          | none => probeSide (probeSide b.2 y g true) y g false)
  ∧ Executes (fun c => [(false, c.a), (false, c.b)])
      (fun c => decide (c.d = 0) && decide (c.c = 0) && decide (c.pred = 0) && decide (c.fn ≤ 1) && decide (c.mod = 0)
        && decide (c.imm16 = 0) && (c.fn == 0 || decide (c.b = 0))) .xwait
      (fun c x u => findTen u (refOf x) = some x ∧ halfPwr u (halfOfCore x.core) ≠ 1
        ∧ (match xferOf x ((xGet x c.a).toNat % 2 ^ 19) with
           | none => True
           | some g => (if c.fn = 1 then g.total % 2 ^ 64 else (xGet x c.b).toNat) ≤ g.doneEl))
      (fun _ x u => setTen u x.next)
  ∧ (∀ s t w x u, Issues s t [(false, (coreWord w).d), (false, (coreWord w).a)] x u →
      (let c := coreWord w
       c.b = 0 ∧ c.c = 0 ∧ c.pred = 0 ∧ c.fn = 0 ∧ c.mod = 0 ∧ c.imm16 = 0) →
      findTen u t = some x → (getCtx u x.ctx).st = 1 →
      let v : W64 := match xferOf x ((xGet x (coreWord w).a).toNat % 2 ^ 19) with
        | some g => BitVec.ofNat 64 g.doneEl
        | none => 0xFFFFFFFFFFFFFFFF
      exec (.xprog t w 0) s = .next (logRead t (leBytes 8 v.toNat) (setTen u (xSet x (coreWord w).d v).next)))
  ∧ (∀ s t x f off g s0 a ao s1 y b bo s2 z, findTen s t = some x → xferOf x off = some f → xferRuns s x f = true →
      f.doneEl + 1 = f.total → enterGather s x f = (g, s0) →
      sideOf s0 x g true f.doneEl = (.win a ao, s1) → findTen s1 a = some y →
      (let l := winRead y ao (2 ^ f.desc.esize)
       sideOf (if a = refOf x then s1 else logRead (refOf x) l s1) x g false f.doneEl = (.win b bo, s2) → findTen s2 b = some z →
       exec (.transferDone t off) s = .next (tenGo (elemDone (setTen s2 (winWrite z bo l)) (refOf x) f.descOff) t)))
  ∧ (∀ s t x f off g s0 cause va detail s1, findTen s t = some x → xferOf x off = some f → xferRuns s x f = true →
      f.doneEl < f.total → enterGather s x f = (g, s0) → sideOf s0 x g true f.doneEl = (.fault cause va detail, s1) →
      exec (.transferFault t off) s = .next (tenGo (stopXfer s1 x g true cause va detail) t))
  ∧ (∀ s t off y, s.xlt.stalled.find? (fun z => z.f == .xfer t off) = some y →
      exec (.faultQueueStallTimeout (.xfer t off)) s = .next (wakeAll (loseCause
        { y.record with cause := 0x08, kind := 1, entry := 0xFFFF, time := cntOf s y.record.half }
        { s with xlt := { s.xlt with stalled := s.xlt.stalled.filter (fun z => !(z.f == .xfer t off)) } })))
  ∧ (∀ s id y b, s.xlt.stalled.find? (fun z => z.f == .cmd id) = some y → findBegun s id = some b →
      exec (.faultQueueStallTimeout (.cmd id)) s = .next (wakeAll (
        let s1 := bulkStop b stFqFull { s with xlt := { s.xlt with stalled := s.xlt.stalled.filter (fun z => !(z.f == .cmd id)) } }
        loseCause { y.record with cause := 0x08, kind := 1, entry := 0xFFFF, time := cntOf s1 y.record.half } s1)))
  ∧ (∀ s n y, s.xlt.stalled.find? (fun z => z.f == .run n) = some y →
      exec (.faultQueueStallTimeout (.run n)) s = .next (wakeAll (
        let s1 := endRun n stFqFull { s with xlt := { s.xlt with stalled := s.xlt.stalled.filter (fun z => !(z.f == .run n)) } }
        loseCause { y.record with cause := 0x08, kind := 1, entry := 0xFFFF, time := cntOf s1 y.record.half } s1)))

/-- Remote windows and near memory (R115, R148-R151, R239): where an access issues, is aligned and in bounds and its target
serves it, it is performed once, or sent to the module that holds its target; a waiting access is served when its target's save,
restore or move has ended. -/
def Obligations.RemoteInstructionsComplete : Prop :=
  Executes (fun c => [(false, c.a), (false, c.c), (c.fn == 2, c.b)])
      (fun c => decide (c.fn ≤ 2) && decide (c.pred = 0) && decide (c.mod = 0) && decide (c.d = 0)) .rst
      (fun c x u =>
        let lcid := (xGet x c.a).toNat % 2 ^ 24
        let off := (xGet x c.c + sext16 c.imm16).toNat
        off % (if c.fn = 1 then 8 else 4) = 0 ∧ flushHeld u x.slot lcid = false ∧ remHolds u x.slot ⟨lcid, x.ctx⟩ = false
        ∧ ∃ z y, winPlace u x lcid = .here z ∧ findTen u ⟨lcid, x.ctx⟩ = some y ∧ winIn y off (remSize c.fn) = true)
      (fun c x u =>
        let lcid := (xGet x c.a).toNat % 2 ^ 24
        let off := (xGet x c.c + sext16 c.imm16).toNat
        let data : List Byte := if c.fn == 2 then (List.range 64).flatMap (fun l => leBytes 4 (vGet x c.b l).toNat)
          else leBytes (remSize c.fn) (xGet x c.b).toNat
        serveRem (setTen u x.next)
          { issuer := refOf x, target := ⟨lcid, x.ctx⟩, off := off, store := some data, len := remSize c.fn, vec := c.fn == 2,
            reg := c.d, pc := x.pc })
  ∧ Executes (fun c => [(false, c.a), (false, c.c), (c.fn == 2, c.d)])
      (fun c => decide (c.fn ≤ 2) && decide (c.pred = 0) && decide (c.mod = 0) && decide (c.b = 0)) .rld
      (fun c x u =>
        let lcid := (xGet x c.a).toNat % 2 ^ 24
        let off := (xGet x c.c + sext16 c.imm16).toNat
        off % (if c.fn = 1 then 8 else 4) = 0 ∧ flushHeld u x.slot lcid = false ∧ remHolds u x.slot ⟨lcid, x.ctx⟩ = false
        ∧ ∃ z y, winPlace u x lcid = .here z ∧ findTen u ⟨lcid, x.ctx⟩ = some y ∧ winIn y off (remSize c.fn) = true)
      (fun c x u =>
        let lcid := (xGet x c.a).toNat % 2 ^ 24
        let off := (xGet x c.c + sext16 c.imm16).toNat
        serveRem (setTen u x.next)
          { issuer := refOf x, target := ⟨lcid, x.ctx⟩, off := off, store := none, len := remSize c.fn, vec := c.fn == 2,
            reg := c.d, pc := x.pc })
  ∧ (∀ s lcid ctx a, remHolds { s with rem := [] } (getCtx s ctx).slot ⟨lcid, ctx⟩ = false →
      s.rem.find? (fun a => a.target == ⟨lcid, ctx⟩) = some a →
      exec (.remoteAccessServe lcid ctx) s = .next (wakeAll (endCheck (serveRem { s with rem := s.rem.erase a } a) a.issuer)))
  ∧ (∀ s lcid ctx f, remHolds { s with rem := [] } (getCtx s ctx).slot ⟨lcid, ctx⟩ = false →
      s.rem.find? (fun a => a.target == ⟨lcid, ctx⟩) = none → s.part.heldFab.find? (fun f => winRef f == ⟨lcid, ctx⟩) = some f →
      exec (.remoteAccessServe lcid ctx) s = .next (winServe { s with part := { s.part with heldFab := s.part.heldFab.erase f } } f))
  ∧ (∀ s r old new u v, r.fpa / 2 ^ 42 = ownModule s → inHbm (r.fpa % 2 ^ 42) = true →
      r.fpa % 2 ^ 42 % nearLen r.op r.width = 0 →
      memRead s (nearKind r.op) r.ctx r.pid r.edom (r.fpa % 2 ^ 42) (nearLen r.op r.width) = .ok old u →
      new = (if r.op = 14 then nearLine old r.lanes r.compare.toNat
             else leBytes (nearLen r.op r.width) (nearNew r.op r.width (ofLE old) r.operand.toNat r.compare.toNat)) →
      memWrite u (nearKind r.op) r.ctx r.pid r.edom (r.fpa % 2 ^ 42) new = .ok [] v →
      exec (.nearMemoryOp r) s
        = .next { v with mem := { v.mem with reply := some { status := 0, data := if r.ret then old else [] } } })
  ∧ Executes (fun c => [(false, c.d), (false, c.a), (false, c.b), (false, c.c)])
      (fun c => decide (c.fn ≤ 12) && decide (modFld c 16 2 ≠ 3) && modZero c 18 27 && decide (c.pred = 0)) .atom
      (fun c x' u' =>
        let u := abandonSample x' u'
        let x := { x' with sample := none }
        let va := (xGet x c.a + sext16 c.imm16).toNat
        (10 ≤ c.fn → modFld c 16 2 ≠ 1) ∧ (c.fn < 10 → modFld c 16 2 ≠ 2) ∧ va % nearLen c.fn (modFld c 16 2) = 0
        ∧ ∃ e fpa v, coreXlate u x .atomic 0x2B va = (some (e, fpa), v) ∧ inHbm (fpa % 2 ^ 42) = true)
      (fun c x' u' =>
        let u := abandonSample x' u'
        let x := { x' with sample := none }
        let va := (xGet x c.a + sext16 c.imm16).toNat
        match coreXlate u x .atomic 0x2B va with
        | (some (e, fpa), v) =>
          nearIssue (setTen v x.next) x va (if c.d = 0 then none else some c.d)
            { fpa := fpa, op := c.fn, width := modFld c 16 2, ret := c.d ≠ 0, cls := min x.cls e.cls, ctx := x.ctx,
              edom := e.edom, pid := pidOfCtx v x.ctx, operand := xGet x c.b, compare := xGet x c.c, lanes := [] }
        | (none, v) => v)
  ∧ Executes (fun c => [(false, c.a), (false, c.b)])
      (fun c => decide (c.d = 0) && decide (c.c = 0) && decide (c.pred = 0) && decide (c.fn = 0) && decide (c.mod = 0)) .red
      (fun c x' u' =>
        let u := abandonSample x' u'
        let x := { x' with sample := none }
        let va := (xGet x c.a + sext16 c.imm16).toNat
        va % 4 = 0
        ∧ ∃ e fpa v, coreXlate u x .reduce 0x2B va = (some (e, fpa), v) ∧ inHbm (fpa % 2 ^ 42) = true)
      (fun c x' u' =>
        let u := abandonSample x' u'
        let x := { x' with sample := none }
        let va := (xGet x c.a + sext16 c.imm16).toNat
        match coreXlate u x .reduce 0x2B va with
        | (some (e, fpa), v) =>
          nearIssue (setTen v x.next) x va none
            { fpa := fpa, op := 13, width := 0, ret := false, cls := min x.cls e.cls, ctx := x.ctx, edom := e.edom,
              pid := pidOfCtx v x.ctx, operand := xGet x c.b &&& 0xFFFFFFFF, compare := 0, lanes := [] }
        | (none, v) => v)
  ∧ Executes (fun c => [(false, c.a), (true, c.b)])
      (fun c => decide (c.d = 0) && decide (c.c = 0) && decide (c.fn = 0) && decide (c.mod = 0)) .vredw
      (fun c x' u' =>
        let u := abandonSample x' u'
        let x := { x' with sample := none }
        let va := (xGet x c.a + sext16 c.imm16).toNat
        let ls := activeLanes x c.pred
        va % 4 = 0 ∧ ∃ l v, vredwReqs u x c.b ls va ((ls.map (fun l => (va + 4 * l) / 64)).eraseDups) = (some l, v))
      (fun c x' u' =>
        let u := abandonSample x' u'
        let x := { x' with sample := none }
        let va := (xGet x c.a + sext16 c.imm16).toNat
        let ls := activeLanes x c.pred
        match vredwReqs u x c.b ls va ((ls.map (fun l => (va + 4 * l) / 64)).eraseDups) with
        | (some l, v) =>
          l.foldl (fun s e => if (getCtx s x.ctx).st = 1 then nearIssue s x e.1 none e.2 else s) (setTen v x.next)
        | (none, v) => v)

/-- Events, barriers, fences and the end of a kernel as core instructions (R130, R152-R155): where one issues and its waits are
over, EREC records (at most once in 8 cycles of a core, spec/01 R23), EWAIT registers or goes on, an arrival is counted, its tenancy
waits for that phase and the last releases every member, one that does not fit its group loses the context, FENCE goes on, and END
ends the kernel. -/
def Obligations.SyncInstructionsComplete : Prop :=
  Executes (fun c => [(false, c.a), (false, c.b)]) eventOk .erec
      (fun c x u => postedPending u (refOf x) = false ∧ recordFree u x.core = true ∧ evMod ((xGet x c.a).setWidth 32) = ownModule u
        ∧ evServes (abandonSample x u) x.ctx (evNum ((xGet x c.a).setWidth 32)) = true
        ∧ ownModule (abandonSample x u) = ownModule u)
      (fun c x u =>
        let ev := evNum ((xGet x c.a).setWidth 32)
        let v := abandonSample x u
        let v := if x.remote.isNone then postBy v ev (xGet x c.b) x.run x.incarn else v
        (record (setTen (injectRecord v x.core) { x with sample := none }.next) ev (xGet x c.b)).2)
  ∧ Executes (fun c => [(false, c.a), (false, c.b)]) eventOk .erec
      (fun c x u => postedPending u (refOf x) = false ∧ recordFree u x.core = true
        ∧ evMod ((xGet x c.a).setWidth 32) ≠ ownModule (abandonSample x u))
      (fun c x u => askEvent (setTen (injectRecord (abandonSample x u) x.core) { x with sample := none }.next) (.signal (refOf x)) x.pc
        x.ctx x.core x.core 0x42 ((xGet x c.a).setWidth 32) (xGet x c.b))
  ∧ Executes (fun c => [(false, c.a), (false, c.b)]) eventOk .ewait
      (fun c x u => evMod ((xGet x c.a).setWidth 32) = ownModule u ∧ evServes u x.ctx (evNum ((xGet x c.a).setWidth 32)) = true
        ∧ waitMet (getEv u (evNum ((xGet x c.a).setWidth 32))).val (xGet x c.b) = true ∧ findTen u (refOf x) = some x
        ∧ halfPwr u (halfOfCore x.core) ≠ 1)
      (fun _ x u => setTen u x.next)
  ∧ Executes (fun c => [(false, c.a), (false, c.b)]) eventOk .ewait
      (fun c x u => evMod ((xGet x c.a).setWidth 32) = ownModule u ∧ evServes u x.ctx (evNum ((xGet x c.a).setWidth 32)) = true
        ∧ waitMet (getEv u (evNum ((xGet x c.a).setWidth 32))).val (xGet x c.b) = false
        ∧ waitsOfHalf u (halfOfEvent (evNum ((xGet x c.a).setWidth 32))) < 32768)
      (fun c x u =>
        let h : W32 := (xGet x c.a).setWidth 32
        let v := setTen u { x with wait := .event h (xGet x c.b) }
        { v with ev := { v.ev with waits := v.ev.waits ++ [{ ev := evNum h, target := xGet x c.b, who := .ten (refOf x) }] } })
  ∧ Executes (fun c => [(false, c.a)])
      (fun c => decide (c.d = 0) && decide (c.b = 0) && decide (c.c = 0) && decide (c.pred = 0) && decide (c.fn = 0)
        && decide (c.mod = 0) && decide (c.imm16 ≤ 255)) .bar
      (fun c x u => grpCount (xGet x c.a) ≠ 0 ∧ grpStride (xGet x c.a) ≠ 0 ∧ (getSlot u x.slot).bound = true
        ∧ grpFirst (xGet x c.a) + (grpCount (xGet x c.a) - 1) * grpStride (xGet x c.a) < (getSlot u x.slot).brec.lcount
        ∧ postedPending u (refOf x) = false
        ∧ hostOf (getSlot u x.slot) (grpFirst (xGet x c.a)) = some (ownModule (abandonSample x u)))
      (fun c x u =>
        let v := abandonSample x u
        let w := setTen v { x with sample := none, wait := .barrier c.imm16 phaseUnknown }
        { w with part := { w.part with barMsgs := w.part.barMsgs ++ [.arrive x.ctx c.imm16 x.lcid (xGet x c.a)] } })
  ∧ (∀ s ctx bid lcid g x,
      let v : State := { s with part := { s.part with barMsgs := s.part.barMsgs.erase (.arrive ctx bid lcid g) } }
      let b := getBar v (barKey ctx bid)
      let w := setTen v { x with wait := .barrier bid b.ph }
      (getCtx s ctx).st = 1 → s.part.barMsgs.contains (.arrive ctx bid lcid g) = true →
      findTen s ⟨lcid, ctx⟩ = some x → x.wait = .barrier bid phaseUnknown →
      (b.count ≠ 0 → b.group = g) → grpHas g lcid = true →
      exec (.barrierArrive ctx bid lcid g) s = .next (
        if b.count + 1 = grpCount g then barReleaseAll (setBar w (barKey ctx bid) { group := 0, ph := b.ph + 1, count := 0 }) ctx bid b.ph g
        else setBar w (barKey ctx bid) { b with group := g, count := b.count + 1 }))
  ∧ (∀ s ctx bid lcid g x,
      let v : State := { s with part := { s.part with barMsgs := s.part.barMsgs.erase (.arrive ctx bid lcid g) } }
      (getCtx s ctx).st = 1 → s.part.barMsgs.contains (.arrive ctx bid lcid g) = true → findTen s ⟨lcid, ctx⟩ = some x →
      (((getBar s (barKey ctx bid)).count ≠ 0 ∧ (getBar s (barKey ctx bid)).group ≠ g) ∨ grpHas g lcid = false) →
      exec (.barrierArrive ctx bid lcid g) s
        = .next (loseCause (fatalFault v 0x2E 3 ctx false x.pc x.pc lcid (halfOfCore x.core) 0) v))
  ∧ (∀ s t bid ph x, findTen s t = some x → x.wait = .barrier bid ph → s.part.barMsgs.contains (.release t bid ph) = true →
      exec (.barrierRelease t bid ph) s
        = .next (wakeTen { s with part := { s.part with barMsgs := s.part.barMsgs.erase (.release t bid ph) } } t))
  ∧ (∀ s t x u, Issues s t [] x u → postedPending u t = false → exec (.fence t 0) s = .next (setTen u x.next))
  ∧ Executes (fun _ => [])
      (fun c => decide (c.d = 0) && decide (c.a = 0) && decide (c.b = 0) && decide (c.c = 0) && decide (c.pred = 0)
        && decide (c.fn = 0) && modZero c 17 27 && decide (c.imm16 = 0)) .endK
      (fun _ x u => findTen u (refOf x) = some x ∧ x.xf.any (fun f => f.valid) = false ∧ postedPending u (refOf x) = false
        ∧ loadPending u (refOf x) = false ∧ x.sample = none ∧ x.remote = none)
      (fun c x u =>
        let cs := getCore u x.core
        let v := setCore u x.core { cs with sinceMatch := cs.sinceMatch + 1 }
        let w : State := { v with seq := { v.seq with ends := v.seq.ends ++ [{ run := x.run, incarn := x.incarn, grp := x.grp, ovf := x.kovf, lcid := x.lcid }] } }
        if modBit c 16 then dropTen w (refOf x) else setTen w { x with running := false, wait := .none, kovf := false, sample := none })

/-- What happens on cores beside instructions (R103-R118): the oldest entry that can start starts a kernel, a new tenancy or a
restore; an entry without save units loses its context; slices, preemption and eviction save the group that is needed; saves and
restores end, with what the codes of the arrays and of the save area find in the words (R307, R115). -/
def Obligations.CoreSchedulingCompletes : Prop :=
  (∀ s core sample e rest g v, coreServes s core = true →
      let u := dropStale s core
      entriesWhere (fun b e => entryReady u core b e && entryFits u core e) [] (getCore u core).queue = e :: rest →
      findTen u ⟨e.lcid, e.ctx⟩ = none → pickOne (groupsFor u core e.foot ⟨e.lcid, e.ctx⟩) u = (some g, v) →
      exec (.dispatchEntryStart core sample) s
        = .next (startEntry { v with tens := v.tens ++ [newTen v core g e] } core e (newTen v core g e) sample))
  ∧ (∀ s core sample e rest x, coreServes s core = true →
      let u := dropStale s core
      entriesWhere (fun b e => entryReady u core b e && entryFits u core e) [] (getCore u core).queue = e :: rest →
      findTen u ⟨e.lcid, e.ctx⟩ = some x → x.foot = e.foot → isResident x = true →
      exec (.dispatchEntryStart core sample) s = .next (startEntry u core e x sample))
  ∧ (∀ s core sample e rest x g v, coreServes s core = true →
      let u := dropStale s core
      entriesWhere (fun b e => entryReady u core b e && entryFits u core e) [] (getCore u core).queue = e :: rest →
      findTen u ⟨e.lcid, e.ctx⟩ = some x → x.foot = e.foot → isResident x = false → pickOne (groupsFor u core x.foot (refOf x)) u = (some g, v) →
      exec (.dispatchEntryStart core sample) s = .next (beginRestore v x g))
  ∧ (∀ s core e rest, entriesWhere (fun b e => !b.any (fun d => d.lcid == e.lcid && d.ctx == e.ctx) && !entryStale s e
        && (findTen s ⟨e.lcid, e.ctx⟩).isNone && decide (16 < unitsUsed s core + e.foot)) [] (getCore s core).queue = e :: rest →
      exec (.tenancyExhausted core) s = .next (entryFault s core e 0x31))
  ∧ (∀ s core, (onCore s core).isEmpty = true → (getCore s core).confCtx.isSome = true → replicaOn s core = false →
      exec (.confCoreScrub core) s = .next (setCore s core { getCore s core with confCtx := none, icache := [] }))
  ∧ (∀ s t x b, findTen s t = some x → x.loc = .resident b → starved s x.core (fun _ => true) = none →
      exec (.sliceExpiry t) s = .next (setTen s { x with sliceUsed := 0, since := s.dev.now }))
  ∧ (∀ s t x b k, findTen s t = some x → x.loc = .resident b → starved s x.core (fun _ => true) = some k →
      exec (.sliceExpiry t) s
        = .next (keepFor (beginSave (saveGroup s x.core (b - b % k.foot) k.foot .preempt) t .preempt) x.core k))
  ∧ (∀ s core k g, coreServes s core = true → starved s core (fun k => k.cls == 7 && sameCtx s core k) = some k →
      preemptGroup s core k = some g → exec (.class7Preempt core) s = .next (keepFor (saveGroup s core g k.foot .preempt) core k))
  ∧ (∀ s core blocked k g, coreServes s core = true → starved s core (sameCtx s core) = some k →
      evictGroup s core blocked k = some g → exec (.blockedEvict core blocked) s = .next (keepFor (saveGroup s core g k.foot .evict) core k))
  ∧ (∀ s t x b, findTen s t = some x → x.loc = .saving b →
      requestPending s t = false →
      (∀ e, e ≠ .uncorrectable →
      let u := setTen (afterRead e x s s) (swappedTen s x)
      let c := getCore u x.core
      let v := if x.saved = .preempt then setCore u x.core { c with preemptCnt := c.preemptCnt + 1 }
        else if x.saved = .evict then setCore u x.core { c with evictCnt := c.evictCnt + 1 } else u
      let w := moveSaved v x.slot x.lcid
      exec (.tenancySaveDone t e) s = .next (if (movingOf w x.slot x.lcid).isSome then w else startCand w x.core))
      ∧ exec (.tenancySaveDone t .uncorrectable) s = .next (afterRead .uncorrectable x s s))
  ∧ (∀ s t x g, findTen s t = some x → x.loc = .restoring g →
      exec (.tenancyRestoreDone t none) s
        = .next (moveCheck (resume (unkeep (setTen s (residentTen s x g)) x.core t) t) x.slot x.lcid)
      ∧ ∀ a, exec (.tenancyRestoreDone t (some a)) s = .next (imageLost x a s))
  ∧ (∀ s t x g v, findTen s t = some x → x.loc = .swapped → isRunnable x = true → coreServes s x.core = true →
      movingOf s x.slot x.lcid = none → restoresNext s x = true → pickOne (groupsFor s x.core x.foot t) s = (some g, v) →
      exec (.tenancyRestoreDone t none) s
        = .next (moveCheck (resume (unkeep (setTen v (residentTen v x g)) x.core t) t) x.slot x.lcid)
      ∧ ∀ a, exec (.tenancyRestoreDone t (some a)) s = .next (imageLost x a v))

/-- Core faults and winnow replay (R311, R312, R316, R317): a core that fails a check is quarantined and its logical cores move;
equal digests end a sample, and a third execution settles which core is at fault. A word fetched whole, its opcode not 0, is carried out as the
instruction that the opcode map gives it (R122, R124). -/
def Obligations.CoreFaultsComplete : Prop :=
  (∀ s core l, unitSt s ⟨0, core⟩ = .ready → exec (.coreFaultDetected core l) s = .next (coreFails s core l true))
  ∧ (∀ s core, unitSt s ⟨0, core⟩ = .ready →
      let u : State := { s with units := { s.units with
        subst := s.units.subst.map (fun r => if r.sub = some core then { r with sub := none } else r) } }
      let v := failMoves (setUnit u ⟨0, core⟩ .quarantine) core
      holderOfCore v core = none →
      exec (.coreFaultDetected core []) s
        = .next (logNote { cls := 0x07, sev := 1, unitKind := 0, unit := core, action := 4, half := halfOfCore core } v))
  ∧ (∀ s t x k r, findTen s t = some x → x.sample = some k → x.wait = .held r → k.mismatched = false →
      let u : State := { s with res := { s.res with samples := s.res.samples + 1 } }
      let v := kernelEnd u (refOf x) r
      exec (.winnowVerdict t true) s = .next (setCore v x.core { getCore v x.core with sinceMatch := 0 })
      ∧ exec (.winnowVerdict t false) s = .next (setTen { u with res := { u.res with mismatch := sat32 s.res.mismatch } }
          { x with sample := some { k with mismatched := true } }))
  ∧ (∀ s t x' k d u', findTen s t = some x' → x'.sample = some k → k.mismatched = true →
      pickOne ((idleSpares s (halfOfCore x'.core)).filter (fun c => scrubbedFor s c x'.ctx)) s = (some d, u') →
      let x := { x' with sample := none }
      let u := setTen (useSpare u' d x.ctx) x
      (∀ writes image,
        let v := winnowNote (writes.foldl (fun s w => replayWrite s x w.1 w.2) u) x 1 4 x.core
        let y := { withImage x image with foot := x.foot }
        exec (.winnowThirdVerdict t (.replica writes image)) s = .next (coreFails (releaseHeld (setTen v y) y) x.core [] false))
      ∧ exec (.winnowThirdVerdict t .replicaOther) s = .next (loseStatus x.ctx stLost (halfOfCore x.core) (winnowNote u x 2 0 x.core))
      ∧ exec (.winnowThirdVerdict t .primary) s
          = .next (releaseHeld (quarantineSpare (winnowNote u x 1 4 k.replica) k.replica) x)
      ∧ exec (.winnowThirdVerdict t .neither) s = .next (loseStatus x.ctx stLost (halfOfCore x.core)
          (quarantineSpare (quarantineSpare (winnowNote u x 2 4 k.replica) k.replica) d)))
  ∧ (∀ s t x' k v u, findTen s t = some x' → x'.sample = some k → k.mismatched = true →
      pickOne ((idleSpares s (halfOfCore x'.core)).filter (fun c => scrubbedFor s c x'.ctx)) s = (none, u) →
      let x := { x' with sample := none }
      exec (.winnowThirdVerdict t v) s
        = .next (loseStatus x.ctx stLost (halfOfCore x.core) (coreFails (winnowNote (setTen u x) x 2 4 x.core) x.core [] false)))
  ∧ (∀ s t w i, decodeCore t w = some i → coreOpcode w ≠ 0 → exec (.coreNop t w) s = exec i s)

/-- Sequencer instructions on registers, branches, memory and events (R200, R204, R207): where one issues, and its access or its
event serves the run, the run's register, index, store, record or wait is what its row says; the value of an event of another
module is asked of it (notes/assumptions/32.md). -/
def Obligations.SequencerInstructionsComplete : Prop :=
  Sequences 0x00 .seqNop (fun _ _ _ _ => True) (fun r x _ s => putRun s r x.next)
  ∧ Sequences 0x01 .seqMovi (fun _ _ _ _ => True)
      (fun r x w s => putRun s r (sSet x.next w.d (BitVec.ofInt 64 (sgn 32 w.imm))))
  ∧ Sequences 0x02 .movhi (fun _ _ _ _ => True)
      (fun r x w s => putRun s r (sSet x.next w.d ((sGet x w.a &&& 0xFFFFFFFF) ||| (BitVec.ofNat 64 w.imm <<< 32))))
  ∧ Sequences 0x03 .alu (fun _ _ w _ => w.md % 16 ≤ 9)
      (fun r x w s =>
        let a := sGet x w.a
        let b := if bitAt w.md 7 then simm w else sGet x w.b
        let o := w.md % 16
        putRun s r (sSet x.next w.d (
          if o = 0 then a + b else if o = 1 then a - b else if o = 2 then a &&& b else if o = 3 then a ||| b
          else if o = 4 then a ^^^ b else if o = 5 then a <<< (b.toNat % 64) else if o = 6 then a >>> (b.toNat % 64)
          else if o = 7 then a * b else if o = 8 then (if a.ule b then a else b) else (if a.ule b then b else a))))
  ∧ Sequences 0x04 .seqLd
      (fun r x w s => (sGet x w.a + simm w).toNat % (if bitAt w.md 0 then 8 else 4) = 0
        ∧ ∃ d u, runLoad s r x (sGet x w.a + simm w).toNat (if bitAt w.md 0 then 8 else 4) = .ok d u)
      (fun r x w s => match runLoad s r x (sGet x w.a + simm w).toNat (if bitAt w.md 0 then 8 else 4) with
        | .ok d u => putRun u r (sSet x.next w.d (BitVec.ofNat 64 (ofLE d)))
        | .stop u => u)
  ∧ Sequences 0x05 .seqSt
      (fun r x w s => (sGet x w.a + simm w).toNat % (if bitAt w.md 0 then 8 else 4) = 0
        ∧ ∃ e v m u, runSeg s r x .write (sGet x w.a + simm w).toNat (if bitAt w.md 0 then 8 else 4) = .seg e v m u
          ∧ (entLocal u e v = true → ∃ d t, runRes r x u (entWrite u x.ctx e v
              (leBytes (if bitAt w.md 0 then 8 else 4) (sGet x w.b).toNat)) = .ok d t))
      (fun r x w s =>
        let n := if bitAt w.md 0 then 8 else 4
        let data := leBytes n (sGet x w.b).toNat
        match runSeg s r x .write (sGet x w.a + simm w).toNat n with
        | .seg e v _ u =>
          if entLocal u e v then
            match runRes r x u (entWrite u x.ctx e v data) with
            | .ok _ t => putRun t r x.next
            | .stop t => t
          else runReq (putRun u r x.next) r x (.runSt r) e v { kind := 2, len := n, data := data }
        | .stop u => u)
  ∧ Sequences 0x06 .evread
      (fun _ x w s => evMod ((sGet x w.a).setWidth 32) = ownModule s ∧ evServes s x.ctx (evNum ((sGet x w.a).setWidth 32)) = true)
      (fun r x w s => putRun s r (sSet x.next w.d (getEv s (evNum ((sGet x w.a).setWidth 32))).val))
  ∧ Sequences 0x06 .evread (fun _ x w s => evMod ((sGet x w.a).setWidth 32) ≠ ownModule s) eventAsked
  ∧ Sequences 0x10 .seqBr (fun _ _ w _ => w.md % 8 ≤ 5)
      (fun r x w s =>
        let a := sGet x w.a
        let b := sGet x w.b
        let c := w.md % 8
        let taken := if c = 0 then decide (a = b) else if c = 1 then decide (a ≠ b) else if c = 2 then a.ult b
          else if c = 3 then b.ule a else if c = 4 then a.slt b else b.sle a
        putRun s r (branched x w taken))
  ∧ Sequences 0x11 .bev
      (fun _ x w s => evMod ((sGet x w.a).setWidth 32) = ownModule s ∧ evServes s x.ctx (evNum ((sGet x w.a).setWidth 32)) = true)
      (fun r x w s => putRun s r (branched x w
        (waitMet (getEv s (evNum ((sGet x w.a).setWidth 32))).val (sGet x w.b) != bitAt w.md 0)))
  ∧ Sequences 0x11 .bev (fun _ x w s => evMod ((sGet x w.a).setWidth 32) ≠ ownModule s) eventAsked
  ∧ Sequences 0x12 .bmw
      (fun r x w s => (sGet x w.a).toNat % 8 = 0 ∧ ∃ d u, runLoad s r x (sGet x w.a).toNat 8 = .ok d u)
      (fun r x w s => match runLoad s r x (sGet x w.a).toNat 8 with
        | .ok d u => putRun u r (branched x w (seqCond (w.md % 8) (BitVec.ofNat 64 (ofLE d)) (sGet x w.b)))
        | .stop u => u)
  ∧ Sequences 0x13 .loopS (fun _ _ _ _ => True)
      (fun r x w s => putRun s r (branched (sSet x w.d (sGet x w.d - 1)) w (decide (sGet x w.d - 1 ≠ 0))))
  ∧ Sequences 0x14 .jmp (fun _ _ _ _ => True) (fun r x w s => putRun s r { x with pc := (branchTo x.pc w).toNat })
  ∧ Sequences 0x15 .bovf (fun _ _ _ _ => True)
      (fun r x w s => putRun s r (branched x w x.ovfSeen))
  ∧ Sequences 0x16 .ovfclr (fun _ _ _ _ => True)
      (fun r x w s => putRun (if bitAt w.md 0 then setCtx s x.ctx { getCtx s x.ctx with fgxOvf := false } else s) r
        { x.next with ovf := false, ovfEnded := false, ovfSeen := false })
  ∧ Sequences 0x20 .waitEv
      (fun _ x w s => evMod ((sGet x w.a).setWidth 32) = ownModule s ∧ evServes s x.ctx (evNum ((sGet x w.a).setWidth 32)) = true)
      (fun r x w s =>
        let h : W32 := (sGet x w.a).setWidth 32
        registerWait (putRun s r { x with wait := .event h (sGet x w.b) (if w.imm = 0 then none else some w.d) })
          { ev := evNum h, target := sGet x w.b, who := .run r })
  ∧ Sequences 0x20 .waitEv (fun _ x w s => evMod ((sGet x w.a).setWidth 32) ≠ ownModule s)
      (fun r x w s =>
        let h : W32 := (sGet x w.a).setWidth 32
        askEvent (putRun s r { x with wait := .event h (sGet x w.b) (if w.imm = 0 then none else some w.d) }) (.runWait r)
          (BitVec.ofNat 64 x.pc) x.ctx 0 (576 + x.core) 0x41 h (sGet x w.b))
  ∧ (∀ s r x h v d, getRun s r = some x → x.wait = .event h v (some d) →
      exec (.waitTimeoutExpiry r) s = .next (
        let u := dropWaits s (fun w => w.who == .run r)
        putRun { u with fab := { u.fab with outst := u.fab.outst.filter (fun o => !(o.who == .runWait r)) } } r
          (sSet { x.next with wait := .none, ahead := false } d 1)))
  ∧ Sequences 0x21 .recEv
      (fun r x w s => runStores s r = false ∧ runCopies s r = false ∧ evMod ((sGet x w.a).setWidth 32) = ownModule s
        ∧ evServes s x.ctx (evNum ((sGet x w.a).setWidth 32)) = true)
      (fun r x w s => (record (putRun (postBy s (evNum ((sGet x w.a).setWidth 32)) (sGet x w.b) r (incarnOf s r)) r x.next) (evNum ((sGet x w.a).setWidth 32)) (sGet x w.b)).2)
  ∧ Sequences 0x21 .recEv
      (fun r x w s => runStores s r = false ∧ runCopies s r = false ∧ evMod ((sGet x w.a).setWidth 32) ≠ ownModule s)
      (fun r x w s => askEvent (putRun s r x.next) (.runSignal r) (BitVec.ofNat 64 x.pc) x.ctx 0 (576 + x.core) 0x42
        ((sGet x w.a).setWidth 32) (sGet x w.b))

/-- Sequencer instructions on work (R201-R206, R294): JOIN and END pass when their groups are idle, a kernel's end leaves its
group, DISPATCH places its members, COPY begins, EMIT sends, a hint prefetches or goes to the power controller, run-ahead leaves
only prefetches and the path that they follow, a failed sequencer core's runs go to others. -/
def Obligations.SequencerWorkComplete : Prop :=
  Sequences 0x22 .joinG (fun _ x w _ => groupsIdle x w.md = true)
      (fun r x w s => putRun (putRun s r { x with wait := .join w.md }) r { x with pc := x.pc + 1, ovfSeen := x.ovfEnded })
  ∧ Sequences 0x51 .seqEnd (fun _ x _ _ => groupsIdle x 255 = true)
      (fun r x _ s => endRun r stOk (putRun s r { x with wait := .ending }))
  ∧ (∀ s run incarn grp ovf n,
      s.seq.ends.find? (fun n => n.run == run && n.incarn == incarn && n.grp == grp && n.ovf == ovf) = some n →
      exec (.kernelEndNotify run incarn grp ovf) s = .next (wakeAll (groupDone
        (workEnds { s with seq := { s.seq with ends := s.seq.ends.erase n } } run incarn n.lcid) run incarn grp ovf)))
  ∧ Sequences 0x30 .dispatch
      (fun r x w s => runStores s r = false ∧ (getSlot s x.slot).bound = true
        ∧ ∃ rc, recOfRun s x w = some rc ∧ recCls rc ≤ x.cls
          ∧ (recFirst rc + (sGet x w.d).toNat) % 2 ^ 64 + (recCount rc - 1) * recStride rc < (getSlot s x.slot).brec.lcount
          ∧ groupOf x w.md + recCount rc ≤ 4294967295)
      (fun r x w s => match recOfRun s x w with
        | some rc => placeFrom r (groupPut x w.md (groupOf x w.md + recCount rc)) w rc ((recFirst rc + (sGet x w.d).toNat) % 2 ^ 64)
            (recCount rc) 0 s
        | none => s)
  ∧ (∀ s r x w i rc, getRun s r = some x → x.wait = .dispatch i → runWord s x = some w → (getCtx s x.ctx).st = 1 →
      unitSt s ⟨7, x.core⟩ = .ready → halfOff s (x.core / 8) = false → recOfRun s x w = some rc →
      exec (.dispatchQueueRoom r) s
        = .next (placeFrom r { x with ahead := false } w rc (dispatchBase x w rc) (recCount rc - i) i s))
  ∧ Sequences 0x31 .seqCopy
      (fun _ x w _ => copyLimits (sGet x w.a).toNat (sGet x w.b).toNat (sGet x w.c).toNat = true ∧ groupOf x w.md + 1 ≤ 4294967295)
      (fun r x w s =>
        let p := { x.pkt with ctx := x.ctx, cls := x.cls, w4 := BitVec.ofNat 32 x.pc }
        let u := begin x.q p (.copy (sGet x w.a).toNat (sGet x w.b).toNat (sGet x w.c).toNat (some (r, incarnOf s r, w.md))) 0 s
        let v := match findBegun u s.fe.nextId with
          | some b => setBegun u { b with roomKept := false }
          | none => u
        copyFirst s.fe.nextId (sGet x w.a).toNat (sGet x w.b).toNat (sGet x w.c).toNat
          (putRun v r (groupPut x.next w.md (groupOf x w.md + 1))))
  ∧ Sequences 0x32 .hint (fun _ x w s => w.md = 0 ∧ ∃ rc, recOfRun s x w = some rc)
      (fun r x w s => match recOfRun s x w with
        | some rc => putRun (prefetchRec s r 0 x rc (sGet x w.d) (sGet x (recPfReg rc))) r x.next
        | none => s)
  ∧ Sequences 0x32 .hint (fun _ _ w _ => w.md = 1)
      (fun r x w s => putRun (hintWord s (x.core / 8) (sGet x w.a).toNat) r x.next)
  ∧ Sequences 0x50 .emit (fun r x w s => (sGet x w.b).toNat = 0 ∧ runStores s r = false ∧ replyRoom s x.q (slotBytes 0) = true ∧ x.buf = [])
      (fun r x w s =>
        let p := { x.pkt with quiet := false }
        let v := sGet x w.c
        sendReply x.q p { replyTo p stOk with w4 := BitVec.ofNat 32 r, w6 := v.setWidth 32, w7 := (v >>> 32).setWidth 32, payload := [] }
          (putRun s r { x.next with wait := .none, buf := [] }))
  ∧ Sequences 0x50 .emit
      (fun r x w s => (sGet x w.b).toNat % 8 = 0 ∧ 0 < (sGet x w.b).toNat ∧ (sGet x w.b).toNat ≤ 4096 ∧ runStores s r = false ∧ x.buf = []
        ∧ ∃ e v m u d t, runSeg s r x .read (sGet x w.a).toNat (sGet x w.b).toNat = .seg e v m u ∧ entLocal u e v = true
          ∧ runRes r x u (entRead u x.ctx e v m) = .ok d t ∧ d.length = (sGet x w.b).toNat
          ∧ replyRoom t x.q (slotBytes d.length) = true)
      (fun r x w s => match runSeg s r x .read (sGet x w.a).toNat (sGet x w.b).toNat with
        | .seg e v m u => match runRes r x u (entRead u x.ctx e v m) with
          | .ok d t =>
            let p := { x.pkt with quiet := false }
            let y := sGet x w.c
            sendReply x.q p { replyTo p stOk with w4 := BitVec.ofNat 32 r, w6 := y.setWidth 32, w7 := (y >>> 32).setWidth 32, payload := d }
              (putRun t r { x.next with wait := .none, buf := [] })
          | .stop t => t
        | .stop u => u)
  ∧ (∀ s r x v, getRun s r = some x → ((∃ h t d, x.wait = .event h t d) ∨ (∃ m, x.wait = .join m) ∨ ∃ i, x.wait = .dispatch i) →
      (getCtx s x.ctx).st = 1 → unitSt s ⟨7, x.core⟩ = .ready → halfOff s (x.core / 8) = false → versionOf s x.prog x.ver = some v →
      let follow := aheadFrom r x v 64 (x.pc + 1) 0 [] (fun i => some (sGet x i))
      let k := commonPath x.guesses (follow s).1
      let u := if k < x.guesses.length then dropLines s (guessedBehind s r k) else s
      exec (.runAhead r) s = .next (putRun (follow u).2 r { x with ahead := true, guesses := (follow s).1 }))
  ∧ (∀ s core lost, core < 16 → unitSt s ⟨7, core⟩ = .ready →
      exec (.seqCoreFailover core lost) s = .next (wakeAll (
        let u := setUnit (logNote { cls := 0x0B, sev := 1, unitKind := 7, unit := core, action := 11, half := core / 8 } s) ⟨7, core⟩ .quarantine
        moveRuns (((allRuns u).filter (fun e => e.2.core == core && lost.contains e.1)).foldl (fun s e =>
          loseStatus e.2.ctx stUnc (core / 8) (endRun e.1 stUnc s)) u) core)))
  ∧ (∀ s chan, zpendOf s chan ≠ 0 → exec (.kvZeroWrite chan) s
      = .next { s with mem := { s.mem with zpend := tabSet (fun _ => 0) s.mem.zpend chan (zpendOf s chan - 1) } })

/-- Programs and launches (R192-R198, R207): PROG_LOAD begins and reads its image; a patch that passes makes the next version, a
retirement waits for runs, a launch takes the sequencer core with fewest runs of the QP's half, and a run's timeout ends it. -/
def Obligations.ProgramCommandsComplete : Prop :=
  RunsOn0 .progLoad 0x62 (fun _ p _ => p.payload.length = 32 ∧ 32 ≤ p.w6.toNat % 2 ^ 20 ∧ p.w6.toNat % 2 ^ 20 ≤ 786464)
      (fun h p u => cmdGo u.fe.nextId (begin (.mgmt h) p (.load (opA p) (p.w6.toNat % 2 ^ 20)) 0 u))
  ∧ (∀ s b size v g u, headerOk b.buf size = true → shake256 b.buf 32 = b.pkt.payload →
      v = { num := 1, code := imageCode b.buf, recs := imageRecs b.buf } →
      progCheckImage (numAt b.buf 12 4 % 2 ^ 16) v.code v.recs = none → versionBytes v ≤ storeFree s →
      pickOne ((List.range 2048).filter (fun g => (getProg s g).isNone)) s = (some g, u) →
      loadCheck b size s = finish b.id (fun q p s => sendReply q p { replyTo p stOk with w4 := BitVec.ofNat 32 g, w5 := 1 } s)
        (setProg u g (some { slot := (getCtx u b.pkt.ctx).slot, entry := numAt b.buf 12 4 % 2 ^ 16, current := 1, versions := [v] })))
  ∧ (∀ s h p g x v v', MgmtTakes s h { p with opcode := 0x61 } →
      let q : Pkt := { p with opcode := 0x61 }
      let u := taken s h q
      let n := p.payload.length
      g = p.w4.toNat % 2 ^ 11 → getProg u g = some x → x.slot = (getCtx u p.ctx).slot → n ≠ 0 → n % 16 = 0 → n ≤ 8192 →
      x.versions.length < 4 → x.current ≠ 65535 → x.retiring = none → versionOf u g x.current = some v →
      patchAll (cutEach 16 (n / 16) p.payload) v = some v' → progCheckImage x.entry v'.code v'.recs = none →
      versionBytes v' ≤ storeFree u →
      exec (.patchSeq p) s = .next (wakeAll (sendReply (.mgmt h) q { replyTo q stOk with w5 := BitVec.ofNat 32 (x.current + 1) }
        (progCheck (setProg u g (some { x with current := x.current + 1, versions := x.versions ++ [{ v' with num := x.current + 1 }] })) g))))
  ∧ (∀ s h p g x, MgmtTakes s h { p with opcode := 0x63 } →
      let q : Pkt := { p with opcode := 0x63 }
      let u := taken s h q
      g = p.w4.toNat % 2 ^ 11 → getProg u g = some x → x.slot = (getCtx u p.ctx).slot → x.retiring = none →
      exec (.progRetire p) s = .next (wakeAll (progCheck (setProg (begin (.mgmt h) q (.retire g) 0 u) g
        (some { x with retiring := some (some u.fe.nextId) })) g)))
  ∧ (∀ s h p g x num v core r u1, MgmtTakes s h { p with opcode := 0x60 } →
      let q : Pkt := { p with opcode := 0x60 }
      let u := taken s h q
      let n := p.payload.length
      n ≤ 128 → n % 8 = 0 → g = p.w4.toNat % 2 ^ 11 → getProg u g = some x →
      num = (if p.w4.toNat / 2 ^ 16 % 2 ^ 16 = 0 then x.current else p.w4.toNat / 2 ^ 16 % 2 ^ 16) → versionOf u g num = some v →
      x.retiring = none → x.slot = (getCtx u p.ctx).slot →
      fewestRuns u (seqCoresOf u (halfOfQ u (.mgmt h))) = some core → pickOne (freeRuns u (halfOfQ u (.mgmt h))) u = (some r, u1) →
      exec (.launchSeq p) s = .next (wakeAll (
        let t := begin (.mgmt h) q (.run r) 0 u1
        let regs := tabSetAll (fun _ => 0) [] ((indexed (numsAt p.payload 0 8 (n / 8))).map (fun e => (e.1, BitVec.ofNat 64 e.2)))
        let run : Run := { core := core, cls := p.cls, prog := g, ver := v.num, ctx := p.ctx, cgen := (getCtx t p.ctx).gen, slot := x.slot, q := .mgmt h, pkt := q, s := regs, pc := x.entry, id := u1.fe.nextId }
        setRun t r (some run))))
  ∧ (∀ s r x, getRun s r = some x → x.pkt.w5.toNat % 2 ^ 16 ≠ 0 →
      exec (.runTimeout r) s = .next (wakeAll (endRun r stTimeout s)))

/-- KV epochs (R289-R294): an open whose list, descriptors and spans pass opens a record for every descriptor; a commit keeps
each entry's accepted slots and a rollback none, the rest of the tail reads as zeros, and the run reads 0 in S[D]. -/
def Obligations.KvInstructionsComplete : Prop :=
  (∀ s r x w es ds u1 u2 u3, RunAt s r x w → w.op = 0x40 →
      let y := { x with wait := .none, ahead := false }
      kvList (takeTurn s r x) r y (sGet x w.a).toNat = .ok es u1 → kvOpenDescs r y es [] u1 = .ok ds u2 → sGet x w.b ≠ 0 →
      kvSpans r y (kvOpenSpans (sGet x w.a).toNat es.length ds) u2 = (none, u3) →
      ds.any (fun d => (kvRecOf u3 d.fpa).isSome || decide ((sGet x w.b).toNat ≤ d.epoch.toNat)) = false →
      [0, 1].any (fun h => decide (8192 < kvUsed u3 h + (ds.filter (fun d => halfOfFpa u3 d.fpa == h)).length)) = false →
      exec (.kvopen r) s
        = .next (wakeAll (settleGuess (putRun (kvOpenAll u3 y (sGet x w.b) ds) r (sSet y.next w.d 0)) r x.pc w)))
  ∧ (∀ s r x w es ds u1 u2 u3 zs u4 d u5 (commit : Bool), RunAt s r x w → w.op = (if commit then 0x41 else 0x42) →
      groupsIdle x 255 = true →
      let y := { x with wait := .none, ahead := false }
      let va := (sGet x w.a).toNat
      kvList (takeTurn s r x) r y va = .ok es u1 → kvCloseDescs r y es [] u1 = .ok ds u2 →
      kvSpans r y ((va, 16 + 16 * es.length) :: ds.map (fun d => (d.va, 64))) u2 = (none, u3) →
      let recs := ds.filterMap (fun d => (kvRecOf u3 d.fpa).map (fun k => (d, k, if commit then d.accept else 0)))
      recs.length = ds.length →
      recs.any (fun e => e.2.1.ctx != x.ctx || e.2.1.cgen != x.cgen || e.2.1.epoch != sGet x w.b) = false →
      recs.any (fun e => decide (e.2.1.tail < e.2.2)) = false → closeZeros r y recs [] u3 = (some zs, u4) →
      zeroRoom u4 zs = true → kvMeet r y ds u4 = .ok d u5 →
      exec (if commit then .kvcommit r else .kvrollback r) s = .next (wakeAll (settleGuess (
        let t := recs.foldl (fun s e => kvCloseOne commit s e.1 e.2.1 e.2.2) (zeroAll u5 zs)
        putRun { t with seq := { t.seq with
          kvCommits := if commit then t.seq.kvCommits + 1 else t.seq.kvCommits,
          kvRollbacks := if commit then t.seq.kvRollbacks else t.seq.kvRollbacks + 1 } } r (sSet y.next w.d 0)) r x.pc w)))

/-- What the event commands do on QP 0 when nothing refuses them (R185, R186, R187): a record on a local event that advances it
writes it, releases who waits and answers OK; a wait that is met answers at once and one that is not is registered; an
allocation takes free events and names the first; freed events are unallocated again; a query answers the value. -/
def Obligations.EventCommandsComplete : Prop :=
  RunsOn0 .eventRecord 0x40
      (fun h p u => begunOn u (.mgmt h) = [] ∧ evMod p.w4 = ownModule u ∧ evServes u p.ctx (evNum p.w4) = true
        ∧ recAdvances (getEv u (evNum p.w4)).val (valB p) = true)
      (fun h p u => answer (.mgmt h) p stOk (wakeOut (releaseEv (setEvent u (evNum p.w4) (valB p)) (evNum p.w4))))
  ∧ RunsOn0 .eventWait 0x41
      (fun _ p u => evMod p.w4 = ownModule u ∧ evServes u p.ctx (evNum p.w4) = true ∧ findBegun u u.fe.nextId = none
        ∧ waitMet (getEv u (evNum p.w4)).val (valB p) = true)
      (fun h p u => answer (.mgmt h) p stOk (dropBegun (begin (.mgmt h) p (.wait p.w4 (valB p)) 0 u) u.fe.nextId))
  ∧ RunsOn0 .eventWait 0x41
      (fun _ p u => evMod p.w4 = ownModule u ∧ evServes u p.ctx (evNum p.w4) = true
        ∧ waitMet (getEv u (evNum p.w4)).val (valB p) = false ∧ waitsOfHalf u (halfOfEvent (evNum p.w4)) < 32768)
      (fun h p u =>
        let t := (begin (.mgmt h) p (.wait p.w4 (valB p)) 0 u)
        let w : WaitReg := { ev := evNum p.w4, target := valB p, who := .cmd u.fe.nextId }
        { t with ev := { t.ev with waits := t.ev.waits ++ [w] } })
  ∧ (∀ s id b h t, findBegun s id = some b → b.job = .wait h t → b.pkt.w5 ≠ 0 → b.id = id →
      exec (.eventWaitTimeout id) s = .next (wakeAll
        (answer b.q b.pkt stTimeout (dropBegun (dropWaits s (fun w => w.who == .cmd id)) id))))
  ∧ (∀ s half w, s.ev.retry.find? (fun w => halfOfEvent w.ev == half) = some w →
      waitMet (getEv s w.ev).val w.target = false → waitsOfHalf s half < 32768 → halfOfEvent w.ev = half →
      exec (.waitRegisterRetry half) s = .next (wakeAll
        { s with ev := { s.ev with retry := s.ev.retry.erase w, waits := s.ev.waits ++ [w] } }))
  ∧ RunsOnFabric .eventSignalRemote 0x42
      (fun _ p u => ∃ i, slotOfPid u p.w5.toNat = some i ∧ (getCtx u p.ctx).st = 1 ∧ (getCtx u p.ctx).slot = i
        ∧ p.gen = (getCtx u p.ctx).gen.setWidth 8 ∧ evMod p.w4 = ownModule u ∧ evServes u p.ctx (evNum p.w4) = true)
      (fun q p u =>
        let r := record u (evNum p.w4) (valB p)
        answer q p (if r.1 then stRegress else stOk) r.2)
  ∧ (∀ s p mid pid pgen i, p.src = .fabric mid pid pgen → s.dev.phase = .ready → fabGate s pid pgen = .pass →
      slotOfPid s p.w5.toNat = some i → (getCtx s p.ctx).st = 1 → (getCtx s p.ctx).slot = i →
      p.gen = (getCtx s p.ctx).gen.setWidth 8 → evMod p.w4 = ownModule s → evServes s p.ctx (evNum p.w4) = true →
      exec (.remoteWait p) s = .next
        (registerWait s { ev := evNum p.w4, target := valB p, who := .remote mid p.w5.toNat p.seq }))
  ∧ RunsOn0 .eventAlloc 0x43
      (fun _ p u =>
        let w := p.w4.toNat
        let n := fld w 0 13
        let half := fld w 18 2
        let ctx := fld p.w5.toNat 0 10
        let l := (if half = 1 ∨ halfOff u 0 then [] else freeEvents u 0 n) ++ (if half = 0 ∨ halfOff u 1 then [] else freeEvents u 1 n)
        1 ≤ n ∧ n ≤ 4096 ∧ half < 3 ∧ (half < 2 → halfOff u half = false)
        ∧ (∃ i, slotOfPid u p.w6.toNat = some i
          ∧ (bitAt w 16 = false → (getCtx u ctx).st ≠ 0 ∧ (getCtx u ctx).slot = i)) ∧ (∃ e, (pickOne l u).1 = some e))
      (fun h p u =>
        let w := p.w4.toNat
        let n := fld w 0 13
        let half := fld w 18 2
        let ctx := fld p.w5.toNat 0 10
        let slot := (slotOfPid u p.w6.toNat).getD 0
        let l := (if half = 1 ∨ halfOff u 0 then [] else freeEvents u 0 n) ++ (if half = 0 ∨ halfOff u 1 then [] else freeEvents u 1 n)
        let e := (pickOne l u).1.getD 0
        let x : Ev := if bitAt w 16 then { st := 2, slot := slot } else { st := 1, ctx := ctx, slot := slot }
        let t := (List.range n).foldl (fun s k => setEv s (e + k) x) (pickOne l u).2
        answerW4 (.mgmt h) p stOk (e + ownModule t * 2 ^ 16) t)
  ∧ RunsOn0 .eventFree 0x44
      (fun _ p u =>
        let e := evNum p.w4
        let n := fld p.w5.toNat 0 13
        1 ≤ n ∧ n ≤ 4096 ∧ evMod p.w4 = ownModule u ∧ halfOfEvent e = halfOfEvent (e + n - 1) ∧ e + n ≤ 65536
        ∧ (∀ k < n, (getEv u (e + k)).st ≠ 0 ∧ (getEv u (e + k)).st = (getEv u e).st ∧ (getEv u (e + k)).ctx = (getEv u e).ctx
          ∧ (getEv u (e + k)).slot = (getEv u e).slot ∧ evWaited u (e + k) = false))
      (fun h p u => answer (.mgmt h) p stOk
        ((List.range (fld p.w5.toNat 0 13)).foldl (fun s k => setEv s (evNum p.w4 + k) {}) u))
  ∧ RunsOn0 .eventQuery 0x45 (fun _ p u => evMod p.w4 = ownModule u)
      (fun h p u =>
        let x := getEv u (evNum p.w4)
        let v : W64 := if x.st ≠ 0 ∧ (getSlot u x.slot).brec.conf = true then 0 else x.val
        sendReply (.mgmt h) p { replyTo p stOk with w6 := v.setWidth 32, w7 := (v >>> 32).setWidth 32 } u)
  ∧ (∀ s, (∀ n ∈ caughtSet s ((waitNodes s).length + 1) (waitNodes s), s.ev.caught.contains (n.id, n.ev, (getEv s n.ev).val) = false) →
      exec .deadlockScan s = .next { s with ev := { s.ev with caught :=
        (caughtSet s ((waitNodes s).length + 1) (waitNodes s)).map (fun n => (n.id, n.ev, (getEv s n.ev).val)) } })

/-- Queue control by packet on QP 0 of a Haldip port: what NOP, QP_CONFIG, QP_QUERY and QP_RESUME do when the packet starts
as it arrives and nothing refuses it (R159, R165, R168). -/
def Obligations.QueueCommandsComplete : Prop :=
  RunsOn0 (fun p => .nop { p with opcode := 0 }) 0x00 (fun _ _ _ => True) (fun h p u => answer (.mgmt h) p stOk u)
  ∧ RunsOn0 .qpConfig 0x01
      (fun _ p u =>
        let n := fld p.w4.toNat 0 12
        let x := getQp u n
        let b := numAt p.payload
        let rs := ringOk u x.ctx (b 0 8) (b 0x10 1)
        let rc := ringOk rs.2 x.ctx (b 8 8) (b 0x11 1)
        p.payload.length = 48 ∧ n ≠ 0 ∧ (x.st = 1 ∨ x.st = 2 ∨ x.st = 3) ∧ 14 ≤ b 0x10 1 ∧ b 0x10 1 ≤ 24 ∧ 14 ≤ b 0x11 1 ∧ b 0x11 1 ≤ 24
        ∧ b 0 8 % 2 ^ b 0x10 1 = 0 ∧ b 8 8 % 2 ^ b 0x11 1 = 0 ∧ b 0x12 1 ≠ 0 ∧ rs.1 = true ∧ rc.1 = true
        ∧ (bitAt (b 0x13 1) 0 = true → ∀ o ∈ [0x14, 0x18, 0x1C, 0x20], holdsEvent rc.2 x.ctx (BitVec.ofNat 32 (b o 4)) = true)
        ∧ x.sq = [] ∧ (x.source = true → sqTailOf rc.2 x ≤ x.sqHead) ∧ x.cq = [] ∧ begunOn rc.2 (.qp n) = [])
      (fun h p u =>
        let n := fld p.w4.toNat 0 12
        let x := getQp u n
        let b := numAt p.payload
        let ev (o : Nat) : W32 := BitVec.ofNat 32 (b o 4)
        let rc := (ringOk (ringOk u x.ctx (b 0 8) (b 0x10 1)).2 x.ctx (b 8 8) (b 0x11 1)).2
        let y : Qp := { x with
          st := 2, source := bitAt (b 0x13 1) 0, quantum := b 0x12 1, sqBase := b 0 8, cqBase := b 8 8,
          sqLog := b 0x10 1, cqLog := b 0x11 1, sqTailEvt := ev 0x14, sqHeadEvt := ev 0x18,
          cqTailEvt := ev 0x1C, cqHeadEvt := ev 0x20, sqHead := 0, sqTail := 0, cqHead := 0, cqTail := 0,
          sq := [], cq := [], deficit := 0 }
        let v := setQp rc n y
        answer (.mgmt h) p stOk (if bitAt (b 0x13 1) 0 then
          [ev 0x14, ev 0x18, ev 0x1C, ev 0x20].foldl (fun s e => (record s (evNum e) 0).2) v else v))
  ∧ RunsOn0 .qpQuery 0x02 (fun _ _ _ => True)
      (fun h p u =>
        let n := fld p.w4.toNat 0 12
        let x := getQp u n
        let q := qptWords u h n
        let l := leBytes 4 q.1.toNat ++ leBytes 4 q.2.1.toNat ++ leBytes 4 q.2.2.1.toNat ++ leBytes 4 q.2.2.2.toNat
          ++ leBytes 4 x.sqHead ++ leBytes 4 (sqTailOf u x) ++ leBytes 4 (cqHeadOf u x) ++ leBytes 4 x.cqTail
        sendReply (.mgmt h) p { replyTo p stOk with payload := l } u)
  ∧ RunsOn0 .qpResume 0x03
      (fun _ p u =>
        let n := fld p.w4.toNat 0 12
        let x := getQp u n
        n ≠ 0 ∧ x.st = 3 ∧ (x.source = true → opB p % 64 = 0 ∧ x.sqHead ≤ opB p ∧ opB p ≤ sqTailOf u x))
      (fun h p u =>
        let n := fld p.w4.toNat 0 12
        let x := getQp u n
        answer (.mgmt h) p stOk (setQp u n
          { x with st := if x.quantum = 0 then 1 else 2, expected := p.w5, sqHead := if x.source then opB p else x.sqHead, sq := if x.source then [] else x.sq }))
  ∧ (∀ s h p, p.src = .haldip h → p.qpn = 0 → (getFe s h).up = true → p.rxOk = true → takingOver s = false →
      some p.adapter.toNat = (getFe s h).adapter → p.plen = p.payload.length → p.plen ≤ 8192 → (getFe s h).onHold = true →
      (getFe s h).held = [] → fld p.w4.toNat 0 12 = 0 → startsNow (admitted s h) h (.mgmt h) { p with opcode := 0x03 } = true →
      exec (.qpResume p) s = .next (wakeAll (answer (.mgmt h) { p with opcode := 0x03 } stOk
        (setFe (taken s h { p with opcode := 0x03 }) h
          { getFe (taken s h { p with opcode := 0x03 }) h with onHold := false, expected := p.w5 }))))

/-- The front ends at work (R166, R169, R170) and queue pairs (R160, R164): a packet of a queue pair that is accepted and next is
carried out as on QP 0 by its opcode's handler; a device-sourced ring's next packet is read, checked and starts or waits; the round
robin's next item is paid for and runs. -/
def Obligations.FrontEndCommandsComplete : Prop :=
  (∀ s h p, QpTakes s h p → p.opcode = 0x00 → exec (.nop p) s = .next (wakeAll (startNop (.qp p.qpn) p (qpTaken s h p))))
  ∧ (RunsOnQp .writeData 0x20 startWrite ∧ RunsOnQp .readData 0x21 startRead
      ∧ RunsOnQp .copy 0x23 startCopy ∧ RunsOnQp .eventRecord 0x40 startRecord ∧ RunsOnQp .eventWait 0x41 startWait
      ∧ RunsOnQp .eventQuery 0x45 startEventQuery ∧ RunsOnQp .launchSeq 0x60 startLaunch ∧ RunsOnQp .patchSeq 0x61 startPatch
      ∧ RunsOnQp .progLoad 0x62 startProgLoad ∧ RunsOnQp .progRetire 0x63 startRetire ∧ RunsOnQp .prefetch 0xA3 startPrefetch
      ∧ RunsOnQp .unmapWhenIdle 0xA5 startUnmapIdle ∧ RunsOnQp .hintPhase 0xC0 startHintPhase)
  ∧ (∀ s n p v, s.dev.phase = .ready → halfOff s (getQp s n).port = false → (getQp s n).st = 2 → (getQp s n).source = true →
      (getQp s n).sq = [] → (getQp s n).sqHead < sqTailOf s (getQp s n) → replyRoom s (.qp n) 64 = true →
      devPacket (lullWake s (getQp s n).port) .read n (getQp s n).sqHead (getQp s n) = (.good p, v) → devCheck v (getQp s n) p = none →
      let w := setQp v n { getQp s n with sq := [p] }
      (startsNow v (getQp s n).port (.qp n) p = true → exec (.deviceSqFetch n) s = .next (startItem startOp (getQp s n).port (.qp n) p (popQp w n)))
      ∧ (startsNow v (getQp s n).port (.qp n) p = false → exec (.deviceSqFetch n) s = .next w))
  ∧ (∀ s n p v, s.dev.phase = .ready → halfOff s (getQp s n).port = false → (getQp s n).st = 2 → (getQp s n).source = true →
      (getQp s n).sq = [] → (getQp s n).sqHead < sqTailOf s (getQp s n) → replyRoom s (.qp n) 64 = true →
      devPacket (lullWake s (getQp s n).port) .read n (getQp s n).sqHead (getQp s n) = (.bad p, v) →
      exec (.deviceSqFetch n) s = .next (wakeAll (answer (.qp n) p stLen (setQp v n { getQp s n with st := 3 }))))
  ∧ (∀ s half q i u, half < 2 → s.dev.phase = .ready → halfOff s half = false → chooseItem (clearDeficits s half) half = some (q, i, u) →
      exec (.frontEndStartItem half) s = .next (clearDeficits (runItem q i (payItem half q i u)) half))
  ∧ (∀ s q i id, i.read = some id → runItem q i s = wakeAll (bulkRun id s))
  ∧ (∀ s n i p t, i.read = none → (getQp s n).sq = p :: t → runItem (.qp n) i s = startWith startOp (.qp n) p (popQp s n))
  ∧ (∀ s h i p t, i.read = none → (getFe s h).held = p :: t → runItem (.mgmt h) i s = startWith startOp (.mgmt h) p (popMgmt s h))

/-- What the fabric delivers (R250-R254, R256-R259): a good frame's control slot and flits are taken and a bad one is asked for
again; a packet that is addressed here and in order goes to its unit by its KIND; a gap in a flow is skipped after its time. -/
def Obligations.FabricPacketsComplete : Prop :=
  Delivers .fabricCommand 0 (fun f _ => ∃ p, f.cmd = some p ∧ p.rxOk = true)
      (fun f u => fabOp (.fabric f.src f.pid f.pgen.toNat) { f.cmd.getD {} with src := .fabric f.src f.pid f.pgen.toNat } u)
  ∧ Delivers .fabricRead 1 (fun f u => ingressFenced u f = false ∧ f.tkind ≠ 1 ∧ f.target.toNat / 2 ^ 42 = ownModule u)
      (fun f u => respondMem u f (memRead u .read f.ctx f.pid f.edom (f.target.toNat % 2 ^ 42) f.len))
  ∧ Delivers .fabricRead 1 (fun f u => ingressFenced u f = false ∧ f.tkind = 1) (fun f u => winTake u f)
  ∧ Delivers .fabricWrite 2 (fun f u => ingressFenced u f = false ∧ f.tkind ≠ 1 ∧ f.target.toNat / 2 ^ 42 = ownModule u)
      (fun f u => respondMem u f (memWrite u .write f.ctx f.pid f.edom (f.target.toNat % 2 ^ 42) f.data))
  ∧ Delivers .fabricWrite 2 (fun f u => ingressFenced u f = false ∧ f.tkind = 1) (fun f u => winTake u f)
  ∧ Delivers .fabricNear 3 (fun f u => ingressFenced u f = false ∧ f.near.isSome = true)
      (fun f u => match f.near with
        | some r => nearServe u f r
        | none => u)
  ∧ Delivers .fabricResponse 4
      (fun f u => ∃ o, u.fab.outst.find? (fun o => o.tag == f.tag.toNat && o.dst == f.src) = some o ∧ staleAnswer u o = false)
      (fun f u => match u.fab.outst.find? (fun o => o.tag == f.tag.toNat && o.dst == f.src) with
        | some o => wakeAll (giveAnswer { u with fab := { u.fab with outst := u.fab.outst.erase o } } o f.status f.data)
        | none => u)
  ∧ Delivers .markF 7 (fun _ _ => True)
      (fun f u => sendFor u { dst := f.src, vc := 5, kind := 8, src := ownModule u, lane := f.lane, tag := f.tag })
  ∧ Delivers .markAck 8 (fun _ _ => True) (fun f u => markAcked u f.src f.tag.toNat)
  ∧ (∀ s flow d q, cheapest ((findRx s flow).held.map (fun f => ((f.flowSeq - (findRx s flow).expected).toNat, f.flowSeq))) = some (d, q) →
      exec (.flowGapTimeout flow) s = .next (wakeAll (rxDrain deliver flow (findRx s flow).held.length
        (setRx { s with dev := { s.dev with fabGap := sat32 s.dev.fabGap } } { findRx s flow with expected := q }))))
  ∧ (∀ s port f, s.dev.phase = .ready → port < 32 → (getPort s port).st = 2 → frameGood (getPort s port) f = true →
      let u := frameControl (setPort s port { decoded (getPort s port) f with rxNext := (getPort s port).rxNext + 1, nak := false }) port f.bytes
      exec (.frameReceive port f) s = .next ((List.range 19).foldl
        (fun s i => takeFlit deliver port (frameTag f.bytes (i + 1)) (sliceZ f.bytes (64 * (i + 1)) 64) s) u))
  ∧ (∀ s port f, s.dev.phase = .ready → port < 32 → (getPort s port).st = 2 → frameGood (getPort s port) f = false →
      let x := getPort s port
      exec (.frameReceive port f) s = .next (setPort s port { decoded x f with nak := true, crcErr := sat32 x.crcErr }))

/-- Ports, flows and keys (R247-R249, R252, R259, R265, R267, R286, R315, R323): training ends UP, DOWN or MISWIRED; a link without
progress, or with too few lanes, retrains or goes DOWN; a flow without credit marks its path; an access without an answer costs its
context; neighbours are told of life; a key that has served long is renewed. -/
def Obligations.FabricLinksComplete : Prop :=
  (∀ s port, port < 34 → linkUp s port = true → (getPort s port).kept ≠ [] →
      let x := getPort s port
      exec (.linkReplayTimeout port) s = .next (setPort s port { x with st := 1, again := true, refusals := 0, retrain := sat16 x.retrain }))
  ∧ (∀ s port r, port < 32 → portEnabled (getPort s port) = true → unitSt s ⟨4, port⟩ = .ready → (getPort s port).st ≠ 2 →
      halfOff s (halfOfPort port) = false →
      let x := getPort s port
      let y := trained port x r
      (r.inTime = true → trainFails port r = false → peerFits s port y = true → x.again = false →
        exec (.portTrain port r) s = .next (setPort s port { y with st := 2, again := false, wired := false }))
      ∧ (r.inTime = true → trainFails port r = false → peerFits s port y = false →
        exec (.portTrain port r) s = .next (setPort s port { y with st := 4, wired := false }))
      ∧ (r.inTime = true → trainFails port r = true → exec (.portTrain port r) s = .next (portDown (setPort s port y) port))
      ∧ (r.inTime = false → (x.again = true ∨ x.wired = true) → exec (.portTrain port r) s = .next (portDown s port)))
  ∧ (∀ s h r, h < 2 → unitSt s ⟨6, h⟩ = .ready → halfOff s h = false → r.inTime = true → trainFails (32 + h) r = false →
      exec (.portTrain (32 + h) r) s
        = .next (setPort s (32 + h) { trained (32 + h) (getPort s (32 + h)) r with st := 2, again := false }))
  ∧ (∀ s port, (getPort s port).st = 4 → portEnabled (getPort s port) = true →
      exec (.miswiredRetrain port) s
        = .next (setPort s port { getPort s port with st := 1, wired := true, retrain := sat16 (getPort s port).retrain }))
  ∧ (∀ s port lane, port < 34 → lane < laneCount port → linkUp s port = true → bitAt (getPort s port).badRx.toNat lane = false →
      lane ≠ (getPort s port).spareRx → bitAt (getPort s port).badRx.toNat (getPort s port).spareRx = false → 7 ≤ (getPort s port).spareReq →
      ∃ t, exec (.laneRetire port lane true) s = .next t ∧ (getPort t port).spareReq = lane ∧ (getPort t port).st = (getPort s port).st
        ∧ (getPort t port).badRx = (getPort s port).badRx ||| BitVec.ofNat 9 (2 ^ lane)
        ∧ (getPort t port).spared = sat8 (getPort s port).spared)
  ∧ (∀ s port lane, port < 34 → lane < laneCount port → linkUp s port = true → bitAt (getPort s port).badTx.toNat lane = false →
      lane ≠ (getPort s port).spareTx → bitAt (getPort s port).badTx.toNat (getPort s port).spareTx = false →
      ∃ t, exec (.laneRetire port lane false) s = .next t ∧ (getPort t port).spareTx = lane ∧ (getPort t port).st = (getPort s port).st
        ∧ (getPort t port).badTx = (getPort s port).badTx ||| BitVec.ofNat 9 (2 ^ lane)
        ∧ (getPort t port).spared = sat8 (getPort s port).spared)
  ∧ (∀ s port, port < 32 → (getPort s port).st ≠ 0 → (getPort s port).st ≠ 3 →
      exec (.portDown port) s = .next (wakeAll (portsOff
        (logNote { cls := 0x0D, sev := 1, unitKind := 4, unit := port, action := 12, half := halfOfPort port } s) [port])))
  ∧ (∀ s h, h < 2 → exec (.portDown (32 + h)) s = .next (wakeAll (haldipDown s h)))
  ∧ (∀ s flow t o p, findTx s flow = some t → s.fab.sent.find? (fun o => o.port == t.port && flowOf o.pkt == flow) = some o →
      t.marker = none → o.pkt.kind ≠ 5 → choosePath s (slotOfPid s o.pkt.pid) o.pkt.vc o.pkt.dst o.pkt.flowSeq none = some p →
      (p.port ≠ t.port ∨ p.gw ≠ (t.gwPos, t.gwPort) ∨ p.inter ≠ t.inter) → exec (.pathReevaluate flow) s = .next (sendMark s t))
  ∧ (∀ s tag o, s.fab.outst.find? (fun o => o.tag == tag) = some o → (∀ t, o.who ≠ .signal t ∧ o.who ≠ .remWait t) →
      (∀ r, o.who ≠ .runSignal r ∧ o.who ≠ .runWait r) →
      exec (.remoteResponseTimeout tag) s = .next (wakeAll (loseFor o.dst o.ctx (0x8000 + stLost) stLost (halfOfCore o.core)
        { s with fab := { s.fab with outst := s.fab.outst.erase o } })))
  ∧ (∀ s, exec .livenessNop s
      = .next (((List.range 32).filter (fun q => portUp s q && decide (roleOf s q ≠ 0))).foldl sendNop s))
  ∧ (∀ s slot peer keyix k, s.fab.keys.find? (fun k => k.slot == slot && k.peer == peer && k.keyix == keyix) = some k → 2 ^ 39 ≤ k.sent →
      (keysOf s slot peer).length ≠ 4 → exec (.linkKeyRotate slot peer keyix) s = .next (kexStart s slot peer []))
  ∧ (∀ s slot peer, (keysOf s slot peer).any (fun k => k.waiting) = true →
      let u := { s with fab := { s.fab with
        kex := s.fab.kex.map (fun x => if x.slot == slot && x.peer == peer then { x with held := [] } else x),
        keys := s.fab.keys.map (fun k => if k.slot == slot && k.peer == peer then { k with waiting := false } else k) } }
      exec (.linkKeyWaitTimeout slot peer) s = .next (wakeAll (loseAll (heldCtxs s slot peer) stLost 0 u)))

/-- Bulk data in band on QP 0 (R175, R176, R177). A WRITE_DATA whose extent lies in one range entry, in granules that its context owns on
this module, and whose bytes memory takes, writes them and is answered OK with its count; a READ_DATA whose extent may be read begins, and each
READ_REPLY, when its turn comes, carries the next bytes, at most 8,192; a COPY whose extents may be read and written begins, and COPY_DONE moves
its bytes, those of one piece of at most 4,096 from entry to entry at once, and ends it. -/
def Obligations.BulkCommandsComplete : Prop :=
  RunsOn0 .writeData 0x20
      (fun _ p _ => p.payload.length ≠ 0 ∧ opA p + p.payload.length ≤ 2 ^ 57)
      (fun h p u => bulkRun u.fe.nextId (begin (.mgmt h) p (.write (opA p)) 0 u))
  ∧ (∀ s h p b e v d t, MgmtTakes s h { p with opcode := 0x20 } → p.payload.length ≠ 0 → opA p + p.payload.length ≤ 2 ^ 57 →
      begunBy s h { p with opcode := 0x20 } (.write (opA p)) b →
      let u := begin (.mgmt h) b.pkt b.job 0 (taken s h b.pkt)
      bulkHeld u b = false → s.fab.outst.any (fun o => o.who == .cmd b.id) = false →
      (extent u b .write (opA p) p.payload.length).1 = .seg e v p.payload.length → entLocal u e v = true →
      entWrite (extent u b .write (opA p) p.payload.length).2 p.ctx e v p.payload = .ok d t →
      exec (.writeData p) s = .next (wakeAll (goOnAll (.mgmt h) (answerAt (.mgmt h) b.pkt stOk p.payload.length (dropBegun t b.id)))))
  ∧ (∀ s h p b e v m, MgmtTakes s h { p with opcode := 0x21 } → p.w6.toNat ≠ 0 → opA p + p.w6.toNat ≤ 2 ^ 57 →
      begunBy s h { p with opcode := 0x21 } (.read (opA p) p.w6.toNat) b →
      let u := begin (.mgmt h) b.pkt b.job 0 (taken s h b.pkt)
      (extent u b .read (opA p) p.w6.toNat).1 = .seg e v m →
      exec (.readData p) s = .next (wakeAll (extent u b .read (opA p) p.w6.toNat).2)
      ∧ findBegun (extent u b .read (opA p) p.w6.toNat).2 b.id = some b)
  ∧ (∀ s id b addr len i u e v m d t, findBegun s id = some b → b.job = .read addr len → b.buf = [] → b.stalled = false →
      bulkHeld s b = false → s.fab.outst.any (fun o => o.who == .cmd id) = false →
      frontNext s (halfOfQ s b.q) = some (b.q, i, u) → i.read = some id →
      let half := halfOfQ s b.q
      let w := payItem half b.q i u
      let need := min 8192 (len - b.cursor)
      0 < need → (extent w b .read (addr + b.cursor) (len - b.cursor)).1 = .seg e v m → need ≤ m → entLocal w e v = true →
      entRead (extent w b .read (addr + b.cursor) (len - b.cursor)).2 b.pkt.ctx e v need = .ok d t →
      (b.roomKept || replyRoom (setBegun t { b with buf := d }) b.q (slotBytes need)) = true →
      let r : Reply := { replyTo b.pkt stOk with
        opcode := 0x22, last := decide (b.cursor + need = len), payload := d, w4 := BitVec.ofNat 32 (addr + b.cursor),
        w5 := BitVec.ofNat 32 ((addr + b.cursor) / 2 ^ 32), w6 := BitVec.ofNat 32 b.cursor, w7 := BitVec.ofNat 32 (b.cursor / 2 ^ 32) }
      let c : Begun := { b with cursor := b.cursor + need, buf := [], roomKept := false }
      exec (.readReply id) s = .next (clearDeficits (wakeAll (goOnAll b.q (sendReply b.q b.pkt r
        (if b.cursor + need = len then dropBegun t id else setBegun (setBegun t { b with buf := d }) c)))) half))
  ∧ (∀ s h p b es vs ms ed vd md, MgmtTakes s h { p with opcode := 0x23 } → p.payload.length = 24 →
      let src := numAt p.payload 0 8
      let dst := numAt p.payload 8 8
      let len := numAt p.payload 16 8
      copyLimits src dst len = true → begunBy s h { p with opcode := 0x23 } (.copy src dst len none) b →
      let u := begin (.mgmt h) b.pkt b.job 0 (taken s h b.pkt)
      let x := extent u b .read src len
      let y := extent x.2 b .write dst len
      x.1 = .seg es vs ms → y.1 = .seg ed vd md →
      exec (.copy p) s = .next (wakeAll y.2) ∧ findBegun y.2 b.id = some b)
  ∧ (∀ s id b src dst len run, findBegun s id = some b → b.job = .copy src dst len run →
      exec (.copyDone id) s = .next (wakeAll (bulkRun id s)))
  ∧ (∀ s id b src dst len run es vs ed vd d c z t, findBegun s id = some b → b.job = .copy src dst len run → b.stalled = false → b.buf = [] →
      bulkHeld s b = false → s.fab.outst.any (fun o => o.who == .cmd id) = false → b.cursor < len → len - b.cursor ≤ 4096 →
      let n := len - b.cursor
      let x := extent s b .read (src + b.cursor) n
      let y := extent x.2 b .write (dst + b.cursor) n
      x.1 = .seg es vs n → y.1 = .seg ed vd n → entLocal s es vs = true → entLocal s ed vd = true →
      entRead y.2 b.pkt.ctx es vs n = .ok d c → entWrite c b.pkt.ctx ed vd d = .ok z t →
      exec (.copyDone id) s = .next (wakeAll (goOnAll b.q (match run with
        | none => answerAt b.q b.pkt stOk len (dropBegun t id)
        | some (r, inc, g) => groupDone (dropBegun t id) r inc g false))))

/-- Requests at memory and the patrol scrub (R214, R216, R217, R219, R242): where the tests pass, a request that finds its controller's queue
empty and HBM timing ready reads or writes its bytes and its answer stands in `mem.reply`; another takes a slot, or waits for one; a
controller's slots stay within their numbers; the scrub visits the channel's next codeword. -/
def Obligations.MemoryRequestsComplete : Prop :=
  (∀ s r u d v, u = (if inHbm r.addr || inStore r.addr then addUpset s (r.addr / 16) r.upset else s) →
      (inHbm r.addr = true → r.now = true ∧ (getChan u (granChan u (granOf r.addr))).queue = [] ∧ (getChan u (granChan u (granOf r.addr))).waits = []) →
      (r.kind = .read ∨ r.kind = .internal ∧ r.data = []) →
      memRead u r.kind r.ctx r.pid r.edom r.addr r.len = .ok d v → exec (.memoryRequest r) s = .next (putReply v 0 d))
  ∧ (∀ s r u d v, u = (if inHbm r.addr || inStore r.addr then addUpset s (r.addr / 16) r.upset else s) →
      (inHbm r.addr = true → r.now = true ∧ (getChan u (granChan u (granOf r.addr))).queue = [] ∧ (getChan u (granChan u (granOf r.addr))).waits = []) →
      (r.kind = .write ∨ r.kind = .internal ∧ r.data ≠ []) →
      memWrite u r.kind r.ctx r.pid r.edom r.addr r.data = .ok d v → exec (.memoryRequest r) s = .next (putReply v 0 []))
  ∧ (∀ s r u d v d' w, u = (if inHbm r.addr || inStore r.addr then addUpset s (r.addr / 16) r.upset else s) →
      (inHbm r.addr = true → r.now = true ∧ (getChan u (granChan u (granOf r.addr))).queue = [] ∧ (getChan u (granChan u (granOf r.addr))).waits = []) →
      (r.kind = .atomic ∨ r.kind = .reduce) →
      memRead u r.kind r.ctx r.pid r.edom r.addr r.len = .ok d v → memWrite v r.kind r.ctx r.pid r.edom r.addr r.data = .ok d' w →
      exec (.memoryRequest r) s = .next (putReply w 0 (if r.kind = .atomic then d else [])))
  ∧ (∀ s r, inHbm r.addr = true → r.now = false →
      let u := addUpset s (r.addr / 16) r.upset
      let chan := granChan u (granOf r.addr)
      let c := getChan u chan
      spanGate u r.kind r.ctx r.pid r.edom r.addr
        (if r.kind = .write ∨ r.kind = .internal ∧ r.data ≠ [] then r.data.length else r.len) = .allow →
      exec (.memoryRequest r) s
        = .next (setChan u chan (admitReqs (chanWeights u chan) (c.waits.length + 1) { c with waits := c.waits ++ [r] })))
  ∧ (∀ w n c,
      let within (c : Chan) : Prop := (c.queue.filter innerReq).length ≤ 8 ∧ (c.queue.filter (fun r => !innerReq r)).length ≤ 64
        ∧ clsHeld c.queue 7 ≤ 32
      within c → within (admitReqs w n c))
  ∧ (∀ s chan up, chan < 192 → halfPwr s (halfOfChan chan) = 0 → halfOff s (halfOfChan chan) = false → chanReady s chan = true →
      ((getChan s chan).queue.filter innerReq).length < 8 →
      let c := getChan s chan
      let cw := achanFor s chan * chanWords + c.patrol
      let u := addUpset (setChan s chan { c with
        patrol := if c.patrol + 1 = chanWords then 0 else c.patrol + 1,
        scrub := if c.patrol + 1 = chanWords then c.scrub + 1 else c.scrub }) cw up
      let o := tabGet (fun _ => ({} : Upset)) u.mem.upsets cw
      exec (.patrolScrub chan up) s = .next (if o = {} then u else wakeAll (meetWord u cw o none).2))

/-- Edits of the range tables (R224-R232): a RANGE_MAP whose checks pass adds its entries, an unmapping marks or removes them, an
invalidation reaches its scope, a walk fills the TLB, PREFETCH and ADVISE do as they say, and Eotha mode is configured. -/
def Obligations.RangeCommandsComplete : Prop :=
  RunsOn0 .rangeMap 0xA0
      (fun _ p u => p.payload.length ≠ 0 ∧ p.payload.length % 32 = 0
        ∧ (entryRecs p.payload).all (mapForm (getCtx u p.ctx).eotha) = true
        ∧ ((entryRecs p.payload).map rangeOf).all (mapTarget (getSlot u (getCtx u p.ctx).slot).brec.conf) = true
        ∧ ((entryRecs p.payload).map rangeOf).all (mapGranary u (getCtx u p.ctx).slot) = true
        ∧ overlapping ((entryRecs p.payload).map rangeOf) = false
        ∧ ((entryRecs p.payload).map rangeOf).any (fun e => (getCtx u p.ctx).ranges.any (fun f => !f.revoked && meets f e.va (rangeEnd e))) = false
        ∧ (tableWith (getCtx u p.ctx).ranges ((entryRecs p.payload).map rangeOf)).length ≤ 65536
        ∧ ((getCtx u p.ctx).table = none → ∃ k, tableGran u (getCtx u p.ctx).slot = some k) ∧ (tableMet u p.ctx).1 = true)
      (fun h p u =>
        let c := getCtx u p.ctx
        let l := tableWith c.ranges ((entryRecs p.payload).map rangeOf)
        match c.table, tableGran u c.slot with
        | some _, _ => answerW4 (.mgmt h) p stOk l.length (putTable (tableMet u p.ctx).2 p.ctx l)
        | none, some k =>
          let v := setTag u (false, k) { slot := c.slot, ctx := p.ctx, conf := (getSlot u c.slot).brec.conf, table := true, st := 1 }
          answerW4 (.mgmt h) p stOk l.length (putTable (setCtx v p.ctx { c with table := some k }) p.ctx l)
        | none, none => u)
  ∧ RunsOn0 .rangeUnmap 0xA1
      (fun _ p u => spanOk p = true
        ∧ (cutAt (fun e => !e.revoked) (fun e => [{ e with revoked := true }]) (opA p) (opA p + opB p) (getCtx u p.ctx).ranges).length ≤ 65536
        ∧ (tableMet u p.ctx).1 = true)
      (fun h p u =>
        let v := (tableMet u p.ctx).2
        invalAnswer (underCtxs v [p.ctx] (opA p) (opB p)) (.mgmt h) p (invalCtx (putTable v p.ctx
          (cutAt (fun e => !e.revoked) (fun e => [{ e with revoked := true }]) (opA p) (opA p + opB p) (getCtx u p.ctx).ranges)) p.ctx (opA p) (opB p)))
  ∧ RunsOn0 .unmapWhenIdle 0xA5 (fun _ p _ => spanOk p = true)
      (fun h p u =>
        let deps := packetsOf u p.ctx
        let runs := (allRuns u).filterMap (fun e =>
          if e.2.ctx == p.ctx && deps.contains (e.2.q, e.2.pkt.seq) then some (e.1, incarnOf u e.1) else none)
        begin (.mgmt h) p (.unmapIdle (opA p) (opB p) deps runs) 0 u)
  ∧ (∀ s id b va len deps runs, findBegun s id = some b → b.job = .unmapIdle va len deps runs →
      (packetsOf s b.pkt.ctx).any (fun x => x != (b.q, b.pkt.seq) && deps.contains x) = false →
      runs.any (fun r => kernelLeft s r || ((getRun s r.1).isSome && incarnOf s r.1 == r.2)) = false →
      let l := cutAt (fun _ => true) (fun _ => []) va (va + len) (getCtx s b.pkt.ctx).ranges
      l.length ≤ 65536 → (tableMet s b.pkt.ctx).1 = true →
      let v := (tableMet s b.pkt.ctx).2
      exec (.unmapWhenIdleEffect id) s = .next (wakeAll (
        invalEnd id (underCtxs v [b.pkt.ctx] va len) (putTable (invalCtx v b.pkt.ctx va len) b.pkt.ctx l))))
  ∧ RunsOn0 .rangeInval 0xA2 (fun _ p _ => p.w4.toNat % 4 = 0 ∧ p.payload.length = 16)
      (fun h p u => invalAnswer (underScope u 0 p.ctx 0 (numAt p.payload 0 8) (numAt p.payload 8 8)) (.mgmt h) p
        (invalCtx u p.ctx (numAt p.payload 0 8) (numAt p.payload 8 8)))
  ∧ (∀ s h p i, MgmtTakes s h { p with opcode := 0xA2 } →
      let q : Pkt := { p with opcode := 0xA2 }
      let u := taken s h q
      p.w4.toNat % 4 = 1 → p.payload.length = 16 → slotOfPid u p.w5.toNat = some i →
      let v := invalHere u 1 p.ctx i (numAt p.payload 0 8) (numAt p.payload 8 8)
      let tags := underScope u 1 p.ctx i (numAt p.payload 0 8) (numAt p.payload 8 8)
      exec (.rangeInval p) s = .next (wakeAll (
        if (otherMembers u i).isEmpty then invalAnswer tags (.mgmt h) q v
        else (otherMembers u i).foldl (fun s m => sendForSlot s m i v.fe.nextId
          { q with seq := BitVec.ofNat 32 v.fe.nextId, payload := p.payload.take 16, plen := 16 })
          (begin (.mgmt h) q (.inval (otherMembers u i) tags) 0 v))))
  ∧ (∀ s h p, MgmtTakes s h { p with opcode := 0xA2 } →
      let q : Pkt := { p with opcode := 0xA2 }
      let u := taken s h q
      p.w4.toNat % 4 = 2 → 16 ≤ p.payload.length → p.payload.length % 2 = 0 →
      let v := invalFpa u (numAt p.payload 0 8) (numAt p.payload 8 8)
      let tags := underFpa u (numAt p.payload 0 8) (numAt p.payload 8 8)
      let mods := (invalList q).eraseDups.filter (fun m => decide (m ≠ ownModule u))
      exec (.rangeInval p) s = .next (wakeAll (
        if mods.isEmpty then invalAnswer tags (.mgmt h) q v
        else
          let t := begin (.mgmt h) q (.inval mods tags) 0 v
          mods.foldl (fun s m => sendPlain s (some (getCtx u p.ctx).slot) (commandPkt s m 0 0 (600 + halfOfQ s (.mgmt h)) v.fe.nextId
            { q with seq := BitVec.ofNat 32 v.fe.nextId, payload := p.payload.take 16, plen := 16,
                     w5 := BitVec.ofNat 32 (getSlot t (getCtx u p.ctx).slot).brec.pid })) t)))
  ∧ RunsOnFabric .rangeInval 0xA2 (fun _ p u => (p.w4.toNat % 4 = 1 ∧ (slotOfPid u p.w5.toNat).isSome ∨ p.w4.toNat % 4 = 2) ∧ p.payload.length = 16)
      (fun q p u =>
        let i := if p.w4.toNat % 4 = 1 then (slotOfPid u p.w5.toNat).getD 0 else 0
        invalAnswer (underScope u (p.w4.toNat % 4) 0 i (numAt p.payload 0 8) (numAt p.payload 8 8)) q p
          (invalHere u (p.w4.toNat % 4) 0 i (numAt p.payload 0 8) (numAt p.payload 8 8)))
  ∧ (∀ s id b mods tags, findBegun s id = some b → b.job = .inval mods tags → mods ≠ [] →
      exec (.rangeInvalTimeout id) s = .next (wakeAll (finish id (fun q p s => answerW4 q p stTimeout mods.length s) s)))
  ∧ (∀ s sheaf ctx va, (getCtx s ctx).st = 1 → sheaf < 36 →
      let r := translate s (some (sheaf, none)) ctx va
      exec (.rangeWalk sheaf ctx va) s = .next (wakeAll (
        if r.1 = .revoked then loseCause (fatalFault r.2.2 0x05 0 ctx false (BitVec.ofNat 64 va) 0 0xFFFFFF (halfOfSheaf sheaf) 0) r.2.2
        else r.2.2)))
  ∧ RunsOn0 .prefetch 0xA3 (fun _ p _ => p.w6.toNat ≠ 0 ∧ p.w6.toNat ≤ 4194304 ∧ opA p + p.w6.toNat ≤ 2 ^ 57)
      (fun h p u => match lmapOf (getSlot u (getCtx u p.ctx).slot) (p.w7.toNat % 2 ^ 24) with
        | none => answerW4 (.mgmt h) p stOk 0 u
        | some e =>
          let r := prefetchCount none ((0, 0), 0) p.ctx p.cls (sheafOfCore e.core) (opA p) p.w6.toNat u
          answerW4 (.mgmt h) p stOk r.1 r.2)
  ∧ RunsOn0 .advise 0xA4 (fun _ p u => spanOk p = true ∧ p.payload.length = 8 ∧ numAt p.payload 0 8 % 16 ≤ 3
        ∧ (numAt p.payload 0 8 % 16 ≠ 0 → (tableMet u p.ctx).1 = true))
      (fun h p u =>
        let a := numAt p.payload 0 8
        let edit (e : Range) : Range := if a % 16 = 1 then { e with cache := 1 } else if a % 16 = 2 then { e with cache := 0 }
          else { e with cls := a / 16 % 8 }
        let l := (getCtx u p.ctx).ranges.map (fun e => if opA p ≤ e.va ∧ rangeEnd e ≤ opA p + opB p then edit e else e)
        let v := if a % 16 = 0 then u else putTable (tableMet u p.ctx).2 p.ctx l
        invalAnswer (underCtxs v [p.ctx] (opA p) (opB p)) (.mgmt h) p (invalCtx v p.ctx (opA p) (opB p)))
  ∧ RunsOn0 .eothaConfig 0xA8
      (fun _ p u => (bitAt p.w4.toNat 0 = true → p.payload.length = 24 ∧ numAt p.payload 0 8 % 4096 = 0 ∧ numAt p.payload 8 8 % 4096 = 0
          ∧ numAt p.payload 16 8 % 4096 = 0 ∧ numAt p.payload 0 8 + numAt p.payload 16 8 ≤ 2 ^ 56
          ∧ numAt p.payload 8 8 + numAt p.payload 16 8 ≤ 2 ^ 56)
        ∧ u.fe.qps.any (fun e => decide (e.2.st ≠ 0) && e.2.ctx == p.ctx) = false)
      (fun h p u =>
        let c := getCtx u p.ctx
        answer (.mgmt h) p stOk (setCtx u p.ctx (if bitAt p.w4.toNat 0
          then { c with eotha := true, hbase := numAt p.payload 0 8, dbase := numAt p.payload 8 8, elen := numAt p.payload 16 8 }
          else { c with eotha := false, hbase := 0, dbase := 0, elen := 0 })))

/-- Ownership and the fault queue (R220, R235, R236): OWN_SET gives or begins to free every granule it names, a release frees
them, and FAULT_RESOLVE resolves the entry it names, or answers DUP. -/
def Obligations.OwnershipAndFaultsComplete : Prop :=
  RunsOn0 .ownSet 0xA6
      (fun _ p u =>
        let w := p.w4.toNat
        let slot := (getCtx u p.ctx).slot
        let b := (getSlot u slot).brec
        w / 2 ^ 8 % 256 ≠ 0 ∧ p.w6.toNat % 2 ^ 11 ≠ 0 ∧ w / 2 ^ 17 % 4 ≠ 3
        ∧ w % 256 + w / 2 ^ 8 % 256 ≤ (if bitAt w 16 then 36 else 192)
        ∧ p.w5.toNat % 2 ^ 11 + p.w6.toNat % 2 ^ 11 ≤ (if bitAt w 16 then 16 else 1152)
        ∧ (∀ g ∈ ownNamed p, halfOff u (granHalf u g) = false)
        ∧ (∀ g ∈ ownNamed p, (if g.1 then b.cores.any (fun c => sheafOfCore c == g.2 / 16) else b.chans.contains (granChan u g)) = true
            ∧ (getTag u g).st < 2)
        ∧ (∀ g ∈ ownNamed p, if w / 2 ^ 17 % 4 = 2
            then (getTag u g).st = 1 ∧ (getTag u g).slot = slot ∧ ((getTag u g).shared = true ∨ (getTag u g).ctx = p.ctx)
              ∧ (getTag u g).ro = false ∧ (getTag u g).table = false
            else (getTag u g).st = 0))
      (fun h p u =>
        let w := p.w4.toNat
        let slot := (getCtx u p.ctx).slot
        if w / 2 ^ 17 % 4 = 2 then begin (.mgmt h) p (.own (ownNamed p)) 0 u
        else
          let v := (ownNamed p).foldl (fun s g => setTag s g
            { slot := slot, ctx := if w / 2 ^ 17 % 4 = 1 then 0 else p.ctx, shared := w / 2 ^ 17 % 4 == 1,
              conf := (getSlot u slot).brec.conf, st := 1 }) u
          let ms := (((ownNamed p).filter (fun g => g.1)).map (fun g => g.2 / 16)).eraseDups
          answer (.mgmt h) p stOk (ms.foldl (fun s m => poolTrim m s.mem.lines.length s) v))
  ∧ (∀ s id b gs, findBegun s id = some b → b.job = .own gs → reqWaits s (fun r => gs.contains (granOf r.addr)) = false →
      exec (.ownSetReleaseDone id) s = .next (wakeAll (finishStatus id stOk (
        let u := gs.foldl freeGran s
        { u with fe := { u.fe with begun := u.fe.begun.map (fun x => if x.id = id then x else dropGrans gs x) } }))))
  ∧ RunsOn0 .faultResolve 0xA7 (fun _ p u => ∃ e, fqGet u (p.w4.toNat % 256) = some e ∧ e.seq = p.w5)
      (fun h p u => match fqGet u (p.w4.toNat % 256) with
        | some e => fqDrain (e.faulters.foldl (resolve (bitAt p.w6.toNat 0) e.record)
            (fqDrain (answer (.mgmt h) p stOk (fqTrim (fqSet u (p.w4.toNat % 256) none)))))
        | none => u)
  ∧ RunsOn0 .faultResolve 0xA7 (fun _ p u => ∀ e, fqGet u (p.w4.toNat % 256) = some e → e.seq ≠ p.w5)
      (fun h p u => sendReply (.mgmt h) p { replyTo p stOk with dup := true } u)

/-- Creation and binding of partitions, contexts and queue pairs on QP 0 when nothing refuses them (R39, R40, R41, R42, R44, R49,
R51). -/
def Obligations.PartitionCommandsComplete : Prop :=
  RunsOn0 .partCreate 0x88
      (fun _ p u =>
        let r := recOfBytes p.payload
        p.payload.length = 192 ∧ r.pid ≠ 0 ∧ slotOfPid u r.pid = none ∧ (getSlot u r.slot).st = 0 ∧ u.sec.lc ≠ 0 ∧ u.sec.lc ≠ 5
        ∧ (r.conf = true → u.sec.trngOk = true))
      (fun h p u =>
        let r := recOfBytes p.payload
        let v := if r.conf = true then { u with part := { u.part with memKeyCtr := u.part.memKeyCtr + 1 } } else u
        answer (.mgmt h) p stOk (setSlot v r.slot
          { st := 1, pgen := r.pgen, brec := { r with cores := [], chans := [], share := [] }, chaff := (getSlot u r.slot).chaff,
            memKey := if r.conf = true then some v.part.memKeyCtr.toNat else none }))
  ∧ RunsOn0 .partBind 0x89
      (fun _ p u =>
        let seg := fld p.w5.toNat 0 2
        let first := fld p.w6.toNat 0 16
        let n := p.payload.length
        (∃ i, slotOfPid u p.w4.toNat = some i ∧ (getSlot u i).st ≠ 5)
        ∧ ((seg = 0 ∧ n = 192) ∨ (seg = 1 ∧ n ≠ 0 ∧ n % 8 = 0 ∧ first + n / 8 ≤ 2176)
          ∨ (seg = 2 ∧ n ≠ 0 ∧ n % 8 = 0 ∧ first + n / 8 ≤ 32768)) ∧ bitAt p.w5.toNat 2 = false)
      (fun h p u =>
        let i := (slotOfPid u p.w4.toNat).getD 0
        answer (.mgmt h) p stOk (setSlot u i { getSlot u i with
          staged := stageSeg (getSlot u i).staged (fld p.w5.toNat 0 2) (fld p.w6.toNat 0 16) p.payload }))
  ∧ (∀ s h p i r lm rt, MgmtTakes s h { p with opcode := 0x89 } →
      let P : Pkt := { p with opcode := 0x89 }
      let u := taken s h P
      let seg := fld p.w5.toNat 0 2
      let first := fld p.w6.toNat 0 16
      let n := p.payload.length
      slotOfPid u p.w4.toNat = some i → (getSlot u i).st ≠ 5 →
      ((seg = 0 ∧ n = 192) ∨ (seg = 1 ∧ n ≠ 0 ∧ n % 8 = 0 ∧ first + n / 8 ≤ 2176)
        ∨ (seg = 2 ∧ n ≠ 0 ∧ n % 8 = 0 ∧ first + n / 8 ≤ 32768)) →
      bitAt p.w5.toNat 2 = true → rebinding u i = false →
      bindCheck u i (stageSeg (getSlot u i).staged seg first p.payload) = .ok (r, lm, rt) →
      exec (.partBind p) s = .next (wakeAll (answer (.mgmt h) P stOk (setSlot u i
        { getSlot u i with st := 2, bound := true, brec := r, lmap := lm, rtab := rt, staged := {},
                           sharePend := if (stageSeg (getSlot u i).staged seg first p.payload).record.isSome then [] else (getSlot u i).sharePend }))))
  ∧ RunsOn0 .partDestroy 0x8B
      (fun _ p u => ∃ i, slotOfPid u p.w4.toNat = some i ∧ (getSlot u i).st ≠ 5)
      (fun h p u =>
        let i := (slotOfPid u p.w4.toNat).getD 0
        slotCheck (destroyCtxs (retireAll (setSlot (begin (.mgmt h) p (.destroyPart i) 0 u) i
          { getSlot u i with st := 5, destroy := some u.fe.nextId }) i) i) i)
  ∧ RunsOn0 .partQuery 0x90
      (fun _ p u => ∃ i, slotOfPid u p.w4.toNat = some i)
      (fun h p u =>
        let sl := getSlot u ((slotOfPid u p.w4.toNat).getD 0)
        let rest := sl.lmap.drop (fld p.w6.toNat 0 16)
        sendReply (.mgmt h) p { replyTo p stOk with
          w6 := BitVec.ofNat 32 (rest.take 1000).length, w7 := BitVec.ofNat 32 (rest.length - (rest.take 1000).length),
          payload := bytesOfRec sl.brec ++ (rest.take 1000).flatMap lentBytes } u)
  ∧ RunsOn0 .ctxCreate 0x8C
      (fun _ p u =>
        let ctx := fld p.w4.toNat 0 10
        (getCtx u ctx).st = 0 ∧ ∃ i, slotOfPid u p.w5.toNat = some i ∧ (getSlot u i).st ≠ 5
          ∧ ((getSlot u i).brec.conf = true → liveCount u i < (getSlot u i).brec.cores.length))
      (fun h p u =>
        let ctx := fld p.w4.toNat 0 10
        let i := (slotOfPid u p.w5.toNat).getD 0
        let g := (getCtx u ctx).gen + 1
        sendReply (.mgmt h) p { replyTo p stOk with w4 := g, w5 := BitVec.ofNat 32 i } (setCtx u ctx { st := 1, slot := i, gen := g }))
  ∧ RunsOn0 .ctxDestroy 0x8D
      (fun _ p u =>
        let c := getCtx u (fld p.w4.toNat 0 10)
        (c.st = 1 ∨ c.st = 2) ∧ slotOfPid u p.w5.toNat = some c.slot ∧ (getSlot u c.slot).st ≠ 5)
      (fun h p u =>
        let ctx := fld p.w4.toNat 0 10
        beginDestroy (begin (.mgmt h) p (.destroyCtx ctx) 0 u) ctx (some u.fe.nextId))
  ∧ RunsOn0 .qpBind 0x8E
      (fun _ p u =>
        let n := fld p.w4.toNat 0 12
        let c := getCtx u (fld p.w5.toNat 0 10)
        n ≠ 0 ∧ (getQp u n).st = 0 ∧ c.st = 1 ∧ (fld p.w7.toNat 1 3 = 7 → (getSlot u c.slot).brec.class7 = true))
      (fun h p u =>
        let ctx := fld p.w5.toNat 0 10
        answer (.mgmt h) p stOk (setQp u (fld p.w4.toNat 0 12)
          { st := 1, maxCls := fld p.w7.toNat 1 3, port := fld p.w7.toNat 0 1, adapter := p.w6, ctx := ctx, cgen := (getCtx u ctx).gen }))
  ∧ RunsOn0 .qpUnbind 0x8F
      (fun _ p u =>
        let n := fld p.w4.toNat 0 12
        n ≠ 0 ∧ (getQp u n).st ≠ 0 ∧ u.fe.begun.any (fun b => b.job == .unbind n) = false)
      (fun h p u =>
        let n := fld p.w4.toNat 0 12
        let x := getQp u n
        unbindCheck (setQp (begin (.mgmt h) p (.unbind n) 0 u) n
          { x with st := 4, sq := if (getFe u x.port).up then x.sq else [] }))

/-- Re-binding on QP 0 when nothing refuses it (R52, R53, R55, R271): cores and channels join and leave the record, a port's
share is staged and taken at the port's next frame boundary, a logical core's move begins, on this module or towards another, a
channel's migration begins, is copied and drained, a later generation is set and every context of the old one destroyed, and
the lead changes. -/
def Obligations.RebindCommandsComplete : Prop :=
  RunsVia .growCores (fun p => rebindPkt p 1)
      (fun _ p u => ∃ i, Rebinds u p 1 i ∧ coldUnits u (mapBits p.payload 576) [] = false
        ∧ (mapBits p.payload 576).any (fun c => (getSlot u i).brec.cores.contains c) = false
        ∧ resourcesOk u i ((getSlot u i).brec.cores ++ mapBits p.payload 576) (getSlot u i).brec.chans = true)
      (fun h p u => answer (.mgmt h) p stOk (setRec u ((slotOfPid u p.w4.toNat).getD 0)
        (fun r => { r with cores := r.cores ++ mapBits p.payload 576 })))
  ∧ RunsVia .shrinkCores (fun p => rebindPkt p 2)
      (fun _ p u => ∃ i, Rebinds u p 2 i ∧ (mapBits p.payload 576).any (fun c => !(getSlot u i).brec.cores.contains c) = false
        ∧ (mapBits p.payload 576).any (hostsLc u i) = false
        ∧ ownsStore u i ((getSlot u i).brec.cores.filter (fun c => !(mapBits p.payload 576).contains c)) = false
        ∧ ((getSlot u i).brec.conf = true → liveCount u i ≤ (getSlot u i).brec.cores.length - (mapBits p.payload 576).length))
      (fun h p u => answer (.mgmt h) p stOk (setRec u ((slotOfPid u p.w4.toNat).getD 0)
        (fun r => { r with cores := r.cores.filter (fun c => !(mapBits p.payload 576).contains c) })))
  ∧ RunsVia .growChannels (fun p => rebindPkt p 3)
      (fun _ p u => ∃ i, Rebinds u p 3 i ∧ coldUnits u [] (mapBits p.payload 192) = false
        ∧ (mapBits p.payload 192).any (fun c => (getSlot u i).brec.chans.contains c) = false
        ∧ resourcesOk u i (getSlot u i).brec.cores ((getSlot u i).brec.chans ++ mapBits p.payload 192) = true)
      (fun h p u => answer (.mgmt h) p stOk (setRec u ((slotOfPid u p.w4.toNat).getD 0)
        (fun r => { r with chans := r.chans ++ mapBits p.payload 192 })))
  ∧ RunsVia .shrinkChannels (fun p => rebindPkt p 4)
      (fun _ p u => ∃ i, Rebinds u p 4 i ∧ (mapBits p.payload 192).any (fun c => !(getSlot u i).brec.chans.contains c) = false
        ∧ (mapBits p.payload 192).any (fun n => ownsOn u i n || u.mem.migr.any (fun m => m.src == n || m.dst == n)) = false)
      (fun h p u => answer (.mgmt h) p stOk (setRec u ((slotOfPid u p.w4.toNat).getD 0)
        (fun r => { r with chans := r.chans.filter (fun c => !(mapBits p.payload 192).contains c) })))
  ∧ RunsVia .portShare (fun p => rebindPkt p 5)
      (fun _ p u => ∃ i, Rebinds u p 5 i ∧ shareTotal u (fld p.w6.toNat 0 5) i (fld p.w6.toNat 8 8) ≤ 256)
      (fun h p u =>
        let i := (slotOfPid u p.w4.toNat).getD 0
        answer (.mgmt h) p stOk (setSlot u i { getSlot u i with
          sharePend := tabSet (fun _ => 0) (getSlot u i).sharePend (fld p.w6.toNat 0 5) (fld p.w6.toNat 8 8 + 1) }))
  ∧ (∀ s port, exec (.portShareApply port) s = .next ((s.part.slots.map (·.1)).foldl (fun s i =>
      match tabGet (fun _ => 0) (getSlot s i).sharePend port with
      | 0 => s
      | v + 1 => setSlot s i { getSlot s i with sharePend := tabSet (fun _ => 0) (getSlot s i).sharePend port 0, brec := { (getSlot s i).brec with share := tabSet (fun _ => 0) (getSlot s i).brec.share port v } }) s))
  ∧ RunsVia .moveLc (fun p => rebindPkt p 6)
      (fun _ p u =>
        let lcid := fld p.w6.toNat 0 24
        ∃ i e, Rebinds u p 6 i ∧ hostOf (getSlot u i) lcid = some (ownModule u) ∧ lmapOf (getSlot u i) lcid = some e
          ∧ movingOf u i lcid = none ∧ (u.part.moving.filter (fun m => m.id.isSome)).length < 16
          ∧ (fld p.w7.toNat 0 14 = ownModule u →
            placeCheck u i (coreOfId (fld p.w7.toNat 16 10)) (fld p.w7.toNat 26 2)
              (if coreOfId (fld p.w7.toNat 16 10) = some e.core then 0 else unitsOfLc u i lcid) = none))
      (fun h p u =>
        let i := (slotOfPid u p.w4.toNat).getD 0
        let lcid := fld p.w6.toNat 0 24
        let mid := fld p.w7.toNat 0 14
        let v := begin (.mgmt h) p .move 0 u
        let src := match lmapOf (getSlot u i) lcid with
          | some e => e.core
          | none => 0
        let m : Moving := { slot := i, lcid := lcid, id := some u.fe.nextId, srcCore := src, dstMod := mid, dstCore := 0, st := 0, fold := fld p.w7.toNat 26 2 }
        let put (m : Moving) : State := { v with part := { v.part with moving := v.part.moving ++ [m] } }
        if mid = ownModule u then put { m with dstCore := (coreOfId (fld p.w7.toNat 16 10)).getD 0, st := 1 }
        else tellLead (put { m with dstCore := fld p.w7.toNat 16 10, st := 10 }) i lcid 0x91 mid)
  ∧ (∀ s slot lcid m, movingOf s slot lcid = some m → m.st = 1 →
      exec (.moveDrainReturn slot lcid) s = .next (moveSaved (saveLcid (setMoving s { m with st := 2 }) slot lcid) slot lcid))
  ∧ RunsVia .channelMigrate (fun p => rebindPkt p 7)
      (fun _ p u =>
        let src := fld p.w6.toNat 0 8
        let dst := fld p.w6.toNat 8 8
        ∃ i, Rebinds u p 7 i ∧ dst < 192 ∧ chanReady u dst = true ∧ holderOfChan u dst = none
          ∧ (getSlot u i).brec.chans.contains src = true ∧ u.mem.migr.any (fun m => m.src == src || m.dst == src) = false)
      (fun h p u =>
        let i := (slotOfPid u p.w4.toNat).getD 0
        beginMigration (setSlot (begin (.mgmt h) p .migrate 0 u) i { getSlot u i with rebind := some u.fe.nextId }) i
          (fld p.w6.toNat 0 8) (fld p.w6.toNat 8 8) (some u.fe.nextId))
  ∧ (∀ s chan m, s.mem.migr.find? (fun m => m.src == chan && !m.drained) = some m →
      exec (.migrateCopyDone chan .done) s = .next { copyChannel s chan with mem := { (copyChannel s chan).mem with
        migr := (copyChannel s chan).mem.migr.map (fun x => if x == m then { m with drained := true } else x) } }
      ∧ exec (.migrateCopyDone chan .destFault) s = .next (chanFails (migrEnd s m m.dst stUnc) m.dst)
      ∧ exec (.migrateCopyDone chan .sourceFault) s = .next (chanFails (migrEnd s m m.dst stUnc) m.src))
  ∧ (∀ s chan m, s.mem.migr.find? (fun m => m.src == chan && m.drained) = some m →
      exec (.migrateDrainDone chan) s
        = .next (migrEnd (setUnit (swapRemap s m.src m.dst) ⟨2, m.src⟩ .quarantine) m m.src stOk))
  ∧ RunsVia .reset (fun p => rebindPkt p 8)
      (fun _ p u => ∃ i, Rebinds u p 8 i ∧ (p.w6 - (getSlot u i).pgen).toNat ≠ 0 ∧ (p.w6 - (getSlot u i).pgen).toNat < 2 ^ 31)
      (fun h p u =>
        let i := (slotOfPid u p.w4.toNat).getD 0
        let v := setSlot (begin (.mgmt h) p (.rebindReset p.w6) 0 u) i
          { getSlot u i with rebind := some u.fe.nextId, pgen := p.w6, brec := { (getSlot u i).brec with pgen := p.w6 } }
        slotCheck (destroyCtxs (retireAll v i) i) i)
  ∧ RunsVia .setLead (fun p => rebindPkt p 9)
      (fun _ p u => ∃ i, Rebinds u p 9 i)
      (fun h p u =>
        let i := (slotOfPid u p.w4.toNat).getD 0
        let lead := fld p.w6.toNat 0 14
        let dep := fld p.w6.toNat 16 14
        let v := setRec u i (fun r => { r with lead := lead, deputy := dep })
        answer (.mgmt h) p stOk (if (getSlot u i).brec.lead = ownModule v then
          copyRecs (if dep = lead then v else copyRecs v i dep) i lead else v))

/-- The handoff of a logical core between modules (R57, R58, R59, R60, R62): what the lead, the destination and the source do
with each message when it is the next one of its epoch, what a repeat and the timeouts do, and how a run-table update and a flush
marker take effect. -/
def Obligations.HandoffCommandsComplete : Prop :=
  (∀ s p mid pid pgen slot, HandTakes s p mid pid pgen slot →
      let P : Pkt := { p with opcode := 0x91 }
      let lcid := fld p.w5.toNat 0 24
      let r := ownRec s slot lcid
      let e := (getSlot s slot).epochCtr + 1
      leadFor s slot = ownModule s → actPending s slot lcid = none → epochOpen r = false → r.owner = mid →
      (hostOf (getSlot s slot) lcid).isSome = true →
      exec (.moveBegin p) s = .next (leadChange s { r with epoch := e, src := mid, dst := opB p % 2 ^ 14, st := .opened }
        { slot := slot, lcid := lcid, q := .fabric mid pid pgen, pkt := P, status := stOk, epoch := e, tell := none, publish := false }))
  ∧ (∀ s p mid pid pgen slot, HandTakes s p mid pid pgen slot →
      let lcid := fld p.w5.toNat 0 24
      let core := coreOfId (numAt p.payload 0 4)
      p.payload.length = 8192 → p.qpn = 0 → offerOf s slot lcid (opB p) = none →
      placeCheck s slot core (numAt p.payload 4 4) (numAt p.payload 8 4) = none →
      let o : Offer := { slot := slot, lcid := lcid, epoch := opB p, src := mid, data := p.payload, good := false, core := core.getD 0, fold := numAt p.payload 4 4 }
      let t := dropOffer s slot lcid
      exec (.moveOffer p) s = .next { t with part := { t.part with offers := t.part.offers ++ [o] } })
  ∧ (∀ s p mid pid pgen slot o, HandTakes s p mid pid pgen slot →
      let lcid := fld p.w5.toNat 0 24
      offerOf s slot lcid (opB p) = some o → o.good = false → o.data.length = 8192 * p.qpn → p.payload.length < 8192 →
      let d := o.data ++ p.payload
      let n := d.length - 32
      32 ≤ d.length → shake256 (d.take n) 32 = d.drop n →
      let waits := ([mid, leadFor s slot].eraseDups).filter (fun m => !(m == ownModule s))
      let t := sendHand (setOffer s { o with data := d.take n, good := true, waits := waits }) mid 0x93 slot lcid (opB p) 0 []
      exec (.moveOffer p) s = .next (if leadFor t slot = mid then t else tellLead t slot lcid 0x93 (opB p)))
  ∧ (∀ s p mid pid pgen slot, HandTakes s p mid pid pgen slot →
      let P : Pkt := { p with opcode := 0x93 }
      let lcid := fld p.w5.toNat 0 24
      let r := ownRec s slot lcid
      leadFor s slot = ownModule s → actPending s slot lcid = none → r.epoch = opB p → r.st = .opened →
      exec (.moveAccept p) s = .next (sourceAccept (leadChange s { r with st := .accepted }
        { slot := slot, lcid := lcid, q := .fabric mid pid pgen, pkt := P, status := stOk, epoch := opB p, tell := none,
          publish := false }) slot lcid (opB p) mid))
  ∧ (∀ s p mid pid pgen slot m, HandTakes s p mid pid pgen slot →
      let lcid := fld p.w5.toNat 0 24
      leadFor s slot ≠ ownModule s → movingOf s slot lcid = some m → m.st = 11 → m.epoch = opB p → m.dstMod = mid →
      exec (.moveAccept p) s = .next (answer (.fabric mid pid pgen) { p with opcode := 0x93 } stOk
        (tellLead (setMoving s { m with st := 13, tries := 0 }) slot lcid 0x94 (opB p))))
  ∧ (∀ s p mid pid pgen slot, HandTakes s p mid pid pgen slot →
      let P : Pkt := { p with opcode := 0x94 }
      let lcid := fld p.w5.toNat 0 24
      let r := ownRec s slot lcid
      leadFor s slot = ownModule s → actPending s slot lcid = none → r.epoch = opB p → r.st = .accepted →
      exec (.moveCommit p) s = .next (leadChange s { r with owner := r.dst, highest := opB p, st := .committed }
        { slot := slot, lcid := lcid, q := .fabric mid pid pgen, pkt := P, status := stOk, epoch := opB p,
          tell := some (r.dst, 0x94), publish := true }))
  ∧ (∀ s p mid pid pgen slot, HandTakes s p mid pid pgen slot → leadFor s slot ≠ ownModule s → mid = leadFor s slot →
      exec (.moveCommit p) s = .next (answer (.fabric mid pid pgen) { p with opcode := 0x94 } stOk
        (destCommit s slot (fld p.w5.toNat 0 24) (opB p))))
  ∧ (∀ s p mid pid pgen slot, HandTakes s p mid pid pgen slot →
      let P : Pkt := { p with opcode := 0x95 }
      let lcid := fld p.w5.toNat 0 24
      let r := ownRec s slot lcid
      leadFor s slot = ownModule s → actPending s slot lcid = none → r.epoch = opB p → epochOpen r = true →
      exec (.moveAbort p) s = .next (leadChange s { r with st := .aborted }
        { slot := slot, lcid := lcid, q := .fabric mid pid pgen, pkt := P, status := stOk, epoch := opB p,
          tell := some (r.dst, 0x95), publish := false }))
  ∧ (∀ s p mid pid pgen slot, HandTakes s p mid pid pgen slot → leadFor s slot ≠ ownModule s → mid = leadFor s slot →
      exec (.moveAbort p) s = .next (answer (.fabric mid pid pgen) { p with opcode := 0x95 } stOk
        (destAbort s slot (fld p.w5.toNat 0 24) (opB p))))
  ∧ (∀ s p mid pid pgen slot, HandTakes s p mid pid pgen slot →
      let lcid := fld p.w5.toNat 0 24
      let r := ownRec s slot lcid
      leadFor s slot = ownModule s → actPending s slot lcid = none →
      exec (.ownerQuery p) s = .next (leadReply s slot lcid (.fabric mid pid pgen) { p with opcode := 0x96 } stOk
        (r.owner + r.highest % 2 ^ 32 * 2 ^ 32) (leBytes 8 r.highest)))
  ∧ (∀ s slot lcid m, movingOf (resendOthers s slot lcid) slot lcid = some m → m.st = 11 → m.tries < 4 →
      exec (.handoffRetry slot lcid) s
        = .next (sendOffers (setMoving (resendOthers s slot lcid) { m with tries := m.tries + 1 }) { m with tries := m.tries + 1 }))
  ∧ (∀ s u, actPending s u.slot u.lcid = none → s.part.offers = [] → s.part.tells = [u] → u.tries < 4 →
      let v := sendHand { s with part := { s.part with tells := [{ u with tries := u.tries + 1 }] } } u.mid u.op u.slot u.lcid u.epoch 0 []
      movingOf v u.slot u.lcid = none → v.part.offers = [] → exec (.handoffRetry u.slot u.lcid) s = .next v)
  ∧ (∀ s slot lcid, (ownRec s slot lcid).st = .opened → (getSlot s slot).brec.lead = ownModule s →
      let r := ownRec s slot lcid
      exec (.epochOpenTimeout slot lcid) s = .next (leadChange s { r with st := .aborted }
        { slot := slot, lcid := lcid, q := .side, pkt := {}, status := stOk, epoch := r.epoch, tell := some (r.dst, 0x95), publish := false }))
  ∧ (∀ s slot lcid m, movingOf s slot lcid = some m → (m.st = 11 ∨ m.st = 13 ∨ m.st = 14) →
      exec (.handoffLeadTimeout slot lcid) s = .next (loseMove s m (halfOfCore m.srcCore)))
  ∧ (∀ s slot first mid, (getSlot s slot).bound = true → first < (getSlot s slot).brec.lcount → mid < 2 ^ 14 →
      exec (.runTableUpdate slot first mid) s = .next (applyRun s slot first mid))
  ∧ (∀ s slot lcid f m, s.part.flushes.find? (fun f => f.slot == slot && f.lcid == lcid) = some f →
      hostOf (getSlot s slot) lcid = some m →
      exec (.flush slot lcid) s = .next (f.held.foldl (fun s e => if m = ownModule s then
          (match lmapOf (getSlot s slot) lcid with
           | some l => enqueue s l.core e
           | none => s)
        else sendEntry s slot m e) { s with part := { s.part with flushes := s.part.flushes.filter (fun g => !(g.slot == slot && g.lcid == lcid)) } }))

/-- The granary on QP 0 (R66, R67, R68, R69): a load of a READY image answers its base; a load from the host takes granules, after
the evictions it needs, and answers the base; a load from a peer begins a pull; an image with a good digest is sealed; pins are
counted; an image without pins and mappings is evicted; a pull that ends well answers the base, and one that its peer does not go on with is
discarded and answered TIMEOUT. -/
def Obligations.GranaryCommandsComplete : Prop :=
  RunsOn0 .granaryLoad 0x97
      (fun _ p u => p.payload.length = 48 ∧ numAt p.payload 0 8 ≠ 0 ∧ numAt p.payload 40 4 ≤ 1
        ∧ ∃ i x, slotOfPid u p.w6.toNat = some i ∧ (getSlot u i).st ≠ 5 ∧ imageOf u i (opA p) = some x ∧ x.st = 1)
      (fun h p u =>
        let i := (slotOfPid u p.w6.toNat).getD 0
        match imageOf u i (opA p) with
        | some x => answerAt (.mgmt h) p stOk (fpaOf (setImage u i { x with used := u.dev.now }) x.base) (setImage u i { x with used := u.dev.now })
        | none => u)
  ∧ (∀ s h p i l, MgmtTakes s h { p with opcode := 0x97 } →
      let P : Pkt := { p with opcode := 0x97 }
      let u := taken s h P
      let size := numAt p.payload 0 8
      let n := ceilDiv size granSpan
      let b := (getSlot u i).brec
      p.payload.length = 48 → size ≠ 0 → slotOfPid u p.w6.toNat = some i → (getSlot u i).st ≠ 5 → imageOf u i (opA p) = none →
      evictPlan n b.granary (evictable u i) (granaryUsed u i) (freeHbm u i).length (getSlot u i).images.length = some l →
      let v := l.foldl (fun s x => dropImage s i x.model) u
      let gr := pickGrans n (freeHbm v i)
      let w := gr.foldl (fun s k => setTag s (false, k) { slot := i, shared := true, conf := b.conf, st := 1 }) v
      let x : Image := { model := opA p, base := granBase (false, gr.headD 0), size := size, granules := gr, digest := sliceZ p.payload 8 32, host := true, peer := fld (numAt p.payload 44 4) 0 14, st := 0, pins := 0, maps := 0, used := w.dev.now, id := none }
      let put (x : Image) (s : State) : State := setSlot s i { getSlot s i with images := (getSlot s i).images ++ [x] }
      (numAt p.payload 40 4 = 0 →
        exec (.granaryLoad p) s = .next (wakeAll (answerAt (.mgmt h) P stOk (fpaOf (put x w) x.base) (put x w))))
      ∧ (numAt p.payload 40 4 = 1 → inRunTable u i (fld (numAt p.payload 44 4) 0 14) = true → fld (numAt p.payload 44 4) 0 14 ≠ ownModule u →
        exec (.granaryLoad p) s = .next (wakeAll
          (put { x with host := false, id := some w.fe.nextId } (begin (.mgmt h) P (.pull i (opA p)) 0 w)))))
  ∧ (∀ s h p i x l u', MgmtTakes s h { p with opcode := 0x98 } →
      let P : Pkt := { p with opcode := 0x98 }
      let u := taken s h P
      p.payload = [] → slotOfPid u p.w6.toNat = some i → imageOf u i (opA p) = some x → x.st = 0 → x.host = true →
      imageBytes x.granules x.size [] u = (some l, u') → shake256 l 32 = x.digest →
      let v := x.granules.foldl (fun s k => setTag s (false, k) { getTag s (false, k) with ro := true }) u'
      exec (.granarySeal p) s = .next (wakeAll (answer (.mgmt h) P stOk (setImage v i { x with st := 1, used := v.dev.now, id := none }))))
  ∧ (∀ s h p i x, MgmtTakes s h { p with opcode := 0x99 } →
      let P : Pkt := { p with opcode := 0x99 }
      let u := taken s h P
      p.payload = [] → slotOfPid u p.w6.toNat = some i → imageOf u i (opA p) = some x → x.st ≠ 0 →
      (bitAt p.w7.toNat 0 = true → x.pins < 65535 →
        exec (.granaryPin p) s = .next (wakeAll (answer (.mgmt h) P stOk (setImage u i { x with pins := x.pins + 1 }))))
      ∧ (bitAt p.w7.toNat 0 = false → x.pins ≠ 0 →
        exec (.granaryPin p) s = .next (wakeAll (answer (.mgmt h) P stOk (setImage u i { x with pins := x.pins - 1 })))))
  ∧ (∀ s h p i x, MgmtTakes s h { p with opcode := 0x9A } →
      let P : Pkt := { p with opcode := 0x9A }
      let u := taken s h P
      p.payload = [] → slotOfPid u p.w6.toNat = some i → imageOf u i (opA p) = some x → x.st ≠ 0 → x.pins = 0 → x.maps = 0 →
      exec (.granaryEvict p) s = .next (wakeAll (answer (.mgmt h) P stOk (dropImage u i x.model))))
  ∧ (∀ s slot model data x id b l v, pulling s slot model = some x → x.id = some id →
      imageBytes x.granules x.size [] (writeImage s x data) = (some l, v) → shake256 l 32 = x.digest →
      let w := x.granules.foldl (fun s k => setTag s (false, k) { getTag s (false, k) with ro := true }) v
      let t := setImage w slot { x with st := 1, used := w.dev.now, id := none }
      findBegun t id = some b →
      exec (.granaryPeerPullEnd slot model data) s
        = .next (wakeAll (answerAt b.q b.pkt stOk (fpaOf (dropBegun t id) x.base) (dropBegun t id))))
  ∧ (∀ s slot model x id, pulling s slot model = some x → x.id = some id →
      exec (.granaryPeerTimeout slot model) s = .next (wakeAll (finishStatus id stTimeout (dropImage s slot x.model))))

/-- Teardown and lost peers (R44, R319, R322, R323): a context's work is stopped, then what it held is released once its
requests have drained, then its granules are zeroed and CTX_DESTROY is answered; an unanswered notice goes out again and then
its member is failed; a neighbour all of whose ports are down or silent is failed. -/
def Obligations.TeardownCommandsComplete : Prop :=
  (∀ s ctx d, (getCtx s ctx).down = some d → d.step = 0 →
      exec (.contextTeardown ctx) s = .next (wakeAll (stopWork s ctx (downStatus s ctx))))
  ∧ (∀ s ctx d, (getCtx s ctx).down = some d → d.step = 1 →
      let u := drained s ctx d
      exec (.teardownDrainDone ctx) s = .next (wakeAll (unbindCheck (setCtx u ctx { getCtx u ctx with
        down := if (getCtx s ctx).st = 2 then none else some { d with step := 2 } }))))
  ∧ (∀ s ctx d, (getCtx s ctx).down = some d → (getCtx s ctx).st = 3 → d.step = 2 →
      let u := unmapImages s (getCtx s ctx).slot (getCtx s ctx).ranges
      exec (.teardownZeroDone ctx) s = .next (wakeAll (slotCheck (destroyEnd d.destroy
        (setCtx ((ownGrans u ctx).foldl freeGran u) ctx { gen := (getCtx s ctx).gen })) (getCtx s ctx).slot)))
  ∧ (∀ s ctx mid n, s.part.notices.find? (fun n => n.ctx == ctx && n.mid == mid) = some n →
      (n.tries < 8 →
        let u := { s with part := { s.part with notices := s.part.notices.map (fun m => if m == n then { n with tries := n.tries + 1 } else m) } }
        exec (.peerNoticeRetry ctx mid) s = .next (sendForSlot u mid (getCtx u ctx).slot ctx (noticePkt u ctx
          { lostRecord u ctx { code := 0, status := stLost, step := 2, destroy := none, live := false } with seq := n.seq })))
      ∧ (8 ≤ n.tries → exec (.peerNoticeRetry ctx mid) s
          = .next (peerFailed { s with part := { s.part with notices := s.part.notices.erase n } } mid)))
  ∧ (∀ s mid, portsTo s mid ≠ [] → (portsTo s mid).all (fun q => (getPort s q).st == 3 || (getPort s q).st == 2) = true →
      exec (.peerSilent mid) s = .next (peerFailed s mid))

/-- Link key agreement (R367-R369): a good CHAIN is answered with this module's own and makes the peer verified, a good INIT
with RESP, a good RESP with CONFIRM, a good CONFIRM installs the keys; a refused agreement is tried again, given up after its
time, and a superseded key is destroyed. -/
def Obligations.KexCommandsComplete : Prop :=
  (∀ s p mid pid pgen i, FabricTakes s (kexRow p 0) mid pid pgen →
      let q : QRef := .fabric mid pid pgen
      let pl := (kexRow p 0).payload
      idExhausted s = false → pl.length = 3048 → kexGate s mid pl = .ok i → kexIni pl = mid → kexRsp pl = ownModule s →
      chainOk s (sliceZ pl 32 68) (sliceZ pl 100 2948) = true →
      let v : Peer := { mid := mid, pub := sliceZ pl 32 68, serial := sliceZ (sliceZ pl 100 2948) 4 16 }
      let u := answer q (kexRow p 0) stOk { s with fab := { s.fab with verified := s.fab.verified.filter (fun w => !(w.mid == mid)) ++ [v] } }
      let w := sendPlain u none (commandPkt u mid 0 0 (mgmtUnit u) mid (kexPkt i 4 (sliceZ pl 0 32 ++ sized 68 (identityPub u) ++ certBytes u)))
      exec (.linkKexChain p) s = .next ((w.fab.kex.filter (fun x => x.peer == mid && x.initiator && x.st == 0)).foldl kexGo w))
  ∧ (∀ s p mid pid pgen i sig, FabricTakes s (kexRow p 1) mid pid pgen →
      let q : QRef := .fabric mid pid pgen
      let pl := (kexRow p 1).payload
      let hd := [2] ++ sliceZ pl 1 31
      let n := takeNum s
      let ct := sized 1568 (Config.kemCipher (kexBody pl) n.1)
      let a := attSign n.2 (shake256 pl 32 ++ hd ++ sized 2980 n.2.sec.attCert ++ ct)
      idExhausted s = false → pl.length = 7080 → kexGate s mid pl = .ok i → s.fab.kex.find? (fun x => x.slot == i && x.peer == mid && x.initiator && x.st == 1) = none →
      kexIni pl = mid → kexRsp pl = ownModule s → attCertOk s mid (kexCert pl) = true →
      attSigOk (kexCert pl) (sliceZ pl 0 4580) (kexSig pl) = true → a.1 = some sig →
      let rp := hd ++ sized 2980 a.2.sec.attCert ++ ct ++ sig
      let x : Kex := { slot := i, peer := mid, keyix := kexKeyix pl, initiator := false, st := 3, seed := n.1, init := pl, resp := rp }
      let u := dropKex a.2 x
      exec (.linkKexInit p) s = .next (sendReply q (kexRow p 1) { replyTo (kexRow p 1) stOk with payload := rp }
        { u with fab := { u.fab with kex := u.fab.kex ++ [x] } }))
  ∧ (∀ s p mid pid pgen x, FabricTakes s { withByte p 0 2 with opcode := 0xF0 } mid pid pgen →
      let pl := (withByte p 0 2).payload
      s.fab.kex.find? (fun x => x.slot == fld p.seq.toNat 0 8 && x.peer == mid && x.initiator) = some x → x.st = 1 →
      fld p.seq.toNat 8 8 = 1 → p.status = stOk → pl.length = 7080 → x.peer = mid → kexGate s x.peer pl = .ok x.slot →
      kexIni pl = ownModule s → kexRsp pl = x.peer → sliceZ pl 1 31 = sliceZ x.init 1 31 → attCertOk s x.peer (kexCert pl) = true →
      attSigOk (kexCert pl) (shake256 x.init 32 ++ sliceZ pl 0 4580) (kexSig pl) = true →
      let k := kexK (Config.kemSecret (kexBody pl) x.seed) x.init pl
      let u := setKex s { x with st := 2, resp := pl }
      exec (.linkKexResp p) s = .next (sendPlain u none (commandPkt u x.peer 0 0 (mgmtUnit u) x.peer
        (kexPkt x.slot 3 ([3] ++ sliceZ x.init 1 31 ++ kexConfirmVal k x.init pl)))))
  ∧ (∀ s p mid pid pgen i x, FabricTakes s (kexRow p 3) mid pid pgen →
      let q : QRef := .fabric mid pid pgen
      let pl := (kexRow p 3).payload
      idExhausted s = false → pl.length = 64 → kexGate s mid pl = .ok i →
      s.fab.kex.find? (fun x => x.slot == i && x.peer == mid && !x.initiator && x.st == 3) = some x →
      let k := kexK (Config.kemSecret (kexBody x.init) x.seed) x.init x.resp
      sliceZ pl 1 31 = sliceZ x.init 1 31 → sliceZ pl 32 32 = kexConfirmVal k x.init x.resp →
      exec (.linkKexConfirm p) s = .next (kexInstall (answer q (kexRow p 3) stOk s) x k))
  ∧ (∀ s slot peer x i, s.fab.kex.find? (fun x => x.slot == slot && x.peer == peer && x.initiator && x.st == 4) = some x →
      freeKeyix s slot peer = some i → exec (.linkKexRetry slot peer) s = .next (kexAgain s { x with keyix := i }))
  ∧ (∀ s slot peer x, s.fab.kex.find? (fun x => x.slot == slot && x.peer == peer && x.initiator && !x.held.isEmpty) = some x →
      exec (.linkKexGiveUp slot peer) s
        = .next (wakeAll (loseAll (heldCtxs s slot peer) stLost 0 (dropKex (kexRefused s (some slot) peer 0) x))))
  ∧ (∀ s slot peer keyix, exec (.linkKeyExpire slot peer keyix) s = .next { s with fab := { s.fab with
      keys := s.fab.keys.filter (fun k => !(k.slot == slot && k.peer == peer && k.keyix == keyix && k.newer)) } })

/-- Key updates and attestation (R358-R361, R363-R365): an update that passes every check of R359 takes effect in the secure
store, is answered, and resets the module where it changes the life-cycle state; ATTEST answers the chain, or a quote with its
signature and certificate. -/
def Obligations.SecurityCommandsComplete : Prop :=
  RunsVia .claimOwner (fun p => updRow p 0) (fun _ p u => updCheck u p (keyUpdOf p.payload) = none)
      (fun h p u =>
        let k := keyUpdOf p.payload
        moduleReset (answer (.mgmt h) p stOk { u with sec := { u.sec with
          updCnt := BitVec.ofNat 32 k.counter, epoch := u.sec.epoch + 1, lc := 2, owner := some k.body } }) 0 0 false)
  ∧ RunsVia .transferOwner (fun p => updRow p 1) (fun _ p u => updCheck u p (keyUpdOf p.payload) = none)
      (fun h p u =>
        let k := keyUpdOf p.payload
        moduleReset (answer (.mgmt h) p stOk { u with sec := { u.sec with
          updCnt := BitVec.ofNat 32 k.counter, epoch := u.sec.epoch + 1, owner := some k.body } }) 0 0 false)
  ∧ RunsVia .enterDebug (fun p => updRow p 2) (fun _ p u => updCheck u p (keyUpdOf p.payload) = none)
      (fun h p u => moduleReset (answer (.mgmt h) p stOk { u with sec := { u.sec with
        updCnt := BitVec.ofNat 32 (keyUpdOf p.payload).counter, epoch := u.sec.epoch + 1, lc := 3 } }) 0 0 false)
  ∧ RunsVia .leaveDebug (fun p => updRow p 3) (fun _ p u => updCheck u p (keyUpdOf p.payload) = none)
      (fun h p u => moduleReset (answer (.mgmt h) p stOk { u with sec := { u.sec with
        updCnt := BitVec.ofNat 32 (keyUpdOf p.payload).counter, epoch := u.sec.epoch + 1, lc := 2 } }) 0 0 false)
  ∧ RunsVia .enterRma (fun p => updRow p 4) (fun _ p u => updCheck u p (keyUpdOf p.payload) = none)
      (fun h p u => moduleReset (answer (.mgmt h) p stOk { u with sec := { u.sec with
        updCnt := BitVec.ofNat 32 (keyUpdOf p.payload).counter, epoch := u.sec.epoch + 1, lc := 4, owner := none } }) 0 0 false)
  ∧ RunsVia .rmaReturn (fun p => updRow p 5) (fun _ p u => updCheck u p (keyUpdOf p.payload) = none)
      (fun h p u => moduleReset (answer (.mgmt h) p stOk { u with sec := { u.sec with
        updCnt := BitVec.ofNat 32 (keyUpdOf p.payload).counter, epoch := u.sec.epoch + 1, lc := 1 } }) 0 0 false)
  ∧ RunsVia .retire (fun p => updRow p 6) (fun _ p u => updCheck u p (keyUpdOf p.payload) = none)
      (fun h p u => moduleReset (answer (.mgmt h) p stOk { u with sec := { u.sec with
        updCnt := BitVec.ofNat 32 (keyUpdOf p.payload).counter, epoch := u.sec.epoch + 1, lc := 5, owner := none, mus := false } }) 0 0 false)
  ∧ RunsVia .fwFloor (fun p => updRow p 7) (fun _ p u => updCheck u p (keyUpdOf p.payload) = none)
      (fun h p u =>
        let k := keyUpdOf p.payload
        answer (.mgmt h) p stOk { u with sec := { u.sec with
          updCnt := BitVec.ofNat 32 k.counter, fwFloor := BitVec.ofNat 32 (numAt k.body 0 4) } })
  ∧ RunsVia .installCert (fun p => updRow p 8) (fun _ p u => updCheck u p (keyUpdOf p.payload) = none)
      (fun h p u =>
        let k := keyUpdOf p.payload
        answer (.mgmt h) p stOk { u with sec := { u.sec with updCnt := BitVec.ofNat 32 k.counter, cert := some k.body } })
  ∧ RunsVia .attestChain (fun p => attRow p 0)
      (fun _ p u => p.payload.length = 0 ∧ u.sec.lc ≠ 0 ∧ u.sec.lc ≠ 5 ∧ idExhausted u = false)
      (fun h p u =>
        let cert := u.sec.cert.getD []
        sendReply (.mgmt h) p { replyTo p stOk with w6 := BitVec.ofNat 32 cert.length, payload := sized 68 (identityPub u) ++ cert } u)
  ∧ RunsVia .quoteModule (fun p => attRow p 1)
      (fun _ p u =>
        let v := if 1024 ≤ u.sec.attUsed then newAttKey u else u
        p.payload.length = 32 ∧ u.sec.lc ≠ 0 ∧ u.sec.lc ≠ 5 ∧ idExhausted u = false
          ∧ (attSign v (quoteBody v 1 (sliceZ p.payload 0 32) none)).1.isSome = true)
      (fun h p u =>
        let v := if 1024 ≤ u.sec.attUsed then newAttKey u else u
        let b := quoteBody v 1 (sliceZ p.payload 0 32) none
        let a := attSign v b
        sendReply (.mgmt h) p { replyTo p stOk with payload := b ++ a.1.getD [] ++ sized 2980 a.2.sec.attCert } a.2)
  ∧ RunsVia .quoteSlot (fun p => attRow p 2)
      (fun _ p u =>
        let v := if 1024 ≤ u.sec.attUsed then newAttKey u else u
        p.payload.length = 32 ∧ u.sec.lc ≠ 0 ∧ u.sec.lc ≠ 5 ∧ idExhausted u = false ∧ (slotOfPid u p.w5.toNat).isSome = true
          ∧ (attSign v (quoteBody v 2 (sliceZ p.payload 0 32) (slotOfPid u p.w5.toNat))).1.isSome = true)
      (fun h p u =>
        let v := if 1024 ≤ u.sec.attUsed then newAttKey u else u
        let b := quoteBody v 2 (sliceZ p.payload 0 32) (slotOfPid u p.w5.toNat)
        let a := attSign v b
        sendReply (.mgmt h) p { replyTo p stOk with payload := b ++ a.1.getD [] ++ sized 2980 a.2.sec.attCert } a.2)

/-- Collectives (R274, R278-R283): a stream whose doorbell has come reads its descriptor, checks it and begins; announcements,
segments and aborts of the other ranks are taken, those for a collective not begun kept for its turn; a collective that has
everything writes its result and ends its turn; one that waits too long is aborted. -/
def Obligations.CollectiveCommandsComplete : Prop :=
  (∀ s n d s1 tab s2 s3 l s4, (getStream s n).st = 1 → (getStream s n).ready = true → (getStream s n).cur = none →
      halfOff s (halfOfStream n) = false → vRead s n (descAt (getStream s n)) 128 = .ok d s1 →
      readGroup s1 n (numAt d 0x18 8) = .ok tab s2 →
      let c := collOf d tab
      descFieldsOk d = true → descSizesOk d c.n = true → c.root < c.n → c.rank < c.n → c.members[c.rank]? = some (ownModule s2, n) →
      buffersOk s2 n c (numAt d 0x20 8) (numAt d 0x30 8) = (some true, s3) →
      readSend s3 n c (numAt d 0x20 8) (numAt d 0x30 8) = .ok l s4 →
      exec (.collDescriptorStart n) s = .next (beginColl s4 n { c with own := l }))
  ∧ (∀ s n rank gid sq crc c, (getStream s n).st = 1 → (getStream s n).cur = some c → c.groupId = gid → c.seq = sq →
      (s.fab.collMsgs.contains (.announce n rank gid sq crc) || farRank s c rank) = true →
      let u := { s with fab := { s.fab with collMsgs := s.fab.collMsgs.erase (.announce n rank gid sq crc) } }
      (crc = c.crc → exec (.collAnnounce n rank ⟨gid, sq⟩ crc) s = .next (collAdvance (setStream u n { getStream s n with
        cur := some { c with announced := (c.announced ++ [rank]).eraseDups } }) n))
      ∧ (crc ≠ c.crc → exec (.collAnnounce n rank ⟨gid, sq⟩ crc) s
        = .next (collStop (loseStatus (getStream s n).ctx stLost (halfOfStream n) u) n c stLost stLost)))
  ∧ (∀ s n rank gid sq crc, (getStream s n).st = 1 → (∀ c, (getStream s n).cur = some c → ¬ (c.groupId = gid ∧ c.seq = sq)) →
      let u := { s with fab := { s.fab with collMsgs := s.fab.collMsgs.erase (.announce n rank gid sq crc) } }
      exec (.collAnnounce n rank ⟨gid, sq⟩ crc) s
        = .next (setStream u n { getStream s n with early := (getStream s n).early ++ [(rank, gid, sq, crc)] }))
  ∧ (∀ s n rank gid sq off data c, (getStream s n).cur = some c → c.groupId = gid → c.seq = sq →
      (s.fab.collMsgs.contains (.seg n gid sq rank off data) || farRank s c rank) = true → (sendersOf c).contains rank = true →
      c.contrib.any (fun e => e.1 == rank && e.2.1 == off) = false →
      let u := { s with fab := { s.fab with collMsgs := s.fab.collMsgs.erase (.seg n gid sq rank off data) } }
      let c' := { c with contrib := c.contrib ++ [(rank, off, data)] }
      exec (.coll n rank ⟨⟨gid, sq⟩, off⟩ data) s = .next (giveGrants (collAdvance (setStream u n { getStream s n with
        cur := some (if (gotFrom c' rank).isSome then { c' with arrived := c'.arrived ++ [rank] } else c') }) n) n))
  ∧ (∀ s n c, (getStream s n).cur = some c → collDone c = true → halfOff s (halfOfStream n) = false →
      let r := ofUnits c.op c.type c.red ((collFinal c).1.length / unitBytes c.op c.type) (collFinal c).1
      let u := setStream s n { getStream s n with cur := some { c with wrote := true } }
      let t := if c.wrote then s else bufWrite (bufWrite u n c.recv r.1) n c.rgrid r.2.1
      ((getStream t n).far.any (fun p => p.st.isNone) = true → exec (.collComplete n) s = .next t)
      ∧ ((getStream t n).far.any (fun p => p.st.isNone) = false →
        exec (.collComplete n) s = .next (finishColl t n c (collFinal c).2 r.2.2)))
  ∧ (∀ s n gid sq status c, (getStream s n).cur = some c → c.groupId = gid → c.seq = sq →
      (s.fab.collMsgs.contains (.abort n gid sq status) || (othersOf c).any (farRank s c)) = true →
      let u := { s with fab := { s.fab with collMsgs := s.fab.collMsgs.erase (.abort n gid sq status) } }
      exec (.collAbort n ⟨⟨gid, sq⟩, status⟩) s
        = .next (endTurn (if status = stLost then loseStatus (getStream s n).ctx stLost (halfOfStream n) u else u) n status none))
  ∧ (∀ s n gid sq status, (getStream s n).st = 1 → (∀ c, (getStream s n).cur = some c → ¬ (c.groupId = gid ∧ c.seq = sq)) →
      tabGet (fun _ => none) (getStream s n).ended gid ≠ some sq →
      let u := { s with fab := { s.fab with collMsgs := s.fab.collMsgs.erase (.abort n gid sq status) } }
      exec (.collAbort n ⟨⟨gid, sq⟩, status⟩) s
        = .next (setStream u n { getStream s n with aborts := (getStream s n).aborts ++ [(gid, sq, status)] }))
  ∧ (∀ s n c, (getStream s n).cur = some c → (getStream s n).timeout ≠ 0 →
      ((exchangeOf c).any (fun r => !c.announced.contains r) || (sendersOf c).any (fun r => (gotFrom c r).isNone)) = true →
      exec (.collTimeout n) s = .next (collStop s n c stTimeout stTimeout))

/-- The weighbridge (R372-R386): the module makes feed frames and the weighbridge takes good ones; it pairs; a second ends with its
record, sixty make a signed block, input loss and its return keep the record whole; it answers what is read of it, takes new
firmware and authority messages, notices a broken seal, and mirrors its readings to the module. -/
def Obligations.WeighbridgeCommandsComplete : Prop :=
  (∀ s f k, s.sec.feedKey = some k → s.dev.phase = .ready →
      ∃ t, exec (.feedFrameSend f) s = .next t ∧ t.sec.feedSeq = s.sec.feedSeq + 1 ∧ t.sec.feedStored = (feedAdvance s.sec).feedStored
        ∧ ∃ b, t.sec.feedOut = b ++ kmac256 k b 32 (ascii "IAF feed") ∧ t = { s with sec := t.sec })
  ∧ (∀ s bytes, s.wb.power = true → feedGood s.wb bytes = true →
      (∀ f, s.wb.frame = some f → s.wb.frameAge = 0 → exec (.feedFrameReceive bytes) s = .next { s with wb := { s.wb with
        frame := some (feedSum f (feedFrameOf bytes)), frameAge := 0, lastFeed := BitVec.ofNat 32 (numAt bytes 4 4), feedOk := true } })
      ∧ ((s.wb.frame = none ∨ s.wb.frameAge ≠ 0) → exec (.feedFrameReceive bytes) s = .next { s with wb := { s.wb with
        frame := some (feedFrameOf bytes), frameAge := 0, lastFeed := BitVec.ofNat 32 (numAt bytes 4 4), feedOk := true } }))
  ∧ (∀ s bytes, s.wb.power = true → feedGood s.wb bytes = false →
      exec (.feedFrameReceive bytes) s = .next { s with wb := { s.wb with feedRej := sat32 s.wb.feedRej, rejected := true, feedOk := false } })
  ∧ (∀ s bytes, s.wb.power = true → bytes.length = 1588 → numAt bytes 0 4 = 0x464400A1 → auditFull s.wb = false →
      (s.wb.paired = none ∨ s.wb.paired = some (sliceZ bytes 4 16)) →
      exec (.pairWb bytes) s = .next { s with wb := auditAdd { s.wb with
        paired := some (sliceZ bytes 4 16), pairings := s.wb.pairings + 1,
        feedKey := some (feedKeyOf (Config.kemSecret (sliceZ bytes 20 1568) wbKem) (wbSerial s.wb) (sliceZ bytes 4 16)) } 3 (sliceZ bytes 4 16) })
  ∧ (∀ s m, s.wb.power = true → s.wb.recs.length < 60 →
      ∃ t r, exec (.wbSecondClose m) s = .next t ∧ t.wb.recs = s.wb.recs ++ [r] ∧ t.wb.lastRec = some r ∧ r.secNo = s.wb.secNo
        ∧ r.energy = min m.energy 4000000 ∧ r.pPeak = min m.pPeak 4000 ∧ r.flags = secFlags s.wb (min m.energy 4000000) false
        ∧ t.wb.secNo = s.wb.secNo + 1 ∧ t.wb.total = s.wb.total + min m.energy 4000000 ∧ t.wb.gap = false ∧ t = { s with wb := t.wb })
  ∧ (∀ s, s.wb.power = true → 60 ≤ s.wb.recs.length →
      exec .wbBlockClose s = .next { s with wb := closeBlock s.wb false })
  ∧ (∀ s m, s.wb.power = true → s.wb.recs.length < 60 →
      ∃ t r, exec (.wbInputLoss m) s = .next t ∧ t.wb.power = false ∧ t.wb.recs = s.wb.recs ++ [r] ∧ r.secNo = s.wb.secNo
        ∧ r.flags = secFlags s.wb (min m.energy 4000000) true ∧ t.wb.frame = none ∧ t = { s with wb := t.wb })
  ∧ (∀ s, s.wb.power = false →
      let w := auditAdd { s.wb with power := true, gap := true, sigNext := s.wb.sigLim } 4 (leBytes 8 s.wb.sigNext)
      (w.recs = [] → exec .wbPowerReturn s = .next { s with wb := w })
      ∧ (w.recs ≠ [] → exec .wbPowerReturn s = .next { s with wb := closeBlock w (decide (w.recs.length < 60)) }))
  ∧ (∀ s, s.wb.power = true → s.wb.tapMute = false →
      let w := s.wb
      exec .wbInfo s = .next { s with wb := { w with reply := 0 :: sized 64 (wbSerial w ++ sized 16 (w.paired.getD [])
        ++ leBytes 4 w.fwVersion.toNat ++ leBytes 2 w.fwChanges ++ leBytes 2 w.pairings ++ leBytes 4 w.audit.length ++ leBytes 4 w.oldest
        ++ leBytes 4 (newestBlock w) ++ leBytes 1 (b2n w.sealBroken)) } })
  ∧ (∀ s chunk, s.wb.power = true → s.wb.tapMute = false →
      exec (.wbKeys chunk) s = .next { s with wb := { s.wb with
        reply := wbChunk (sized 68 (Config.publicKey wbKey) ++ s.wb.metCert ++ wbEncap) chunk } })
  ∧ (∀ s blockNo chunk, s.wb.power = true → s.wb.tapMute = false →
      let l := if blockNo < s.wb.oldest then [1] else if s.wb.blockNo ≤ blockNo then [2]
        else wbChunk (tabGet (fun _ => []) s.wb.blocks blockNo) chunk
      exec (.readBlock blockNo chunk) s = .next { s with wb := { s.wb with reply := l } })
  ∧ (∀ s entry chunk a, s.wb.power = true → s.wb.tapMute = false → s.wb.audit[entry]? = some a →
      exec (.readAudit entry chunk) s = .next { s with wb := { s.wb with reply := wbChunk (auditBody a ++ a.signature) chunk } })
  ∧ (∀ s off data, s.wb.power = true → s.wb.tapMute = false → data.length ≤ 240 →
      ∃ t, exec (.fwLoad off data) s = .next t ∧ t.wb.reply = [0] ∧ t.wb.stagedLen = max s.wb.stagedLen (off + data.length)
        ∧ t.wb.staged = tabSetAll (fun _ => 0) s.wb.staged ((List.range data.length).map (fun i => (off + i, data.getD i 0)))
        ∧ t = { s with wb := t.wb })
  ∧ (∀ s, s.wb.power = true → s.wb.tapMute = false → s.wb.fwNext = none → authSigned s.wb (wbImage s.wb) = true → auditFull s.wb = false →
      exec .fwCommit s = .next (wbReply { s with wb := auditAdd { s.wb with
        fwNext := some (BitVec.ofNat 32 (numAt (wbImage s.wb) 0 4)), staged := [], stagedLen := 0 } 1 (shake256 (wbImage s.wb) 32) } [0]))
  ∧ (∀ s bytes, s.wb.power = true → s.wb.tapMute = false → bytes ≠ [] → numAt bytes 0 1 = 0 →
      exec (.authority bytes) s = .next (wbReply { s with wb := { s.wb with message := s.wb.message ++ bytes.drop 1 } } [0]))
  ∧ (∀ s bytes, s.wb.power = true → s.wb.tapMute = false → bytes ≠ [] → numAt bytes 0 1 ≠ 0 →
      let m := s.wb.message ++ bytes.drop 1
      authSigned s.wb m = true → auditFull s.wb = false →
      (numAt m 0 1 = 1 → m.length = 2821 → exec (.authority bytes) s
        = .next (wbReply { s with wb := auditAdd { s.wb with message := [], paired := none, feedKey := none } 3 (s.wb.paired.getD []) } [0]))
      ∧ (numAt m 0 1 = 2 → m.length = 2889 → exec (.authority bytes) s
        = .next (wbReply { s with wb := auditAdd { s.wb with message := [], authority := sliceZ m 1 68 } 2 (keyId (sliceZ m 1 68)) } [0])))
  ∧ (∀ s, s.wb.sealBroken = false → auditFull s.wb = false →
      ∃ t a, exec .sealBreach s = .next t ∧ t.wb.sealBroken = true ∧ t.wb.feedKey = none ∧ t.wb.audit = s.wb.audit ++ [a] ∧ a.kind = 5
        ∧ a.signature = sized 5605 (Config.xmssSign wbKey (2 ^ 40 - 1) (auditBody a)) ∧ t = { s with wb := t.wb })
  ∧ (∀ s, s.wb.power = true → s.dev.phase = .ready → s.sec.pairDue = false →
      exec .mirrorFrame s = .next { s with wb := { s.wb with mirror := mirrorOf s } })
  ∧ (∀ s, s.wb.power = true → s.dev.phase = .ready → s.sec.pairDue = true → s.wb.paired ≠ some (serialBytes s) →
      exec .mirrorFrame s = .next (pairSend { s with wb := { s.wb with mirror := mirrorOf s } }))
  ∧ (∀ s, s.wb.mirror.present = true → exec .mirrorLost s = .next (logNote { cls := 0x19, sev := 0, unitKind := 14 }
      { s with wb := { s.wb with mirror := { s.wb.mirror with present := false } } }))

/-- Registers by packet and what the ports and the sideband hand over (R180, R398, R161, R162, R167, R399, R322): REG_READ
answers the words of its extent; REG_WRITE writes them in order and answers how far it came; a COMPLETION that answers a peer
notice or a command's message ends it; an ERROR_REPORT of a peer's loss makes the context LOST and is answered; an
acknowledgement frees the oldest packet of its source; the sideband reads and gives up replies. -/
def Obligations.RegisterPacketsComplete : Prop :=
  RunsOn0 .regRead 0x80
      (fun _ p u => p.w6.toNat ≠ 0 ∧ p.w6.toNat ≤ 2048 ∧ extentCheck u (opA p) p.w6.toNat = none)
      (fun h p u =>
        let r := readExtent p.w6.toNat h (opA p) u
        sendReply (.mgmt h) p { replyTo p stOk with payload := r.1 } r.2)
  ∧ RunsOn0 .regWrite 0x81
      (fun _ p u => bitAt p.w6.toNat 0 = false ∧ p.payload.length ≠ 0 ∧ p.payload.length ≤ 8192 ∧ p.payload.length % 4 = 0
        ∧ extentCheck u (opA p) (p.payload.length / 4) = none)
      (fun h p u =>
        let r := writeWords (payloadWords p.payload) h 0 (opA p) u
        answerAt (.mgmt h) p (if r.1.1 then stOk else stGuard) r.1.2 r.2)
  ∧ RunsOn0 .regWrite 0x81
      (fun _ p u => bitAt p.w6.toNat 0 = true ∧ p.payload.length ≠ 0 ∧ p.payload.length ≤ 8192 ∧ p.payload.length % 8 = 0
        ∧ extentCheck u (opA p) (p.payload.length / 8) = none)
      (fun h p u =>
        let r := writePairs (payloadPairs p.payload) h 0 (opA p) u
        answerAt (.mgmt h) p (if r.1.1 then stOk else stGuard) r.1.2 r.2)
  ∧ RunsOnFabric .completion 0xF0
      (fun q p u => ∃ mid pid pgen, q = .fabric mid pid pgen
        ∧ u.part.notices.any (fun n => n.mid == mid && n.ctx == p.ctx && n.seq == p.seq) = true)
      (fun q p u =>
        let mid := match q with
          | .fabric mid _ _ => mid
          | _ => 0
        wakeAll { u with part := { u.part with
          notices := u.part.notices.filter (fun n => !(n.mid == mid && n.ctx == p.ctx && n.seq == p.seq)) } })
  ∧ (∀ s p mid pid pgen b h v, p.src = .fabric mid pid pgen → s.dev.phase = .ready → fabGate s pid pgen = .pass →
      s.part.notices.any (fun n => n.mid == mid && n.ctx == p.ctx && n.seq == p.seq) = false → p.seq.toNat < 2 ^ 30 →
      findBegun s p.seq.toNat = some b → b.job = .remoteRecord h v →
      exec (.completion p) s = .next (wakeAll (answer b.q b.pkt p.status (dropBegun s p.seq.toNat))))
  ∧ RunsOnFabric .errorReport 0xF2
      (fun _ p u =>
        let ctx := fld (numAt p.payload 12 4) 6 10
        fld (numAt p.payload 4 4) 0 8 = 0x16
        ∧ ∃ slot, slotOfPid u (numAt p.payload 16 4) = some slot ∧ (getCtx u ctx).st = 1 ∧ (getCtx u ctx).slot = slot)
      (fun q p u =>
        let ctx := fld (numAt p.payload 12 4) 6 10
        answer q p stOk (setDown (lose ctx (fld (numAt p.payload 4 4) 16 16) stLost 0 u) ctx (fun d => { d with quiet := true })))
  ∧ (∀ s port n start r t, (getFe s port).up = true → (getQp s n).cq = (start, r) :: t → (getQp s n).source = false →
      (getQp s n).port = port →
      exec (.haldipReplyAck port (.ring n)) s = .next (unbindCheck
        (setQp s n { getQp s n with cq := t, cqHead := start + slotBytes r.payload.length })))
  ∧ (∀ s port, (getFe s port).up = true →
      exec (.haldipReplyAck port .store) s = .next (setFe s port { getFe s port with store := (getFe s port).store.drop 1 })
      ∧ exec (.haldipReplyAck port .refusal) s
        = .next (setFe s port { getFe s port with refusals := (getFe s port).refusals.drop 1 }))
  ∧ (∀ s port r t, (getFe s port).up = true → (getFe s port).reports = r :: t →
      exec (.haldipReplyAck port .report) s = .next (drainAll
        (if r.opcode = 0xF2 then markLogRead (setFe s port { getFe s port with reports := t }) r.seq
         else setFe s port { getFe s port with reports := t })))
  ∧ (∀ s r t, sideAnswers s = true → s.fe.sideHeld = r :: t →
      exec .smbBlockRead s = .next { s with fe := { s.fe with sideHeld := t, sideOut := replyBytes r } })
  ∧ (∀ s, sideAnswers s = true → s.fe.sideHeld = [] →
      exec .smbBlockRead s = .next { s with fe := { s.fe with sideOut := [0] } })
  ∧ (∀ s, sideAnswers s = true →
      exec .smbReadByte s = .next { s with fe := { s.fe with sideOut :=
        [(if s.fe.sideHeld = [] then 0 else 1) + (if 4 ≤ s.fe.sideHeld.length then 2 else 0)] } })
  ∧ (∀ s, exec .smbBusTimeout s = .next { s with fe := { s.fe with sideOut := [] } })

/-- Units and recovery (R63, R306, R314, R324, R325): a unit's fencing, scrub and test take it from QUARANTINE through SCRUB and
BIST to READY or FAILED; an escalation passes from step to step; a hang, a failed sheaf, channel, seam or management complex is
met as its rule says; a module reset starts the next boot epoch. -/
def Obligations.RecoveryCommandsComplete : Prop :=
  (∀ s u, unitExists u = true → escOf s u = none → unitSt s u = .quarantine → s.units.out.contains u = false → substOn s u = false →
      halfOff s (halfOfUnit u) = false → ((u.kind = 4 ∨ u.kind = 6) → (getDie s (halfOfUnit u)).pins = false) →
      exec (.unitFenceDone u) s = .next (setUnit (escEnd s u) u .scrub))
  ∧ (∀ s m, m < 36 → escOf s ⟨1, m⟩ = some { u := ⟨1, m⟩, step := 2 } →
      exec (.unitFenceDone ⟨1, m⟩) s = .next (wakeAll (sheafReset s m)))
  ∧ (∀ s h, h < 2 → escOf s ⟨12, h⟩ = some { u := ⟨12, h⟩, step := 4 } →
      exec (.unitFenceDone ⟨12, h⟩) s = .next (escStep s ⟨12, h⟩ 5))
  ∧ (∀ s h, h < 2 → escOf s ⟨12, h⟩ = some { u := ⟨12, h⟩, step := 5 } →
      exec (.unitFenceDone ⟨12, h⟩) s = .next (halfReset (escEnd s ⟨12, h⟩) h))
  ∧ (∀ s u, unitExists u = true → unitSt s u = .scrub → halfOff s (halfOfUnit u) = false →
      exec (.unitScrubDone u) s = .next (setUnit (scrubUnit s u) u .bist))
  ∧ (∀ s u, unitExists u = true → unitSt s u = .bist → halfOff s (halfOfUnit u) = false → svcOn s u = false →
      exec (.unitBistDone u true) s = .next (unitPass s u) ∧ exec (.unitBistDone u false) s = .next (unitFail s u))
  ∧ (∀ s u, unitExists u = true → unitSt s u = .bist → halfOff s (halfOfUnit u) = false → svcOn s u = true →
      exec (.unitBistDone u true) s
        = .next (if fld s.units.svcCmd.toNat 16 2 = 1 then svcEnd (setUnit s u .quarantine) stOk else svcEnd (unitPass s u) stOk)
      ∧ exec (.unitBistDone u false) s = .next (svcEnd (unitFail s u) stUnc))
  ∧ (∀ s chan, chan < 192 → unitSt s ⟨2, chan⟩ ≠ .failed → s.mem.migr.find? (fun m => m.src == chan || m.dst == chan) = none →
      exec (.hbmChannelFailure chan) s = .next (wakeAll (chanFails s chan)))
  ∧ (∀ s chan m, chan < 192 → unitSt s ⟨2, chan⟩ ≠ .failed → s.mem.migr.find? (fun m => m.src == chan || m.dst == chan) = some m →
      exec (.hbmChannelFailure chan) s = .next (wakeAll (chanFails (migrEnd s m m.dst stUnc) chan)))
  ∧ (∀ s u l, unitExists u = true → s.dev.phase = .ready → halfOff s (halfOfUnit u) = false →
      (u.kind = 0 → exec (.unitHang u l) s = .next (wakeAll (coreReset s u.idx l)))
      ∧ (u.kind = 1 → exec (.unitHang u l) s = .next (wakeAll (sheafIsolate s u.idx l)))
      ∧ (u.kind = 7 → exec (.unitHang u l) s = .next (wakeAll (seqCoreFails s u.idx [])))
      ∧ (u.kind = 8 → u.idx = b2n s.res.active → exec (.unitHang u l) s = .next (wakeAll (failover s .failed)))
      ∧ (u.kind = 12 → exec (.unitHang u l) s = .next (wakeAll (halfFence s u.idx 0x17 4))))
  ∧ (∀ s u e, escOf s u = some e →
      (e.step = 1 → exec (.escalationStepTimeout u) s = .next (wakeAll (sheafIsolate (escEnd s u) (sheafOfCore u.idx)
        (((escEnd s u).tens.filter (fun x => x.core == u.idx && x.loc != .swapped)).map refOf))))
      ∧ (e.step = 2 ∨ e.step = 3 → exec (.escalationStepTimeout u) s = .next (wakeAll (halfFence (escEnd s u) (halfOfUnit u) 0x17 4)))
      ∧ (e.step = 4 → exec (.escalationStepTimeout u) s = .next (wakeAll (escStep (escEnd s u) u 5)))
      ∧ (e.step = 5 → exec (.escalationStepTimeout u) s = .next (wakeAll (moduleReset (escEnd s u) 0x17 5 true)))
      ∧ (e.step = 6 → s.dev.phase = .boot → s.dev.bootWaits = none →
        exec (.escalationStepTimeout u) s = .next (wakeAll (moduleStop (escEnd s u)))))
  ∧ (∀ s m, m < 36 → s.units.isolated.contains m = false → s.dev.phase = .ready → halfOff s (halfOfSheaf m) = false →
      exec (.sheafFault m) s = .next (wakeAll (sheafIsolate
        (logNote { cls := 0x0A, sev := 2, unitKind := 1, unit := m, action := 7, half := halfOfSheaf m } s) m [])))
  ∧ (∀ s, s.dev.phase = .ready → halfOff s 1 = false →
      exec .seamCrcFailure s = .next (wakeAll (halfFence
        (logNote { cls := 0x0F, sev := 4, unitKind := 9, action := 8, half := 1 } s) 1 0x0F 4)))
  ∧ (∀ s, exec .mgmtHeartbeat s = .next { s with res := { s.res with takeover := false } })
  ∧ (∀ s, s.dev.phase = .ready → s.res.dormantOk = true →
      let old := b2n s.res.active
      let t := clearLocks (setUnit (logNote { cls := 0x10, sev := 1, unitKind := 8, unit := old, action := 11, half := old } s) ⟨8, old⟩ .failed)
      exec .mgmtFailover s = .next { t with res := { t.res with
        takeover := true, active := !t.res.active, dormantOk := false, failovers := sat8 t.res.failovers } })
  ∧ (∀ s, s.dev.phase ≠ .off → ∃ t, exec .moduleReset s = .next t ∧ t.dev.phase = .boot ∧ t.mem.bytes = [] ∧ t.tens = []
      ∧ t.fe = {} ∧ t.fab = {} ∧ t.ev = {} ∧ t.seq = {} ∧ t.sec.lc = s.sec.lc ∧ t.res.escModule = sat8 s.res.escModule
      ∧ t.res.epoch = s.res.epoch + 1)

/-- Power states (R330, R331, R333-R337, R348, R352): POWER_STATE moves its halves and is answered; a half enters FROST, idles
into LULL, leaves it, wakes by a pin, a beacon or the sideband, and thaws once its rails are confirmed. -/
def Obligations.PowerStatesComplete : Prop :=
  RunsOn0 .powerState 0xC1
      (fun _ p u => fld p.w4.toNat 0 2 < 2 ∧ (List.range 2).filter (fun h => bitAt p.w4.toNat (2 + h)) ≠ []
        ∧ powerStopped u = false ∧ u.dev.coolantFault = false)
      (fun h p u => powerGo (.mgmt h) p (fld p.w4.toNat 0 2) ((List.range 2).filter (fun h => bitAt p.w4.toNat (2 + h))) u)
  ∧ RunsOn0 .powerState 0xC1
      (fun _ p u => fld p.w4.toNat 0 2 = 2 ∧ powerStopped u = false ∧ u.dev.coolantFault = false
        ∧ (List.range 2).filter (fun h => bitAt p.w4.toNat (2 + h)) ≠ []
        ∧ frostOk u ((List.range 2).filter (fun h => bitAt p.w4.toNat (2 + h))) = true)
      (fun h p u => powerGo (.mgmt h) p 2 ((List.range 2).filter (fun h => bitAt p.w4.toNat (2 + h))) u)
  ∧ (∀ s half, s.pwr.frostFor.any (fun e => e.half == half) = true → frostBarred s half = false →
      let u := powerCheck (frostEnter { s with pwr := { s.pwr with frostFor := s.pwr.frostFor.filter (fun e => !(e.half == half)) } } half)
      exec (.frostEntryWindowEnd half) s = .next (wakeAll (if u.dev.wake then thawStart u half else u)))
  ∧ (∀ s half, half < 2 → s.pwr.lullEn = true → halfPwr s half = 0 → s.dev.phase = .ready → halfOff s half = false →
      halfIdle s half = true → s.pwr.frostFor.any (fun e => e.half == half) = false →
      exec (.lullAutoEntry half) s = .next (setHalfPwr s half 1))
  ∧ (∀ s half, half < 2 → halfPwr s half = 1 → exec (.lullExit half) s = .next (setHalfPwr s half 0))
  ∧ (∀ s, s.dev.coolantFault = false → powerStopped s = false → halfPwr s 0 = 2 → halfPwr s 1 = 2 → s.pwr.frostFor = [] →
      let u := { s with dev := { s.dev with wake := true }, pwr := { s.pwr with asleep := false } }
      exec .wakeN s = .next (wakeAll (thawStart (thawStart u 0) 1)))
  ∧ (∀ s, exec .wakeNRelease s = .next { s with dev := { s.dev with wake := false } })
  ∧ (∀ s, exec .smbusWake s = .next { s with pwr := { s.pwr with asleep := false } })
  ∧ (∀ s port, port < 2 → halfPwr s port = 2 → s.dev.coolantFault = false → powerStopped s = false → s.pwr.frostFor = [] →
      exec (.haldipWakeBeacon port) s = .next (wakeAll (thawStart { s with pwr := { s.pwr with asleep := false } } port)))
  ∧ (∀ s half failed, s.pwr.thawing.contains half = true → s.pwr.avs.any (fun a => a.half == half && a.kind == 2) = false →
      s.dev.coolantFault = false →
      let u := thawHalf s half failed
      let v := if powerStopped u then u else { u with dev := { u.dev with thermAlert := decide (0 < u.pwr.reduction) } }
      exec (.thaw half failed) s = .next (wakeAll (flushHeldReplies (powerCheck v))))
  ∧ (∀ s, s.dev.coolantFault = true → exec .coolantFaultDeassert s
      = .next { s with dev := { s.dev with coolantFault := false, coolantSince := some s.dev.now } })

/-- Rails, capping, hints, budgets and heat (R306, R339, R340, R343-R348, R350, R351): a confirmed rail is followed by what waits for
it, an unconfirmed one is tried again and then lost, and a shed phase is recorded; the duty, the clock and the telemetry take the
values of their rules; a hinted phase begins and ends; a budget is applied and answered; the temperatures are read and the module stops at its limits. -/
def Obligations.PowerLoopsComplete : Prop :=
  (∀ s half rail a, s.res.takeover = false → s.pwr.avs.find? (fun a => a.half == half && a.rail == rail) = some a →
      let rest := s.pwr.avs.erase a
      (a.kind = 0 ∨ a.kind = 3 → exec (.avsStatusPoll half rail ⟨true, false⟩) s = .next { s with pwr := { s.pwr with avs := rest } })
      ∧ (a.kind = 1 → rest.any (fun b => b.kind == 1) = false → exec (.avsStatusPoll half rail ⟨true, false⟩) s
          = .next { s with pwr := { s.pwr with avs := rest, cur := BitVec.ofNat 12 (min (fmaxEff s) (s.pwr.cur.toNat + 100)) } })
      ∧ (a.kind = 2 → rail = 1 → exec (.avsStatusPoll half rail ⟨true, false⟩) s = .next { s with pwr := { s.pwr with
          avs := rest ++ [{ half := half, rail := 0, tries := 0, kind := 2 }] } })
      ∧ (a.kind = 2 → rail = 0 → exec (.avsStatusPoll half rail ⟨true, false⟩) s = .next { s with pwr := { s.pwr with
          avs := rest ++ [{ half := half, rail := 2, tries := 0, kind := 2 }] } })
      ∧ (a.kind = 2 → rail = 2 → exec (.avsStatusPoll half rail ⟨true, false⟩) s = .next { s with pwr := { s.pwr with avs := rest } })
      ∧ exec (.avsStatusPoll half rail ⟨false, false⟩) s = .next s)
  ∧ (∀ s half rail a, half < 2 → rail < 4 → s.dev.phase = .ready → s.pwr.avs.find? (fun a => a.half == half && a.rail == rail) = some a →
      (a.tries < 3 → exec (.avsTimeout half rail) s = .next { s with pwr := { s.pwr with
          avs := s.pwr.avs.map (fun b => if b == a then { a with tries := a.tries + 1 } else b) } })
      ∧ (3 ≤ a.tries → exec (.avsTimeout half rail) s = .next (wakeAll (railLost s half rail))))
  ∧ (∀ s est tcur, s.dev.phase = .ready → powerStopped s = false →
      let pow := if s.pwr.diverge then max est s.pwr.tel.toNat else est
      let x : Int := (pow : Int) - capEff s
      ∃ t, exec (.dutyWindow est tcur) s = .next t ∧ t.pwr.duty = nextDuty s.pwr.duty tcur x ∧ t.pwr.est = BitVec.ofNat 32 est
        ∧ ((s.pwr.duty ≠ 56 ∨ x ≤ 0) → t.pwr.cur = s.pwr.cur)
        ∧ (s.pwr.duty = 56 → 0 < x → 400 < s.pwr.cur.toNat → t.pwr.cur = BitVec.ofNat 12 (max 400 (s.pwr.cur.toNat - 100))))
  ∧ (∀ s, s.dev.phase = .ready → powerStopped s = false → 0 < s.pwr.dutyWins → 4 * s.pwr.dutyWins ≤ s.pwr.dutySum →
      400 < s.pwr.cur.toNat →
      ∃ t, exec .freqLoopTick s = .next t ∧ t.pwr.cur = BitVec.ofNat 12 (max 400 (s.pwr.cur.toNat - 100))
        ∧ t.pwr.dutySum = 0 ∧ t.pwr.dutyWins = 0)
  ∧ (∀ s half, half < 2 → halfOff s half = false → s.pwr.squalls.toNat < 0xFFFFFF →
      exec (.squallDetect half) s = .next { s with pwr := { s.pwr with
        squall := s.pwr.squall.filter (fun h => !(h == half)) ++ [half], squalls := s.pwr.squalls + 1 } })
  ∧ (∀ s half, exec (.squallRelease half) s
      = .next { s with pwr := { s.pwr with squall := s.pwr.squall.filter (fun h => !(h == half)) } })
  ∧ (∀ s est tel, s.dev.phase = .ready →
      (s.pwr.diverge = false → 9 ≤ s.pwr.bad → 15 * tel < 100 * natDist est tel → s.pwr.diverges.toNat < 0x7FFFFFFF →
        ∃ t, exec (.telemetrySample est tel) s = .next t ∧ t.pwr.diverge = true ∧ t.pwr.diverges = s.pwr.diverges + 1
          ∧ t.pwr.tel = BitVec.ofNat 32 tel)
      ∧ (s.pwr.diverge = true → 99 ≤ s.pwr.good → 100 * natDist est tel ≤ 10 * tel →
        exec (.telemetrySample est tel) s = .next { s with pwr := { s.pwr with
          tel := BitVec.ofNat 32 tel, diverge := false, good := 0, bad := 0 } }))
  ∧ RunsOn0 .hintPhase 0xC0
      (fun _ p _ => hintOk (opA p) = true)
      (fun h p u => answer (.mgmt h) p stOk (hintPost u (halfOfQ u (.mgmt h)) (opA p)))
  ∧ (∀ s h, s.pwr.hint = some h → h.kind < 4 →
      ∃ t, exec .hintPhaseStart s = .next t ∧ t.pwr.hint = none ∧ t.pwr.hintKind = BitVec.ofNat 4 h.kind ∧ t.pwr.hintHalves = h.halves
        ∧ (h.kind ≠ 2 → t.pwr.cur = s.pwr.cur))
  ∧ (∀ s, exec .hintPhaseEnd s = .next { s with pwr := { s.pwr with
      hintKind := 3, hintHalves := 0, dense := if s.pwr.hintKind = 2 then s.pwr.cur else s.pwr.dense } })
  ∧ (∀ s slot, 2 ≤ (getSlot s slot).st → (getSlot s slot).bound = true → leadFor s slot = ownModule s →
      let l := (membersOf s slot).map (fun m => (m, ((getSlot s slot).lastRank.filter (fun e => e.2.2 == m)).length))
      (∀ r d, mostLate l = some r → leastLate l = some d → r.2 ≤ d.2) →
      exec (.shiftTick slot) s = .next ((membersOf s slot).foldl (fun u m => tellBudget u slot m 9 (offsetOf u slot m))
        (setSlot s slot { getSlot s slot with lastRank := [] })))
  ∧ RunsOnFabric .powerBudget 0xC2
      (fun q p u => (∃ mid pid pgen, q = .fabric mid pid pgen ∧ fld p.w4.toNat 0 14 = mid) ∧ u.pwr.shiftEn = true
        ∧ u.pwr.shiftLead.toNat = fld p.w4.toNat 0 14)
      (fun q p u =>
        let r : Int := u.pwr.shiftRange.toNat * 10000
        let v := min r (max (-r) (sgn 32 p.w5.toNat))
        sendReply q p { replyTo p stOk with w5 := BitVec.ofInt 32 v } { u with pwr := { u.pwr with offset := v } })
  ∧ (∀ s slot, exec (.budgetDonorTimeout slot) s = .next (setSlot s slot { getSlot s slot with donorMove := none }))
  ∧ (∀ s, exec .shiftOffsetLapse s = .next { s with pwr := { s.pwr with offset := 0 } })
  ∧ (∀ s temps, s.dev.phase = .ready → powerStopped s = false →
      let u := readTemps s temps
      (∀ n, n < 50 → tempOf u n = if halfOff s (halfOfSensor n) then none else some (temps.getD n 0))
      ∧ (anyAt u (throttleEff s) 85 = true →
        ∃ t, exec (.thermalTick temps) s = .next t ∧ t.dev.thermAlert = true ∧ t.pwr.reduction = min (2 ^ 32 - 1) (s.pwr.reduction + 50000))
      ∧ (anyAt u (throttleEff s) 85 = false → allCool u = true → exec (.thermalTick temps) s = .next { u with
          dev := { u.dev with thermAlert := decide (50000 < s.pwr.reduction) }, pwr := { u.pwr with reduction := s.pwr.reduction - 50000 } })
      ∧ (anyAt u (throttleEff s) 85 = false → allCool u = false → exec (.thermalTick temps) s = .next u))
  ∧ (∀ s, s.dev.phase = .ready → exec .thermalCrit s = .next (wakeAll (coolStop s)))
  ∧ (∀ s, s.dev.phase = .ready → exec .coolantStop s
      = .next (wakeAll (coolStop { s with dev := { s.dev with coolantFault := true, coolantSince := none } })))
  ∧ (∀ s half rail reached, exec (.avsStatusPoll half rail ⟨reached, true⟩) s = exec (.avsStatusPoll half rail ⟨reached, false⟩) (phaseShed s half rail true))
  ∧ (∀ s half rail, half < 2 → rail < 4 → s.dev.phase = .ready → s.res.takeover = false →
      exec (.avsStatusPoll half rail ⟨false, true⟩) s
        = .next (logNote { cls := 0x11, sev := 1, unitKind := 10, unit := half, half := half } s))

/-- Power, boot and the flash port (R408-R412), and a port share taking effect (R271): a loss of power keeps what is fused and
stored; a boot fills the generations at power-up, tests the TRNG, tries the image slots and brings the module to READY, or waits
for the flash. -/
def Obligations.BootCommandsComplete : Prop :=
  (∀ s, ∃ t, exec .powerOff s = .next t ∧ t.dev.phase = .off ∧ t.mem = {} ∧ t.tens = [] ∧ t.part = {} ∧ t.fe = {} ∧ t.ev = {}
      ∧ t.seq = {} ∧ t.fab = {} ∧ t.res = {} ∧ t.pwr = {} ∧ t.sec.lc = s.sec.lc ∧ t.sec.updCnt = s.sec.updCnt ∧ t.sec.owner = s.sec.owner
      ∧ t.sec.next = s.sec.next ∧ t.wb = { s.wb with mirror := {} })
  ∧ (∀ s c, s.dev.phase = .boot → s.dev.bootWaits = none → c.powerUp = false →
      let u := bootSec { s with dev := { s.dev with phase := .boot, pwrEn := true } } c false
      (s.dev.flashReq = true → exec (.boot c) s = .next { u with dev := { u.dev with bootWaits := some c, flashGnt := true } })
      ∧ (∀ x, s.dev.flashReq = false → (slotsTried c).find? (slotOk u) = some x →
          exec (.boot c) s = .next (bootOn u c x) ∧ (bootOn u c x).dev.phase = .ready)
      ∧ (s.dev.flashReq = false → (slotsTried c).find? (slotOk u) = none →
          exec (.boot c) s = .next { u with dev := { u.dev with phase := .bootFailed, flashGnt := true } }))
  ∧ (∀ s c, (s.dev.phase = .off ∨ s.dev.phase = .boot ∧ c.powerUp = true) → s.dev.bootWaits = none → s.dev.flashReq = false →
      let f := fillGens (powerLoss s)
      let u := bootSec { f with dev := { f.dev with phase := .boot, pwrEn := true, strap := c.strap } } c true
      exec (.boot c) s = .next (bootRead u c))
  ∧ (∀ s, s.dev.phase = .ready → exec (.flashRequest false) s = .next { s with dev := { s.dev with flashReq := true, flashGnt := true } })
  ∧ (∀ s, s.dev.phase = .boot → exec (.flashRequest true) s = .next { s with dev := { s.dev with flashReq := true, flashGnt := false } })
  ∧ (∀ s, s.dev.bootWaits = none → exec .flashRelease s = .next { s with dev := { s.dev with flashReq := false } })
  ∧ (∀ s c, s.dev.bootWaits = some c →
      exec .flashRelease s = .next (bootRead { s with dev := { s.dev with flashReq := false, bootWaits := none } } c))
  ∧ (∀ s port, exec (.portShareApply port) s = .next ((s.part.slots.map (·.1)).foldl (applyShare port) s)
      ∧ ∀ i v, tabGet (fun _ => 0) (getSlot s i).sharePend port = v + 1 → applyShare port s i = setSlot s i { getSlot s i with
          sharePend := tabSet (fun _ => 0) (getSlot s i).sharePend port 0,
          brec := { (getSlot s i).brec with share := tabSet (fun _ => 0) (getSlot s i).brec.share port v } })

/-- The TAPs (R400, R413-R416): an instruction that takes the pins is accepted while the half's links are free and else acts as
BYPASS; IDCODE, SAMPLE/PRELOAD and BYPASS shift their registers; in DEBUG and RMA a register or local memory is accessed and a
core is halted; the weighbridge's TAP has its own instructions. -/
def Obligations.TapCommandsComplete : Prop :=
  (∀ s die, tapOn s die = true → pinsFree s die = true →
      let u (code : Nat) := (linkUnits die).foldl (fun s u => if unitSt s u == .failed then s else setUnit s u .quarantine)
        (setDie s die { getDie s die with ir := code, refused := false, pins := true })
      exec (.extest die) s = .next (u 0) ∧ exec (.clamp die) s = .next (setShift (u 3) 0) ∧ exec (.highz die) s = .next (setShift (u 4) 0)
        ∧ exec (.extestPulse die) s = .next (u 5) ∧ exec (.extestTrain die) s = .next (u 6))
  ∧ (∀ s die, tapOn s die = true → pinsFree s die = false →
      let u := setShift (setDie s die { getDie s die with ir := 0xFF, refused := true }) 0
      exec (.extest die) s = .next u ∧ exec (.extestPulse die) s = .next u ∧ exec (.extestTrain die) s = .next u
        ∧ exec (.clamp die) s = .next u ∧ exec (.highz die) s = .next u)
  ∧ (∀ s die, tapOn s die = true →
      exec (.idcode die) s = .next (setShift (setDie s die { getDie s die with ir := 1, refused := false, pins := false })
        (s.dev.stepping.toNat % 16 * 2 ^ 28 + (0x2448 + die) * 2 ^ 12 + 0x4E9 * 2 + 1))
      ∧ exec (.bypass die) s = .next (setShift (setDie s die { getDie s die with ir := 0xFF, refused := false, pins := false }) 0))
  ∧ (∀ s die sampled shifted, tapOn s die = true → halfPwr s die ≠ 2 →
      exec (.samplePreload die sampled shifted) s = .next (setShift (setDie s die { getDie s die with
        ir := 2, refused := false, cells := shifted % 2 ^ cellsOf die }) (sampled % 2 ^ cellsOf die)))
  ∧ (∀ s addr v r, tapOn s 0 = true → testRoot s = true → addr < 2 ^ 42 → regAt addr = some r → blockServed s r = true →
      let u := leavePins s 0 0x10
      exec (.regaccess addr v v) s = .next (wakeAll (tapResult (regRead u 4 r).2 (regRead u 4 r).1 0))
      ∧ ∀ cpl, cpl ≠ v → exec (.regaccess addr v cpl) s = .next (wakeAll (tapResult (writePairs [(v, cpl)] 4 0 addr u).2 v
          (if (writePairs [(v, cpl)] 4 0 addr u).1.1 then 0 else 1))))
  ∧ (∀ s addr v d t c w, tapOn s 0 = true → testRoot s = true → ((inHbm addr && inHbm (addr + 3)) || (inStore addr && inStore (addr + 3))) = true →
      ¬ (0x24000000000 ≤ addr ∧ addr + 4 ≤ 0x24012000000) → halfOff s (halfOfAddr s addr) = false → tapRefused s addr = false →
      memRead (leavePins s 0 0x11) .internal 0 0 0 addr 4 = .ok d t →
      memWrite (leavePins s 0 0x11) .internal 0 0 0 addr (leBytes 4 v.toNat) = .ok c w →
      exec (.memaccess addr v 0xFFFFFFFF) s = .next (tapResult t (BitVec.ofNat 32 (ofLE d)) 0)
      ∧ exec (.memaccess addr v 0) s = .next (tapResult w v 0))
  ∧ (∀ s addr v x o, tapOn s 0 = true → testRoot s = true → 0x24000000000 ≤ addr → addr + 4 ≤ 0x24012000000 → inHbm addr = false →
      inStore addr = false → halfOff s (halfOfAddr s addr) = false → tapRefused s addr = false → windowAt s addr = some (x, o) →
      let u := leavePins s 0 0x11
      exec (.memaccess addr v 0xFFFFFFFF) s = .next (tapResult u (BitVec.ofNat 32 (ofLE (winRead x o 4))) 0)
      ∧ exec (.memaccess addr v 0) s = .next (tapResult (setTen u (winWrite x o (leBytes 4 v.toNat))) v 0))
  ∧ (∀ s core stop, tapOn s 0 = true → testRoot s = true → core < 576 → confHeld s (holderOfCore s core) = false →
      let u := leavePins s 0 0x12
      exec (.halt core stop) s = .next (setCore u core { getCore u core with halted := stop }))
  ∧ (∀ s, s.wb.power = true → s.wb.tapIr ≠ 0 → exec .wbExtest s = .next { s with wb := { auditAdd s.wb 6 [] with tapIr := 0, tapMute := true } })
  ∧ (∀ s sampled shifted, s.wb.power = true →
      exec .wbIdcode s = .next (setShift { s with wb := { s.wb with tapIr := 1, tapMute := false } } 0x0244A9D3)
      ∧ exec .wbBypass s = .next (setShift { s with wb := { s.wb with tapIr := 0xF, tapMute := false } } 0)
      ∧ exec (.wbSamplePreload sampled shifted) s
        = .next (setShift { s with wb := { s.wb with tapIr := 2, tapCells := shifted % 64 } } (sampled % 64)))

/-- Register writes and reads on a path (R387-R396, R402-R404; R273, R288, R303, R309, R323, R326, R327): a write that its guards
allow is performed and disarms the path; a command that drives a register is that write with the bits its row names, and has the
register's own effect; a guarded write waits for its complement, which performs it, and lapses with a violation; an alias write
sets, clears or flips RW bits; a pass of the sealed check compares, commits or raises drift. -/
def Obligations.RegisterWritesComplete : Prop :=
  (∀ s path addr v r, WriteOk s path addr r v → exec (.registerWrite path addr v) s = .next (wakeAll (written s path addr r v)))
  ∧ (∀ s path v, (WriteOk s path (regAddr 4 0x40) (regAtOf 4 0x40) (v ||| 0x4000) →
        exec (.peerFailDeclare path v) s = .next (wakeAll (written s path (regAddr 4 0x40) (regAtOf 4 0x40) (v ||| 0x4000))))
      ∧ (WriteOk s path (regAddr 0 0x51C) (regAtOf 0 0x51C) ((v &&& 0xFFFFFFFC) ||| 1) →
        exec (.colsEnable path v) s = .next (wakeAll (written s path (regAddr 0 0x51C) (regAtOf 0 0x51C) ((v &&& 0xFFFFFFFC) ||| 1))))
      ∧ (WriteOk s path (regAddr 0 0x51C) (regAtOf 0 0x51C) (v &&& 0xFFFFFFFC) →
        exec (.colsDisable path v) s = .next (wakeAll (written s path (regAddr 0 0x51C) (regAtOf 0 0x51C) (v &&& 0xFFFFFFFC))))
      ∧ (WriteOk s path (regAddr 0 0x41C) (regAtOf 0 0x41C) v →
        exec (.rtEntryCommit path v) s = .next (wakeAll (written s path (regAddr 0 0x41C) (regAtOf 0 0x41C) v)))
      ∧ (WriteOk s path (regAddr 4 0x4C) (regAtOf 4 0x4C) (v ||| 1) →
        exec (.gleanDump path v) s = .next (wakeAll (written s path (regAddr 4 0x4C) (regAtOf 4 0x4C) (v ||| 1))))
      ∧ (WriteOk s path (regAddr 4 0x44) (regAtOf 4 0x44) (svcWord v 0) →
        exec (.svcOut path v) s = .next (wakeAll (written s path (regAddr 4 0x44) (regAtOf 4 0x44) (svcWord v 0))))
      ∧ (∀ pass, WriteOk s path (regAddr 4 0x44) (regAtOf 4 0x44) (svcWord v 1) →
        exec (.svcTest path v pass) s = .next (svcRun (wakeAll (written s path (regAddr 4 0x44) (regAtOf 4 0x44) (svcWord v 1))) v pass))
      ∧ (∀ pass, WriteOk s path (regAddr 4 0x44) (regAtOf 4 0x44) (svcWord v 2) →
        exec (.svcIn path v pass) s = .next (svcRun (wakeAll (written s path (regAddr 4 0x44) (regAtOf 4 0x44) (svcWord v 2))) v pass)))
  ∧ (∀ s v, regApply s (regAtOf 0 0x51C) v = colsCtrl v s ∧ regApply s (regAtOf 0 0x41C) v = rtCommit v s
      ∧ regApply s (regAtOf 4 0x44) v = writeSvc s v
      ∧ (bitAt v.toNat 14 = true → regApply s (regAtOf 4 0x40) v
          = peerFailWrite v { s with res := { s.res with peerFail := BitVec.ofNat 15 (v.toNat % 2 ^ 14) } })
      ∧ (bitAt v.toNat 0 = true → halfOff s (fld v.toNat 1 1) = false → regApply s (regAtOf 4 0x4C) v
          = writeDump { s with res := { s.res with gleanHalf := bitAt v.toNat 1 } } (fld v.toNat 1 1) 0 0))
  ∧ (∀ s path v cpl, WritePends s path (regAddr 4 0x00) (regAtOf 4 0x00) v →
      let m := wakeAll (held s path (regAddr 4 0x00) v)
      pathOpen m path = true → (getPath m path).pendingW = some (regAddr 4 0x00, v) → cpl = ~~~ v →
      let u := setPath m path { getPath m path with pendingW := none, matched := none, armed := false }
      exec (.scaleClassWrite path v cpl) s = .next (wakeAll (perform u path (regAddr 4 0x00) (regAtOf 4 0x00) v))
        ∧ ∀ w, regApply w (regAtOf 4 0x00) v = writeScale w v)
  ∧ (∀ s path v cpl, WritePends s path (regAddr 6 0x00) (regAtOf 6 0x00) (v ||| 2) →
      let m := wakeAll (held s path (regAddr 6 0x00) (v ||| 2))
      pathOpen m path = true → (getPath m path).pendingW = some (regAddr 6 0x00, v ||| 2) → cpl = ~~~ (v ||| 2) →
      let u := setPath m path { getPath m path with pendingW := none, matched := none, armed := false }
      exec (.crcCommit path v cpl) s = .next (wakeAll (perform u path (regAddr 6 0x00) (regAtOf 6 0x00) (v ||| 2)))
        ∧ ∀ w, (regApply w (regAtOf 6 0x00) (v ||| 2)).lck.commit = true)
  ∧ (∀ s path addr r a t w v, pathOpen s path = true → regAt addr = some r → r.form = 0 → isCpl r = true → blockServed s r = true →
      (getPath s path).pendingW = some (a, w) → regAt a = some t → cplOf t = r → v = ~~~ w →
      exec (.cplWrite path addr v) s
        = .next (wakeAll (perform (setPath s path { getPath s path with pendingW := none, matched := none, armed := false }) path a t w)))
  ∧ (∀ s path addr r v, pathOpen s path = true → regAt addr = some r → r.form ≠ 0 → blockServed s r = true →
      (getPath s path).pendingW = none → (getPath s path).matched = none → (accOf r).rw ≠ 0 →
      v &&& BitVec.ofNat 32 ((accOf r).rwk ||| (accOf r).rwc) = 0 →
      let d := regAtOf r.blk r.off
      let w := aliasWord (regVal s 0 d) v r.form (BitVec.ofNat 32 (accOf r).rw)
        &&& BitVec.ofNat 32 ((accOf r).rw ||| (accOf r).rwk ||| (accOf r).rwc)
      let u := startGrace (sealedVal s d) d (regApply s d w)
      exec (.aliasWrite path addr v) s = .next (wakeAll (setPath u path { getPath u path with armed := false })))
  ∧ (∀ s path, pathOpen s path = true → s.res.scale.toNat < 2 → (getPath s path).pendingW = none → (getPath s path).matched = none →
      exec (.lckUnlock path unlockKey) s = .next (wakeAll (setPath s path { getPath s path with armed := true })))
  ∧ (∀ s path, exec (.lockExpiry path) s = .next (setPath s path { getPath s path with armed := false }))
  ∧ (∀ s path, let t := setPath s path { getPath s path with pendingW := none, matched := none }
      ((getPath s path).pendingW = none → exec (.pendingLapse path) s = .next t)
      ∧ ∀ a w, (getPath s path).pendingW = some (a, w) → exec (.pendingLapse path) s = .next (violate t path a w))
  ∧ (∀ s path addr r, pathOpen s path = true → regAt addr = some r → blockServed s r = true →
      exec (.loLatchRead path addr) s = .next (regRead s path r).2)
  ∧ (∀ s path l, pathOpen s path = true → tabGet (fun _ => none) s.res.log s.res.logSel.toNat = some l →
      exec (.logRecordRead path) s = .next (markLogRead (setShadow s path 4 (0, 0)) l.seq))
  ∧ (∀ s, s.lck.crcEn = true → exec .crcPass s = .next (crcEnd (sealedCrc s) s))
  ∧ (∀ s c, let u := { s with lck := { s.lck with crcCur := c } }
      (s.lck.commit = true → crcEnd c s = { u with lck := { u.lck with commit := false, crcRef := c, grace := false, raised := false } })
      ∧ (s.lck.commit = false → c = s.lck.crcRef → crcEnd c s = { u with lck := { u.lck with raised := false } })
      ∧ (s.lck.commit = false → c ≠ s.lck.crcRef → (s.lck.grace || s.lck.raised) = true → crcEnd c s = u)
      ∧ (s.lck.commit = false → c ≠ s.lck.crcRef → s.lck.grace = false → s.lck.raised = false → crcEnd c s
        = driftLog { u with lck := { u.lck with drift := true, raised := true, driftCnt := sat32 s.lck.driftCnt } } 0 0 15 c))
  ∧ (∀ s, exec .graceExpiry s = .next { s with lck := { s.lck with grace := false } })

end
end

