-- ==== Sys2Proof/Laws/Tab.lean ====
section
/-! SUPPORT. The laws of sparse tables: a read after a write, and that every operation keeps the canonical form, so that
equal tables are equal data. -/
namespace Sys2Proof.Machine

variable {α : Type}

/-- The keys that `tabSkip` passes over do not matter to a later key. -/
theorem tabGet_tabSkip_of_lt (d : Nat → α) (t : Tab α) {k m : Nat} (h : k < m) :
    tabGet d (tabSkip t k) m = tabGet d t m := by
  induction t with
  | nil => rfl
  | cons e t ih =>
    obtain ⟨j, a⟩ := e
    by_cases hj : j ≤ k
    · have h1 : ¬ m < j := by omega
      have h2 : ¬ m = j := by omega
      simp [tabSkip, tabGet, hj, h1, h2, ih]
    · simp [tabSkip, hj]

/-- What `tabSkip` leaves lists no key up to the one it was given. -/
theorem tabGet_tabSkip_of_le (d : Nat → α) (t : Tab α) {k m : Nat} (h : m ≤ k) : tabGet d (tabSkip t k) m = d m := by
  induction t with
  | nil => rfl
  | cons e t ih =>
    obtain ⟨j, a⟩ := e
    by_cases hj : j ≤ k
    · simp [tabSkip, hj, ih]
    · have h1 : m < j := by omega
      simp [tabSkip, tabGet, hj, h1]

variable [DecidableEq α]

/-- The key that was written reads as what was written. -/
@[simp] theorem tabGet_tabSet_same (d : Nat → α) (t : Tab α) (k : Nat) (v : α) : tabGet d (tabSet d t k v) k = v := by
  induction t with
  | nil => by_cases h : v = d k <;> simp [tabSet, tabGet, h]
  | cons e t ih =>
    obtain ⟨j, a⟩ := e
    rcases Nat.lt_trichotomy k j with h | h | h
    · by_cases hv : v = d k <;> simp [tabSet, tabGet, h, hv]
    · subst h
      by_cases hv : v = d k
      · simp [tabSet, hv, tabGet_tabSkip_of_le]
      · simp [tabSet, tabGet, hv]
    · have h1 : ¬ k < j := by omega
      have h2 : ¬ k = j := by omega
      simp [tabSet, tabGet, h1, h2, ih]

/-- Every other key reads as before. -/
theorem tabGet_tabSet_ne (d : Nat → α) (t : Tab α) {k m : Nat} (v : α) (hm : m ≠ k) :
    tabGet d (tabSet d t k v) m = tabGet d t m := by
  induction t with
  | nil =>
    by_cases h : v = d k
    · simp [tabSet, tabGet, h]
    · by_cases h1 : m < k <;> simp [tabSet, tabGet, h, h1, hm]
  | cons e t ih =>
    obtain ⟨j, a⟩ := e
    rcases Nat.lt_trichotomy k j with h | h | h
    · by_cases hv : v = d k
      · simp [tabSet, h, hv]
      · by_cases h1 : m < k
        · have h2 : m < j := by omega
          simp [tabSet, tabGet, h, hv, h1, h2]
        · simp [tabSet, tabGet, h, hv, h1, hm]
    · subst h
      by_cases hv : v = d k
      · by_cases h1 : m < k
        · simp [tabSet, hv, tabGet, h1, tabGet_tabSkip_of_le d t (Nat.le_of_lt h1)]
        · have h2 : k < m := by omega
          simp [tabSet, hv, tabGet, h1, hm, tabGet_tabSkip_of_lt d t h2]
      · by_cases h1 : m < k <;> simp [tabSet, tabGet, hv, h1, hm]
    · have h1 : ¬ k < j := by omega
      have h2 : ¬ k = j := by omega
      by_cases h3 : m < j
      · simp [tabSet, tabGet, h1, h2, h3]
      · by_cases h4 : m = j
        · simp [tabSet, tabGet, h1, h2, h4]
        · simp [tabSet, tabGet, h1, h2, h3, h4, ih]

/-- A read after a write, for any two keys. -/
theorem tabGet_tabSet (d : Nat → α) (t : Tab α) (k m : Nat) (v : α) :
    tabGet d (tabSet d t k v) m = if m = k then v else tabGet d t m := by
  by_cases h : m = k
  · subst h; simp
  · simp [h, tabGet_tabSet_ne d t v h]

/-! ### The canonical form -/

/-- A table whose keys rise from a number on has keys that rise from any smaller number on. -/
theorem tabWfFrom_mono (d : Nat → α) {t : Tab α} {lo lo' : Nat} (h : lo' ≤ lo) (w : tabWfFrom d lo t = true) :
    tabWfFrom d lo' t = true := by
  cases t with
  | nil => rfl
  | cons e t =>
    obtain ⟨j, a⟩ := e
    simp only [tabWfFrom, Bool.and_eq_true, decide_eq_true_eq] at w ⊢
    exact ⟨⟨by omega, w.1.2⟩, w.2⟩

/-- In canonical form nothing is skipped at a key below the first. -/
theorem tabSkip_of_wfFrom (d : Nat → α) {t : Tab α} {k : Nat} (w : tabWfFrom d (k + 1) t = true) : tabSkip t k = t := by
  cases t with
  | nil => rfl
  | cons e t =>
    obtain ⟨j, a⟩ := e
    simp only [tabWfFrom, Bool.and_eq_true, decide_eq_true_eq] at w
    have h : ¬ j ≤ k := by omega
    simp [tabSkip, h]

/-- A write keeps keys rising from `lo`, when its key is not below. -/
theorem tabSet_wfFrom (d : Nat → α) {t : Tab α} {lo k : Nat} (v : α) (hk : lo ≤ k) (w : tabWfFrom d lo t = true) :
    tabWfFrom d lo (tabSet d t k v) = true := by
  induction t generalizing lo with
  | nil => by_cases h : v = d k <;> simp [tabSet, tabWfFrom, h, hk]
  | cons e t ih =>
    obtain ⟨j, a⟩ := e
    simp only [tabWfFrom, Bool.and_eq_true, decide_eq_true_eq] at w
    obtain ⟨⟨w1, w2⟩, w3⟩ := w
    rcases Nat.lt_trichotomy k j with h | h | h
    · by_cases hv : v = d k
      · simp [tabSet, h, hv, tabWfFrom, w1, w2, w3]
      · have h1 : k + 1 ≤ j := by omega
        simp [tabSet, h, hv, tabWfFrom, hk, h1, w2, w3]
    · subst h
      by_cases hv : v = d k
      · simp only [tabSet, hv, Nat.lt_irrefl, if_false, if_true, tabSkip_of_wfFrom d w3]
        exact tabWfFrom_mono d (by omega) w3
      · simp [tabSet, hv, tabWfFrom, hk, w3]
    · have h1 : ¬ k < j := by omega
      have h2 : ¬ k = j := by omega
      simp [tabSet, h1, h2, tabWfFrom, w1, w2, ih (by omega) w3]

/-- A write keeps the canonical form. -/
theorem tabSet_wf (d : Nat → α) {t : Tab α} (k : Nat) (v : α) (w : tabWf d t = true) : tabWf d (tabSet d t k v) = true :=
  tabSet_wfFrom d v (Nat.zero_le k) w

/-- Leaving out entries keeps the canonical form. -/
theorem filter_wfFrom (d : Nat → α) {t : Tab α} {lo : Nat} (f : Nat × α → Bool) (w : tabWfFrom d lo t = true) :
    tabWfFrom d lo (t.filter f) = true := by
  induction t generalizing lo with
  | nil => rfl
  | cons e t ih =>
    obtain ⟨j, a⟩ := e
    simp only [tabWfFrom, Bool.and_eq_true, decide_eq_true_eq] at w
    obtain ⟨⟨w1, w2⟩, w3⟩ := w
    by_cases hf : f (j, a) = true
    · simp [hf, tabWfFrom, w1, w2, ih w3]
    · simp only [List.filter_cons, hf, if_neg, Bool.false_eq_true, not_false_eq_true]
      exact tabWfFrom_mono d (by omega) (ih w3)

/-- Unlisting a span of keys keeps the canonical form. -/
theorem tabClear_wf (d : Nat → α) {t : Tab α} (a n : Nat) (w : tabWf d t = true) : tabWf d (tabClear t a n) = true :=
  filter_wfFrom d _ w

/-- Several writes keep the canonical form. -/
theorem tabSetAll_wf (d : Nat → α) {t : Tab α} (l : List (Nat × α)) (w : tabWf d t = true) :
    tabWf d (tabSetAll d t l) = true := by
  unfold tabSetAll
  induction l generalizing t with
  | nil => exact w
  | cons e l ih => exact ih (tabSet_wf d e.1 e.2 w)

/-- A key that none of several writes names reads as before. -/
theorem tabGet_tabSetAll_of_notMem (d : Nat → α) (t : Tab α) (l : List (Nat × α)) {m : Nat} (h : ∀ e ∈ l, e.1 ≠ m) :
    tabGet d (tabSetAll d t l) m = tabGet d t m := by
  unfold tabSetAll
  induction l generalizing t with
  | nil => rfl
  | cons e l ih =>
    have h1 : m ≠ e.1 := fun c => h e (by simp) c.symm
    simp only [List.foldl_cons]
    rw [ih _ (fun e' he' => h e' (by simp [he'])), tabGet_tabSet_ne d t e.2 h1]

end Sys2Proof.Machine
end

