-- ==== Sys2Proof/Laws/State.lean ====
section
/-! SUPPORT. What each update of a part of the state leaves of the other parts, field by field, and what a part reads as
after it was set. -/
namespace Sys2Proof.Machine

/-! ### setSlot -/

@[simp] theorem setSlot_pending (s : State) (i : Nat) (x : Slot) : (setSlot s i x).pending = s.pending := rfl
@[simp] theorem setSlot_fresh (s : State) (i : Nat) (x : Slot) : (setSlot s i x).fresh = s.fresh := rfl
@[simp] theorem setSlot_dev (s : State) (i : Nat) (x : Slot) : (setSlot s i x).dev = s.dev := rfl
@[simp] theorem setSlot_lck (s : State) (i : Nat) (x : Slot) : (setSlot s i x).lck = s.lck := rfl
@[simp] theorem setSlot_units (s : State) (i : Nat) (x : Slot) : (setSlot s i x).units = s.units := rfl
@[simp] theorem setSlot_tens (s : State) (i : Nat) (x : Slot) : (setSlot s i x).tens = s.tens := rfl
@[simp] theorem setSlot_rem (s : State) (i : Nat) (x : Slot) : (setSlot s i x).rem = s.rem := rfl
@[simp] theorem setSlot_mem (s : State) (i : Nat) (x : Slot) : (setSlot s i x).mem = s.mem := rfl
@[simp] theorem setSlot_xlt (s : State) (i : Nat) (x : Slot) : (setSlot s i x).xlt = s.xlt := rfl
@[simp] theorem setSlot_fe (s : State) (i : Nat) (x : Slot) : (setSlot s i x).fe = s.fe := rfl
@[simp] theorem setSlot_ev (s : State) (i : Nat) (x : Slot) : (setSlot s i x).ev = s.ev := rfl
@[simp] theorem setSlot_seq (s : State) (i : Nat) (x : Slot) : (setSlot s i x).seq = s.seq := rfl
@[simp] theorem setSlot_fab (s : State) (i : Nat) (x : Slot) : (setSlot s i x).fab = s.fab := rfl
@[simp] theorem setSlot_res (s : State) (i : Nat) (x : Slot) : (setSlot s i x).res = s.res := rfl
@[simp] theorem setSlot_pwr (s : State) (i : Nat) (x : Slot) : (setSlot s i x).pwr = s.pwr := rfl
@[simp] theorem setSlot_sec (s : State) (i : Nat) (x : Slot) : (setSlot s i x).sec = s.sec := rfl
@[simp] theorem setSlot_wb (s : State) (i : Nat) (x : Slot) : (setSlot s i x).wb = s.wb := rfl
@[simp] theorem setSlot_tap (s : State) (i : Nat) (x : Slot) : (setSlot s i x).tap = s.tap := rfl
@[simp] theorem setSlot_part_ctxs (s : State) (i : Nat) (x : Slot) : (setSlot s i x).part.ctxs = s.part.ctxs := rfl
@[simp] theorem setSlot_part_bars (s : State) (i : Nat) (x : Slot) : (setSlot s i x).part.bars = s.part.bars := rfl
@[simp] theorem setSlot_part_barMsgs (s : State) (i : Nat) (x : Slot) : (setSlot s i x).part.barMsgs = s.part.barMsgs := rfl
@[simp] theorem setSlot_part_prtSel (s : State) (i : Nat) (x : Slot) : (setSlot s i x).part.prtSel = s.part.prtSel := rfl
@[simp] theorem setSlot_part_ctxSel (s : State) (i : Nat) (x : Slot) : (setSlot s i x).part.ctxSel = s.part.ctxSel := rfl
@[simp] theorem setSlot_part_orphan (s : State) (i : Nat) (x : Slot) : (setSlot s i x).part.orphan = s.part.orphan := rfl
@[simp] theorem setSlot_part_moving (s : State) (i : Nat) (x : Slot) : (setSlot s i x).part.moving = s.part.moving := rfl
@[simp] theorem setSlot_part_offers (s : State) (i : Nat) (x : Slot) : (setSlot s i x).part.offers = s.part.offers := rfl
@[simp] theorem setSlot_part_flushes (s : State) (i : Nat) (x : Slot) : (setSlot s i x).part.flushes = s.part.flushes := rfl
@[simp] theorem setSlot_part_ownActs (s : State) (i : Nat) (x : Slot) : (setSlot s i x).part.ownActs = s.part.ownActs := rfl
@[simp] theorem setSlot_part_tells (s : State) (i : Nat) (x : Slot) : (setSlot s i x).part.tells = s.part.tells := rfl
@[simp] theorem setSlot_part_pubs (s : State) (i : Nat) (x : Slot) : (setSlot s i x).part.pubs = s.part.pubs := rfl
@[simp] theorem setSlot_part_heldFab (s : State) (i : Nat) (x : Slot) : (setSlot s i x).part.heldFab = s.part.heldFab := rfl
@[simp] theorem setSlot_part_heldFlush (s : State) (i : Nat) (x : Slot) : (setSlot s i x).part.heldFlush = s.part.heldFlush := rfl
@[simp] theorem setSlot_part_notices (s : State) (i : Nat) (x : Slot) : (setSlot s i x).part.notices = s.part.notices := rfl
@[simp] theorem setSlot_part_failedPeers (s : State) (i : Nat) (x : Slot) : (setSlot s i x).part.failedPeers = s.part.failedPeers := rfl
@[simp] theorem setSlot_part_foundPeers (s : State) (i : Nat) (x : Slot) : (setSlot s i x).part.foundPeers = s.part.foundPeers := rfl
@[simp] theorem setSlot_part_memKeyCtr (s : State) (i : Nat) (x : Slot) : (setSlot s i x).part.memKeyCtr = s.part.memKeyCtr := rfl
@[simp] theorem getSlot_setSlot_same (s : State) (i : Nat) (x : Slot) : getSlot (setSlot s i x) i = x := tabGet_tabSet_same _ _ _ _
theorem getSlot_setSlot (s : State) (i : Nat) (x : Slot) (j : Nat) : getSlot (setSlot s i x) j = if j = i then x else getSlot s j := tabGet_tabSet _ _ _ _ _
@[simp] theorem getCtx_setSlot (s : State) (i : Nat) (x : Slot) (j : Nat) : getCtx (setSlot s i x) j = getCtx s j := rfl
@[simp] theorem getQp_setSlot (s : State) (i : Nat) (x : Slot) (j : Nat) : getQp (setSlot s i x) j = getQp s j := rfl
@[simp] theorem getFe_setSlot (s : State) (i : Nat) (x : Slot) (j : Nat) : getFe (setSlot s i x) j = getFe s j := rfl
@[simp] theorem getEv_setSlot (s : State) (i : Nat) (x : Slot) (j : Nat) : getEv (setSlot s i x) j = getEv s j := rfl
@[simp] theorem getCore_setSlot (s : State) (i : Nat) (x : Slot) (j : Nat) : getCore (setSlot s i x) j = getCore s j := rfl
@[simp] theorem getChan_setSlot (s : State) (i : Nat) (x : Slot) (j : Nat) : getChan (setSlot s i x) j = getChan s j := rfl
@[simp] theorem getPort_setSlot (s : State) (i : Nat) (x : Slot) (j : Nat) : getPort (setSlot s i x) j = getPort s j := rfl
@[simp] theorem getStream_setSlot (s : State) (i : Nat) (x : Slot) (j : Nat) : getStream (setSlot s i x) j = getStream s j := rfl
@[simp] theorem getRun_setSlot (s : State) (i : Nat) (x : Slot) (j : Nat) : getRun (setSlot s i x) j = getRun s j := rfl
@[simp] theorem getProg_setSlot (s : State) (i : Nat) (x : Slot) (j : Nat) : getProg (setSlot s i x) j = getProg s j := rfl
@[simp] theorem getPath_setSlot (s : State) (i : Nat) (x : Slot) (j : Nat) : getPath (setSlot s i x) j = getPath s j := rfl
@[simp] theorem getDie_setSlot (s : State) (i : Nat) (x : Slot) (j : Nat) : getDie (setSlot s i x) j = getDie s j := rfl

/-! ### setCtx -/

@[simp] theorem setCtx_pending (s : State) (i : Nat) (x : Ctx) : (setCtx s i x).pending = s.pending := rfl
@[simp] theorem setCtx_fresh (s : State) (i : Nat) (x : Ctx) : (setCtx s i x).fresh = s.fresh := rfl
@[simp] theorem setCtx_dev (s : State) (i : Nat) (x : Ctx) : (setCtx s i x).dev = s.dev := rfl
@[simp] theorem setCtx_lck (s : State) (i : Nat) (x : Ctx) : (setCtx s i x).lck = s.lck := rfl
@[simp] theorem setCtx_units (s : State) (i : Nat) (x : Ctx) : (setCtx s i x).units = s.units := rfl
@[simp] theorem setCtx_tens (s : State) (i : Nat) (x : Ctx) : (setCtx s i x).tens = s.tens := rfl
@[simp] theorem setCtx_rem (s : State) (i : Nat) (x : Ctx) : (setCtx s i x).rem = s.rem := rfl
@[simp] theorem setCtx_mem (s : State) (i : Nat) (x : Ctx) : (setCtx s i x).mem = s.mem := rfl
@[simp] theorem setCtx_xlt (s : State) (i : Nat) (x : Ctx) : (setCtx s i x).xlt = s.xlt := rfl
@[simp] theorem setCtx_fe (s : State) (i : Nat) (x : Ctx) : (setCtx s i x).fe = s.fe := rfl
@[simp] theorem setCtx_ev (s : State) (i : Nat) (x : Ctx) : (setCtx s i x).ev = s.ev := rfl
@[simp] theorem setCtx_seq (s : State) (i : Nat) (x : Ctx) : (setCtx s i x).seq = s.seq := rfl
@[simp] theorem setCtx_fab (s : State) (i : Nat) (x : Ctx) : (setCtx s i x).fab = s.fab := rfl
@[simp] theorem setCtx_res (s : State) (i : Nat) (x : Ctx) : (setCtx s i x).res = s.res := rfl
@[simp] theorem setCtx_pwr (s : State) (i : Nat) (x : Ctx) : (setCtx s i x).pwr = s.pwr := rfl
@[simp] theorem setCtx_sec (s : State) (i : Nat) (x : Ctx) : (setCtx s i x).sec = s.sec := rfl
@[simp] theorem setCtx_wb (s : State) (i : Nat) (x : Ctx) : (setCtx s i x).wb = s.wb := rfl
@[simp] theorem setCtx_tap (s : State) (i : Nat) (x : Ctx) : (setCtx s i x).tap = s.tap := rfl
@[simp] theorem setCtx_part_slots (s : State) (i : Nat) (x : Ctx) : (setCtx s i x).part.slots = s.part.slots := rfl
@[simp] theorem setCtx_part_bars (s : State) (i : Nat) (x : Ctx) : (setCtx s i x).part.bars = s.part.bars := rfl
@[simp] theorem setCtx_part_barMsgs (s : State) (i : Nat) (x : Ctx) : (setCtx s i x).part.barMsgs = s.part.barMsgs := rfl
@[simp] theorem setCtx_part_prtSel (s : State) (i : Nat) (x : Ctx) : (setCtx s i x).part.prtSel = s.part.prtSel := rfl
@[simp] theorem setCtx_part_ctxSel (s : State) (i : Nat) (x : Ctx) : (setCtx s i x).part.ctxSel = s.part.ctxSel := rfl
@[simp] theorem setCtx_part_orphan (s : State) (i : Nat) (x : Ctx) : (setCtx s i x).part.orphan = s.part.orphan := rfl
@[simp] theorem setCtx_part_moving (s : State) (i : Nat) (x : Ctx) : (setCtx s i x).part.moving = s.part.moving := rfl
@[simp] theorem setCtx_part_offers (s : State) (i : Nat) (x : Ctx) : (setCtx s i x).part.offers = s.part.offers := rfl
@[simp] theorem setCtx_part_flushes (s : State) (i : Nat) (x : Ctx) : (setCtx s i x).part.flushes = s.part.flushes := rfl
@[simp] theorem setCtx_part_ownActs (s : State) (i : Nat) (x : Ctx) : (setCtx s i x).part.ownActs = s.part.ownActs := rfl
@[simp] theorem setCtx_part_tells (s : State) (i : Nat) (x : Ctx) : (setCtx s i x).part.tells = s.part.tells := rfl
@[simp] theorem setCtx_part_pubs (s : State) (i : Nat) (x : Ctx) : (setCtx s i x).part.pubs = s.part.pubs := rfl
@[simp] theorem setCtx_part_heldFab (s : State) (i : Nat) (x : Ctx) : (setCtx s i x).part.heldFab = s.part.heldFab := rfl
@[simp] theorem setCtx_part_heldFlush (s : State) (i : Nat) (x : Ctx) : (setCtx s i x).part.heldFlush = s.part.heldFlush := rfl
@[simp] theorem setCtx_part_notices (s : State) (i : Nat) (x : Ctx) : (setCtx s i x).part.notices = s.part.notices := rfl
@[simp] theorem setCtx_part_failedPeers (s : State) (i : Nat) (x : Ctx) : (setCtx s i x).part.failedPeers = s.part.failedPeers := rfl
@[simp] theorem setCtx_part_foundPeers (s : State) (i : Nat) (x : Ctx) : (setCtx s i x).part.foundPeers = s.part.foundPeers := rfl
@[simp] theorem setCtx_part_memKeyCtr (s : State) (i : Nat) (x : Ctx) : (setCtx s i x).part.memKeyCtr = s.part.memKeyCtr := rfl
@[simp] theorem getCtx_setCtx_same (s : State) (i : Nat) (x : Ctx) : getCtx (setCtx s i x) i = x := tabGet_tabSet_same _ _ _ _
theorem getCtx_setCtx (s : State) (i : Nat) (x : Ctx) (j : Nat) : getCtx (setCtx s i x) j = if j = i then x else getCtx s j := tabGet_tabSet _ _ _ _ _
@[simp] theorem getSlot_setCtx (s : State) (i : Nat) (x : Ctx) (j : Nat) : getSlot (setCtx s i x) j = getSlot s j := rfl
@[simp] theorem getQp_setCtx (s : State) (i : Nat) (x : Ctx) (j : Nat) : getQp (setCtx s i x) j = getQp s j := rfl
@[simp] theorem getFe_setCtx (s : State) (i : Nat) (x : Ctx) (j : Nat) : getFe (setCtx s i x) j = getFe s j := rfl
@[simp] theorem getEv_setCtx (s : State) (i : Nat) (x : Ctx) (j : Nat) : getEv (setCtx s i x) j = getEv s j := rfl
@[simp] theorem getCore_setCtx (s : State) (i : Nat) (x : Ctx) (j : Nat) : getCore (setCtx s i x) j = getCore s j := rfl
@[simp] theorem getChan_setCtx (s : State) (i : Nat) (x : Ctx) (j : Nat) : getChan (setCtx s i x) j = getChan s j := rfl
@[simp] theorem getPort_setCtx (s : State) (i : Nat) (x : Ctx) (j : Nat) : getPort (setCtx s i x) j = getPort s j := rfl
@[simp] theorem getStream_setCtx (s : State) (i : Nat) (x : Ctx) (j : Nat) : getStream (setCtx s i x) j = getStream s j := rfl
@[simp] theorem getRun_setCtx (s : State) (i : Nat) (x : Ctx) (j : Nat) : getRun (setCtx s i x) j = getRun s j := rfl
@[simp] theorem getProg_setCtx (s : State) (i : Nat) (x : Ctx) (j : Nat) : getProg (setCtx s i x) j = getProg s j := rfl
@[simp] theorem getPath_setCtx (s : State) (i : Nat) (x : Ctx) (j : Nat) : getPath (setCtx s i x) j = getPath s j := rfl
@[simp] theorem getDie_setCtx (s : State) (i : Nat) (x : Ctx) (j : Nat) : getDie (setCtx s i x) j = getDie s j := rfl

/-! ### setQp -/

@[simp] theorem setQp_pending (s : State) (i : Nat) (x : Qp) : (setQp s i x).pending = s.pending := rfl
@[simp] theorem setQp_fresh (s : State) (i : Nat) (x : Qp) : (setQp s i x).fresh = s.fresh := rfl
@[simp] theorem setQp_dev (s : State) (i : Nat) (x : Qp) : (setQp s i x).dev = s.dev := rfl
@[simp] theorem setQp_lck (s : State) (i : Nat) (x : Qp) : (setQp s i x).lck = s.lck := rfl
@[simp] theorem setQp_units (s : State) (i : Nat) (x : Qp) : (setQp s i x).units = s.units := rfl
@[simp] theorem setQp_tens (s : State) (i : Nat) (x : Qp) : (setQp s i x).tens = s.tens := rfl
@[simp] theorem setQp_rem (s : State) (i : Nat) (x : Qp) : (setQp s i x).rem = s.rem := rfl
@[simp] theorem setQp_mem (s : State) (i : Nat) (x : Qp) : (setQp s i x).mem = s.mem := rfl
@[simp] theorem setQp_xlt (s : State) (i : Nat) (x : Qp) : (setQp s i x).xlt = s.xlt := rfl
@[simp] theorem setQp_part (s : State) (i : Nat) (x : Qp) : (setQp s i x).part = s.part := rfl
@[simp] theorem setQp_ev (s : State) (i : Nat) (x : Qp) : (setQp s i x).ev = s.ev := rfl
@[simp] theorem setQp_seq (s : State) (i : Nat) (x : Qp) : (setQp s i x).seq = s.seq := rfl
@[simp] theorem setQp_fab (s : State) (i : Nat) (x : Qp) : (setQp s i x).fab = s.fab := rfl
@[simp] theorem setQp_res (s : State) (i : Nat) (x : Qp) : (setQp s i x).res = s.res := rfl
@[simp] theorem setQp_pwr (s : State) (i : Nat) (x : Qp) : (setQp s i x).pwr = s.pwr := rfl
@[simp] theorem setQp_sec (s : State) (i : Nat) (x : Qp) : (setQp s i x).sec = s.sec := rfl
@[simp] theorem setQp_wb (s : State) (i : Nat) (x : Qp) : (setQp s i x).wb = s.wb := rfl
@[simp] theorem setQp_tap (s : State) (i : Nat) (x : Qp) : (setQp s i x).tap = s.tap := rfl
@[simp] theorem setQp_fe_qptSel (s : State) (i : Nat) (x : Qp) : (setQp s i x).fe.qptSel = s.fe.qptSel := rfl
@[simp] theorem setQp_fe_ports (s : State) (i : Nat) (x : Qp) : (setQp s i x).fe.ports = s.fe.ports := rfl
@[simp] theorem setQp_fe_begun (s : State) (i : Nat) (x : Qp) : (setQp s i x).fe.begun = s.fe.begun := rfl
@[simp] theorem setQp_fe_nextId (s : State) (i : Nat) (x : Qp) : (setQp s i x).fe.nextId = s.fe.nextId := rfl
@[simp] theorem setQp_fe_sideExpected (s : State) (i : Nat) (x : Qp) : (setQp s i x).fe.sideExpected = s.fe.sideExpected := rfl
@[simp] theorem setQp_fe_sideHeld (s : State) (i : Nat) (x : Qp) : (setQp s i x).fe.sideHeld = s.fe.sideHeld := rfl
@[simp] theorem setQp_fe_sideWait (s : State) (i : Nat) (x : Qp) : (setQp s i x).fe.sideWait = s.fe.sideWait := rfl
@[simp] theorem setQp_fe_sideOut (s : State) (i : Nat) (x : Qp) : (setQp s i x).fe.sideOut = s.fe.sideOut := rfl
@[simp] theorem setQp_fe_heldReports (s : State) (i : Nat) (x : Qp) : (setQp s i x).fe.heldReports = s.fe.heldReports := rfl
@[simp] theorem getQp_setQp_same (s : State) (i : Nat) (x : Qp) : getQp (setQp s i x) i = x := tabGet_tabSet_same _ _ _ _
theorem getQp_setQp (s : State) (i : Nat) (x : Qp) (j : Nat) : getQp (setQp s i x) j = if j = i then x else getQp s j := tabGet_tabSet _ _ _ _ _
@[simp] theorem getSlot_setQp (s : State) (i : Nat) (x : Qp) (j : Nat) : getSlot (setQp s i x) j = getSlot s j := rfl
@[simp] theorem getCtx_setQp (s : State) (i : Nat) (x : Qp) (j : Nat) : getCtx (setQp s i x) j = getCtx s j := rfl
@[simp] theorem getFe_setQp (s : State) (i : Nat) (x : Qp) (j : Nat) : getFe (setQp s i x) j = getFe s j := rfl
@[simp] theorem getEv_setQp (s : State) (i : Nat) (x : Qp) (j : Nat) : getEv (setQp s i x) j = getEv s j := rfl
@[simp] theorem getCore_setQp (s : State) (i : Nat) (x : Qp) (j : Nat) : getCore (setQp s i x) j = getCore s j := rfl
@[simp] theorem getChan_setQp (s : State) (i : Nat) (x : Qp) (j : Nat) : getChan (setQp s i x) j = getChan s j := rfl
@[simp] theorem getPort_setQp (s : State) (i : Nat) (x : Qp) (j : Nat) : getPort (setQp s i x) j = getPort s j := rfl
@[simp] theorem getStream_setQp (s : State) (i : Nat) (x : Qp) (j : Nat) : getStream (setQp s i x) j = getStream s j := rfl
@[simp] theorem getRun_setQp (s : State) (i : Nat) (x : Qp) (j : Nat) : getRun (setQp s i x) j = getRun s j := rfl
@[simp] theorem getProg_setQp (s : State) (i : Nat) (x : Qp) (j : Nat) : getProg (setQp s i x) j = getProg s j := rfl
@[simp] theorem getPath_setQp (s : State) (i : Nat) (x : Qp) (j : Nat) : getPath (setQp s i x) j = getPath s j := rfl
@[simp] theorem getDie_setQp (s : State) (i : Nat) (x : Qp) (j : Nat) : getDie (setQp s i x) j = getDie s j := rfl

/-! ### setFe -/

@[simp] theorem setFe_pending (s : State) (i : Nat) (x : PortFe) : (setFe s i x).pending = s.pending := rfl
@[simp] theorem setFe_fresh (s : State) (i : Nat) (x : PortFe) : (setFe s i x).fresh = s.fresh := rfl
@[simp] theorem setFe_dev (s : State) (i : Nat) (x : PortFe) : (setFe s i x).dev = s.dev := rfl
@[simp] theorem setFe_lck (s : State) (i : Nat) (x : PortFe) : (setFe s i x).lck = s.lck := rfl
@[simp] theorem setFe_units (s : State) (i : Nat) (x : PortFe) : (setFe s i x).units = s.units := rfl
@[simp] theorem setFe_tens (s : State) (i : Nat) (x : PortFe) : (setFe s i x).tens = s.tens := rfl
@[simp] theorem setFe_rem (s : State) (i : Nat) (x : PortFe) : (setFe s i x).rem = s.rem := rfl
@[simp] theorem setFe_mem (s : State) (i : Nat) (x : PortFe) : (setFe s i x).mem = s.mem := rfl
@[simp] theorem setFe_xlt (s : State) (i : Nat) (x : PortFe) : (setFe s i x).xlt = s.xlt := rfl
@[simp] theorem setFe_part (s : State) (i : Nat) (x : PortFe) : (setFe s i x).part = s.part := rfl
@[simp] theorem setFe_ev (s : State) (i : Nat) (x : PortFe) : (setFe s i x).ev = s.ev := rfl
@[simp] theorem setFe_seq (s : State) (i : Nat) (x : PortFe) : (setFe s i x).seq = s.seq := rfl
@[simp] theorem setFe_fab (s : State) (i : Nat) (x : PortFe) : (setFe s i x).fab = s.fab := rfl
@[simp] theorem setFe_res (s : State) (i : Nat) (x : PortFe) : (setFe s i x).res = s.res := rfl
@[simp] theorem setFe_pwr (s : State) (i : Nat) (x : PortFe) : (setFe s i x).pwr = s.pwr := rfl
@[simp] theorem setFe_sec (s : State) (i : Nat) (x : PortFe) : (setFe s i x).sec = s.sec := rfl
@[simp] theorem setFe_wb (s : State) (i : Nat) (x : PortFe) : (setFe s i x).wb = s.wb := rfl
@[simp] theorem setFe_tap (s : State) (i : Nat) (x : PortFe) : (setFe s i x).tap = s.tap := rfl
@[simp] theorem setFe_fe_qps (s : State) (i : Nat) (x : PortFe) : (setFe s i x).fe.qps = s.fe.qps := rfl
@[simp] theorem setFe_fe_qptSel (s : State) (i : Nat) (x : PortFe) : (setFe s i x).fe.qptSel = s.fe.qptSel := rfl
@[simp] theorem setFe_fe_begun (s : State) (i : Nat) (x : PortFe) : (setFe s i x).fe.begun = s.fe.begun := rfl
@[simp] theorem setFe_fe_nextId (s : State) (i : Nat) (x : PortFe) : (setFe s i x).fe.nextId = s.fe.nextId := rfl
@[simp] theorem setFe_fe_sideExpected (s : State) (i : Nat) (x : PortFe) : (setFe s i x).fe.sideExpected = s.fe.sideExpected := rfl
@[simp] theorem setFe_fe_sideHeld (s : State) (i : Nat) (x : PortFe) : (setFe s i x).fe.sideHeld = s.fe.sideHeld := rfl
@[simp] theorem setFe_fe_sideWait (s : State) (i : Nat) (x : PortFe) : (setFe s i x).fe.sideWait = s.fe.sideWait := rfl
@[simp] theorem setFe_fe_sideOut (s : State) (i : Nat) (x : PortFe) : (setFe s i x).fe.sideOut = s.fe.sideOut := rfl
@[simp] theorem setFe_fe_heldReports (s : State) (i : Nat) (x : PortFe) : (setFe s i x).fe.heldReports = s.fe.heldReports := rfl
@[simp] theorem getFe_setFe_same (s : State) (i : Nat) (x : PortFe) : getFe (setFe s i x) i = x := tabGet_tabSet_same _ _ _ _
theorem getFe_setFe (s : State) (i : Nat) (x : PortFe) (j : Nat) : getFe (setFe s i x) j = if j = i then x else getFe s j := tabGet_tabSet _ _ _ _ _
@[simp] theorem getSlot_setFe (s : State) (i : Nat) (x : PortFe) (j : Nat) : getSlot (setFe s i x) j = getSlot s j := rfl
@[simp] theorem getCtx_setFe (s : State) (i : Nat) (x : PortFe) (j : Nat) : getCtx (setFe s i x) j = getCtx s j := rfl
@[simp] theorem getQp_setFe (s : State) (i : Nat) (x : PortFe) (j : Nat) : getQp (setFe s i x) j = getQp s j := rfl
@[simp] theorem getEv_setFe (s : State) (i : Nat) (x : PortFe) (j : Nat) : getEv (setFe s i x) j = getEv s j := rfl
@[simp] theorem getCore_setFe (s : State) (i : Nat) (x : PortFe) (j : Nat) : getCore (setFe s i x) j = getCore s j := rfl
@[simp] theorem getChan_setFe (s : State) (i : Nat) (x : PortFe) (j : Nat) : getChan (setFe s i x) j = getChan s j := rfl
@[simp] theorem getPort_setFe (s : State) (i : Nat) (x : PortFe) (j : Nat) : getPort (setFe s i x) j = getPort s j := rfl
@[simp] theorem getStream_setFe (s : State) (i : Nat) (x : PortFe) (j : Nat) : getStream (setFe s i x) j = getStream s j := rfl
@[simp] theorem getRun_setFe (s : State) (i : Nat) (x : PortFe) (j : Nat) : getRun (setFe s i x) j = getRun s j := rfl
@[simp] theorem getProg_setFe (s : State) (i : Nat) (x : PortFe) (j : Nat) : getProg (setFe s i x) j = getProg s j := rfl
@[simp] theorem getPath_setFe (s : State) (i : Nat) (x : PortFe) (j : Nat) : getPath (setFe s i x) j = getPath s j := rfl
@[simp] theorem getDie_setFe (s : State) (i : Nat) (x : PortFe) (j : Nat) : getDie (setFe s i x) j = getDie s j := rfl

/-! ### setEv -/

@[simp] theorem setEv_pending (s : State) (i : Nat) (x : Ev) : (setEv s i x).pending = s.pending := rfl
@[simp] theorem setEv_fresh (s : State) (i : Nat) (x : Ev) : (setEv s i x).fresh = s.fresh := rfl
@[simp] theorem setEv_dev (s : State) (i : Nat) (x : Ev) : (setEv s i x).dev = s.dev := rfl
@[simp] theorem setEv_lck (s : State) (i : Nat) (x : Ev) : (setEv s i x).lck = s.lck := rfl
@[simp] theorem setEv_units (s : State) (i : Nat) (x : Ev) : (setEv s i x).units = s.units := rfl
@[simp] theorem setEv_tens (s : State) (i : Nat) (x : Ev) : (setEv s i x).tens = s.tens := rfl
@[simp] theorem setEv_rem (s : State) (i : Nat) (x : Ev) : (setEv s i x).rem = s.rem := rfl
@[simp] theorem setEv_mem (s : State) (i : Nat) (x : Ev) : (setEv s i x).mem = s.mem := rfl
@[simp] theorem setEv_xlt (s : State) (i : Nat) (x : Ev) : (setEv s i x).xlt = s.xlt := rfl
@[simp] theorem setEv_part (s : State) (i : Nat) (x : Ev) : (setEv s i x).part = s.part := rfl
@[simp] theorem setEv_fe (s : State) (i : Nat) (x : Ev) : (setEv s i x).fe = s.fe := rfl
@[simp] theorem setEv_seq (s : State) (i : Nat) (x : Ev) : (setEv s i x).seq = s.seq := rfl
@[simp] theorem setEv_fab (s : State) (i : Nat) (x : Ev) : (setEv s i x).fab = s.fab := rfl
@[simp] theorem setEv_res (s : State) (i : Nat) (x : Ev) : (setEv s i x).res = s.res := rfl
@[simp] theorem setEv_pwr (s : State) (i : Nat) (x : Ev) : (setEv s i x).pwr = s.pwr := rfl
@[simp] theorem setEv_sec (s : State) (i : Nat) (x : Ev) : (setEv s i x).sec = s.sec := rfl
@[simp] theorem setEv_wb (s : State) (i : Nat) (x : Ev) : (setEv s i x).wb = s.wb := rfl
@[simp] theorem setEv_tap (s : State) (i : Nat) (x : Ev) : (setEv s i x).tap = s.tap := rfl
@[simp] theorem setEv_ev_waits (s : State) (i : Nat) (x : Ev) : (setEv s i x).ev.waits = s.ev.waits := rfl
@[simp] theorem setEv_ev_retry (s : State) (i : Nat) (x : Ev) : (setEv s i x).ev.retry = s.ev.retry := rfl
@[simp] theorem setEv_ev_sel (s : State) (i : Nat) (x : Ev) : (setEv s i x).ev.sel = s.ev.sel := rfl
@[simp] theorem setEv_ev_regress (s : State) (i : Nat) (x : Ev) : (setEv s i x).ev.regress = s.ev.regress := rfl
@[simp] theorem setEv_ev_deadlock (s : State) (i : Nat) (x : Ev) : (setEv s i x).ev.deadlock = s.ev.deadlock := rfl
@[simp] theorem setEv_ev_caught (s : State) (i : Nat) (x : Ev) : (setEv s i x).ev.caught = s.ev.caught := rfl
@[simp] theorem getEv_setEv_same (s : State) (i : Nat) (x : Ev) : getEv (setEv s i x) i = x := tabGet_tabSet_same _ _ _ _
theorem getEv_setEv (s : State) (i : Nat) (x : Ev) (j : Nat) : getEv (setEv s i x) j = if j = i then x else getEv s j := tabGet_tabSet _ _ _ _ _
@[simp] theorem getSlot_setEv (s : State) (i : Nat) (x : Ev) (j : Nat) : getSlot (setEv s i x) j = getSlot s j := rfl
@[simp] theorem getCtx_setEv (s : State) (i : Nat) (x : Ev) (j : Nat) : getCtx (setEv s i x) j = getCtx s j := rfl
@[simp] theorem getQp_setEv (s : State) (i : Nat) (x : Ev) (j : Nat) : getQp (setEv s i x) j = getQp s j := rfl
@[simp] theorem getFe_setEv (s : State) (i : Nat) (x : Ev) (j : Nat) : getFe (setEv s i x) j = getFe s j := rfl
@[simp] theorem getCore_setEv (s : State) (i : Nat) (x : Ev) (j : Nat) : getCore (setEv s i x) j = getCore s j := rfl
@[simp] theorem getChan_setEv (s : State) (i : Nat) (x : Ev) (j : Nat) : getChan (setEv s i x) j = getChan s j := rfl
@[simp] theorem getPort_setEv (s : State) (i : Nat) (x : Ev) (j : Nat) : getPort (setEv s i x) j = getPort s j := rfl
@[simp] theorem getStream_setEv (s : State) (i : Nat) (x : Ev) (j : Nat) : getStream (setEv s i x) j = getStream s j := rfl
@[simp] theorem getRun_setEv (s : State) (i : Nat) (x : Ev) (j : Nat) : getRun (setEv s i x) j = getRun s j := rfl
@[simp] theorem getProg_setEv (s : State) (i : Nat) (x : Ev) (j : Nat) : getProg (setEv s i x) j = getProg s j := rfl
@[simp] theorem getPath_setEv (s : State) (i : Nat) (x : Ev) (j : Nat) : getPath (setEv s i x) j = getPath s j := rfl
@[simp] theorem getDie_setEv (s : State) (i : Nat) (x : Ev) (j : Nat) : getDie (setEv s i x) j = getDie s j := rfl

/-! ### setCore -/

@[simp] theorem setCore_pending (s : State) (i : Nat) (x : CoreSt) : (setCore s i x).pending = s.pending := rfl
@[simp] theorem setCore_fresh (s : State) (i : Nat) (x : CoreSt) : (setCore s i x).fresh = s.fresh := rfl
@[simp] theorem setCore_dev (s : State) (i : Nat) (x : CoreSt) : (setCore s i x).dev = s.dev := rfl
@[simp] theorem setCore_lck (s : State) (i : Nat) (x : CoreSt) : (setCore s i x).lck = s.lck := rfl
@[simp] theorem setCore_tens (s : State) (i : Nat) (x : CoreSt) : (setCore s i x).tens = s.tens := rfl
@[simp] theorem setCore_rem (s : State) (i : Nat) (x : CoreSt) : (setCore s i x).rem = s.rem := rfl
@[simp] theorem setCore_mem (s : State) (i : Nat) (x : CoreSt) : (setCore s i x).mem = s.mem := rfl
@[simp] theorem setCore_xlt (s : State) (i : Nat) (x : CoreSt) : (setCore s i x).xlt = s.xlt := rfl
@[simp] theorem setCore_part (s : State) (i : Nat) (x : CoreSt) : (setCore s i x).part = s.part := rfl
@[simp] theorem setCore_fe (s : State) (i : Nat) (x : CoreSt) : (setCore s i x).fe = s.fe := rfl
@[simp] theorem setCore_ev (s : State) (i : Nat) (x : CoreSt) : (setCore s i x).ev = s.ev := rfl
@[simp] theorem setCore_seq (s : State) (i : Nat) (x : CoreSt) : (setCore s i x).seq = s.seq := rfl
@[simp] theorem setCore_fab (s : State) (i : Nat) (x : CoreSt) : (setCore s i x).fab = s.fab := rfl
@[simp] theorem setCore_res (s : State) (i : Nat) (x : CoreSt) : (setCore s i x).res = s.res := rfl
@[simp] theorem setCore_pwr (s : State) (i : Nat) (x : CoreSt) : (setCore s i x).pwr = s.pwr := rfl
@[simp] theorem setCore_sec (s : State) (i : Nat) (x : CoreSt) : (setCore s i x).sec = s.sec := rfl
@[simp] theorem setCore_wb (s : State) (i : Nat) (x : CoreSt) : (setCore s i x).wb = s.wb := rfl
@[simp] theorem setCore_tap (s : State) (i : Nat) (x : CoreSt) : (setCore s i x).tap = s.tap := rfl
@[simp] theorem setCore_units_base (s : State) (i : Nat) (x : CoreSt) : (setCore s i x).units.base = s.units.base := rfl
@[simp] theorem setCore_units_marks (s : State) (i : Nat) (x : CoreSt) : (setCore s i x).units.marks = s.units.marks := rfl
@[simp] theorem setCore_units_bgenBase (s : State) (i : Nat) (x : CoreSt) : (setCore s i x).units.bgenBase = s.units.bgenBase := rfl
@[simp] theorem setCore_units_bgen (s : State) (i : Nat) (x : CoreSt) : (setCore s i x).units.bgen = s.units.bgen := rfl
@[simp] theorem setCore_units_out (s : State) (i : Nat) (x : CoreSt) : (setCore s i x).units.out = s.units.out := rfl
@[simp] theorem setCore_units_isolated (s : State) (i : Nat) (x : CoreSt) : (setCore s i x).units.isolated = s.units.isolated := rfl
@[simp] theorem setCore_units_esc (s : State) (i : Nat) (x : CoreSt) : (setCore s i x).units.esc = s.units.esc := rfl
@[simp] theorem setCore_units_subst (s : State) (i : Nat) (x : CoreSt) : (setCore s i x).units.subst = s.units.subst := rfl
@[simp] theorem setCore_units_svcCmd (s : State) (i : Nat) (x : CoreSt) : (setCore s i x).units.svcCmd = s.units.svcCmd := rfl
@[simp] theorem setCore_units_svcBusy (s : State) (i : Nat) (x : CoreSt) : (setCore s i x).units.svcBusy = s.units.svcBusy := rfl
@[simp] theorem setCore_units_svcStatus (s : State) (i : Nat) (x : CoreSt) : (setCore s i x).units.svcStatus = s.units.svcStatus := rfl
@[simp] theorem getCore_setCore_same (s : State) (i : Nat) (x : CoreSt) : getCore (setCore s i x) i = x := tabGet_tabSet_same _ _ _ _
theorem getCore_setCore (s : State) (i : Nat) (x : CoreSt) (j : Nat) : getCore (setCore s i x) j = if j = i then x else getCore s j := tabGet_tabSet _ _ _ _ _
@[simp] theorem getSlot_setCore (s : State) (i : Nat) (x : CoreSt) (j : Nat) : getSlot (setCore s i x) j = getSlot s j := rfl
@[simp] theorem getCtx_setCore (s : State) (i : Nat) (x : CoreSt) (j : Nat) : getCtx (setCore s i x) j = getCtx s j := rfl
@[simp] theorem getQp_setCore (s : State) (i : Nat) (x : CoreSt) (j : Nat) : getQp (setCore s i x) j = getQp s j := rfl
@[simp] theorem getFe_setCore (s : State) (i : Nat) (x : CoreSt) (j : Nat) : getFe (setCore s i x) j = getFe s j := rfl
@[simp] theorem getEv_setCore (s : State) (i : Nat) (x : CoreSt) (j : Nat) : getEv (setCore s i x) j = getEv s j := rfl
@[simp] theorem getChan_setCore (s : State) (i : Nat) (x : CoreSt) (j : Nat) : getChan (setCore s i x) j = getChan s j := rfl
@[simp] theorem getPort_setCore (s : State) (i : Nat) (x : CoreSt) (j : Nat) : getPort (setCore s i x) j = getPort s j := rfl
@[simp] theorem getStream_setCore (s : State) (i : Nat) (x : CoreSt) (j : Nat) : getStream (setCore s i x) j = getStream s j := rfl
@[simp] theorem getRun_setCore (s : State) (i : Nat) (x : CoreSt) (j : Nat) : getRun (setCore s i x) j = getRun s j := rfl
@[simp] theorem getProg_setCore (s : State) (i : Nat) (x : CoreSt) (j : Nat) : getProg (setCore s i x) j = getProg s j := rfl
@[simp] theorem getPath_setCore (s : State) (i : Nat) (x : CoreSt) (j : Nat) : getPath (setCore s i x) j = getPath s j := rfl
@[simp] theorem getDie_setCore (s : State) (i : Nat) (x : CoreSt) (j : Nat) : getDie (setCore s i x) j = getDie s j := rfl

/-! ### setChan -/

@[simp] theorem setChan_pending (s : State) (i : Nat) (x : Chan) : (setChan s i x).pending = s.pending := rfl
@[simp] theorem setChan_fresh (s : State) (i : Nat) (x : Chan) : (setChan s i x).fresh = s.fresh := rfl
@[simp] theorem setChan_dev (s : State) (i : Nat) (x : Chan) : (setChan s i x).dev = s.dev := rfl
@[simp] theorem setChan_lck (s : State) (i : Nat) (x : Chan) : (setChan s i x).lck = s.lck := rfl
@[simp] theorem setChan_units (s : State) (i : Nat) (x : Chan) : (setChan s i x).units = s.units := rfl
@[simp] theorem setChan_tens (s : State) (i : Nat) (x : Chan) : (setChan s i x).tens = s.tens := rfl
@[simp] theorem setChan_rem (s : State) (i : Nat) (x : Chan) : (setChan s i x).rem = s.rem := rfl
@[simp] theorem setChan_xlt (s : State) (i : Nat) (x : Chan) : (setChan s i x).xlt = s.xlt := rfl
@[simp] theorem setChan_part (s : State) (i : Nat) (x : Chan) : (setChan s i x).part = s.part := rfl
@[simp] theorem setChan_fe (s : State) (i : Nat) (x : Chan) : (setChan s i x).fe = s.fe := rfl
@[simp] theorem setChan_ev (s : State) (i : Nat) (x : Chan) : (setChan s i x).ev = s.ev := rfl
@[simp] theorem setChan_seq (s : State) (i : Nat) (x : Chan) : (setChan s i x).seq = s.seq := rfl
@[simp] theorem setChan_fab (s : State) (i : Nat) (x : Chan) : (setChan s i x).fab = s.fab := rfl
@[simp] theorem setChan_res (s : State) (i : Nat) (x : Chan) : (setChan s i x).res = s.res := rfl
@[simp] theorem setChan_pwr (s : State) (i : Nat) (x : Chan) : (setChan s i x).pwr = s.pwr := rfl
@[simp] theorem setChan_sec (s : State) (i : Nat) (x : Chan) : (setChan s i x).sec = s.sec := rfl
@[simp] theorem setChan_wb (s : State) (i : Nat) (x : Chan) : (setChan s i x).wb = s.wb := rfl
@[simp] theorem setChan_tap (s : State) (i : Nat) (x : Chan) : (setChan s i x).tap = s.tap := rfl
@[simp] theorem setChan_mem_bytes (s : State) (i : Nat) (x : Chan) : (setChan s i x).mem.bytes = s.mem.bytes := rfl
@[simp] theorem setChan_mem_upsets (s : State) (i : Nat) (x : Chan) : (setChan s i x).mem.upsets = s.mem.upsets := rfl
@[simp] theorem setChan_mem_tags (s : State) (i : Nat) (x : Chan) : (setChan s i x).mem.tags = s.mem.tags := rfl
@[simp] theorem setChan_mem_ssTags (s : State) (i : Nat) (x : Chan) : (setChan s i x).mem.ssTags = s.mem.ssTags := rfl
@[simp] theorem setChan_mem_wcount (s : State) (i : Nat) (x : Chan) : (setChan s i x).mem.wcount = s.mem.wcount := rfl
@[simp] theorem setChan_mem_remap (s : State) (i : Nat) (x : Chan) : (setChan s i x).mem.remap = s.mem.remap := rfl
@[simp] theorem setChan_mem_tagSel (s : State) (i : Nat) (x : Chan) : (setChan s i x).mem.tagSel = s.mem.tagSel := rfl
@[simp] theorem setChan_mem_lines (s : State) (i : Nat) (x : Chan) : (setChan s i x).mem.lines = s.mem.lines := rfl
@[simp] theorem setChan_mem_zpend (s : State) (i : Nat) (x : Chan) : (setChan s i x).mem.zpend = s.mem.zpend := rfl
@[simp] theorem setChan_mem_migr (s : State) (i : Nat) (x : Chan) : (setChan s i x).mem.migr = s.mem.migr := rfl
@[simp] theorem setChan_mem_reply (s : State) (i : Nat) (x : Chan) : (setChan s i x).mem.reply = s.mem.reply := rfl
@[simp] theorem getChan_setChan_same (s : State) (i : Nat) (x : Chan) : getChan (setChan s i x) i = x := tabGet_tabSet_same _ _ _ _
theorem getChan_setChan (s : State) (i : Nat) (x : Chan) (j : Nat) : getChan (setChan s i x) j = if j = i then x else getChan s j := tabGet_tabSet _ _ _ _ _
@[simp] theorem getSlot_setChan (s : State) (i : Nat) (x : Chan) (j : Nat) : getSlot (setChan s i x) j = getSlot s j := rfl
@[simp] theorem getCtx_setChan (s : State) (i : Nat) (x : Chan) (j : Nat) : getCtx (setChan s i x) j = getCtx s j := rfl
@[simp] theorem getQp_setChan (s : State) (i : Nat) (x : Chan) (j : Nat) : getQp (setChan s i x) j = getQp s j := rfl
@[simp] theorem getFe_setChan (s : State) (i : Nat) (x : Chan) (j : Nat) : getFe (setChan s i x) j = getFe s j := rfl
@[simp] theorem getEv_setChan (s : State) (i : Nat) (x : Chan) (j : Nat) : getEv (setChan s i x) j = getEv s j := rfl
@[simp] theorem getCore_setChan (s : State) (i : Nat) (x : Chan) (j : Nat) : getCore (setChan s i x) j = getCore s j := rfl
@[simp] theorem getPort_setChan (s : State) (i : Nat) (x : Chan) (j : Nat) : getPort (setChan s i x) j = getPort s j := rfl
@[simp] theorem getStream_setChan (s : State) (i : Nat) (x : Chan) (j : Nat) : getStream (setChan s i x) j = getStream s j := rfl
@[simp] theorem getRun_setChan (s : State) (i : Nat) (x : Chan) (j : Nat) : getRun (setChan s i x) j = getRun s j := rfl
@[simp] theorem getProg_setChan (s : State) (i : Nat) (x : Chan) (j : Nat) : getProg (setChan s i x) j = getProg s j := rfl
@[simp] theorem getPath_setChan (s : State) (i : Nat) (x : Chan) (j : Nat) : getPath (setChan s i x) j = getPath s j := rfl
@[simp] theorem getDie_setChan (s : State) (i : Nat) (x : Chan) (j : Nat) : getDie (setChan s i x) j = getDie s j := rfl

/-! ### setPort -/

@[simp] theorem setPort_pending (s : State) (i : Nat) (x : Port) : (setPort s i x).pending = s.pending := rfl
@[simp] theorem setPort_fresh (s : State) (i : Nat) (x : Port) : (setPort s i x).fresh = s.fresh := rfl
@[simp] theorem setPort_dev (s : State) (i : Nat) (x : Port) : (setPort s i x).dev = s.dev := rfl
@[simp] theorem setPort_lck (s : State) (i : Nat) (x : Port) : (setPort s i x).lck = s.lck := rfl
@[simp] theorem setPort_units (s : State) (i : Nat) (x : Port) : (setPort s i x).units = s.units := rfl
@[simp] theorem setPort_tens (s : State) (i : Nat) (x : Port) : (setPort s i x).tens = s.tens := rfl
@[simp] theorem setPort_rem (s : State) (i : Nat) (x : Port) : (setPort s i x).rem = s.rem := rfl
@[simp] theorem setPort_mem (s : State) (i : Nat) (x : Port) : (setPort s i x).mem = s.mem := rfl
@[simp] theorem setPort_xlt (s : State) (i : Nat) (x : Port) : (setPort s i x).xlt = s.xlt := rfl
@[simp] theorem setPort_part (s : State) (i : Nat) (x : Port) : (setPort s i x).part = s.part := rfl
@[simp] theorem setPort_fe (s : State) (i : Nat) (x : Port) : (setPort s i x).fe = s.fe := rfl
@[simp] theorem setPort_ev (s : State) (i : Nat) (x : Port) : (setPort s i x).ev = s.ev := rfl
@[simp] theorem setPort_seq (s : State) (i : Nat) (x : Port) : (setPort s i x).seq = s.seq := rfl
@[simp] theorem setPort_res (s : State) (i : Nat) (x : Port) : (setPort s i x).res = s.res := rfl
@[simp] theorem setPort_pwr (s : State) (i : Nat) (x : Port) : (setPort s i x).pwr = s.pwr := rfl
@[simp] theorem setPort_sec (s : State) (i : Nat) (x : Port) : (setPort s i x).sec = s.sec := rfl
@[simp] theorem setPort_wb (s : State) (i : Nat) (x : Port) : (setPort s i x).wb = s.wb := rfl
@[simp] theorem setPort_tap (s : State) (i : Nat) (x : Port) : (setPort s i x).tap = s.tap := rfl
@[simp] theorem setPort_fab_tx (s : State) (i : Nat) (x : Port) : (setPort s i x).fab.tx = s.fab.tx := rfl
@[simp] theorem setPort_fab_rx (s : State) (i : Nat) (x : Port) : (setPort s i x).fab.rx = s.fab.rx := rfl
@[simp] theorem setPort_fab_sent (s : State) (i : Nat) (x : Port) : (setPort s i x).fab.sent = s.fab.sent := rfl
@[simp] theorem setPort_fab_refused (s : State) (i : Nat) (x : Port) : (setPort s i x).fab.refused = s.fab.refused := rfl
@[simp] theorem setPort_fab_cutColls (s : State) (i : Nat) (x : Port) : (setPort s i x).fab.cutColls = s.fab.cutColls := rfl
@[simp] theorem setPort_fab_outst (s : State) (i : Nat) (x : Port) : (setPort s i x).fab.outst = s.fab.outst := rfl
@[simp] theorem setPort_fab_nextTag (s : State) (i : Nat) (x : Port) : (setPort s i x).fab.nextTag = s.fab.nextTag := rfl
@[simp] theorem setPort_fab_keys (s : State) (i : Nat) (x : Port) : (setPort s i x).fab.keys = s.fab.keys := rfl
@[simp] theorem setPort_fab_kex (s : State) (i : Nat) (x : Port) : (setPort s i x).fab.kex = s.fab.kex := rfl
@[simp] theorem setPort_fab_verified (s : State) (i : Nat) (x : Port) : (setPort s i x).fab.verified = s.fab.verified := rfl
@[simp] theorem setPort_fab_streams (s : State) (i : Nat) (x : Port) : (setPort s i x).fab.streams = s.fab.streams := rfl
@[simp] theorem setPort_fab_collMsgs (s : State) (i : Nat) (x : Port) : (setPort s i x).fab.collMsgs = s.fab.collMsgs := rfl
@[simp] theorem getPort_setPort_same (s : State) (i : Nat) (x : Port) : getPort (setPort s i x) i = x := tabGet_tabSet_same _ _ _ _
theorem getPort_setPort (s : State) (i : Nat) (x : Port) (j : Nat) : getPort (setPort s i x) j = if j = i then x else getPort s j := tabGet_tabSet _ _ _ _ _
@[simp] theorem getSlot_setPort (s : State) (i : Nat) (x : Port) (j : Nat) : getSlot (setPort s i x) j = getSlot s j := rfl
@[simp] theorem getCtx_setPort (s : State) (i : Nat) (x : Port) (j : Nat) : getCtx (setPort s i x) j = getCtx s j := rfl
@[simp] theorem getQp_setPort (s : State) (i : Nat) (x : Port) (j : Nat) : getQp (setPort s i x) j = getQp s j := rfl
@[simp] theorem getFe_setPort (s : State) (i : Nat) (x : Port) (j : Nat) : getFe (setPort s i x) j = getFe s j := rfl
@[simp] theorem getEv_setPort (s : State) (i : Nat) (x : Port) (j : Nat) : getEv (setPort s i x) j = getEv s j := rfl
@[simp] theorem getCore_setPort (s : State) (i : Nat) (x : Port) (j : Nat) : getCore (setPort s i x) j = getCore s j := rfl
@[simp] theorem getChan_setPort (s : State) (i : Nat) (x : Port) (j : Nat) : getChan (setPort s i x) j = getChan s j := rfl
@[simp] theorem getStream_setPort (s : State) (i : Nat) (x : Port) (j : Nat) : getStream (setPort s i x) j = getStream s j := rfl
@[simp] theorem getRun_setPort (s : State) (i : Nat) (x : Port) (j : Nat) : getRun (setPort s i x) j = getRun s j := rfl
@[simp] theorem getProg_setPort (s : State) (i : Nat) (x : Port) (j : Nat) : getProg (setPort s i x) j = getProg s j := rfl
@[simp] theorem getPath_setPort (s : State) (i : Nat) (x : Port) (j : Nat) : getPath (setPort s i x) j = getPath s j := rfl
@[simp] theorem getDie_setPort (s : State) (i : Nat) (x : Port) (j : Nat) : getDie (setPort s i x) j = getDie s j := rfl

/-! ### setStream -/

@[simp] theorem setStream_pending (s : State) (i : Nat) (x : Stream) : (setStream s i x).pending = s.pending := rfl
@[simp] theorem setStream_fresh (s : State) (i : Nat) (x : Stream) : (setStream s i x).fresh = s.fresh := rfl
@[simp] theorem setStream_dev (s : State) (i : Nat) (x : Stream) : (setStream s i x).dev = s.dev := rfl
@[simp] theorem setStream_lck (s : State) (i : Nat) (x : Stream) : (setStream s i x).lck = s.lck := rfl
@[simp] theorem setStream_units (s : State) (i : Nat) (x : Stream) : (setStream s i x).units = s.units := rfl
@[simp] theorem setStream_tens (s : State) (i : Nat) (x : Stream) : (setStream s i x).tens = s.tens := rfl
@[simp] theorem setStream_rem (s : State) (i : Nat) (x : Stream) : (setStream s i x).rem = s.rem := rfl
@[simp] theorem setStream_mem (s : State) (i : Nat) (x : Stream) : (setStream s i x).mem = s.mem := rfl
@[simp] theorem setStream_xlt (s : State) (i : Nat) (x : Stream) : (setStream s i x).xlt = s.xlt := rfl
@[simp] theorem setStream_part (s : State) (i : Nat) (x : Stream) : (setStream s i x).part = s.part := rfl
@[simp] theorem setStream_fe (s : State) (i : Nat) (x : Stream) : (setStream s i x).fe = s.fe := rfl
@[simp] theorem setStream_ev (s : State) (i : Nat) (x : Stream) : (setStream s i x).ev = s.ev := rfl
@[simp] theorem setStream_seq (s : State) (i : Nat) (x : Stream) : (setStream s i x).seq = s.seq := rfl
@[simp] theorem setStream_res (s : State) (i : Nat) (x : Stream) : (setStream s i x).res = s.res := rfl
@[simp] theorem setStream_pwr (s : State) (i : Nat) (x : Stream) : (setStream s i x).pwr = s.pwr := rfl
@[simp] theorem setStream_sec (s : State) (i : Nat) (x : Stream) : (setStream s i x).sec = s.sec := rfl
@[simp] theorem setStream_wb (s : State) (i : Nat) (x : Stream) : (setStream s i x).wb = s.wb := rfl
@[simp] theorem setStream_tap (s : State) (i : Nat) (x : Stream) : (setStream s i x).tap = s.tap := rfl
@[simp] theorem setStream_fab_ports (s : State) (i : Nat) (x : Stream) : (setStream s i x).fab.ports = s.fab.ports := rfl
@[simp] theorem setStream_fab_tx (s : State) (i : Nat) (x : Stream) : (setStream s i x).fab.tx = s.fab.tx := rfl
@[simp] theorem setStream_fab_rx (s : State) (i : Nat) (x : Stream) : (setStream s i x).fab.rx = s.fab.rx := rfl
@[simp] theorem setStream_fab_sent (s : State) (i : Nat) (x : Stream) : (setStream s i x).fab.sent = s.fab.sent := rfl
@[simp] theorem setStream_fab_refused (s : State) (i : Nat) (x : Stream) : (setStream s i x).fab.refused = s.fab.refused := rfl
@[simp] theorem setStream_fab_cutColls (s : State) (i : Nat) (x : Stream) : (setStream s i x).fab.cutColls = s.fab.cutColls := rfl
@[simp] theorem setStream_fab_outst (s : State) (i : Nat) (x : Stream) : (setStream s i x).fab.outst = s.fab.outst := rfl
@[simp] theorem setStream_fab_nextTag (s : State) (i : Nat) (x : Stream) : (setStream s i x).fab.nextTag = s.fab.nextTag := rfl
@[simp] theorem setStream_fab_keys (s : State) (i : Nat) (x : Stream) : (setStream s i x).fab.keys = s.fab.keys := rfl
@[simp] theorem setStream_fab_kex (s : State) (i : Nat) (x : Stream) : (setStream s i x).fab.kex = s.fab.kex := rfl
@[simp] theorem setStream_fab_verified (s : State) (i : Nat) (x : Stream) : (setStream s i x).fab.verified = s.fab.verified := rfl
@[simp] theorem setStream_fab_collMsgs (s : State) (i : Nat) (x : Stream) : (setStream s i x).fab.collMsgs = s.fab.collMsgs := rfl
@[simp] theorem getStream_setStream_same (s : State) (i : Nat) (x : Stream) : getStream (setStream s i x) i = x := tabGet_tabSet_same _ _ _ _
theorem getStream_setStream (s : State) (i : Nat) (x : Stream) (j : Nat) : getStream (setStream s i x) j = if j = i then x else getStream s j := tabGet_tabSet _ _ _ _ _
@[simp] theorem getSlot_setStream (s : State) (i : Nat) (x : Stream) (j : Nat) : getSlot (setStream s i x) j = getSlot s j := rfl
@[simp] theorem getCtx_setStream (s : State) (i : Nat) (x : Stream) (j : Nat) : getCtx (setStream s i x) j = getCtx s j := rfl
@[simp] theorem getQp_setStream (s : State) (i : Nat) (x : Stream) (j : Nat) : getQp (setStream s i x) j = getQp s j := rfl
@[simp] theorem getFe_setStream (s : State) (i : Nat) (x : Stream) (j : Nat) : getFe (setStream s i x) j = getFe s j := rfl
@[simp] theorem getEv_setStream (s : State) (i : Nat) (x : Stream) (j : Nat) : getEv (setStream s i x) j = getEv s j := rfl
@[simp] theorem getCore_setStream (s : State) (i : Nat) (x : Stream) (j : Nat) : getCore (setStream s i x) j = getCore s j := rfl
@[simp] theorem getChan_setStream (s : State) (i : Nat) (x : Stream) (j : Nat) : getChan (setStream s i x) j = getChan s j := rfl
@[simp] theorem getPort_setStream (s : State) (i : Nat) (x : Stream) (j : Nat) : getPort (setStream s i x) j = getPort s j := rfl
@[simp] theorem getRun_setStream (s : State) (i : Nat) (x : Stream) (j : Nat) : getRun (setStream s i x) j = getRun s j := rfl
@[simp] theorem getProg_setStream (s : State) (i : Nat) (x : Stream) (j : Nat) : getProg (setStream s i x) j = getProg s j := rfl
@[simp] theorem getPath_setStream (s : State) (i : Nat) (x : Stream) (j : Nat) : getPath (setStream s i x) j = getPath s j := rfl
@[simp] theorem getDie_setStream (s : State) (i : Nat) (x : Stream) (j : Nat) : getDie (setStream s i x) j = getDie s j := rfl

/-! ### setRun -/

@[simp] theorem setRun_pending (s : State) (i : Nat) (x : Option Run) : (setRun s i x).pending = s.pending := rfl
@[simp] theorem setRun_fresh (s : State) (i : Nat) (x : Option Run) : (setRun s i x).fresh = s.fresh := rfl
@[simp] theorem setRun_dev (s : State) (i : Nat) (x : Option Run) : (setRun s i x).dev = s.dev := rfl
@[simp] theorem setRun_lck (s : State) (i : Nat) (x : Option Run) : (setRun s i x).lck = s.lck := rfl
@[simp] theorem setRun_units (s : State) (i : Nat) (x : Option Run) : (setRun s i x).units = s.units := rfl
@[simp] theorem setRun_tens (s : State) (i : Nat) (x : Option Run) : (setRun s i x).tens = s.tens := rfl
@[simp] theorem setRun_rem (s : State) (i : Nat) (x : Option Run) : (setRun s i x).rem = s.rem := rfl
@[simp] theorem setRun_mem (s : State) (i : Nat) (x : Option Run) : (setRun s i x).mem = s.mem := rfl
@[simp] theorem setRun_xlt (s : State) (i : Nat) (x : Option Run) : (setRun s i x).xlt = s.xlt := rfl
@[simp] theorem setRun_part (s : State) (i : Nat) (x : Option Run) : (setRun s i x).part = s.part := rfl
@[simp] theorem setRun_fe (s : State) (i : Nat) (x : Option Run) : (setRun s i x).fe = s.fe := rfl
@[simp] theorem setRun_ev (s : State) (i : Nat) (x : Option Run) : (setRun s i x).ev = s.ev := rfl
@[simp] theorem setRun_fab (s : State) (i : Nat) (x : Option Run) : (setRun s i x).fab = s.fab := rfl
@[simp] theorem setRun_res (s : State) (i : Nat) (x : Option Run) : (setRun s i x).res = s.res := rfl
@[simp] theorem setRun_pwr (s : State) (i : Nat) (x : Option Run) : (setRun s i x).pwr = s.pwr := rfl
@[simp] theorem setRun_sec (s : State) (i : Nat) (x : Option Run) : (setRun s i x).sec = s.sec := rfl
@[simp] theorem setRun_wb (s : State) (i : Nat) (x : Option Run) : (setRun s i x).wb = s.wb := rfl
@[simp] theorem setRun_tap (s : State) (i : Nat) (x : Option Run) : (setRun s i x).tap = s.tap := rfl
@[simp] theorem setRun_seq_ends (s : State) (i : Nat) (x : Option Run) : (setRun s i x).seq.ends = s.seq.ends := rfl
@[simp] theorem setRun_seq_progs (s : State) (i : Nat) (x : Option Run) : (setRun s i x).seq.progs = s.seq.progs := rfl
@[simp] theorem setRun_seq_incarn (s : State) (i : Nat) (x : Option Run) : (setRun s i x).seq.incarn = s.seq.incarn := rfl
@[simp] theorem setRun_seq_runSel (s : State) (i : Nat) (x : Option Run) : (setRun s i x).seq.runSel = s.seq.runSel := rfl
@[simp] theorem setRun_seq_progSel (s : State) (i : Nat) (x : Option Run) : (setRun s i x).seq.progSel = s.seq.progSel := rfl
@[simp] theorem setRun_seq_pfIssued (s : State) (i : Nat) (x : Option Run) : (setRun s i x).seq.pfIssued = s.seq.pfIssued := rfl
@[simp] theorem setRun_seq_pfDiscard (s : State) (i : Nat) (x : Option Run) : (setRun s i x).seq.pfDiscard = s.seq.pfDiscard := rfl
@[simp] theorem setRun_seq_rr (s : State) (i : Nat) (x : Option Run) : (setRun s i x).seq.rr = s.seq.rr := rfl
@[simp] theorem setRun_seq_left (s : State) (i : Nat) (x : Option Run) : (setRun s i x).seq.left = s.seq.left := rfl
@[simp] theorem setRun_seq_kv (s : State) (i : Nat) (x : Option Run) : (setRun s i x).seq.kv = s.seq.kv := rfl
@[simp] theorem setRun_seq_kvConflict (s : State) (i : Nat) (x : Option Run) : (setRun s i x).seq.kvConflict = s.seq.kvConflict := rfl
@[simp] theorem setRun_seq_kvWait (s : State) (i : Nat) (x : Option Run) : (setRun s i x).seq.kvWait = s.seq.kvWait := rfl
@[simp] theorem setRun_seq_kvCommits (s : State) (i : Nat) (x : Option Run) : (setRun s i x).seq.kvCommits = s.seq.kvCommits := rfl
@[simp] theorem setRun_seq_kvRollbacks (s : State) (i : Nat) (x : Option Run) : (setRun s i x).seq.kvRollbacks = s.seq.kvRollbacks := rfl
@[simp] theorem getRun_setRun_same (s : State) (i : Nat) (x : Option Run) : getRun (setRun s i x) i = x := tabGet_tabSet_same _ _ _ _
theorem getRun_setRun (s : State) (i : Nat) (x : Option Run) (j : Nat) : getRun (setRun s i x) j = if j = i then x else getRun s j := tabGet_tabSet _ _ _ _ _
@[simp] theorem getSlot_setRun (s : State) (i : Nat) (x : Option Run) (j : Nat) : getSlot (setRun s i x) j = getSlot s j := rfl
@[simp] theorem getCtx_setRun (s : State) (i : Nat) (x : Option Run) (j : Nat) : getCtx (setRun s i x) j = getCtx s j := rfl
@[simp] theorem getQp_setRun (s : State) (i : Nat) (x : Option Run) (j : Nat) : getQp (setRun s i x) j = getQp s j := rfl
@[simp] theorem getFe_setRun (s : State) (i : Nat) (x : Option Run) (j : Nat) : getFe (setRun s i x) j = getFe s j := rfl
@[simp] theorem getEv_setRun (s : State) (i : Nat) (x : Option Run) (j : Nat) : getEv (setRun s i x) j = getEv s j := rfl
@[simp] theorem getCore_setRun (s : State) (i : Nat) (x : Option Run) (j : Nat) : getCore (setRun s i x) j = getCore s j := rfl
@[simp] theorem getChan_setRun (s : State) (i : Nat) (x : Option Run) (j : Nat) : getChan (setRun s i x) j = getChan s j := rfl
@[simp] theorem getPort_setRun (s : State) (i : Nat) (x : Option Run) (j : Nat) : getPort (setRun s i x) j = getPort s j := rfl
@[simp] theorem getStream_setRun (s : State) (i : Nat) (x : Option Run) (j : Nat) : getStream (setRun s i x) j = getStream s j := rfl
@[simp] theorem getProg_setRun (s : State) (i : Nat) (x : Option Run) (j : Nat) : getProg (setRun s i x) j = getProg s j := rfl
@[simp] theorem getPath_setRun (s : State) (i : Nat) (x : Option Run) (j : Nat) : getPath (setRun s i x) j = getPath s j := rfl
@[simp] theorem getDie_setRun (s : State) (i : Nat) (x : Option Run) (j : Nat) : getDie (setRun s i x) j = getDie s j := rfl

/-! ### setProg -/

@[simp] theorem setProg_pending (s : State) (i : Nat) (x : Option Prog) : (setProg s i x).pending = s.pending := rfl
@[simp] theorem setProg_fresh (s : State) (i : Nat) (x : Option Prog) : (setProg s i x).fresh = s.fresh := rfl
@[simp] theorem setProg_dev (s : State) (i : Nat) (x : Option Prog) : (setProg s i x).dev = s.dev := rfl
@[simp] theorem setProg_lck (s : State) (i : Nat) (x : Option Prog) : (setProg s i x).lck = s.lck := rfl
@[simp] theorem setProg_units (s : State) (i : Nat) (x : Option Prog) : (setProg s i x).units = s.units := rfl
@[simp] theorem setProg_tens (s : State) (i : Nat) (x : Option Prog) : (setProg s i x).tens = s.tens := rfl
@[simp] theorem setProg_rem (s : State) (i : Nat) (x : Option Prog) : (setProg s i x).rem = s.rem := rfl
@[simp] theorem setProg_mem (s : State) (i : Nat) (x : Option Prog) : (setProg s i x).mem = s.mem := rfl
@[simp] theorem setProg_xlt (s : State) (i : Nat) (x : Option Prog) : (setProg s i x).xlt = s.xlt := rfl
@[simp] theorem setProg_part (s : State) (i : Nat) (x : Option Prog) : (setProg s i x).part = s.part := rfl
@[simp] theorem setProg_fe (s : State) (i : Nat) (x : Option Prog) : (setProg s i x).fe = s.fe := rfl
@[simp] theorem setProg_ev (s : State) (i : Nat) (x : Option Prog) : (setProg s i x).ev = s.ev := rfl
@[simp] theorem setProg_fab (s : State) (i : Nat) (x : Option Prog) : (setProg s i x).fab = s.fab := rfl
@[simp] theorem setProg_res (s : State) (i : Nat) (x : Option Prog) : (setProg s i x).res = s.res := rfl
@[simp] theorem setProg_pwr (s : State) (i : Nat) (x : Option Prog) : (setProg s i x).pwr = s.pwr := rfl
@[simp] theorem setProg_sec (s : State) (i : Nat) (x : Option Prog) : (setProg s i x).sec = s.sec := rfl
@[simp] theorem setProg_wb (s : State) (i : Nat) (x : Option Prog) : (setProg s i x).wb = s.wb := rfl
@[simp] theorem setProg_tap (s : State) (i : Nat) (x : Option Prog) : (setProg s i x).tap = s.tap := rfl
@[simp] theorem setProg_seq_ends (s : State) (i : Nat) (x : Option Prog) : (setProg s i x).seq.ends = s.seq.ends := rfl
@[simp] theorem setProg_seq_runs (s : State) (i : Nat) (x : Option Prog) : (setProg s i x).seq.runs = s.seq.runs := rfl
@[simp] theorem setProg_seq_incarn (s : State) (i : Nat) (x : Option Prog) : (setProg s i x).seq.incarn = s.seq.incarn := rfl
@[simp] theorem setProg_seq_runSel (s : State) (i : Nat) (x : Option Prog) : (setProg s i x).seq.runSel = s.seq.runSel := rfl
@[simp] theorem setProg_seq_progSel (s : State) (i : Nat) (x : Option Prog) : (setProg s i x).seq.progSel = s.seq.progSel := rfl
@[simp] theorem setProg_seq_pfIssued (s : State) (i : Nat) (x : Option Prog) : (setProg s i x).seq.pfIssued = s.seq.pfIssued := rfl
@[simp] theorem setProg_seq_pfDiscard (s : State) (i : Nat) (x : Option Prog) : (setProg s i x).seq.pfDiscard = s.seq.pfDiscard := rfl
@[simp] theorem setProg_seq_rr (s : State) (i : Nat) (x : Option Prog) : (setProg s i x).seq.rr = s.seq.rr := rfl
@[simp] theorem setProg_seq_left (s : State) (i : Nat) (x : Option Prog) : (setProg s i x).seq.left = s.seq.left := rfl
@[simp] theorem setProg_seq_kv (s : State) (i : Nat) (x : Option Prog) : (setProg s i x).seq.kv = s.seq.kv := rfl
@[simp] theorem setProg_seq_kvConflict (s : State) (i : Nat) (x : Option Prog) : (setProg s i x).seq.kvConflict = s.seq.kvConflict := rfl
@[simp] theorem setProg_seq_kvWait (s : State) (i : Nat) (x : Option Prog) : (setProg s i x).seq.kvWait = s.seq.kvWait := rfl
@[simp] theorem setProg_seq_kvCommits (s : State) (i : Nat) (x : Option Prog) : (setProg s i x).seq.kvCommits = s.seq.kvCommits := rfl
@[simp] theorem setProg_seq_kvRollbacks (s : State) (i : Nat) (x : Option Prog) : (setProg s i x).seq.kvRollbacks = s.seq.kvRollbacks := rfl
@[simp] theorem getProg_setProg_same (s : State) (i : Nat) (x : Option Prog) : getProg (setProg s i x) i = x := tabGet_tabSet_same _ _ _ _
theorem getProg_setProg (s : State) (i : Nat) (x : Option Prog) (j : Nat) : getProg (setProg s i x) j = if j = i then x else getProg s j := tabGet_tabSet _ _ _ _ _
@[simp] theorem getSlot_setProg (s : State) (i : Nat) (x : Option Prog) (j : Nat) : getSlot (setProg s i x) j = getSlot s j := rfl
@[simp] theorem getCtx_setProg (s : State) (i : Nat) (x : Option Prog) (j : Nat) : getCtx (setProg s i x) j = getCtx s j := rfl
@[simp] theorem getQp_setProg (s : State) (i : Nat) (x : Option Prog) (j : Nat) : getQp (setProg s i x) j = getQp s j := rfl
@[simp] theorem getFe_setProg (s : State) (i : Nat) (x : Option Prog) (j : Nat) : getFe (setProg s i x) j = getFe s j := rfl
@[simp] theorem getEv_setProg (s : State) (i : Nat) (x : Option Prog) (j : Nat) : getEv (setProg s i x) j = getEv s j := rfl
@[simp] theorem getCore_setProg (s : State) (i : Nat) (x : Option Prog) (j : Nat) : getCore (setProg s i x) j = getCore s j := rfl
@[simp] theorem getChan_setProg (s : State) (i : Nat) (x : Option Prog) (j : Nat) : getChan (setProg s i x) j = getChan s j := rfl
@[simp] theorem getPort_setProg (s : State) (i : Nat) (x : Option Prog) (j : Nat) : getPort (setProg s i x) j = getPort s j := rfl
@[simp] theorem getStream_setProg (s : State) (i : Nat) (x : Option Prog) (j : Nat) : getStream (setProg s i x) j = getStream s j := rfl
@[simp] theorem getRun_setProg (s : State) (i : Nat) (x : Option Prog) (j : Nat) : getRun (setProg s i x) j = getRun s j := rfl
@[simp] theorem getPath_setProg (s : State) (i : Nat) (x : Option Prog) (j : Nat) : getPath (setProg s i x) j = getPath s j := rfl
@[simp] theorem getDie_setProg (s : State) (i : Nat) (x : Option Prog) (j : Nat) : getDie (setProg s i x) j = getDie s j := rfl

/-! ### setPath -/

@[simp] theorem setPath_pending (s : State) (i : Nat) (x : PathSt) : (setPath s i x).pending = s.pending := rfl
@[simp] theorem setPath_fresh (s : State) (i : Nat) (x : PathSt) : (setPath s i x).fresh = s.fresh := rfl
@[simp] theorem setPath_dev (s : State) (i : Nat) (x : PathSt) : (setPath s i x).dev = s.dev := rfl
@[simp] theorem setPath_units (s : State) (i : Nat) (x : PathSt) : (setPath s i x).units = s.units := rfl
@[simp] theorem setPath_tens (s : State) (i : Nat) (x : PathSt) : (setPath s i x).tens = s.tens := rfl
@[simp] theorem setPath_rem (s : State) (i : Nat) (x : PathSt) : (setPath s i x).rem = s.rem := rfl
@[simp] theorem setPath_mem (s : State) (i : Nat) (x : PathSt) : (setPath s i x).mem = s.mem := rfl
@[simp] theorem setPath_xlt (s : State) (i : Nat) (x : PathSt) : (setPath s i x).xlt = s.xlt := rfl
@[simp] theorem setPath_part (s : State) (i : Nat) (x : PathSt) : (setPath s i x).part = s.part := rfl
@[simp] theorem setPath_fe (s : State) (i : Nat) (x : PathSt) : (setPath s i x).fe = s.fe := rfl
@[simp] theorem setPath_ev (s : State) (i : Nat) (x : PathSt) : (setPath s i x).ev = s.ev := rfl
@[simp] theorem setPath_seq (s : State) (i : Nat) (x : PathSt) : (setPath s i x).seq = s.seq := rfl
@[simp] theorem setPath_fab (s : State) (i : Nat) (x : PathSt) : (setPath s i x).fab = s.fab := rfl
@[simp] theorem setPath_res (s : State) (i : Nat) (x : PathSt) : (setPath s i x).res = s.res := rfl
@[simp] theorem setPath_pwr (s : State) (i : Nat) (x : PathSt) : (setPath s i x).pwr = s.pwr := rfl
@[simp] theorem setPath_sec (s : State) (i : Nat) (x : PathSt) : (setPath s i x).sec = s.sec := rfl
@[simp] theorem setPath_wb (s : State) (i : Nat) (x : PathSt) : (setPath s i x).wb = s.wb := rfl
@[simp] theorem setPath_tap (s : State) (i : Nat) (x : PathSt) : (setPath s i x).tap = s.tap := rfl
@[simp] theorem getPath_setPath_same (s : State) (i : Nat) (x : PathSt) : getPath (setPath s i x) i = x := tabGet_tabSet_same _ _ _ _
theorem getPath_setPath (s : State) (i : Nat) (x : PathSt) (j : Nat) : getPath (setPath s i x) j = if j = i then x else getPath s j := tabGet_tabSet _ _ _ _ _
@[simp] theorem getSlot_setPath (s : State) (i : Nat) (x : PathSt) (j : Nat) : getSlot (setPath s i x) j = getSlot s j := rfl
@[simp] theorem getCtx_setPath (s : State) (i : Nat) (x : PathSt) (j : Nat) : getCtx (setPath s i x) j = getCtx s j := rfl
@[simp] theorem getQp_setPath (s : State) (i : Nat) (x : PathSt) (j : Nat) : getQp (setPath s i x) j = getQp s j := rfl
@[simp] theorem getFe_setPath (s : State) (i : Nat) (x : PathSt) (j : Nat) : getFe (setPath s i x) j = getFe s j := rfl
@[simp] theorem getEv_setPath (s : State) (i : Nat) (x : PathSt) (j : Nat) : getEv (setPath s i x) j = getEv s j := rfl
@[simp] theorem getCore_setPath (s : State) (i : Nat) (x : PathSt) (j : Nat) : getCore (setPath s i x) j = getCore s j := rfl
@[simp] theorem getChan_setPath (s : State) (i : Nat) (x : PathSt) (j : Nat) : getChan (setPath s i x) j = getChan s j := rfl
@[simp] theorem getPort_setPath (s : State) (i : Nat) (x : PathSt) (j : Nat) : getPort (setPath s i x) j = getPort s j := rfl
@[simp] theorem getStream_setPath (s : State) (i : Nat) (x : PathSt) (j : Nat) : getStream (setPath s i x) j = getStream s j := rfl
@[simp] theorem getRun_setPath (s : State) (i : Nat) (x : PathSt) (j : Nat) : getRun (setPath s i x) j = getRun s j := rfl
@[simp] theorem getProg_setPath (s : State) (i : Nat) (x : PathSt) (j : Nat) : getProg (setPath s i x) j = getProg s j := rfl
@[simp] theorem getDie_setPath (s : State) (i : Nat) (x : PathSt) (j : Nat) : getDie (setPath s i x) j = getDie s j := rfl

/-! ### setDie -/

@[simp] theorem setDie_pending (s : State) (i : Nat) (x : Die) : (setDie s i x).pending = s.pending := rfl
@[simp] theorem setDie_fresh (s : State) (i : Nat) (x : Die) : (setDie s i x).fresh = s.fresh := rfl
@[simp] theorem setDie_dev (s : State) (i : Nat) (x : Die) : (setDie s i x).dev = s.dev := rfl
@[simp] theorem setDie_lck (s : State) (i : Nat) (x : Die) : (setDie s i x).lck = s.lck := rfl
@[simp] theorem setDie_units (s : State) (i : Nat) (x : Die) : (setDie s i x).units = s.units := rfl
@[simp] theorem setDie_tens (s : State) (i : Nat) (x : Die) : (setDie s i x).tens = s.tens := rfl
@[simp] theorem setDie_rem (s : State) (i : Nat) (x : Die) : (setDie s i x).rem = s.rem := rfl
@[simp] theorem setDie_mem (s : State) (i : Nat) (x : Die) : (setDie s i x).mem = s.mem := rfl
@[simp] theorem setDie_xlt (s : State) (i : Nat) (x : Die) : (setDie s i x).xlt = s.xlt := rfl
@[simp] theorem setDie_part (s : State) (i : Nat) (x : Die) : (setDie s i x).part = s.part := rfl
@[simp] theorem setDie_fe (s : State) (i : Nat) (x : Die) : (setDie s i x).fe = s.fe := rfl
@[simp] theorem setDie_ev (s : State) (i : Nat) (x : Die) : (setDie s i x).ev = s.ev := rfl
@[simp] theorem setDie_seq (s : State) (i : Nat) (x : Die) : (setDie s i x).seq = s.seq := rfl
@[simp] theorem setDie_fab (s : State) (i : Nat) (x : Die) : (setDie s i x).fab = s.fab := rfl
@[simp] theorem setDie_res (s : State) (i : Nat) (x : Die) : (setDie s i x).res = s.res := rfl
@[simp] theorem setDie_pwr (s : State) (i : Nat) (x : Die) : (setDie s i x).pwr = s.pwr := rfl
@[simp] theorem setDie_sec (s : State) (i : Nat) (x : Die) : (setDie s i x).sec = s.sec := rfl
@[simp] theorem setDie_wb (s : State) (i : Nat) (x : Die) : (setDie s i x).wb = s.wb := rfl
@[simp] theorem getDie_setDie_same (s : State) (i : Nat) (x : Die) : getDie (setDie s i x) i = x := tabGet_tabSet_same _ _ _ _
theorem getDie_setDie (s : State) (i : Nat) (x : Die) (j : Nat) : getDie (setDie s i x) j = if j = i then x else getDie s j := tabGet_tabSet _ _ _ _ _
@[simp] theorem getSlot_setDie (s : State) (i : Nat) (x : Die) (j : Nat) : getSlot (setDie s i x) j = getSlot s j := rfl
@[simp] theorem getCtx_setDie (s : State) (i : Nat) (x : Die) (j : Nat) : getCtx (setDie s i x) j = getCtx s j := rfl
@[simp] theorem getQp_setDie (s : State) (i : Nat) (x : Die) (j : Nat) : getQp (setDie s i x) j = getQp s j := rfl
@[simp] theorem getFe_setDie (s : State) (i : Nat) (x : Die) (j : Nat) : getFe (setDie s i x) j = getFe s j := rfl
@[simp] theorem getEv_setDie (s : State) (i : Nat) (x : Die) (j : Nat) : getEv (setDie s i x) j = getEv s j := rfl
@[simp] theorem getCore_setDie (s : State) (i : Nat) (x : Die) (j : Nat) : getCore (setDie s i x) j = getCore s j := rfl
@[simp] theorem getChan_setDie (s : State) (i : Nat) (x : Die) (j : Nat) : getChan (setDie s i x) j = getChan s j := rfl
@[simp] theorem getPort_setDie (s : State) (i : Nat) (x : Die) (j : Nat) : getPort (setDie s i x) j = getPort s j := rfl
@[simp] theorem getStream_setDie (s : State) (i : Nat) (x : Die) (j : Nat) : getStream (setDie s i x) j = getStream s j := rfl
@[simp] theorem getRun_setDie (s : State) (i : Nat) (x : Die) (j : Nat) : getRun (setDie s i x) j = getRun s j := rfl
@[simp] theorem getProg_setDie (s : State) (i : Nat) (x : Die) (j : Nat) : getProg (setDie s i x) j = getProg s j := rfl
@[simp] theorem getPath_setDie (s : State) (i : Nat) (x : Die) (j : Nat) : getPath (setDie s i x) j = getPath s j := rfl

/-! ### setUnit -/

@[simp] theorem setUnit_pending (s : State) (u : UnitRef) (x : UnitSt) : (setUnit s u x).pending = s.pending := rfl
@[simp] theorem setUnit_fresh (s : State) (u : UnitRef) (x : UnitSt) : (setUnit s u x).fresh = s.fresh := rfl
@[simp] theorem setUnit_dev (s : State) (u : UnitRef) (x : UnitSt) : (setUnit s u x).dev = s.dev := rfl
@[simp] theorem setUnit_lck (s : State) (u : UnitRef) (x : UnitSt) : (setUnit s u x).lck = s.lck := rfl
@[simp] theorem setUnit_tens (s : State) (u : UnitRef) (x : UnitSt) : (setUnit s u x).tens = s.tens := rfl
@[simp] theorem setUnit_rem (s : State) (u : UnitRef) (x : UnitSt) : (setUnit s u x).rem = s.rem := rfl
@[simp] theorem setUnit_mem (s : State) (u : UnitRef) (x : UnitSt) : (setUnit s u x).mem = s.mem := rfl
@[simp] theorem setUnit_xlt (s : State) (u : UnitRef) (x : UnitSt) : (setUnit s u x).xlt = s.xlt := rfl
@[simp] theorem setUnit_part (s : State) (u : UnitRef) (x : UnitSt) : (setUnit s u x).part = s.part := rfl
@[simp] theorem setUnit_fe (s : State) (u : UnitRef) (x : UnitSt) : (setUnit s u x).fe = s.fe := rfl
@[simp] theorem setUnit_ev (s : State) (u : UnitRef) (x : UnitSt) : (setUnit s u x).ev = s.ev := rfl
@[simp] theorem setUnit_seq (s : State) (u : UnitRef) (x : UnitSt) : (setUnit s u x).seq = s.seq := rfl
@[simp] theorem setUnit_fab (s : State) (u : UnitRef) (x : UnitSt) : (setUnit s u x).fab = s.fab := rfl
@[simp] theorem setUnit_res (s : State) (u : UnitRef) (x : UnitSt) : (setUnit s u x).res = s.res := rfl
@[simp] theorem setUnit_pwr (s : State) (u : UnitRef) (x : UnitSt) : (setUnit s u x).pwr = s.pwr := rfl
@[simp] theorem setUnit_sec (s : State) (u : UnitRef) (x : UnitSt) : (setUnit s u x).sec = s.sec := rfl
@[simp] theorem setUnit_wb (s : State) (u : UnitRef) (x : UnitSt) : (setUnit s u x).wb = s.wb := rfl
@[simp] theorem setUnit_tap (s : State) (u : UnitRef) (x : UnitSt) : (setUnit s u x).tap = s.tap := rfl
@[simp] theorem setUnit_units_base (s : State) (u : UnitRef) (x : UnitSt) : (setUnit s u x).units.base = s.units.base := rfl
@[simp] theorem setUnit_units_bgenBase (s : State) (u : UnitRef) (x : UnitSt) : (setUnit s u x).units.bgenBase = s.units.bgenBase := rfl
@[simp] theorem setUnit_units_bgen (s : State) (u : UnitRef) (x : UnitSt) : (setUnit s u x).units.bgen = s.units.bgen := rfl
@[simp] theorem setUnit_units_out (s : State) (u : UnitRef) (x : UnitSt) : (setUnit s u x).units.out = s.units.out := rfl
@[simp] theorem setUnit_units_isolated (s : State) (u : UnitRef) (x : UnitSt) : (setUnit s u x).units.isolated = s.units.isolated := rfl
@[simp] theorem setUnit_units_cores (s : State) (u : UnitRef) (x : UnitSt) : (setUnit s u x).units.cores = s.units.cores := rfl
@[simp] theorem setUnit_units_esc (s : State) (u : UnitRef) (x : UnitSt) : (setUnit s u x).units.esc = s.units.esc := rfl
@[simp] theorem setUnit_units_subst (s : State) (u : UnitRef) (x : UnitSt) : (setUnit s u x).units.subst = s.units.subst := rfl
@[simp] theorem setUnit_units_svcCmd (s : State) (u : UnitRef) (x : UnitSt) : (setUnit s u x).units.svcCmd = s.units.svcCmd := rfl
@[simp] theorem setUnit_units_svcBusy (s : State) (u : UnitRef) (x : UnitSt) : (setUnit s u x).units.svcBusy = s.units.svcBusy := rfl
@[simp] theorem setUnit_units_svcStatus (s : State) (u : UnitRef) (x : UnitSt) : (setUnit s u x).units.svcStatus = s.units.svcStatus := rfl
@[simp] theorem getSlot_setUnit (s : State) (u : UnitRef) (x : UnitSt) (j : Nat) : getSlot (setUnit s u x) j = getSlot s j := rfl
@[simp] theorem getCtx_setUnit (s : State) (u : UnitRef) (x : UnitSt) (j : Nat) : getCtx (setUnit s u x) j = getCtx s j := rfl
@[simp] theorem getQp_setUnit (s : State) (u : UnitRef) (x : UnitSt) (j : Nat) : getQp (setUnit s u x) j = getQp s j := rfl
@[simp] theorem getFe_setUnit (s : State) (u : UnitRef) (x : UnitSt) (j : Nat) : getFe (setUnit s u x) j = getFe s j := rfl
@[simp] theorem getEv_setUnit (s : State) (u : UnitRef) (x : UnitSt) (j : Nat) : getEv (setUnit s u x) j = getEv s j := rfl
@[simp] theorem getCore_setUnit (s : State) (u : UnitRef) (x : UnitSt) (j : Nat) : getCore (setUnit s u x) j = getCore s j := rfl
@[simp] theorem getChan_setUnit (s : State) (u : UnitRef) (x : UnitSt) (j : Nat) : getChan (setUnit s u x) j = getChan s j := rfl
@[simp] theorem getPort_setUnit (s : State) (u : UnitRef) (x : UnitSt) (j : Nat) : getPort (setUnit s u x) j = getPort s j := rfl
@[simp] theorem getStream_setUnit (s : State) (u : UnitRef) (x : UnitSt) (j : Nat) : getStream (setUnit s u x) j = getStream s j := rfl
@[simp] theorem getRun_setUnit (s : State) (u : UnitRef) (x : UnitSt) (j : Nat) : getRun (setUnit s u x) j = getRun s j := rfl
@[simp] theorem getProg_setUnit (s : State) (u : UnitRef) (x : UnitSt) (j : Nat) : getProg (setUnit s u x) j = getProg s j := rfl
@[simp] theorem getPath_setUnit (s : State) (u : UnitRef) (x : UnitSt) (j : Nat) : getPath (setUnit s u x) j = getPath s j := rfl
@[simp] theorem getDie_setUnit (s : State) (u : UnitRef) (x : UnitSt) (j : Nat) : getDie (setUnit s u x) j = getDie s j := rfl

/-! ### setTen -/

@[simp] theorem setTen_pending (s : State) (x : Ten) : (setTen s x).pending = s.pending := rfl
@[simp] theorem setTen_fresh (s : State) (x : Ten) : (setTen s x).fresh = s.fresh := rfl
@[simp] theorem setTen_dev (s : State) (x : Ten) : (setTen s x).dev = s.dev := rfl
@[simp] theorem setTen_lck (s : State) (x : Ten) : (setTen s x).lck = s.lck := rfl
@[simp] theorem setTen_units (s : State) (x : Ten) : (setTen s x).units = s.units := rfl
@[simp] theorem setTen_rem (s : State) (x : Ten) : (setTen s x).rem = s.rem := rfl
@[simp] theorem setTen_mem (s : State) (x : Ten) : (setTen s x).mem = s.mem := rfl
@[simp] theorem setTen_xlt (s : State) (x : Ten) : (setTen s x).xlt = s.xlt := rfl
@[simp] theorem setTen_part (s : State) (x : Ten) : (setTen s x).part = s.part := rfl
@[simp] theorem setTen_fe (s : State) (x : Ten) : (setTen s x).fe = s.fe := rfl
@[simp] theorem setTen_ev (s : State) (x : Ten) : (setTen s x).ev = s.ev := rfl
@[simp] theorem setTen_seq (s : State) (x : Ten) : (setTen s x).seq = s.seq := rfl
@[simp] theorem setTen_fab (s : State) (x : Ten) : (setTen s x).fab = s.fab := rfl
@[simp] theorem setTen_res (s : State) (x : Ten) : (setTen s x).res = s.res := rfl
@[simp] theorem setTen_pwr (s : State) (x : Ten) : (setTen s x).pwr = s.pwr := rfl
@[simp] theorem setTen_sec (s : State) (x : Ten) : (setTen s x).sec = s.sec := rfl
@[simp] theorem setTen_wb (s : State) (x : Ten) : (setTen s x).wb = s.wb := rfl
@[simp] theorem setTen_tap (s : State) (x : Ten) : (setTen s x).tap = s.tap := rfl
@[simp] theorem getSlot_setTen (s : State) (x : Ten) (j : Nat) : getSlot (setTen s x) j = getSlot s j := rfl
@[simp] theorem getCtx_setTen (s : State) (x : Ten) (j : Nat) : getCtx (setTen s x) j = getCtx s j := rfl
@[simp] theorem getQp_setTen (s : State) (x : Ten) (j : Nat) : getQp (setTen s x) j = getQp s j := rfl
@[simp] theorem getFe_setTen (s : State) (x : Ten) (j : Nat) : getFe (setTen s x) j = getFe s j := rfl
@[simp] theorem getEv_setTen (s : State) (x : Ten) (j : Nat) : getEv (setTen s x) j = getEv s j := rfl
@[simp] theorem getCore_setTen (s : State) (x : Ten) (j : Nat) : getCore (setTen s x) j = getCore s j := rfl
@[simp] theorem getChan_setTen (s : State) (x : Ten) (j : Nat) : getChan (setTen s x) j = getChan s j := rfl
@[simp] theorem getPort_setTen (s : State) (x : Ten) (j : Nat) : getPort (setTen s x) j = getPort s j := rfl
@[simp] theorem getStream_setTen (s : State) (x : Ten) (j : Nat) : getStream (setTen s x) j = getStream s j := rfl
@[simp] theorem getRun_setTen (s : State) (x : Ten) (j : Nat) : getRun (setTen s x) j = getRun s j := rfl
@[simp] theorem getProg_setTen (s : State) (x : Ten) (j : Nat) : getProg (setTen s x) j = getProg s j := rfl
@[simp] theorem getPath_setTen (s : State) (x : Ten) (j : Nat) : getPath (setTen s x) j = getPath s j := rfl
@[simp] theorem getDie_setTen (s : State) (x : Ten) (j : Nat) : getDie (setTen s x) j = getDie s j := rfl

/-! ### setBegun -/

@[simp] theorem setBegun_pending (s : State) (x : Begun) : (setBegun s x).pending = s.pending := rfl
@[simp] theorem setBegun_fresh (s : State) (x : Begun) : (setBegun s x).fresh = s.fresh := rfl
@[simp] theorem setBegun_dev (s : State) (x : Begun) : (setBegun s x).dev = s.dev := rfl
@[simp] theorem setBegun_lck (s : State) (x : Begun) : (setBegun s x).lck = s.lck := rfl
@[simp] theorem setBegun_units (s : State) (x : Begun) : (setBegun s x).units = s.units := rfl
@[simp] theorem setBegun_tens (s : State) (x : Begun) : (setBegun s x).tens = s.tens := rfl
@[simp] theorem setBegun_rem (s : State) (x : Begun) : (setBegun s x).rem = s.rem := rfl
@[simp] theorem setBegun_mem (s : State) (x : Begun) : (setBegun s x).mem = s.mem := rfl
@[simp] theorem setBegun_xlt (s : State) (x : Begun) : (setBegun s x).xlt = s.xlt := rfl
@[simp] theorem setBegun_part (s : State) (x : Begun) : (setBegun s x).part = s.part := rfl
@[simp] theorem setBegun_ev (s : State) (x : Begun) : (setBegun s x).ev = s.ev := rfl
@[simp] theorem setBegun_seq (s : State) (x : Begun) : (setBegun s x).seq = s.seq := rfl
@[simp] theorem setBegun_fab (s : State) (x : Begun) : (setBegun s x).fab = s.fab := rfl
@[simp] theorem setBegun_res (s : State) (x : Begun) : (setBegun s x).res = s.res := rfl
@[simp] theorem setBegun_pwr (s : State) (x : Begun) : (setBegun s x).pwr = s.pwr := rfl
@[simp] theorem setBegun_sec (s : State) (x : Begun) : (setBegun s x).sec = s.sec := rfl
@[simp] theorem setBegun_wb (s : State) (x : Begun) : (setBegun s x).wb = s.wb := rfl
@[simp] theorem setBegun_tap (s : State) (x : Begun) : (setBegun s x).tap = s.tap := rfl
@[simp] theorem setBegun_fe_qps (s : State) (x : Begun) : (setBegun s x).fe.qps = s.fe.qps := rfl
@[simp] theorem setBegun_fe_qptSel (s : State) (x : Begun) : (setBegun s x).fe.qptSel = s.fe.qptSel := rfl
@[simp] theorem setBegun_fe_ports (s : State) (x : Begun) : (setBegun s x).fe.ports = s.fe.ports := rfl
@[simp] theorem setBegun_fe_nextId (s : State) (x : Begun) : (setBegun s x).fe.nextId = s.fe.nextId := rfl
@[simp] theorem setBegun_fe_sideExpected (s : State) (x : Begun) : (setBegun s x).fe.sideExpected = s.fe.sideExpected := rfl
@[simp] theorem setBegun_fe_sideHeld (s : State) (x : Begun) : (setBegun s x).fe.sideHeld = s.fe.sideHeld := rfl
@[simp] theorem setBegun_fe_sideWait (s : State) (x : Begun) : (setBegun s x).fe.sideWait = s.fe.sideWait := rfl
@[simp] theorem setBegun_fe_sideOut (s : State) (x : Begun) : (setBegun s x).fe.sideOut = s.fe.sideOut := rfl
@[simp] theorem setBegun_fe_heldReports (s : State) (x : Begun) : (setBegun s x).fe.heldReports = s.fe.heldReports := rfl
@[simp] theorem getSlot_setBegun (s : State) (x : Begun) (j : Nat) : getSlot (setBegun s x) j = getSlot s j := rfl
@[simp] theorem getCtx_setBegun (s : State) (x : Begun) (j : Nat) : getCtx (setBegun s x) j = getCtx s j := rfl
@[simp] theorem getQp_setBegun (s : State) (x : Begun) (j : Nat) : getQp (setBegun s x) j = getQp s j := rfl
@[simp] theorem getFe_setBegun (s : State) (x : Begun) (j : Nat) : getFe (setBegun s x) j = getFe s j := rfl
@[simp] theorem getEv_setBegun (s : State) (x : Begun) (j : Nat) : getEv (setBegun s x) j = getEv s j := rfl
@[simp] theorem getCore_setBegun (s : State) (x : Begun) (j : Nat) : getCore (setBegun s x) j = getCore s j := rfl
@[simp] theorem getChan_setBegun (s : State) (x : Begun) (j : Nat) : getChan (setBegun s x) j = getChan s j := rfl
@[simp] theorem getPort_setBegun (s : State) (x : Begun) (j : Nat) : getPort (setBegun s x) j = getPort s j := rfl
@[simp] theorem getStream_setBegun (s : State) (x : Begun) (j : Nat) : getStream (setBegun s x) j = getStream s j := rfl
@[simp] theorem getRun_setBegun (s : State) (x : Begun) (j : Nat) : getRun (setBegun s x) j = getRun s j := rfl
@[simp] theorem getProg_setBegun (s : State) (x : Begun) (j : Nat) : getProg (setBegun s x) j = getProg s j := rfl
@[simp] theorem getPath_setBegun (s : State) (x : Begun) (j : Nat) : getPath (setBegun s x) j = getPath s j := rfl
@[simp] theorem getDie_setBegun (s : State) (x : Begun) (j : Nat) : getDie (setBegun s x) j = getDie s j := rfl

/-! ### setMoving -/

@[simp] theorem setMoving_pending (s : State) (x : Moving) : (setMoving s x).pending = s.pending := rfl
@[simp] theorem setMoving_fresh (s : State) (x : Moving) : (setMoving s x).fresh = s.fresh := rfl
@[simp] theorem setMoving_dev (s : State) (x : Moving) : (setMoving s x).dev = s.dev := rfl
@[simp] theorem setMoving_lck (s : State) (x : Moving) : (setMoving s x).lck = s.lck := rfl
@[simp] theorem setMoving_units (s : State) (x : Moving) : (setMoving s x).units = s.units := rfl
@[simp] theorem setMoving_tens (s : State) (x : Moving) : (setMoving s x).tens = s.tens := rfl
@[simp] theorem setMoving_rem (s : State) (x : Moving) : (setMoving s x).rem = s.rem := rfl
@[simp] theorem setMoving_mem (s : State) (x : Moving) : (setMoving s x).mem = s.mem := rfl
@[simp] theorem setMoving_xlt (s : State) (x : Moving) : (setMoving s x).xlt = s.xlt := rfl
@[simp] theorem setMoving_fe (s : State) (x : Moving) : (setMoving s x).fe = s.fe := rfl
@[simp] theorem setMoving_ev (s : State) (x : Moving) : (setMoving s x).ev = s.ev := rfl
@[simp] theorem setMoving_seq (s : State) (x : Moving) : (setMoving s x).seq = s.seq := rfl
@[simp] theorem setMoving_fab (s : State) (x : Moving) : (setMoving s x).fab = s.fab := rfl
@[simp] theorem setMoving_res (s : State) (x : Moving) : (setMoving s x).res = s.res := rfl
@[simp] theorem setMoving_pwr (s : State) (x : Moving) : (setMoving s x).pwr = s.pwr := rfl
@[simp] theorem setMoving_sec (s : State) (x : Moving) : (setMoving s x).sec = s.sec := rfl
@[simp] theorem setMoving_wb (s : State) (x : Moving) : (setMoving s x).wb = s.wb := rfl
@[simp] theorem setMoving_tap (s : State) (x : Moving) : (setMoving s x).tap = s.tap := rfl
@[simp] theorem setMoving_part_slots (s : State) (x : Moving) : (setMoving s x).part.slots = s.part.slots := rfl
@[simp] theorem setMoving_part_ctxs (s : State) (x : Moving) : (setMoving s x).part.ctxs = s.part.ctxs := rfl
@[simp] theorem setMoving_part_bars (s : State) (x : Moving) : (setMoving s x).part.bars = s.part.bars := rfl
@[simp] theorem setMoving_part_barMsgs (s : State) (x : Moving) : (setMoving s x).part.barMsgs = s.part.barMsgs := rfl
@[simp] theorem setMoving_part_prtSel (s : State) (x : Moving) : (setMoving s x).part.prtSel = s.part.prtSel := rfl
@[simp] theorem setMoving_part_ctxSel (s : State) (x : Moving) : (setMoving s x).part.ctxSel = s.part.ctxSel := rfl
@[simp] theorem setMoving_part_orphan (s : State) (x : Moving) : (setMoving s x).part.orphan = s.part.orphan := rfl
@[simp] theorem setMoving_part_offers (s : State) (x : Moving) : (setMoving s x).part.offers = s.part.offers := rfl
@[simp] theorem setMoving_part_flushes (s : State) (x : Moving) : (setMoving s x).part.flushes = s.part.flushes := rfl
@[simp] theorem setMoving_part_ownActs (s : State) (x : Moving) : (setMoving s x).part.ownActs = s.part.ownActs := rfl
@[simp] theorem setMoving_part_tells (s : State) (x : Moving) : (setMoving s x).part.tells = s.part.tells := rfl
@[simp] theorem setMoving_part_pubs (s : State) (x : Moving) : (setMoving s x).part.pubs = s.part.pubs := rfl
@[simp] theorem setMoving_part_heldFab (s : State) (x : Moving) : (setMoving s x).part.heldFab = s.part.heldFab := rfl
@[simp] theorem setMoving_part_heldFlush (s : State) (x : Moving) : (setMoving s x).part.heldFlush = s.part.heldFlush := rfl
@[simp] theorem setMoving_part_notices (s : State) (x : Moving) : (setMoving s x).part.notices = s.part.notices := rfl
@[simp] theorem setMoving_part_failedPeers (s : State) (x : Moving) : (setMoving s x).part.failedPeers = s.part.failedPeers := rfl
@[simp] theorem setMoving_part_foundPeers (s : State) (x : Moving) : (setMoving s x).part.foundPeers = s.part.foundPeers := rfl
@[simp] theorem setMoving_part_memKeyCtr (s : State) (x : Moving) : (setMoving s x).part.memKeyCtr = s.part.memKeyCtr := rfl
@[simp] theorem getSlot_setMoving (s : State) (x : Moving) (j : Nat) : getSlot (setMoving s x) j = getSlot s j := rfl
@[simp] theorem getCtx_setMoving (s : State) (x : Moving) (j : Nat) : getCtx (setMoving s x) j = getCtx s j := rfl
@[simp] theorem getQp_setMoving (s : State) (x : Moving) (j : Nat) : getQp (setMoving s x) j = getQp s j := rfl
@[simp] theorem getFe_setMoving (s : State) (x : Moving) (j : Nat) : getFe (setMoving s x) j = getFe s j := rfl
@[simp] theorem getEv_setMoving (s : State) (x : Moving) (j : Nat) : getEv (setMoving s x) j = getEv s j := rfl
@[simp] theorem getCore_setMoving (s : State) (x : Moving) (j : Nat) : getCore (setMoving s x) j = getCore s j := rfl
@[simp] theorem getChan_setMoving (s : State) (x : Moving) (j : Nat) : getChan (setMoving s x) j = getChan s j := rfl
@[simp] theorem getPort_setMoving (s : State) (x : Moving) (j : Nat) : getPort (setMoving s x) j = getPort s j := rfl
@[simp] theorem getStream_setMoving (s : State) (x : Moving) (j : Nat) : getStream (setMoving s x) j = getStream s j := rfl
@[simp] theorem getRun_setMoving (s : State) (x : Moving) (j : Nat) : getRun (setMoving s x) j = getRun s j := rfl
@[simp] theorem getProg_setMoving (s : State) (x : Moving) (j : Nat) : getProg (setMoving s x) j = getProg s j := rfl
@[simp] theorem getPath_setMoving (s : State) (x : Moving) (j : Nat) : getPath (setMoving s x) j = getPath s j := rfl
@[simp] theorem getDie_setMoving (s : State) (x : Moving) (j : Nat) : getDie (setMoving s x) j = getDie s j := rfl

end Sys2Proof.Machine
end

