-- ==== Sys2Proof/Laws/Arrive.lean ====
section
/-! SUPPORT. What a command packet does that starts as it arrives: `arrive` once and for all, and how a row's effect follows
from what its handler does. -/
namespace Sys2Proof.Machine

@[simp] theorem setHalfPwr_fe (s : State) (h x : Nat) : (setHalfPwr s h x).fe = s.fe := by unfold setHalfPwr; split <;> rfl
@[simp] theorem setHalfPwr_part (s : State) (h x : Nat) : (setHalfPwr s h x).part = s.part := by unfold setHalfPwr; split <;> rfl
@[simp] theorem setHalfPwr_res (s : State) (h x : Nat) : (setHalfPwr s h x).res = s.res := by unfold setHalfPwr; split <;> rfl
@[simp] theorem lullWake_fe (s : State) (h : Nat) : (lullWake s h).fe = s.fe := by unfold lullWake; split <;> simp
@[simp] theorem lullWake_part (s : State) (h : Nat) : (lullWake s h).part = s.part := by unfold lullWake; split <;> simp
@[simp] theorem lullWake_res (s : State) (h : Nat) : (lullWake s h).res = s.res := by unfold lullWake; split <;> simp
@[simp] theorem setHalfPwr_fab (s : State) (h x : Nat) : (setHalfPwr s h x).fab = s.fab := by unfold setHalfPwr; split <;> rfl
@[simp] theorem lullWake_fab (s : State) (h : Nat) : (lullWake s h).fab = s.fab := by unfold lullWake; split <;> simp
@[simp] theorem getFe_lullWake (s : State) (h i : Nat) : getFe (lullWake s h) i = getFe s i := by simp [getFe]

/-- The check of a context looks at the contexts alone. -/
theorem ctxCheck_congr {s t : State} (h : t.part = s.part) (ctx : Nat) (gen : BitVec 8) : ctxCheck t ctx gen = ctxCheck s ctx gen := by
  have e : getCtx t ctx = getCtx s ctx := by rw [getCtx, getCtx, h]
  unfold ctxCheck
  rw [e]

@[simp] theorem chargeItem_part (h cls cost : Nat) (s : State) : (chargeItem h cls cost s).part = s.part := rfl
@[simp] theorem admitted_part (s : State) (h : Nat) : (admitted s h).part = s.part := by simp [admitted]
@[simp] theorem taken_fab (s : State) (h : Nat) (p : Pkt) : (taken s h p).fab = s.fab := by simp [taken, admitted, chargeItem]
@[simp] theorem taken_part (s : State) (h : Nat) (p : Pkt) : (taken s h p).part = s.part := by simp [taken]

/-- The checks of R161 find nothing against a packet that QP 0 takes. -/
theorem checkMgmt_of_takes {s : State} {h : Nat} {p : Pkt} (k : MgmtTakes s h p) : checkMgmt (lullWake s h) h p = .accept := by
  obtain ⟨-, -, -, -, k5, k6, k7, k8, k9, k10, k11, k12, -⟩ := k
  have e : checkAdapter0 (lullWake s h) h p = none := by
    rw [← k6]; simp [checkAdapter0, ctxCheck_congr (lullWake_part s h)]
  have t : takingOver (lullWake s h) = false := by simpa [takingOver] using k5
  have hl : ¬ (8192 < p.plen ∨ p.plen ≠ p.payload.length) := by omega
  simp [checkMgmt, t, e, hl, k9, k10, k11, k12]

/-- A packet that QP 0 accepts and the front end starts next goes through its handler in the state `taken`. -/
theorem arrive_of_accept {s : State} {h : Nat} {p : Pkt} (f hf : Handler) (k1 : p.src = .haldip h) (k2 : p.qpn = 0)
    (k3 : (getFe s h).up = true) (k4 : p.rxOk = true) (c : checkMgmt (lullWake s h) h p = .accept)
    (st : startsNow (admitted s h) h (.mgmt h) p = true) (g : startGate (taken s h p) (.mgmt h) p = none) :
    arrive f hf p s = wakeAll (f (.mgmt h) p (taken s h p)) := by
  have ac : acceptMgmt f h p (lullWake s h) = startItem f h (.mgmt h) p (admitted s h) := by
    have e : acceptMgmt f h p (lullWake s h) = (if startsNow (admitted s h) h (.mgmt h) p
        then startItem f h (.mgmt h) p (admitted s h)
        else setFe (admitted s h) h { getFe (admitted s h) h with held := (getFe (admitted s h) h).held ++ [p] }) := by
      simp only [acceptMgmt, getFe_lullWake]
      rfl
    rw [e, st]; rfl
  have go : startItem f h (.mgmt h) p (admitted s h) = wakeAll (f (.mgmt h) p (taken s h p)) := by
    have e : startItem f h (.mgmt h) p (admitted s h) = startWith f (.mgmt h) p (taken s h p) := rfl
    rw [e, startWith, g]
  simp only [arrive, k1, arriveHaldip, k3, if_true, getFe_lullWake, k4, Bool.not_true, Bool.false_eq_true, if_false, k2, c,
    ac, go]

/-- A packet that QP 0 takes starts through its handler in the state `taken`. -/
theorem arrive_of_takes {s : State} {h : Nat} {p : Pkt} (f hf : Handler) (k : MgmtTakes s h p) :
    arrive f hf p s = wakeAll (f (.mgmt h) p (taken s h p)) := by
  have c := checkMgmt_of_takes k
  obtain ⟨k1, k2, k3, k4, -, k6, -, -, -, -, -, -, k13⟩ := k
  refine arrive_of_accept f hf k1 k2 k3 k4 c k13 ?_
  simp only [startGate]
  split
  · next ha =>
    rw [ctxCheck_congr (taken_part s h p)]
    simp only [checkAdapter0, ha] at k6
    split at k6
    · cases k6
    · simpa using k6
  · rfl

/-- What a row does on QP 0 follows from what its handler does. -/
theorem runsVia_of {mk : Pkt → Instr} {g : Pkt → Pkt} {cond : Nat → Pkt → State → Prop} {effect : Nat → Pkt → State → State}
    (f hf : Handler) (he : ∀ p s, exec (mk p) s = .next (arrive f hf (g p) s))
    (hs : ∀ h p u, cond h (g p) u → f (.mgmt h) (g p) u = effect h (g p) u) : RunsVia mk g cond effect := by
  intro s h p k c
  rw [he, arrive_of_takes f hf k, hs _ _ _ c]

/-- `runsVia_of` for a packet of an opcode. -/
theorem runsOn0_of {mk : Pkt → Instr} {op : Nat} {cond : Nat → Pkt → State → Prop} {effect : Nat → Pkt → State → State}
    (f hf : Handler) (he : ∀ p s, exec (mk p) s = .next (arrive f hf { p with opcode := op } s))
    (hs : ∀ h p u, p.opcode = op → cond h p u → f (.mgmt h) p u = effect h p u) : RunsOn0 mk op cond effect :=
  runsVia_of f hf he (fun h _ u c => hs h _ u rfl c)

/-- The OP of a PART_REBIND packet is the one its row has. -/
theorem rebindPkt_op (p : Pkt) {op : Nat} (h : op < 16) : fld (rebindPkt p op).w5.toNat 0 4 = op := by
  have := p.w5.isLt
  simp only [rebindPkt, fld, BitVec.toNat_ofNat]
  omega

/-- A packet that comes in from another module goes through the handler for the fabric. -/
theorem arrive_of_fabric {s : State} {p : Pkt} {mid pid pgen : Nat} (f hf : Handler) (k : FabricTakes s p mid pid pgen) :
    arrive f hf p s = hf (.fabric mid pid pgen) p s := by
  obtain ⟨k1, k2, k3⟩ := k
  unfold arrive
  simp only [k1, k2, ne_eq, not_true, if_false, k3]

/-- What a row does on the escape VC follows from what its handler does. -/
theorem runsOnFabric_of {mk : Pkt → Instr} {op : Nat} {cond : QRef → Pkt → State → Prop} {effect : QRef → Pkt → State → State}
    (f hf : Handler) (he : ∀ p s, exec (mk p) s = .next (arrive f hf { p with opcode := op } s))
    (hs : ∀ mid pid pgen p u, p.opcode = op → cond (.fabric mid pid pgen) p u →
      hf (.fabric mid pid pgen) p u = effect (.fabric mid pid pgen) p u) :
    RunsOnFabric mk op cond effect := by
  intro s p mid pid pgen k c
  rw [he, arrive_of_fabric f hf (p := { p with opcode := op }) k, hs _ _ _ _ _ rfl c]

/-- A handoff message goes through its handler for the slot. -/
theorem arrive_of_hand {s : State} {p : Pkt} {mid pid pgen slot op : Nat} (f : Handler) (g : Nat → Handler)
    (k : HandTakes s p mid pid pgen slot) :
    arrive f (handStart g) { p with opcode := op } s = g slot (.fabric mid pid pgen) { p with opcode := op } s := by
  obtain ⟨k1, k2, k3⟩ := k
  rw [arrive_of_fabric f (handStart g) (p := { p with opcode := op }) k1]
  unfold handStart
  simp only [k2, k3, if_true]

/-- What a core instruction does follows from what its meaning does once it has issued. -/
theorem executes_of {regs : CoreWord → List Reg} {proper : CoreWord → Bool} {mk : TenRef → BitVec 56 → Instr}
    {cond : CoreWord → Ten → State → Prop} {effect : CoreWord → Ten → State → State}
    (f : CoreWord → Ten → State → State)
    (he : ∀ t w s, exec (mk t w) s = .next (issue t (regs (coreWord w)) (proper (coreWord w)) (f (coreWord w)) s))
    (hs : ∀ w x u, cond w x u → f w x u = effect w x u) : Executes regs proper mk cond effect := by
  rintro s t w x u ⟨k1, k2, k3⟩ pr c
  rw [he, ← hs _ _ _ c]
  simp [issue, k1, k2, k3, pr]

end Sys2Proof.Machine
end

