-- ==== Sys2Proof/Laws/Bytes.lean ====
section
/-! SUPPORT. The laws of byte strings: what reading a number at an offset of joined strings gives, and that a number written
least significant byte first reads as itself. -/
namespace Sys2Proof.Machine

@[simp] theorem length_leBytes (n x : Nat) : (leBytes n x).length = n := by
  induction n generalizing x with
  | zero => rfl
  | succ n ih => simp [leBytes, ih]

/-- A number written as `n` bytes reads as itself, modulo 2^(8 n). -/
@[simp] theorem ofLE_leBytes (n x : Nat) : ofLE (leBytes n x) = x % 256 ^ n := by
  induction n generalizing x with
  | zero => simp [leBytes, ofLE, Nat.mod_one]
  | succ n ih =>
    simp only [leBytes, ofLE, ih, BitVec.toNat_ofNat]
    have h : (256 : Nat) ^ (n + 1) = 256 * 256 ^ n := by rw [Nat.pow_succ, Nat.mul_comm]
    rw [h, Nat.mod_mul]

@[simp] theorem length_sliceZ (l : List Byte) (o n : Nat) : (sliceZ l o n).length = n := by
  simp [sliceZ] <;> omega

/-- A slice that ends inside a string is that part of it. -/
theorem sliceZ_inside {l : List Byte} {o n : Nat} (h : o + n ≤ l.length) : sliceZ l o n = (l.drop o).take n := by
  simp [sliceZ, Nat.min_eq_left (by omega : n ≤ l.length - o)]

theorem sliceZ_left {a b : List Byte} {o n : Nat} (h : o + n ≤ a.length) : sliceZ (a ++ b) o n = sliceZ a o n := by
  have h2 : o + n ≤ (a ++ b).length := by simp; omega
  rw [sliceZ_inside h, sliceZ_inside h2, List.drop_append_of_le_length (by omega), List.take_append_of_le_length (by simp; omega)]

theorem sliceZ_right {a b : List Byte} {o n : Nat} (h : a.length ≤ o) : sliceZ (a ++ b) o n = sliceZ b (o - a.length) n := by
  simp only [sliceZ, List.drop_append, List.drop_eq_nil_of_le h, List.nil_append]

@[simp] theorem sliceZ_all (l : List Byte) : sliceZ l 0 l.length = l := by simp [sliceZ]

theorem sliceZ_whole {l : List Byte} {n : Nat} (h : n = l.length) : sliceZ l 0 n = l := by subst h; simp

theorem numAt_left {a b : List Byte} {o n : Nat} (h : o + n ≤ a.length) : numAt (a ++ b) o n = numAt a o n := by
  simp [numAt, sliceZ_left h]

theorem numAt_right {a b : List Byte} {o n : Nat} (h : a.length ≤ o) : numAt (a ++ b) o n = numAt b (o - a.length) n := by
  simp [numAt, sliceZ_right h]

/-- The number at the front of a string that starts with it. -/
@[simp] theorem numAt_leBytes (n x : Nat) : numAt (leBytes n x) 0 n = x % 256 ^ n := by
  have h : sliceZ (leBytes n x) 0 n = leBytes n x := sliceZ_whole (by simp)
  simp [numAt, h]

/-- The words of a packet are four bytes each. -/
@[simp] theorem length_wordBytes (ws : List W32) : (wordBytes ws).length = 4 * ws.length := by
  induction ws with
  | nil => rfl
  | cons w ws ih => simp [wordBytes] at ih ⊢; omega

/-- Word `i` of a list of words read back from its bytes. -/
theorem numAt_wordBytes {ws : List W32} {i : Nat} (h : i < ws.length) : numAt (wordBytes ws) (4 * i) 4 = (ws[i]).toNat := by
  induction ws generalizing i with
  | nil => simp at h
  | cons w ws ih =>
    have e : wordBytes (w :: ws) = leBytes 4 w.toNat ++ wordBytes ws := rfl
    cases i with
    | zero =>
      rw [e, numAt_left (by simp)]
      have := w.isLt
      simp; omega
    | succ i =>
      rw [e, numAt_right (by simp <;> omega)]
      have : 4 * (i + 1) - (leBytes 4 w.toNat).length = 4 * i := by simp; omega
      rw [this, ih (by simpa using h)]
      simp

end Sys2Proof.Machine
end

