-- ==== Sys2Proof/Laws/Report.lean ====
section
/-! SUPPORT. What a report and a log record can change (R308, R309): the ports' reports, the log and its counters, nothing
else. -/
namespace Sys2Proof.Machine

/-- A report changes the front end (a port's buffer or the reports that wait) and the count of dropped ones. -/
theorem queueReport_eq (s : State) (r : Reply) (n : Bool) :
    queueReport s r n = { s with fe := (queueReport s r n).fe,
                                 res := { s.res with rptDrop := (queueReport s r n).res.rptDrop } } := by
  unfold queueReport
  split
  · split
    · rfl
    · split <;> rfl
  · split <;> rfl

/-- A log record changes the log, its counters and what a report changes. -/
theorem logNote_eq (n : Note) (s : State) :
    logNote n s = { s with
      fe := (logNote n s).fe,
      res := { s.res with
        log := (logNote n s).res.log, logHead := (logNote n s).res.logHead, logSeq := (logNote n s).res.logSeq,
        logOver := (logNote n s).res.logOver, rptDrop := (logNote n s).res.rptDrop } } := by
  unfold logNote
  split
  · rfl
  · dsimp only
    rw [queueReport_eq]

@[simp] theorem logNote_pending (n : Note) (s : State) : (logNote n s).pending = s.pending := by rw [logNote_eq]
@[simp] theorem logNote_dev (n : Note) (s : State) : (logNote n s).dev = s.dev := by rw [logNote_eq]
@[simp] theorem logNote_units (n : Note) (s : State) : (logNote n s).units = s.units := by rw [logNote_eq]
@[simp] theorem logNote_tens (n : Note) (s : State) : (logNote n s).tens = s.tens := by rw [logNote_eq]
@[simp] theorem logNote_rem (n : Note) (s : State) : (logNote n s).rem = s.rem := by rw [logNote_eq]
@[simp] theorem logNote_mem (n : Note) (s : State) : (logNote n s).mem = s.mem := by rw [logNote_eq]
@[simp] theorem logNote_xlt (n : Note) (s : State) : (logNote n s).xlt = s.xlt := by rw [logNote_eq]
@[simp] theorem logNote_part (n : Note) (s : State) : (logNote n s).part = s.part := by rw [logNote_eq]
@[simp] theorem logNote_ev (n : Note) (s : State) : (logNote n s).ev = s.ev := by rw [logNote_eq]
@[simp] theorem logNote_seq (n : Note) (s : State) : (logNote n s).seq = s.seq := by rw [logNote_eq]
@[simp] theorem logNote_fab (n : Note) (s : State) : (logNote n s).fab = s.fab := by rw [logNote_eq]
@[simp] theorem logNote_pwr (n : Note) (s : State) : (logNote n s).pwr = s.pwr := by rw [logNote_eq]
@[simp] theorem logNote_sec (n : Note) (s : State) : (logNote n s).sec = s.sec := by rw [logNote_eq]
@[simp] theorem logNote_wb (n : Note) (s : State) : (logNote n s).wb = s.wb := by rw [logNote_eq]
@[simp] theorem logNote_tap (n : Note) (s : State) : (logNote n s).tap = s.tap := by rw [logNote_eq]
@[simp] theorem logNote_escModule (n : Note) (s : State) : (logNote n s).res.escModule = s.res.escModule := by rw [logNote_eq]
@[simp] theorem logNote_epoch (n : Note) (s : State) : (logNote n s).res.epoch = s.res.epoch := by rw [logNote_eq]
@[simp] theorem logNote_dumps (n : Note) (s : State) : (logNote n s).res.dumps = s.res.dumps := by rw [logNote_eq]
@[simp] theorem logNote_active (n : Note) (s : State) : (logNote n s).res.active = s.res.active := by rw [logNote_eq]
@[simp] theorem logNote_dormantOk (n : Note) (s : State) : (logNote n s).res.dormantOk = s.res.dormantOk := by rw [logNote_eq]

end Sys2Proof.Machine
end

