-- ==== Sys2Proof/Laws/Bulk.lean ====
section
/-! SUPPORT. Commands begun: what is found after a command begins or its progress is noted, how a bulk command goes on by one piece, and that an
access at memory that is served leaves what is under way as it was. -/
namespace Sys2Proof.Machine

/-- What a command that begins is kept as. -/
def begunAs (s : State) (q : QRef) (p : Pkt) (j : Job) (cursor : Nat) : Begun :=
  { id := s.fe.nextId, q := q, pkt := p, job := j, cursor := cursor }

/-- A command that begins under a number not in use is found under it. -/
theorem findBegun_begin {q : QRef} {p : Pkt} {j : Job} {c : Nat} {s : State} (h : findBegun s s.fe.nextId = none) :
    findBegun (begin q p j c s) s.fe.nextId = some (begunAs s q p j c) := by
  simp only [findBegun] at h
  simp [findBegun, begin, begunAs, List.find?_append, h]

/-- A command replaced is found as what replaces it. -/
theorem findBegun_setBegun {s : State} {b c : Begun} (h : findBegun s b.id = some c) : findBegun (setBegun s b) b.id = some b := by
  simp only [findBegun, setBegun] at *
  generalize s.fe.begun = l at *
  induction l with
  | nil => cases h
  | cons x l ih =>
    by_cases hx : x.id = b.id
    · simp [hx]
    · have hb : (x.id == b.id) = false := by simp [hx]
      rw [List.find?_cons, hb] at h
      simp only [List.map_cons, hb, Bool.false_eq_true, if_false, List.find?_cons]
      exact ih h

/-- The step of a begun bulk command. -/
def bulkOne (b : Begun) (s : State) : Go :=
  match b.job with
  | .write addr => writeStep b addr s
  | .read addr len => readStep b addr len s
  | .copy src dst len _ => copyStep b src dst len s
  | .load addr len => loadStep b addr len s
  | _ => .rest s

/-- A bulk command that goes on. -/
theorem bulkGo_more {n id : Nat} {s t : State} {b : Begun} (h : findBegun s id = some b) (hs : b.stalled = false)
    (ho : s.fab.outst.any (fun o => o.who == .cmd id) = false) (hb : bulkOne b s = .more t) :
    bulkGo (n + 1) id s = bulkGo n id t := by
  have hg : ¬ (b.stalled = true ∨ s.fab.outst.any (fun o => o.who == .cmd id) = true) := by simp [hs, ho]
  rw [bulkGo]
  simp only [h, hg, if_false]
  change (match bulkOne b s with | .more s => bulkGo n id s | .rest s => s) = _
  rw [hb]

/-- A bulk command that rests. -/
theorem bulkGo_rest {n id : Nat} {s t : State} {b : Begun} (h : findBegun s id = some b) (hs : b.stalled = false)
    (ho : s.fab.outst.any (fun o => o.who == .cmd id) = false) (hb : bulkOne b s = .rest t) :
    bulkGo (n + 1) id s = t := by
  have hg : ¬ (b.stalled = true ∨ s.fab.outst.any (fun o => o.who == .cmd id) = true) := by simp [hs, ho]
  rw [bulkGo]
  simp only [h, hg, if_false]
  change (match bulkOne b s with | .more s => bulkGo n id s | .rest s => s) = _
  rw [hb]

/-- A bulk command that nothing holds back runs, and those behind it go on. -/
theorem bulkRun_of {id : Nat} {s : State} {b : Begun} (h : findBegun s id = some b) (hh : bulkHeld s b = false) :
    bulkRun id s = goOnAll b.q (bulkGo (bulkFuel b) id s) := by
  simp [bulkRun, h, hh]

/-- A command that ends after its progress was noted is gone all the same. -/
theorem dropBegun_setBegun (s : State) (b : Begun) : dropBegun (setBegun s b) b.id = dropBegun s b.id := by
  simp only [dropBegun, setBegun]
  congr 2
  induction s.fe.begun with
  | nil => rfl
  | cons x l ih =>
    by_cases hx : x.id = b.id
    · have e : (x.id == b.id) = true := by simp [hx]
      simp only [List.map_cons, e, if_true, List.filter_cons, beq_self_eq_true, Bool.not_true, Bool.false_eq_true, if_false]
      exact ih
    · have e : (x.id == b.id) = false := by simp [hx]
      simp only [List.map_cons, e, Bool.false_eq_true, if_false, List.filter_cons, Bool.not_false, if_true]
      rw [ih]

/-! ### What an access that is served leaves -/

/-- The commands begun, the requests out on other modules and the registers of the device are the same. -/
structure SameWork (s t : State) : Prop where
  begun : t.fe.begun = s.fe.begun
  outst : t.fab.outst = s.fab.outst
  dev : t.dev = s.dev

theorem SameWork.rfl {s : State} : SameWork s s := ⟨Eq.refl _, Eq.refl _, Eq.refl _⟩

theorem SameWork.trans {s t u : State} (h : SameWork s t) (k : SameWork t u) : SameWork s u :=
  ⟨k.begun.trans h.begun, k.outst.trans h.outst, k.dev.trans h.dev⟩

theorem SameWork.find {s t : State} (h : SameWork s t) (id : Nat) : findBegun t id = findBegun s id := by simp only [findBegun, h.begun]

theorem SameWork.entLocal {s t : State} (h : SameWork s t) (e : Range) (v : Nat) : entLocal t e v = entLocal s e v := by
  simp only [Machine.entLocal, ownModule, h.dev]

theorem queueReport_begun (s : State) (r : Reply) (n : Bool) : (queueReport s r n).fe.begun = s.fe.begun := by
  unfold queueReport
  split
  · split
    · rfl
    · split <;> rfl
  · split <;> rfl

theorem logNote_same (n : Note) (s : State) : SameWork s (logNote n s) := by
  refine ⟨?_, by rw [logNote_fab], by rw [logNote_dev]⟩
  unfold logNote
  split
  · rfl
  · exact queueReport_begun ..

theorem countCe_same (s : State) (cw : Nat) : SameWork s (countCe s cw) := by
  unfold countCe
  dsimp only
  generalize hu : setChan s _ _ = u
  have e : SameWork s u := by rw [← hu]; exact ⟨rfl, rfl, rfl⟩
  refine e.trans ?_
  generalize hv : logNote _ u = v
  have e2 : SameWork u v := by rw [← hv]; exact logNote_same ..
  refine e2.trans ?_
  split
  · split
    · exact logNote_same ..
    · split
      · exact (logNote_same ..).trans ⟨rfl, rfl, rfl⟩
      · exact logNote_same ..
      · exact (logNote_same ..).trans ⟨rfl, rfl, rfl⟩
      · exact logNote_same ..
  · exact .rfl

theorem putWord_same (s : State) (cw x : Nat) : SameWork s (putWord s cw x) := by
  unfold putWord
  dsimp only
  generalize hu : rawWrite s _ _ = u
  exact ⟨by subst hu; rfl, by subst hu; rfl, by subst hu; rfl⟩

theorem takeFree_same (s : State) : SameWork s (takeFree s).2 := ⟨rfl, rfl, rfl⟩

theorem deliverWord_same (s : State) (cw x : Nat) : SameWork s (deliverWord s cw x) := by
  unfold deliverWord
  split
  · exact (takeFree_same s).trans ((takeFree_same _).trans (putWord_same ..))
  · exact putWord_same ..

theorem meetWord_same {s t : State} {cw : Nat} {u : Upset} {w : Finder} (h : meetWord s cw u w = (true, t)) : SameWork s t := by
  unfold meetWord at h
  dsimp only at h
  generalize decodeWord s cw u = d at h
  split at h
  · split at h
    · cases h; exact deliverWord_same ..
    · cases h; exact (deliverWord_same ..).trans (countCe_same ..)
    · cases h; exact (deliverWord_same ..).trans (countCe_same ..)
    · cases h
  · split at h
    · obtain ⟨-, rfl⟩ := Prod.mk.inj h
      exact (putWord_same ..).trans (logNote_same _ _)
    · cases h

theorem meetAll_same {w : Finder} {l : List (Nat × Upset)} {s : State} (h : (meetAll w l s).1 = true) : SameWork s (meetAll w l s).2 := by
  induction l generalizing s with
  | nil => exact .rfl
  | cons e l ih =>
    rw [meetAll] at *
    split at h
    · next c => rw [if_pos c]; exact (meetWord_same (Prod.ext c (Eq.refl _))).trans (ih h)
    · next c => exact absurd h c

/-- A read that is served, and a write. -/
theorem memRead_same {s t : State} {kind : ReqKind} {ctx pid edom a n : Nat} {d : List Byte} (h : memRead s kind ctx pid edom a n = .ok d t) :
    SameWork s t := by
  unfold memRead at h
  split at h
  · cases h
  · cases h
  · unfold readServe at h
    split at h
    · next e => cases h; have := meetAll_same (w := finderOf kind ctx) (l := upsetIn s a n) (s := s) (by rw [e]); rw [e] at this; exact this
    · cases h

theorem memWrite_same {s t : State} {kind : ReqKind} {ctx pid edom a : Nat} {l d : List Byte} (h : memWrite s kind ctx pid edom a l = .ok d t) :
    SameWork s t := by
  unfold memWrite at h
  split at h
  · cases h
  · cases h
  · unfold writeServe at h
    split at h
    · cases h
    · next e =>
      cases h
      have := meetAll_same (w := finderOf kind ctx) (l := partWords s a l.length) (s := s) (by rw [e])
      rw [e] at this
      exact this.trans ⟨rfl, rfl, rfl⟩

/-- A fold of accesses that ends well has ended well at every step. -/
theorem foldServe {f : State → List Byte → Nat × Nat → MemRes} (hf : ∀ s l p d t, f s l p = .ok d t → SameWork s t) (l : List (Nat × Nat)) :
    ∀ {r : MemRes} {d : List Byte} {t : State},
      l.foldl (fun r p => match r with | .ok l s => f s l p | r => r) r = .ok d t → ∃ l' s, r = .ok l' s ∧ SameWork s t := by
  induction l with
  | nil => intro r d t h; exact ⟨d, t, h, .rfl⟩
  | cons p l ih =>
    intro r d t h
    obtain ⟨l', s, e, k⟩ := ih h
    cases r with
    | ok l0 s0 => exact ⟨l0, s0, rfl, (hf _ _ _ _ _ e).trans k⟩
    | refused => cases e
    | unavail => cases e
    | unc s => cases e

theorem entRead_same {s t : State} {ctx v n : Nat} {e : Range} {d : List Byte} (h : entRead s ctx e v n = .ok d t) : SameWork s t := by
  unfold entRead at h
  obtain ⟨l, u, k, r⟩ := foldServe (f := fun s l p => match memRead s .read ctx (pidOfCtx s ctx) e.edom (rangeFpa e p.1 % 2 ^ 42) p.2 with
    | .ok d s => .ok (l ++ d) s | r => r) (by
      intro s l p d t h
      split at h
      · next e => cases h; exact memRead_same e
      · next e => exact absurd h (e _ _)) _ h
  cases k
  exact r

theorem entWrite_same {s t : State} {ctx v : Nat} {e : Range} {l d : List Byte} (h : entWrite s ctx e v l = .ok d t) : SameWork s t := by
  unfold entWrite at h
  obtain ⟨l, u, k, r⟩ := foldServe (f := fun s _ p => memWrite s .write ctx (pidOfCtx s ctx) e.edom (rangeFpa e p.1 % 2 ^ 42) (sliceZ l (p.1 - v) p.2))
    (fun _ _ _ _ _ h => memWrite_same h) _ h
  cases k
  exact r

theorem walkLoop_same {ctx va n lo hi k : Nat} {s t : State} (h : walkLoop ctx va n lo hi s = (some k, t)) : SameWork s t := by
  induction n generalizing lo hi s with
  | zero => cases h; exact .rfl
  | succ n ih =>
    unfold walkLoop at h
    split at h
    · cases h; exact .rfl
    · dsimp only at h
      generalize hr : meetAll none _ s = r at h
      split at h
      · cases h
      · next c =>
        have k := meetAll_same (s := s) (by rw [hr]; simpa using c)
        rw [hr] at k
        split at h
        · split at h
          · exact k.trans (ih h)
          · exact k.trans (ih h)
        · cases h; exact k

theorem walk_same {s t : State} {ctx va : Nat} {e : Range} (h : walk s ctx va = (.hit e, t)) : SameWork s t := by
  unfold walk at h
  dsimp only at h
  split at h
  · cases h
  · split at h
    · cases h
    · split at h
      · cases h
      · next k =>
        have := walkLoop_same k
        split at h
        · cases h
        · split at h
          · cases h
          · split at h
            · cases h
            · cases h; exact ⟨this.begun, this.outst, this.dev⟩

theorem tlbFill_same (s : State) (p : Place) (e : TlbEntry) : SameWork s (tlbFill s p e) := by
  unfold tlbFill
  split
  · exact .rfl
  · dsimp only
    split <;> exact ⟨rfl, rfl, rfl⟩

theorem translate_same {s t : State} {p : Place} {ctx va v : Nat} {e : Range} (h : translate s p ctx va = (.hit e, v, t)) : SameWork s t := by
  unfold translate at h
  dsimp only at h
  split at h
  · cases h
  · split at h
    · cases h
    · split at h
      · cases h; exact tlbFill_same ..
      · split at h
        · next k => cases h; exact (walk_same k).trans (tlbFill_same ..)
        · next r u hu k => cases h; exact absurd rfl (hu e)

/-- An extent that is found within an entry. -/
theorem segAt_same {s : State} {pl : Place} {ctx va rem v n : Nat} {kind : ReqKind} {mk : State → Nat → FaultRec} {e : Range}
    (h : (segAt s pl ctx kind va rem mk).1 = .seg e v n) : SameWork s (segAt s pl ctx kind va rem mk).2 := by
  unfold segAt at *
  split at h
  · cases h
  · cases h
  · cases h
  · cases h
  · next k =>
    dsimp only at h
    split at h
    · cases h
    · next c =>
      split at h
      · cases h
      · cases h
      · next g => simp only [c, g]; exact translate_same k

/-! ### Lengths -/

theorem piecesFrom_sum (k va n : Nat) (h : n ≤ (4096 - va % 4096) + (k - 1) * 4096) (hk : 0 < k) :
    ((piecesFrom k va n).map (fun p => p.2)).sum = n := by
  induction k generalizing va n with
  | zero => omega
  | succ k ih =>
    unfold piecesFrom
    split
    · next c => simp [c]
    · dsimp only
      rw [List.map_cons, List.sum_cons]
      by_cases hn : n ≤ 4096 - va % 4096
      · rw [Nat.min_eq_left hn, Nat.sub_self]
        cases k with
        | zero => simp [piecesFrom]
        | succ k => simp [piecesFrom]
      · rw [Nat.min_eq_right (by omega)]
        cases k with
        | zero => omega
        | succ k =>
          have e : (va + (4096 - va % 4096)) % 4096 = 0 := by omega
          rw [ih _ _ (by rw [e]; simp only [Nat.succ_sub_one] at *; omega) (by omega)]
          omega

theorem pieces_sum (va n : Nat) : ((pieces va n).map (fun p => p.2)).sum = n :=
  piecesFrom_sum _ _ _ (by omega) (by omega)

theorem memRead_length {s t : State} {kind : ReqKind} {ctx pid edom a n : Nat} {d : List Byte} (h : memRead s kind ctx pid edom a n = .ok d t) :
    d.length = n := by
  unfold memRead at h
  split at h
  · cases h
  · cases h
  · unfold readServe at h
    split at h
    · cases h; simp [rawRead]
    · cases h

theorem entRead_length {s t : State} {ctx v n : Nat} {e : Range} {d : List Byte} (h : entRead s ctx e v n = .ok d t) : d.length = n := by
  have go : ∀ (l : List (Nat × Nat)) (r : MemRes), l.foldl (fun r p =>
      match r with
      | .ok l s =>
        (match memRead s .read ctx (pidOfCtx s ctx) e.edom (rangeFpa e p.1 % 2 ^ 42) p.2 with
         | .ok d s => .ok (l ++ d) s
         | r => r)
      | r => r) r = .ok d t → ∃ l' s, r = .ok l' s ∧ d.length = l'.length + (l.map (fun p => p.2)).sum := by
    intro l
    induction l with
    | nil => intro r h; exact ⟨d, t, h, by simp⟩
    | cons p l ih =>
      intro r h
      obtain ⟨l', s', k, q⟩ := ih _ h
      cases r with
      | ok l0 s0 =>
        refine ⟨l0, s0, rfl, ?_⟩
        dsimp only at k
        split at k
        · next e => cases k; rw [q, List.length_append, memRead_length e, List.map_cons, List.sum_cons]; omega
        · next e => exact absurd k (e _ _)
      | refused => cases k
      | unavail => cases k
      | unc s => cases k
  unfold entRead at h
  obtain ⟨l', s', k, q⟩ := go _ _ h
  cases k
  rw [q]
  split
  · simp
  · rw [pieces_sum]; simp

/-! ### The choice of an item -/

/-- What a choice of the next item leaves: it looks at the queues and keeps deficits alone (R169). -/
structure SameQueues (s t : State) : Prop where
  begun : t.fe.begun = s.fe.begun
  part : t.part = s.part
  fab : t.fab = s.fab

theorem SameQueues.trans {s t u : State} (h : SameQueues s t) (k : SameQueues t u) : SameQueues s u :=
  ⟨k.begun.trans h.begun, k.part.trans h.part, k.fab.trans h.fab⟩

theorem clearDeficits_same (s : State) (half : Nat) : SameQueues s (clearDeficits s half) := by
  unfold clearDeficits
  generalize queuesOf s half = l
  induction l generalizing s with
  | nil => exact ⟨rfl, rfl, rfl⟩
  | cons q l ih =>
    refine SameQueues.trans ?_ (ih _)
    cases q <;> dsimp only <;> try exact ⟨rfl, rfl, rfl⟩
    split <;> exact ⟨rfl, rfl, rfl⟩

theorem visit_same {n rr : Nat} {l : List (QRef × Item)} {s u : State} {q : QRef} {i : Item} (h : visit n l rr s = some (q, i, u)) :
    SameQueues s u := by
  induction n generalizing rr s with
  | zero => cases h
  | succ n ih =>
    unfold visit at h
    split at h
    · cases h
    · next e he =>
      have k : SameQueues s (grantVisit s e.1) := by unfold grantVisit; split <;> exact ⟨rfl, rfl, rfl⟩
      dsimp only at h
      split at h
      · cases h; exact k
      · exact k.trans (ih h)

theorem nextItem_same {rr : Nat} {l : List (QRef × Item)} {s u : State} {q : QRef} {i : Item} (h : nextItem l rr s = some (q, i, u)) :
    SameQueues s u := by
  unfold nextItem at h
  split at h
  · cases h; exact ⟨rfl, rfl, rfl⟩
  · exact visit_same h

theorem frontNext_same {s u : State} {half : Nat} {q : QRef} {i : Item} (h : frontNext s half = some (q, i, u)) : SameQueues s u := by
  unfold frontNext at h
  split at h
  · cases h
  · refine (clearDeficits_same s half).trans ?_
    unfold chooseItem at h
    dsimp only at h
    split at h
    · next k =>
      split at h
      · cases h; exact nextItem_same k
      · exact nextItem_same h
    · exact nextItem_same h

theorem payItem_same (half : Nat) (q : QRef) (i : Item) (s : State) : SameQueues s (payItem half q i s) := by
  unfold payItem
  cases q <;> exact ⟨rfl, rfl, rfl⟩

theorem physOf_congr {s t : State} (h : t.part = s.part) (c a n : Nat) : physOf t c a n = physOf s c a n := by
  simp only [physOf, getCtx, h]

theorem shareBytes_congr {s t : State} (h : t.part = s.part) (c a n d b m : Nat) : shareBytes t c a n d b m = shareBytes s c a n d b m := by
  simp only [shareBytes, physOf_congr h]

theorem SameQueues.held {s t : State} (h : SameQueues s t) (b : Begun) : bulkHeld t b = bulkHeld s b := by
  simp only [bulkHeld, begunOn, h.begun, shareBytes_congr h.part]

theorem SameQueues.find {s t : State} (h : SameQueues s t) (id : Nat) : findBegun t id = findBegun s id := by simp only [findBegun, h.begun]

end Sys2Proof.Machine
end

