-- ==== Sys2Proof/Laws/Cores.lean ====
section
/-! SUPPORT. How core instructions end: an instruction that issues has its effect, one with an improper word faults, and what that leaves of the tenancies. -/
namespace Sys2Proof.Machine

theorem computesX_of {useC : Bool} {mk : TenRef → BitVec 56 → Instr} {f : W64 → W64 → W64 → W64} (g : W64 → W64 → W64 → W64)
    (he : ∀ t w s, exec (mk t w) s = .next (scalarR t w useC g s)) (h : ∀ a b c, g a b c = f a b c) : ComputesX useC mk f := by
  refine executes_of (fun w x u => setTen u (xSet x w.d (g (xGet x w.a) (opBVal x w) (xGet x w.c))).next) ?_ ?_
  · intro t w s; rw [he]; rfl
  · intro w x u _; rw [h]; rfl

theorem executes_ten {regs : CoreWord → List Reg} {proper : CoreWord → Bool} {mk : TenRef → BitVec 56 → Instr}
    {cond : CoreWord → Ten → State → Prop} {effect : CoreWord → Ten → State → State} (g : CoreWord → Ten → Eff)
    (he : ∀ t w s, exec (mk t w) s = .next (issueTen t (regs (coreWord w)) (proper (coreWord w)) (g (coreWord w)) s))
    (hs : ∀ w x u, cond w x u → applyEff x (g w x) u = effect w x u) : Executes regs proper mk cond effect :=
  executes_of (fun w x u => applyEff x (g w x) u) he hs

theorem issue_of {s : State} {t : TenRef} {regs : List Reg} {x : Ten} {u : State} {proper : Bool} {f : Ten → State → State}
    (k : Issues s t regs x u) (pr : proper = true) : issue t regs proper f s = f x u := by
  obtain ⟨k1, k2, k3⟩ := k
  simp [issue, k1, k2, k3, pr]

theorem fld19 (n : Nat) : fld n 0 19 = n % 2 ^ 19 := by simp [fld]

theorem issues_ref {s : State} {t : TenRef} {r : List Reg} {x : Ten} {u : State} (k : Issues s t r x u) : refOf x = t := by
  have h := k.1
  unfold canIssue findTen at h
  have h2 := (Option.filter_eq_some_iff.mp h).1
  have h3 := List.find?_some h2
  simp only [Bool.and_eq_true, beq_iff_eq] at h3
  cases t; cases x; simp_all [refOf]

theorem issues_executes {s : State} {t : TenRef} {r : List Reg} {x : Ten} {u : State} (k : Issues s t r x u) : executes s x = true := by
  have h := k.1
  unfold canIssue at h
  exact (Option.filter_eq_some_iff.mp h).2

theorem findTen_setTen {s : State} {x y : Ten} (h : findTen s (refOf y) = some x) : findTen (setTen s y) (refOf y) = some y := by
  unfold findTen setTen at *
  simp only [refOf] at *
  revert h
  generalize s.tens = l
  intro h
  induction l with
  | nil => simp at h
  | cons a l ih =>
    rw [List.map_cons, List.find?_cons]
    by_cases e : (a.lcid == y.lcid && a.ctx == y.ctx) = true
    · rw [if_pos e]; simp
    · rw [if_neg e, Bool.not_eq_true] at *
      rw [List.find?_cons, e] at h
      rw [e]; exact ih h

theorem setTen_setTen (s : State) {x y : Ten} (h : refOf x = refOf y) : setTen (setTen s x) y = setTen s y := by
  unfold setTen
  simp only [List.map_map]
  have h1 : x.lcid = y.lcid := congrArg TenRef.lcid h
  have h2 : x.ctx = y.ctx := congrArg TenRef.ctx h
  congr 1
  apply List.map_congr_left
  intro z _
  simp only [Function.comp, h1, h2]
  by_cases e : (z.lcid == y.lcid && z.ctx == y.ctx) = true
  · simp [e, h1, h2]
  · simp [e]

theorem tenGo_idle {s : State} {t : TenRef} {x : Ten} (h : findTen s t = some x) (hw : x.wait = .none) : tenGo s t = s := by
  have a : progWake s t = s := by unfold progWake; rw [h]; simp only [hw]
  unfold tenGo endCheck
  rw [a, h]; simp only [hw]

theorem engineTo_none {s : State} {t : TenRef} {off goal : Nat} {x : Ten} (h : findTen s t = some x)
    (hg : match xferOf x off with | none => True | some g => goal ≤ g.doneEl) : engineTo s t off goal = tenGo s t := by
  unfold engineTo
  rw [h]
  dsimp only
  revert hg
  cases xferOf x off with
  | none => intro _; rfl
  | some g => intro hg; dsimp only at *; rw [show min goal g.total - g.doneEl = 0 by omega]; rfl

theorem wakeTen_eq {s : State} {t : TenRef} {y : Ten} (h : findTen s t = some y) (hl : y.loc ≠ .swapped)
    (hp : halfPwr s (halfOfCore y.core) ≠ 1) : wakeTen s t = setTen s { y with wait := .none, pc := y.pc + 8 } := by
  unfold wakeTen
  rw [h]
  dsimp only
  unfold lullWake
  rw [if_neg hp, if_neg hl]

theorem progWake_met {s : State} {t : TenRef} {y : Ten} {off b : Nat} {tg : W64} (h : findTen s t = some y)
    (hw : y.wait = .prog off tg) (hl : y.loc = .resident b) (hm : progMet y off tg = true) : progWake s t = wakeTen s t := by
  unfold progWake
  rw [h]
  simp only [hw, hl, hm, if_true]

theorem fld24 (n : Nat) : fld n 0 24 = n % 2 ^ 24 := by simp [fld]

theorem abandonSample_none {x : Ten} (s : State) (h : x.sample = none) : abandonSample x s = s := by
  unfold abandonSample; rw [h]

theorem sample_none {x : Ten} (h : x.sample = none) : ({ x with sample := none } : Ten) = x := by
  cases x; simp_all

theorem isLaneTy_of {c : CoreWord} (h : modFld c 16 4 ∈ [0xC, 0xD, 0xE, 0xF]) : (!isLaneTy (laneTy c)) = false := by
  unfold laneTy
  generalize modFld c 16 4 = n at *
  simp only [List.mem_cons, List.not_mem_nil, or_false] at h
  rcases h with h | h | h | h <;> subst h <;> rfl

theorem computesV_of {useB : CoreWord → Bool} {useC useFn : Bool} {fnMax : Nat} {tys : List Nat} {mk : TenRef → BitVec 56 → Instr}
    {f : Nat → Nat → W32 → W32 → W32 → W32 × Bool} (g : Nat → Nat → W32 → W32 → W32 → W32 × Bool)
    (hfn : useFn = true ∨ fnMax = 0)
    (he : ∀ t w s, exec (mk t w) s = .next (vecOp t w (useB (coreWord w)) useC useFn fnMax tys g s))
    (h : ∀ ty fn a b c, ty ∈ tys → fn ≤ fnMax → g ty fn a b c = f ty fn a b c) : ComputesV useB useC fnMax tys mk f := by
  intro s t w x u k pr c
  rw [he]
  unfold vecOp issueTen
  dsimp only
  have hf : (coreWord w).fn ≤ fnMax := by
    dsimp only at pr
    simp only [Bool.and_eq_true, decide_eq_true_eq] at pr
    exact pr.1.1.2
  have q : (if useFn = true then decide ((coreWord w).fn ≤ fnMax) else decide ((coreWord w).fn = 0)) = decide ((coreWord w).fn ≤ fnMax) := by
    rcases hfn with r | r <;> cases useFn <;> simp_all
  have k' : Issues s t (vRegs (coreWord w) (useB (coreWord w)) useC) x u := k
  rw [issue_of k' (by rw [q]; exact pr)]
  have d : (!tys.contains (laneTy (coreWord w))) = false := by
    simpa [laneTy] using c
  rw [d]
  have e : (fun l => g (laneTy (coreWord w)) (coreWord w).fn (vGet x (coreWord w).a l) (vGet x (coreWord w).b l) (vGet x (coreWord w).c l))
      = (fun l => f (modFld (coreWord w) 16 4) (coreWord w).fn (vGet x (coreWord w).a l) (vGet x (coreWord w).b l) (vGet x (coreWord w).c l)) := by
    funext l; exact h _ _ _ _ _ c hf
  rw [e]
  rfl

theorem tabGet_tabSetAll_keyed (t : Tab Byte) (a : Nat) (l : List Byte) (b : Nat) :
    tabGet zeroByte (tabSetAll zeroByte t (keyed a l)) b = if h : a ≤ b ∧ b < a + l.length then l[b - a]'(by omega) else tabGet zeroByte t b := by
  have key : ∀ (k : Nat) (l : List Byte) (t : Tab Byte),
      tabGet zeroByte (tabSetAll zeroByte t ((List.range' k l.length).zip l |>.map (fun e => (a + e.1, e.2)))) b
      = if h : a + k ≤ b ∧ b < a + k + l.length then l[b - a - k]'(by omega) else tabGet zeroByte t b := by
    intro k l
    induction l generalizing k with
    | nil => intro t; rw [dif_neg (by simp)]; rfl
    | cons x l ih =>
      intro t
      simp only [List.length_cons, List.range'_succ, List.zip_cons_cons, List.map_cons]
      have e : tabSetAll zeroByte t ((a + k, x) :: ((List.range' (k + 1) l.length).zip l).map (fun e => (a + e.1, e.2)))
        = tabSetAll zeroByte (tabSet zeroByte t (a + k) x) (((List.range' (k + 1) l.length).zip l).map (fun e => (a + e.1, e.2))) := rfl
      rw [e, ih (k + 1), tabGet_tabSet]
      by_cases h1 : a + (k + 1) ≤ b ∧ b < a + (k + 1) + l.length
      · rw [dif_pos h1, dif_pos (by omega)]
        have : b - a - k = (b - a - (k + 1)) + 1 := by omega
        simp [this]
      · rw [dif_neg h1]
        by_cases h2 : b = a + k
        · subst h2; simp
        · rw [if_neg h2, dif_neg (by omega)]
  have := key 0 l t
  simpa [keyed, List.range_eq_range'] using this

theorem faults_of {regs : CoreWord → List Reg} {proper : CoreWord → Bool} {mk : TenRef → BitVec 56 → Instr} (g : CoreWord → Ten → Eff)
    (he : ∀ t w s, exec (mk t w) s = .next (issueTen t (regs (coreWord w)) (proper (coreWord w)) (g (coreWord w)) s)) :
    ∀ s t w x u, Issues s t (regs (coreWord w)) x u → proper (coreWord w) = false →
      exec (mk t w) s = .next (coreFault x 0x20 false x.pc 0 u) := by
  rintro s t w x u ⟨k1, k2, k3⟩ hp
  rw [he]
  simp [issueTen, issue, k1, k2, k3, hp]

theorem findTen_setTen_ne {s : State} {x : Ten} {r : TenRef} (h : r ≠ refOf x) : findTen (setTen s x) r = findTen s r := by
  have hx : ∀ y : Ten, (y.lcid == x.lcid && y.ctx == x.ctx) = true → (y.lcid == r.lcid && y.ctx == r.ctx) = false := by
    intro y hy
    simp only [Bool.and_eq_true, beq_iff_eq] at hy
    cases hb : (y.lcid == r.lcid && y.ctx == r.ctx) with
    | false => rfl
    | true =>
      simp only [Bool.and_eq_true, beq_iff_eq] at hb
      exfalso; apply h
      obtain ⟨a, b⟩ := r
      simp only [refOf] at *
      rw [← hy.1, ← hy.2, hb.1, hb.2]
  have hx2 : (x.lcid == r.lcid && x.ctx == r.ctx) = false := hx x (by simp)
  unfold findTen setTen
  induction s.tens with
  | nil => rfl
  | cons y l ih =>
    simp only [List.map_cons, List.find?_cons]
    by_cases hy : (y.lcid == x.lcid && y.ctx == x.ctx) = true
    · simp only [hy, if_true, hx2, hx y hy]; exact ih
    · simp only [hy, Bool.false_eq_true, if_false]
      split
      · rfl
      · exact ih

theorem findTen_setTen_same {s : State} {x : Ten} (h : (findTen s (refOf x)).isSome = true) :
    findTen (setTen s x) (refOf x) = some x := by
  unfold findTen setTen at *
  revert h
  induction s.tens with
  | nil => simp
  | cons y l ih =>
    intro h
    simp only [List.map_cons, List.find?_cons, refOf] at *
    by_cases hy : (y.lcid == x.lcid && y.ctx == x.ctx) = true
    · simp [hy]
    · simp only [hy, Bool.false_eq_true, if_false] at *
      exact ih h

theorem keepsX_of {useC : Bool} {mk : TenRef → BitVec 56 → Instr} (g : W64 → W64 → W64 → W64)
    (he : ∀ t w s, exec (mk t w) s = .next (scalarR t w useC g s)) : KeepsX useC mk := by
  rintro s t w x u v ⟨k1, k2, k3⟩ hp h
  rw [he] at h
  simp only [scalarR, issueTen, issue, k1, k2, k3, hp, applyEff, if_true, Bool.false_eq_true, if_false] at h
  injection h with h
  have ht : refOf x = t := by
    have := List.find?_some (show s.tens.find? (fun y => y.lcid == t.lcid && y.ctx == t.ctx) = some x from by
      have := k1; unfold canIssue at this; rw [Option.filter_eq_some_iff] at this; exact this.1)
    simp at this
    obtain ⟨a, b⟩ := t
    simp [refOf, this]
  generalize hy : (xSet x (coreWord w).d (g (xGet x (coreWord w).a) (opBVal x (coreWord w)) (xGet x (coreWord w).c))).next = y at h
  have hr : refOf y = t := by rw [← hy, ← ht]; unfold xSet; split <;> rfl
  subst h
  refine ⟨rfl, fun r hne => findTen_setTen_ne (by rw [hr]; exact hne), fun hs => ⟨y, ?_, ?_, ?_⟩⟩
  · have := findTen_setTen_same (s := u) (x := y) (by rw [hr]; exact hs)
    rwa [hr] at this
  · rw [← hy]; unfold xSet; split <;> rfl
  · intro i hi
    rw [← hy]
    unfold xSet
    split
    · rfl
    · by_cases h0 : i = 0
      · simp [xGet, h0]
      · simp [xGet, h0, Ten.next, tabGet_tabSet_ne _ _ _ hi]

end Sys2Proof.Machine
end

