-- ==== Sys2Proof/Laws/Device.lean ====
section
/-! SUPPORT. Power states, clocks and the weighbridge: the steps that several commands share. -/
namespace Sys2Proof.Machine

theorem wakeHalves_of (s : State) (hs : List Nat) (h1 : s.dev.coolantFault = false) (h2 : powerStopped s = false)
    (h5 : s.pwr.frostFor = []) : wakeHalves s hs
      = hs.foldl (fun s h => if halfPwr s h = 2 then thawStart s h else s) { s with pwr := { s.pwr with asleep := false } } := by
  have w : wakeEntries { s with pwr := { s.pwr with asleep := false } } hs = { s with pwr := { s.pwr with asleep := false } } := by
    unfold wakeEntries; simp only [h5]; rfl
  unfold wakeHalves
  rw [if_neg (by simp [h1, h2])]
  rw [w]

theorem halfPwr_thawStart (s : State) (h g : Nat) : halfPwr (thawStart s h) g = halfPwr s g := by
  unfold thawStart; split <;> rfl

theorem thawBoth (u : State) (a : halfPwr u 0 = 2) (b : halfPwr u 1 = 2) :
    [0, 1].foldl (fun s h => if halfPwr s h = 2 then thawStart s h else s) u = thawStart (thawStart u 0) 1 := by
  simp only [List.foldl, a, halfPwr_thawStart, b, if_true]

theorem vcoreMove_eq (s : State) (k : Nat) : ∃ l, vcoreMove s k = { s with pwr := { s.pwr with avs := l } } := by
  unfold vcoreMove
  split
  · exact ⟨s.pwr.avs, rfl⟩
  · rename_i ht
    clear ht
    generalize liveHalves s = hs
    induction hs generalizing s with
    | nil => exact ⟨s.pwr.avs, rfl⟩
    | cons h t ih =>
      simp only [List.foldl]
      split
      · exact ih s
      · obtain ⟨l, e⟩ := ih { s with pwr := { s.pwr with avs := s.pwr.avs ++ [{ half := h, rail := 0, tries := 0, kind := k }] } }
        exact ⟨l, e⟩

theorem tabGet_sparse (f : Nat → Int) (k b m : Nat) :
    tabGet (fun _ => 0) (((List.range' b k).map (fun n => (n, f n))).filter (fun e => decide (e.2 ≠ 0))) m
      = if b ≤ m ∧ m < b + k then f m else 0 := by
  induction k generalizing b with
  | zero => rw [if_neg (by omega)]; rfl
  | succ k ih =>
    rw [List.range'_succ, List.map_cons, List.filter_cons]
    by_cases c : f b = 0
    · rw [if_neg (by simp [c]), ih]
      by_cases e : m = b
      · subst e; rw [if_neg (by omega), if_pos (by omega), c]
      · by_cases g : b ≤ m ∧ m < b + (k + 1)
        · rw [if_pos g, if_pos (by omega)]
        · rw [if_neg g, if_neg (by omega)]
    · rw [if_pos (by simp [c]), tabGet, ih]
      by_cases e : m < b
      · rw [if_pos e, if_neg (by omega)]
      · rw [if_neg e]
        by_cases e2 : m = b
        · subst e2; rw [if_pos rfl, if_pos (by omega)]
        · rw [if_neg e2]
          by_cases g : b ≤ m ∧ m < b + (k + 1)
          · rw [if_pos g, if_pos (by omega)]
          · rw [if_neg g, if_neg (by omega)]

theorem clockDown_eq (s : State) : ∃ l, clockDown s = { s with pwr := { s.pwr with avs := l, cur := if s.pwr.cur.toNat ≤ 400 then s.pwr.cur else BitVec.ofNat 12 (max 400 (s.pwr.cur.toNat - 100)) } } := by
  unfold clockDown
  split
  · exact ⟨s.pwr.avs, rfl⟩
  · obtain ⟨l, e⟩ := vcoreMove_eq { s with pwr := { s.pwr with cur := BitVec.ofNat 12 (max 400 (s.pwr.cur.toNat - 100)) } } 0
    exact ⟨l, by rw [e]⟩

theorem attrAdd_frame (w : Wb) (p g e : Nat) : ∃ a o, attrAdd w p g e = { w with attr := a, attrOvf := o } := by
  unfold attrAdd
  dsimp only
  split
  · exact ⟨_, _, rfl⟩
  · split <;> exact ⟨_, _, rfl⟩

theorem attrFold_frame (l : List (Nat × Nat × Nat)) (w : Wb) :
    ∃ a o, l.foldl (fun w x => attrAdd w x.1 x.2.1 x.2.2) w = { w with attr := a, attrOvf := o } := by
  induction l generalizing w with
  | nil => exact ⟨_, _, rfl⟩
  | cons x t ih =>
    simp only [List.foldl]
    obtain ⟨a, o, e⟩ := attrAdd_frame w x.1 x.2.1 x.2.2
    rw [e]
    obtain ⟨a2, o2, e2⟩ := ih { w with attr := a, attrOvf := o }
    exact ⟨a2, o2, e2⟩

theorem attribute1_frame (w : Wb) (e : Nat) : ∃ a o, attribute1 w e = { w with attr := a, attrOvf := o } := by
  unfold attribute1
  split
  · exact attrAdd_frame w 0 0 e
  · next f h =>
    dsimp only
    obtain ⟨a, o, q⟩ := attrFold_frame (sharesOf e f.aMod f.slots).1 w
    rw [q]
    obtain ⟨a2, o2, q2⟩ := attrAdd_frame { w with attr := a, attrOvf := o } 0 0 (sharesOf e f.aMod f.slots).2
    exact ⟨a2, o2, q2⟩

theorem wbReply_of {s : State} (l : List Byte) (h1 : s.wb.power = true) (h2 : s.wb.tapMute = false) :
    wbReply s l = { s with wb := { s.wb with reply := l } } := by simp [wbReply, h1, h2]

end Sys2Proof.Machine
end

