-- ==== Sys2Proof/Laws/Memory.lean ====
section
/-! SUPPORT. Every operation on memory keeps its canonical form, and reset's memory has it. -/
namespace Sys2Proof.Machine

theorem reset_memory_wf : Memory.wf State.reset.mem = true := rfl

/-- What the canonical form of memory says, table by table. -/
theorem memory_wf_iff (m : Mem) : Memory.wf m = true ↔
    tabWf zeroByte m.bytes = true ∧ tabWf (fun _ => {}) m.upsets = true ∧ tabWf tagDefault m.tags = true
      ∧ tabWf (fun _ => {}) m.ssTags = true := by
  simp [Memory.wf, and_assoc]

variable {s : State}

theorem rawWrite_wf (a : Nat) (l : List Byte) (h : Memory.wf s.mem = true) : Memory.wf (rawWrite s a l).mem = true := by
  rw [memory_wf_iff] at *
  exact ⟨tabSetAll_wf _ _ h.1, h.2⟩

theorem bumpWrites_wf (a n : Nat) (h : Memory.wf s.mem = true) : Memory.wf (bumpWrites s a n).mem = true := h

theorem coverWords_wf (a n : Nat) (h : Memory.wf s.mem = true) : Memory.wf (coverWords s a n).mem = true := by
  rw [memory_wf_iff] at *
  exact ⟨h.1, filter_wfFrom _ _ h.2.1, h.2.2⟩

theorem putBytes_wf (a : Nat) (l : List Byte) (h : Memory.wf s.mem = true) : Memory.wf (putBytes s a l).mem = true :=
  bumpWrites_wf _ _ (rawWrite_wf _ _ (coverWords_wf _ _ h))

theorem zeroSpan_wf (a n : Nat) (h : Memory.wf s.mem = true) : Memory.wf (zeroSpan s a n).mem = true := by
  rw [memory_wf_iff] at *
  exact ⟨tabClear_wf _ _ _ h.1, tabClear_wf _ _ _ h.2.1, h.2.2⟩

theorem zeroGran_wf (g : Gran) (h : Memory.wf s.mem = true) : Memory.wf (zeroGran s g).mem = true :=
  bumpWrites_wf _ _ (zeroSpan_wf _ _ h)

theorem setTag_wf (g : Gran) (t : Tag) (h : Memory.wf s.mem = true) : Memory.wf (setTag s g t).mem = true := by
  rw [memory_wf_iff] at *
  unfold setTag
  split
  · exact ⟨h.1, h.2.1, h.2.2.1, tabSet_wf _ _ _ h.2.2.2⟩
  · exact ⟨h.1, h.2.1, tabSet_wf _ _ _ h.2.2.1, h.2.2.2⟩

theorem freeGran_wf (g : Gran) (h : Memory.wf s.mem = true) : Memory.wf (freeGran s g).mem = true :=
  setTag_wf _ _ (zeroGran_wf _ h)

/-- A fold keeps what each of its steps keeps. -/
theorem foldl_keeps {α β : Type} {P : β → Prop} {f : β → α → β} (hf : ∀ b a, P b → P (f b a)) (l : List α) {b : β} (h : P b) :
    P (l.foldl f b) := by
  induction l generalizing b with
  | nil => exact h
  | cons a l ih => exact ih (hf b a h)

theorem dropImage_wf (slot model : Nat) (h : Memory.wf s.mem = true) : Memory.wf (dropImage s slot model).mem = true := by
  unfold dropImage
  exact foldl_keeps (P := fun (s : State) => Memory.wf s.mem = true)
    (fun _ _ h => foldl_keeps (P := fun (s : State) => Memory.wf s.mem = true) (fun _ _ h => freeGran_wf _ h) _ h) _ h

theorem evictImage_wf (slot : Nat) (i : Image) (h : Memory.wf s.mem = true) : Memory.wf (evictImage s slot i).mem = true := by
  unfold evictImage
  split
  · exact dropImage_wf _ _ h
  · exact h

@[simp] theorem queueReport_mem (s : State) (r : Reply) (n : Bool) : (queueReport s r n).mem = s.mem := by rw [queueReport_eq]
@[simp] theorem sendFault_mem (f : FaultRec) (s : State) : (sendFault f s).mem = s.mem := by simp [sendFault]
@[simp] theorem loseFor_mem (d c k st h : Nat) (s : State) : (loseFor d c k st h s).mem = s.mem := by
  unfold loseFor; dsimp only; split
  · rfl
  · simp [setCtx]
@[simp] theorem lose_mem (c k st h : Nat) (s : State) : (lose c k st h s).mem = s.mem := loseFor_mem ..
@[simp] theorem loseCause_mem (f : FaultRec) (s : State) : (loseCause f s).mem = s.mem := by
  unfold loseCause; split <;> simp
@[simp] theorem loseStatus_mem (c st h : Nat) (s : State) : (loseStatus c st h s).mem = s.mem := lose_mem ..
@[simp] theorem chargeWord_mem (s : State) (c k a h : Nat) (wr : Bool) : (chargeWord s c k a h wr).mem = s.mem := loseCause_mem ..
@[simp] theorem takeFree_mem (s : State) : (takeFree s).2.mem = s.mem := rfl

theorem setChan_wf (i : Nat) (x : Chan) (h : Memory.wf s.mem = true) : Memory.wf (setChan s i x).mem = true := h

theorem logNote_wf (n : Note) (h : Memory.wf s.mem = true) : Memory.wf (logNote n s).mem = true := by rw [logNote_mem]; exact h

theorem chargeWord_wf (c k a f : Nat) (wr : Bool) {u : State} (h : Memory.wf u.mem = true) : Memory.wf (chargeWord u c k a f wr).mem = true := by
  rw [chargeWord_mem]; exact h

theorem uncHbm_wf (a : Nat) (who : Finder) (h : Memory.wf s.mem = true) : Memory.wf (uncHbm s a who).mem = true := by
  unfold uncHbm
  dsimp only
  have hu := setChan_wf (s := s) (granChan s (granOf a))
    { getChan s (granChan s (granOf a)) with ue := sat32 (getChan s (granChan s (granOf a))).ue } h
  generalize setChan s (granChan s (granOf a)) _ = u at hu ⊢
  split
  · split
    · split
      · exact setTag_wf _ _ (logNote_wf _ (zeroGran_wf _ hu))
      · exact logNote_wf _ (zeroGran_wf _ hu)
    · exact hu
  · split
    · split
      · split
        · exact evictImage_wf _ _ (chargeWord_wf _ _ _ _ _ (logNote_wf _ hu))
        · exact evictImage_wf _ _ (logNote_wf _ hu)
      · split
        · exact chargeWord_wf _ _ _ _ _ (logNote_wf _ hu)
        · exact logNote_wf _ hu
    · split
      · split
        · exact chargeWord_wf _ _ _ _ _ (logNote_wf _ hu)
        · exact logNote_wf _ hu
      · exact chargeWord_wf _ _ _ _ _ (logNote_wf _ hu)
  · exact logNote_wf _ hu

theorem uncStore_mem (s : State) (a : Nat) (who : Finder) : (uncStore s a who).mem = s.mem := by
  unfold uncStore
  dsimp only
  split
  · split <;> simp
  · simp

theorem beginMigration_wf (slot src dst : Nat) (id : Option Nat) (h : Memory.wf s.mem = true) :
    Memory.wf (beginMigration s slot src dst id).mem = true := h

theorem countCe_wf (cw : Nat) (h : Memory.wf s.mem = true) : Memory.wf (countCe s cw).mem = true := by
  unfold countCe
  dsimp only
  have hu := fun x => setChan_wf (s := s) (granChan s (granOf (16 * cw))) x h
  generalize hv : setChan s (granChan s (granOf (16 * cw))) _ = v
  have hv : Memory.wf v.mem = true := by rw [← hv]; exact hu _
  generalize hl : logNote _ v = w
  have hw : Memory.wf w.mem = true := by rw [← hl]; exact logNote_wf _ hv
  split
  · split
    · exact logNote_wf _ hw
    · split
      · exact beginMigration_wf _ _ _ _ (logNote_wf _ hw)
      · exact logNote_wf _ hw
      · exact logNote_wf _ hw
      · exact logNote_wf _ hw
  · exact hw

theorem putWord_wf (cw x : Nat) (h : Memory.wf s.mem = true) : Memory.wf (putWord s cw x).mem = true := by
  have := rawWrite_wf (16 * cw) (leBytes 16 x) h
  unfold putWord
  dsimp only
  generalize rawWrite s (16 * cw) (leBytes 16 x) = u at *
  rw [memory_wf_iff] at *
  exact ⟨this.1, tabSet_wf _ _ _ this.2.1, this.2.2⟩

theorem deliverWord_wf (cw x : Nat) (h : Memory.wf s.mem = true) : Memory.wf (deliverWord s cw x).mem = true := by
  unfold deliverWord
  split
  · exact putWord_wf _ _ (by rw [takeFree_mem, takeFree_mem]; exact h)
  · exact putWord_wf _ _ h

/-- Meeting a differing codeword keeps the form. -/
theorem meetWord_wf (cw : Nat) (u : Upset) (who : Finder) (h : Memory.wf s.mem = true) : Memory.wf (meetWord s cw u who).2.mem = true := by
  unfold meetWord
  dsimp only
  generalize decodeWord s cw u = d
  split
  · split
    · dsimp only; exact deliverWord_wf _ _ h
    · dsimp only; exact countCe_wf _ (deliverWord_wf _ _ h)
    · dsimp only; exact countCe_wf _ (deliverWord_wf _ _ h)
    · dsimp only; exact uncHbm_wf _ _ h
  · split
    · dsimp only; exact logNote_wf _ (putWord_wf _ _ h)
    · rw [uncStore_mem]; exact h

theorem meetAll_wf (who : Finder) (l : List (Nat × Upset)) (h : Memory.wf s.mem = true) : Memory.wf (meetAll who l s).2.mem = true := by
  induction l generalizing s with
  | nil => exact h
  | cons e l ih =>
    unfold meetAll
    dsimp only
    split
    · exact ih (meetWord_wf _ _ _ h)
    · exact meetWord_wf _ _ _ h

/-- The canonical form holds of the state that an answer of memory leaves, where it leaves one. -/
def MemRes.wf : MemRes → Prop
  | .ok _ s => Memory.wf s.mem = true
  | .unc s => Memory.wf s.mem = true
  | _ => True

theorem readServe_wf (kind : ReqKind) (ctx a n : Nat) (h : Memory.wf s.mem = true) : (readServe s kind ctx a n).wf := by
  unfold readServe
  have := meetAll_wf (finderOf kind ctx) (upsetIn s a n) h
  split <;> (rename_i heq; rw [heq] at this; exact this)

theorem memRead_wf (kind : ReqKind) (ctx pid edom a n : Nat) (h : Memory.wf s.mem = true) : (memRead s kind ctx pid edom a n).wf := by
  unfold memRead
  split
  · trivial
  · trivial
  · exact readServe_wf _ _ _ _ h

theorem writeServe_wf (kind : ReqKind) (ctx a : Nat) (l : List Byte) (h : Memory.wf s.mem = true) : (writeServe s kind ctx a l).wf := by
  unfold writeServe
  have := meetAll_wf (finderOf kind ctx) (partWords s a l.length) h
  split <;> (rename_i heq; rw [heq] at this)
  · exact this
  · exact putBytes_wf _ _ this

theorem memWrite_wf (kind : ReqKind) (ctx pid edom a : Nat) (l : List Byte) (h : Memory.wf s.mem = true) :
    (memWrite s kind ctx pid edom a l).wf := by
  unfold memWrite
  split
  · trivial
  · trivial
  · exact writeServe_wf _ _ _ _ h

end Sys2Proof.Machine
end

