-- ==== Sys2Proof/Laws/Packets.lean ====
section
/-! SUPPORT. The steps of command packets and register writes that several commands share. -/
namespace Sys2Proof.Machine

theorem arrive_of_qp {s : State} {h : Nat} {g : Pkt} (f hf : Handler) (k : QpTakes s h g) :
    arrive f hf g s = wakeAll (f (.qp g.qpn) g (qpTaken s h g)) := by
  obtain ⟨k1, k2, k3, k4, k6, k7, k8⟩ := k
  have ac : acceptQp f g (lullWake s h) = wakeAll (f (.qp g.qpn) g (qpTaken s h g)) := by
    have e : acceptQp f g (lullWake s h) = (if startsNow (qpAdmitted s h g) (getQp (lullWake s h) g.qpn).port (.qp g.qpn) g
        then startWith f (.qp g.qpn) g (qpTaken s h g)
        else setQp (qpAdmitted s h g) g.qpn { getQp (qpAdmitted s h g) g.qpn with
          expected := (getQp (lullWake s h) g.qpn).expected + 1,
          sqTail := ringAt (getQp (lullWake s h) g.qpn).sqLog (getQp (lullWake s h) g.qpn).sqTail (slotBytes g.plen) + slotBytes g.plen,
          sq := (getQp (lullWake s h) g.qpn).sq ++ [g] }) := by
      unfold acceptQp
      rfl
    rw [e, k7, if_pos rfl, startWith, k8]
  simp only [arrive, k1, arriveHaldip, k3, if_true, getFe_lullWake, k4, Bool.not_true, Bool.false_eq_true, if_false, k2, k6, ac]

theorem runsOnQp_of {mk : Pkt → Instr} {op : Nat} (f hf : Handler)
    (he : ∀ p s, exec (mk p) s = .next (arrive f hf { p with opcode := op } s)) : RunsOnQp mk op f := by
  intro s h p k
  rw [he, arrive_of_qp f hf k]

theorem delivers_of {mk : FabPkt → Instr} {kind : Nat} {cond : FabPkt → State → Prop} {effect : FabPkt → State → State}
    (he : ∀ f s, exec (mk f) s = .next (fabIn kind f s))
    (hs : ∀ f u, f.kind = kind → cond f u →
      deliverTo (fun f p s => if p.rxOk then fabOp (.fabric f.src f.pid f.pgen.toNat) p s else s) f u = effect f u) :
    Delivers mk kind cond effect := by
  rintro s f u ⟨k1, k2, k3, k4, k5, k6, k7, k8⟩ c
  rw [he]
  refine congrArg Host.Outcome.next ?_
  unfold fabIn
  rw [if_pos k1]
  generalize hg : ({ f with kind := kind } : FabPkt) = g at *
  have hk : g.kind = kind := by rw [← hg]
  unfold fabArrive
  rw [if_pos k2]
  have ac : accept deliver g u = wakeAll (effect g u) := by
    have o : openConf u g = .ok (g, u) := by
      unfold openConf
      rw [if_pos (by simp [k5]), if_pos (by simp [k6])]
    unfold accept
    rw [o]
    dsimp only
    rw [k8]
    unfold deliver
    dsimp only
    rw [hs g u hk c]
  unfold receive
  rw [if_neg (by simp [k3])]
  dsimp only
  rw [if_pos k4, ← k4, ← k7, ac]
  rfl

def rebindOp (op i : Nat) : Handler := fun q p u =>
  match op with
  | 1 => growCores i q p u
  | 2 => shrinkCores i q p u
  | 3 => growChannels i q p u
  | 4 => shrinkChannels i q p u
  | 5 => portShare i q p u
  | 6 => moveStart i q p u
  | 7 => migrateStart i q p u
  | 8 => resetStart i q p u
  | _ => leadStart i q p u

theorem startRebind_ok {q : QRef} {p : Pkt} {u : State} {op i : Nat} (h1 : 1 ≤ op) (h2 : op < 10) (k : Rebinds u (rebindPkt p op) op i) :
    startRebind q (rebindPkt p op) u = rebindOp op i q (rebindPkt p op) u := by
  obtain ⟨k1, k2, k3, k4, k5⟩ := k
  have o := rebindPkt_op p (show op < 16 by omega)
  have a : ¬ (op = 0 ∨ 10 ≤ op) := by omega
  have b : ((getSlot u i).rebind.isSome || (op != 6 && rebinding u i)) = false := by
    by_cases h : op = 6
    · simp [h, k3]
    · simp [h, k3, k4 h]
  unfold startRebind withSlot
  simp only [pid4, k1, k2, if_false, o, a, k5, ne_eq, not_true, b, Bool.false_eq_true]
  try rfl

theorem leadDo_begin {s : State} {slot : Nat} {mid pid pgen : Nat} {P : Pkt} (ho : P.opcode = 0x91)
    (h2 : actPending s slot (fld P.w5.toNat 0 24) = none) (h3 : epochOpen (ownRec s slot (fld P.w5.toNat 0 24)) = false)
    (h4 : (ownRec s slot (fld P.w5.toNat 0 24)).owner = mid) (h5 : (hostOf (getSlot s slot) (fld P.w5.toNat 0 24)).isSome = true) :
    leadDo s slot (.fabric mid pid pgen) P = leadChange s { ownRec s slot (fld P.w5.toNat 0 24) with epoch := (getSlot s slot).epochCtr + 1, src := mid, dst := opB P % 2 ^ 14, st := .opened }
        { slot := slot, lcid := fld P.w5.toNat 0 24, q := .fabric mid pid pgen, pkt := P, status := stOk, epoch := (getSlot s slot).epochCtr + 1, tell := none, publish := false } := by
  have a : ¬ ((ownRec s slot (fld P.w5.toNat 0 24)).owner ≠ mid ∨ (hostOf (getSlot s slot) (fld P.w5.toNat 0 24)).isNone = true) := by
    rw [Option.isSome_iff_ne_none] at h5; simp [h4, h5]
  have n1 : ¬ P.opcode = 0x96 := by rw [ho]; decide
  unfold leadDo
  simp only [senderOf]
  rw [if_neg n1, h2, h3, if_neg (by simp), if_pos ho, if_neg (by simp)]
  exact if_neg a

theorem leadDo_accept {s : State} {slot : Nat} {mid pid pgen : Nat} {P : Pkt} (ho : P.opcode = 0x93)
    (h2 : actPending s slot (fld P.w5.toNat 0 24) = none) (h3 : (ownRec s slot (fld P.w5.toNat 0 24)).epoch = opB P)
    (h4 : (ownRec s slot (fld P.w5.toNat 0 24)).st = .opened) :
    leadDo s slot (.fabric mid pid pgen) P = leadChange s { ownRec s slot (fld P.w5.toNat 0 24) with st := .accepted }
        { slot := slot, lcid := fld P.w5.toNat 0 24, q := .fabric mid pid pgen, pkt := P, status := stOk, epoch := opB P, tell := none, publish := false } := by
  have n1 : ¬ P.opcode = 0x96 := by rw [ho]; decide
  have n2 : ¬ P.opcode = 0x91 := by rw [ho]; decide
  unfold leadDo
  simp only [senderOf]
  rw [if_neg n1, h2, if_neg (by simp), if_neg n2, if_pos ho, if_pos ⟨h3, h4⟩]

theorem leadDo_commit {s : State} {slot : Nat} {mid pid pgen : Nat} {P : Pkt} (ho : P.opcode = 0x94)
    (h2 : actPending s slot (fld P.w5.toNat 0 24) = none) (h3 : (ownRec s slot (fld P.w5.toNat 0 24)).epoch = opB P)
    (h4 : (ownRec s slot (fld P.w5.toNat 0 24)).st = .accepted) :
    leadDo s slot (.fabric mid pid pgen) P = leadChange s { ownRec s slot (fld P.w5.toNat 0 24) with owner := (ownRec s slot (fld P.w5.toNat 0 24)).dst, highest := opB P, st := .committed }
        { slot := slot, lcid := fld P.w5.toNat 0 24, q := .fabric mid pid pgen, pkt := P, status := stOk, epoch := opB P, tell := some ((ownRec s slot (fld P.w5.toNat 0 24)).dst, 0x94), publish := true } := by
  have n1 : ¬ P.opcode = 0x96 := by rw [ho]; decide
  have n2 : ¬ P.opcode = 0x91 := by rw [ho]; decide
  have n3 : ¬ P.opcode = 0x93 := by rw [ho]; decide
  unfold leadDo
  simp only [senderOf]
  rw [if_neg n1, h2, if_neg (by simp), if_neg n2, if_neg n3, if_pos ho, if_pos ⟨h3, h4⟩]

theorem leadDo_abort {s : State} {slot : Nat} {mid pid pgen : Nat} {P : Pkt} (ho : P.opcode = 0x95)
    (h2 : actPending s slot (fld P.w5.toNat 0 24) = none) (h3 : (ownRec s slot (fld P.w5.toNat 0 24)).epoch = opB P)
    (h4 : epochOpen (ownRec s slot (fld P.w5.toNat 0 24)) = true) :
    leadDo s slot (.fabric mid pid pgen) P = leadChange s { ownRec s slot (fld P.w5.toNat 0 24) with st := .aborted }
        { slot := slot, lcid := fld P.w5.toNat 0 24, q := .fabric mid pid pgen, pkt := P, status := stOk, epoch := opB P, tell := some ((ownRec s slot (fld P.w5.toNat 0 24)).dst, 0x95), publish := false } := by
  have n1 : ¬ P.opcode = 0x96 := by rw [ho]; decide
  have n2 : ¬ P.opcode = 0x91 := by rw [ho]; decide
  have n3 : ¬ P.opcode = 0x93 := by rw [ho]; decide
  have n4 : ¬ P.opcode = 0x94 := by rw [ho]; decide
  unfold leadDo
  simp only [senderOf]
  rw [if_neg n1, h2, if_neg (by simp), if_neg n2, if_neg n3, if_neg n4, if_pos ho, if_pos ⟨h3, h4⟩]

theorem takeOffer_first {s : State} {slot : Nat} {mid pid pgen : Nat} {P : Pkt} (h1 : P.payload.length = 8192) (h2 : P.qpn = 0)
    (h3 : offerOf s slot (fld P.w5.toNat 0 24) (opB P) = none)
    (h4 : placeCheck s slot (coreOfId (numAt P.payload 0 4)) (numAt P.payload 4 4) (numAt P.payload 8 4) = none) :
    takeOffer slot (.fabric mid pid pgen) P s = { dropOffer s slot (fld P.w5.toNat 0 24) with part := { (dropOffer s slot (fld P.w5.toNat 0 24)).part with offers := (dropOffer s slot (fld P.w5.toNat 0 24)).part.offers ++ [{ slot := slot, lcid := fld P.w5.toNat 0 24, epoch := opB P, src := mid, data := P.payload, good := false, core := (coreOfId (numAt P.payload 0 4)).getD 0, fold := numAt P.payload 4 4 }] } } := by
  unfold takeOffer
  simp only [h3]
  rw [if_neg (by simp [h2]), h4]
  simp only
  rw [if_neg (by omega)]

theorem withGranImage_ok {f : Nat → Image → Handler} {q : QRef} {P : Pkt} {u : State} {i : Nat} {x : Image} (h1 : P.payload = [])
    (h2 : slotOfPid u P.w6.toNat = some i) (h3 : imageOf u i (opA P) = some x) : withGranImage f q P u = f i x q P u := by
  unfold withGranImage
  rw [if_neg (by simp [h1])]
  simp only [pid6, h2, modelOf, h3]

theorem startLoad_new {h : Nat} {P : Pkt} {u : State} {i : Nat} {l : List Image} (h1 : P.payload.length = 48)
    (h2 : numAt P.payload 0 8 ≠ 0) (h3 : slotOfPid u P.w6.toNat = some i) (h4 : (getSlot u i).st ≠ 5)
    (h5 : imageOf u i (opA P) = none) (h6 : numAt P.payload 40 4 ≤ 1)
    (h8 : (numAt P.payload 40 4 = 1 && (!inRunTable u i (fld (numAt P.payload 44 4) 0 14) || fld (numAt P.payload 44 4) 0 14 == ownModule u)) = false)
    (h7 : evictPlan (ceilDiv (numAt P.payload 0 8) granSpan) (getSlot u i).brec.granary (evictable u i) (granaryUsed u i) (freeHbm u i).length (getSlot u i).images.length = some l) :
    startLoad (.mgmt h) P u =
      (let n := ceilDiv (numAt P.payload 0 8) granSpan
       let v := l.foldl (fun s x => dropImage s i x.model) u
       let gr := pickGrans n (freeHbm v i)
       let w := gr.foldl (fun s k => setTag s (false, k) { slot := i, shared := true, conf := (getSlot u i).brec.conf, st := 1 }) v
       let x : Image := { model := opA P, base := granBase (false, gr.headD 0), size := numAt P.payload 0 8, granules := gr, digest := sliceZ P.payload 8 32, host := numAt P.payload 40 4 == 0, peer := fld (numAt P.payload 44 4) 0 14, st := 0, pins := 0, maps := 0, used := w.dev.now, id := none }
       let put (x : Image) (s : State) : State := setSlot s i { getSlot s i with images := (getSlot s i).images ++ [x] }
       if numAt P.payload 40 4 = 0 then answerAt (.mgmt h) P stOk (fpaOf (put x w) x.base) (put x w)
       else put { x with id := some w.fe.nextId } (begin (.mgmt h) P (.pull i (opA P)) 0 w)) := by
  unfold startLoad withSlot
  simp only [pid6, h3]
  rw [if_neg h4, if_neg (by simp [h1, h2]), if_neg (by omega)]
  simp only [modelOf, h5]
  rw [if_neg (by simp only [h8]; decide), h7]
  rfl

theorem kexRow_phase (p : Pkt) (v : Nat) (hv : v < 256) (h : (kexRow p v).payload.length ≠ 0) : numAt (kexRow p v).payload 0 1 = v := by
  have e : (kexRow p v).payload = listSet p.payload 0 (BitVec.ofNat 8 v) := rfl
  rw [e] at h ⊢
  cases hp : p.payload with
  | nil => rw [hp] at h; exact absurd rfl h
  | cons a t =>
    simp [numAt, sliceZ, listSet, ofLE]
    omega

theorem numAt_succ (a : Byte) (l : List Byte) (i n : Nat) : numAt (a :: l) (i + 1) n = numAt l i n := rfl

theorem numAt_listSet (l : List Byte) (i v : Nat) (hv : v < 256) (h : i < l.length) :
    numAt (listSet l i (BitVec.ofNat 8 v)) i 1 = v := by
  induction l generalizing i with
  | nil => exact absurd h (by simp)
  | cons a t ih =>
    cases i with
    | zero => simp [numAt, sliceZ, listSet, ofLE]; omega
    | succ i =>
      show numAt (a :: listSet t i _) (i + 1) 1 = v
      rw [numAt_succ]
      exact ih i (by simpa using h)

theorem length_listSet {α : Type} (l : List α) (i : Nat) (v : α) : (listSet l i v).length = l.length := by
  induction l generalizing i with
  | nil => rfl
  | cons a t ih => cases i <;> simp [listSet, ih]

theorem updCheck_len {s : State} {p : Pkt} {u : KeyUpd} (h : updCheck s p u = none) : 64 ≤ p.payload.length := by
  unfold updCheck at h
  split at h
  · cases h
  · next k => simp only [not_or] at k; omega

theorem updKind {s : State} {p : Pkt} {k : Nat} (hk : k < 256) (h : updCheck s (updRow p k) (keyUpdOf (updRow p k).payload) = none) :
    (keyUpdOf (updRow p k).payload).kind = k := by
  have l := updCheck_len h
  have e : (updRow p k).payload = listSet p.payload 4 (BitVec.ofNat 8 k) := rfl
  show numAt (updRow p k).payload 4 1 = k
  rw [e] at l ⊢
  rw [length_listSet] at l
  exact numAt_listSet _ _ _ hk (by omega)

theorem startKeyUpdate_ok {q : QRef} {s : State} {p : Pkt} {k : Nat} (hk : k < 256)
    (h : updCheck s (updRow p k) (keyUpdOf (updRow p k).payload) = none) :
    startKeyUpdate q (updRow p k) s = (if k ≤ 6
      then moduleReset (answer q (updRow p k) stOk { s with sec := updApply s.sec (keyUpdOf (updRow p k).payload) }) 0 0 false
      else answer q (updRow p k) stOk { s with sec := updApply s.sec (keyUpdOf (updRow p k).payload) }) := by
  have c := updKind hk h
  unfold startKeyUpdate
  simp only [h, c]

theorem attRow_kind (p : Pkt) (k : Nat) (hk : k < 4) : fld (attRow p k).w4.toNat 0 2 = k := by
  have e : (attRow p k).w4 = (p.w4 &&& 0xFFFFFFFC) ||| BitVec.ofNat 32 k := rfl
  rw [e]
  have : ((p.w4 &&& 0xFFFFFFFC) ||| BitVec.ofNat 32 k).extractLsb' 0 2 = BitVec.ofNat 2 k := by
    apply BitVec.eq_of_getLsbD_eq
    intro i hi
    have : i = 0 ∨ i = 1 := by omega
    have hk' : k = 0 ∨ k = 1 ∨ k = 2 ∨ k = 3 := by omega
    rcases this with rfl | rfl <;> simp [BitVec.getLsbD_ofNat] <;> rcases hk' with rfl | rfl | rfl | rfl <;> rfl
  have h2 := congrArg BitVec.toNat this
  simp only [BitVec.extractLsb'_toNat, BitVec.toNat_ofNat, Nat.shiftRight_zero] at h2
  simp only [fld, Nat.pow_zero, Nat.div_one]
  rw [h2]
  omega

theorem quote_ok {q : QRef} {p : Pkt} {k : Nat} {sl : Option Nat} {u : State} :
    let v := if 1024 ≤ u.sec.attUsed then newAttKey u else u
    let b := quoteBody v k (sliceZ p.payload 0 32) sl
    let a := attSign v b
    a.1.isSome = true → quote q p k sl u = sendReply q p { replyTo p stOk with payload := b ++ a.1.getD [] ++ sized 2980 a.2.sec.attCert } a.2 := by
  intro v b a h
  unfold quote
  show (match a with | (none, s) => answer q p stKey s | (some sig, s) => _) = _
  obtain ⟨a1, a2⟩ := a
  cases a1 with
  | none => cases h
  | some sig => rfl

theorem writeOwn_ok {s : State} {path addr : Nat} {r : RegAt} {v : W32} (h6 : r.form = 0) (h7 : ¬ (r.blk = 5 ∧ r.off = 0))
    (h8 : isCpl r = false) (h9 : isGuarded s r v = true → atComplement s r = false ∧ (getPath s path).armed = true) :
    (writeOwn s path addr r v false false false).2 = written s path addr r v := by
  unfold writeOwn
  rw [if_neg (fun c => h7 ⟨c.2.1, c.2.2⟩), if_neg (fun c => c h6)]
  simp only [h8, Bool.false_eq_true, if_false]
  unfold writeDirect written
  dsimp only
  by_cases g : isGuarded s r v = true
  · obtain ⟨c, a⟩ := h9 g
    have n : ¬ (isGuarded s r v = false ∧ atComplement (perform s path addr r v) r = true) := fun q => by rw [g] at q; exact absurd q.1 (by decide)
    rw [if_pos g, if_neg (by simp [c]), if_pos a, if_neg n]
  · have g' : isGuarded s r v = false := by simpa using g
    rw [if_neg g]
    by_cases c : atComplement (perform s path addr r v) r = true
    · simp only [c, g', Bool.not_false, Bool.and_self, if_true, and_self]
    · simp only [c, g', Bool.not_false, Bool.and_true, if_false, and_false, Bool.false_eq_true]

theorem pathWrite_ok {s : State} {path addr : Nat} {r : RegAt} {v : W32} (h : WriteOk s path addr r v) :
    pathWrite s path addr v = wakeAll (written s path addr r v) := by
  obtain ⟨h1, h2, h3, h4, h5, h6, h7, h8, h9⟩ := h
  unfold pathWrite
  rw [if_pos h1]
  unfold regWrite
  rw [h2]
  dsimp only
  rw [if_neg (by simp [h3])]
  have st : settle s path r v = .go s false false := by
    unfold settle; dsimp only; rw [h4]; dsimp only; rw [h5]
  rw [st]
  dsimp only
  rw [writeOwn_ok h6 h7 h8 h9]

theorem pathWrite_pends {s : State} {path addr : Nat} {r : RegAt} {v : W32} (h : WritePends s path addr r v) :
    pathWrite s path addr v = wakeAll (held s path addr v) := by
  obtain ⟨h1, h2, h3, h4, h5, h6, h7, h8, h9, h10⟩ := h
  unfold pathWrite
  rw [if_pos h1]
  unfold regWrite
  rw [h2]
  dsimp only
  rw [if_neg (by simp [h3])]
  have st : settle s path r v = .go s false false := by
    unfold settle; dsimp only; rw [h4]; dsimp only; rw [h5]
  rw [st]
  dsimp only
  unfold writeOwn
  rw [if_neg (fun c => h7 ⟨c.2.1, c.2.2⟩), if_neg (fun c => c h6)]
  simp only [h8, Bool.false_eq_true, if_false]
  unfold writeDirect
  dsimp only
  rw [if_pos h9, if_pos h10]
  simp only [Bool.false_eq_true, if_false]
  rfl

end Sys2Proof.Machine
end

