-- ==== Sys2Proof/Laws/Sequencers.lean ====
section
/-! SUPPORT. How sequencer instructions issue and where a run stands after them. -/
namespace Sys2Proof.Machine

theorem seqIssue_of {s : State} {op r : Nat} {x : Run} {w : SeqW} {f : Run → SeqW → State → State} (k : RunAt s r x w) (h : w.op = op) :
    seqIssue op r f s = wakeAll (settleGuess (f { x with wait := .none, ahead := false } w (takeTurn s r x)) r x.pc w) := by
  obtain ⟨k1, k2, k3, k4, k5, k6, k7, k8⟩ := k
  have sv : runServed s x = true := by unfold runServed; simp [k2, k3, k4, k5, k6]
  unfold seqIssue
  rw [k1]; dsimp only
  rw [if_neg (by simp [sv, k7]), k8]; dsimp only
  rw [if_pos h]

theorem sequences_of {op : Nat} {mk : Nat → Instr} {cond : Nat → Run → SeqW → State → Prop} {effect : Nat → Run → SeqW → State → State}
    (f : Nat → Run → SeqW → State → State) (he : ∀ r s, exec (mk r) s = .next (seqIssue op r (f r) s))
    (hs : ∀ r x w s, x.wait = .none → x.ahead = false → w.op = op → cond r x w s → f r x w s = effect r x w s) : Sequences op mk cond effect := by
  intro s r x w k h c
  rw [he, seqIssue_of k h, hs _ _ _ _ rfl rfl h c]

theorem getRun_putRun (s : State) (r : Nat) (x : Run) : getRun (putRun s r x) r = some x := by
  unfold putRun setRun getRun
  exact tabGet_tabSet_same _ _ _ _

theorem evRef_here {s : State} {x : Run} {h : W32} (h1 : evMod h = ownModule s) (h2 : evServes s x.ctx (evNum h) = true) :
    evRef s x h = .here (evNum h) := by
  unfold evRef; rw [if_neg (by simp [h1]), h2]; rfl

theorem evRef_far {s : State} {x : Run} {h : W32} (h1 : evMod h ≠ ownModule s) : evRef s x h = .far := by
  unfold evRef; rw [if_pos h1]

theorem fld4 (n : Nat) : fld n 0 4 = n % 16 := by simp [fld]

theorem fld3 (n : Nat) : fld n 0 3 = n % 8 := by simp [fld]

theorem exec_takes {s : State} {h : Nat} {p : Pkt} {mk : Pkt → Instr} {op : Nat} {f : Handler}
    (he : ∀ p s, exec (mk p) s = .next (arrive f wrongOnFabric { p with opcode := op } s))
    (k : MgmtTakes s h { p with opcode := op }) :
    exec (mk p) s = .next (wakeAll (f (.mgmt h) { p with opcode := op } (taken s h { p with opcode := op }))) := by
  rw [he, arrive_of_takes _ _ k]

theorem fld_0 (n w : Nat) : fld n 0 w = n % 2 ^ w := by simp [fld]

end Sys2Proof.Machine
end

