-- ==== Sys2Proof/WellFormed.lean ====
section
/-! DEFINITION. Which commands an agent can send: the operands name units, fields and sizes the part has
(notes/assumptions/1.md). `exec` does not look at it. -/
namespace Sys2Proof

/-- A packet whose fields fit their widths (spec/06 R156) and whose path exists (R159). -/
def pktOk (p : Pkt) : Bool :=
  decide (p.opcode < 256) && decide (p.plen < 65536) && decide (p.payload.length < 65536) && decide (p.qpn < 4096)
    && decide (p.ctx < 1024) && decide (p.status < 65536) && decide (p.cls < 8)
    && (match p.src with
        | .haldip port => decide (port < 2)
        | .side => true
        | .fabric mid pid pgen => decide (mid < 16384) && decide (pid < 2 ^ 32) && decide (pgen < 2 ^ 32)
        | .dev qpn => decide (qpn < 4096))

/-- A tenancy's pair within its widths (spec/04 R103). -/
def tenOk (t : TenRef) : Bool := decide (t.lcid < 2 ^ 24) && decide (t.ctx < 1024)

/-- A unit the part has (spec/11 R309). -/
def unitOk (u : UnitRef) : Bool :=
  match u.kind with
  | 0 => decide (u.idx < 576)
  | 1 => decide (u.idx < 36)
  | 2 => decide (u.idx < 192)
  | 4 => decide (u.idx < 32)
  | 6 | 8 | 12 => decide (u.idx < 2)
  | 7 => decide (u.idx < 16)
  | _ => false

/-- A fabric packet whose fields fit their widths (spec/09 R255). -/
def fabOk (f : FabPkt) : Bool :=
  decide (f.dst < 16384) && decide (f.src < 16384) && decide (f.vc < 7) && decide (f.kind < 16) && decide (f.lane < 16)
    && decide (f.phase < 3) && decide (f.keyix < 4) && decide (f.pid < 2 ^ 32)

/-- A flow's fields within their widths (spec/09 R257). -/
def flowOk (k : FlowKey) : Bool := decide (k.src < 16384) && decide (k.dst < 16384) && decide (k.vc < 6) && decide (k.lane < 16)

/-- Well-formed commands. -/
def wellFormed : Instr → Bool
  | .nop p => pktOk p
  | .qpConfig p => pktOk p
  | .qpQuery p => pktOk p
  | .qpResume p => pktOk p
  | .deviceSqFetch qpn => decide (0 < qpn) && decide (qpn < 4096)
  | .frontEndStartItem half => decide (half < 2)
  | .writeData p => pktOk p
  | .readData p => pktOk p
  | .readReply _ => true
  | .copy p => pktOk p
  | .eventRecord p => pktOk p
  | .eventWait p => pktOk p
  | .eventWaitTimeout _ => true
  | .waitRegisterRetry half => decide (half < 2)
  | .eventSignalRemote p => pktOk p
  | .remoteWait p => pktOk p
  | .eventAlloc p => pktOk p
  | .eventFree p => pktOk p
  | .eventQuery p => pktOk p
  | .deadlockScan => true
  | .regRead p => pktOk p
  | .regWrite p => pktOk p
  | .completion p => pktOk p
  | .errorReport p => pktOk p
  | .haldipReplyAck port _ => decide (port < 2)
  | .smbBlockRead => true
  | .smbReadByte => true
  | .smbBusTimeout => true
  | .partCreate p => pktOk p
  | .partBind p => pktOk p
  | .growCores p => pktOk p
  | .shrinkCores p => pktOk p
  | .growChannels p => pktOk p
  | .shrinkChannels p => pktOk p
  | .portShare p => pktOk p
  | .portShareApply port => decide (port < 32)
  | .moveLc p => pktOk p
  | .moveDrainReturn slot lcid => decide (slot < 64) && decide (lcid < 2 ^ 24)
  | .channelMigrate p => pktOk p
  | .migrateCopyDone chan _ => decide (chan < 192)
  | .migrateDrainDone chan => decide (chan < 192)
  | .reset p => pktOk p
  | .setLead p => pktOk p
  | .partDestroy p => pktOk p
  | .partQuery p => pktOk p
  | .ctxCreate p => pktOk p
  | .ctxDestroy p => pktOk p
  | .qpBind p => pktOk p
  | .qpUnbind p => pktOk p
  | .moveBegin p => pktOk p
  | .moveOffer p => pktOk p
  | .moveAccept p => pktOk p
  | .moveCommit p => pktOk p
  | .moveAbort p => pktOk p
  | .ownerQuery p => pktOk p
  | .handoffRetry slot lcid => decide (slot < 64) && decide (lcid < 2 ^ 24)
  | .epochOpenTimeout slot lcid => decide (slot < 64) && decide (lcid < 2 ^ 24)
  | .handoffLeadTimeout slot lcid => decide (slot < 64) && decide (lcid < 2 ^ 24)
  | .runTableUpdate slot first mid => decide (slot < 64) && decide (first < 2 ^ 24) && decide (mid < 16384)
  | .flush slot lcid => decide (slot < 64) && decide (lcid < 2 ^ 24)
  | .granaryLoad p => pktOk p
  | .granarySeal p => pktOk p
  | .granaryPin p => pktOk p
  | .granaryEvict p => pktOk p
  | .granaryPeerPullEnd slot _ _ => decide (slot < 64)
  | .granaryPeerTimeout slot _ => decide (slot < 64)
  | .unitFenceDone u => unitOk u
  | .unitScrubDone u => unitOk u
  | .unitBistDone u _ => unitOk u
  | .coreNop t _ => tenOk t
  | .add t _ => tenOk t
  | .sub t _ => tenOk t
  | .andX t _ => tenOk t
  | .orX t _ => tenOk t
  | .xorX t _ => tenOk t
  | .shl t _ => tenOk t
  | .shr t _ => tenOk t
  | .sra t _ => tenOk t
  | .mul t _ => tenOk t
  | .mulhu t _ => tenOk t
  | .mulhs t _ => tenOk t
  | .divu t _ => tenOk t
  | .divs t _ => tenOk t
  | .remu t _ => tenOk t
  | .rems t _ => tenOk t
  | .slt t _ => tenOk t
  | .sltu t _ => tenOk t
  | .seqEq t _ => tenOk t
  | .mins t _ => tenOk t
  | .maxs t _ => tenOk t
  | .minu t _ => tenOk t
  | .maxu t _ => tenOk t
  | .sel t _ => tenOk t
  | .movi t _ => tenOk t
  | .sethi t _ => tenOk t
  | .ld t _ _ => tenOk t
  | .st t _ => tenOk t
  | .br t _ => tenOk t
  | .jal t _ => tenOk t
  | .jalr t _ => tenOk t
  | .endK t _ => tenOk t
  | .spr t _ => tenOk t
  | .flagclr t _ => tenOk t
  | .trap t _ => tenOk t
  | .vadd t _ => tenOk t
  | .vsub t _ => tenOk t
  | .vmul t _ => tenOk t
  | .vfma t _ => tenOk t
  | .vdiv t _ => tenOk t
  | .vmin t _ => tenOk t
  | .vmax t _ => tenOk t
  | .vand t _ => tenOk t
  | .vor t _ => tenOk t
  | .vxor t _ => tenOk t
  | .vshl t _ => tenOk t
  | .vshr t _ => tenOk t
  | .vsra t _ => tenOk t
  | .vsgn t _ => tenOk t
  | .vfunc t _ => tenOk t
  | .vcmp t _ => tenOk t
  | .vcvt t _ => tenOk t
  | .vred t _ => tenOk t
  | .vbcast t _ => tenOk t
  | .vext t _ => tenOk t
  | .vins t _ => tenOk t
  | .vperm t _ => tenOk t
  | .viota t _ => tenOk t
  | .vld t _ _ => tenOk t
  | .vst t _ => tenOk t
  | .vldc t _ => tenOk t
  | .vstc t _ => tenOk t
  | .plog t _ => tenOk t
  | .tmma t _ _ => tenOk t
  | .aclr t _ => tenOk t
  | .adrain t _ => tenOk t
  | .ald t _ => tenOk t
  | .xfer t _ => tenOk t
  | .transferFault t _ => tenOk t
  | .faultQueueStallTimeout _ => true
  | .transferDone t _ => tenOk t
  | .xwait t _ => tenOk t
  | .xprog t _ _ => tenOk t
  | .rst t _ => tenOk t
  | .rld t _ => tenOk t
  | .remoteAccessServe lcid ctx => decide (lcid < 2 ^ 24) && decide (ctx < 1024)
  | .atom t _ => tenOk t
  | .red t _ => tenOk t
  | .vredw t _ => tenOk t
  | .erec t _ => tenOk t
  | .ewait t _ => tenOk t
  | .bar t _ => tenOk t
  | .barrierArrive ctx bid lcid _ => decide (ctx < 1024) && decide (bid < 256) && decide (lcid < 2 ^ 24)
  | .barrierRelease t bid _ => tenOk t && decide (bid < 256)
  | .fence t _ => tenOk t
  | .dispatchEntryStart core _ => decide (core < 576)
  | .tenancyExhausted core => decide (core < 576)
  | .sliceExpiry t => tenOk t
  | .class7Preempt core => decide (core < 576)
  | .blockedEvict core blocked => decide (core < 576) && blocked.all tenOk
  | .tenancySaveDone t _ => tenOk t
  | .tenancyRestoreDone t c => tenOk t && (match c with | some a => decide (a < 192 * 0x90000000) | none => true)
  | .confCoreScrub core => decide (core < 576)
  | .coreFaultDetected core unsavable => decide (core < 576) && unsavable.all tenOk
  | .progLoad p => pktOk p
  | .patchSeq p => pktOk p
  | .progRetire p => pktOk p
  | .launchSeq p => pktOk p
  | .runTimeout run => decide (run < 4096)
  | .seqNop run => decide (run < 4096)
  | .seqMovi run => decide (run < 4096)
  | .movhi run => decide (run < 4096)
  | .alu run => decide (run < 4096)
  | .seqLd run => decide (run < 4096)
  | .seqSt run => decide (run < 4096)
  | .evread run => decide (run < 4096)
  | .seqBr run => decide (run < 4096)
  | .bev run => decide (run < 4096)
  | .bmw run => decide (run < 4096)
  | .loopS run => decide (run < 4096)
  | .jmp run => decide (run < 4096)
  | .bovf run => decide (run < 4096)
  | .ovfclr run => decide (run < 4096)
  | .waitEv run => decide (run < 4096)
  | .waitTimeoutExpiry run => decide (run < 4096)
  | .recEv run => decide (run < 4096)
  | .joinG run => decide (run < 4096)
  | .dispatch run => decide (run < 4096)
  | .dispatchQueueRoom run => decide (run < 4096)
  | .kernelEndNotify run incarn grp _ => decide (run < 4096) && decide (incarn < 65536) && decide (grp < 8)
  | .seqCopy run => decide (run < 4096)
  | .hint run => decide (run < 4096)
  | .kvopen run => decide (run < 4096)
  | .kvcommit run => decide (run < 4096)
  | .kvrollback run => decide (run < 4096)
  | .kvZeroWrite chan => decide (chan < 192)
  | .emit run => decide (run < 4096)
  | .seqEnd run => decide (run < 4096)
  | .runAhead run => decide (run < 4096)
  | .seqCoreFailover core _ => decide (core < 16)
  | .memoryRequest r => decide (r.addr < 2 ^ 42)
  | .nearMemoryOp r => decide (r.op < 15)
  | .patrolScrub chan _ => decide (chan < 192)
  | .rangeMap p => pktOk p
  | .rangeUnmap p => pktOk p
  | .unmapWhenIdle p => pktOk p
  | .unmapWhenIdleEffect _ => true
  | .rangeInval p => pktOk p
  | .rangeInvalTimeout _ => true
  | .rangeWalk sheaf ctx _ => decide (sheaf < 36) && decide (ctx < 1024)
  | .prefetch p => pktOk p
  | .advise p => pktOk p
  | .ownSet p => pktOk p
  | .faultResolve p => pktOk p
  | .eothaConfig p => pktOk p
  | .frameReceive port f => decide (port < 32) && decide (f.bytes.length = 1285) && decide (f.uncorrectable ≤ 2)
  | .linkReplayTimeout port => decide (port < 32)
  | .portTrain port r => decide (port < 32) && decide (r.lanes.length = 5)
  | .miswiredRetrain port => decide (port < 32)
  | .laneRetire port lane _ => decide (port < 32) && decide (lane < 5)
  | .portDown port => decide (port < 34)
  | .fabricCommand f => fabOk f
  | .fabricRead f => fabOk f
  | .fabricWrite f => fabOk f
  | .fabricNear f => fabOk f
  | .fabricResponse f => fabOk f
  | .markF f => fabOk f
  | .markAck f => fabOk f
  | .flowGapTimeout flow => flowOk flow
  | .pathReevaluate flow => flowOk flow
  | .remoteResponseTimeout _ => true
  | .livenessNop => true
  | .peerSilent mid => decide (mid < 16384)
  | .peerFailDeclare path _ => decide (path < 5)
  | .colsEnable path _ => decide (path < 5)
  | .colsDisable path _ => decide (path < 5)
  | .collDescriptorStart stream => decide (stream < 512)
  | .collAnnounce stream _ tag _ => decide (stream < 512) && decide (tag.gid < 2 ^ 32) && decide (tag.seq < 2 ^ 32)
  | .coll stream _ seg _ => decide (stream < 512) && decide (seg.tag.gid < 2 ^ 32) && decide (seg.tag.seq < 2 ^ 32)
  | .collComplete stream => decide (stream < 512)
  | .collAbort stream e =>
    decide (stream < 512) && decide (e.tag.gid < 2 ^ 32) && decide (e.tag.seq < 2 ^ 32) && decide (e.status < 0x18)
  | .collTimeout stream => decide (stream < 512)
  | .linkKeyRotate slot peer keyix => decide (slot < 64) && decide (peer < 16384) && decide (keyix < 4)
  | .linkKeyWaitTimeout slot peer => decide (slot < 64) && decide (peer < 16384)
  | .rtEntryCommit path _ => decide (path < 5)
  | .powerState p => pktOk p
  | .frostEntryWindowEnd half => decide (half < 2)
  | .lullAutoEntry half => decide (half < 2)
  | .lullExit half => decide (half < 2)
  | .wakeN => true
  | .smbusWake => true
  | .haldipWakeBeacon port => decide (port < 2)
  | .thaw half failed => decide (half < 2) && failed.all unitOk
  | .avsStatusPoll half rail _ => decide (half < 2) && decide (rail < 8)
  | .avsTimeout half rail => decide (half < 2) && decide (rail < 8)
  | .dutyWindow _ _ => true
  | .freqLoopTick => true
  | .squallDetect half => decide (half < 2)
  | .squallRelease half => decide (half < 2)
  | .telemetrySample _ _ => true
  | .hintPhase p => pktOk p
  | .hintPhaseStart => true
  | .hintPhaseEnd => true
  | .shiftTick slot => decide (slot < 64)
  | .powerBudget p => pktOk p
  | .budgetDonorTimeout slot => decide (slot < 64)
  | .shiftOffsetLapse => true
  | .thermalTick temps => decide (temps.length = 50)
  | .thermalCrit => true
  | .coolantStop => true
  | .contextTeardown ctx => decide (ctx < 1024)
  | .teardownDrainDone ctx => decide (ctx < 1024)
  | .teardownZeroDone ctx => decide (ctx < 1024)
  | .peerNoticeRetry ctx mid => decide (ctx < 1024) && decide (mid < 16384)
  | .mgmtHeartbeat => true
  | .mgmtFailover => true
  | .winnowVerdict t _ => tenOk t
  | .winnowThirdVerdict t _ => tenOk t
  | .unitHang u unsavable => unitOk u && unsavable.all tenOk
  | .escalationStepTimeout u => unitOk u
  | .moduleReset => true
  | .svcOut path _ => decide (path < 5)
  | .svcTest path _ _ => decide (path < 5)
  | .svcIn path _ _ => decide (path < 5)
  | .gleanDump path _ => decide (path < 5)
  | .logRecordRead path => decide (path < 5)
  | .scaleClassWrite path _ _ => decide (path < 5)
  | .claimOwner p => pktOk p
  | .transferOwner p => pktOk p
  | .enterDebug p => pktOk p
  | .leaveDebug p => pktOk p
  | .enterRma p => pktOk p
  | .rmaReturn p => pktOk p
  | .retire p => pktOk p
  | .fwFloor p => pktOk p
  | .installCert p => pktOk p
  | .attestChain p => pktOk p
  | .quoteModule p => pktOk p
  | .quoteSlot p => pktOk p
  | .linkKexChain p => pktOk p
  | .linkKexInit p => pktOk p
  | .linkKexResp p => pktOk p
  | .linkKexConfirm p => pktOk p
  | .linkKexRetry slot peer => decide (slot < 64) && decide (peer < 16384)
  | .linkKexGiveUp slot peer => decide (slot < 64) && decide (peer < 16384)
  | .linkKeyExpire slot peer keyix => decide (slot < 64) && decide (peer < 16384) && decide (keyix < 4)
  | .feedFrameSend _ => true
  | .feedFrameReceive bytes => decide (bytes.length ≤ 8192)
  | .pairWb bytes => decide (bytes.length ≤ 8192)
  | .wbSecondClose _ => true
  | .wbBlockClose => true
  | .wbInputLoss _ => true
  | .wbPowerReturn => true
  | .wbInfo => true
  | .wbKeys _ => true
  | .readBlock _ _ => true
  | .readAudit _ _ => true
  | .fwLoad _ _ => true
  | .fwCommit => true
  | .authority bytes => decide (bytes.length ≤ 8192)
  | .sealBreach => true
  | .mirrorFrame => true
  | .mirrorLost => true
  | .registerWrite path _ _ => decide (path < 5)
  | .aliasWrite path _ _ => decide (path < 5)
  | .loLatchRead path _ => decide (path < 5)
  | .lckUnlock path _ => decide (path < 5)
  | .lockExpiry path => decide (path < 5)
  | .cplWrite path _ _ => decide (path < 5)
  | .pendingLapse path => decide (path < 5)
  | .crcPass => true
  | .graceExpiry => true
  | .crcCommit path _ _ => decide (path < 5)
  | .boot _ => true
  | .powerOff => true
  | .flashRequest _ => true
  | .flashRelease => true
  | .extest die => decide (die < 2)
  | .idcode die => decide (die < 2)
  | .samplePreload die _ _ => decide (die < 2)
  | .clamp die => decide (die < 2)
  | .highz die => decide (die < 2)
  | .extestPulse die => decide (die < 2)
  | .extestTrain die => decide (die < 2)
  | .regaccess _ _ _ => true
  | .memaccess _ _ _ => true
  | .halt core _ => decide (core < 576)
  | .bypass die => decide (die < 2)
  | .wbExtest => true
  | .wbIdcode => true
  | .wbSamplePreload _ _ => true
  | .wbBypass => true
  | .copyDone _ => true
  | .ownSetReleaseDone _ => true
  | .hbmChannelFailure chan => decide (chan < 192)
  | .sheafFault sheaf => decide (sheaf < 36)
  | .seamCrcFailure => true
  | .coolantFaultDeassert => true
  | .wakeNRelease => true

end Sys2Proof
end

