-- ==== Sys2Proof/Tests/Slice0.lean ====
section
/-! SUPPORT. The model's own tests: ill-formed commands that the check refuses, states that meet the hypotheses of the
statements, and one step of many commands on small states. Expected values come from the spec's rules and tables. -/
set_option Elab.async false

namespace Sys2Proof.Tests
open Sys2Proof Sys2Proof.Machine

/-! ### Small states -/

/-- A module 5 that serves: READY, its units in service, both Haldip ports up with adapter 7 learned. -/
def up : State := { State.reset with
  dev := { State.reset.dev with phase := .ready, fabId := 5 },
  units := { State.reset.units with base := .ready },
  fe := { State.reset.fe with ports := [(0, { up := true, adapter := some 7 }), (1, { up := true, adapter := some 7 })] } }

/-- A context's one range: 16 MiB of address channel 0 from granule 2 on, at VA 0x100000, readable and writable. -/
def rng : Range :=
  { va := 0x100000, fpa := 5 * 2 ^ 42 + 0x400000, pages := 4096, r := true, w := true, a := true, d := true, cls := 6, cache := 0, edom := 0,
    ilv := 0, granary := false }

/-- The binding record of partition 9 in slot 1: cores 0 and 1, channels 0 and 1. -/
def rec9 : BindRec :=
  { pid := 9, pgen := 6, lcount := 4, slot := 1, lead := 5, deputy := 5, localCount := 4, runs := 1, cores := [0, 1], chans := [0, 1],
    clsShare := [1, 1, 1, 1, 1, 1, 1] }

def slot9 : Slot :=
  { st := 2, pgen := 6, bound := true, brec := rec9, lmap := [⟨0, 0, 0⟩, ⟨1, 0, 1⟩, ⟨2, 1, 0⟩, ⟨3, 1, 1⟩], rtab := [⟨0, 5⟩] }

/-- Slot 1 of `up` READY for partition 9; context 3 LIVE in it at generation 0x104, with `rng`, its eight
granules and event 7 of value 10. -/
def bound : State := { up with
  part := { up.part with slots := [(1, slot9)], ctxs := [(3, { st := 1, slot := 1, gen := 0x104, ranges := [rng] })] },
  mem := { up.mem with tags := (List.range 8).map (fun i => (2 + i, { slot := 1, ctx := 3, st := 1 })) },
  ev := { up.ev with evs := [(7, { st := 1, ctx := 3, val := 10 })] } }

/-- The bytes of a descriptor at window offset 0x40: one byte from window offset 0x800 of this tenancy to memory at VA 0x101000. -/
def descWin : Tab Byte :=
  [(0x40, 1), (0x48, 0), (0x49, 8), (0x51, 0x10), (0x52, 0x10), (0x60, 1), (0x64, 1), (0x68, 1), (0x6C, 1), (0x70, 1), (0x800, 0x5A)]

/-- The tenancy of LCID 0 of context 3, resident on core 0, its kernel running at VA 0x100000. X4, X5 and X7 are the last places
of its window for 8, 256 and 128 bytes; X8 and X10 are tile addresses, X9 a shape of 32 by 64 by 64; X11 is an address that a
range maps, X12 the handle of event 7 of this module, X13 a group of two logical cores. -/
def ten : Ten :=
  let xs : Tab W64 := [(1, 6), (2, 7), (3, 0x40), (4, 131064), (5, 130816), (7, 130944), (8, 32 * 2 ^ 19 + 4096 * 2 ^ 38),
    (9, 32 + 64 * 2 ^ 10 + 64 * 2 ^ 17), (10, 256 * 2 ^ 19 + 32768 * 2 ^ 38), (11, 0x100FF8), (12, 7 + 5 * 2 ^ 16), (13,
        2 * 2 ^ 24 + 2 ^ 48)]
  { lcid := 0, ctx := 3, cgen := 0x104, slot := 1, foot := 1, cls := 2, core := 0, loc := .resident 0, pc := 0x100000, running := true,
    x := xs, v := [(64, 0x3F800000), (128, 0x40000000)], win := descWin }

def pair : TenRef := { lcid := 0, ctx := 3 }

/-- `bound` with that tenancy. -/
def core : State := { bound with tens := [ten] }

/-- The 56 bits of a word of format R or I by its fields. -/
def word (d a b c : Nat) (pred fn mod imm : Nat) : BitVec 56 :=
  BitVec.ofNat 56 (d * 2 ^ 51 + a * 2 ^ 46 + b * 2 ^ 41 + c * 2 ^ 36 + pred * 2 ^ 33 + fn * 2 ^ 28 + mod * 2 ^ 16 + imm)

/-- `core` once the instruction at its PC is fetched. -/
def fetched : State := (fetch core ten).2

/-- An instruction of the tenancy issues, whatever registers it names. -/
theorem issues_core (regs : List Reg) : Issues core pair regs ten fetched := by
  refine ⟨by decide +kernel, ?_, Prod.ext (by decide +kernel) rfl⟩
  rw [List.any_eq_false]
  intro r _
  simp [regPending, core, bound, up, State.reset]

/-- `bound` with another tenancy. -/
def withTen (x : Ten) : State := { bound with tens := [x] }

/-- A transfer of one byte from window offset 0x800 to 0x900, its descriptor at 0x40. -/
def xf0 : Xfer :=
  { valid := true, descOff := 0x40, total := 1,
    desc := { srcKind := 1, dstKind := 1, srcAddr := 0x800, dstAddr := 0x900, size := [1, 1, 1, 1, 1], sst := [0, 0, 0, 0, 0],
              dst := [0, 0, 0, 0, 0] } }

/-- The same from memory that no range maps. -/
def xf1 : Xfer := { xf0 with desc := { xf0.desc with srcKind := 0, srcAddr := 0 } }

/-- The fault record that waits outside the queue in the states below. -/
def frec : FaultRec :=
  { cause := 1, kind := 0, source := 0, write := false, srcSide := true, entry := 0, ctx := 3, slot := 1, cgen := 0x104, pid := 9,
    addr := 0, wher := 0x40, lcid := 0, half := 0, detail := 0, time := 0, seq := 0 }

def pkt0 : Pkt := { adapter := 7, qpn := 8, ctx := 3, gen := 4 }
def begun0 : Begun := { id := 5, q := .qp 8, pkt := pkt0, job := .read 0x100000 64 }

/-- A store of one byte to the tenancy's window that waits for it. -/
def acc0 : RemAcc := { issuer := pair, target := pair, off := 0x800, store := some [1], len := 1, vec := false, reg := 0, pc := 0 }
def fab0 : FabPkt := { kind := 1, src := 6, lane := 1, pid := 9, pgen := 6, ctx := 3, tkind := 2, target := 0, len := 4 }

/-- A store of the 32-bit value 5 at module address 0x400000 for context 3. -/
def near0 : NearReq :=
  { fpa := 5 * 2 ^ 42 + 0x400000, op := 0, width := 0, ret := true, cls := 2, ctx := 3, edom := 0, pid := 9, operand := 5, compare := 0,
    lanes := [] }

/-- What an access answered: the bytes, and the state after it. -/
def resData : MemRes → Option (List Byte)
  | .ok d _ => some d
  | _ => none
def resState : MemRes → State
  | .ok _ s => s
  | .unc s => s
  | _ => State.reset
theorem res_ok {r : MemRes} {d : List Byte} (h : resData r = some d) : r = .ok d (resState r) := by
  cases r <;> simp [resData, resState] at *
  exact h
def resD (r : MemRes) : List Byte := (resData r).getD []
theorem res_is {r : MemRes} (h : (resData r).isSome = true) : r = .ok (resD r) (resState r) := by
  cases r <;> simp [resData, resState, resD] at *
theorem some_ok {α β : Type} {p : Option α × β} (h : p.1.isSome = true) : p = (some (p.1.get h), p.2) := by
  obtain ⟨a, b⟩ := p
  cases a <;> simp at *

theorem opt_ok {α : Type} {p : Option α} (h : p.isSome = true) : p = some (p.get h) := by cases p <;> simp at *
theorem pick_ok {l : List Nat} {s : State} (h : (l != []) = true) : (pickOne l s).1.isSome = true := by
  match l, h with
  | [_], _ => rfl
  | a :: b :: t, _ =>
    simp only [pickOne]
    rw [List.getElem?_eq_getElem (Nat.mod_lt _ (by simp))]
    rfl

/-- An entry for LCID 2 of context 3 on core 1, and a state whose core 1 holds entries. -/
def ent : DqEntry :=
  { lcid := 2, ctx := 3, cgen := 0x104, cls := 2, foot := 1, entry := 0x100000, x1 := 0, x2 := 0, x3 := 0, x4 := 0, run := 0, incarn := 0,
    grp := 0 }
def queued (l : List DqEntry) (s : State) : State := setCore s 1 { queue := l }

/-- Tenancies of LCID 2 and 3, and of other contexts, on core 1. -/
def ten2 : Ten := { ten with lcid := 2, core := 1, running := false, pc := 0 }
def ten3 : Ten := { ten with lcid := 3, core := 1, foot := 4 }
def swp (c : Nat) : Ten := { ten2 with ctx := c, foot := 4, loc := .swapped }
/-- A class-7 entry of a whole core for LCID 2 while LCID 3 holds the core and waits on event 7. -/
def crowded : State := queued [{ ent with cls := 7, foot := 4 }] (withTen { ten3 with wait := .event (7 + 5 * 2 ^ 16) 20 })
def pair3 : TenRef := { lcid := 3, ctx := 3 }

theorem pick_none {l : List Nat} {s : State} (h : (l == []) = true) : pickOne l s = (none, s) := by
  cases l <;> simp_all [pickOne]

/-- A word of a sequencer program by its fields. -/
def sword (op d a b c md imm : Nat) : W64 :=
  BitVec.ofNat 64 (op * 2 ^ 56 + d * 2 ^ 52 + a * 2 ^ 48 + b * 2 ^ 44 + c * 2 ^ 40 + md * 2 ^ 32 + imm)

/-- A run of the program of `progged` for a packet of QP 0. S1 is an address that a range maps, S2 the handle of event 7, S3 a
target that the event has met, S5 an address of a list, S6 64. -/
def run0 : Run :=
  { core := 0, cls := 2, prog := 0, ver := 1, ctx := 3, cgen := 0x104, slot := 1, q := .mgmt 0, pkt := pkt0, id := 5,
    s := [(1, 0x101000), (2, 7 + 5 * 2 ^ 16), (3, 12), (5, 0x100000), (6, 64), (7, 0x102000)] }

/-- `s` with program 0 of one word and one record (one kernel on LCID 0) and run 2 of it. -/
def progged (w : W64) (r : Run) (s : State) : State :=
  let v : Version := { num := 1, code := [w], recs := [[0x100000, 0, 0, 1, 1, 0, 0, 0, 0, 0, 0, 0, 0, 0, 0, 0]] }
  let p : Prog := { slot := 1, entry := 0, current := 1, versions := [v] }
  { s with seq := { s.seq with progs := [(0, some p)], runs := [(2, some r)] } }
def ran (w : W64) : State := progged w run0 bound

/-- What an access of a run answered. -/
def readData : RunRead → List Byte
  | .ok d _ => d
  | _ => []
def readState : RunRead → State
  | .ok _ s => s
  | .stop s => s
def readOk : RunRead → Bool
  | .ok _ _ => true
  | _ => false
theorem read_ok {r : RunRead} (h : readOk r = true) : r = .ok (readData r) (readState r) := by
  cases r with
  | ok d s => rfl
  | stop s => simp [readOk] at h
def segRange : RunSeg → Range
  | .seg e _ _ _ => e
  | _ => rng
def segVa : RunSeg → Nat
  | .seg _ v _ _ => v
  | _ => 0
def segLen : RunSeg → Nat
  | .seg _ _ m _ => m
  | _ => 0
def segState : RunSeg → State
  | .seg _ _ _ s => s
  | .stop s => s
def segOk : RunSeg → Bool
  | .seg _ _ _ _ => true
  | _ => false
theorem seg_ok {r : RunSeg} (h : segOk r = true) : r = .seg (segRange r) (segVa r) (segLen r) (segState r) := by
  cases r with
  | seg e v m s => rfl
  | stop s => simp [segOk] at h

/-- A list of one entry at VA 0x100000, its descriptor at VA 0x102000: base 0x103000, slots of 64 bytes, capacity 16. -/
def kvBytes : State :=
  let at0 (s : State) (a : Nat) (l : List Byte) : State := resState (memWrite s .internal 3 0 0 a l)
  at0 (at0 bound 0x400000 (leBytes 16 1 ++ leBytes 8 0x102000 ++ leBytes 8 (2 + 2 * 2 ^ 16)))
    0x402000 (leBytes 8 0x103000 ++ leBytes 4 64 ++ leBytes 4 16 ++ leBytes 8 0 ++ leBytes 8 1 ++ leBytes 32 0)

/-- A run of a KV instruction whose list is that one, with epoch number 64 in S6. -/
def kvRan (op : Nat) : State := progged (sword op 0 5 6 0 0 0) run0 kvBytes

/-- The same with that epoch open on the descriptor. -/
def kvOpened (op : Nat) : State :=
  let s := kvRan op
  let k : KvRec :=
    { half := 0, fpa := 5 * 2 ^ 42 + 0x402000, ctx := 3, cgen := 0x104, epoch := 64, base := 0x103000, slotBytes := 64, len := 0, tail := 2,
      prior := 1 }
  { s with seq := { s.seq with kv := [k] } }

def listOf : KvList → List KvEnt
  | .ok l _ => l
  | _ => []
def listState : KvList → State
  | .ok _ s => s
  | .stop s => s
def listOk : KvList → Bool
  | .ok _ _ => true
  | _ => false
theorem list_ok {r : KvList} (h : listOk r = true) : r = .ok (listOf r) (listState r) := by
  cases r with
  | ok d s => rfl
  | stop s => simp [listOk] at h
def descsOf : KvDescs → List KvDesc
  | .ok l _ => l
  | _ => []
def descsState : KvDescs → State
  | .ok _ s => s
  | .stop s => s
def descsOk : KvDescs → Bool
  | .ok _ _ => true
  | _ => false
theorem descs_ok {r : KvDescs} (h : descsOk r = true) : r = .ok (descsOf r) (descsState r) := by
  cases r with
  | ok d s => rfl
  | stop s => simp [descsOk] at h

/-- A packet of QP 0 of Haldip port 0 that comes next there, by its words and its payload; context 3. -/
def mp (w4 w5 w6 w7 : W32) (l : List Byte) : Pkt :=
  { adapter := 7, ctx := 3, gen := 4, w4 := w4, w5 := w5, w6 := w6, w7 := w7, plen := l.length, payload := l }

/-- An image of one END word. -/
def img0 : List Byte := leBytes 4 0x5E0CA001 ++ leBytes 4 1 ++ leBytes 24 0 ++ leBytes 8 (0x51 * 2 ^ 56)

/-- `bound` with queue pair 8. -/
def withQp (x : Qp) : State := { bound with fe := { bound.fe with qps := [(8, x)] } }

/-- A packet that module 6 sent on, for partition 9. -/
def ip (w4 w5 w6 w7 : W32) (l : List Byte) : Pkt := { mp w4 w5 w6 w7 l with src := .fabric 6 9 6 }

/-- Queue pair 8, ACTIVE for context 3, its rings of 16 KiB at VA 0x100000 and 0x104000. -/
def qp8 : Qp :=
  { st := 2, ctx := 3, cgen := 0x104, maxCls := 7, adapter := 7, quantum := 64, sqBase := 0x100000, cqBase := 0x104000, sqLog := 14,
    cqLog := 14 }
def qpk (w4 w5 w6 w7 : W32) (l : List Byte) : Pkt := { mp w4 w5 w6 w7 l with qpn := 8 }

/-- Queue pair 8 fed by the device, its head at 0 and its tail recorded in event 9 at 64; the ring's first 64 bytes in memory. -/
def devFed (l : List Byte) : State :=
  let s := withQp { qp8 with source := true, sqTailEvt := 9 + 5 * 2 ^ 16 }
  resState (memWrite { s with ev := { s.ev with evs := [(9, { st := 1, ctx := 3, val := 64 })] } } .internal 3 0 0 0x400000 l)

/-- A packet of the fabric from module 6 to this module, the next of its flow. -/
def fk (vc : Nat) : FabPkt := { fab0 with dst := 5, vc := vc, target := BitVec.ofNat 64 (5 * 2 ^ 42 + 0x400000), tag := 1 }
def tookPkt (s : State) (f : FabPkt) : State := setRx s { findRx s (flowOf f) with expected := f.flowSeq + 1 }

/-- An outstanding request of a tenancy to module 6. -/
def out0 : Outst := { tag := 1, who := .posted pair, ctx := 3, cgen := 0x104, bgen := 0, core := 0, dst := 6 }

theorem tri_ok {α β γ : Type} {p : Option (α × β × γ)} (h : p.isSome = true) : p = some ((p.get h).1, (p.get h).2.1, (p.get h).2.2) := by
  cases p with
  | none => simp at h
  | some _ => rfl
theorem pair_ok {α β : Type} {p : Option (α × β)} (h : p.isSome = true) : p = some ((p.get h).1, (p.get h).2) := by
  cases p with
  | none => simp at h
  | some _ => rfl

/-- An idleBytes frame, the first on a port. -/
def idleBytes : List Byte := List.replicate 42 0 ++ List.replicate 12 255 ++ List.replicate 1226 0
def framed (c : W32) : List Byte := idleBytes ++ leBytes 4 c.toNat ++ [0]
def frame0 : Frame := { bytes := framed (crc32c idleBytes), corrected := 2, uncorrectable := 0 }
theorem frame0_good : frameGood { st := 2 } frame0 = true := by
  have hl : idleBytes.length = 1280 := by decide +kernel
  have h (c : W32) : (framed c).take 1280 = idleBytes ∧ (framed c).length = 1285 ∧ numAt (framed c) 0 2 = numAt idleBytes 0 2
      ∧ numAt (framed c) 42 12 = numAt idleBytes 42 12 ∧ BitVec.ofNat 32 (numAt (framed c) 1280 4) = c := by
    refine ⟨?_, by simp [framed, hl], ?_, ?_, ?_⟩
    · simp only [framed, List.append_assoc]; exact List.take_left' hl
    · simp only [framed, List.append_assoc]; exact numAt_left (by omega)
    · simp only [framed, List.append_assoc]; exact numAt_left (by omega)
    · simp only [framed, List.append_assoc]
      rw [numAt_right (by omega), hl, numAt_left (by simp), numAt_leBytes]
      exact BitVec.eq_of_toNat_eq (by simp [Nat.mod_eq_of_lt c.isLt])
  obtain ⟨h1, h2, h3, h4, h5⟩ := h (crc32c idleBytes)
  simp only [frameGood, frame0, h1, h2, h3, h5, frameTag, h4]
  generalize crc32c idleBytes = c
  simp only [BEq.rfl, Bool.and_true]
  decide +kernel

def withPort (x : Port) : State := setPort bound 3 x
def key0 : LinkKey := { slot := 1, peer := 6, keyix := 0, tx := [], rx := [], sent := 2 ^ 39 }
def withKey (k : LinkKey) : State := { bound with fab := { bound.fab with keys := [k] } }

def segRange2 : Seg × State → Range
  | (.seg e _ _, _) => e
  | _ => rng
def segVa2 : Seg × State → Nat
  | (.seg _ v _, _) => v
  | _ => 0
def segLen2 : Seg × State → Nat
  | (.seg _ _ m, _) => m
  | _ => 0
def segOk2 : Seg × State → Bool
  | (.seg _ _ _, _) => true
  | _ => false
theorem seg2_ok {r : Seg × State} (h : segOk2 r = true) : r = (.seg (segRange2 r) (segVa2 r) (segLen2 r), r.2) := by
  obtain ⟨a, b⟩ := r
  cases a with
  | seg e v m => rfl
  | deny st => simp [segOk2] at h
  | fault c => simp [segOk2] at h
  | lost => simp [segOk2] at h
theorem seg2_len {r : Seg × State} {n : Nat} (h : segOk2 r = true) (hn : segLen2 r = n) : r = (.seg (segRange2 r) (segVa2 r) n, r.2) := by
  subst hn; exact seg2_ok h

def seg1Range : Seg → Range
  | .seg e _ _ => e
  | _ => rng
def seg1Va : Seg → Nat
  | .seg _ v _ => v
  | _ => 0
def seg1Len : Seg → Nat
  | .seg _ _ m => m
  | _ => 0
def seg1Ok : Seg → Bool
  | .seg _ _ _ => true
  | _ => false
theorem seg1_ok {r : Seg} (h : seg1Ok r = true) : r = .seg (seg1Range r) (seg1Va r) (seg1Len r) := by
  cases r <;> simp [seg1Ok, seg1Range, seg1Va, seg1Len] at *
theorem seg1_len {r : Seg} {n : Nat} (h : seg1Ok r = true) (hn : seg1Len r = n) : r = .seg (seg1Range r) (seg1Va r) n := by
  subst hn; exact seg1_ok h

/-- `bound` with begun command 5. -/
def withJob (j : Job) : State := { bound with fe := { bound.fe with begun := [{ begun0 with job := j }] } }
def begun (j : Job) : Begun := { begun0 with job := j }

/-- The command that packet `P` of QP 0 of port 0 begins. -/
def startedBy (s : State) (P : Pkt) (j : Job) : Begun := { id := (taken s 0 P).fe.nextId, q := .mgmt 0, pkt := P, job := j, cursor := 0 }

/-- What the front end of Half 0 starts next. -/
def frontItem (s : State) : Item :=
  match frontNext s 0 with
  | some r => r.2.1
  | none => { cost := 0, cls := 0, read := none }
def frontState (s : State) : State :=
  match frontNext s 0 with
  | some r => r.2.2
  | none => s
theorem front_ok {s : State} {q : QRef} (h : (frontNext s 0).map (·.1) = some q) : frontNext s 0 = some (q, frontItem s,
    frontState s) := by
  unfold frontItem frontState
  cases e : frontNext s 0 with
  | none => simp [e] at h
  | some r => simp [e] at h; subst h; rfl

/-- What a device-sourced ring holds. -/
def devPkt : DevAt → Pkt
  | .good p => p
  | .bad p => p
  | .none => pkt0
def devGood : DevAt → Bool
  | .good _ => true
  | _ => false
def devBad : DevAt → Bool
  | .bad _ => true
  | _ => false
theorem good_ok {r : DevAt × State} (h : devGood r.1 = true) : r = (.good (devPkt r.1), r.2) := by
  obtain ⟨a, b⟩ := r; cases a <;> simp [devGood, devPkt] at *
theorem bad_ok {r : DevAt × State} (h : devBad r.1 = true) : r = (.bad (devPkt r.1), r.2) := by
  obtain ⟨a, b⟩ := r; cases a <;> simp [devBad, devPkt] at *

/-- A read of 64 bytes of context 3 at module address 0x400000. -/
def mreq : MemReq := { addr := 0x400000, len := 64, kind := .read, ctx := 3, pid := 9, edom := 0, data := [], upset := {}, cls := 2, now := true }

/-- `bound` with slot 1 changed. -/
def withSlot1 (f : Slot → Slot) : State := { bound with part := { bound.part with slots := [(1, f slot9)] } }

/-- Slot 1 shared with module 6, which hosts LCIDs 2 and 3; core 1 hosts nothing. -/
def shared (f : Slot → Slot) : State :=
  withSlot1 (fun x => f { x with lmap := [⟨0, 0, 0⟩, ⟨1, 0, 1⟩], rtab := [⟨0, 5⟩, ⟨2, 6⟩], brec := { x.brec with localCount := 2, runs := 2 } })

/-- A move or a handoff of LCID 0 in a step. -/
def moving0 : Moving := { slot := 1, lcid := 0, id := none, srcCore := 0, dstMod := 6, dstCore := 1, fold := 0, st := 11, epoch := 1 }
def withMoving (s : State) (m : Moving) : State := { s with part := { s.part with moving := [m] } }
def led6 (x : Slot) : Slot := { x with brec := { x.brec with lead := 6 } }
def opened (st : EpochSt) (x : Slot) : Slot := { x with own := [(2, { owner := 6, epoch := 1, src := 6, dst := 5, st := st })] }
def offer0 : Offer := { slot := 1, lcid := 2, epoch := 1, src := 6, data := [], good := false, core := 1, fold := 0 }

theorem except_ok {α : Type} {r : Except Nat α} {x : α} (h : r.toOption = some x) : r = .ok x := by
  cases r with
  | error e => simp [Except.toOption] at h
  | ok y => simpa [Except.toOption] using h

/-- A granary image of eight bytes in granule 20, READY. -/
def image0 : Image :=
  { model := 7, base := 20 * 2 ^ 21, size := 8, granules := [20], digest := [], host := true, peer := 6,
    st := 1, pins := 0, maps := 0, used := 0, id := none }
def withImage0 (x : Image) : State := withSlot1 (fun y => { y with brec := { y.brec with granary := 4 }, images := [x] })
def withDown (st step : Nat) : State :=
  let d : Teardown := { code := 0, status := 0, step := step, destroy := none, live := true }
  { bound with part := { bound.part with ctxs := [(3, { st := st, slot := 1, gen := 0x104, down := some d })] } }

theorem length_rounds (l a : List W64) (h : a.length = 25) : (l.foldl keccakRound a).length = 25 := by
  induction l generalizing a with
  | nil => exact h
  | cons c l ih => exact ih _ (by simp [keccakRound])
theorem length_absorb (n : Nat) (a : List W64) (m : List Byte) (h : a.length = 25) : (absorbAll n a m).length = 25 := by
  induction n generalizing a m with
  | zero => exact h
  | succ n ih =>
    simp only [absorbAll]
    split
    · exact h
    · exact ih _ _ (length_rounds _ _ (by simp))
theorem length_sponge (dom : Nat) (m : List Byte) : (sponge dom m 32).length = 32 := by
  have h := length_absorb ((keccakPad dom m).length / 136) (List.replicate 25 0) (keccakPad dom m) rfl
  simp only [sponge]
  generalize absorbAll _ _ _ = a at h
  match a, h with
  | a :: b :: c :: d :: l, _ => simp [squeezeAll, ceilDiv]; omega
theorem length_shake256 (m : List Byte) : (shake256 m 32).length = 32 := length_sponge _ _

/-- The same image LOADING, with a digest. -/
def loading (d : List Byte) (host : Bool) (id : Option Nat) : Image := { image0 with st := 0, host := host, id := id, digest := d }
def sealPkt : Pkt := mp 7 0 9 0 []
theorem seal_image (d : List Byte) :
    imageOf (taken (withImage0 (loading d true none)) 0 { sealPkt with opcode := 0x98 }) 1 (opA sealPkt) = some (loading d true none) := by
  unfold imageOf getSlot; rw [taken_part]; rfl
theorem taken_mem (s : State) (h : Nat) (p : Pkt) : (taken s h p).mem = s.mem := by
  have e : (lullWake s h).mem = s.mem := by unfold lullWake setHalfPwr; repeat' (first | rfl | split)
  rw [← e]; rfl
theorem seal_bytes (d : List Byte) :
    imageBytes [20] 8 [] (taken (withImage0 (loading d true none)) 0 { sealPkt with opcode := 0x98 })
      = (some (List.replicate 8 0), taken (withImage0 (loading d true none)) 0 { sealPkt with opcode := 0x98 }) := by
  have u : (withImage0 (loading d true none)).mem.upsets = [] := rfl
  have n : min 8 granSpan = 8 := by decide
  simp only [imageBytes, readServe, upsetIn, rawRead, taken_mem, u, n, List.filter_nil]
  rfl

/-- The digest of eight zeros. -/
@[irreducible] def zeros8 : List Byte := shake256 (List.replicate 8 0) 32
theorem seal_digest (d : List Byte) (h : d = zeros8) : shake256 (List.replicate 8 0) 32 = (loading d true none).digest := by
  unfold zeros8 at h; rw [← h]; rfl

/-- The same image pulled from a peer, with the command that waits for it. -/
def pulled : State := { withImage0 (loading zeros8 false (some 5)) with fe := (withJob (.pull 1 7)).fe }
theorem pull_bytes (s : State) (h : s = writeImage pulled (loading zeros8 false (some 5)) []) :
    imageBytes [20] 8 [] s = (some (List.replicate 8 0), s) := by
  have u : s.mem.upsets = [] := by subst h; rfl
  have e : rawRead s (granBase (false, 20)) 8 = List.replicate 8 0 := by subst h; rfl
  have n : min 8 granSpan = 8 := by decide
  simp only [imageBytes, readServe, upsetIn, u, n, List.filter_nil, ite_self, meetAll, e, List.nil_append]

theorem handed_digest (c z : List Byte) (hz : z.length = 32) (h : z = shake256 c 32) :
    let d := [] ++ (c ++ z)
    let n := d.length - 32
    32 ≤ d.length ∧ shake256 (d.take n) 32 = d.drop n := by
  simp [hz]; simp [h]

/-- The last part of a state that is handed over: eight bytes and their digest. -/
@[irreducible] def handed8 : List Byte := shake256 (leBytes 8 1) 32
theorem handed8_eq : handed8 = shake256 (leBytes 8 1) 32 := by unfold handed8; rfl
theorem length_handed8 : handed8.length = 32 := by rw [handed8_eq, length_shake256]
def handPkt : Pkt := ip 9 2 1 0 (leBytes 8 1 ++ handed8)

/-- `bound` with its store of security records in a life-cycle state and one vendor key, whose KEY_ID is 32 zeros. -/
def keyed (lc : Nat) : State := { bound with sec := { bound.sec with lc := lc, vendor := [List.replicate 32 0], attCert := [1] } }

/-- A KEY_UPDATE that the vendor signs, of a body: COUNTER 1, a signature of 2,820 zeros. -/
def updPkt (body : List Byte) : Pkt :=
  mp 0 0 0 0 (leBytes 4 0x4B550001 ++ [0, 1] ++ leBytes 2 body.length ++ leBytes 16 0 ++ leBytes 4 1 ++ leBytes 4 0 ++ body
    ++ List.replicate 32 0 ++ List.replicate 2820 0)
def ownerBody : List Byte := [0, 0, 0, 0x10] ++ List.replicate 96 0

/-- A KEY_UPDATE passes its checks where its signature is good and the rest of them hold. -/
theorem upd_none {s : State} {p : Pkt} {u : KeyUpd} (h : Config.xmssVerify u.kid u.msg u.sig = true)
    (a : (sliceZ p.payload 8 16 == serialBytes s && (if u.signer = 1 then vendorKeyOk s u.kid else namesOwner s u.kid)
      && decide (s.sec.updCnt.toNat < u.counter) && (u.kind != 8)) = true)
    (b : (numAt p.payload 0 4 ≠ 0x4B550001 ∨ 4096 < u.bodyLen ∨ p.payload.length < 64 + u.bodyLen ∨ (!sigLenOk s u.kid u.sig.length) = true
      ∨ (!updBodyOk s u) = true) = False)
    (c : decide (9 ≤ u.kind) = false) (d : updAllowed s.sec.lc u = true)
    (e : (u.kind ≤ 6 ∧ (s.part.slots.any (fun e => e.2.st != 0)) = true) = False) : updCheck s p u = none := by
  have ha : updAuth s p u = true := by
    unfold updAuth
    simp only [Bool.and_eq_true] at a ⊢
    refine ⟨⟨⟨⟨a.1.1.1, a.1.1.2⟩, h⟩, a.1.2⟩, ?_⟩
    simp only [a.2, Bool.true_or]
  unfold updCheck
  simp only [b, e, ha, d, if_false, Bool.not_true, Bool.false_eq_true, of_decide_eq_false c]

/-- Slot 1 confidential, in a module that knows one vendor key. -/
def confed : State :=
  let s := withSlot1 (fun x => { x with brec := { x.brec with conf := true } })
  { s with sec := (keyed 1).sec }

/-- CHAIN of module 6 for partition 9. -/
def chainPkt : Pkt :=
  ip 0 0 0 0 (leBytes 4 0 ++ leBytes 4 9 ++ leBytes 4 6 ++ leBytes 2 6 ++ leBytes 2 5 ++ List.replicate 16 0 ++ List.replicate 68 0
    ++ leBytes 4 0x56430001 ++ List.replicate 2944 0)
def kex0 : Kex := { slot := 1, peer := 6, keyix := 0, initiator := true, st := 4, seed := 0, held := [fab0] }
def withKex (x : Kex) : State := { bound with fab := { bound.fab with kex := [x] } }

/-- Stream 3 with a broadcast of two ranks under way, of which this module's streams 3 and 5 are the members. -/
def coll0 : Coll :=
  { op := 4, type := 0, red := 0, arrival := false, rank := 0, root := 1, seq := 7, count := 32, recv := 0, rgrid := 0, n := 2,
    groupId := 1, members := [(5, 3), (5, 5)], crc := 0, own := [] }
def streamed (c : Option Coll) (l : List CollMsg) : State :=
  { bound with fab := { bound.fab with streams := [(3, { ctx := 3, st := 1, cur := c })], collMsgs := l } }

/-- Stream 3 with a turn ready: its descriptor, a broadcast of one element in a group of this stream alone, stands at VA 0x100000,
the group's table at VA 0x100100. -/
def turnReady : State :=
  let put (s : State) (a : Nat) (l : List Byte) : State := resState (memWrite s .internal 3 0 0 a l)
  let s := { bound with fab := { bound.fab with streams := [(3, { ctx := 3, st := 1, ring := 0x100000, ready := true })] } }
  put (put s 0x400000 (leBytes 4 0xA4 ++ leBytes 4 0 ++ leBytes 4 0 ++ leBytes 4 7 ++ leBytes 8 1 ++ leBytes 8 0x100100 ++ leBytes 8 0x101000
      ++ leBytes 8 0x102000 ++ leBytes 16 0 ++ List.replicate 64 0))
    0x400100 (leBytes 4 1 ++ leBytes 4 1 ++ leBytes 8 0 ++ leBytes 4 (5 + 3 * 2 ^ 14))
def vData : VRead → List Byte
  | .ok l _ => l
  | _ => []
def vState : VRead → State
  | .ok _ s => s
  | _ => State.reset
def vOk : VRead → Bool
  | .ok _ _ => true
  | _ => false
theorem v_ok {r : VRead} (h : vOk r = true) : r = .ok (vData r) (vState r) := by
  cases r <;> simp [vOk, vData, vState] at *
def spanOf (d tab : List Byte) (s : State) : Option Bool × State := buffersOk s 3 (collOf d tab) (numAt d 0x20 8) (numAt d 0x30 8)
theorem span_ok {r : Option Bool × State} (h : r.1 = some true) : r = (some true, r.2) := by rw [← h]

/-- `up` with its weighbridge changed. -/
def weighed (f : Wb → Wb) : State := { up with wb := f up.wb }
def sec0 : SecRec := { secNo := 0, energy := 0, vMin := 0, vMax := 0, pPeak := 0, flags := 0, feedSeq := 0 }
def full : State := weighed (fun w => { w with recs := List.replicate 60 sec0 })
def audit0 : Audit := { num := 0, kind := 1, blockNo := 0, detail := [], signature := [] }

/-- The weighbridge paired, with a feed key, and the first frame that a module with that key sends it, of no slots. -/
def feeding : State := weighed (fun w => { w with power := true, paired := some [], feedKey := some [] })
def feedHead : List Byte := leBytes 4 0 ++ leBytes 4 1 ++ leBytes 8 0
@[irreducible] def feedTag : List Byte := kmac256 [] feedHead 32 (ascii "IAF feed")
theorem feedTag_eq : feedTag = kmac256 [] feedHead 32 (ascii "IAF feed") := by unfold feedTag; rfl
theorem length_feedTag : feedTag.length = 32 := by rw [feedTag_eq]; exact length_sponge _ _
def feedBytes : List Byte := feedHead ++ feedTag
theorem feed_good : feedGood feeding.wb feedBytes = true := by
  have hl : feedHead.length = 16 := rfl
  have n : numAt feedBytes 8 1 = 0 := by unfold feedBytes; rw [numAt_left (by omega)]; decide +kernel
  have k : numAt feedBytes 4 4 = 1 := by unfold feedBytes; rw [numAt_left (by omega)]; decide +kernel
  have l : feedBytes.length = 48 := by unfold feedBytes; rw [List.length_append, hl, length_feedTag]
  have t : feedBytes.take 16 = feedHead := List.take_left' hl
  have g : sliceZ feedBytes 16 32 = feedTag := by
    unfold feedBytes
    rw [sliceZ_right (by omega), hl]
    exact sliceZ_whole length_feedTag.symm
  have f : feeding.wb.feedKey = some [] := rfl
  have p : feeding.wb.paired = some [] := rfl
  have q : feeding.wb.lastFeed.toNat = 0 := rfl
  unfold feedGood
  simp only [f, p, q, n, k, l]
  simp only [Nat.mul_zero, Nat.add_zero, t, g, feedTag_eq, beq_self_eq_true]
  decide

/-- The weighbridge with power, and a message of the authority that is a signature of nothing. -/
def authed : State := weighed (fun w => { w with power := true, tapMute := false })
def authMsg : List Byte := authed.wb.message ++ (1 :: List.replicate 2820 (0 : Byte)).drop 1

/-- The weighbridge with an image of its firmware staged. -/
def staged : State :=
  weighed (fun w => { w with power := true, tapMute := false, fwNext := none, stagedLen := 2820 })

/-- `bound` with a unit in a state, or an escalation under way. -/
def withUnit (u : UnitRef) (st : UnitSt) : State := setUnit bound u st
def escalated (e : Esc) : State := { bound with units := { bound.units with esc := [e] } }
def migr0 : Migration := { slot := 1, src := 0, dst := 5, id := some 5 }

/-- `bound` with its power state changed; a rail change under way; a phase hinted. -/
def powered (f : Pwr → Pwr) : State := { bound with pwr := f bound.pwr }
def avs0 : Avs := { half := 0, rail := 1, tries := 0, kind := 0 }
def cold : Pwr → Pwr := fun w => { w with half0 := 2, half1 := 2 }

/-- `up` in a phase. -/
def phased (x : Phase) : State := { up with dev := { up.dev with phase := x } }

/-- `core` in DEBUG, where the scan ports reach registers and memory. -/
def debug : State := { core with sec := { core.sec with lc := 3 } }

def pendingOn (a : Nat) (w : W32) : State := setPath up 0 { pendingW := some (a, w) }
def log0 : LogRec :=
  { seq := 0, cls := 7, sev := 1, code := 0, unitKind := 0, unit := 0, action := 0, slot := none, ctx := none, half := 0, pid := 0, cgen := 0,
    time := 0, d0 := 0, d1 := 0, d2 := 0, d3 := 0, count := 1, epoch := 0, first := 0, read := false, conf := false }

theorem witness_EffectiveCap_3 : ∃ (s : State), tabGet (fun _ => 0) s.dev.rsv (regKey (regAtOf 2 0x0C)) = 0 :=
  ⟨bound, by decide +kernel⟩

theorem witness_ScalarArithmeticCompletes_1 : ∃ (s : State) (t : _) (x : _) (u : _), Issues s t [] x u :=
  ⟨core, pair, ten, fetched, issues_core _⟩

theorem witness_ScalarArithmeticCompletes_25 : ∃ (s : State) (t : _) (w : _) (x : _) (u : _), Issues s t (((fun c => [(false,
    c.d)])) (coreWord w)) x u ∧ ((fun c => decide (c.a = 0))) (coreWord w) = true :=
  ⟨core, pair, word 1 0 0 0 0 0 0 5, ten, fetched, issues_core _, by decide +kernel⟩

theorem witness_ScalarArithmeticCompletes_26 : ∃ (s : State) (t : _) (w : _) (x : _) (u : _), Issues s t (((fun c => [(false, c.d),
    (false, c.a)])) (coreWord w)) x u ∧ ((fun c => decide (c.imm46 / 2 ^ 18 % 2 ^ 28 = 0))) (coreWord w) = true :=
  ⟨core, pair, word 1 1 0 0 0 0 0 5, ten, fetched, issues_core _, by decide +kernel⟩

theorem witness_ScalarMemoryAndControlComplete_1 : ∃ (s : State) (t : _) (w : _) (x : _) (u : _), Issues s t (((fun c => [(false, c.d),
    (false, c.a)])) (coreWord w)) x u
        ∧ ((fun c => decide (c.fn ≤ 6) && decide (c.b = 0) && decide (c.c = 0) && decide (c.pred = 0) && decide (c.mod = 0)))
        (coreWord w) = true
    ∧ ((fun c x _ => (xGet x c.a + sext16 c.imm16).toNat % 2 ^ (c.fn % 4) = 0
        ∧ (xGet x c.a + sext16 c.imm16).toNat + 2 ^ (c.fn % 4) ≤ x.foot * 131072)) (coreWord w) x u :=
  ⟨core, pair, word 1 4 0 0 0 3 0 0, ten, fetched, issues_core _, by decide +kernel, by decide +kernel⟩

theorem witness_ScalarMemoryAndControlComplete_2 : ∃ (s : State) (t : _) (w : _) (x : _) (u : _), Issues s t (((fun c => [(false, c.a),
    (false, c.b)])) (coreWord w)) x u
        ∧ ((fun c => decide (c.fn ≤ 3) && decide (c.d = 0) && decide (c.c = 0) && decide (c.pred = 0) && decide (c.mod = 0)))
        (coreWord w) = true
    ∧ ((fun c x _ => (xGet x c.a + sext16 c.imm16).toNat % 2 ^ c.fn = 0
        ∧ (xGet x c.a + sext16 c.imm16).toNat + 2 ^ c.fn ≤ x.foot * 131072 ∧ c.fn ≤ 3)) (coreWord w) x u :=
  ⟨core, pair, word 0 4 1 0 0 3 0 0, ten, fetched, issues_core _, by decide +kernel, by decide +kernel⟩

theorem witness_ScalarMemoryAndControlComplete_3 : ∃ (s : State) (t : _) (w : _) (x : _) (u : _), Issues s t (((fun c => [(false, c.a),
    (false, c.b)])) (coreWord w)) x u
        ∧ ((fun c => decide (c.fn ≤ 5) && decide (c.d = 0) && decide (c.c = 0) && decide (c.pred = 0) && decide (c.mod = 0)))
        (coreWord w) = true
    ∧ ((fun c _ _ => c.fn ≤ 5)) (coreWord w) x u :=
  ⟨core, pair, word 0 1 2 0 0 5 0 0xFFFF, ten, fetched, issues_core _, by decide +kernel, by decide +kernel⟩

theorem witness_ScalarMemoryAndControlComplete_4 : ∃ (s : State) (t : _) (w : _) (x : _) (u : _), Issues s t (((fun c => [(false,
    c.d)])) (coreWord w)) x u ∧ ((fun c => decide (c.a = 0))) (coreWord w) = true :=
  ⟨core, pair, word 1 0 0 0 0 0 0 5, ten, fetched, issues_core _, by decide +kernel⟩

theorem witness_ScalarMemoryAndControlComplete_5 : ∃ (s : State) (t : _) (w : _) (x : _) (u : _), Issues s t (((fun c => [(false, c.d),
    (false, c.a)])) (coreWord w)) x u
        ∧ ((fun c => decide (c.b = 0) && decide (c.c = 0) && decide (c.pred = 0) && decide (c.fn = 0) && decide (c.mod = 0)))
        (coreWord w) = true
    ∧ ((fun c x _ => (xGet x c.a + sext16 c.imm16).toNat % 8 = 0)) (coreWord w) x u :=
  ⟨core, pair, word 1 4 0 0 0 0 0 0, ten, fetched, issues_core _, by decide +kernel, by decide +kernel⟩

theorem witness_ScalarMemoryAndControlComplete_6 : ∃ (s : State) (t : _) (w : _) (x : _) (u : _), Issues s t (((fun c => [(false,
    c.d)])) (coreWord w)) x u
        ∧ ((fun c => decide (c.imm16 ≤ 5) && decide (c.a = 0) && decide (c.b = 0) && decide (c.c = 0) && decide (c.pred = 0)
        && decide (c.fn = 0) && decide (c.mod = 0))) (coreWord w) = true :=
  ⟨core, pair, word 1 0 0 0 0 0 0 5, ten, fetched, issues_core _, by decide +kernel⟩

theorem witness_ScalarMemoryAndControlComplete_7 : ∃ (s : State) (t : _) (w : _) (x : _) (u : _), Issues s t (((fun c => [(false,
    c.a)])) (coreWord w)) x u
        ∧ ((fun c => decide (c.d = 0) && decide (c.b = 0) && decide (c.c = 0) && decide (c.pred = 0) && decide (c.fn = 0)
        && decide (c.mod = 0) && decide (c.imm16 = 0))) (coreWord w) = true :=
  ⟨core, pair, word 0 1 0 0 0 0 0 0, ten, fetched, issues_core _, by decide +kernel⟩

theorem witness_ScalarMemoryAndControlComplete_8 : ∃ (s : State) (t : _) (w : _) (x : _) (u : _),
    Issues s t (((fun _ => [])) (coreWord w)) x u
        ∧ ((fun c => decide (c.d = 0) && decide (c.a = 0) && decide (c.b = 0) && decide (c.c = 0) && decide (c.pred = 0)
        && decide (c.fn = 0) && decide (c.mod = 0))) (coreWord w) = true :=
  ⟨core, pair, word 0 0 0 0 0 0 0 0xFFFF, ten, fetched, issues_core _, by decide +kernel⟩

theorem witness_VectorLanesComplete_16 : ∃ (s : State) (t : _) (w : _) (x : _) (u : _), Issues s t (((fun c => [(true, c.a), (true,
    c.b)])) (coreWord w)) x u
        ∧ ((fun c => decide (c.d < 8) && decide (c.c = 0) && decide (c.fn ≤ 7) && modZero c 20 27 && decide (c.imm16 = 0)))
        (coreWord w) = true
    ∧ ((fun c _ _ => modFld c 16 4 ∈ [0xC, 0xD, 0xE, 0xF] ∧ (6 ≤ c.fn → modFld c 16 4 = 0xF))) (coreWord w) x u :=
  ⟨core, pair, word 7 1 2 0 0 7 0xF 0, ten, fetched, issues_core _, by decide +kernel, by decide +kernel⟩

theorem witness_VectorLanesComplete_17 : ∃ (s : State) (t : _) (w : _) (x : _) (u : _), Issues s t (((fun c => [(true, c.d), (true,
    c.a)])) (coreWord w)) x u
        ∧ ((fun c => decide (c.b = 0) && decide (c.c = 0) && decide (c.fn = 0) && modZero c 26 27)) (coreWord w) = true
    ∧ ((fun c _ _ => cvtPair (modFld c 16 4) (modFld c 20 4) = true
        ∧ (modBit c 25 = true → modFld c 16 4 = 0xC ∧ modFld c 20 4 = 0xF)
        ∧ (c.imm16 % 256 ≠ 0 → modFld c 16 4 = 0xD ∨ modFld c 16 4 = 0xE)
        ∧ (c.imm16 / 256 % 256 ≠ 0 → modFld c 20 4 = 0xD ∨ modFld c 20 4 = 0xE))) (coreWord w) x u :=
  ⟨core, pair, word 1 2 0 0 0 0 0x2FC 0, ten, fetched, issues_core _, by decide +kernel, by decide +kernel⟩

theorem witness_VectorLanesComplete_18 : ∃ (s : State) (t : _) (w : _) (x : _) (u : _), Issues s t (((fun c => [(true, c.d), (true,
    c.a)])) (coreWord w)) x u
        ∧ ((fun c => decide (c.b = 0) && decide (c.c = 0) && decide (c.fn ≤ 2) && modZero c 20 27 && decide (c.imm16 = 0)))
        (coreWord w) = true
    ∧ ((fun c _ _ => modFld c 16 4 ∈ [0xC, 0xD, 0xE, 0xF])) (coreWord w) x u :=
  ⟨core, pair, word 1 2 0 0 1 2 0xE 0, ten, fetched, issues_core _, by decide +kernel, by decide +kernel⟩

theorem witness_VectorMovesComplete_1 : ∃ (s : State) (t : _) (w : _) (x : _) (u : _), Issues s t (((fun c => [(true, c.d), (false,
    c.a)])) (coreWord w)) x u
        ∧ ((fun c => decide (c.b = 0) && decide (c.c = 0) && decide (c.fn = 0) && modZero c 20 27 && decide (c.imm16 = 0)))
        (coreWord w) = true
    ∧ ((fun c _ _ => modFld c 16 4 ∈ [0xC, 0xD, 0xE, 0xF])) (coreWord w) x u :=
  ⟨core, pair, word 3 1 0 0 1 0 0xF 0, ten, fetched, issues_core _, by decide +kernel, by decide +kernel⟩

theorem witness_VectorMovesComplete_2 : ∃ (s : State) (t : _) (w : _) (x : _) (u : _), Issues s t (((fun c => [(false, c.d), (true,
    c.a)])) (coreWord w)) x u
        ∧ ((fun c => decide (c.b = 0) && decide (c.c = 0) && decide (c.pred = 0) && decide (c.fn = 0) && modZero c 20 27
        && decide (c.imm16 < 64))) (coreWord w) = true
    ∧ ((fun c _ _ => modFld c 16 4 ∈ [0xC, 0xD, 0xE, 0xF])) (coreWord w) x u :=
  ⟨core, pair, word 1 2 0 0 0 0 0xC 63, ten, fetched, issues_core _, by decide +kernel, by decide +kernel⟩

theorem witness_VectorMovesComplete_3 : ∃ (s : State) (t : _) (w : _) (x : _) (u : _), Issues s t (((fun c => [(true, c.d), (false,
    c.a)])) (coreWord w)) x u
        ∧ ((fun c => decide (c.b = 0) && decide (c.c = 0) && decide (c.pred = 0) && decide (c.fn = 0) && modZero c 20 27
        && decide (c.imm16 < 64))) (coreWord w) = true
    ∧ ((fun c _ _ => modFld c 16 4 ∈ [0xC, 0xD, 0xE, 0xF])) (coreWord w) x u :=
  ⟨core, pair, word 1 2 0 0 0 0 0xC 63, ten, fetched, issues_core _, by decide +kernel, by decide +kernel⟩

theorem witness_VectorMovesComplete_4 : ∃ (s : State) (t : _) (w : _) (x : _) (u : _), Issues s t (((fun c => [(true, c.d), (true, c.a),
    (true, c.b)])) (coreWord w)) x u
        ∧ ((fun c => decide (c.c = 0) && decide (c.fn = 0) && modZero c 20 27 && decide (c.imm16 = 0))) (coreWord w) = true
    ∧ ((fun c _ _ => modFld c 16 4 ∈ [0xC, 0xD, 0xE, 0xF])) (coreWord w) x u :=
  ⟨core, pair, word 1 2 1 0 1 0 0xC 0, ten, fetched, issues_core _, by decide +kernel, by decide +kernel⟩

theorem witness_VectorMovesComplete_5 : ∃ (s : State) (t : _) (w : _) (x : _) (u : _), Issues s t (((fun c => [(true,
    c.d)])) (coreWord w)) x u
        ∧ ((fun c => decide (c.a = 0) && decide (c.b = 0) && decide (c.c = 0) && decide (c.fn = 0) && modZero c 20 27
        && decide (c.imm16 = 0))) (coreWord w) = true
    ∧ ((fun c _ _ => modFld c 16 4 = 0xF)) (coreWord w) x u :=
  ⟨core, pair, word 1 0 0 0 0 0 0xF 0, ten, fetched, issues_core _, by decide +kernel, by decide +kernel⟩

theorem witness_VectorMovesComplete_6 : ∃ (s : State) (t : _) (w : _) (x : _) (u : _), Issues s t (((fun c => [(true, c.d), (false,
    c.a)])) (coreWord w)) x u
        ∧ ((fun c => decide (c.b = 0) && decide (c.c = 0) && decide (c.fn = 0) && decide (c.mod = 0))) (coreWord w) = true
    ∧ ((fun c x _ => (xGet x c.a + sext16 c.imm16).toNat % 4 = 0
        ∧ (xGet x c.a + sext16 c.imm16).toNat + 256 ≤ x.foot * 131072)) (coreWord w) x u :=
  ⟨core, pair, word 1 5 0 0 1 0 0 0, ten, fetched, issues_core _, by decide +kernel, by decide +kernel⟩

theorem witness_VectorMovesComplete_7 : ∃ (s : State) (t : _) (w : _) (x : _) (u : _), Issues s t (((fun c => [(true, c.b), (false,
    c.a)])) (coreWord w)) x u
        ∧ ((fun c => decide (c.d = 0) && decide (c.c = 0) && decide (c.fn = 0) && decide (c.mod = 0))) (coreWord w) = true
    ∧ ((fun c x _ => (xGet x c.a + sext16 c.imm16).toNat % 4 = 0
        ∧ (xGet x c.a + sext16 c.imm16).toNat + 256 ≤ x.foot * 131072)) (coreWord w) x u :=
  ⟨core, pair, word 0 5 1 0 0 0 0 0, ten, fetched, issues_core _, by decide +kernel, by decide +kernel⟩

theorem witness_VectorMovesComplete_8 : ∃ (s : State) (t : _) (w : _) (x : _) (u : _), Issues s t (((fun c => [(true, c.d), (false, c.a),
    (false, c.b)])) (coreWord w)) x u ∧ (ldcOk) (coreWord w) = true
    ∧ ((fun c x _ => ldcFmt (modFld c 24 4) = true ∧ (xGet x c.a + sext16 c.imm16).toNat % 4 = 0
        ∧ (xGet x c.a + sext16 c.imm16).toNat + 8 * codeBits (modFld c 24 4) ≤ x.foot * 131072
        ∧ (scaled (modFld c 24 4) = true → (xGet x c.b).toNat + 2 ≤ x.foot * 131072))) (coreWord w) x u :=
  ⟨core, pair, word 1 3 2 0 0 0 0x400 0, ten, fetched, issues_core _, by decide +kernel, by decide +kernel⟩

theorem witness_VectorMovesComplete_9 : ∃ (s : State) (t : _) (w : _) (x : _) (u : _), Issues s t (((fun c => [(true, c.d), (false, c.a),
    (false, c.b)])) (coreWord w)) x u ∧ (ldcOk) (coreWord w) = true
    ∧ ((fun c x _ => ldcFmt (modFld c 24 4) = true ∧ (xGet x c.a + sext16 c.imm16).toNat % 4 = 0
        ∧ (xGet x c.a + sext16 c.imm16).toNat + 8 * codeBits (modFld c 24 4) ≤ x.foot * 131072
        ∧ (scaled (modFld c 24 4) = true → (xGet x c.b).toNat + 2 ≤ x.foot * 131072))) (coreWord w) x u :=
  ⟨core, pair, word 1 3 2 0 0 0 0x600 0, ten, fetched, issues_core _, by decide +kernel, by decide +kernel⟩

theorem witness_VectorMovesComplete_10 : ∃ (s : State) (t : _) (w : _) (x : _) (u : _), Issues s t (((fun c => if c.fn = 5 then [(false,
    c.a)] else if c.fn = 6 then [(false, c.d)] else [])) (coreWord w)) x u
        ∧ ((fun c => decide (c.fn ≤ 6) && decide (c.c = 0) && decide (c.pred = 0) && decide (c.mod = 0) && decide (c.imm16 = 0)
        && (if c.fn ≤ 3 then decide (c.b < 8) else decide (c.b = 0))
        && (c.fn == 5 || decide (c.a < 8)) && (c.fn == 6 || decide (c.d < 8)))) (coreWord w) = true
    ∧ ((fun c _ _ => c.fn ≤ 6)) (coreWord w) x u :=
  ⟨core, pair, word 7 1 7 0 0 3 0 0, ten, fetched, issues_core _, by decide +kernel, by decide +kernel⟩

theorem witness_TensorInstructionsComplete_1 : ∃ (s : State) (t : _) (w : _) (x : _) (u : _), Issues s t (((fun c => [(false, c.a),
    (false, c.b), (false, c.c)])) (coreWord w)) x u
        ∧ ((fun c => decide (c.d < 4) && decide (c.pred = 0) && decide (c.fn = 0) && modZero c 16 19 && decide (c.imm16 = 0)))
        (coreWord w) = true
    ∧ ((fun c x _ => ∃ ta tb k m n, tmmaPair (modFld c 24 4) (modFld c 20 4) = true
        ∧ tileAddr (xGet x c.a) = some ta ∧ tileAddr (xGet x c.b) = some tb ∧ tileShape (xGet x c.c) true = some (k, m, n)
        ∧ c.d < x.foot ∧ tileAligned ta (modFld c 24 4) = true ∧ tileAligned tb (modFld c 20 4) = true
        ∧ rowsIn x ta m (ceilDiv k 32 * blockBytes (modFld c 24 4)) = true
        ∧ rowsIn x tb n (ceilDiv k 32 * blockBytes (modFld c 20 4)) = true
        ∧ (scaled (modFld c 24 4) = true → scalesIn x ta (modFld c 24 4) m (ceilDiv k 32) = true)
        ∧ (scaled (modFld c 20 4) = true → scalesIn x tb (modFld c 20 4) n (ceilDiv k 32) = true))) (coreWord w) x u :=
  ⟨core, pair, word 0 8 8 9 0 0 0x090 0, ten, fetched, issues_core _, by decide +kernel, _, _, _, _, _, by decide +kernel, rfl, rfl, rfl,
      by decide +kernel⟩

theorem witness_TensorInstructionsComplete_2 : ∃ (s : State) (t : _) (w : _) (x : _) (u : _), Issues s t (((fun c => [(false,
    c.a)])) (coreWord w)) x u
        ∧ ((fun c => decide (c.d < 4) && decide (c.b = 0) && decide (c.c = 0) && decide (c.pred = 0) && decide (c.fn = 0)
        && modZero c 18 27 && decide (c.imm16 = 0) && (modBit c 17 || decide (c.a = 0)))) (coreWord w) = true
    ∧ ((fun c x _ => c.d < x.foot ∧ (modBit c 17 = true → (xGet x c.a).toNat % 2 ^ 19 + 128 ≤ x.foot * 131072))) (coreWord w) x u :=
  ⟨core, pair, word 0 7 0 0 0 0 3 0, ten, fetched, issues_core _, by decide +kernel, by decide +kernel⟩

theorem witness_TensorInstructionsComplete_3 : ∃ (s : State) (t : _) (w : _) (x : _) (u : _), Issues s t (((fun c => [(false, c.a),
    (false, c.c)])) (coreWord w)) x u
        ∧ ((fun c => decide (c.d < 4) && decide (c.b = 0) && decide (c.pred = 0) && decide (c.fn = 0) && modZero c 18 27
        && decide (c.imm16 = 0))) (coreWord w) = true
    ∧ ((fun c x _ => ∃ ta k m n, tileAddr (xGet x c.a) = some ta ∧ tileShape (xGet x c.c) false = some (k, m, n) ∧ c.d < x.foot
        ∧ ta.base % 8 = 0 ∧ ta.stride % 4 = 0 ∧ rowsIn x ta m (4 * n) = true
        ∧ (modBit c 17 = true → ta.sbase + 128 ≤ x.foot * 131072))) (coreWord w) x u :=
  ⟨core, pair, word 0 10 0 9 0 0 3 0, ten, fetched, issues_core _, by decide +kernel, _, _, _, _, rfl, rfl, by decide +kernel⟩

theorem witness_TensorInstructionsComplete_4 : ∃ (s : State) (t : _) (w : _) (x : _) (u : _), Issues s t (((fun c => [(false, c.a),
    (false, c.c)])) (coreWord w)) x u
        ∧ ((fun c => decide (c.d < 4) && decide (c.b = 0) && decide (c.pred = 0) && decide (c.fn = 0) && modZero c 16 20
        && decide (c.imm16 = 0))) (coreWord w) = true
    ∧ ((fun c x _ => ∃ ta k m n, tileAddr (xGet x c.a) = some ta ∧ tileShape (xGet x c.c) false = some (k, m, n) ∧ c.d < x.foot
        ∧ drainTarget (bankFgx x c.d) (modFld c 24 4) = true ∧ (modBit c 22 = true → modFld c 24 4 = 0xF)
        ∧ (bankFgx x c.d = false → drainBlocks (modFld c 24 4) = true → n = 32 ∨ n = 64)
        ∧ tileAligned ta (modFld c 24 4) = true ∧ rowsIn x ta m ((n * codeBits (modFld c 24 4) + 7) / 8) = true
        ∧ (drainBlocks (modFld c 24 4) = true → scalesIn x ta (modFld c 24 4) m (ceilDiv n 32) = true))) (coreWord w) x u :=
  ⟨core, pair, word 0 10 0 9 0 0 0xC00 0, ten, fetched, issues_core _, by decide +kernel, _, _, _, _, rfl, rfl, by decide +kernel⟩

theorem witness_TransferInstructionsComplete_1 : ∃ (s : State) (t : _) (w : _) (x : _) (u : _), Issues s t (((fun c => [(false,
    c.a)])) (coreWord w)) x u
        ∧ ((fun c => decide (c.d = 0) && decide (c.b = 0) && decide (c.c = 0) && decide (c.pred = 0) && decide (c.fn = 0)
        && decide (c.mod = 0) && decide (c.imm16 = 0))) (coreWord w) = true
    ∧ ((fun c x u =>
        let off := (xGet x c.a).toNat % 2 ^ 19
        off % 32 = 0 ∧ off + 160 ≤ x.foot * 131072 ∧ xferOf x off = none ∧ sideHeld u x (readDesc x off) = false
        ∧ (∃ i, freeXfer x = some i)
        ∧ descCheck u x (readDesc x off) = none)) (coreWord w) x u :=
  ⟨core, pair, word 0 3 0 0 0 0 0 0, ten, fetched, issues_core _, by decide +kernel, (by decide +kernel), by (decide +kernel),
      by decide +kernel, by (decide +kernel), ⟨0, by decide +kernel⟩, by decide +kernel⟩

theorem witness_TransferInstructionsComplete_2 : ∃ (s : State) (t : _) (w : _) (x : _) (u : _), Issues s t (((fun c => [(false, c.a),
    (false, c.b)])) (coreWord w)) x u
        ∧ ((fun c => decide (c.d = 0) && decide (c.c = 0) && decide (c.pred = 0) && decide (c.fn ≤ 1) && decide (c.mod = 0)
        && decide (c.imm16 = 0) && (c.fn == 0 || decide (c.b = 0)))) (coreWord w) = true
    ∧ ((fun c x u => findTen u (refOf x) = some x ∧ halfPwr u (halfOfCore x.core) ≠ 1
        ∧ (match xferOf x ((xGet x c.a).toNat % 2 ^ 19) with
           | none => True
           | some g => (if c.fn = 1 then g.total % 2 ^ 64 else (xGet x c.b).toNat) ≤ g.doneEl))) (coreWord w) x u :=
  ⟨core, pair, word 0 3 0 0 0 1 0 0, ten, fetched, issues_core _, by decide +kernel, (by decide +kernel), by (decide +kernel), trivial⟩

theorem witness_TransferInstructionsComplete_3 : ∃ (s : State) (t : _) (w : _) (x : _) (u : _), Issues s t [(false, (coreWord w).d),
    (false, (coreWord w).a)] x u ∧
      (let c := coreWord w
       c.b = 0 ∧ c.c = 0 ∧ c.pred = 0 ∧ c.fn = 0 ∧ c.mod = 0 ∧ c.imm16 = 0) ∧
      findTen u t = some x ∧ (getCtx u x.ctx).st = 1 :=
  ⟨core, pair, word 1 3 0 0 0 0 0 0, ten, fetched, issues_core _, by decide +kernel⟩

theorem witness_TransferInstructionsComplete_4 : ∃ (s : State) (t : _) (x : _) (f : _) (off : _) (g : _) (s0 : _) (a : _) (ao : _)
    (s1 : _) (y : _), findTen s t = some x ∧ xferOf x off = some f ∧ xferRuns s x f = true ∧
      f.doneEl + 1 = f.total ∧ enterGather s x f = (g, s0) ∧
      sideOf s0 x g true f.doneEl = (.win a ao, s1) ∧ findTen s1 a = some y :=
  let x : Ten := { ten with xf := [xf0] }
  ⟨withTen x, pair, x, xf0, 0x40, xf0, withTen x, pair, 0x800, _, x, by decide +kernel, (by decide +kernel), by (decide +kernel),
      by decide +kernel, Prod.ext (by decide +kernel) rfl, Prod.ext (by decide +kernel) rfl, by decide +kernel⟩

theorem witness_TransferInstructionsComplete_5 : ∃ (s : State) (t : _) (x : _) (f : _) (off : _) (g : _) (s0 : _) (cause : _) (va : _)
    (detail : _) (s1 : _), findTen s t = some x ∧ xferOf x off = some f ∧ xferRuns s x f = true ∧
      f.doneEl < f.total ∧ enterGather s x f = (g, s0) ∧ sideOf s0 x g true f.doneEl = (.fault cause va detail, s1) :=
  let x : Ten := { ten with xf := [xf1] }
  ⟨withTen x, pair, x, xf1, 0x40, xf1, withTen x, 1, 0, none, _, by decide +kernel, (by decide +kernel), by (decide +kernel),
      by decide +kernel, Prod.ext (by decide +kernel) rfl, Prod.ext (by decide +kernel) rfl⟩

theorem witness_TransferInstructionsComplete_6 : ∃ (s : State) (t : _) (off : _) (y : _),
    s.xlt.stalled.find? (fun z => z.f == .xfer t off) = some y :=
  ⟨{ bound with xlt := { bound.xlt with stalled := [⟨.xfer pair 0x40, frec⟩] } }, pair, 0x40, _, rfl⟩

theorem witness_TransferInstructionsComplete_7 : ∃ (s : State) (id : _) (y : _) (b : _),
    s.xlt.stalled.find? (fun z => z.f == .cmd id) = some y ∧ findBegun s id = some b :=
  ⟨{ bound with xlt := { bound.xlt with stalled := [⟨.cmd 5, frec⟩] }, fe := { bound.fe with begun := [begun0] } }, 5, _, _, rfl, rfl⟩

theorem witness_TransferInstructionsComplete_8 : ∃ (s : State) (n : _) (y : _), s.xlt.stalled.find? (fun z => z.f == .run n) = some y :=
  ⟨{ bound with xlt := { bound.xlt with stalled := [⟨.run 5, frec⟩] } }, 5, _, rfl⟩

theorem witness_RemoteInstructionsComplete_1 : ∃ (s : State) (t : _) (w : _) (x : _) (u : _), Issues s t (((fun c => [(false, c.a),
    (false, c.c), (c.fn == 2, c.b)])) (coreWord w)) x u
        ∧ ((fun c => decide (c.fn ≤ 2) && decide (c.pred = 0) && decide (c.mod = 0) && decide (c.d = 0))) (coreWord w) = true
    ∧ ((fun c x u =>
        let lcid := (xGet x c.a).toNat % 2 ^ 24
        let off := (xGet x c.c + sext16 c.imm16).toNat
        off % (if c.fn = 1 then 8 else 4) = 0 ∧ flushHeld u x.slot lcid = false ∧ remHolds u x.slot ⟨lcid, x.ctx⟩ = false
        ∧ ∃ z y, winPlace u x lcid = .here z ∧ findTen u ⟨lcid, x.ctx⟩ = some y ∧ winIn y off (remSize c.fn) = true)) (coreWord w) x u :=
  ⟨core, pair, word 0 0 2 3 0 0 0 0, ten, fetched, issues_core _, by decide +kernel, (by decide +kernel), by (decide +kernel),
      by decide +kernel, ten, ten, by decide +kernel⟩

theorem witness_RemoteInstructionsComplete_2 : ∃ (s : State) (t : _) (w : _) (x : _) (u : _), Issues s t (((fun c => [(false, c.a),
    (false, c.c), (c.fn == 2, c.d)])) (coreWord w)) x u
        ∧ ((fun c => decide (c.fn ≤ 2) && decide (c.pred = 0) && decide (c.mod = 0) && decide (c.b = 0))) (coreWord w) = true
    ∧ ((fun c x u =>
        let lcid := (xGet x c.a).toNat % 2 ^ 24
        let off := (xGet x c.c + sext16 c.imm16).toNat
        off % (if c.fn = 1 then 8 else 4) = 0 ∧ flushHeld u x.slot lcid = false ∧ remHolds u x.slot ⟨lcid, x.ctx⟩ = false
        ∧ ∃ z y, winPlace u x lcid = .here z ∧ findTen u ⟨lcid, x.ctx⟩ = some y ∧ winIn y off (remSize c.fn) = true)) (coreWord w) x u :=
  ⟨core, pair, word 2 0 0 3 0 1 0 0, ten, fetched, issues_core _, by decide +kernel, (by decide +kernel), by (decide +kernel),
      by decide +kernel, ten, ten, by decide +kernel⟩

theorem witness_RemoteInstructionsComplete_3 : ∃ (s : State) (lcid : _) (ctx : _) (a : _),
    remHolds { s with rem := [] } (getCtx s ctx).slot ⟨lcid, ctx⟩ = false ∧
      s.rem.find? (fun a => a.target == ⟨lcid, ctx⟩) = some a :=
  ⟨{ core with rem := [acc0] }, 0, 3, acc0, by decide +kernel⟩

theorem witness_RemoteInstructionsComplete_4 : ∃ (s : State) (lcid : _) (ctx : _) (f : _),
    remHolds { s with rem := [] } (getCtx s ctx).slot ⟨lcid, ctx⟩ = false ∧
      s.rem.find? (fun a => a.target == ⟨lcid, ctx⟩) = none ∧ s.part.heldFab.find? (fun f => winRef f == ⟨lcid, ctx⟩) = some f :=
  ⟨{ core with part := { core.part with heldFab := [fab0] } }, 0, 3, fab0, by decide +kernel⟩

theorem witness_RemoteInstructionsComplete_5 : ∃ (s : State) (r : NearReq) (old : _) (new : _) (u : _) (v : _),
    r.fpa / 2 ^ 42 = ownModule s ∧ inHbm (r.fpa % 2 ^ 42) = true ∧
      r.fpa % 2 ^ 42 % nearLen r.op r.width = 0 ∧
      memRead s (nearKind r.op) r.ctx r.pid r.edom (r.fpa % 2 ^ 42) (nearLen r.op r.width) = .ok old u ∧
      new = (if r.op = 14 then nearLine old r.lanes r.compare.toNat
             else leBytes (nearLen r.op r.width) (nearNew r.op r.width (ofLE old) r.operand.toNat r.compare.toNat)) ∧
      memWrite u (nearKind r.op) r.ctx r.pid r.edom (r.fpa % 2 ^ 42) new = .ok [] v :=
  ⟨bound, near0, List.replicate 4 0, [5, 0, 0, 0], _, _, by decide +kernel, (by decide +kernel), by (decide +kernel),
      res_ok (by decide +kernel), by decide +kernel, res_ok (by decide +kernel)⟩

theorem witness_RemoteInstructionsComplete_6 : ∃ (s : State) (t : _) (w : _) (x : _) (u : _), Issues s t (((fun c => [(false, c.d),
    (false, c.a), (false, c.b), (false, c.c)])) (coreWord w)) x u
        ∧ ((fun c => decide (c.fn ≤ 12) && decide (modFld c 16 2 ≠ 3) && modZero c 18 27 && decide (c.pred = 0))) (coreWord w) = true
    ∧ ((fun c x' u' =>
        let u := abandonSample x' u'
        let x := { x' with sample := none }
        let va := (xGet x c.a + sext16 c.imm16).toNat
        (10 ≤ c.fn → modFld c 16 2 ≠ 1) ∧ (c.fn < 10 → modFld c 16 2 ≠ 2) ∧ va % nearLen c.fn (modFld c 16 2) = 0
        ∧ ∃ e fpa v, coreXlate u x .atomic 0x2B va = (some (e, fpa), v) ∧ inHbm (fpa % 2 ^ 42) = true)) (coreWord w) x u :=
  ⟨core, pair, word 1 11 2 0 0 0 0 0, ten, fetched, issues_core _, by decide +kernel, (by decide +kernel), by (decide +kernel),
      by decide +kernel, rng, 5 * 2 ^ 42 + 0x400FF8, _, Prod.ext (by decide +kernel) rfl, by decide +kernel⟩

theorem witness_RemoteInstructionsComplete_7 : ∃ (s : State) (t : _) (w : _) (x : _) (u : _), Issues s t (((fun c => [(false, c.a),
    (false, c.b)])) (coreWord w)) x u
        ∧ ((fun c => decide (c.d = 0) && decide (c.c = 0) && decide (c.pred = 0) && decide (c.fn = 0) && decide (c.mod = 0)))
        (coreWord w) = true
    ∧ ((fun c x' u' =>
        let u := abandonSample x' u'
        let x := { x' with sample := none }
        let va := (xGet x c.a + sext16 c.imm16).toNat
        va % 4 = 0
        ∧ ∃ e fpa v, coreXlate u x .reduce 0x2B va = (some (e, fpa), v) ∧ inHbm (fpa % 2 ^ 42) = true)) (coreWord w) x u :=
  ⟨core, pair, word 0 11 2 0 0 0 0 0, ten, fetched, issues_core _, by decide +kernel, by decide +kernel, rng, 5 * 2 ^ 42 + 0x400FF8, _,
      Prod.ext (by decide +kernel) rfl, by decide +kernel⟩

theorem witness_RemoteInstructionsComplete_8 : ∃ (s : State) (t : _) (w : _) (x : _) (u : _), Issues s t (((fun c => [(false, c.a),
    (true, c.b)])) (coreWord w)) x u
        ∧ ((fun c => decide (c.d = 0) && decide (c.c = 0) && decide (c.fn = 0) && decide (c.mod = 0))) (coreWord w) = true
    ∧ ((fun c x' u' =>
        let u := abandonSample x' u'
        let x := { x' with sample := none }
        let va := (xGet x c.a + sext16 c.imm16).toNat
        let ls := activeLanes x c.pred
        va % 4 = 0 ∧ ∃ l v, vredwReqs u x c.b ls va ((ls.map (fun l => (va + 4 * l) / 64)).eraseDups) = (some l, v))) (coreWord w) x u :=
  ⟨core, pair, word 0 11 2 0 0 0 0 0, ten, fetched, issues_core _, by decide +kernel, by decide +kernel, _, _,
      some_ok (by decide +kernel)⟩

theorem witness_SyncInstructionsComplete_1 : ∃ (s : State) (t : _) (w : _) (x : _) (u : _), Issues s t (((fun c => [(false, c.a), (false,
    c.b)])) (coreWord w)) x u ∧ (eventOk) (coreWord w) = true
    ∧ ((fun c x u => postedPending u (refOf x) = false ∧ recordFree u x.core = true ∧ evMod ((xGet x c.a).setWidth 32) = ownModule u
        ∧ evServes (abandonSample x u) x.ctx (evNum ((xGet x c.a).setWidth 32)) = true
        ∧ ownModule (abandonSample x u) = ownModule u)) (coreWord w) x u :=
  ⟨core, pair, word 0 12 0 0 0 0 0 0, ten, fetched, issues_core _, by decide +kernel⟩

theorem witness_SyncInstructionsComplete_2 : ∃ (s : State) (t : _) (w : _) (x : _) (u : _), Issues s t (((fun c => [(false, c.a), (false,
    c.b)])) (coreWord w)) x u ∧ (eventOk) (coreWord w) = true
    ∧ ((fun c x u => postedPending u (refOf x) = false ∧ recordFree u x.core = true
        ∧ evMod ((xGet x c.a).setWidth 32) ≠ ownModule (abandonSample x u))) (coreWord w) x u :=
  ⟨core, pair, word 0 0 0 0 0 0 0 0, ten, fetched, issues_core _, by decide +kernel⟩

theorem witness_SyncInstructionsComplete_3 : ∃ (s : State) (t : _) (w : _) (x : _) (u : _), Issues s t (((fun c => [(false, c.a), (false,
    c.b)])) (coreWord w)) x u ∧ (eventOk) (coreWord w) = true
    ∧ ((fun c x u => evMod ((xGet x c.a).setWidth 32) = ownModule u ∧ evServes u x.ctx (evNum ((xGet x c.a).setWidth 32)) = true
        ∧ waitMet (getEv u (evNum ((xGet x c.a).setWidth 32))).val (xGet x c.b) = true ∧ findTen u (refOf x) = some x
        ∧ halfPwr u (halfOfCore x.core) ≠ 1)) (coreWord w) x u :=
  ⟨core, pair, word 0 12 0 0 0 0 0 0, ten, fetched, issues_core _, by decide +kernel⟩

theorem witness_SyncInstructionsComplete_4 : ∃ (s : State) (t : _) (w : _) (x : _) (u : _), Issues s t (((fun c => [(false, c.a), (false,
    c.b)])) (coreWord w)) x u ∧ (eventOk) (coreWord w) = true
    ∧ ((fun c x u => evMod ((xGet x c.a).setWidth 32) = ownModule u ∧ evServes u x.ctx (evNum ((xGet x c.a).setWidth 32)) = true
        ∧ waitMet (getEv u (evNum ((xGet x c.a).setWidth 32))).val (xGet x c.b) = false
        ∧ waitsOfHalf u (halfOfEvent (evNum ((xGet x c.a).setWidth 32))) < 32768)) (coreWord w) x u :=
  ⟨core, pair, word 0 12 3 0 0 0 0 0, ten, fetched, issues_core _, by decide +kernel⟩

theorem witness_SyncInstructionsComplete_5 : ∃ (s : State) (t : _) (w : _) (x : _) (u : _), Issues s t (((fun c => [(false,
    c.a)])) (coreWord w)) x u
        ∧ ((fun c => decide (c.d = 0) && decide (c.b = 0) && decide (c.c = 0) && decide (c.pred = 0) && decide (c.fn = 0)
        && decide (c.mod = 0) && decide (c.imm16 ≤ 255))) (coreWord w) = true
    ∧ ((fun c x u => grpCount (xGet x c.a) ≠ 0 ∧ grpStride (xGet x c.a) ≠ 0 ∧ (getSlot u x.slot).bound = true
        ∧ grpFirst (xGet x c.a) + (grpCount (xGet x c.a) - 1) * grpStride (xGet x c.a) < (getSlot u x.slot).brec.lcount
        ∧ postedPending u (refOf x) = false
        ∧ hostOf (getSlot u x.slot) (grpFirst (xGet x c.a)) = some (ownModule (abandonSample x u)))) (coreWord w) x u :=
  ⟨core, pair, word 0 13 0 0 0 0 0 4, ten, fetched, issues_core _, by decide +kernel⟩

theorem witness_SyncInstructionsComplete_6 : ∃ (s : State) (ctx : _) (bid : _) (lcid : _) (g : _) (x : _),
      let v : State := { s with part := { s.part with barMsgs := s.part.barMsgs.erase (.arrive ctx bid lcid g) } }
      let b := getBar v (barKey ctx bid)
      let w := setTen v { x with wait := .barrier bid b.ph }
      (getCtx s ctx).st = 1 ∧ s.part.barMsgs.contains (.arrive ctx bid lcid g) = true ∧
      findTen s ⟨lcid, ctx⟩ = some x ∧ x.wait = .barrier bid phaseUnknown ∧
      (b.count ≠ 0 → b.group = g) ∧ grpHas g lcid = true :=
  let x : Ten := { ten with wait := .barrier 0 phaseUnknown }
  ⟨{ withTen x with part := { bound.part with barMsgs := [.arrive 3 0 0 (xGet ten 13)] } }, 3, 0, 0, xGet ten 13, x, by decide +kernel⟩

theorem witness_SyncInstructionsComplete_7 : ∃ (s : State) (ctx : _) (bid : _) (lcid : _) (g : _) (x : _),
      let v : State := { s with part := { s.part with barMsgs := s.part.barMsgs.erase (.arrive ctx bid lcid g) } }
      (getCtx s ctx).st = 1 ∧ s.part.barMsgs.contains (.arrive ctx bid lcid g) = true ∧ findTen s ⟨lcid, ctx⟩ = some x ∧
      (((getBar s (barKey ctx bid)).count ≠ 0 ∧ (getBar s (barKey ctx bid)).group ≠ g) ∨ grpHas g lcid = false) :=
  ⟨{ core with part := { core.part with barMsgs := [.arrive 3 0 0 0] } }, 3, 0, 0, 0, ten, by decide +kernel⟩

theorem witness_SyncInstructionsComplete_8 : ∃ (s : State) (t : _) (bid : _) (ph : _) (x : _), findTen s t = some x
    ∧ x.wait = .barrier bid ph ∧ s.part.barMsgs.contains (.release t bid ph) = true :=
  let x : Ten := { ten with wait := .barrier 0 5 }
  ⟨{ withTen x with part := { bound.part with barMsgs := [.release pair 0 5] } }, pair, 0, 5, x, by decide +kernel⟩

theorem witness_SyncInstructionsComplete_9 : ∃ (s : State) (t : _) (x : _) (u : _), Issues s t [] x u ∧ postedPending u t = false :=
  ⟨core, pair, ten, fetched, issues_core _, by decide +kernel⟩

theorem witness_SyncInstructionsComplete_10 : ∃ (s : State) (t : _) (w : _) (x : _) (u : _),
    Issues s t (((fun _ => [])) (coreWord w)) x u
        ∧ ((fun c => decide (c.d = 0) && decide (c.a = 0) && decide (c.b = 0) && decide (c.c = 0) && decide (c.pred = 0)
        && decide (c.fn = 0) && modZero c 17 27 && decide (c.imm16 = 0))) (coreWord w) = true
    ∧ ((fun _ x u => findTen u (refOf x) = some x ∧ x.xf.any (fun f => f.valid) = false ∧ postedPending u (refOf x) = false
        ∧ loadPending u (refOf x) = false ∧ x.sample = none ∧ x.remote = none)) (coreWord w) x u :=
  ⟨core, pair, word 0 0 0 0 0 0 0 0, ten, fetched, issues_core _, by decide +kernel, by decide +kernel⟩

theorem witness_CoreSchedulingCompletes_1 : ∃ (s : State) (core : _) (e : _) (rest : _) (g : _) (v : _), coreServes s core = true ∧
      let u := dropStale s core
      entriesWhere (fun b e => entryReady u core b e && entryFits u core e) [] (getCore u core).queue = e :: rest ∧
      findTen u ⟨e.lcid, e.ctx⟩ = none ∧ pickOne (groupsFor u core e.foot ⟨e.lcid, e.ctx⟩) u = (some g, v) :=
  ⟨queued [ent] core, 1, ent, [], _, _, by decide +kernel, (by decide +kernel), by (decide +kernel),
      some_ok (pick_ok (by decide +kernel))⟩

theorem witness_CoreSchedulingCompletes_2 : ∃ (s : State) (core : _) (e : _) (rest : _) (x : _), coreServes s core = true ∧
      let u := dropStale s core
      entriesWhere (fun b e => entryReady u core b e && entryFits u core e) [] (getCore u core).queue = e :: rest ∧
      findTen u ⟨e.lcid, e.ctx⟩ = some x ∧ x.foot = e.foot ∧ isResident x = true :=
  ⟨queued [ent] (withTen ten2), 1, ent, [], ten2, by decide +kernel⟩

theorem witness_CoreSchedulingCompletes_3 : ∃ (s : State) (core : _) (e : _) (rest : _) (x : _) (g : _) (v : _),
    coreServes s core = true ∧
      let u := dropStale s core
      entriesWhere (fun b e => entryReady u core b e && entryFits u core e) [] (getCore u core).queue = e :: rest ∧
      findTen u ⟨e.lcid, e.ctx⟩ = some x ∧ x.foot = e.foot ∧ isResident x = false
          ∧ pickOne (groupsFor u core x.foot (refOf x)) u = (some g, v) :=
  let x : Ten := { ten2 with loc := .swapped }
  ⟨queued [ent] (withTen x), 1, ent, [], x, _, _, by decide +kernel, (by decide +kernel), by (decide +kernel), by decide +kernel,
      by (decide +kernel), some_ok (pick_ok (by decide +kernel))⟩

theorem witness_CoreSchedulingCompletes_4 : ∃ (s : State) (core : _) (e : _) (rest : _),
    entriesWhere (fun b e => !b.any (fun d => d.lcid == e.lcid && d.ctx == e.ctx) && !entryStale s e
        && (findTen s ⟨e.lcid, e.ctx⟩).isNone && decide (16 < unitsUsed s core + e.foot)) [] (getCore s core).queue = e :: rest :=
  ⟨queued [ent] { bound with tens := [swp 4, swp 5, swp 6, swp 7] }, 1, ent, [], by decide +kernel⟩

theorem witness_CoreSchedulingCompletes_5 : ∃ (s : State) (core : _), (onCore s core).isEmpty = true
    ∧ (getCore s core).confCtx.isSome = true ∧ replicaOn s core = false :=
  ⟨setCore core 1 { confCtx := some 3 }, 1, by decide +kernel⟩

theorem witness_CoreSchedulingCompletes_6 : ∃ (s : State) (t : _) (x : _) (b : _), findTen s t = some x ∧ x.loc = .resident b
    ∧ starved s x.core (fun _ => true) = none :=
  ⟨core, pair, ten, 0, by decide +kernel⟩

theorem witness_CoreSchedulingCompletes_7 : ∃ (s : State) (t : _) (x : _) (b : _) (k : _), findTen s t = some x ∧ x.loc = .resident b
    ∧ starved s x.core (fun _ => true) = some k :=
  ⟨crowded, pair3, _, 0, _, opt_ok (by decide +kernel), by decide +kernel, opt_ok (by decide +kernel)⟩

theorem witness_CoreSchedulingCompletes_8 : ∃ (s : State) (core : _) (k : _) (g : _), coreServes s core = true
    ∧ starved s core (fun k => k.cls == 7 && sameCtx s core k) = some k ∧
      preemptGroup s core k = some g :=
  ⟨crowded, 1, _, _, by decide +kernel, opt_ok (by decide +kernel), opt_ok (by decide +kernel)⟩

theorem witness_CoreSchedulingCompletes_9 : ∃ (s : State) (core : _) (blocked : _) (k : _) (g : _), coreServes s core = true
    ∧ starved s core (sameCtx s core) = some k ∧
      evictGroup s core blocked k = some g :=
  ⟨crowded, 1, [pair3], _, _, by decide +kernel, opt_ok (by decide +kernel), opt_ok (by decide +kernel)⟩

theorem witness_CoreSchedulingCompletes_10 : ∃ (s : State) (t : _) (x : _) (b : _), findTen s t = some x ∧ x.loc = .saving b ∧
      requestPending s t = false :=
  let x : Ten := { ten with loc := .saving 0 }
  ⟨withTen x, pair, x, 0, by decide +kernel⟩

theorem witness_CoreSchedulingCompletes_11 : ∃ (s : State) (t : _) (x : _) (g : _), findTen s t = some x ∧ x.loc = .restoring g :=
  let x : Ten := { ten with loc := .restoring 0 }
  ⟨withTen x, pair, x, 0, by decide +kernel⟩

theorem witness_CoreSchedulingCompletes_12 : ∃ (s : State) (t : _) (x : _) (g : _) (v : _), findTen s t = some x ∧ x.loc = .swapped
    ∧ isRunnable x = true ∧ coreServes s x.core = true ∧
      movingOf s x.slot x.lcid = none ∧ restoresNext s x = true ∧ pickOne (groupsFor s x.core x.foot t) s = (some g, v) :=
  let x : Ten := { ten with loc := .swapped }
  ⟨withTen x, pair, x, _, _, by decide +kernel, (by decide +kernel), by (decide +kernel), by decide +kernel, by (decide +kernel),
      (by decide +kernel), some_ok (pick_ok (by decide +kernel))⟩

theorem witness_CoreFaultsComplete_1 : ∃ (s : State) (core : _), unitSt s ⟨0, core⟩ = .ready :=
  ⟨core, 0, by decide +kernel⟩

theorem witness_CoreFaultsComplete_2 : ∃ (s : State) (core : _), unitSt s ⟨0, core⟩ = .ready ∧
      let u : State := { s with units := { s.units with
        subst := s.units.subst.map (fun r => if r.sub = some core then { r with sub := none } else r) } }
      let v := failMoves (setUnit u ⟨0, core⟩ .quarantine) core
      holderOfCore v core = none :=
  ⟨core, 5, by decide +kernel⟩

theorem witness_CoreFaultsComplete_3 : ∃ (s : State) (t : _) (x : _) (k : _) (r : _), findTen s t = some x ∧ x.sample = some k
    ∧ x.wait = .held r ∧ k.mismatched = false :=
  let x : Ten := { ten with sample := some { replica := 5, image := [] }, wait := .held false }
  ⟨withTen x, pair, x, { replica := 5, image := [] }, false, by decide +kernel⟩

theorem witness_CoreFaultsComplete_4 : ∃ (s : State) (t : _) (x' : _) (k : _) (d : _) (u' : _), findTen s t = some x'
    ∧ x'.sample = some k ∧ k.mismatched = true ∧
      pickOne ((idleSpares s (halfOfCore x'.core)).filter (fun c => scrubbedFor s c x'.ctx)) s = (some d, u') :=
  let x : Ten := { ten with sample := some { replica := 5, image := [], mismatched := true } }
  ⟨withTen x, pair, x, { replica := 5, image := [], mismatched := true }, _, _, by decide +kernel, (by decide +kernel),
      by (decide +kernel), some_ok (pick_ok (by decide +kernel))⟩

theorem witness_CoreFaultsComplete_5 : ∃ (s : State) (t : _) (x' : _) (k : _) (u : _), findTen s t = some x' ∧ x'.sample = some k
    ∧ k.mismatched = true ∧
      pickOne ((idleSpares s (halfOfCore x'.core)).filter (fun c => scrubbedFor s c x'.ctx)) s = (none, u) :=
  let x : Ten := { ten with sample := some { replica := 5, image := [], mismatched := true } }
  ⟨{ withTen x with units := { bound.units with base := .quarantine } }, pair, x, { replica := 5, image := [], mismatched := true }, _,
      by decide +kernel, (by decide +kernel), by (decide +kernel), pick_none (by decide +kernel)⟩

theorem witness_CoreFaultsComplete_6 : ∃ (t : _) (w : _) (i : _), decodeCore t w = some i ∧ coreOpcode w ≠ 0 :=
  ⟨pair, 0x0100000000000000, .add pair 0, by decide +kernel⟩

theorem witness_SequencerInstructionsComplete_1 : ∃ (s : State) (r : _) (x : _) (w : _), RunAt s r x w ∧ w.op = 0x00
    ∧ ((fun _ _ _ _ => True)) r { x with wait := .none, ahead := false } w (takeTurn s r x) :=
  ⟨ran (sword 0 0 0 0 0 0 0), 2, run0, seqW (sword 0 0 0 0 0 0 0), by unfold RunAt; decide +kernel, by decide +kernel, trivial⟩

theorem witness_SequencerInstructionsComplete_2 : ∃ (s : State) (r : _) (x : _) (w : _), RunAt s r x w ∧ w.op = 0x01
    ∧ ((fun _ _ _ _ => True)) r { x with wait := .none, ahead := false } w (takeTurn s r x) :=
  ⟨ran (sword 1 1 0 0 0 0 5), 2, run0, seqW (sword 1 1 0 0 0 0 5), by unfold RunAt; decide +kernel, by decide +kernel, trivial⟩

theorem witness_SequencerInstructionsComplete_3 : ∃ (s : State) (r : _) (x : _) (w : _), RunAt s r x w ∧ w.op = 0x02
    ∧ ((fun _ _ _ _ => True)) r { x with wait := .none, ahead := false } w (takeTurn s r x) :=
  ⟨ran (sword 2 1 0 0 0 0 5), 2, run0, seqW (sword 2 1 0 0 0 0 5), by unfold RunAt; decide +kernel, by decide +kernel, trivial⟩

theorem witness_SequencerInstructionsComplete_4 : ∃ (s : State) (r : _) (x : _) (w : _), RunAt s r x w ∧ w.op = 0x03
    ∧ ((fun _ _ w _ => w.md % 16 ≤ 9)) r { x with wait := .none, ahead := false } w (takeTurn s r x) :=
  ⟨ran (sword 3 1 1 2 0 0 0), 2, run0, seqW (sword 3 1 1 2 0 0 0), by unfold RunAt; decide +kernel, by decide +kernel, by decide +kernel⟩

theorem witness_SequencerInstructionsComplete_5 : ∃ (s : State) (r : _) (x : _) (w : _), RunAt s r x w ∧ w.op = 0x04
    ∧ ((fun r x w s => (sGet x w.a + simm w).toNat % (if bitAt w.md 0 then 8 else 4) = 0
        ∧ ∃ d u, runLoad s r x (sGet x w.a + simm w).toNat (if bitAt w.md 0 then 8 else 4) = .ok d u)) r { x with wait := .none, ahead := false } w (takeTurn s r x) :=
  ⟨ran (sword 4 2 1 0 0 1 0), 2, run0, seqW (sword 4 2 1 0 0 1 0), by unfold RunAt; decide +kernel, by decide +kernel, by decide +kernel,
      _, _, read_ok (by decide +kernel)⟩

theorem witness_SequencerInstructionsComplete_6 : ∃ (s : State) (r : _) (x : _) (w : _), RunAt s r x w ∧ w.op = 0x05
    ∧ ((fun r x w s => (sGet x w.a + simm w).toNat % (if bitAt w.md 0 then 8 else 4) = 0
        ∧ ∃ e v m u, runSeg s r x .write (sGet x w.a + simm w).toNat (if bitAt w.md 0 then 8 else 4) = .seg e v m u
          ∧ (entLocal u e v = true → ∃ d t, runRes r x u (entWrite u x.ctx e v
              (leBytes (if bitAt w.md 0 then 8 else 4)
                  (sGet x w.b).toNat)) = .ok d t))) r { x with wait := .none, ahead := false } w (takeTurn s r x) :=
  ⟨ran (sword 5 0 1 2 0 1 0), 2, run0, seqW (sword 5 0 1 2 0 1 0), by unfold RunAt; decide +kernel, by decide +kernel, by decide +kernel,
      _, _, _, _, seg_ok (by decide +kernel), fun _ => ⟨_, _, read_ok (by decide +kernel)⟩⟩

theorem witness_SequencerInstructionsComplete_7 : ∃ (s : State) (r : _) (x : _) (w : _), RunAt s r x w ∧ w.op = 0x06
    ∧ ((fun _ x w s => evMod ((sGet x w.a).setWidth 32) = ownModule s
        ∧ evServes s x.ctx (evNum ((sGet x w.a).setWidth 32)) = true)) r { x with wait := .none, ahead := false } w (takeTurn s r x) :=
  ⟨ran (sword 6 0 2 0 0 0 0), 2, run0, seqW (sword 6 0 2 0 0 0 0), by unfold RunAt; decide +kernel, by decide +kernel⟩

theorem witness_SequencerInstructionsComplete_8 : ∃ (s : State) (r : _) (x : _) (w : _), RunAt s r x w ∧ w.op = 0x06
    ∧ ((fun _ x w s => evMod ((sGet x w.a).setWidth 32) ≠ ownModule s)) r { x with wait := .none, ahead := false } w (takeTurn s r x) :=
  ⟨ran (sword 6 0 1 0 0 0 0), 2, run0, seqW (sword 6 0 1 0 0 0 0), by unfold RunAt; decide +kernel, by decide +kernel, by decide +kernel⟩

theorem witness_SequencerInstructionsComplete_9 : ∃ (s : State) (r : _) (x : _) (w : _), RunAt s r x w ∧ w.op = 0x10
    ∧ ((fun _ _ w _ => w.md % 8 ≤ 5)) r { x with wait := .none, ahead := false } w (takeTurn s r x) :=
  ⟨ran (sword 0x10 0 1 2 0 0 0), 2, run0, seqW (sword 0x10 0 1 2 0 0 0), by unfold RunAt; decide +kernel, by decide +kernel,
      by decide +kernel⟩

theorem witness_SequencerInstructionsComplete_10 : ∃ (s : State) (r : _) (x : _) (w : _), RunAt s r x w ∧ w.op = 0x11
    ∧ ((fun _ x w s => evMod ((sGet x w.a).setWidth 32) = ownModule s
        ∧ evServes s x.ctx (evNum ((sGet x w.a).setWidth 32)) = true)) r { x with wait := .none, ahead := false } w (takeTurn s r x) :=
  ⟨ran (sword 0x11 0 2 3 0 0 0), 2, run0, seqW (sword 0x11 0 2 3 0 0 0), by unfold RunAt; decide +kernel, by decide +kernel⟩

theorem witness_SequencerInstructionsComplete_11 : ∃ (s : State) (r : _) (x : _) (w : _), RunAt s r x w ∧ w.op = 0x11
    ∧ ((fun _ x w s => evMod ((sGet x w.a).setWidth 32) ≠ ownModule s)) r { x with wait := .none, ahead := false } w (takeTurn s r x) :=
  ⟨ran (sword 0x11 0 1 3 0 0 0), 2, run0, seqW (sword 0x11 0 1 3 0 0 0), by unfold RunAt; decide +kernel, by decide +kernel,
      by decide +kernel⟩

theorem witness_SequencerInstructionsComplete_12 : ∃ (s : State) (r : _) (x : _) (w : _), RunAt s r x w ∧ w.op = 0x12
    ∧ ((fun r x w s => (sGet x w.a).toNat % 8 = 0 ∧ ∃ d u,
        runLoad s r x (sGet x w.a).toNat 8 = .ok d u)) r { x with wait := .none, ahead := false } w (takeTurn s r x) :=
  ⟨ran (sword 0x12 0 1 3 0 0 0), 2, run0, seqW (sword 0x12 0 1 3 0 0 0), by unfold RunAt; decide +kernel, by decide +kernel,
      by decide +kernel, _, _, read_ok (by decide +kernel)⟩

theorem witness_SequencerInstructionsComplete_13 : ∃ (s : State) (r : _) (x : _) (w : _), RunAt s r x w ∧ w.op = 0x13
    ∧ ((fun _ _ _ _ => True)) r { x with wait := .none, ahead := false } w (takeTurn s r x) :=
  ⟨ran (sword 19 0 0 0 0 0 0), 2, run0, seqW (sword 19 0 0 0 0 0 0), by unfold RunAt; decide +kernel, by decide +kernel, trivial⟩

theorem witness_SequencerInstructionsComplete_14 : ∃ (s : State) (r : _) (x : _) (w : _), RunAt s r x w ∧ w.op = 0x14
    ∧ ((fun _ _ _ _ => True)) r { x with wait := .none, ahead := false } w (takeTurn s r x) :=
  ⟨ran (sword 20 0 0 0 0 0 0), 2, run0, seqW (sword 20 0 0 0 0 0 0), by unfold RunAt; decide +kernel, by decide +kernel, trivial⟩

theorem witness_SequencerInstructionsComplete_15 : ∃ (s : State) (r : _) (x : _) (w : _), RunAt s r x w ∧ w.op = 0x15
    ∧ ((fun _ _ _ _ => True)) r { x with wait := .none, ahead := false } w (takeTurn s r x) :=
  ⟨ran (sword 21 0 0 0 0 0 0), 2, run0, seqW (sword 21 0 0 0 0 0 0), by unfold RunAt; decide +kernel, by decide +kernel, trivial⟩

theorem witness_SequencerInstructionsComplete_16 : ∃ (s : State) (r : _) (x : _) (w : _), RunAt s r x w ∧ w.op = 0x16
    ∧ ((fun _ _ _ _ => True)) r { x with wait := .none, ahead := false } w (takeTurn s r x) :=
  ⟨ran (sword 22 0 0 0 0 0 0), 2, run0, seqW (sword 22 0 0 0 0 0 0), by unfold RunAt; decide +kernel, by decide +kernel, trivial⟩

theorem witness_SequencerInstructionsComplete_17 : ∃ (s : State) (r : _) (x : _) (w : _), RunAt s r x w ∧ w.op = 0x20
    ∧ ((fun _ x w s => evMod ((sGet x w.a).setWidth 32) = ownModule s
        ∧ evServes s x.ctx (evNum ((sGet x w.a).setWidth 32)) = true)) r { x with wait := .none, ahead := false } w (takeTurn s r x) :=
  ⟨ran (sword 0x20 0 2 3 0 0 0), 2, run0, seqW (sword 0x20 0 2 3 0 0 0), by unfold RunAt; decide +kernel, by decide +kernel⟩

theorem witness_SequencerInstructionsComplete_18 : ∃ (s : State) (r : _) (x : _) (w : _), RunAt s r x w ∧ w.op = 0x20
    ∧ ((fun _ x w s => evMod ((sGet x w.a).setWidth 32) ≠ ownModule s)) r { x with wait := .none, ahead := false } w (takeTurn s r x) :=
  ⟨ran (sword 0x20 0 1 3 0 0 0), 2, run0, seqW (sword 0x20 0 1 3 0 0 0), by unfold RunAt; decide +kernel, by decide +kernel,
      by decide +kernel⟩

theorem witness_SequencerInstructionsComplete_19 : ∃ (s : State) (r : _) (x : _) (h : _) (v : _) (d : _), getRun s r = some x
    ∧ x.wait = .event h v (some d) :=
  let x : Run := { run0 with wait := .event 0x50007 20 (some 9) }
  ⟨progged 0 x bound, 2, x, 0x50007, 20, 9, by decide +kernel⟩

theorem witness_SequencerInstructionsComplete_20 : ∃ (s : State) (r : _) (x : _) (w : _), RunAt s r x w ∧ w.op = 0x21
    ∧ ((fun r x w s => runStores s r = false ∧ runCopies s r = false ∧ evMod ((sGet x w.a).setWidth 32) = ownModule s
        ∧ evServes s x.ctx (evNum ((sGet x w.a).setWidth 32)) = true)) r { x with wait := .none, ahead := false } w (takeTurn s r x) :=
  ⟨ran (sword 0x21 0 2 3 0 0 0), 2, run0, seqW (sword 0x21 0 2 3 0 0 0), by unfold RunAt; decide +kernel, by decide +kernel⟩

theorem witness_SequencerInstructionsComplete_21 : ∃ (s : State) (r : _) (x : _) (w : _), RunAt s r x w ∧ w.op = 0x21
    ∧ ((fun r x w s => runStores s r = false ∧ runCopies s r = false
        ∧ evMod ((sGet x w.a).setWidth 32) ≠ ownModule s)) r { x with wait := .none, ahead := false } w (takeTurn s r x) :=
  ⟨ran (sword 0x21 0 1 3 0 0 0), 2, run0, seqW (sword 0x21 0 1 3 0 0 0), by unfold RunAt; decide +kernel, by decide +kernel⟩

theorem witness_SequencerWorkComplete_1 : ∃ (s : State) (r : _) (x : _) (w : _), RunAt s r x w ∧ w.op = 0x22
    ∧ ((fun _ x w _ => groupsIdle x w.md = true)) r { x with wait := .none, ahead := false } w (takeTurn s r x) :=
  ⟨ran (sword 0x22 0 0 0 0 255 0), 2, run0, seqW (sword 0x22 0 0 0 0 255 0), by unfold RunAt; decide +kernel, by decide +kernel,
      by decide +kernel⟩

theorem witness_SequencerWorkComplete_2 : ∃ (s : State) (r : _) (x : _) (w : _), RunAt s r x w ∧ w.op = 0x51
    ∧ ((fun _ x _ _ => groupsIdle x 255 = true)) r { x with wait := .none, ahead := false } w (takeTurn s r x) :=
  ⟨ran (sword 0x51 0 0 0 0 0 0), 2, run0, seqW (sword 0x51 0 0 0 0 0 0), by unfold RunAt; decide +kernel, by decide +kernel,
      by decide +kernel⟩

theorem witness_SequencerWorkComplete_3 : ∃ (s : State) (run : _) (incarn : _) (grp : _) (ovf : _) (n : _),
    s.seq.ends.find? (fun n => n.run == run && n.incarn == incarn && n.grp == grp && n.ovf == ovf) = some n :=
  let n : EndNote := { run := 2, incarn := 0, grp := 0, ovf := false, lcid := 0 }
  ⟨{ bound with seq := { bound.seq with ends := [n] } }, 2, 0, 0, false, n, by decide +kernel⟩

theorem witness_SequencerWorkComplete_4 : ∃ (s : State) (r : _) (x : _) (w : _), RunAt s r x w ∧ w.op = 0x30
    ∧ ((fun r x w s => runStores s r = false ∧ (getSlot s x.slot).bound = true
        ∧ ∃ rc, recOfRun s x w = some rc ∧ recCls rc ≤ x.cls
          ∧ (recFirst rc + (sGet x w.d).toNat) % 2 ^ 64 + (recCount rc - 1) * recStride rc < (getSlot s x.slot).brec.lcount
          ∧ groupOf x w.md + recCount rc ≤ 4294967295)) r { x with wait := .none, ahead := false } w (takeTurn s r x) :=
  ⟨ran (sword 0x30 0 0 0 0 0 0), 2, run0, seqW (sword 0x30 0 0 0 0 0 0), by unfold RunAt; decide +kernel, by decide +kernel,
      (by decide +kernel), by (decide +kernel), _, opt_ok (by decide +kernel), by decide +kernel⟩

theorem witness_SequencerWorkComplete_5 : ∃ (s : State) (r : _) (x : _) (w : _) (i : _) (rc : _), getRun s r = some x
    ∧ x.wait = .dispatch i ∧ runWord s x = some w ∧ (getCtx s x.ctx).st = 1 ∧
      unitSt s ⟨7, x.core⟩ = .ready ∧ halfOff s (x.core / 8) = false ∧ recOfRun s x w = some rc :=
  let x : Run := { run0 with wait := .dispatch 0 }
  ⟨progged (sword 0x30 0 0 0 0 0 0) x bound, 2, x, seqW (sword 0x30 0 0 0 0 0 0), 0, _, by decide +kernel, (by decide +kernel),
      by (decide +kernel), by decide +kernel, by (decide +kernel), (by decide +kernel), opt_ok (by decide +kernel)⟩

theorem witness_SequencerWorkComplete_6 : ∃ (s : State) (r : _) (x : _) (w : _), RunAt s r x w ∧ w.op = 0x31
    ∧ ((fun _ x w _ => copyLimits (sGet x w.a).toNat (sGet x w.b).toNat (sGet x w.c).toNat = true
        ∧ groupOf x w.md + 1 ≤ 4294967295)) r { x with wait := .none, ahead := false } w (takeTurn s r x) :=
  ⟨ran (sword 0x31 0 1 7 6 0 0), 2, run0, seqW (sword 0x31 0 1 7 6 0 0), by unfold RunAt; decide +kernel, by decide +kernel⟩

theorem witness_SequencerWorkComplete_7 : ∃ (s : State) (r : _) (x : _) (w : _), RunAt s r x w ∧ w.op = 0x32
    ∧ ((fun _ x w s => w.md = 0 ∧ ∃ rc, recOfRun s x w = some rc)) r { x with wait := .none, ahead := false } w (takeTurn s r x) :=
  ⟨ran (sword 0x32 0 0 0 0 0 0), 2, run0, seqW (sword 0x32 0 0 0 0 0 0), by unfold RunAt; decide +kernel, by decide +kernel,
      by decide +kernel, _, opt_ok (by decide +kernel)⟩

theorem witness_SequencerWorkComplete_8 : ∃ (s : State) (r : _) (x : _) (w : _), RunAt s r x w ∧ w.op = 0x32
    ∧ ((fun _ _ w _ => w.md = 1)) r { x with wait := .none, ahead := false } w (takeTurn s r x) :=
  ⟨ran (sword 0x32 0 0 0 0 1 0), 2, run0, seqW (sword 0x32 0 0 0 0 1 0), by unfold RunAt; decide +kernel, by decide +kernel,
      by decide +kernel⟩

theorem witness_SequencerWorkComplete_9 : ∃ (s : State) (r : _) (x : _) (w : _), RunAt s r x w ∧ w.op = 0x50
    ∧ ((fun r x w s => (sGet x w.b).toNat = 0 ∧ runStores s r = false ∧ replyRoom s x.q (slotBytes 0) = true
        ∧ x.buf = [])) r { x with wait := .none, ahead := false } w (takeTurn s r x) :=
  ⟨ran (sword 0x50 0 1 0 0 0 0), 2, run0, seqW (sword 0x50 0 1 0 0 0 0), by unfold RunAt; decide +kernel, by decide +kernel⟩

theorem witness_SequencerWorkComplete_10 : ∃ (s : State) (r : _) (x : _) (w : _), RunAt s r x w ∧ w.op = 0x50
    ∧ ((fun r x w s => (sGet x w.b).toNat % 8 = 0 ∧ 0 < (sGet x w.b).toNat ∧ (sGet x w.b).toNat ≤ 4096 ∧ runStores s r = false
        ∧ x.buf = []
        ∧ ∃ e v m u d t, runSeg s r x .read (sGet x w.a).toNat (sGet x w.b).toNat = .seg e v m u ∧ entLocal u e v = true
          ∧ runRes r x u (entRead u x.ctx e v m) = .ok d t ∧ d.length = (sGet x w.b).toNat
          ∧ replyRoom t x.q (slotBytes d.length) = true)) r { x with wait := .none, ahead := false } w (takeTurn s r x) :=
  ⟨ran (sword 0x50 0 1 6 0 0 0), 2, run0, seqW (sword 0x50 0 1 6 0 0 0), by unfold RunAt; decide +kernel, by decide +kernel,
      (by decide +kernel), by (decide +kernel), by decide +kernel, by (decide +kernel), (by decide +kernel), _, _, _, _, _, _,
          seg_ok (by decide +kernel), by decide +kernel, read_ok (by decide +kernel), by decide +kernel, by decide +kernel⟩

theorem witness_SequencerWorkComplete_11 : ∃ (s : State) (r : _) (x : _) (v : _), getRun s r = some x ∧ ((∃ h t d,
    x.wait = .event h t d) ∨ (∃ m, x.wait = .join m) ∨ ∃ i, x.wait = .dispatch i) ∧
      (getCtx s x.ctx).st = 1 ∧ unitSt s ⟨7, x.core⟩ = .ready ∧ halfOff s (x.core / 8) = false ∧ versionOf s x.prog x.ver = some v :=
  let x : Run := { run0 with wait := .join 255 }
  ⟨progged 0 x bound, 2, x, _, by decide +kernel, Or.inr (Or.inl ⟨255, rfl⟩), by decide +kernel, (by decide +kernel),
      by (decide +kernel), opt_ok (by decide +kernel)⟩

theorem witness_SequencerWorkComplete_12 : ∃ (s : State) (core : _), core < 16 ∧ unitSt s ⟨7, core⟩ = .ready :=
  ⟨bound, 0, by decide +kernel⟩

theorem witness_SequencerWorkComplete_13 : ∃ (s : State) (chan : _), zpendOf s chan ≠ 0 :=
  ⟨{ bound with mem := { bound.mem with zpend := [(0, 2)] } }, 0, by decide +kernel⟩

theorem witness_ProgramCommandsComplete_1 : ∃ (s : State) (h : _) (p : Pkt), MgmtTakes s h { p with opcode := 0x62 }
    ∧ ((fun _ p _ => p.payload.length = 32 ∧ 32 ≤ p.w6.toNat % 2 ^ 20
        ∧ p.w6.toNat % 2 ^ 20 ≤ 786464)) h { p with opcode := 0x62 } (taken s h { p with opcode := 0x62 }) :=
  ⟨bound, 0, mp 0 0 40 0 (List.replicate 32 0), by unfold MgmtTakes; decide +kernel, by decide +kernel⟩

theorem witness_ProgramCommandsComplete_2 : ∃ (s : State) (b : Begun) (size : Nat) (v : _) (g : _) (u : _), headerOk b.buf size = true
    ∧ shake256 b.buf 32 = b.pkt.payload ∧
      v = { num := 1, code := imageCode b.buf, recs := imageRecs b.buf } ∧
      progCheckImage (numAt b.buf 12 4 % 2 ^ 16) v.code v.recs = none ∧ versionBytes v ≤ storeFree s ∧
      pickOne ((List.range 2048).filter (fun g => (getProg s g).isNone)) s = (some g, u) :=
  ⟨bound, { begun0 with buf := img0, pkt := { pkt0 with payload := shake256 img0 32 } }, 40, _, _, _, by decide +kernel,
      by generalize shake256 img0 32 = z; rfl, rfl, by decide +kernel, by decide +kernel, some_ok (pick_ok (by decide +kernel))⟩

theorem witness_ProgramCommandsComplete_3 : ∃ (s : State) (h : _) (p : Pkt) (g : _) (x : _) (v : _) (v' : _),
    MgmtTakes s h { p with opcode := 0x61 } ∧
      let q : Pkt := { p with opcode := 0x61 }
      let u := taken s h q
      let n := p.payload.length
      g = p.w4.toNat % 2 ^ 11 ∧ getProg u g = some x ∧ x.slot = (getCtx u p.ctx).slot ∧ n ≠ 0 ∧ n % 16 = 0 ∧ n ≤ 8192 ∧
      x.versions.length < 4 ∧ x.current ≠ 65535 ∧ x.retiring = none ∧ versionOf u g x.current = some v ∧
      patchAll (cutEach 16 (n / 16) p.payload) v = some v' ∧ progCheckImage x.entry v'.code v'.recs = none ∧
      versionBytes v' ≤ storeFree u :=
  ⟨ran (sword 0 0 0 0 0 0 0), 0, mp 0 0 0 0 (leBytes 8 0 ++ leBytes 8 (0x51 * 2 ^ 56)), 0, _, _, _, by unfold MgmtTakes; decide +kernel,
      rfl, opt_ok (by decide +kernel), by decide +kernel, (by decide +kernel), by (decide +kernel), by decide +kernel,
          by (decide +kernel), (by decide +kernel), by decide +kernel, opt_ok (by decide +kernel), opt_ok (by decide +kernel),
          by decide +kernel, by decide +kernel⟩

theorem witness_ProgramCommandsComplete_4 : ∃ (s : State) (h : _) (p : Pkt) (g : _) (x : _), MgmtTakes s h { p with opcode := 0x63 } ∧
      let q : Pkt := { p with opcode := 0x63 }
      let u := taken s h q
      g = p.w4.toNat % 2 ^ 11 ∧ getProg u g = some x ∧ x.slot = (getCtx u p.ctx).slot ∧ x.retiring = none :=
  ⟨ran 0, 0, mp 0 0 0 0 [], 0, _, by unfold MgmtTakes; decide +kernel, rfl, opt_ok (by decide +kernel), by decide +kernel,
      by decide +kernel⟩

theorem witness_ProgramCommandsComplete_5 : ∃ (s : State) (h : _) (p : Pkt) (g : _) (x : _) (num : _) (v : _) (core : _) (r : _)
    (u1 : _), MgmtTakes s h { p with opcode := 0x60 } ∧
      let q : Pkt := { p with opcode := 0x60 }
      let u := taken s h q
      let n := p.payload.length
      n ≤ 128 ∧ n % 8 = 0 ∧ g = p.w4.toNat % 2 ^ 11 ∧ getProg u g = some x ∧
      num = (if p.w4.toNat / 2 ^ 16 % 2 ^ 16 = 0 then x.current else p.w4.toNat / 2 ^ 16 % 2 ^ 16) ∧ versionOf u g num = some v ∧
      x.retiring = none ∧ x.slot = (getCtx u p.ctx).slot ∧
      fewestRuns u (seqCoresOf u (halfOfQ u (.mgmt h))) = some core ∧ pickOne (freeRuns u (halfOfQ u (.mgmt h))) u = (some r, u1) :=
  ⟨ran 0, 0, mp 0 0 0 0 [], 0, _, 1, _, _, _, _, by unfold MgmtTakes; decide +kernel, by decide +kernel, by decide +kernel, rfl,
      opt_ok (by decide +kernel), by decide +kernel, opt_ok (by decide +kernel), by decide +kernel, by decide +kernel,
          opt_ok (by decide +kernel), some_ok (pick_ok (by decide +kernel))⟩

theorem witness_ProgramCommandsComplete_6 : ∃ (s : State) (r : _) (x : _), getRun s r = some x ∧ x.pkt.w5.toNat % 2 ^ 16 ≠ 0 :=
  let x : Run := { run0 with pkt := { pkt0 with w5 := 5 } }
  ⟨progged 0 x bound, 2, x, by decide +kernel⟩

theorem witness_KvInstructionsComplete_1 : ∃ (s : State) (r : _) (x : _) (w : _) (es : _) (ds : _) (u1 : _) (u2 : _) (u3 : _),
    RunAt s r x w ∧ w.op = 0x40 ∧
      let y := { x with wait := .none, ahead := false }
      kvList (takeTurn s r x) r y (sGet x w.a).toNat = .ok es u1 ∧ kvOpenDescs r y es [] u1 = .ok ds u2 ∧ sGet x w.b ≠ 0 ∧
      kvSpans r y (kvOpenSpans (sGet x w.a).toNat es.length ds) u2 = (none, u3) ∧
      ds.any (fun d => (kvRecOf u3 d.fpa).isSome || decide ((sGet x w.b).toNat ≤ d.epoch.toNat)) = false ∧
      [0, 1].any (fun h => decide (8192 < kvUsed u3 h + (ds.filter (fun d => halfOfFpa u3 d.fpa == h)).length)) = false :=
  ⟨kvRan 0x40, 2, run0, seqW (sword 0x40 0 5 6 0 0 0), _, _, _, _, _, by unfold RunAt; decide +kernel, by decide +kernel,
      list_ok (by decide +kernel), descs_ok (by decide +kernel), by decide +kernel, Prod.ext (by decide +kernel) rfl, by decide +kernel,
          by decide +kernel⟩

theorem witness_KvInstructionsComplete_2 : ∃ (s : State) (r : _) (x : _) (w : _) (es : _) (ds : _) (u1 : _) (u2 : _) (u3 : _) (zs : _)
    (u4 : _) (d : _) (u5 : _) (commit : Bool), RunAt s r x w ∧ w.op = (if commit then 0x41 else 0x42) ∧
      groupsIdle x 255 = true ∧
      let y := { x with wait := .none, ahead := false }
      let va := (sGet x w.a).toNat
      kvList (takeTurn s r x) r y va = .ok es u1 ∧ kvCloseDescs r y es [] u1 = .ok ds u2 ∧
      kvSpans r y ((va, 16 + 16 * es.length) :: ds.map (fun d => (d.va, 64))) u2 = (none, u3) ∧
      let recs := ds.filterMap (fun d => (kvRecOf u3 d.fpa).map (fun k => (d, k, if commit then d.accept else 0)))
      recs.length = ds.length ∧
      recs.any (fun e => e.2.1.ctx != x.ctx || e.2.1.cgen != x.cgen || e.2.1.epoch != sGet x w.b) = false ∧
      recs.any (fun e => decide (e.2.1.tail < e.2.2)) = false ∧ closeZeros r y recs [] u3 = (some zs, u4) ∧
      zeroRoom u4 zs = true ∧ kvMeet r y ds u4 = .ok d u5 :=
  ⟨kvOpened 0x41, 2, run0, seqW (sword 0x41 0 5 6 0 0 0), _, _, _, _, _, _, _, _, _, true, by unfold RunAt; decide +kernel,
      by decide +kernel, by decide +kernel, list_ok (by decide +kernel), descs_ok (by decide +kernel), Prod.ext (by decide +kernel) rfl,
          by decide +kernel, (by decide +kernel), by (decide +kernel), some_ok (by decide +kernel), by decide +kernel,
          read_ok (by decide +kernel)⟩

theorem witness_EventCommandsComplete_1 : ∃ (s : State) (h : _) (p : Pkt), MgmtTakes s h { p with opcode := 0x40 }
    ∧ ((fun h p u => begunOn u (.mgmt h) = [] ∧ evMod p.w4 = ownModule u ∧ evServes u p.ctx (evNum p.w4) = true
        ∧ recAdvances (getEv u (evNum p.w4)).val (valB p) = true)) h { p with opcode := 0x40 } (taken s h { p with opcode := 0x40 }) :=
  ⟨bound, 0, mp (7 + 5 * 2 ^ 16) 0 20 0 [], by unfold MgmtTakes; decide +kernel, by decide +kernel⟩

theorem witness_EventCommandsComplete_2 : ∃ (s : State) (h : _) (p : Pkt), MgmtTakes s h { p with opcode := 0x41 }
    ∧ ((fun _ p u => evMod p.w4 = ownModule u ∧ evServes u p.ctx (evNum p.w4) = true ∧ findBegun u u.fe.nextId = none
        ∧ waitMet (getEv u (evNum p.w4)).val (valB p) = true)) h { p with opcode := 0x41 } (taken s h { p with opcode := 0x41 }) :=
  ⟨bound, 0, mp (7 + 5 * 2 ^ 16) 0 5 0 [], by unfold MgmtTakes; decide +kernel, by decide +kernel⟩

theorem witness_EventCommandsComplete_3 : ∃ (s : State) (h : _) (p : Pkt), MgmtTakes s h { p with opcode := 0x41 }
    ∧ ((fun _ p u => evMod p.w4 = ownModule u ∧ evServes u p.ctx (evNum p.w4) = true
        ∧ waitMet (getEv u (evNum p.w4)).val (valB p) = false
            ∧ waitsOfHalf u (halfOfEvent (evNum p.w4)) < 32768)) h { p with opcode := 0x41 } (taken s h { p with opcode := 0x41 }) :=
  ⟨bound, 0, mp (7 + 5 * 2 ^ 16) 0 20 0 [], by unfold MgmtTakes; decide +kernel, by decide +kernel⟩

theorem witness_EventCommandsComplete_4 : ∃ (s : State) (id : _) (b : _) (h : _) (t : _), findBegun s id = some b ∧ b.job = .wait h t
    ∧ b.pkt.w5 ≠ 0 ∧ b.id = id :=
  let b : Begun := { begun0 with job := .wait (7 + 5 * 2 ^ 16) 20, pkt := { pkt0 with w5 := 5 } }
  ⟨{ bound with fe := { bound.fe with begun := [b] } }, 5, b, (7 + 5 * 2 ^ 16), 20, by decide +kernel⟩

theorem witness_EventCommandsComplete_5 : ∃ (s : State) (half : _) (w : _),
    s.ev.retry.find? (fun w => halfOfEvent w.ev == half) = some w ∧
      waitMet (getEv s w.ev).val w.target = false ∧ waitsOfHalf s half < 32768 ∧ halfOfEvent w.ev = half :=
  ⟨{ bound with ev := { bound.ev with retry := [⟨7, 20, .cmd 5⟩] } }, 0, ⟨7, 20, .cmd 5⟩, by decide +kernel⟩

theorem witness_EventCommandsComplete_6 : ∃ (s : State) (p : Pkt) (mid : _) (pid : _) (pgen : _), FabricTakes s p mid pid pgen
    ∧ ((fun _ p u => ∃ i, slotOfPid u p.w5.toNat = some i ∧ (getCtx u p.ctx).st = 1 ∧ (getCtx u p.ctx).slot = i
        ∧ p.gen = (getCtx u p.ctx).gen.setWidth 8 ∧ evMod p.w4 = ownModule u
            ∧ evServes u p.ctx (evNum p.w4) = true)) (QRef.fabric mid pid pgen) { p with opcode := 0x42 } s :=
  ⟨bound, ip (7 + 5 * 2 ^ 16) 9 20 0 [], 6, 9, 6, ⟨rfl, rfl, rfl⟩, 1, by decide +kernel⟩

theorem witness_EventCommandsComplete_7 : ∃ (s : State) (p : Pkt) (mid : _) (pid : _) (pgen : _) (i : _), p.src = .fabric mid pid pgen
    ∧ s.dev.phase = .ready ∧ fabGate s pid pgen = .pass ∧
      slotOfPid s p.w5.toNat = some i ∧ (getCtx s p.ctx).st = 1 ∧ (getCtx s p.ctx).slot = i ∧
      p.gen = (getCtx s p.ctx).gen.setWidth 8 ∧ evMod p.w4 = ownModule s ∧ evServes s p.ctx (evNum p.w4) = true :=
  ⟨bound, ip (7 + 5 * 2 ^ 16) 9 20 0 [], 6, 9, 6, 1, rfl, rfl, rfl, by decide +kernel⟩

theorem witness_EventCommandsComplete_8 : ∃ (s : State) (h : _) (p : Pkt), MgmtTakes s h { p with opcode := 0x43 } ∧ ((fun _ p u =>
        let w := p.w4.toNat
        let n := fld w 0 13
        let half := fld w 18 2
        let ctx := fld p.w5.toNat 0 10
        let l := (if half = 1 ∨ halfOff u 0 then [] else freeEvents u 0 n) ++ (if half = 0 ∨ halfOff u 1 then [] else freeEvents u 1 n)
        1 ≤ n ∧ n ≤ 4096 ∧ half < 3 ∧ (half < 2 → halfOff u half = false)
        ∧ (∃ i, slotOfPid u p.w6.toNat = some i
          ∧ (bitAt w 16 = false → (getCtx u ctx).st ≠ 0 ∧ (getCtx u ctx).slot = i)) ∧ (∃ e,
              (pickOne l u).1 = some e))) h { p with opcode := 0x43 } (taken s h { p with opcode := 0x43 }) :=
  ⟨bound, 0, mp 1 3 9 0 [], by unfold MgmtTakes; decide +kernel, by decide +kernel, (by decide +kernel), by (decide +kernel),
      by decide +kernel, ⟨1, by decide +kernel, by decide +kernel⟩, _, opt_ok (pick_ok (by decide +kernel))⟩

theorem witness_EventCommandsComplete_9 : ∃ (s : State) (h : _) (p : Pkt), MgmtTakes s h { p with opcode := 0x44 } ∧ ((fun _ p u =>
        let e := evNum p.w4
        let n := fld p.w5.toNat 0 13
        1 ≤ n ∧ n ≤ 4096 ∧ evMod p.w4 = ownModule u ∧ halfOfEvent e = halfOfEvent (e + n - 1) ∧ e + n ≤ 65536
        ∧ (∀ k < n, (getEv u (e + k)).st ≠ 0 ∧ (getEv u (e + k)).st = (getEv u e).st ∧ (getEv u (e + k)).ctx = (getEv u e).ctx
          ∧ (getEv u (e + k)).slot = (getEv u e).slot
              ∧ evWaited u (e + k) = false))) h { p with opcode := 0x44 } (taken s h { p with opcode := 0x44 }) :=
  ⟨bound, 0, mp (7 + 5 * 2 ^ 16) 1 0 0 [], by unfold MgmtTakes; decide +kernel, by decide +kernel⟩

theorem witness_EventCommandsComplete_10 : ∃ (s : State) (h : _) (p : Pkt), MgmtTakes s h { p with opcode := 0x45 }
    ∧ ((fun _ p u => evMod p.w4 = ownModule u)) h { p with opcode := 0x45 } (taken s h { p with opcode := 0x45 }) :=
  ⟨bound, 0, mp (7 + 5 * 2 ^ 16) 1 0 0 [], by unfold MgmtTakes; decide +kernel, by decide +kernel⟩

theorem witness_EventCommandsComplete_11 : ∃ (s : State), (∀ n ∈ caughtSet s ((waitNodes s).length + 1) (waitNodes s),
    s.ev.caught.contains (n.id, n.ev, (getEv s n.ev).val) = false) :=
  ⟨bound, by decide +kernel⟩

theorem witness_QueueCommandsComplete_1 : ∃ (s : State) (h : _) (p : Pkt), MgmtTakes s h { p with opcode := 0x00 }
    ∧ ((fun _ _ _ => True)) h { p with opcode := 0x00 } (taken s h { p with opcode := 0x00 }) :=
  ⟨bound, 0, mp 0 0 0 0 [], by unfold MgmtTakes; decide +kernel, trivial⟩

theorem witness_QueueCommandsComplete_2 : ∃ (s : State) (h : _) (p : Pkt), MgmtTakes s h { p with opcode := 0x01 } ∧ ((fun _ p u =>
        let n := fld p.w4.toNat 0 12
        let x := getQp u n
        let b := numAt p.payload
        let rs := ringOk u x.ctx (b 0 8) (b 0x10 1)
        let rc := ringOk rs.2 x.ctx (b 8 8) (b 0x11 1)
        p.payload.length = 48 ∧ n ≠ 0 ∧ (x.st = 1 ∨ x.st = 2 ∨ x.st = 3) ∧ 14 ≤ b 0x10 1 ∧ b 0x10 1 ≤ 24 ∧ 14 ≤ b 0x11 1 ∧ b 0x11 1 ≤ 24
        ∧ b 0 8 % 2 ^ b 0x10 1 = 0 ∧ b 8 8 % 2 ^ b 0x11 1 = 0 ∧ b 0x12 1 ≠ 0 ∧ rs.1 = true ∧ rc.1 = true
        ∧ (bitAt (b 0x13 1) 0 = true → ∀ o ∈ [0x14, 0x18, 0x1C, 0x20], holdsEvent rc.2 x.ctx (BitVec.ofNat 32 (b o 4)) = true)
        ∧ x.sq = [] ∧ (x.source = true → sqTailOf rc.2 x ≤ x.sqHead) ∧ x.cq = []
            ∧ begunOn rc.2 (.qp n) = [])) h { p with opcode := 0x01 } (taken s h { p with opcode := 0x01 }) :=
  ⟨withQp { st := 1, ctx := 3 }, 0, mp 8 0 0 0 (leBytes 8 0x100000 ++ leBytes 8 0x104000 ++ leBytes 32 (14 + 14 * 2 ^ 8 + 2 ^ 16)),
      by unfold MgmtTakes; decide +kernel, by decide +kernel, (by decide +kernel), by (decide +kernel), by decide +kernel,
          by (decide +kernel), (by decide +kernel), by decide +kernel, (by decide +kernel), by (decide +kernel), (by decide +kernel),
          by decide +kernel, by (decide +kernel), fun h => absurd h (by decide +kernel), by decide +kernel⟩

theorem witness_QueueCommandsComplete_3 : ∃ (s : State) (h : _) (p : Pkt), MgmtTakes s h { p with opcode := 0x02 }
    ∧ ((fun _ _ _ => True)) h { p with opcode := 0x02 } (taken s h { p with opcode := 0x02 }) :=
  ⟨bound, 0, mp 8 0 0 0 [], by unfold MgmtTakes; decide +kernel, trivial⟩

theorem witness_QueueCommandsComplete_4 : ∃ (s : State) (h : _) (p : Pkt), MgmtTakes s h { p with opcode := 0x03 } ∧ ((fun _ p u =>
        let n := fld p.w4.toNat 0 12
        let x := getQp u n
        n ≠ 0 ∧ x.st = 3 ∧ (x.source = true → opB p % 64 = 0 ∧ x.sqHead ≤ opB p
            ∧ opB p ≤ sqTailOf u x))) h { p with opcode := 0x03 } (taken s h { p with opcode := 0x03 }) :=
  ⟨withQp { st := 3, ctx := 3 }, 0, mp 8 0 0 0 [], by unfold MgmtTakes; decide +kernel, by decide +kernel⟩

theorem witness_QueueCommandsComplete_5 : ∃ (s : State) (h : _) (p : Pkt), p.src = .haldip h ∧ p.qpn = 0 ∧ (getFe s h).up = true
    ∧ p.rxOk = true ∧ takingOver s = false ∧
      some p.adapter.toNat = (getFe s h).adapter ∧ p.plen = p.payload.length ∧ p.plen ≤ 8192 ∧ (getFe s h).onHold = true ∧
      (getFe s h).held = [] ∧ fld p.w4.toNat 0 12 = 0 ∧ startsNow (admitted s h) h (.mgmt h) { p with opcode := 0x03 } = true :=
  ⟨{ bound with fe := { bound.fe with ports := [(0, { up := true, adapter := some 7, onHold := true })] } }, 0, mp 0 0 0 0 [],
      by decide +kernel⟩

theorem witness_FrontEndCommandsComplete_1 : ∃ (s : State) (h : _) (p : Pkt), QpTakes s h p ∧ p.opcode = 0x00 :=
  ⟨withQp qp8, 0, qpk 0 0 0 0 [], by unfold QpTakes; decide +kernel, by decide +kernel⟩

theorem witness_FrontEndCommandsComplete_3 : ∃ (s : State) (n : _) (p : Pkt) (v : _), s.dev.phase = .ready
    ∧ halfOff s (getQp s n).port = false ∧ (getQp s n).st = 2 ∧ (getQp s n).source = true ∧
      (getQp s n).sq = [] ∧ (getQp s n).sqHead < sqTailOf s (getQp s n) ∧ replyRoom s (.qp n) 64 = true ∧
      devPacket (lullWake s (getQp s n).port) .read n (getQp s n).sqHead (getQp s n) = (.good p, v) ∧ devCheck v (getQp s n) p = none :=
  ⟨devFed (pktBytes { qpk 0x50007 0 0 0 [] with opcode := 0x40 }), 8, _, _, by decide +kernel, (by decide +kernel), by (decide +kernel),
      by decide +kernel, by (decide +kernel), (by decide +kernel), by decide +kernel, good_ok (by decide +kernel), by decide +kernel⟩

theorem witness_FrontEndCommandsComplete_4 : ∃ (s : State) (n : _) (p : Pkt) (v : _), s.dev.phase = .ready
    ∧ halfOff s (getQp s n).port = false ∧ (getQp s n).st = 2 ∧ (getQp s n).source = true ∧
      (getQp s n).sq = [] ∧ (getQp s n).sqHead < sqTailOf s (getQp s n) ∧ replyRoom s (.qp n) 64 = true ∧
      devPacket (lullWake s (getQp s n).port) .read n (getQp s n).sqHead (getQp s n) = (.bad p, v) :=
  ⟨devFed (leBytes 64 1), 8, _, _, by decide +kernel, (by decide +kernel), by (decide +kernel), by decide +kernel, by (decide +kernel),
      (by decide +kernel), by decide +kernel, bad_ok (by decide +kernel)⟩

theorem witness_FrontEndCommandsComplete_5 : ∃ (s : State) (half : _) (q : _) (i : _) (u : _), half < 2 ∧ s.dev.phase = .ready
    ∧ halfOff s half = false ∧ chooseItem (clearDeficits s half) half = some (q, i, u) :=
  ⟨withQp { qp8 with sq := [qpk 0 0 0 0 []] }, 0, _, _, _, by decide +kernel, (by decide +kernel), by (decide +kernel),
      tri_ok (by decide +kernel)⟩

theorem witness_FrontEndCommandsComplete_6 : ∃ (i : Item) (id : _), i.read = some id :=
  ⟨⟨0, 64, some 3⟩, 3, rfl⟩

theorem witness_FrontEndCommandsComplete_7 : ∃ (s : State) (n : _) (i : Item) (p : Pkt) (t : _), i.read = none
    ∧ (getQp s n).sq = p :: t :=
  ⟨withQp { qp8 with sq := [qpk 0 0 0 0 []] }, 8, ⟨0, 64, none⟩, _, [], rfl, rfl⟩

theorem witness_FrontEndCommandsComplete_8 : ∃ (s : State) (h : _) (i : Item) (p : Pkt) (t : _), i.read = none
    ∧ (getFe s h).held = p :: t :=
  ⟨{ bound with fe := { bound.fe with ports := [(0, { held := [mp 0 0 0 0 []] })] } }, 0, ⟨0, 64, none⟩, _, [], rfl, rfl⟩

theorem witness_FabricPacketsComplete_1 : ∃ (s : State) (f : FabPkt) (u : _), TakesPkt s { f with kind := 0 } u ∧ ((fun f _ => ∃ p,
    f.cmd = some p ∧ p.rxOk = true)) { f with kind := 0 } u :=
  ⟨bound, { fk 5 with cmd := some (mp 0 0 0 0 []) }, tookPkt bound { { fk 5 with cmd := some (mp 0 0 0 0 []) } with kind := 0 }, ⟨rfl,
      by decide +kernel, (by decide +kernel), by (decide +kernel), rfl, rfl, rfl, rfl⟩, _, rfl, rfl⟩

theorem witness_FabricPacketsComplete_2 : ∃ (s : State) (f : FabPkt) (u : _), TakesPkt s { f with kind := 1 } u
    ∧ ((fun f u => ingressFenced u f = false ∧ f.tkind ≠ 1 ∧ f.target.toNat / 2 ^ 42 = ownModule u)) { f with kind := 1 } u :=
  ⟨bound, fk 0, tookPkt bound { fk 0 with kind := 1 }, ⟨rfl, by decide +kernel, (by decide +kernel), by (decide +kernel), rfl, rfl, rfl,
      rfl⟩, by decide +kernel⟩

theorem witness_FabricPacketsComplete_3 : ∃ (s : State) (f : FabPkt) (u : _), TakesPkt s { f with kind := 1 } u
    ∧ ((fun f u => ingressFenced u f = false ∧ f.tkind = 1)) { f with kind := 1 } u :=
  ⟨bound, { fk 0 with tkind := 1 }, tookPkt bound { { fk 0 with tkind := 1 } with kind := 1 }, ⟨rfl, by decide +kernel,
      (by decide +kernel), by (decide +kernel), rfl, rfl, rfl, rfl⟩, by decide +kernel⟩

theorem witness_FabricPacketsComplete_4 : ∃ (s : State) (f : FabPkt) (u : _), TakesPkt s { f with kind := 2 } u
    ∧ ((fun f u => ingressFenced u f = false ∧ f.tkind ≠ 1 ∧ f.target.toNat / 2 ^ 42 = ownModule u)) { f with kind := 2 } u :=
  ⟨bound, fk 2, tookPkt bound { fk 2 with kind := 2 }, ⟨rfl, by decide +kernel, (by decide +kernel), by (decide +kernel), rfl, rfl, rfl,
      rfl⟩, by decide +kernel⟩

theorem witness_FabricPacketsComplete_5 : ∃ (s : State) (f : FabPkt) (u : _), TakesPkt s { f with kind := 2 } u
    ∧ ((fun f u => ingressFenced u f = false ∧ f.tkind = 1)) { f with kind := 2 } u :=
  ⟨bound, { fk 2 with tkind := 1 }, tookPkt bound { { fk 2 with tkind := 1 } with kind := 2 }, ⟨rfl, by decide +kernel,
      (by decide +kernel), by (decide +kernel), rfl, rfl, rfl, rfl⟩, by decide +kernel⟩

theorem witness_FabricPacketsComplete_6 : ∃ (s : State) (f : FabPkt) (u : _), TakesPkt s { f with kind := 3 } u
    ∧ ((fun f u => ingressFenced u f = false ∧ f.near.isSome = true)) { f with kind := 3 } u :=
  ⟨bound, { fk 0 with near := some near0 }, tookPkt bound { { fk 0 with near := some near0 } with kind := 3 }, ⟨rfl, by decide +kernel,
      (by decide +kernel), by (decide +kernel), rfl, rfl, rfl, rfl⟩, by decide +kernel⟩

theorem witness_FabricPacketsComplete_7 : ∃ (s : State) (f : FabPkt) (u : _), TakesPkt s { f with kind := 4 } u ∧ ((fun f u => ∃ o,
    u.fab.outst.find? (fun o => o.tag == f.tag.toNat && o.dst == f.src) = some o ∧ staleAnswer u o = false)) { f with kind := 4 } u :=
  ⟨{ bound with fab := { bound.fab with outst := [out0] } }, fk 1,
      tookPkt { bound with fab := { bound.fab with outst := [out0] } } { fk 1 with kind := 4 }, ⟨rfl, by decide +kernel,
          (by decide +kernel), by (decide +kernel), rfl, rfl, rfl, rfl⟩, out0, by decide +kernel⟩

theorem witness_FabricPacketsComplete_8 : ∃ (s : State) (f : FabPkt) (u : _), TakesPkt s { f with kind := 7 } u
    ∧ ((fun _ _ => True)) { f with kind := 7 } u :=
  ⟨bound, fk 5, tookPkt bound { fk 5 with kind := 7 }, ⟨rfl, by decide +kernel, (by decide +kernel), by (decide +kernel), rfl, rfl, rfl,
      rfl⟩, trivial⟩

theorem witness_FabricPacketsComplete_9 : ∃ (s : State) (f : FabPkt) (u : _), TakesPkt s { f with kind := 8 } u
    ∧ ((fun _ _ => True)) { f with kind := 8 } u :=
  ⟨bound, fk 5, tookPkt bound { fk 5 with kind := 8 }, ⟨rfl, by decide +kernel, (by decide +kernel), by (decide +kernel), rfl, rfl, rfl,
      rfl⟩, trivial⟩

theorem witness_FabricPacketsComplete_10 : ∃ (s : State) (flow : FlowKey) (d : _) (q : _),
    cheapest ((findRx s flow).held.map (fun f => ((f.flowSeq - (findRx s flow).expected).toNat, f.flowSeq))) = some (d, q) :=
  ⟨setRx bound { key := flowOf (fk 0), held := [{ fk 0 with flowSeq := 2 }] }, flowOf (fk 0), 2, 2, by decide +kernel⟩

theorem witness_FabricPacketsComplete_11 : ∃ (s : State) (port : _) (f : _), s.dev.phase = .ready ∧ port < 32 ∧ (getPort s port).st = 2
    ∧ frameGood (getPort s port) f = true :=
  ⟨withPort { st := 2 }, 3, frame0, by decide +kernel, (by decide +kernel), by (decide +kernel), frame0_good⟩

theorem witness_FabricPacketsComplete_12 : ∃ (s : State) (port : _) (f : _), s.dev.phase = .ready ∧ port < 32 ∧ (getPort s port).st = 2
    ∧ frameGood (getPort s port) f = false :=
  ⟨withPort { st := 2 }, 3, { frame0 with bytes := [] }, by decide +kernel⟩

theorem witness_FabricLinksComplete_1 : ∃ (s : State) (port : _), port < 34 ∧ linkUp s port = true ∧ (getPort s port).kept ≠ [] :=
  ⟨withPort { st := 2, kept := [{ seq := 0, bytes := [], pkts := [] }] }, 3, by decide +kernel⟩

theorem witness_FabricLinksComplete_2 : ∃ (s : State) (port : _), port < 32 ∧ portEnabled (getPort s port) = true ∧ unitSt s ⟨4,
    port⟩ = .ready ∧ (getPort s port).st ≠ 2 ∧
      halfOff s (halfOfPort port) = false :=
  ⟨withPort { cfg := 2 ^ 21 }, 3, by decide +kernel⟩

theorem witness_FabricLinksComplete_3 : ∃ (s : State) (h : _) (r : _), h < 2 ∧ unitSt s ⟨6, h⟩ = .ready ∧ halfOff s h = false
    ∧ r.inTime = true ∧ trainFails (32 + h) r = false :=
  let r : TrainResult := { lanes := List.replicate 9 true, peerModule := 0, peerPort := 0, flight := 125, inTime := true }
  ⟨bound, 1, r, by decide +kernel⟩

theorem witness_FabricLinksComplete_4 : ∃ (s : State) (port : _), (getPort s port).st = 4 ∧ portEnabled (getPort s port) = true :=
  ⟨withPort { st := 4, cfg := 2 ^ 21 }, 3, by decide +kernel⟩

theorem witness_FabricLinksComplete_5 : ∃ (s : State) (port : _) (lane : _), port < 34 ∧ lane < laneCount port ∧ linkUp s port = true
    ∧ bitAt (getPort s port).badRx.toNat lane = false ∧
      lane ≠ (getPort s port).spareRx ∧ bitAt (getPort s port).badRx.toNat (getPort s port).spareRx = false
          ∧ 7 ≤ (getPort s port).spareReq :=
  ⟨withPort { st := 2 }, 3, 0, by decide +kernel⟩

theorem witness_FabricLinksComplete_6 : ∃ (s : State) (port : _) (lane : _), port < 34 ∧ lane < laneCount port ∧ linkUp s port = true
    ∧ bitAt (getPort s port).badTx.toNat lane = false ∧
      lane ≠ (getPort s port).spareTx ∧ bitAt (getPort s port).badTx.toNat (getPort s port).spareTx = false :=
  ⟨withPort { st := 2 }, 3, 0, by decide +kernel⟩

theorem witness_FabricLinksComplete_7 : ∃ (s : State) (port : _), port < 32 ∧ (getPort s port).st ≠ 0 ∧ (getPort s port).st ≠ 3 :=
  ⟨withPort { st := 2 }, 3, by decide +kernel⟩

theorem witness_FabricLinksComplete_8 : ∃ (h : _), h < 2 :=
  ⟨0, by decide +kernel⟩

theorem witness_FabricLinksComplete_9 : ∃ (s : State) (flow : _) (t : _) (o : _) (p : PathTo), findTx s flow = some t
    ∧ s.fab.sent.find? (fun o => o.port == t.port && flowOf o.pkt == flow) = some o ∧
      t.marker = none ∧ o.pkt.kind ≠ 5 ∧ choosePath s (slotOfPid s o.pkt.pid) o.pkt.vc o.pkt.dst o.pkt.flowSeq none = some p ∧
      (p.port ≠ t.port ∨ p.gw ≠ (t.gwPos, t.gwPort) ∨ p.inter ≠ t.inter) :=
  let f : FabPkt := { fk 5 with kind := 7, src := 5, dst := 6 }
  let t : FlowTx := { key := flowOf f, port := 31 }
  let o : OutPkt := { port := 31, pkt := f, total := 0 }
  let s : State := setPort { bound with fab := { bound.fab with sent := [o], tx := [t] }, res := { bound.res with scale := 1 } } (localPort (posOf 5) (posOf 6)) { st := 2, cfg := 2 ^ 19 }
  ⟨s, flowOf f, t, o, _, by decide +kernel, by decide +kernel, rfl, by decide +kernel, opt_ok (by decide +kernel), by decide +kernel⟩

theorem witness_FabricLinksComplete_10 : ∃ (s : State) (tag : _) (o : _), s.fab.outst.find? (fun o => o.tag == tag) = some o ∧ (∀ t,
    o.who ≠ .signal t ∧ o.who ≠ .remWait t) ∧
      (∀ r, o.who ≠ .runSignal r ∧ o.who ≠ .runWait r) :=
  ⟨{ bound with fab := { bound.fab with outst := [out0] } }, 1, out0, by decide +kernel, fun _ => ⟨nofun, nofun⟩, fun _ => ⟨nofun, nofun⟩⟩

theorem witness_FabricLinksComplete_12 : ∃ (s : State) (slot : _) (peer : _) (keyix : _) (k : _),
    s.fab.keys.find? (fun k => k.slot == slot && k.peer == peer && k.keyix == keyix) = some k ∧ 2 ^ 39 ≤ k.sent ∧
      (keysOf s slot peer).length ≠ 4 :=
  ⟨withKey key0, 1, 6, 0, key0, by decide +kernel⟩

theorem witness_FabricLinksComplete_13 : ∃ (s : State) (slot : _) (peer : _), (keysOf s slot peer).any (fun k => k.waiting) = true :=
  ⟨withKey { key0 with waiting := true }, 1, 6, by decide +kernel⟩

theorem witness_BulkCommandsComplete_1 : ∃ (s : State) (h : _) (p : Pkt), MgmtTakes s h { p with opcode := 0x20 }
    ∧ ((fun _ p _ => p.payload.length ≠ 0
        ∧ opA p + p.payload.length ≤ 2 ^ 57)) h { p with opcode := 0x20 } (taken s h { p with opcode := 0x20 }) :=
  ⟨bound, 0, mp 0x101000 0 64 0 (leBytes 64 7), by unfold MgmtTakes; decide +kernel, by decide +kernel, by decide +kernel⟩

theorem witness_BulkCommandsComplete_2 : ∃ (s : State) (h : _) (p : Pkt) (b : _) (e : _) (v : _) (d : _) (t : _),
    MgmtTakes s h { p with opcode := 0x20 } ∧ p.payload.length ≠ 0 ∧ opA p + p.payload.length ≤ 2 ^ 57 ∧
      begunBy s h { p with opcode := 0x20 } (.write (opA p)) b ∧
      let u := begin (.mgmt h) b.pkt b.job 0 (taken s h b.pkt)
      bulkHeld u b = false ∧ s.fab.outst.any (fun o => o.who == .cmd b.id) = false ∧
      (extent u b .write (opA p) p.payload.length).1 = .seg e v p.payload.length ∧ entLocal u e v = true ∧
      entWrite (extent u b .write (opA p) p.payload.length).2 p.ctx e v p.payload = .ok d t :=
  let p := mp 0x101000 0 64 0 (leBytes 64 7)
  ⟨bound, 0, p, startedBy bound { p with opcode := 0x20 } (.write (opA p)), _, _, _, _, by unfold MgmtTakes; decide +kernel,
      by decide +kernel, by decide +kernel, ⟨rfl, by decide +kernel⟩, by decide +kernel, by decide +kernel,
          seg1_len (by decide +kernel) (by decide +kernel), by decide +kernel, res_is (by decide +kernel)⟩

theorem witness_BulkCommandsComplete_3 : ∃ (s : State) (h : _) (p : Pkt) (b : _) (e : _) (v : _) (m : _),
    MgmtTakes s h { p with opcode := 0x21 } ∧ p.w6.toNat ≠ 0 ∧ opA p + p.w6.toNat ≤ 2 ^ 57 ∧
      begunBy s h { p with opcode := 0x21 } (.read (opA p) p.w6.toNat) b ∧
      let u := begin (.mgmt h) b.pkt b.job 0 (taken s h b.pkt)
      (extent u b .read (opA p) p.w6.toNat).1 = .seg e v m :=
  let p := mp 0x101000 0 64 0 (leBytes 64 7)
  ⟨bound, 0, p, startedBy bound { p with opcode := 0x21 } (.read (opA p) p.w6.toNat), _, _, _, by unfold MgmtTakes; decide +kernel,
      by decide +kernel, by decide +kernel, ⟨rfl, by decide +kernel⟩, seg1_ok (by decide +kernel)⟩

theorem witness_BulkCommandsComplete_4 : ∃ (s : State) (id : _) (b : _) (addr : _) (len : _) (i : _) (u : _) (e : _) (v : _) (m : _)
    (d : _) (t : _), findBegun s id = some b ∧ b.job = .read addr len ∧ b.buf = [] ∧ b.stalled = false ∧
      bulkHeld s b = false ∧ s.fab.outst.any (fun o => o.who == .cmd id) = false ∧
      frontNext s (halfOfQ s b.q) = some (b.q, i, u) ∧ i.read = some id ∧
      let half := halfOfQ s b.q
      let w := payItem half b.q i u
      let need := min 8192 (len - b.cursor)
      0 < need ∧ (extent w b .read (addr + b.cursor) (len - b.cursor)).1 = .seg e v m ∧ need ≤ m ∧ entLocal w e v = true ∧
      entRead (extent w b .read (addr + b.cursor) (len - b.cursor)).2 b.pkt.ctx e v need = .ok d t ∧
      (b.roomKept || replyRoom (setBegun t { b with buf := d }) b.q (slotBytes need)) = true :=
  let s : State := { bound with fe := { (withQp qp8).fe with begun := (withJob (.read 0x101000 64)).fe.begun } }
  ⟨s, 5, begun (.read 0x101000 64), 0x101000, 64, frontItem s, frontState s, _, _, _, _, _, rfl, rfl, rfl, rfl, by decide +kernel,
      by decide +kernel, front_ok (by decide +kernel), by decide +kernel, by decide +kernel, seg1_ok (by decide +kernel),
          by decide +kernel, by decide +kernel, res_is (by decide +kernel), by decide +kernel⟩

theorem witness_BulkCommandsComplete_5 : ∃ (s : State) (h : _) (p : Pkt) (b : _) (es : _) (vs : _) (ms : _) (ed : _) (vd : _) (md : _),
    MgmtTakes s h { p with opcode := 0x23 } ∧ p.payload.length = 24 ∧
      let src := numAt p.payload 0 8
      let dst := numAt p.payload 8 8
      let len := numAt p.payload 16 8
      copyLimits src dst len = true ∧ begunBy s h { p with opcode := 0x23 } (.copy src dst len none) b ∧
      let u := begin (.mgmt h) b.pkt b.job 0 (taken s h b.pkt)
      let x := extent u b .read src len
      let y := extent x.2 b .write dst len
      x.1 = .seg es vs ms ∧ y.1 = .seg ed vd md :=
  let p := mp 0 0 0 0 (leBytes 8 0x101000 ++ leBytes 8 0x102000 ++ leBytes 8 64)
  ⟨bound, 0, p,
      startedBy bound { p with opcode := 0x23 } (.copy (numAt p.payload 0 8) (numAt p.payload 8 8) (numAt p.payload 16 8) none), _, _, _,
          _, _, _, by unfold MgmtTakes; decide +kernel, by decide +kernel, by decide +kernel, ⟨rfl, by decide +kernel⟩,
          seg1_ok (by decide +kernel), seg1_ok (by decide +kernel)⟩

theorem witness_BulkCommandsComplete_6 : ∃ (s : State) (id : _) (b : _) (src : _) (dst : _) (len : _) (run : _),
    findBegun s id = some b ∧ b.job = .copy src dst len run :=
  ⟨withJob (.copy 0x101000 0x102000 64 none), 5, _, 0x101000, 0x102000, 64, none, rfl, rfl⟩

theorem witness_BulkCommandsComplete_7 : ∃ (s : State) (id : _) (b : _) (src : _) (dst : _) (len : _) (run : _) (es : _) (vs : _)
    (ed : _) (vd : _) (d : _) (c : _) (z : _) (t : _), findBegun s id = some b ∧ b.job = .copy src dst len run ∧ b.stalled = false
        ∧ b.buf = [] ∧
      bulkHeld s b = false ∧ s.fab.outst.any (fun o => o.who == .cmd id) = false ∧ b.cursor < len ∧ len - b.cursor ≤ 4096 ∧
      let n := len - b.cursor
      let x := extent s b .read (src + b.cursor) n
      let y := extent x.2 b .write (dst + b.cursor) n
      x.1 = .seg es vs n ∧ y.1 = .seg ed vd n ∧ entLocal s es vs = true ∧ entLocal s ed vd = true ∧
      entRead y.2 b.pkt.ctx es vs n = .ok d c ∧ entWrite c b.pkt.ctx ed vd d = .ok z t :=
  let j : Job := .copy 0x101000 0x102000 64 none
  ⟨withJob j, 5, begun j, 0x101000, 0x102000, 64, none, _, _, _, _, _, _, _, _, rfl, rfl, rfl, rfl, by decide +kernel,
      (by decide +kernel), by (decide +kernel), by decide +kernel, seg1_len (by decide +kernel) (by decide +kernel),
          seg1_len (by decide +kernel) (by decide +kernel), by decide +kernel, by decide +kernel, res_is (by decide +kernel),
          res_is (by decide +kernel)⟩

theorem witness_MemoryRequestsComplete_1 : ∃ (s : State) (r : MemReq) (u : _) (d : _) (v : _),
    u = (if inHbm r.addr || inStore r.addr then addUpset s (r.addr / 16) r.upset else s) ∧
      (inHbm r.addr = true → r.now = true ∧ (getChan u (granChan u (granOf r.addr))).queue = []
          ∧ (getChan u (granChan u (granOf r.addr))).waits = []) ∧
      (r.kind = .read ∨ r.kind = .internal ∧ r.data = []) ∧
      memRead u r.kind r.ctx r.pid r.edom r.addr r.len = .ok d v :=
  ⟨bound, mreq, _, List.replicate 64 0, _, rfl, fun _ => by decide +kernel, .inl rfl, res_ok (by decide +kernel)⟩

theorem witness_MemoryRequestsComplete_2 : ∃ (s : State) (r : MemReq) (u : _) (d : _) (v : _),
    u = (if inHbm r.addr || inStore r.addr then addUpset s (r.addr / 16) r.upset else s) ∧
      (inHbm r.addr = true → r.now = true ∧ (getChan u (granChan u (granOf r.addr))).queue = []
          ∧ (getChan u (granChan u (granOf r.addr))).waits = []) ∧
      (r.kind = .write ∨ r.kind = .internal ∧ r.data ≠ []) ∧
      memWrite u r.kind r.ctx r.pid r.edom r.addr r.data = .ok d v :=
  ⟨bound, { mreq with kind := .write, data := List.replicate 64 1 }, _, [], _, rfl, fun _ => by decide +kernel, .inl rfl,
      res_ok (by decide +kernel)⟩

theorem witness_MemoryRequestsComplete_3 : ∃ (s : State) (r : MemReq) (u : _) (d : _) (v : _) (d' : _) (w : _),
    u = (if inHbm r.addr || inStore r.addr then addUpset s (r.addr / 16) r.upset else s) ∧
      (inHbm r.addr = true → r.now = true ∧ (getChan u (granChan u (granOf r.addr))).queue = []
          ∧ (getChan u (granChan u (granOf r.addr))).waits = []) ∧
      (r.kind = .atomic ∨ r.kind = .reduce) ∧
      memRead u r.kind r.ctx r.pid r.edom r.addr r.len = .ok d v ∧ memWrite v r.kind r.ctx r.pid r.edom r.addr r.data = .ok d' w :=
  ⟨bound, { mreq with kind := .atomic, data := List.replicate 64 1 }, _, List.replicate 64 0, _, [], _, rfl, fun _ => by decide +kernel,
      .inl rfl, res_ok (by decide +kernel), res_ok (by decide +kernel)⟩

theorem witness_MemoryRequestsComplete_4 : ∃ (s : State) (r : MemReq), inHbm r.addr = true ∧ r.now = false ∧
      let u := addUpset s (r.addr / 16) r.upset
      let chan := granChan u (granOf r.addr)
      let c := getChan u chan
      spanGate u r.kind r.ctx r.pid r.edom r.addr
        (if r.kind = .write ∨ r.kind = .internal ∧ r.data ≠ [] then r.data.length else r.len) = .allow :=
  ⟨bound, { mreq with now := false }, by decide +kernel⟩

theorem witness_MemoryRequestsComplete_6 : ∃ (s : State) (chan : _), chan < 192 ∧ halfPwr s (halfOfChan chan) = 0
    ∧ halfOff s (halfOfChan chan) = false ∧ chanReady s chan = true ∧
      ((getChan s chan).queue.filter innerReq).length < 8 :=
  ⟨bound, 0, by decide +kernel⟩

theorem witness_RangeCommandsComplete_1 : ∃ (s : State) (h : _) (p : Pkt), MgmtTakes s h { p with opcode := 0xA0 }
    ∧ ((fun _ p u => p.payload.length ≠ 0 ∧ p.payload.length % 32 = 0
        ∧ (entryRecs p.payload).all (mapForm (getCtx u p.ctx).eotha) = true
        ∧ ((entryRecs p.payload).map rangeOf).all (mapTarget (getSlot u (getCtx u p.ctx).slot).brec.conf) = true
        ∧ ((entryRecs p.payload).map rangeOf).all (mapGranary u (getCtx u p.ctx).slot) = true
        ∧ overlapping ((entryRecs p.payload).map rangeOf) = false
        ∧ ((entryRecs p.payload).map rangeOf).any (fun e => (getCtx u p.ctx).ranges.any (fun f => !f.revoked && meets f e.va (rangeEnd e))) = false
        ∧ (tableWith (getCtx u p.ctx).ranges ((entryRecs p.payload).map rangeOf)).length ≤ 65536
        ∧ ((getCtx u p.ctx).table = none → ∃ k, tableGran u (getCtx u p.ctx).slot = some k)
            ∧ (tableMet u p.ctx).1 = true)) h { p with opcode := 0xA0 } (taken s h { p with opcode := 0xA0 }) :=
  ⟨bound, 0, mp 0 0 0 0 (leBytes 8 0x2000000 ++ leBytes 8 (5 * 2 ^ 42 + 0x600000) ++ leBytes 8 16 ++ leBytes 8 3),
      by unfold MgmtTakes; decide +kernel, by decide +kernel, (by decide +kernel), by (decide +kernel), by decide +kernel,
          by (decide +kernel), (by decide +kernel), by decide +kernel, (by decide +kernel), fun _ => ⟨_, opt_ok (by decide +kernel)⟩,
          by decide +kernel⟩

theorem witness_RangeCommandsComplete_2 : ∃ (s : State) (h : _) (p : Pkt), MgmtTakes s h { p with opcode := 0xA1 }
    ∧ ((fun _ p u => spanOk p = true
        ∧ (cutAt (fun e => !e.revoked) (fun e => [{ e with revoked := true }]) (opA p) (opA p + opB p)
            (getCtx u p.ctx).ranges).length ≤ 65536
        ∧ (tableMet u p.ctx).1 = true)) h { p with opcode := 0xA1 } (taken s h { p with opcode := 0xA1 }) :=
  ⟨bound, 0, mp 0x100000 0 0x1000 0 [], by unfold MgmtTakes; decide +kernel, by decide +kernel⟩

theorem witness_RangeCommandsComplete_3 : ∃ (s : State) (h : _) (p : Pkt), MgmtTakes s h { p with opcode := 0xA5 }
    ∧ ((fun _ p _ => spanOk p = true)) h { p with opcode := 0xA5 } (taken s h { p with opcode := 0xA5 }) :=
  ⟨bound, 0, mp 0x100000 0 0x1000 0 [], by unfold MgmtTakes; decide +kernel, by decide +kernel⟩

theorem witness_RangeCommandsComplete_4 : ∃ (s : State) (id : _) (b : Begun) (va : _) (len : _) (deps : _) (runs : _),
    findBegun s id = some b ∧ b.job = .unmapIdle va len deps runs ∧
      (packetsOf s b.pkt.ctx).any (fun x => x != (b.q, b.pkt.seq) && deps.contains x) = false ∧
      runs.any (fun r => kernelLeft s r || ((getRun s r.1).isSome && incarnOf s r.1 == r.2)) = false ∧
      let l := cutAt (fun _ => true) (fun _ => []) va (va + len) (getCtx s b.pkt.ctx).ranges
      l.length ≤ 65536 ∧ (tableMet s b.pkt.ctx).1 = true :=
  ⟨withJob (.unmapIdle 0x100000 0x1000 [] []), 5, _, 0x100000, 0x1000, [], [], rfl, rfl, by decide +kernel⟩

theorem witness_RangeCommandsComplete_5 : ∃ (s : State) (h : _) (p : Pkt), MgmtTakes s h { p with opcode := 0xA2 }
    ∧ ((fun _ p _ => p.w4.toNat % 4 = 0 ∧ p.payload.length = 16)) h { p with opcode := 0xA2 } (taken s h { p with opcode := 0xA2 }) :=
  ⟨bound, 0, mp 0 0 0 0 (leBytes 16 0x1000), by unfold MgmtTakes; decide +kernel, by decide +kernel⟩

theorem witness_RangeCommandsComplete_6 : ∃ (s : State) (h : _) (p : Pkt) (i : _), MgmtTakes s h { p with opcode := 0xA2 } ∧
      let q : Pkt := { p with opcode := 0xA2 }
      let u := taken s h q
      p.w4.toNat % 4 = 1 ∧ p.payload.length = 16 ∧ slotOfPid u p.w5.toNat = some i :=
  ⟨bound, 0, mp 1 9 0 0 (leBytes 16 0x1000), 1, by unfold MgmtTakes; decide +kernel, by decide +kernel⟩

theorem witness_RangeCommandsComplete_7 : ∃ (s : State) (h : _) (p : Pkt), MgmtTakes s h { p with opcode := 0xA2 } ∧
      let q : Pkt := { p with opcode := 0xA2 }
      let u := taken s h q
      p.w4.toNat % 4 = 2 ∧ 16 ≤ p.payload.length ∧ p.payload.length % 2 = 0 :=
  ⟨bound, 0, mp 2 9 0 0 (leBytes 16 0x1000), by unfold MgmtTakes; decide +kernel, by decide +kernel⟩

theorem witness_RangeCommandsComplete_8 : ∃ (s : State) (p : Pkt) (mid : _) (pid : _) (pgen : _), FabricTakes s p mid pid pgen
    ∧ ((fun _ p u => (p.w4.toNat % 4 = 1 ∧ (slotOfPid u p.w5.toNat).isSome ∨ p.w4.toNat % 4 = 2)
        ∧ p.payload.length = 16)) (QRef.fabric mid pid pgen) { p with opcode := 0xA2 } s :=
  ⟨bound, ip 2 9 0 0 (leBytes 16 0x1000), 6, 9, 6, ⟨rfl, rfl, rfl⟩, by decide +kernel⟩

theorem witness_RangeCommandsComplete_9 : ∃ (s : State) (id : _) (b : _) (mods : _) (tags : _), findBegun s id = some b
    ∧ b.job = .inval mods tags ∧ mods ≠ [] :=
  ⟨withJob (.inval [6] []), 5, _, [6], [], rfl, rfl, by decide +kernel⟩

theorem witness_RangeCommandsComplete_10 : ∃ (s : State) (sheaf : _) (ctx : _), (getCtx s ctx).st = 1 ∧ sheaf < 36 :=
  ⟨bound, 0, 3, by decide +kernel⟩

theorem witness_RangeCommandsComplete_11 : ∃ (s : State) (h : _) (p : Pkt), MgmtTakes s h { p with opcode := 0xA3 }
    ∧ ((fun _ p _ => p.w6.toNat ≠ 0 ∧ p.w6.toNat ≤ 4194304
        ∧ opA p + p.w6.toNat ≤ 2 ^ 57)) h { p with opcode := 0xA3 } (taken s h { p with opcode := 0xA3 }) :=
  ⟨bound, 0, mp 0x100000 0 64 0 [], by unfold MgmtTakes; decide +kernel, by decide +kernel⟩

theorem witness_RangeCommandsComplete_12 : ∃ (s : State) (h : _) (p : Pkt), MgmtTakes s h { p with opcode := 0xA4 }
    ∧ ((fun _ p u => spanOk p = true ∧ p.payload.length = 8 ∧ numAt p.payload 0 8 % 16 ≤ 3
        ∧ (numAt p.payload 0 8 % 16 ≠ 0 → (tableMet u p.ctx).1 = true))) h { p with opcode := 0xA4 } (taken s h { p with opcode := 0xA4 }) :=
  ⟨bound, 0, mp 0x100000 0 0x1000 0 (leBytes 8 0), by unfold MgmtTakes; decide +kernel, by decide +kernel⟩

theorem witness_RangeCommandsComplete_13 : ∃ (s : State) (h : _) (p : Pkt), MgmtTakes s h { p with opcode := 0xA8 }
    ∧ ((fun _ p u => (bitAt p.w4.toNat 0 = true → p.payload.length = 24 ∧ numAt p.payload 0 8 % 4096 = 0 ∧ numAt p.payload 8 8 % 4096 = 0
          ∧ numAt p.payload 16 8 % 4096 = 0 ∧ numAt p.payload 0 8 + numAt p.payload 16 8 ≤ 2 ^ 56
          ∧ numAt p.payload 8 8 + numAt p.payload 16 8 ≤ 2 ^ 56)
        ∧ u.fe.qps.any (fun e => decide (e.2.st ≠ 0) && e.2.ctx == p.ctx) = false)) h { p with opcode := 0xA8 } (taken s h { p with opcode := 0xA8 }) :=
  ⟨bound, 0, mp 1 0 0 0 (leBytes 8 0x4000000 ++ leBytes 8 0x8000000 ++ leBytes 8 0x1000), by unfold MgmtTakes; decide +kernel,
      by decide +kernel⟩

theorem witness_OwnershipAndFaultsComplete_1 : ∃ (s : State) (h : _) (p : Pkt), MgmtTakes s h { p with opcode := 0xA6 } ∧ ((fun _ p u =>
        let w := p.w4.toNat
        let slot := (getCtx u p.ctx).slot
        let b := (getSlot u slot).brec
        w / 2 ^ 8 % 256 ≠ 0 ∧ p.w6.toNat % 2 ^ 11 ≠ 0 ∧ w / 2 ^ 17 % 4 ≠ 3
        ∧ w % 256 + w / 2 ^ 8 % 256 ≤ (if bitAt w 16 then 36 else 192)
        ∧ p.w5.toNat % 2 ^ 11 + p.w6.toNat % 2 ^ 11 ≤ (if bitAt w 16 then 16 else 1152)
        ∧ (∀ g ∈ ownNamed p, halfOff u (granHalf u g) = false)
        ∧ (∀ g ∈ ownNamed p, (if g.1 then b.cores.any (fun c => sheafOfCore c == g.2 / 16) else b.chans.contains (granChan u g)) = true
            ∧ (getTag u g).st < 2)
        ∧ (∀ g ∈ ownNamed p, if w / 2 ^ 17 % 4 = 2
            then (getTag u g).st = 1 ∧ (getTag u g).slot = slot ∧ ((getTag u g).shared = true ∨ (getTag u g).ctx = p.ctx)
              ∧ (getTag u g).ro = false ∧ (getTag u g).table = false
            else (getTag u g).st = 0))) h { p with opcode := 0xA6 } (taken s h { p with opcode := 0xA6 }) :=
  ⟨bound, 0, mp (2 ^ 8) 20 1 0 [], by unfold MgmtTakes; decide +kernel, by decide +kernel⟩

theorem witness_OwnershipAndFaultsComplete_2 : ∃ (s : State) (id : _) (b : _) (gs : _), findBegun s id = some b ∧ b.job = .own gs
    ∧ reqWaits s (fun r => gs.contains (granOf r.addr)) = false :=
  ⟨withJob (.own [(false, 20)]), 5, _, [(false, 20)], rfl, rfl, by decide +kernel⟩

theorem witness_OwnershipAndFaultsComplete_3 : ∃ (s : State) (h : _) (p : Pkt), MgmtTakes s h { p with opcode := 0xA7 }
    ∧ ((fun _ p u => ∃ e, fqGet u (p.w4.toNat % 256) = some e
        ∧ e.seq = p.w5)) h { p with opcode := 0xA7 } (taken s h { p with opcode := 0xA7 }) :=
  ⟨{ bound with xlt := { bound.xlt with fq := [(0, some { slot := 1, ctx := 3, cause := 1, blk := 0, seq := 9, record := frec, faulters := [] })] } }, 0, mp 0 9 0 0 [], by unfold MgmtTakes; decide +kernel, _, rfl, rfl⟩

theorem witness_OwnershipAndFaultsComplete_4 : ∃ (s : State) (h : _) (p : Pkt), MgmtTakes s h { p with opcode := 0xA7 }
    ∧ ((fun _ p u => ∀ e,
        fqGet u (p.w4.toNat % 256) = some e → e.seq ≠ p.w5)) h { p with opcode := 0xA7 } (taken s h { p with opcode := 0xA7 }) :=
  ⟨bound, 0, mp 0 9 0 0 [], by unfold MgmtTakes; decide +kernel, by
    intro e h
    rw [show fqGet _ _ = none from by decide +kernel] at h
    exact absurd h (by simp)⟩

theorem witness_PartitionCommandsComplete_1 : ∃ (s : State) (h : _) (p : Pkt), MgmtTakes s h { p with opcode := 0x88 } ∧ ((fun _ p u =>
        let r := recOfBytes p.payload
        p.payload.length = 192 ∧ r.pid ≠ 0 ∧ slotOfPid u r.pid = none ∧ (getSlot u r.slot).st = 0 ∧ u.sec.lc ≠ 0 ∧ u.sec.lc ≠ 5
        ∧ (r.conf = true → u.sec.trngOk = true))) h { p with opcode := 0x88 } (taken s h { p with opcode := 0x88 }) :=
  ⟨bound, 0, mp 0 0 0 0 (bytesOfRec { rec9 with pid := 10, slot := 2 }), by unfold MgmtTakes; decide +kernel, by decide +kernel⟩

theorem witness_PartitionCommandsComplete_2 : ∃ (s : State) (h : _) (p : Pkt), MgmtTakes s h { p with opcode := 0x89 } ∧ ((fun _ p u =>
        let seg := fld p.w5.toNat 0 2
        let first := fld p.w6.toNat 0 16
        let n := p.payload.length
        (∃ i, slotOfPid u p.w4.toNat = some i ∧ (getSlot u i).st ≠ 5)
        ∧ ((seg = 0 ∧ n = 192) ∨ (seg = 1 ∧ n ≠ 0 ∧ n % 8 = 0 ∧ first + n / 8 ≤ 2176)
          ∨ (seg = 2 ∧ n ≠ 0 ∧ n % 8 = 0 ∧ first + n / 8 ≤ 32768))
              ∧ bitAt p.w5.toNat 2 = false)) h { p with opcode := 0x89 } (taken s h { p with opcode := 0x89 }) :=
  ⟨bound, 0, mp 9 0 0 0 (bytesOfRec rec9), by unfold MgmtTakes; decide +kernel, ⟨1, by decide +kernel⟩, by decide +kernel,
      by decide +kernel⟩

theorem witness_PartitionCommandsComplete_3 : ∃ (s : State) (h : _) (p : Pkt) (i : _) (r : _) (lm : _) (rt : _),
    MgmtTakes s h { p with opcode := 0x89 } ∧
      let P : Pkt := { p with opcode := 0x89 }
      let u := taken s h P
      let seg := fld p.w5.toNat 0 2
      let first := fld p.w6.toNat 0 16
      let n := p.payload.length
      slotOfPid u p.w4.toNat = some i ∧ (getSlot u i).st ≠ 5 ∧
      ((seg = 0 ∧ n = 192) ∨ (seg = 1 ∧ n ≠ 0 ∧ n % 8 = 0 ∧ first + n / 8 ≤ 2176)
        ∨ (seg = 2 ∧ n ≠ 0 ∧ n % 8 = 0 ∧ first + n / 8 ≤ 32768)) ∧
      bitAt p.w5.toNat 2 = true ∧ rebinding u i = false ∧
      bindCheck u i (stageSeg (getSlot u i).staged seg first p.payload) = .ok (r, lm, rt) :=
  ⟨withSlot1 (fun x => { x with staged := { lmap := [(0, (0, some 0, 0)), (1, (1, some 0, 1)), (2, (2, some 1, 0)), (3, (3, some 1, 1))], rtab := [(0, ⟨0, 5⟩)] } }), 0, mp 9 4 0 0 (bytesOfRec rec9), 1, rec9, slot9.lmap, slot9.rtab, by unfold MgmtTakes; decide +kernel, by decide +kernel, (by decide +kernel), by (decide +kernel), by decide +kernel, by (decide +kernel), except_ok (by decide +kernel)⟩

theorem witness_PartitionCommandsComplete_4 : ∃ (s : State) (h : _) (p : Pkt), MgmtTakes s h { p with opcode := 0x8B }
    ∧ ((fun _ p u => ∃ i, slotOfPid u p.w4.toNat = some i
        ∧ (getSlot u i).st ≠ 5)) h { p with opcode := 0x8B } (taken s h { p with opcode := 0x8B }) :=
  ⟨bound, 0, mp 9 0 0 0 [], by unfold MgmtTakes; decide +kernel, 1, by decide +kernel⟩

theorem witness_PartitionCommandsComplete_5 : ∃ (s : State) (h : _) (p : Pkt), MgmtTakes s h { p with opcode := 0x90 }
    ∧ ((fun _ p u => ∃ i, slotOfPid u p.w4.toNat = some i)) h { p with opcode := 0x90 } (taken s h { p with opcode := 0x90 }) :=
  ⟨bound, 0, mp 9 0 0 0 [], by unfold MgmtTakes; decide +kernel, 1, by decide +kernel⟩

theorem witness_PartitionCommandsComplete_6 : ∃ (s : State) (h : _) (p : Pkt), MgmtTakes s h { p with opcode := 0x8C } ∧ ((fun _ p u =>
        let ctx := fld p.w4.toNat 0 10
        (getCtx u ctx).st = 0 ∧ ∃ i, slotOfPid u p.w5.toNat = some i ∧ (getSlot u i).st ≠ 5
          ∧ ((getSlot u i).brec.conf = true → liveCount u i < (getSlot u i).brec.cores.length))) h { p with opcode := 0x8C } (taken s h { p with opcode := 0x8C }) :=
  ⟨bound, 0, mp 4 9 0 0 [], by unfold MgmtTakes; decide +kernel, by decide +kernel, 1, by decide +kernel⟩

theorem witness_PartitionCommandsComplete_7 : ∃ (s : State) (h : _) (p : Pkt), MgmtTakes s h { p with opcode := 0x8D } ∧ ((fun _ p u =>
        let c := getCtx u (fld p.w4.toNat 0 10)
        (c.st = 1 ∨ c.st = 2) ∧ slotOfPid u p.w5.toNat = some c.slot
            ∧ (getSlot u c.slot).st ≠ 5)) h { p with opcode := 0x8D } (taken s h { p with opcode := 0x8D }) :=
  ⟨bound, 0, mp 3 9 0 0 [], by unfold MgmtTakes; decide +kernel, by decide +kernel⟩

theorem witness_PartitionCommandsComplete_8 : ∃ (s : State) (h : _) (p : Pkt), MgmtTakes s h { p with opcode := 0x8E } ∧ ((fun _ p u =>
        let n := fld p.w4.toNat 0 12
        let c := getCtx u (fld p.w5.toNat 0 10)
        n ≠ 0 ∧ (getQp u n).st = 0 ∧ c.st = 1
            ∧ (fld p.w7.toNat 1 3 = 7 → (getSlot u c.slot).brec.class7 = true))) h { p with opcode := 0x8E } (taken s h { p with opcode := 0x8E }) :=
  ⟨bound, 0, mp 8 3 0 2 [], by unfold MgmtTakes; decide +kernel, by decide +kernel⟩

theorem witness_PartitionCommandsComplete_9 : ∃ (s : State) (h : _) (p : Pkt), MgmtTakes s h { p with opcode := 0x8F } ∧ ((fun _ p u =>
        let n := fld p.w4.toNat 0 12
        n ≠ 0 ∧ (getQp u n).st ≠ 0
            ∧ u.fe.begun.any (fun b => b.job == .unbind n) = false)) h { p with opcode := 0x8F } (taken s h { p with opcode := 0x8F }) :=
  ⟨withQp qp8, 0, mp 8 0 0 0 [], by unfold MgmtTakes; decide +kernel, by decide +kernel⟩

theorem witness_RebindCommandsComplete_1 : ∃ (s : State) (h : _) (p : Pkt), MgmtTakes s h (((fun p => rebindPkt p 1)) p)
    ∧ ((fun _ p u => ∃ i, Rebinds u p 1 i ∧ coldUnits u (mapBits p.payload 576) [] = false
        ∧ (mapBits p.payload 576).any (fun c => (getSlot u i).brec.cores.contains c) = false
        ∧ resourcesOk u i ((getSlot u i).brec.cores ++ mapBits p.payload 576)
            (getSlot u i).brec.chans = true)) h (((fun p => rebindPkt p 1)) p) (taken s h (((fun p => rebindPkt p 1)) p)) :=
  ⟨bound, 0, mp 9 0 0 0 (bitsMap [5] 72), by unfold MgmtTakes; decide +kernel, 1, by unfold Rebinds; decide +kernel, by decide +kernel⟩

theorem witness_RebindCommandsComplete_2 : ∃ (s : State) (h : _) (p : Pkt), MgmtTakes s h (((fun p => rebindPkt p 2)) p)
    ∧ ((fun _ p u => ∃ i, Rebinds u p 2 i ∧ (mapBits p.payload 576).any (fun c => !(getSlot u i).brec.cores.contains c) = false
        ∧ (mapBits p.payload 576).any (hostsLc u i) = false
        ∧ ownsStore u i ((getSlot u i).brec.cores.filter (fun c => !(mapBits p.payload 576).contains c)) = false
        ∧ ((getSlot u i).brec.conf = true → liveCount u i ≤ (getSlot u i).brec.cores.length - (mapBits p.payload 576).length))) h (((fun p => rebindPkt p 2)) p) (taken s h (((fun p => rebindPkt p 2)) p)) :=
  ⟨shared id, 0, mp 9 0 0 0 (bitsMap [1] 72), by unfold MgmtTakes; decide +kernel, 1, by unfold Rebinds; decide +kernel,
      by decide +kernel⟩

theorem witness_RebindCommandsComplete_3 : ∃ (s : State) (h : _) (p : Pkt), MgmtTakes s h (((fun p => rebindPkt p 3)) p)
    ∧ ((fun _ p u => ∃ i, Rebinds u p 3 i ∧ coldUnits u [] (mapBits p.payload 192) = false
        ∧ (mapBits p.payload 192).any (fun c => (getSlot u i).brec.chans.contains c) = false
        ∧ resourcesOk u i (getSlot u i).brec.cores ((getSlot u i).brec.chans ++ mapBits p.payload 192) = true)) h (((fun p => rebindPkt p 3)) p) (taken s h (((fun p => rebindPkt p 3)) p)) :=
  ⟨bound, 0, mp 9 0 0 0 (bitsMap [5] 24), by unfold MgmtTakes; decide +kernel, 1, by unfold Rebinds; decide +kernel, by decide +kernel⟩

theorem witness_RebindCommandsComplete_4 : ∃ (s : State) (h : _) (p : Pkt), MgmtTakes s h (((fun p => rebindPkt p 4)) p)
    ∧ ((fun _ p u => ∃ i, Rebinds u p 4 i ∧ (mapBits p.payload 192).any (fun c => !(getSlot u i).brec.chans.contains c) = false
        ∧ (mapBits p.payload 192).any (fun n => ownsOn u i n || u.mem.migr.any (fun m => m.src == n || m.dst == n)) = false)) h (((fun p => rebindPkt p 4)) p) (taken s h (((fun p => rebindPkt p 4)) p)) :=
  ⟨bound, 0, mp 9 0 0 0 (bitsMap [1] 24), by unfold MgmtTakes; decide +kernel, 1, by unfold Rebinds; decide +kernel, by decide +kernel⟩

theorem witness_RebindCommandsComplete_5 : ∃ (s : State) (h : _) (p : Pkt), MgmtTakes s h (((fun p => rebindPkt p 5)) p)
    ∧ ((fun _ p u => ∃ i, Rebinds u p 5 i
        ∧ shareTotal u (fld p.w6.toNat 0 5) i (fld p.w6.toNat 8 8) ≤ 256)) h (((fun p => rebindPkt p 5)) p)
        (taken s h (((fun p => rebindPkt p 5)) p)) :=
  ⟨bound, 0, mp 9 0 (3 + 64 * 2 ^ 8) 0 [], by unfold MgmtTakes; decide +kernel, 1, by unfold Rebinds; decide +kernel, by decide +kernel⟩

theorem witness_RebindCommandsComplete_7 : ∃ (s : State) (h : _) (p : Pkt), MgmtTakes s h (((fun p => rebindPkt p 6)) p) ∧ ((fun _ p u =>
        let lcid := fld p.w6.toNat 0 24
        ∃ i e, Rebinds u p 6 i ∧ hostOf (getSlot u i) lcid = some (ownModule u) ∧ lmapOf (getSlot u i) lcid = some e
          ∧ movingOf u i lcid = none ∧ (u.part.moving.filter (fun m => m.id.isSome)).length < 16
          ∧ (fld p.w7.toNat 0 14 = ownModule u →
            placeCheck u i (coreOfId (fld p.w7.toNat 16 10)) (fld p.w7.toNat 26 2)
              (if coreOfId (fld p.w7.toNat 16 10) = some e.core then 0 else unitsOfLc u i lcid) = none))) h (((fun p => rebindPkt p 6)) p) (taken s h (((fun p => rebindPkt p 6)) p)) :=
  ⟨shared id, 0, mp 9 0 0 6 [], by unfold MgmtTakes; decide +kernel, 1, ⟨0, 0, 0⟩, by unfold Rebinds; decide +kernel, by decide +kernel,
      (by decide +kernel), by (decide +kernel), by decide +kernel, fun h => absurd h (by decide +kernel)⟩

theorem witness_RebindCommandsComplete_8 : ∃ (s : State) (slot : _) (lcid : _) (m : _), movingOf s slot lcid = some m ∧ m.st = 1 :=
  ⟨withMoving (shared id) { moving0 with st := 1 }, 1, 0, _, rfl, rfl⟩

theorem witness_RebindCommandsComplete_9 : ∃ (s : State) (h : _) (p : Pkt), MgmtTakes s h (((fun p => rebindPkt p 7)) p) ∧ ((fun _ p u =>
        let src := fld p.w6.toNat 0 8
        let dst := fld p.w6.toNat 8 8
        ∃ i, Rebinds u p 7 i ∧ dst < 192 ∧ chanReady u dst = true ∧ holderOfChan u dst = none
          ∧ (getSlot u i).brec.chans.contains src = true
              ∧ u.mem.migr.any (fun m => m.src == src || m.dst == src) = false)) h (((fun p => rebindPkt p 7)) p)
                  (taken s h (((fun p => rebindPkt p 7)) p)) :=
  ⟨bound, 0, mp 9 0 (5 * 2 ^ 8) 0 [], by unfold MgmtTakes; decide +kernel, 1, by unfold Rebinds; decide +kernel, by decide +kernel⟩

theorem witness_RebindCommandsComplete_10 : ∃ (s : State) (chan : _) (m : _),
    s.mem.migr.find? (fun m => m.src == chan && !m.drained) = some m :=
  ⟨{ bound with mem := { bound.mem with migr := [{ slot := 1, src := 0, dst := 5, id := some 5, drained := false }] } }, 0, _, rfl⟩

theorem witness_RebindCommandsComplete_11 : ∃ (s : State) (chan : _) (m : _),
    s.mem.migr.find? (fun m => m.src == chan && m.drained) = some m :=
  ⟨{ bound with mem := { bound.mem with migr := [{ slot := 1, src := 0, dst := 5, id := some 5, drained := true }] } }, 0, _, rfl⟩

theorem witness_RebindCommandsComplete_12 : ∃ (s : State) (h : _) (p : Pkt), MgmtTakes s h (((fun p => rebindPkt p 8)) p)
    ∧ ((fun _ p u => ∃ i, Rebinds u p 8 i ∧ (p.w6 - (getSlot u i).pgen).toNat ≠ 0
        ∧ (p.w6 - (getSlot u i).pgen).toNat < 2 ^ 31)) h (((fun p => rebindPkt p 8)) p) (taken s h (((fun p => rebindPkt p 8)) p)) :=
  ⟨bound, 0, mp 9 0 7 0 [], by unfold MgmtTakes; decide +kernel, 1, by unfold Rebinds; decide +kernel, by decide +kernel⟩

theorem witness_RebindCommandsComplete_13 : ∃ (s : State) (h : _) (p : Pkt), MgmtTakes s h (((fun p => rebindPkt p 9)) p)
    ∧ ((fun _ p u => ∃ i, Rebinds u p 9 i)) h (((fun p => rebindPkt p 9)) p) (taken s h (((fun p => rebindPkt p 9)) p)) :=
  ⟨bound, 0, mp 9 0 0 0 [], by unfold MgmtTakes; decide +kernel, 1, by unfold Rebinds; decide +kernel⟩

theorem witness_HandoffCommandsComplete_1 : ∃ (s : State) (p : Pkt) (mid : _) (pid : _) (pgen : _) (slot : _),
    HandTakes s p mid pid pgen slot ∧
      let P : Pkt := { p with opcode := 0x91 }
      let lcid := fld p.w5.toNat 0 24
      let r := ownRec s slot lcid
      let e := (getSlot s slot).epochCtr + 1
      leadFor s slot = ownModule s ∧ actPending s slot lcid = none ∧ epochOpen r = false ∧ r.owner = mid ∧
      (hostOf (getSlot s slot) lcid).isSome = true :=
  ⟨shared id, ip 9 2 0 0 [], 6, 9, 6, 1, ⟨⟨rfl, rfl, rfl⟩, by decide +kernel, by decide +kernel⟩, by decide +kernel⟩

theorem witness_HandoffCommandsComplete_2 : ∃ (s : State) (p : Pkt) (mid : _) (pid : _) (pgen : _) (slot : _),
    HandTakes s p mid pid pgen slot ∧
      let lcid := fld p.w5.toNat 0 24
      let core := coreOfId (numAt p.payload 0 4)
      p.payload.length = 8192 ∧ p.qpn = 0 ∧ offerOf s slot lcid (opB p) = none ∧
      placeCheck s slot core (numAt p.payload 4 4) (numAt p.payload 8 4) = none :=
  ⟨shared id, ip 9 2 1 0 (leBytes 4 (idOfCore 1) ++ leBytes 4 0 ++ leBytes 4 1 ++ List.replicate 8180 0), 6, 9, 6, 1, ⟨⟨rfl, rfl, rfl⟩,
      by decide +kernel, by decide +kernel⟩, by decide +kernel⟩

theorem witness_HandoffCommandsComplete_3 : ∃ (s : State) (p : Pkt) (mid : _) (pid : _) (pgen : _) (slot : _) (o : _),
    HandTakes s p mid pid pgen slot ∧
      let lcid := fld p.w5.toNat 0 24
      offerOf s slot lcid (opB p) = some o ∧ o.good = false ∧ o.data.length = 8192 * p.qpn ∧ p.payload.length < 8192 ∧
      let d := o.data ++ p.payload
      let n := d.length - 32
      32 ≤ d.length ∧ shake256 (d.take n) 32 = d.drop n :=
  ⟨{ shared id with part := { (shared id).part with offers := [offer0] } }, handPkt, 6, 9, 6, 1, offer0, ⟨⟨rfl, rfl, rfl⟩,
      by decide +kernel, by decide +kernel⟩, by decide +kernel, rfl, rfl, by simp [handPkt, ip, mp, length_handed8],
          handed_digest (leBytes 8 1) handed8 length_handed8 handed8_eq⟩

theorem witness_HandoffCommandsComplete_4 : ∃ (s : State) (p : Pkt) (mid : _) (pid : _) (pgen : _) (slot : _),
    HandTakes s p mid pid pgen slot ∧
      let P : Pkt := { p with opcode := 0x93 }
      let lcid := fld p.w5.toNat 0 24
      let r := ownRec s slot lcid
      leadFor s slot = ownModule s ∧ actPending s slot lcid = none ∧ r.epoch = opB p ∧ r.st = .opened :=
  ⟨shared (opened .opened), ip 9 2 1 0 [], 6, 9, 6, 1, ⟨⟨rfl, rfl, rfl⟩, by decide +kernel, by decide +kernel⟩, by decide +kernel⟩

theorem witness_HandoffCommandsComplete_5 : ∃ (s : State) (p : Pkt) (mid : _) (pid : _) (pgen : _) (slot : _) (m : _),
    HandTakes s p mid pid pgen slot ∧
      let lcid := fld p.w5.toNat 0 24
      leadFor s slot ≠ ownModule s ∧ movingOf s slot lcid = some m ∧ m.st = 11 ∧ m.epoch = opB p ∧ m.dstMod = mid :=
  ⟨withMoving (shared led6) moving0, ip 9 0 1 0 [], 6, 9, 6, 1, moving0, ⟨⟨rfl, rfl, rfl⟩, by decide +kernel, by decide +kernel⟩,
      by decide +kernel⟩

theorem witness_HandoffCommandsComplete_6 : ∃ (s : State) (p : Pkt) (mid : _) (pid : _) (pgen : _) (slot : _),
    HandTakes s p mid pid pgen slot ∧
      let P : Pkt := { p with opcode := 0x94 }
      let lcid := fld p.w5.toNat 0 24
      let r := ownRec s slot lcid
      leadFor s slot = ownModule s ∧ actPending s slot lcid = none ∧ r.epoch = opB p ∧ r.st = .accepted :=
  ⟨shared (opened .accepted), ip 9 2 1 0 [], 6, 9, 6, 1, ⟨⟨rfl, rfl, rfl⟩, by decide +kernel, by decide +kernel⟩, by decide +kernel⟩

theorem witness_HandoffCommandsComplete_7 : ∃ (s : State) (p : Pkt) (mid : _) (pid : _) (pgen : _) (slot : _),
    HandTakes s p mid pid pgen slot ∧ leadFor s slot ≠ ownModule s ∧ mid = leadFor s slot :=
  ⟨shared led6, ip 9 2 1 0 [], 6, 9, 6, 1, ⟨⟨rfl, rfl, rfl⟩, by decide +kernel, by decide +kernel⟩, by decide +kernel⟩

theorem witness_HandoffCommandsComplete_8 : ∃ (s : State) (p : Pkt) (mid : _) (pid : _) (pgen : _) (slot : _),
    HandTakes s p mid pid pgen slot ∧
      let P : Pkt := { p with opcode := 0x95 }
      let lcid := fld p.w5.toNat 0 24
      let r := ownRec s slot lcid
      leadFor s slot = ownModule s ∧ actPending s slot lcid = none ∧ r.epoch = opB p ∧ epochOpen r = true :=
  ⟨shared (opened .opened), ip 9 2 1 0 [], 6, 9, 6, 1, ⟨⟨rfl, rfl, rfl⟩, by decide +kernel, by decide +kernel⟩, by decide +kernel⟩

theorem witness_HandoffCommandsComplete_9 : ∃ (s : State) (p : Pkt) (mid : _) (pid : _) (pgen : _) (slot : _),
    HandTakes s p mid pid pgen slot ∧ leadFor s slot ≠ ownModule s ∧ mid = leadFor s slot :=
  ⟨shared led6, ip 9 2 1 0 [], 6, 9, 6, 1, ⟨⟨rfl, rfl, rfl⟩, by decide +kernel, by decide +kernel⟩, by decide +kernel⟩

theorem witness_HandoffCommandsComplete_10 : ∃ (s : State) (p : Pkt) (mid : _) (pid : _) (pgen : _) (slot : _),
    HandTakes s p mid pid pgen slot ∧
      let lcid := fld p.w5.toNat 0 24
      let r := ownRec s slot lcid
      leadFor s slot = ownModule s ∧ actPending s slot lcid = none :=
  ⟨shared id, ip 9 2 1 0 [], 6, 9, 6, 1, ⟨⟨rfl, rfl, rfl⟩, by decide +kernel, by decide +kernel⟩, by decide +kernel⟩

theorem witness_HandoffCommandsComplete_11 : ∃ (s : State) (slot : _) (lcid : _) (m : _),
    movingOf (resendOthers s slot lcid) slot lcid = some m ∧ m.st = 11 ∧ m.tries < 4 :=
  ⟨withMoving (shared id) moving0, 1, 0, moving0, by decide +kernel⟩

theorem witness_HandoffCommandsComplete_12 : ∃ (s : State) (u : _), actPending s u.slot u.lcid = none ∧ s.part.offers = []
    ∧ s.part.tells = [u] ∧ u.tries < 4 ∧
      let v := sendHand { s with part := { s.part with tells := [{ u with tries := u.tries + 1 }] } } u.mid u.op u.slot u.lcid u.epoch 0 []
      movingOf v u.slot u.lcid = none ∧ v.part.offers = [] :=
  let u : LeadTell := { slot := 1, lcid := 2, epoch := 1, op := 0x91, mid := 6 }
  ⟨{ shared id with part := { (shared id).part with tells := [u] } }, u, by decide +kernel⟩

theorem witness_HandoffCommandsComplete_13 : ∃ (s : State) (slot : _) (lcid : _), (ownRec s slot lcid).st = .opened
    ∧ (getSlot s slot).brec.lead = ownModule s :=
  ⟨shared (opened .opened), 1, 2, by decide +kernel⟩

theorem witness_HandoffCommandsComplete_14 : ∃ (s : State) (slot : _) (lcid : _) (m : _), movingOf s slot lcid = some m
    ∧ (m.st = 11 ∨ m.st = 13 ∨ m.st = 14) :=
  ⟨withMoving (shared id) moving0, 1, 0, moving0, by decide +kernel⟩

theorem witness_HandoffCommandsComplete_15 : ∃ (s : State) (slot : _) (first : _) (mid : _), (getSlot s slot).bound = true
    ∧ first < (getSlot s slot).brec.lcount ∧ mid < 2 ^ 14 :=
  ⟨shared id, 1, 2, 6, by decide +kernel⟩

theorem witness_HandoffCommandsComplete_16 : ∃ (s : State) (slot : _) (lcid : _) (f : _) (m : _),
    s.part.flushes.find? (fun f => f.slot == slot && f.lcid == lcid) = some f ∧
      hostOf (getSlot s slot) lcid = some m :=
  ⟨{ shared id with part := { (shared id).part with flushes := [{ slot := 1, lcid := 0 }] } }, 1, 0, _, 5, rfl, rfl⟩

theorem witness_GranaryCommandsComplete_1 : ∃ (s : State) (h : _) (p : Pkt), MgmtTakes s h { p with opcode := 0x97 }
    ∧ ((fun _ p u => p.payload.length = 48 ∧ numAt p.payload 0 8 ≠ 0 ∧ numAt p.payload 40 4 ≤ 1
        ∧ ∃ i x, slotOfPid u p.w6.toNat = some i ∧ (getSlot u i).st ≠ 5 ∧ imageOf u i (opA p) = some x
            ∧ x.st = 1)) h { p with opcode := 0x97 } (taken s h { p with opcode := 0x97 }) :=
  ⟨withImage0 image0, 0, mp 7 0 9 0 (leBytes 8 8 ++ List.replicate 40 0), by unfold MgmtTakes; decide +kernel, by decide +kernel,
      (by decide +kernel), by (decide +kernel), 1, image0, by decide +kernel⟩

theorem witness_GranaryCommandsComplete_2 : ∃ (s : State) (h : _) (p : Pkt) (i : _) (l : _), MgmtTakes s h { p with opcode := 0x97 } ∧
      let P : Pkt := { p with opcode := 0x97 }
      let u := taken s h P
      let size := numAt p.payload 0 8
      let n := ceilDiv size granSpan
      let b := (getSlot u i).brec
      p.payload.length = 48 ∧ size ≠ 0 ∧ slotOfPid u p.w6.toNat = some i ∧ (getSlot u i).st ≠ 5 ∧ imageOf u i (opA p) = none ∧
      evictPlan n b.granary (evictable u i) (granaryUsed u i) (freeHbm u i).length (getSlot u i).images.length = some l :=
  ⟨withImage0 image0, 0, mp 8 0 9 0 (leBytes 8 8 ++ List.replicate 40 0), 1, _, by unfold MgmtTakes; decide +kernel, by decide +kernel,
      (by decide +kernel), by (decide +kernel), by decide +kernel, by (decide +kernel), opt_ok (by decide +kernel)⟩

theorem witness_GranaryCommandsComplete_3 : ∃ (s : State) (h : _) (p : Pkt) (i : _) (x : _) (l : _) (u' : _),
    MgmtTakes s h { p with opcode := 0x98 } ∧
      let P : Pkt := { p with opcode := 0x98 }
      let u := taken s h P
      p.payload = [] ∧ slotOfPid u p.w6.toNat = some i ∧ imageOf u i (opA p) = some x ∧ x.st = 0 ∧ x.host = true ∧
      imageBytes x.granules x.size [] u = (some l, u') ∧ shake256 l 32 = x.digest :=
  ⟨withImage0 (loading zeros8 true none), 0, sealPkt, 1, loading zeros8 true none, _, _, by unfold MgmtTakes; decide +kernel, rfl,
      by decide +kernel, seal_image _, rfl, rfl, seal_bytes _, seal_digest _ rfl⟩

theorem witness_GranaryCommandsComplete_4 : ∃ (s : State) (h : _) (p : Pkt) (i : _) (x : _), MgmtTakes s h { p with opcode := 0x99 } ∧
      let P : Pkt := { p with opcode := 0x99 }
      let u := taken s h P
      p.payload = [] ∧ slotOfPid u p.w6.toNat = some i ∧ imageOf u i (opA p) = some x ∧ x.st ≠ 0 :=
  ⟨withImage0 image0, 0, mp 7 0 9 0 [], 1, image0, by unfold MgmtTakes; decide +kernel, by decide +kernel⟩

theorem witness_GranaryCommandsComplete_5 : ∃ (s : State) (h : _) (p : Pkt) (i : _) (x : _), MgmtTakes s h { p with opcode := 0x9A } ∧
      let P : Pkt := { p with opcode := 0x9A }
      let u := taken s h P
      p.payload = [] ∧ slotOfPid u p.w6.toNat = some i ∧ imageOf u i (opA p) = some x ∧ x.st ≠ 0 ∧ x.pins = 0 ∧ x.maps = 0 :=
  ⟨withImage0 image0, 0, mp 7 0 9 0 [], 1, image0, by unfold MgmtTakes; decide +kernel, by decide +kernel⟩

theorem witness_GranaryCommandsComplete_6 : ∃ (s : State) (slot : _) (model : _) (data : _) (x : _) (id : _) (b : _) (l : _) (v : _),
    pulling s slot model = some x ∧ x.id = some id ∧
      imageBytes x.granules x.size [] (writeImage s x data) = (some l, v) ∧ shake256 l 32 = x.digest ∧
      let w := x.granules.foldl (fun s k => setTag s (false, k) { getTag s (false, k) with ro := true }) v
      let t := setImage w slot { x with st := 1, used := w.dev.now, id := none }
      findBegun t id = some b :=
  let x : Image := loading zeros8 false (some 5)
  ⟨pulled, 1, 7, [], x, 5, begun (.pull 1 7), _, _, rfl, rfl, pull_bytes _ rfl, seal_digest _ rfl, by intro w t; rfl⟩

theorem witness_GranaryCommandsComplete_7 : ∃ (s : State) (slot : _) (model : _) (x : _) (id : _), pulling s slot model = some x
    ∧ x.id = some id :=
  let x : Image := { image0 with st := 0, host := false, id := some 5 }
  ⟨withImage0 x, 1, 7, x, 5, by decide +kernel⟩

theorem witness_TeardownCommandsComplete_1 : ∃ (s : State) (ctx : _) (d : _), (getCtx s ctx).down = some d ∧ d.step = 0 :=
  ⟨withDown 2 0, 3, _, rfl, rfl⟩

theorem witness_TeardownCommandsComplete_2 : ∃ (s : State) (ctx : _) (d : _), (getCtx s ctx).down = some d ∧ d.step = 1 :=
  ⟨withDown 2 1, 3, _, rfl, rfl⟩

theorem witness_TeardownCommandsComplete_3 : ∃ (s : State) (ctx : _) (d : _), (getCtx s ctx).down = some d ∧ (getCtx s ctx).st = 3
    ∧ d.step = 2 :=
  ⟨withDown 3 2, 3, _, rfl, rfl, rfl⟩

theorem witness_TeardownCommandsComplete_4 : ∃ (s : State) (ctx : _) (mid : _) (n : _),
    s.part.notices.find? (fun n => n.ctx == ctx && n.mid == mid) = some n :=
  ⟨{ bound with part := { bound.part with notices := [{ ctx := 3, mid := 6, tries := 0, seq := 0 }] } }, 3, 6, _, rfl⟩

theorem witness_TeardownCommandsComplete_5 : ∃ (s : State) (mid : _), portsTo s mid ≠ []
    ∧ (portsTo s mid).all (fun q => (getPort s q).st == 3 || (getPort s q).st == 2) = true :=
  ⟨withPort { st := 3, cfg := 6 + 2 ^ 19 + 2 ^ 21 }, 6, by decide +kernel⟩

theorem witness_KexCommandsComplete_1 (h : Config.xmssVerify (List.replicate 32 0) (leBytes 4 0x56430001 ++ List.replicate 92 0)
    (List.replicate 2820 0) = true) : ∃ (s : State) (p : Pkt) (mid : _) (pid : _) (pgen : _) (i : _),
        FabricTakes s (kexRow p 0) mid pid pgen ∧
      let q : QRef := .fabric mid pid pgen
      let pl := (kexRow p 0).payload
      idExhausted s = false ∧ pl.length = 3048 ∧ kexGate s mid pl = .ok i ∧ kexIni pl = mid ∧ kexRsp pl = ownModule s ∧
      chainOk s (sliceZ pl 32 68) (sliceZ pl 100 2948) = true :=
  ⟨confed, chainPkt, 6, 9, 6, 1, ⟨rfl, rfl, rfl⟩, by decide +kernel, by decide +kernel, except_ok (by decide +kernel), by decide +kernel,
      by decide +kernel, by
    have e : sliceZ (sliceZ (kexRow chainPkt 0).payload 100 2948) 0x60 32 = List.replicate 32 0
        ∧ sliceZ (sliceZ (kexRow chainPkt 0).payload 100 2948) 0 0x60 = leBytes 4 0x56430001 ++ List.replicate 92 0
        ∧ sliceZ (sliceZ (kexRow chainPkt 0).payload 100 2948) 0x80 2820 = List.replicate 2820 0 := by decide +kernel
    unfold chainOk
    simp only [e.1, e.2.1, e.2.2, h]
    decide +kernel⟩

theorem witness_KexCommandsComplete_5 : ∃ (s : State) (slot : _) (peer : _) (x : _) (i : _),
    s.fab.kex.find? (fun x => x.slot == slot && x.peer == peer && x.initiator && x.st == 4) = some x ∧
      freeKeyix s slot peer = some i :=
  ⟨withKex kex0, 1, 6, kex0, _, rfl, opt_ok (by decide +kernel)⟩

theorem witness_KexCommandsComplete_6 : ∃ (s : State) (slot : _) (peer : _) (x : _),
    s.fab.kex.find? (fun x => x.slot == slot && x.peer == peer && x.initiator && !x.held.isEmpty) = some x :=
  ⟨withKex kex0, 1, 6, kex0, rfl⟩

theorem witness_SecurityCommandsComplete_1 (h : Config.xmssVerify (keyUpdOf (updRow (updPkt ownerBody) 0).payload).kid (keyUpdOf (updRow (updPkt ownerBody) 0).payload).msg
      (keyUpdOf (updRow (updPkt ownerBody) 0).payload).sig = true) : ∃ (s : State) (h : _) (p : Pkt),
          MgmtTakes s h (((fun p => updRow p 0)) p)
              ∧ ((fun _ p u => updCheck u p (keyUpdOf p.payload) = none)) h (((fun p => updRow p 0)) p)
              (taken s h (((fun p => updRow p 0)) p)) :=
  ⟨{ keyed 1 with part := up.part }, 0, { updPkt ownerBody with ctx := 0, gen := 0 }, by unfold MgmtTakes; decide +kernel,
      upd_none h (by decide +kernel) (by decide +kernel) (by decide +kernel) (by decide +kernel) (by decide +kernel)⟩

theorem witness_SecurityCommandsComplete_6 (h : Config.xmssVerify (keyUpdOf (updRow (updPkt []) 5).payload).kid (keyUpdOf (updRow (updPkt []) 5).payload).msg
      (keyUpdOf (updRow (updPkt []) 5).payload).sig = true) : ∃ (s : State) (h : _) (p : Pkt),
          MgmtTakes s h (((fun p => updRow p 5)) p)
              ∧ ((fun _ p u => updCheck u p (keyUpdOf p.payload) = none)) h (((fun p => updRow p 5)) p)
              (taken s h (((fun p => updRow p 5)) p)) :=
  ⟨{ keyed 4 with part := up.part }, 0, { updPkt [] with ctx := 0, gen := 0 }, by unfold MgmtTakes; decide +kernel,
      upd_none h (by decide +kernel) (by decide +kernel) (by decide +kernel) (by decide +kernel) (by decide +kernel)⟩

theorem witness_SecurityCommandsComplete_7 (h : Config.xmssVerify (keyUpdOf (updRow (updPkt []) 6).payload).kid (keyUpdOf (updRow (updPkt []) 6).payload).msg
      (keyUpdOf (updRow (updPkt []) 6).payload).sig = true) : ∃ (s : State) (h : _) (p : Pkt),
          MgmtTakes s h (((fun p => updRow p 6)) p)
              ∧ ((fun _ p u => updCheck u p (keyUpdOf p.payload) = none)) h (((fun p => updRow p 6)) p)
              (taken s h (((fun p => updRow p 6)) p)) :=
  ⟨{ keyed 1 with part := up.part }, 0, { updPkt [] with ctx := 0, gen := 0 }, by unfold MgmtTakes; decide +kernel,
      upd_none h (by decide +kernel) (by decide +kernel) (by decide +kernel) (by decide +kernel) (by decide +kernel)⟩

theorem witness_SecurityCommandsComplete_8 (h : Config.xmssVerify (keyUpdOf (updRow (updPkt [9, 0, 0,
    0]) 7).payload).kid (keyUpdOf (updRow (updPkt [9, 0, 0, 0]) 7).payload).msg
      (keyUpdOf (updRow (updPkt [9, 0, 0, 0]) 7).payload).sig = true) : ∃ (s : State) (h : _) (p : Pkt),
          MgmtTakes s h (((fun p => updRow p 7)) p)
              ∧ ((fun _ p u => updCheck u p (keyUpdOf p.payload) = none)) h (((fun p => updRow p 7)) p)
              (taken s h (((fun p => updRow p 7)) p)) :=
  ⟨{ keyed 1 with part := up.part }, 0, { updPkt [9, 0, 0, 0] with ctx := 0, gen := 0 }, by unfold MgmtTakes; decide +kernel,
      upd_none h (by decide +kernel) (by decide +kernel) (by decide +kernel) (by decide +kernel) (by decide +kernel)⟩

theorem witness_SecurityCommandsComplete_10 : ∃ (s : State) (h : _) (p : Pkt), MgmtTakes s h (((fun p => attRow p 0)) p)
    ∧ ((fun _ p u => p.payload.length = 0 ∧ u.sec.lc ≠ 0 ∧ u.sec.lc ≠ 5
        ∧ idExhausted u = false)) h (((fun p => attRow p 0)) p) (taken s h (((fun p => attRow p 0)) p)) :=
  ⟨keyed 1, 0, mp 0 0 0 0 [], by unfold MgmtTakes; decide +kernel, by decide +kernel⟩

theorem witness_SecurityCommandsComplete_11 : ∃ (s : State) (h : _) (p : Pkt), MgmtTakes s h (((fun p => attRow p 1)) p) ∧ ((fun _ p u =>
        let v := if 1024 ≤ u.sec.attUsed then newAttKey u else u
        p.payload.length = 32 ∧ u.sec.lc ≠ 0 ∧ u.sec.lc ≠ 5 ∧ idExhausted u = false
          ∧ (attSign v (quoteBody v 1 (sliceZ p.payload 0 32) none)).1.isSome = true)) h (((fun p => attRow p 1)) p)
              (taken s h (((fun p => attRow p 1)) p)) :=
  ⟨keyed 1, 0, mp 0 0 0 0 (List.replicate 32 0), by unfold MgmtTakes; decide +kernel, by decide +kernel⟩

theorem witness_SecurityCommandsComplete_12 : ∃ (s : State) (h : _) (p : Pkt), MgmtTakes s h (((fun p => attRow p 2)) p) ∧ ((fun _ p u =>
        let v := if 1024 ≤ u.sec.attUsed then newAttKey u else u
        p.payload.length = 32 ∧ u.sec.lc ≠ 0 ∧ u.sec.lc ≠ 5 ∧ idExhausted u = false ∧ (slotOfPid u p.w5.toNat).isSome = true
          ∧ (attSign v (quoteBody v 2 (sliceZ p.payload 0 32) (slotOfPid u p.w5.toNat))).1.isSome = true)) h (((fun p => attRow p 2)) p)
              (taken s h (((fun p => attRow p 2)) p)) :=
  ⟨keyed 1, 0, mp 0 9 0 0 (List.replicate 32 0), by unfold MgmtTakes; decide +kernel, by decide +kernel⟩

theorem witness_CollectiveCommandsComplete_1 : ∃ (s : State) (n : _) (d : _) (s1 : _) (tab : _) (s2 : _) (s3 : _) (l : _) (s4 : _),
    (getStream s n).st = 1 ∧ (getStream s n).ready = true ∧ (getStream s n).cur = none ∧
      halfOff s (halfOfStream n) = false ∧ vRead s n (descAt (getStream s n)) 128 = .ok d s1 ∧
      readGroup s1 n (numAt d 0x18 8) = .ok tab s2 ∧
      let c := collOf d tab
      descFieldsOk d = true ∧ descSizesOk d c.n = true ∧ c.root < c.n ∧ c.rank < c.n ∧ c.members[c.rank]? = some (ownModule s2, n) ∧
      buffersOk s2 n c (numAt d 0x20 8) (numAt d 0x30 8) = (some true, s3) ∧
      readSend s3 n c (numAt d 0x20 8) (numAt d 0x30 8) = .ok l s4 :=
  let r1 := vRead turnReady 3 (descAt (getStream turnReady 3)) 128
  let r2 := readGroup (vState r1) 3 (numAt (vData r1) 0x18 8)
  let b := spanOf (vData r1) (vData r2) (vState r2)
  let r3 := readSend b.2 3 (collOf (vData r1) (vData r2)) (numAt (vData r1) 0x20 8) (numAt (vData r1) 0x30 8)
  ⟨turnReady, 3, vData r1, vState r1, vData r2, vState r2, b.2, vData r3, vState r3, by decide +kernel, (by decide +kernel),
      by (decide +kernel), by decide +kernel, v_ok (by decide +kernel), v_ok (by decide +kernel), by decide +kernel, (by decide +kernel),
          by (decide +kernel), by decide +kernel, by (decide +kernel), span_ok (by decide +kernel), v_ok (by decide +kernel)⟩

theorem witness_CollectiveCommandsComplete_2 : ∃ (s : State) (n : _) (rank : _) (gid : _) (sq : _) (crc : _) (c : _),
    (getStream s n).st = 1 ∧ (getStream s n).cur = some c ∧ c.groupId = gid ∧ c.seq = sq ∧
      (s.fab.collMsgs.contains (.announce n rank gid sq crc) || farRank s c rank) = true :=
  ⟨streamed (some coll0) [.announce 3 1 1 7 0], 3, 1, 1, 7, 0, coll0, by decide +kernel⟩

theorem witness_CollectiveCommandsComplete_3 : ∃ (s : State) (n : _) (gid : _) (sq : _), (getStream s n).st = 1 ∧ (∀ c,
    (getStream s n).cur = some c → ¬ (c.groupId = gid ∧ c.seq = sq)) :=
  ⟨streamed none [], 3, 1, 7, rfl, by intro c h; cases h⟩

theorem witness_CollectiveCommandsComplete_4 : ∃ (s : State) (n : _) (rank : _) (gid : _) (sq : _) (off : _) (data : _) (c : _),
    (getStream s n).cur = some c ∧ c.groupId = gid ∧ c.seq = sq ∧
      (s.fab.collMsgs.contains (.seg n gid sq rank off data) || farRank s c rank) = true ∧ (sendersOf c).contains rank = true ∧
      c.contrib.any (fun e => e.1 == rank && e.2.1 == off) = false :=
  ⟨streamed (some coll0) [.seg 3 1 7 1 0 []], 3, 1, 1, 7, 0, [], coll0, by decide +kernel⟩

theorem witness_CollectiveCommandsComplete_5 : ∃ (s : State) (n : _) (c : _), (getStream s n).cur = some c ∧ collDone c = true
    ∧ halfOff s (halfOfStream n) = false :=
  ⟨streamed (some { coll0 with contrib := [(1, 0, List.replicate 36 0)], root := 1 }) [], 3, _, rfl, by decide +kernel, by decide +kernel⟩

theorem witness_CollectiveCommandsComplete_6 : ∃ (s : State) (n : _) (gid : _) (sq : _) (status : _) (c : _),
    (getStream s n).cur = some c ∧ c.groupId = gid ∧ c.seq = sq ∧
      (s.fab.collMsgs.contains (.abort n gid sq status) || (othersOf c).any (farRank s c)) = true :=
  ⟨streamed (some coll0) [.abort 3 1 7 9], 3, 1, 7, 9, coll0, by decide +kernel⟩

theorem witness_CollectiveCommandsComplete_7 : ∃ (s : State) (n : _) (gid : _) (sq : _), (getStream s n).st = 1 ∧ (∀ c,
    (getStream s n).cur = some c → ¬ (c.groupId = gid ∧ c.seq = sq)) ∧
      tabGet (fun _ => none) (getStream s n).ended gid ≠ some sq :=
  ⟨streamed (some coll0) [], 3, 2, 7, rfl, by intro c h; cases h; decide, by decide +kernel⟩

theorem witness_CollectiveCommandsComplete_8 : ∃ (s : State) (n : _) (c : _), (getStream s n).cur = some c ∧ (getStream s n).timeout ≠ 0 ∧
      ((exchangeOf c).any (fun r => !c.announced.contains r) || (sendersOf c).any (fun r => (gotFrom c r).isNone)) = true :=
  ⟨streamed (some coll0) [], 3, coll0, by decide +kernel⟩

theorem witness_WeighbridgeCommandsComplete_1 : ∃ (s : State) (k : _), s.sec.feedKey = some k ∧ s.dev.phase = .ready :=
  ⟨{ up with sec := { up.sec with feedKey := some [] } }, [], rfl, rfl⟩

theorem witness_WeighbridgeCommandsComplete_2 : ∃ (s : State) (bytes : _), s.wb.power = true ∧ feedGood s.wb bytes = true :=
  ⟨feeding, feedBytes, rfl, feed_good⟩

theorem witness_WeighbridgeCommandsComplete_3 : ∃ (s : State) (bytes : _), s.wb.power = true ∧ feedGood s.wb bytes = false :=
  ⟨up, [], by decide +kernel⟩

theorem witness_WeighbridgeCommandsComplete_4 : ∃ (s : State) (bytes : _), s.wb.power = true ∧ bytes.length = 1588
    ∧ numAt bytes 0 4 = 0x464400A1 ∧ auditFull s.wb = false ∧
      (s.wb.paired = none ∨ s.wb.paired = some (sliceZ bytes 4 16)) :=
  ⟨up, leBytes 4 0x464400A1 ++ List.replicate 1584 0, by decide +kernel⟩

theorem witness_WeighbridgeCommandsComplete_5 : ∃ (s : State), s.wb.power = true ∧ s.wb.recs.length < 60 :=
  ⟨up, by decide +kernel⟩

theorem witness_WeighbridgeCommandsComplete_6 : ∃ (s : State), s.wb.power = true ∧ 60 ≤ s.wb.recs.length :=
  ⟨full, by decide +kernel⟩

theorem witness_WeighbridgeCommandsComplete_7 : ∃ (s : State), s.wb.power = true ∧ s.wb.recs.length < 60 :=
  ⟨up, by decide +kernel⟩

theorem witness_WeighbridgeCommandsComplete_8 : ∃ (s : State), s.wb.power = false :=
  ⟨weighed (fun w => { w with power := false }), rfl⟩

theorem witness_WeighbridgeCommandsComplete_9 : ∃ (s : State), s.wb.power = true ∧ s.wb.tapMute = false :=
  ⟨up, rfl, rfl⟩

theorem witness_WeighbridgeCommandsComplete_10 : ∃ (s : State), s.wb.power = true ∧ s.wb.tapMute = false :=
  ⟨up, rfl, rfl⟩

theorem witness_WeighbridgeCommandsComplete_11 : ∃ (s : State), s.wb.power = true ∧ s.wb.tapMute = false :=
  ⟨up, rfl, rfl⟩

theorem witness_WeighbridgeCommandsComplete_12 : ∃ (s : State) (entry : Nat) (a : _), s.wb.power = true ∧ s.wb.tapMute = false
    ∧ s.wb.audit[entry]? = some a :=
  ⟨weighed (fun w => { w with audit := [audit0] }), 0, audit0, rfl, rfl, rfl⟩

theorem witness_WeighbridgeCommandsComplete_13 : ∃ (s : State) (data : List Byte), s.wb.power = true ∧ s.wb.tapMute = false
    ∧ data.length ≤ 240 :=
  ⟨up, [], rfl, rfl, by decide +kernel⟩

theorem witness_WeighbridgeCommandsComplete_14 (h : Config.xmssVerify (keyId staged.wb.authority)
    ((wbImage staged.wb).take ((wbImage staged.wb).length - 2820))
        ((wbImage staged.wb).drop ((wbImage staged.wb).length - 2820)) = true) : ∃ (s : State), s.wb.power = true
        ∧ s.wb.tapMute = false ∧ s.wb.fwNext = none ∧ authSigned s.wb (wbImage s.wb) = true ∧ auditFull s.wb = false :=
  ⟨staged, by decide +kernel, (by decide +kernel), by (decide +kernel), by unfold authSigned; rw [h]; decide +kernel, by decide +kernel⟩

theorem witness_WeighbridgeCommandsComplete_15 : ∃ (s : State) (bytes : _), s.wb.power = true ∧ s.wb.tapMute = false ∧ bytes ≠ []
    ∧ numAt bytes 0 1 = 0 :=
  ⟨up, [0], by decide +kernel⟩

theorem witness_WeighbridgeCommandsComplete_16 (h : Config.xmssVerify (keyId authed.wb.authority) (authMsg.take (authMsg.length - 2820))
    (authMsg.drop (authMsg.length - 2820)) = true) : ∃ (s : State) (bytes : _), s.wb.power = true ∧ s.wb.tapMute = false ∧ bytes ≠ []
        ∧ numAt bytes 0 1 ≠ 0 ∧
      let m := s.wb.message ++ bytes.drop 1
      authSigned s.wb m = true ∧ auditFull s.wb = false :=
  ⟨authed, 1 :: List.replicate 2820 0, by decide +kernel, (by decide +kernel), by (decide +kernel), by decide +kernel,
      by show authSigned authed.wb authMsg = true; unfold authSigned; rw [h]; decide +kernel, by decide +kernel⟩

theorem witness_WeighbridgeCommandsComplete_17 : ∃ (s : State), s.wb.sealBroken = false ∧ auditFull s.wb = false :=
  ⟨up, by decide +kernel⟩

theorem witness_WeighbridgeCommandsComplete_18 : ∃ (s : State), s.wb.power = true ∧ s.dev.phase = .ready ∧ s.sec.pairDue = false :=
  ⟨{ up with sec := { up.sec with pairDue := false } }, by decide +kernel⟩

theorem witness_WeighbridgeCommandsComplete_19 : ∃ (s : State), s.wb.power = true ∧ s.dev.phase = .ready ∧ s.sec.pairDue = true
    ∧ s.wb.paired ≠ some (serialBytes s) :=
  ⟨{ up with sec := { up.sec with pairDue := true } }, by decide +kernel⟩

theorem witness_WeighbridgeCommandsComplete_20 : ∃ (s : State), s.wb.mirror.present = true :=
  ⟨weighed (fun w => { w with mirror := { present := true } }), rfl⟩

theorem witness_RegisterPacketsComplete_1 : ∃ (s : State) (h : _) (p : Pkt), MgmtTakes s h { p with opcode := 0x80 }
    ∧ ((fun _ p u => p.w6.toNat ≠ 0 ∧ p.w6.toNat ≤ 2048
        ∧ extentCheck u (opA p) p.w6.toNat = none)) h { p with opcode := 0x80 } (taken s h { p with opcode := 0x80 }) :=
  ⟨up, 0, { mp 0 0x3F0 1 0 [] with ctx := 0, gen := 0 }, by unfold MgmtTakes; decide +kernel, by decide +kernel⟩

theorem witness_RegisterPacketsComplete_2 : ∃ (s : State) (h : _) (p : Pkt), MgmtTakes s h { p with opcode := 0x81 }
    ∧ ((fun _ p u => bitAt p.w6.toNat 0 = false ∧ p.payload.length ≠ 0 ∧ p.payload.length ≤ 8192 ∧ p.payload.length % 4 = 0
        ∧ extentCheck u (opA p) (p.payload.length / 4) = none)) h { p with opcode := 0x81 } (taken s h { p with opcode := 0x81 }) :=
  ⟨up, 0, { mp 0 0x3F0 0 0 (leBytes 4 1) with ctx := 0, gen := 0 }, by unfold MgmtTakes; decide +kernel, by decide +kernel⟩

theorem witness_RegisterPacketsComplete_3 : ∃ (s : State) (h : _) (p : Pkt), MgmtTakes s h { p with opcode := 0x81 }
    ∧ ((fun _ p u => bitAt p.w6.toNat 0 = true ∧ p.payload.length ≠ 0 ∧ p.payload.length ≤ 8192 ∧ p.payload.length % 8 = 0
        ∧ extentCheck u (opA p) (p.payload.length / 8) = none)) h { p with opcode := 0x81 } (taken s h { p with opcode := 0x81 }) :=
  ⟨up, 0, { mp 0 0x3F0 1 0 (leBytes 8 1) with ctx := 0, gen := 0 }, by unfold MgmtTakes; decide +kernel, by decide +kernel⟩

theorem witness_RegisterPacketsComplete_4 : ∃ (s : State) (p : Pkt) (mid : _) (pid : _) (pgen : _), FabricTakes s p mid pid pgen
    ∧ ((fun q p u => ∃ mid pid pgen, q = .fabric mid pid pgen
        ∧ u.part.notices.any (fun n => n.mid == mid && n.ctx == p.ctx && n.seq == p.seq) = true))
            (QRef.fabric mid pid pgen) { p with opcode := 0xF0 } s :=
  ⟨{ bound with part := { bound.part with notices := [{ ctx := 3, mid := 6, tries := 0, seq := 0 }] } }, ip 0 0 0 0 [], 6, 9, 6, ⟨rfl,
      rfl, rfl⟩, 6, 9, 6, rfl, by decide +kernel⟩

theorem witness_RegisterPacketsComplete_5 : ∃ (s : State) (p : Pkt) (mid : _) (pid : _) (pgen : _) (b : _) (h : _) (v : _),
    p.src = .fabric mid pid pgen ∧ s.dev.phase = .ready ∧ fabGate s pid pgen = .pass ∧
      s.part.notices.any (fun n => n.mid == mid && n.ctx == p.ctx && n.seq == p.seq) = false ∧ p.seq.toNat < 2 ^ 30 ∧
      findBegun s p.seq.toNat = some b ∧ b.job = .remoteRecord h v :=
  ⟨withJob (.remoteRecord 0x60007 9), { ip 0 0 0 0 [] with seq := 5 }, 6, 9, 6, _, _, _, rfl, rfl, rfl, by decide +kernel,
      by decide +kernel, rfl, rfl⟩

theorem witness_RegisterPacketsComplete_6 : ∃ (s : State) (p : Pkt) (mid : _) (pid : _) (pgen : _), FabricTakes s p mid pid pgen
    ∧ ((fun _ p u =>
        let ctx := fld (numAt p.payload 12 4) 6 10
        fld (numAt p.payload 4 4) 0 8 = 0x16
        ∧ ∃ slot, slotOfPid u (numAt p.payload 16 4) = some slot ∧ (getCtx u ctx).st = 1
            ∧ (getCtx u ctx).slot = slot)) (QRef.fabric mid pid pgen) { p with opcode := 0xF2 } s :=
  ⟨bound, ip 0 0 0 0 (leBytes 4 0 ++ leBytes 4 0x16 ++ leBytes 4 0 ++ leBytes 4 (3 * 64) ++ leBytes 4 9 ++ List.replicate 44 0), 6, 9, 6,
      ⟨rfl, rfl, rfl⟩, by decide +kernel, 1, by decide +kernel⟩

theorem witness_RegisterPacketsComplete_7 : ∃ (s : State) (port : _) (n : _) (start : _) (r : _) (t : _), (getFe s port).up = true
    ∧ (getQp s n).cq = (start, r) :: t ∧ (getQp s n).source = false ∧
      (getQp s n).port = port :=
  ⟨withQp { qp8 with cq := [(0, {})] }, 0, 8, 0, _, [], rfl, rfl, rfl, rfl⟩

theorem witness_RegisterPacketsComplete_8 : ∃ (s : State) (port : _), (getFe s port).up = true :=
  ⟨up, 0, rfl⟩

theorem witness_RegisterPacketsComplete_9 : ∃ (s : State) (port : _) (r : _) (t : _), (getFe s port).up = true
    ∧ (getFe s port).reports = r :: t :=
  ⟨{ up with fe := { up.fe with ports := [(0, { up := true, reports := [{}] })] } }, 0, _, [], rfl, rfl⟩

theorem witness_RegisterPacketsComplete_10 : ∃ (s : State) (r : _) (t : _), sideAnswers s = true ∧ s.fe.sideHeld = r :: t :=
  ⟨{ up with fe := { up.fe with sideHeld := [{}] } }, _, [], by decide +kernel, rfl⟩

theorem witness_RegisterPacketsComplete_11 : ∃ (s : State), sideAnswers s = true ∧ s.fe.sideHeld = [] :=
  ⟨up, by decide +kernel⟩

theorem witness_RegisterPacketsComplete_12 : ∃ (s : State), sideAnswers s = true :=
  ⟨up, by decide +kernel⟩

theorem witness_RecoveryCommandsComplete_1 : ∃ (s : State) (u : _), unitExists u = true ∧ escOf s u = none ∧ unitSt s u = .quarantine
    ∧ s.units.out.contains u = false ∧ substOn s u = false ∧
      halfOff s (halfOfUnit u) = false ∧ ((u.kind = 4 ∨ u.kind = 6) → (getDie s (halfOfUnit u)).pins = false) :=
  ⟨withUnit ⟨0, 5⟩ .quarantine, ⟨0, 5⟩, by decide +kernel⟩

theorem witness_RecoveryCommandsComplete_2 : ∃ (s : State) (m : _), m < 36 ∧ escOf s ⟨1, m⟩ = some { u := ⟨1, m⟩, step := 2 } :=
  ⟨escalated { u := ⟨1, 3⟩, step := 2 }, 3, by decide +kernel⟩

theorem witness_RecoveryCommandsComplete_3 : ∃ (s : State) (h : _), h < 2 ∧ escOf s ⟨12, h⟩ = some { u := ⟨12, h⟩, step := 4 } :=
  ⟨escalated { u := ⟨12, 0⟩, step := 4 }, 0, by decide +kernel⟩

theorem witness_RecoveryCommandsComplete_4 : ∃ (s : State) (h : _), h < 2 ∧ escOf s ⟨12, h⟩ = some { u := ⟨12, h⟩, step := 5 } :=
  ⟨escalated { u := ⟨12, 0⟩, step := 5 }, 0, by decide +kernel⟩

theorem witness_RecoveryCommandsComplete_5 : ∃ (s : State) (u : _), unitExists u = true ∧ unitSt s u = .scrub
    ∧ halfOff s (halfOfUnit u) = false :=
  ⟨withUnit ⟨0, 5⟩ .scrub, ⟨0, 5⟩, by decide +kernel⟩

theorem witness_RecoveryCommandsComplete_6 : ∃ (s : State) (u : _), unitExists u = true ∧ unitSt s u = .bist
    ∧ halfOff s (halfOfUnit u) = false ∧ svcOn s u = false :=
  ⟨withUnit ⟨0, 5⟩ .bist, ⟨0, 5⟩, by decide +kernel⟩

theorem witness_RecoveryCommandsComplete_7 : ∃ (s : State) (u : _), unitExists u = true ∧ unitSt s u = .bist
    ∧ halfOff s (halfOfUnit u) = false ∧ svcOn s u = true :=
  ⟨{ withUnit ⟨0, 5⟩ .bist with units := { (withUnit ⟨0, 5⟩ .bist).units with svcBusy := true, svcCmd := BitVec.ofNat 19 (5 * 16) } },
      ⟨0, 5⟩, by decide +kernel⟩

theorem witness_RecoveryCommandsComplete_8 : ∃ (s : State) (chan : _), chan < 192 ∧ unitSt s ⟨2, chan⟩ ≠ .failed
    ∧ s.mem.migr.find? (fun m => m.src == chan || m.dst == chan) = none :=
  ⟨bound, 0, by decide +kernel⟩

theorem witness_RecoveryCommandsComplete_9 : ∃ (s : State) (chan : _) (m : _), chan < 192 ∧ unitSt s ⟨2, chan⟩ ≠ .failed
    ∧ s.mem.migr.find? (fun m => m.src == chan || m.dst == chan) = some m :=
  ⟨{ bound with mem := { bound.mem with migr := [migr0] } }, 0, migr0, by decide +kernel⟩

theorem witness_RecoveryCommandsComplete_10 : ∃ (s : State) (u : _), unitExists u = true ∧ s.dev.phase = .ready
    ∧ halfOff s (halfOfUnit u) = false :=
  ⟨bound, ⟨0, 5⟩, by decide +kernel⟩

theorem witness_RecoveryCommandsComplete_11 : ∃ (s : State) (u : _) (e : _), escOf s u = some e :=
  ⟨escalated { u := ⟨1, 3⟩, step := 2 }, ⟨1, 3⟩, _, opt_ok (by decide +kernel)⟩

theorem witness_RecoveryCommandsComplete_12 : ∃ (s : State) (m : _), m < 36 ∧ s.units.isolated.contains m = false
    ∧ s.dev.phase = .ready ∧ halfOff s (halfOfSheaf m) = false :=
  ⟨bound, 3, by decide +kernel⟩

theorem witness_RecoveryCommandsComplete_13 : ∃ (s : State), s.dev.phase = .ready ∧ halfOff s 1 = false :=
  ⟨bound, by decide +kernel⟩

theorem witness_RecoveryCommandsComplete_15 : ∃ (s : State), s.dev.phase = .ready ∧ s.res.dormantOk = true :=
  ⟨{ bound with res := { bound.res with dormantOk := true } }, by decide +kernel⟩

theorem witness_RecoveryCommandsComplete_16 : ∃ (s : State), s.dev.phase ≠ .off :=
  ⟨bound, by decide +kernel⟩

theorem witness_PowerStatesComplete_1 : ∃ (s : State) (h : _) (p : Pkt), MgmtTakes s h { p with opcode := 0xC1 }
    ∧ ((fun _ p u => fld p.w4.toNat 0 2 < 2 ∧ (List.range 2).filter (fun h => bitAt p.w4.toNat (2 + h)) ≠ []
        ∧ powerStopped u = false ∧ u.dev.coolantFault = false)) h { p with opcode := 0xC1 } (taken s h { p with opcode := 0xC1 }) :=
  ⟨bound, 0, mp 5 0 0 0 [], by unfold MgmtTakes; decide +kernel, by decide +kernel⟩

theorem witness_PowerStatesComplete_2 : ∃ (s : State) (h : _) (p : Pkt), MgmtTakes s h { p with opcode := 0xC1 }
    ∧ ((fun _ p u => fld p.w4.toNat 0 2 = 2 ∧ powerStopped u = false ∧ u.dev.coolantFault = false
        ∧ (List.range 2).filter (fun h => bitAt p.w4.toNat (2 + h)) ≠ []
        ∧ frostOk u ((List.range 2).filter (fun h => bitAt p.w4.toNat (2 + h))) = true)) h { p with opcode := 0xC1 } (taken s h { p with opcode := 0xC1 }) :=
  ⟨bound, 0, mp 10 0 0 0 [], by unfold MgmtTakes; decide +kernel, by decide +kernel⟩

theorem witness_PowerStatesComplete_3 : ∃ (s : State) (half : _), s.pwr.frostFor.any (fun e => e.half == half) = true
    ∧ frostBarred s half = false :=
  ⟨powered (fun w => { w with frostFor := [{ half := 1, id := none }] }), 1, by decide +kernel, by decide +kernel⟩

theorem witness_PowerStatesComplete_4 : ∃ (s : State) (half : _), half < 2 ∧ s.pwr.lullEn = true ∧ halfPwr s half = 0
    ∧ s.dev.phase = .ready ∧ halfOff s half = false ∧
      halfIdle s half = true ∧ s.pwr.frostFor.any (fun e => e.half == half) = false :=
  ⟨bound, 1, by decide +kernel⟩

theorem witness_PowerStatesComplete_5 : ∃ (s : State) (half : _), half < 2 ∧ halfPwr s half = 1 :=
  ⟨powered (fun w => { w with half1 := 1 }), 1, by decide +kernel⟩

theorem witness_PowerStatesComplete_6 : ∃ (s : State), s.dev.coolantFault = false ∧ powerStopped s = false ∧ halfPwr s 0 = 2
    ∧ halfPwr s 1 = 2 ∧ s.pwr.frostFor = [] :=
  ⟨powered cold, by decide +kernel⟩

theorem witness_PowerStatesComplete_9 : ∃ (s : State) (port : _), port < 2 ∧ halfPwr s port = 2 ∧ s.dev.coolantFault = false
    ∧ powerStopped s = false ∧ s.pwr.frostFor = [] :=
  ⟨powered cold, 0, by decide +kernel⟩

theorem witness_PowerStatesComplete_10 : ∃ (s : State) (half : _), s.pwr.thawing.contains half = true
    ∧ s.pwr.avs.any (fun a => a.half == half && a.kind == 2) = false ∧
      s.dev.coolantFault = false :=
  ⟨powered (fun w => { w with thawing := [1] }), 1, by decide +kernel⟩

theorem witness_PowerStatesComplete_11 : ∃ (s : State), s.dev.coolantFault = true :=
  ⟨{ bound with dev := { bound.dev with coolantFault := true } }, rfl⟩

theorem witness_PowerLoopsComplete_1 : ∃ (s : State) (half : _) (rail : _) (a : _), s.res.takeover = false
    ∧ s.pwr.avs.find? (fun a => a.half == half && a.rail == rail) = some a :=
  ⟨powered (fun w => { w with avs := [avs0] }), 0, 1, avs0, by decide +kernel⟩

theorem witness_PowerLoopsComplete_2 : ∃ (s : State) (half : _) (rail : _) (a : _), half < 2 ∧ rail < 4 ∧ s.dev.phase = .ready
    ∧ s.pwr.avs.find? (fun a => a.half == half && a.rail == rail) = some a :=
  ⟨powered (fun w => { w with avs := [avs0] }), 0, 1, avs0, by decide +kernel⟩

theorem witness_PowerLoopsComplete_3 : ∃ (s : State), s.dev.phase = .ready ∧ powerStopped s = false :=
  ⟨bound, by decide +kernel⟩

theorem witness_PowerLoopsComplete_4 : ∃ (s : State), s.dev.phase = .ready ∧ powerStopped s = false ∧ 0 < s.pwr.dutyWins
    ∧ 4 * s.pwr.dutyWins ≤ s.pwr.dutySum ∧
      400 < s.pwr.cur.toNat :=
  ⟨powered (fun w => { w with dutyWins := 10, dutySum := 40 }), by decide +kernel⟩

theorem witness_PowerLoopsComplete_5 : ∃ (s : State) (half : _), half < 2 ∧ halfOff s half = false ∧ s.pwr.squalls.toNat < 0xFFFFFF :=
  ⟨bound, 0, by decide +kernel⟩

theorem witness_PowerLoopsComplete_7 : ∃ (s : State), s.dev.phase = .ready :=
  ⟨bound, rfl⟩

theorem witness_PowerLoopsComplete_8 : ∃ (s : State) (h : _) (p : Pkt), MgmtTakes s h { p with opcode := 0xC0 }
    ∧ ((fun _ p _ => hintOk (opA p) = true)) h { p with opcode := 0xC0 } (taken s h { p with opcode := 0xC0 }) :=
  ⟨bound, 0, mp 1 0 0 0 [], by unfold MgmtTakes; decide +kernel, by decide +kernel⟩

theorem witness_PowerLoopsComplete_9 : ∃ (s : State) (h : _), s.pwr.hint = some h ∧ h.kind < 4 :=
  ⟨powered (fun w => { w with hint := some { kind := 1, delay := 0, dur := 4, halves := 3 } }), _, rfl, by decide +kernel⟩

theorem witness_PowerLoopsComplete_11 : ∃ (s : State) (slot : _), 2 ≤ (getSlot s slot).st ∧ (getSlot s slot).bound = true
    ∧ leadFor s slot = ownModule s ∧
      let l := (membersOf s slot).map (fun m => (m, ((getSlot s slot).lastRank.filter (fun e => e.2.2 == m)).length))
      (∀ r d, mostLate l = some r → leastLate l = some d → r.2 ≤ d.2) :=
  ⟨bound, 1, by decide +kernel, (by decide +kernel), by (decide +kernel), by
    have e : (membersOf bound 1).map (fun m => (m, ((getSlot bound 1).lastRank.filter (fun e => e.2.2 == m)).length)) = [(5, 0)] := by
      decide +kernel
    intro l r d h1 h2
    simp only [show l = [(5, 0)] from e] at h1 h2
    cases h1; cases h2; exact Nat.le_refl _⟩

theorem witness_PowerLoopsComplete_12 : ∃ (s : State) (p : Pkt) (mid : _) (pid : _) (pgen : _), FabricTakes s p mid pid pgen
    ∧ ((fun q p u => (∃ mid pid pgen, q = .fabric mid pid pgen ∧ fld p.w4.toNat 0 14 = mid) ∧ u.pwr.shiftEn = true
        ∧ u.pwr.shiftLead.toNat = fld p.w4.toNat 0 14)) (QRef.fabric mid pid pgen) { p with opcode := 0xC2 } s :=
  ⟨powered (fun w => { w with shiftEn := true, shiftLead := 6 }), ip 6 0 0 0 [], 6, 9, 6, ⟨rfl, rfl, rfl⟩, ⟨6, 9, 6, rfl,
      by decide +kernel⟩, by decide +kernel, by decide +kernel⟩

theorem witness_PowerLoopsComplete_15 : ∃ (s : State), s.dev.phase = .ready ∧ powerStopped s = false :=
  ⟨bound, by decide +kernel⟩

theorem witness_PowerLoopsComplete_16 : ∃ (s : State), s.dev.phase = .ready :=
  ⟨bound, rfl⟩

theorem witness_PowerLoopsComplete_17 : ∃ (s : State), s.dev.phase = .ready :=
  ⟨bound, rfl⟩

theorem witness_PowerLoopsComplete_19 : ∃ (s : State) (half : _) (rail : _), half < 2 ∧ rail < 4 ∧ s.dev.phase = .ready
    ∧ s.res.takeover = false :=
  ⟨bound, 0, 1, by decide +kernel⟩

theorem witness_BootCommandsComplete_2 : ∃ (s : State) (c : BootCfg), s.dev.phase = .boot ∧ s.dev.bootWaits = none ∧ c.powerUp = false :=
  ⟨phased .boot, { powerUp := false }, by decide +kernel⟩

theorem witness_BootCommandsComplete_3 : ∃ (s : State) (c : BootCfg), (s.dev.phase = .off ∨ s.dev.phase = .boot ∧ c.powerUp = true)
    ∧ s.dev.bootWaits = none ∧ s.dev.flashReq = false :=
  ⟨phased .off, {}, by decide +kernel⟩

theorem witness_BootCommandsComplete_4 : ∃ (s : State), s.dev.phase = .ready :=
  ⟨up, rfl⟩

theorem witness_BootCommandsComplete_5 : ∃ (s : State), s.dev.phase = .boot :=
  ⟨phased .boot, rfl⟩

theorem witness_BootCommandsComplete_6 : ∃ (s : State), s.dev.bootWaits = none :=
  ⟨up, rfl⟩

theorem witness_BootCommandsComplete_7 : ∃ (s : State) (c : _), s.dev.bootWaits = some c :=
  ⟨{ phased .boot with dev := { (phased .boot).dev with bootWaits := some {} } }, _, rfl⟩

theorem witness_TapCommandsComplete_1 : ∃ (s : State) (die : _), tapOn s die = true ∧ pinsFree s die = true :=
  ⟨{ State.reset with dev := { State.reset.dev with phase := .ready } }, 0, by decide +kernel⟩

theorem witness_TapCommandsComplete_2 : ∃ (s : State) (die : _), tapOn s die = true ∧ pinsFree s die = false :=
  ⟨up, 0, by decide +kernel⟩

theorem witness_TapCommandsComplete_3 : ∃ (s : State) (die : _), tapOn s die = true :=
  ⟨up, 0, by decide +kernel⟩

theorem witness_TapCommandsComplete_4 : ∃ (s : State) (die : _), tapOn s die = true ∧ halfPwr s die ≠ 2 :=
  ⟨up, 0, by decide +kernel⟩

theorem witness_TapCommandsComplete_5 : ∃ (s : State) (addr : _) (r : _), tapOn s 0 = true ∧ testRoot s = true ∧ addr < 2 ^ 42
    ∧ regAt addr = some r ∧ blockServed s r = true :=
  ⟨debug, regBase, regAtOf 0 0, by decide +kernel⟩

theorem witness_TapCommandsComplete_6 : ∃ (s : State) (addr : _) (v : W32) (d : _) (t : _) (c : _) (w : _), tapOn s 0 = true
    ∧ testRoot s = true ∧ ((inHbm addr && inHbm (addr + 3)) || (inStore addr && inStore (addr + 3))) = true ∧
      ¬ (0x24000000000 ≤ addr ∧ addr + 4 ≤ 0x24012000000) ∧ halfOff s (halfOfAddr s addr) = false ∧ tapRefused s addr = false ∧
      memRead (leavePins s 0 0x11) .internal 0 0 0 addr 4 = .ok d t ∧
      memWrite (leavePins s 0 0x11) .internal 0 0 0 addr (leBytes 4 v.toNat) = .ok c w :=
  ⟨debug, 0x400000, 0, resD (memRead (leavePins debug 0 0x11) .internal 0 0 0 0x400000 4),
      resState (memRead (leavePins debug 0 0x11) .internal 0 0 0 0x400000 4),
  resD (memWrite (leavePins debug 0 0x11) .internal 0 0 0 0x400000 (leBytes 4 0)),
      resState (memWrite (leavePins debug 0 0x11) .internal 0 0 0 0x400000 (leBytes 4 0)),
  by decide +kernel, (by decide +kernel), by (decide +kernel), by decide +kernel, by (decide +kernel), (by decide +kernel),
      res_is (by decide +kernel), res_is (by decide +kernel)⟩

theorem witness_TapCommandsComplete_7 : ∃ (s : State) (addr : _) (x : _) (o : _), tapOn s 0 = true ∧ testRoot s = true
    ∧ 0x24000000000 ≤ addr ∧ addr + 4 ≤ 0x24012000000 ∧ inHbm addr = false ∧
      inStore addr = false ∧ halfOff s (halfOfAddr s addr) = false ∧ tapRefused s addr = false ∧ windowAt s addr = some (x, o) :=
  ⟨debug, 0x24000000000, ten, 0, by decide +kernel⟩

theorem witness_TapCommandsComplete_8 : ∃ (s : State) (core : _), tapOn s 0 = true ∧ testRoot s = true ∧ core < 576
    ∧ confHeld s (holderOfCore s core) = false :=
  ⟨debug, 0, by decide +kernel⟩

theorem witness_TapCommandsComplete_9 : ∃ (s : State), s.wb.power = true ∧ s.wb.tapIr ≠ 0 :=
  ⟨up, by decide +kernel⟩

theorem witness_TapCommandsComplete_10 : ∃ (s : State), s.wb.power = true :=
  ⟨up, rfl⟩

theorem witness_RegisterWritesComplete_1 : ∃ (s : State) (path : _) (addr : _) (v : _) (r : _), WriteOk s path addr r v :=
  ⟨up, 0, regBase, 0, regAtOf 0 0, by unfold WriteOk; decide +kernel⟩

theorem witness_RegisterWritesComplete_4 : ∃ (s : State) (path : _) (v : _) (cpl : _),
    WritePends s path (regAddr 4 0x00) (regAtOf 4 0x00) v ∧
      let m := wakeAll (held s path (regAddr 4 0x00) v)
      pathOpen m path = true ∧ (getPath m path).pendingW = some (regAddr 4 0x00, v) ∧ cpl = ~~~ v :=
  ⟨up, 0, 3, _, by unfold WritePends; decide +kernel, by decide +kernel, by decide +kernel, rfl⟩

theorem witness_RegisterWritesComplete_5 : ∃ (s : State) (path : _) (v : _) (cpl : _),
    WritePends s path (regAddr 6 0x00) (regAtOf 6 0x00) (v ||| 2) ∧
      let m := wakeAll (held s path (regAddr 6 0x00) (v ||| 2))
      pathOpen m path = true ∧ (getPath m path).pendingW = some (regAddr 6 0x00, v ||| 2) ∧ cpl = ~~~ (v ||| 2) :=
  ⟨up, 0, 0, _, by unfold WritePends; decide +kernel, by decide +kernel, by decide +kernel, rfl⟩

theorem witness_RegisterWritesComplete_6 : ∃ (s : State) (path : _) (addr : _) (r : _) (a : _) (t : _) (w : _) (v : _),
    pathOpen s path = true ∧ regAt addr = some r ∧ r.form = 0 ∧ isCpl r = true ∧ blockServed s r = true ∧
      (getPath s path).pendingW = some (a, w) ∧ regAt a = some t ∧ cplOf t = r ∧ v = ~~~ w :=
  ⟨pendingOn (regAddr 4 0x00) 3, 0, regAddr 4 0x04, regAtOf 4 0x04, regAddr 4 0x00, regAtOf 4 0x00, 3, ~~~ 3, by decide +kernel,
      (by decide +kernel), by (decide +kernel), by decide +kernel, by (decide +kernel), (by decide +kernel), by decide +kernel,
          (by decide +kernel), rfl⟩

theorem witness_RegisterWritesComplete_7 : ∃ (s : State) (path : _) (addr : _) (r : _) (v : _), pathOpen s path = true
    ∧ regAt addr = some r ∧ r.form ≠ 0 ∧ blockServed s r = true ∧
      (getPath s path).pendingW = none ∧ (getPath s path).matched = none ∧ (accOf r).rw ≠ 0 ∧
      v &&& BitVec.ofNat 32 ((accOf r).rwk ||| (accOf r).rwc) = 0 :=
  ⟨up, 0, regBase + 2 ^ 18 + 2 ^ 14 + 0x4C, { blk := 4, form := 1, off := 0x4C }, 0, by decide +kernel⟩

theorem witness_RegisterWritesComplete_8 : ∃ (s : State) (path : _), pathOpen s path = true ∧ s.res.scale.toNat < 2
    ∧ (getPath s path).pendingW = none ∧ (getPath s path).matched = none :=
  ⟨up, 0, by decide +kernel⟩

theorem witness_RegisterWritesComplete_11 : ∃ (s : State) (path : _) (addr : _) (r : _), pathOpen s path = true ∧ regAt addr = some r
    ∧ blockServed s r = true :=
  ⟨up, 0, regBase, regAtOf 0 0, by decide +kernel⟩

theorem witness_RegisterWritesComplete_12 : ∃ (s : State) (path : _) (l : _), pathOpen s path = true
    ∧ tabGet (fun _ => none) s.res.log s.res.logSel.toNat = some l :=
  ⟨{ up with res := { up.res with log := [(0, some log0)], logSel := 0 } }, 0, log0, by decide +kernel⟩

theorem witness_RegisterWritesComplete_13 : ∃ (s : State), s.lck.crcEn = true :=
  ⟨{ up with lck := { up.lck with crcEn := true } }, rfl⟩

/-! ### Hypotheses of the rules' statements, at the values where their clauses meet -/

theorem witness_RecordsCommute_1 : ∃ s : State, s.ev.waits = [] := ⟨bound, rfl⟩
theorem witness_RecordsCommute_2 : ∃ (base c : W64) (l : List W64), ∀ v ∈ c :: l, (v - base).toNat < 2 ^ 63 :=
  ⟨9, 9, [10, 9 + 0x7FFFFFFFFFFFFFFF], by intro v h; simp at h; rcases h with rfl | rfl | rfl <;> decide⟩
theorem witness_MinAndMaxAreALattice_2 : ∃ a b : W32, isNan (ofF32 a) = true ∨ isNan (ofF32 b) = true :=
  ⟨0x7F800001, 0, by decide +kernel⟩
theorem witness_EffectiveCap_1 : ∃ s : State, powerStopped s = false := ⟨bound, rfl⟩
theorem witness_FabricIngress_1 : ∃ (s : State) (f : FabPkt), f.dst = ownModule s ∧ kindOk f.kind f.vc = false :=
  ⟨bound, fk 5, rfl, by decide +kernel⟩
theorem witness_FabricIngress_2 : ∃ (s : State) (f : FabPkt), f.dst = ownModule s ∧ kindOk f.kind f.vc = true
    ∧ 2 ^ 31 ≤ (f.flowSeq - (findRx s (flowOf f)).expected).toNat :=
  ⟨bound, { fk 0 with flowSeq := 0x80000000 }, rfl, by decide +kernel⟩
theorem witness_FabricIngress_3 : ∃ (s : State) (f : FabPkt), f.dst = ownModule s ∧ kindOk f.kind f.vc = true
    ∧ f.flowSeq ≠ (findRx s (flowOf f)).expected ∧ (f.flowSeq - (findRx s (flowOf f)).expected).toNat < 2 ^ 31 :=
  ⟨bound, { fk 0 with flowSeq := 0x7FFFFFFF }, rfl, by decide +kernel⟩
theorem witness_FabricIngress_4 : ∃ (s : State) (p : Pkt) (mid pid pgen i : Nat), p.src = .fabric mid pid pgen ∧ pid ≠ 0
    ∧ s.dev.phase = .ready
    ∧ slotOfPid s pid = some i ∧ (getSlot s i).pgen ≠ BitVec.ofNat 32 pgen :=
  ⟨bound, { mp 0 0 0 0 [] with src := .fabric 6 9 5 }, 6, 9, 5, 1, rfl, by decide +kernel⟩
theorem witness_FabricIngress_orphan : ∃ (s : State) (p : Pkt) (mid pid pgen : Nat), p.src = .fabric mid pid pgen ∧ pid ≠ 0
    ∧ s.dev.phase = .ready ∧ slotOfPid s pid = none :=
  ⟨bound, { mp 0 0 0 0 [] with src := .fabric 6 8 6 }, 6, 8, 6, rfl, by decide +kernel⟩
theorem quiet_of {s : State} (h : s.fe.sideWait = [] ∧ s.fab.refused = [] ∧ s.fab.cutColls = []
    ∧ s.res.sheafDue = []) (b : s.fe.begun = [])
    (c : s.mem.chans = []) : Quiet s :=
  ⟨h.1, h.2.1, h.2.2.1, h.2.2.2, by rw [b]; simp, by rw [c]; simp⟩
theorem witness_EmptyQueueCountsOneCycle_1 : ∃ s : State, s.pending = [] ∧ Quiet s ∧ ∀ q, q < 34 → linkUp s q = false :=
  ⟨State.reset, rfl, quiet_of (by decide +kernel) rfl rfl, by decide +kernel⟩
theorem witness_EmptyQueueCountsOneCycle_2 : ∃ (s : State) (q : Nat), s.pending = [] ∧ Quiet s ∧ q < 34 ∧ linkUp s q = true
    ∧ (getPort s q).kept.length < 256 :=
  ⟨withPort { st := 2, kept := List.replicate 255 { seq := 0, bytes := [], pkts := [] } }, 3, rfl, quiet_of (by decide +kernel) rfl rfl,
    by decide +kernel, by decide +kernel, by decide +kernel⟩
theorem witness_MemoryRequestsComplete_5 : ∃ c : Chan, (c.queue.filter innerReq).length ≤ 8
    ∧ (c.queue.filter (fun r => !innerReq r)).length ≤ 64 ∧ clsHeld c.queue 7 ≤ 32 :=
  ⟨{ queue := List.replicate 64 mreq }, by decide +kernel⟩
theorem witness_RegisterWritesComplete_10 : ∃ (s u : State) (path a : Nat) (w : W32), (getPath s path).pendingW = none
    ∧ (getPath u path).pendingW = some (a, w) :=
  ⟨up, pendingOn 0 5, 0, 0, 5, by decide +kernel, by decide +kernel⟩
theorem step_empty {s : State} (h : s.pending = []) : step s = .next (idle s) := by simp only [step, h]
theorem witness_StepKeepsMemoryCanonical : ∃ s t : State, Memory.wf s.mem = true ∧ step s = .next t :=
  ⟨State.reset, idle State.reset, by decide +kernel, step_empty rfl⟩
theorem witness_CodewordErrors : ∃ i j e f : Nat, i < j ∧ j < 4 ∧ 0 < e ∧ e < 16 ∧ 0 < f ∧ f < 16 := ⟨0, 3, 15, 1, by decide⟩

/-! ### Ill-formed commands that the check refuses, and a well-formed one -/

theorem test_wf_accepts : wellFormed (.nop (mp 0 0 0 0 [])) = true := by decide
theorem test_wf_opcode : wellFormed (.nop { mp 0 0 0 0 [] with opcode := 256 }) = false := by decide
theorem test_wf_class : wellFormed (.writeData { mp 0 0 0 0 [] with cls := 8 }) = false := by decide
theorem test_wf_port : wellFormed (.copy { mp 0 0 0 0 [] with src := .haldip 2 }) = false := by decide
theorem test_wf_module : wellFormed (.moveBegin { mp 0 0 0 0 [] with src := .fabric 16384 9 6 }) = false := by decide
theorem test_wf_qpn : wellFormed (.deviceSqFetch 0) = false := by decide
theorem test_wf_half : wellFormed (.frontEndStartItem 2) = false := by decide
theorem test_wf_lcid : wellFormed (.add { lcid := 2 ^ 24, ctx := 0 } 0) = false := by decide
theorem test_wf_ctx : wellFormed (.remoteAccessServe 0 1024) = false := by decide
theorem test_wf_slot : wellFormed (.flush 64 0) = false := by decide
theorem test_wf_chan : wellFormed (.patrolScrub 192 {}) = false := by decide
theorem test_wf_core : wellFormed (.confCoreScrub 576) = false := by decide
theorem test_wf_seq_core : wellFormed (.seqCoreFailover 16 []) = false := by decide
theorem test_wf_run : wellFormed (.jmp 4096) = false := by decide
theorem test_wf_unit : wellFormed (.unitScrubDone ⟨1, 36⟩) = false := by decide
theorem test_wf_unit_kind : wellFormed (.unitScrubDone ⟨3, 0⟩) = false := by decide
theorem test_wf_frame : wellFormed (.frameReceive 0 { bytes := [], corrected := 0, uncorrectable := 0 }) = false := by decide
theorem test_wf_fabric : wellFormed (.fabricRead { fk 7 with kind := 1 }) = false := by decide
theorem test_wf_bid : wellFormed (.barrierArrive 0 256 0 0) = false := by decide
theorem test_wf_sheaf : wellFormed (.rangeWalk 36 0 0) = false := by decide

/-- No word spells a command. -/
theorem test_no_word : decodeTableWord 32 0 = none ∧ bound.withFetchWord 32 0 = bound := by decide +kernel

/-! ### The spec's own examples -/

/-- The CRC of R158: "123456789". -/
theorem test_crc_ascii : crc32c [0x31, 0x32, 0x33, 0x34, 0x35, 0x36, 0x37, 0x38, 0x39] = 0xE3069283 := by decide +kernel
/-- The CRC of R158: a header of 32 zero bytes. -/
theorem test_crc_zeros : crc32c (List.replicate 32 0) = 0x8A9136AA := by decide +kernel

/-- The ECC check vectors of R215. -/
theorem test_ecc_zeros : eccEncode 0 = 0xFFFF ∧ eccEncode (2 ^ 128 - 1) = 0xFFFF ∧ eccEncode 1 = 0xDFAC := by decide +kernel
theorem test_ecc_encode : eccEncode 0xA0000000000000300000000000000000 = 0x7021 := by decide +kernel
theorem test_ecc_data_nibble : eccDecode 0xA0000000000000000000000000000000 0x7021 = .data 0xA0000000000000300000000000000000 := by
  decide +kernel
theorem test_ecc_check_nibble : eccDecode 0xA0000000000000300000000000000000 0x7121 = .check := by decide +kernel
theorem test_ecc_two_nibbles : eccDecode 0xA0000000000000000000000000000001 0x7021 = .uncorrectable := by decide +kernel
theorem test_ecc_all_zero : eccDecode 0 0 = .uncorrectable ∧ eccSyn 0 0 = (0xF, 0x1, 0xF, 0xF) := by decide +kernel

/-- The interleaved range of R223: Ossary-9. -/
theorem test_range_example :
    rangeFpa { rng with va := 0x7F2000000000, fpa := 0x143600000000, pages := 0x4000, ilv := 4 } (0x7F2000000000 + 0x123456)
      = 0x1437B0012456 := by decide +kernel

/-- The vector test vectors of R85 to R89. -/
theorem test_fma : f32Fma 0x3F800800 0x3F800800 0xBF800000 = 0x3A000400
    ∧ f32Add (f32Mul 0x3F800800 0x3F800800) 0xBF800000 = 0x3A000000 := by decide +kernel
theorem test_add_subnormal : f32Add 1 1 = 2 := by decide +kernel
theorem test_min_max : f32Min 0x80000000 0 = 0x80000000 ∧ f32Max 0x7FC00000 0x3F800000 = 0x7FC00000 := by decide +kernel
theorem test_exp2 : f32Exp2 0x40400000 = 0x41000000 ∧ f32Exp2 0xC3150000 = 1 ∧ f32Exp2 0xC3160000 = 0
    ∧ f32Exp2 0x43000000 = 0x7F800000 := by
  decide +kernel
theorem test_log2 : f32Log2 0x41000000 = 0x40400000 ∧ f32Log2 0 = 0xFF800000 ∧ f32Log2 0xBF800000 = 0x7FC00000 := by decide +kernel
theorem test_rcp : f32Rcp 0x40400000 = 0x3EAAAAAB ∧ f32Rcp 0x80000000 = 0xFF800000 ∧ f32Rcp 0x7F000000 = 0x00400000 := by decide +kernel
theorem test_sqrt : f32Sqrt 0x40000000 = 0x3FB504F3 ∧ f32Sqrt 0x80000000 = 0x80000000 := by decide +kernel
theorem test_rsqrt : f32Rsqrt 0x40000000 = 0x3F3504F3 ∧ f32Rsqrt 0x40800000 = 0x3F000000 ∧ f32Rsqrt 0 = 0x7F800000 := by decide +kernel
theorem test_exp : f32Exp 0 = 0x3F800000 ∧ f32Exp 0x3F800000 = 0x402DF854 := by decide +kernel
theorem test_sigmoid : f32Sigmoid 0 = 0x3F000000 ∧ f32Sigmoid 0x7F800000 = 0x3F800000 := by decide +kernel
theorem test_tanh : f32Tanh 0x7F800000 = 0x3F800000 ∧ f32Tanh 0xB9000000 = 0xB9000000 := by decide +kernel
theorem test_gelu : f32Gelu 0 = 0 ∧ f32Gelu 0x80000000 = 0x80000000 ∧ f32Gelu 0xFF800000 = 0x80000000
    ∧ f32Gelu 0x7F800000 = 0x7F800000 := by
  decide +kernel

/-- The FGX example of R82: Pelvane-3 on grids 0x6B and 0x6D. -/
theorem test_fgx_pelvane : satInt 32 (1258553344 + 1153957888 + 734003200) = (0x7FFFFFFF, true)
    ∧ satInt 32 (314638336 + 288489472 + 183500800) = (0x2EE30000, false)
        ∧ toF32 (ofFgx 0x6D 0x2EE30000).1 = 0x453B8C00 := by decide +kernel

/-! ### One step -/

/-- The state after a command at the front of the queue. -/
def after (i : Instr) (s : State) : State :=
  match step { s with pending := [i] } with
  | .next t => t
  | _ => State.reset

/-- X1 to 5 + 6 by ADD with the second operand of the word; the PC goes on by eight. -/
theorem test_add : (findTen (after (.add pair (word 1 1 2 0 0 0 0 0)) core) pair).map (fun x => (xGet x 1, x.pc)) = some (13,
    0x100008) := by
  decide +kernel
/-- A full-width borrow: 6 − 7 is 2^64 − 1. -/
theorem test_sub : (findTen (after (.sub pair (word 3 1 2 0 0 0 0 0)) core) pair).map (fun x => xGet x 3) = some 0xFFFFFFFFFFFFFFFF := by
  decide +kernel
/-- DIVU by zero (R127). -/
theorem test_divu : (findTen (after (.divu pair (word 1 2 0 0 0 0 0 0)) core) pair).map (fun x => xGet x 1) = some 0xFFFFFFFFFFFFFFFF := by
  decide +kernel
/-- X0 reads as zero and discards what is written (R99). -/
theorem test_x0 : (findTen (after (.add pair (word 0 1 2 0 0 0 0 0)) core) pair).map (fun x => xGet x 0) = some 0 := by decide +kernel
/-- A store to the window, read back little-endian (R128). -/
theorem test_store : (findTen (after (.st pair (word 0 3 2 0 0 1 0 0)) core) pair).map (fun x => winRead x 0x40 8) = some (leBytes 8 7) := by
  decide +kernel
/-- EVENT_RECORD advances a counter (R186). -/
theorem test_event : (getEv (after (.eventRecord { mp (7 + 5 * 2 ^ 16) 0 20 0 [] with opcode := 0x40 }) bound) 7).val = 20 := by decide +kernel
/-- The reply of a NOP on QP 0 (R159): OK. -/
theorem test_nop : ((getFe (after (.nop (mp 0 0 0 0 [])) bound) 0).store).map (fun r => (r.opcode, r.status)) = [(0xF0,
    0)] := by decide +kernel
/-- An event that nothing gates counts a cycle when the queue is empty (notes/assumptions/2.md). -/
theorem test_idle : (match step bound with | .next t => t.dev.now | _ => 0) = bound.dev.now + 1 := by decide +kernel

end Sys2Proof.Tests
end

/-! PROOFS. An empty queue (spec/01 R32, spec/09 R250): what sending flits and frames leaves of a port, what an idle cycle does
where nothing waits, and what reset leaves. -/
section
namespace Sys2Proof.Machine

/-! ### What sending flits leaves of a port -/

/-- A port without what the flits that leave the module change: the round robins, the credits, the packets under way and the freed
buffers. -/
def Port.lessFlits (x : Port) : Port := { x with drr := [], credits := [], cur := [], freed := [] }

/-- What flits do not change can be read off without them. -/
theorem Port.eq_of_lessFlits {x y : Port} (h : x.lessFlits = y.lessFlits) :
    x.st = y.st ∧ x.again = y.again ∧ x.kept = y.kept ∧ x.txNext = y.txNext := by
  simp only [lessFlits, Port.mk.injEq] at h
  simp only [h, and_self]

/-- An update of port `p` that keeps it but for its flits keeps every port but for its flits. -/
theorem getPort_setPort_lessFlits {s : State} {p : Nat} {x : Port} (h : x.lessFlits = (getPort s p).lessFlits) (q : Nat) :
    (getPort (setPort s p x) q).lessFlits = (getPort s q).lessFlits := by
  rw [getPort_setPort]
  split
  next hq => rw [h, hq]
  next => rfl

@[simp] theorem sendFlit_dev (s : State) (q : Nat) (o : OutPkt) (t : Tab Drr) : (sendFlit s q o t).1.dev = s.dev := by
  unfold sendFlit
  cases o.src <;> rfl

@[simp] theorem sendFlit_fe (s : State) (q : Nat) (o : OutPkt) (t : Tab Drr) : (sendFlit s q o t).1.fe = s.fe := by
  unfold sendFlit
  cases o.src <;> rfl

@[simp] theorem getPort_sendFlit_lessFlits (s : State) (q : Nat) (o : OutPkt) (t : Tab Drr) (p : Nat) :
    (getPort (sendFlit s q o t).1 p).lessFlits = (getPort s p).lessFlits := by
  unfold sendFlit
  cases o.src with
  | none => exact getPort_setPort_lessFlits (by rfl) p
  | some b => exact (getPort_setPort_lessFlits (by rfl) p).trans (getPort_setPort_lessFlits (by rfl) p)

/-- A flit slot is filled with a packet's flit, or left empty. -/
theorem fillSlot_state (q : Nat) (r : State × List FlitSlot) (i : Nat) :
    (fillSlot q r i).1 = r.1 ∨ ∃ o t, (fillSlot q r i).1 = (sendFlit r.1 q o t).1 := by
  unfold fillSlot
  dsimp only
  split
  next o t _ => exact .inr ⟨o, t, rfl⟩
  next => exact .inl rfl

/-- What flits keep, filling slots of a frame keeps. -/
theorem foldl_fillSlot_keeps {α : Type} {f : State → α} (h : ∀ s q o t, f (sendFlit s q o t).1 = f s) (q : Nat) (l : List Nat)
    (r : State × List FlitSlot) : f (l.foldl (fillSlot q) r).1 = f r.1 := by
  induction l generalizing r with
  | nil => rfl
  | cons i l ih =>
    rw [List.foldl_cons, ih]
    rcases fillSlot_state q r i with e | ⟨o, t, e⟩
    · rw [e]
    · rw [e, h]

/-! ### Frames -/

/-- Joined strings of `n` bytes each. -/
theorem length_flatMap_of_length {α : Type} {f : α → List Byte} {n : Nat} (h : ∀ a, (f a).length = n) (l : List α) :
    (l.flatMap f).length = l.length * n := by
  induction l with
  | nil => rw [List.flatMap_nil, List.length_nil, List.length_nil, Nat.zero_mul]
  | cons a l ih => rw [List.flatMap_cons, List.length_append, h, ih, List.length_cons, Nat.succ_mul, Nat.add_comm]

@[simp] theorem length_controlSlot (x : Port) (slots : List FlitSlot) : (controlSlot x slots).length = 64 := by
  simp only [controlSlot, List.length_append, length_leBytes, length_flatMap_of_length (fun _ => length_leBytes 2 _),
    List.length_range, List.length_replicate, List.length_cons, List.length_nil]

@[simp] theorem length_frameBytes (x : Port) (slots : List FlitSlot) : (frameBytes x slots).length = 1285 := by
  simp only [frameBytes, List.length_append, length_controlSlot, length_flatMap_of_length (fun _ => length_sliceZ _ 0 64),
    List.length_range, length_leBytes, List.length_cons, List.length_nil]

/-- From `x` to `y` a port has sent one frame, which it keeps. -/
def SentOne (x y : Port) : Prop :=
  ∃ f, y.kept = x.kept ++ [f] ∧ f.seq = x.txNext ∧ f.bytes.length = 1285 ∧ y.txNext = x.txNext + 1

/-- A frame sent is one more kept and the next number, whatever its flits changed. -/
theorem SentOne.congr {x y x' y' : Port} (hx : x'.lessFlits = x.lessFlits) (hy : y'.lessFlits = y.lessFlits) (h : SentOne x y) :
    SentOne x' y' := by
  obtain ⟨-, -, xk, xn⟩ := Port.eq_of_lessFlits hx
  obtain ⟨-, -, yk, yn⟩ := Port.eq_of_lessFlits hy
  unfold SentOne
  rwa [xk, xn, yk, yn]

/-- A link that is not UP sends nothing. -/
theorem sendFrame_down {s : State} {q : Nat} (h : linkUp s q = false) : sendFrame s q = s := by
  simp only [sendFrame, h, Bool.not_false, Bool.true_or, if_true]

/-- The frame of a link that is UP and keeps fewer than 256: filled flit slots, then the port with one frame more. -/
theorem sendFrame_up {s : State} {q : Nat} (h : linkUp s q = true) (k : (getPort s q).kept.length < 256) :
    ∃ y, sendFrame s q = setPort ((List.range 19).foldl (fillSlot q) (s, [])).1 q y ∧ SentOne (getPort s q) y := by
  have e : (getPort ((List.range 19).foldl (fillSlot q) (s, [])).1 q).lessFlits = (getPort s q).lessFlits :=
    foldl_fillSlot_keeps (f := fun s => (getPort s q).lessFlits) (fun s p o t => getPort_sendFlit_lessFlits s p o t q) q _ _
  simp only [sendFrame, h, Bool.not_true, Bool.false_or, decide_eq_true_eq, Nat.not_le.mpr k, if_false]
  generalize (List.range 19).foldl (fillSlot q) (s, []) = r at e ⊢
  exact ⟨_, rfl, SentOne.congr (x := getPort r.1 q) e.symm rfl ⟨_, rfl, rfl, length_frameBytes _ _, rfl⟩⟩

/-- A port sends nothing, or a frame. -/
theorem sendFrame_cases (s : State) (q : Nat) :
    sendFrame s q = s ∨ ∃ y, sendFrame s q = setPort ((List.range 19).foldl (fillSlot q) (s, [])).1 q y := by
  unfold sendFrame
  split
  · exact .inl rfl
  · exact .inr ⟨_, rfl⟩

@[simp] theorem sendFrame_dev (s : State) (q : Nat) : (sendFrame s q).dev = s.dev := by
  rcases sendFrame_cases s q with e | ⟨y, e⟩
  · rw [e]
  · rw [e, setPort_dev, foldl_fillSlot_keeps sendFlit_dev]

@[simp] theorem sendFrame_fe (s : State) (q : Nat) : (sendFrame s q).fe = s.fe := by
  rcases sendFrame_cases s q with e | ⟨y, e⟩
  · rw [e]
  · rw [e, setPort_fe, foldl_fillSlot_keeps sendFlit_fe]

/-- A port's frame leaves every other port but for its flits: it frees buffers of the ports that its packets came in by. -/
theorem getPort_sendFrame_lessFlits (s : State) {p q : Nat} (h : q ≠ p) :
    (getPort (sendFrame s p) q).lessFlits = (getPort s q).lessFlits := by
  rcases sendFrame_cases s p with e | ⟨y, e⟩
  · rw [e]
  · rw [e, getPort_setPort, if_neg h]
    exact foldl_fillSlot_keeps (f := fun s => (getPort s q).lessFlits) (fun s p o t => getPort_sendFlit_lessFlits s p o t q) p _ _

/-- Whether a link is UP does not hang on flits. -/
theorem linkUp_congr {s t : State} {q : Nat} (hf : t.fe = s.fe) (hp : (getPort t q).lessFlits = (getPort s q).lessFlits) :
    linkUp t q = linkUp s q := by
  obtain ⟨st, again, -, -⟩ := Port.eq_of_lessFlits hp
  simp only [linkUp, portUp, getFe, hf, st, again]

@[simp] theorem foldl_sendFrame_dev (l : List Nat) (s : State) : (l.foldl sendFrame s).dev = s.dev := by
  induction l generalizing s with
  | nil => rfl
  | cons p l ih => rw [List.foldl_cons, ih, sendFrame_dev]

/-- The frames of links that are not UP change nothing. -/
theorem foldl_sendFrame_down {s : State} {l : List Nat} (h : ∀ q ∈ l, linkUp s q = false) : l.foldl sendFrame s = s := by
  induction l with
  | nil => rfl
  | cons p l ih =>
    rw [List.foldl_cons, sendFrame_down (h p List.mem_cons_self)]
    exact ih (fun q hq => h q (List.mem_cons_of_mem p hq))

/-- The frames of other ports leave a port but for its flits. -/
theorem getPort_foldl_sendFrame_lessFlits (s : State) {l : List Nat} {q : Nat} (h : q ∉ l) :
    (getPort (l.foldl sendFrame s) q).lessFlits = (getPort s q).lessFlits := by
  induction l generalizing s with
  | nil => rfl
  | cons p l ih =>
    rw [List.mem_cons, not_or] at h
    rw [List.foldl_cons, ih (sendFrame s p) h.2, getPort_sendFrame_lessFlits s h.1]

/-- Where each of a list of ports sends a frame, a port of the list whose link is UP and which keeps fewer than 256 sends one. -/
theorem foldl_sendFrame_sentOne {s : State} {l : List Nat} (nd : l.Nodup) {q : Nat} (hq : q ∈ l) (up : linkUp s q = true)
    (k : (getPort s q).kept.length < 256) : SentOne (getPort s q) (getPort (l.foldl sendFrame s) q) := by
  induction l generalizing s with
  | nil => cases hq
  | cons p l ih =>
    obtain ⟨hp, nd⟩ := List.nodup_cons.mp nd
    rw [List.foldl_cons]
    by_cases e : q = p
    · subst e
      obtain ⟨y, sent, one⟩ := sendFrame_up up k
      refine one.congr rfl ?_
      rw [getPort_foldl_sendFrame_lessFlits _ hp, sent, getPort_setPort_same]
    · have same := getPort_sendFrame_lessFlits s e
      obtain ⟨-, -, kept, -⟩ := Port.eq_of_lessFlits same
      exact (ih nd ((List.mem_cons.mp hq).resolve_left e) ((linkUp_congr (sendFrame_fe s p) same).trans up) (kept ▸ k)).congr
        same.symm rfl

theorem frameTick_dev (s : State) : (frameTick s).dev = s.dev := by
  unfold frameTick
  split
  · exact foldl_sendFrame_dev _ s
  · rfl

/-- Between two frames' ends no link sends. -/
theorem frameTick_notDue {s : State} (h : frameDue s.dev.now = false) : frameTick s = s := by
  rw [frameTick, h, if_neg Bool.false_ne_true]

/-- Where no link is UP, none sends. -/
theorem frameTick_down {s : State} (h : ∀ q, q < 34 → linkUp s q = false) : frameTick s = s := by
  unfold frameTick
  rw [foldl_sendFrame_down (fun q hq => h q (List.mem_range.mp hq)), ite_self]

/-- When a frame ends, a link that is UP and keeps fewer than 256 sends one. -/
theorem frameTick_sentOne {s : State} (due : frameDue s.dev.now = true) {q : Nat} (hq : q < 34) (up : linkUp s q = true)
    (k : (getPort s q).kept.length < 256) : SentOne (getPort s q) (getPort (frameTick s) q) := by
  rw [frameTick, if_pos due]
  exact foldl_sendFrame_sentOne List.nodup_range (List.mem_range.mpr hq) up k

/-! ### An idle cycle where nothing waits -/

/-- The state one control-network cycle later: the time and the running halves' counters. -/
def cycled (s : State) : State :=
  { s with dev := { s.dev with now := s.dev.now + 1, cnt0 := if s.pwr.half0 < 2 then s.dev.cnt0 + 1 else s.dev.cnt0,
                               cnt1 := if s.pwr.half1 < 2 then s.dev.cnt1 + 1 else s.dev.cnt1 } }

theorem Quiet.cycled {s : State} (h : Quiet s) : Quiet (cycled s) := h

/-- No controller has a request to serve. -/
theorem hbmTick_of_empty {s : State} (h : ∀ e ∈ s.mem.chans, e.2.queue = []) : hbmTick s = s := by
  have none : s.mem.chans.filter (fun e => !e.2.queue.isEmpty) = [] :=
    List.filter_eq_nil_iff.mpr (fun e he => by rw [h e he]; exact Bool.false_ne_true)
  rw [hbmTick, none]
  rfl

/-- No invalidation waits for requests alone. -/
theorem invalSettle_of_none {s : State} (h : ∀ b ∈ s.fe.begun, ∀ tags, b.job ≠ .inval [] tags) : invalSettle s = s := by
  unfold invalSettle
  refine List.foldlRecOn (motive := fun t => t = s) _ _ rfl (fun t ht b hb => ?_)
  split
  next tags e => exact absurd e (h b hb tags)
  next => exact ht

theorem sheavesFail_of_none {s : State} (h : s.res.sheafDue = []) : sheavesFail s = s := by
  rw [sheavesFail, h, List.foldl_nil, ← h]

theorem collsCut_of_none {s : State} (h : s.fab.cutColls = []) : collsCut s = s := by
  rw [collsCut, h, List.foldl_nil, ← h]

theorem refusedSettle_of_none {s : State} (h : s.fab.refused = []) : refusedSettle s = s := by
  rw [refusedSettle, h, List.foldl_nil, ← h]

theorem sideGoesOn_of_none (f : Handler) {s : State} (h : s.fe.sideWait = []) : sideGoesOn f s = s := by
  rw [sideGoesOn, h]

/-- Where nothing waits, an idle cycle counts and sends the frames that are due. -/
theorem idle_of_quiet {s : State} (h : Quiet s) : idle s = frameTick (cycled s) := by
  obtain ⟨side, refused, cut, sheaf, inval, chans⟩ := h.cycled
  have e : idle s = frameTick (sideGoesOn startOp (refusedSettle (collsCut (sheavesFail (invalSettle (hbmTick (cycled s))))))) := rfl
  rw [e, hbmTick_of_empty chans, invalSettle_of_none inval, sheavesFail_of_none sheaf, collsCut_of_none cut,
    refusedSettle_of_none refused, sideGoesOn_of_none startOp side]

/-- A step on an empty queue is an idle cycle. -/
theorem step_of_empty_quiet {s : State} (empty : s.pending = []) (h : Quiet s) : step s = .next (frameTick (cycled s)) := by
  rw [step, empty, ← idle_of_quiet h]

/-- Settles O2: every pass of the idle cycle over what waits finds nothing, so that the count and the frames are left. -/
theorem emptyQueueCountsOneCycle : Obligations.EmptyQueueCountsOneCycle := by
  unfold Obligations.EmptyQueueCountsOneCycle
  refine ⟨fun s empty quiet down => ?_, fun s empty quiet => ?_⟩
  · have e : step s = .next (cycled s) := by rw [step_of_empty_quiet empty quiet, frameTick_down (s := cycled s) down]
    exact ⟨_, _, e, fun run => if_pos run, fun off => if_neg (Nat.not_lt.mpr off), fun run => if_pos run,
      fun off => if_neg (Nat.not_lt.mpr off)⟩
  · refine ⟨_, step_of_empty_quiet empty quiet, congrArg (·.now) (frameTick_dev _), fun q hq up room => ⟨fun off => ?_, fun due => ?_⟩⟩
    · rw [frameTick_notDue (s := cycled s) off]
      rfl
    · exact frameTick_sentOne (s := cycled s) due hq up room

/-! ### Reset -/

/-- A tag after reset reads as the default of its granule: MODULE where it is reserved, FREE else. -/
theorem getTag_reset (k : Nat) : getTag State.reset (false, k) = if granReserved k = true then { st := 2 } else {} := rfl

/-- Settles O4: no table of the state lists anything after reset, so that each reads as its default, and the registers evaluate. -/
theorem resetValues : Obligations.ResetValues := by
  unfold Obligations.ResetValues
  refine ⟨⟨rfl, rfl, reset_memory_wf⟩, ⟨fun k res => ?_, fun k free => ?_⟩, ⟨fun _ => rfl, fun _ => rfl, fun _ => rfl⟩,
    ⟨fun _ => rfl, fun _ => rfl, rfl, rfl⟩, ?registers⟩
  · rw [getTag_reset, if_pos res]
  · rw [getTag_reset, free]
    rfl
  case registers => decide +kernel

end Sys2Proof.Machine
end

/-! PROOFS. The binding record (spec/02 R36): each field reads back from its place in the 192 bytes. -/
section
namespace Sys2Proof.Machine

/-! ### Bytes and bits -/

/-- A byte of a string, as a number. -/
theorem numAt_byte {l : List Byte} {i : Nat} (h : i < l.length) : numAt l i 1 = (l[i]).toNat := by
  have e : (l.drop i).take 1 = [l[i]] := by rw [List.drop_eq_getElem_cons h]; rfl
  rw [numAt, sliceZ_inside (Nat.succ_le_of_lt h), e]
  rfl

/-- Numbers below 256 written as a byte each read as themselves. -/
theorem numAt_map_ofNat {l : List Nat} (small : ∀ x ∈ l, x < 256) {i : Nat} (h : i < l.length) :
    numAt (l.map (BitVec.ofNat 8)) i 1 = l[i] := by
  rw [numAt_byte (by rwa [List.length_map]), List.getElem_map, BitVec.toNat_ofNat]
  exact Nat.mod_eq_of_lt (small _ (List.getElem_mem h))

/-- Numbers below 256 written as a byte each, read one by one. -/
theorem map_numAt_ofNat {l : List Nat} (small : ∀ x ∈ l, x < 256) :
    (List.range l.length).map (fun i => numAt (l.map (BitVec.ofNat 8)) i 1) = l := by
  refine List.ext_getElem (by rw [List.length_map, List.length_range]) (fun i _ h => ?_)
  rw [List.getElem_map, List.getElem_range, numAt_map_ofNat small h]

theorem flatMap_leBytes_one {α : Type} (f : α → Nat) (l : List α) :
    l.flatMap (fun a => leBytes 1 (f a)) = (l.map f).map (BitVec.ofNat 8) := by
  rw [List.map_map]
  exact (List.map_eq_flatMap (f := BitVec.ofNat 8 ∘ f)).symm

theorem ofLE_append (a b : List Byte) : ofLE (a ++ b) = ofLE a + 256 ^ a.length * ofLE b := by
  induction a with
  | nil => simp [ofLE]
  | cons x a ih =>
    rw [List.cons_append, ofLE, ofLE, ih, List.length_cons, Nat.pow_succ, Nat.mul_add, ← Nat.add_assoc, ← Nat.mul_assoc,
      Nat.mul_comm 256 (256 ^ a.length)]

theorem ofLE_lt (l : List Byte) : ofLE l < 256 ^ l.length := by
  induction l with
  | nil => exact Nat.one_pos
  | cons x l ih =>
    have := x.isLt
    rw [ofLE, List.length_cons, Nat.pow_succ]
    omega

theorem numAt_lt (l : List Byte) (o n : Nat) : numAt l o n < 256 ^ n := by
  have := ofLE_lt (sliceZ l o n)
  rwa [length_sliceZ] at this

/-- A number in a string is its low bytes and its high bytes. -/
theorem numAt_add {l : List Byte} {o n m : Nat} (h : o + (n + m) ≤ l.length) :
    numAt l o (n + m) = numAt l o n + 256 ^ n * numAt l (o + n) m := by
  have e : sliceZ l o (n + m) = sliceZ l o n ++ sliceZ l (o + n) m := by
    rw [sliceZ_inside h, sliceZ_inside (by omega), sliceZ_inside (by omega), List.take_add, List.drop_drop]
  rw [numAt, e, ofLE_append, length_sliceZ]
  rfl

/-- Bits below 2 ^ n: their sum has each as its bit. -/
theorem testBit_sum_bits (f : Nat → Bool) (n : Nat) :
    ((List.range n).map (fun i => if f i then 2 ^ i else 0)).sum < 2 ^ n
      ∧ ∀ i, i < n → ((List.range n).map (fun i => if f i then 2 ^ i else 0)).sum.testBit i = f i := by
  induction n with
  | zero => exact ⟨Nat.one_pos, fun i h => absurd h (Nat.not_lt_zero i)⟩
  | succ n ih =>
    obtain ⟨bound, bits⟩ := ih
    rw [List.range_succ, List.map_append, List.sum_append, List.map_singleton, List.sum_singleton, Nat.add_comm]
    generalize ((List.range n).map (fun i => if f i then 2 ^ i else 0)).sum = x at bound bits ⊢
    refine ⟨by rw [Nat.pow_succ]; split <;> omega, fun i h => ?_⟩
    by_cases top : f n = true
    · rw [if_pos top]
      rcases Nat.lt_succ_iff_lt_or_eq.mp h with low | rfl
      · rw [Nat.testBit_two_pow_add_gt low, bits i low]
      · rw [Nat.testBit_two_pow_add_eq, Nat.testBit_lt_two_pow bound, top]
        rfl
    · rw [if_neg top, Nat.zero_add]
      rcases Nat.lt_succ_iff_lt_or_eq.mp h with low | rfl
      · exact bits i low
      · rw [Nat.testBit_lt_two_pow bound, Bool.eq_false_iff.mpr top]

theorem bitAt_eq_testBit (x i : Nat) : bitAt x i = x.testBit i := by
  rw [Nat.testBit_eq_decide_div_mod_eq]
  rfl

@[simp] theorem length_bitsMap (l : List Nat) (n : Nat) : (bitsMap l n).length = n := by rw [bitsMap, List.length_map, List.length_range]

/-- A map of bits reads as the numbers that were set, in order. -/
theorem mapBits_bitsMap (l : List Nat) (n : Nat) : mapBits (bitsMap l n) (8 * n) = (List.range (8 * n)).filter (fun i => l.contains i) := by
  refine List.filter_congr (fun i h => ?_)
  have hi : i / 8 < n := Nat.div_lt_of_lt_mul (List.mem_range.mp h)
  obtain ⟨bound, bits⟩ := testBit_sum_bits (fun k => l.contains (8 * (i / 8) + k)) 8
  rw [numAt_byte (by rwa [length_bitsMap])]
  simp only [bitsMap, List.getElem_map, List.getElem_range, BitVec.toNat_ofNat]
  rw [Nat.mod_eq_of_lt bound, bitAt_eq_testBit, bits _ (Nat.mod_lt i (by decide)), Nat.div_add_mod]

/-! ### Port shares -/

/-- A table in canonical form lists the reads of any range that holds its keys, but for those of unlisted keys. -/
theorem filter_map_tabGet {α : Type} [DecidableEq α] (d : Nat → α) (n lo : Nat) {t : Tab α} (wf : tabWfFrom d lo t = true)
    (keys : ∀ e ∈ t, e.1 < lo + n) :
    ((List.range' lo n).map (fun q => (q, tabGet d t q))).filter (fun e => decide (e.2 ≠ d e.1)) = t := by
  induction n generalizing lo t with
  | zero =>
    cases t with
    | nil => rfl
    | cons e t =>
      obtain ⟨j, a⟩ := e
      simp only [tabWfFrom, Bool.and_eq_true, decide_eq_true_eq] at wf
      have := keys (j, a) List.mem_cons_self
      omega
  | succ n ih =>
    rw [List.range'_succ, List.map_cons]
    cases t with
    | nil =>
      rw [List.filter_cons_of_neg (by simp [tabGet])]
      exact ih (lo + 1) rfl (fun e he => nomatch he)
    | cons e t =>
      obtain ⟨j, a⟩ := e
      simp only [tabWfFrom, Bool.and_eq_true, decide_eq_true_eq] at wf
      obtain ⟨⟨le, ne⟩, wf⟩ := wf
      rcases Nat.lt_or_eq_of_le le with lt | rfl
      · rw [List.filter_cons_of_neg (by simp [tabGet, lt])]
        refine ih (lo + 1) ?_ (fun e he => by have := keys e he; omega)
        simp only [tabWfFrom, Bool.and_eq_true, decide_eq_true_eq]
        exact ⟨⟨lt, ne⟩, wf⟩
      · have tail : ∀ q ∈ List.range' (lo + 1) n, (q, tabGet d ((lo, a) :: t) q) = (q, tabGet d t q) := by
          intro q hq
          have above := (List.mem_range'_1.mp hq).1
          rw [tabGet, if_neg (by omega), if_neg (by omega)]
        rw [List.filter_cons_of_pos (by simp [tabGet, ne]), List.map_congr_left tail,
          ih (lo + 1) wf (fun e he => by have := keys e (List.mem_cons_of_mem _ he); omega)]
        simp [tabGet]

theorem tabOf_tabGet {α : Type} [DecidableEq α] (d : Nat → α) (n : Nat) {t : Tab α} (wf : tabWf d t = true)
    (keys : ∀ e ∈ t, e.1 < n) :
    tabOf d 0 ((List.range n).map (tabGet d t)) = t := by
  have e : ((List.range ((List.range n).map (tabGet d t)).length).zip ((List.range n).map (tabGet d t))).map (fun e => (0 + e.1, e.2))
      = (List.range' 0 n).map (fun q => (q, tabGet d t q)) := by
    refine List.ext_getElem (by simp) (fun i _ _ => ?_)
    simp [List.getElem_zip]
  rw [tabOf, e]
  exact filter_map_tabGet d n 0 wf (fun e he => by have := keys e he; omega)

theorem tabGet_lt {t : Tab Nat} {b : Nat} (pos : 0 < b) (small : ∀ e ∈ t, e.2 < b) (k : Nat) : tabGet (fun _ => 0) t k < b := by
  induction t with
  | nil => exact pos
  | cons e t ih =>
    rw [tabGet]
    split
    · exact pos
    · split
      · exact small e List.mem_cons_self
      · exact ih (fun e he => small e (List.mem_cons_of_mem _ he))

/-! ### Places in joined strings -/

/-- What stands after a number of `k` bytes. -/
theorem sliceZ_leBytes_skip {k o : Nat} (h : k ≤ o) (x : Nat) (b : List Byte) (n : Nat) :
    sliceZ (leBytes k x ++ b) o n = sliceZ b (o - k) n := by
  rw [sliceZ_right (by rw [length_leBytes]; exact h), length_leBytes]

theorem numAt_leBytes_skip {k o : Nat} (h : k ≤ o) (x : Nat) (b : List Byte) (n : Nat) :
    numAt (leBytes k x ++ b) o n = numAt b (o - k) n :=
  congrArg ofLE (sliceZ_leBytes_skip h x b n)

/-- The first part of a joined string. -/
theorem sliceZ_front {a : List Byte} {n : Nat} (h : n = a.length) (b : List Byte) : sliceZ (a ++ b) 0 n = a := by
  rw [sliceZ_left (by omega), sliceZ_whole h]

theorem numAt_leBytes_front (n x : Nat) (b : List Byte) : numAt (leBytes n x ++ b) 0 n = x % 256 ^ n := by
  rw [numAt_left (by rw [length_leBytes]; omega), numAt_leBytes]

/-- What stands after a first part of known length. -/
theorem numAt_after {a : List Byte} {k : Nat} (h : a.length = k) (b : List Byte) (o n : Nat) : numAt (a ++ b) (k + o) n = numAt b o n := by
  rw [numAt_right (by omega), h, Nat.add_sub_cancel_left]

/-! ### The record -/

/-- The class shares as seven bytes. -/
theorem clsBytes {r : BindRec} (seven : r.clsShare.length = 7) :
    sliceZ (r.clsShare.flatMap (leBytes 1)) 0 7 = r.clsShare.map (BitVec.ofNat 8) := by
  have e : r.clsShare.flatMap (leBytes 1) = r.clsShare.map (BitVec.ofNat 8) := by
    rw [← List.map_id r.clsShare, ← flatMap_leBytes_one id r.clsShare, List.map_id]
    rfl
  rw [e]
  exact sliceZ_whole (by rw [List.length_map, seven])

@[simp] theorem length_bytesOfRec (r : BindRec) : (bytesOfRec r).length = 192 := by
  simp only [bytesOfRec, flatMap_leBytes_one, List.length_append, length_leBytes, length_bitsMap, length_sliceZ, List.length_map,
    List.length_range, List.length_replicate]

/-- What follows the maps: a byte for each port's share, one for each class's, CLASS7 and zeroes. -/
def recTail (r : BindRec) : List Byte :=
  ((List.range 32).map (tabGet (fun _ => 0) r.share)).map (BitVec.ofNat 8)
    ++ (r.clsShare.map (BitVec.ofNat 8) ++ (leBytes 1 (b2n r.class7) ++ List.replicate 32 0))

/-- The record's bytes as six words, two maps and what follows them. -/
theorem bytesOfRec_parts {r : BindRec} (seven : r.clsShare.length = 7) :
    bytesOfRec r = leBytes 4 r.pid ++ (leBytes 4 r.pgen.toNat ++ (leBytes 4 (r.lcount + r.slot * 2 ^ 24 + b2n r.conf * 2 ^ 30)
      ++ (leBytes 4 (r.lead + r.deputy * 2 ^ 16) ++ (leBytes 4 r.localCount ++ (leBytes 4 (r.runs + r.granary * 2 ^ 16)
      ++ (bitsMap r.cores 72 ++ (bitsMap r.chans 24 ++ recTail r))))))) := by
  rw [bytesOfRec, clsBytes seven, flatMap_leBytes_one]
  simp only [recTail, List.append_assoc]

/-- The first six words. -/
theorem words_bytesOfRec {r : BindRec} (seven : r.clsShare.length = 7) :
    numAt (bytesOfRec r) 0 4 = r.pid % 256 ^ 4 ∧ numAt (bytesOfRec r) 4 4 = r.pgen.toNat % 256 ^ 4
      ∧ numAt (bytesOfRec r) 8 4 = (r.lcount + r.slot * 2 ^ 24 + b2n r.conf * 2 ^ 30) % 256 ^ 4
      ∧ numAt (bytesOfRec r) 12 4 = (r.lead + r.deputy * 2 ^ 16) % 256 ^ 4
      ∧ numAt (bytesOfRec r) 16 4 = r.localCount % 256 ^ 4 ∧ numAt (bytesOfRec r) 20 4 = (r.runs + r.granary * 2 ^ 16) % 256 ^ 4 := by
  rw [bytesOfRec_parts seven]
  refine ⟨?_, ?_, ?_, ?_, ?_, ?_⟩
  all_goals
    simp (disch := decide) only [numAt_leBytes_skip, Nat.reduceSub, numAt_leBytes_front]

/-- The maps of cores and channels. -/
theorem maps_bytesOfRec {r : BindRec} (seven : r.clsShare.length = 7) :
    sliceZ (bytesOfRec r) 24 72 = bitsMap r.cores 72 ∧ sliceZ (bytesOfRec r) 96 24 = bitsMap r.chans 24 := by
  rw [bytesOfRec_parts seven]
  simp (disch := decide) only [sliceZ_leBytes_skip, Nat.reduceSub]
  refine ⟨sliceZ_front (length_bitsMap _ _).symm _, ?_⟩
  rw [sliceZ_right (Nat.le_of_eq (length_bitsMap _ _)), length_bitsMap]
  exact sliceZ_front (length_bitsMap _ _).symm _

/-- What follows the maps stands from byte 120 on. -/
theorem tail_bytesOfRec {r : BindRec} (seven : r.clsShare.length = 7) (o n : Nat) :
    numAt (bytesOfRec r) (120 + o) n = numAt (recTail r) o n := by
  have maps : (bitsMap r.cores 72 ++ bitsMap r.chans 24).length = 96 := by rw [List.length_append, length_bitsMap, length_bitsMap]
  rw [bytesOfRec_parts seven, ← List.append_assoc (bitsMap r.cores 72)]
  simp (disch := omega) only [numAt_leBytes_skip]
  rw [← numAt_after maps (recTail r) o n]
  congr 1
  omega

/-- The port shares, the class shares and CLASS7. -/
theorem shares_bytesOfRec {r : BindRec} (seven : r.clsShare.length = 7) :
    (∀ q, q < 32 → numAt (bytesOfRec r) (120 + q) 1
        = numAt (((List.range 32).map (tabGet (fun _ => 0) r.share)).map (BitVec.ofNat 8)) q 1)
      ∧ (∀ c, c < 7 → numAt (bytesOfRec r) (152 + c) 1 = numAt (r.clsShare.map (BitVec.ofNat 8)) c 1)
      ∧ numAt (bytesOfRec r) 159 1 = b2n r.class7 := by
  have ls : (((List.range 32).map (tabGet (fun _ => 0) r.share)).map (BitVec.ofNat 8)).length = 32 := by
    rw [List.length_map, List.length_map, List.length_range]
  have lc : (r.clsShare.map (BitVec.ofNat 8)).length = 7 := by rw [List.length_map, seven]
  refine ⟨fun q h => ?_, fun c h => ?_, ?_⟩
  · rw [tail_bytesOfRec seven, recTail, numAt_left (by omega)]
  · rw [show 152 + c = 120 + (32 + c) by omega, tail_bytesOfRec seven, recTail, numAt_after ls, numAt_left (by omega)]
  · rw [show 159 = 120 + (32 + (7 + 0)) from rfl, tail_bytesOfRec seven, recTail, numAt_after ls, numAt_after lc, numAt_leBytes_front]
    cases r.class7 <;> rfl

/-- Bit 24 of the word in which CLASS7 stands. -/
theorem class7_bytesOfRec {r : BindRec} (seven : r.clsShare.length = 7) : bitAt (numAt (bytesOfRec r) 156 4) 24 = r.class7 := by
  obtain ⟨-, -, c7⟩ := shares_bytesOfRec seven
  have low := numAt_lt (bytesOfRec r) 156 3
  have e : numAt (bytesOfRec r) 156 4 = numAt (bytesOfRec r) 156 3 + 256 ^ 3 * numAt (bytesOfRec r) 159 1 :=
    numAt_add (n := 3) (m := 1) (by rw [length_bytesOfRec]; decide)
  have high : numAt (bytesOfRec r) 156 4 / 2 ^ 24 = b2n r.class7 := by
    rw [e, c7]
    omega
  rw [bitAt, high]
  cases r.class7 <;> rfl

/-- The word with LCOUNT, the slot and CONF reads as its three fields. -/
theorem word2_reads {lcount slot : Nat} {conf : Bool} (hl : lcount < 2 ^ 24) (hs : slot < 64) :
    fld ((lcount + slot * 2 ^ 24 + b2n conf * 2 ^ 30) % 256 ^ 4) 0 24 = lcount
      ∧ fld ((lcount + slot * 2 ^ 24 + b2n conf * 2 ^ 30) % 256 ^ 4) 24 6 = slot
      ∧ bitAt ((lcount + slot * 2 ^ 24 + b2n conf * 2 ^ 30) % 256 ^ 4) 30 = conf := by
  have one : b2n conf ≤ 1 := by cases conf <;> decide
  have top : (lcount + slot * 2 ^ 24 + b2n conf * 2 ^ 30) % 256 ^ 4 / 2 ^ 30 % 2 = b2n conf := by omega
  refine ⟨by simp only [fld]; omega, by simp only [fld]; omega, ?_⟩
  rw [bitAt, top]
  cases conf <;> rfl

/-- A word with one field in each half reads as its two fields. -/
theorem halves_read {n a b : Nat} (hn : n ≤ 16) (ha : a < 2 ^ n) (hb : b < 2 ^ n) :
    fld ((a + b * 2 ^ 16) % 256 ^ 4) 0 n = a ∧ fld ((a + b * 2 ^ 16) % 256 ^ 4) 16 n = b := by
  have h16 : 2 ^ n ≤ 2 ^ 16 := Nat.pow_le_pow_right (by decide) hn
  have whole : (a + b * 2 ^ 16) % 256 ^ 4 = a + b * 2 ^ 16 := by omega
  have high : (a + b * 2 ^ 16) / 2 ^ 16 = b := by omega
  rw [whole]
  refine ⟨?_, by rw [fld, high, Nat.mod_eq_of_lt hb]⟩
  obtain ⟨k, hk⟩ := Nat.pow_dvd_pow 2 hn
  rw [fld, Nat.pow_zero, Nat.div_one, hk, ← Nat.mul_assoc, Nat.mul_right_comm, Nat.add_mul_mod_self_right, Nat.mod_eq_of_lt ha]

/-- Settles O11: word by word, map by map and byte by byte, each field reads back from its place. -/
theorem bindingRecordRoundTrip : Obligations.BindingRecordRoundTrip := by
  unfold Obligations.BindingRecordRoundTrip
  rintro r ⟨pid, lcount, slot, lead, deputy, localCount, runs, granary, cores, chans, shareWf, shareFits, seven, clsFits⟩
  refine ⟨length_bytesOfRec r, ?_⟩
  obtain ⟨w0, w1, w2, w3, w4, w5⟩ := words_bytesOfRec seven
  obtain ⟨m0, m1⟩ := maps_bytesOfRec seven
  obtain ⟨ports, classes, -⟩ := shares_bytesOfRec seven
  have readCores : mapBits (sliceZ (bytesOfRec r) 24 72) 576 = r.cores := by rw [m0, mapBits_bitsMap r.cores 72, ← cores]
  have readChans : mapBits (sliceZ (bytesOfRec r) 96 24) 192 = r.chans := by rw [m1, mapBits_bitsMap r.chans 24, ← chans]
  have readShare : tabOf (fun _ => 0) 0 ((List.range 32).map (fun q => numAt (bytesOfRec r) (120 + q) 1)) = r.share := by
    have bytes : (List.range 32).map (fun q => numAt (bytesOfRec r) (120 + q) 1) = (List.range 32).map (tabGet (fun _ => 0) r.share) := by
      rw [List.map_congr_left (fun q hq => ports q (List.mem_range.mp hq))]
      have := map_numAt_ofNat (l := (List.range 32).map (tabGet (fun _ => 0) r.share)) (fun x hx => by
        obtain ⟨q, -, rfl⟩ := List.mem_map.mp hx
        exact tabGet_lt (by decide) (fun e he => (shareFits e he).2) q)
      rwa [List.length_map, List.length_range] at this
    rw [bytes]
    exact tabOf_tabGet _ 32 shareWf (fun e he => (shareFits e he).1)
  have readCls : (List.range 7).map (fun c => numAt (bytesOfRec r) (152 + c) 1) = r.clsShare := by
    rw [List.map_congr_left (fun c hc => classes c (List.mem_range.mp hc)), ← seven, map_numAt_ofNat clsFits]
  have readPgen : BitVec.ofNat 32 (r.pgen.toNat % 256 ^ 4) = r.pgen := by
    have e : r.pgen.toNat % 256 ^ 4 = r.pgen.toNat := Nat.mod_eq_of_lt r.pgen.isLt
    rw [e, BitVec.ofNat_toNat, BitVec.setWidth_eq]
  obtain ⟨readLcount, readSlot, readConf⟩ := word2_reads (conf := r.conf) lcount slot
  obtain ⟨readLead, readDeputy⟩ := halves_read (n := 14) (by decide) lead deputy
  obtain ⟨readRuns, readGranary⟩ := halves_read (n := 16) (by decide) runs granary
  have readPid : r.pid % 256 ^ 4 = r.pid := Nat.mod_eq_of_lt pid
  have readLocal : fld (r.localCount % 256 ^ 4) 0 24 = r.localCount := by
    simp only [fld]
    omega
  simp only [recOfBytes, Nat.reduceMul, Nat.mul_zero, w0, w1, w2, w3, w4, w5, readCores, readChans, readShare, readCls, readPgen,
    class7_bytesOfRec seven, readLcount, readSlot, readConf, readLead, readDeputy, readRuns, readGranary, readPid, readLocal]

end Sys2Proof.Machine
end

/-! PROOFS. Partition commands (spec/02 R39-R51): what creation, binding, destruction and queries of partitions, contexts and queue
pairs leave on QP 0. -/
section
namespace Sys2Proof.Machine

/-- A command for a slot that is bound and not DESTROYING is carried out for that slot (R40). -/
theorem withSlot_ok {pid : Pkt → Nat} {f : Nat → Handler} {q : QRef} {p : Pkt} {u : State} {i : Nat}
    (held : slotOfPid u (pid p) = some i) (live : (getSlot u i).st ≠ 5) : withSlot pid f q p u = f i q p u := by
  simp only [withSlot, held, live, if_false]

/-- What a command on QP 0 leaves follows from what its handler leaves. -/
theorem exec_takes_eq {s v : State} {h : Nat} {p : Pkt} {mk : Pkt → Instr} {op : Nat} {f : Handler}
    (he : ∀ p s, exec (mk p) s = .next (arrive f wrongOnFabric { p with opcode := op } s))
    (k : MgmtTakes s h { p with opcode := op })
    (e : f (.mgmt h) { p with opcode := op } (taken s h { p with opcode := op }) = v) : exec (mk p) s = .next (wakeAll v) := by
  rw [exec_takes he k, e]

/-- A segment of a binding as R39 allows it. -/
theorem bindLen_ok {seg first n : Nat} (ok : (seg = 0 ∧ n = 192) ∨ (seg = 1 ∧ n ≠ 0 ∧ n % 8 = 0 ∧ first + n / 8 ≤ 2176)
      ∨ (seg = 2 ∧ n ≠ 0 ∧ n % 8 = 0 ∧ first + n / 8 ≤ 32768)) :
    seg ≠ 3 ∧ ¬ ((seg = 0 ∧ n ≠ 192) ∨ (seg ≠ 0 ∧ (n = 0 ∨ n % 8 ≠ 0)) ∨ (seg = 1 ∧ 2176 < first + n / 8)
      ∨ (seg = 2 ∧ 32768 < first + n / 8)) := by
  omega

/-- Settles O45, command by command: none of the checks in a handler's order finds anything, and what is left is its effect. -/
theorem partitionCommandsComplete : Obligations.PartitionCommandsComplete := by
  unfold Obligations.PartitionCommandsComplete
  refine ⟨runsOn0_of startCreate _ (fun _ _ => rfl) ?create, runsOn0_of startBind _ (fun _ _ => rfl) ?stage, ?bind,
    runsOn0_of startPartDestroy _ (fun _ _ => rfl) ?destroy, runsOn0_of startPartQuery _ (fun _ _ => rfl) ?query,
    runsOn0_of startCtxCreate _ (fun _ _ => rfl) ?ctxCreate, runsOn0_of startCtxDestroy _ (fun _ _ => rfl) ?ctxDestroy,
    runsOn0_of startQpBind _ (fun _ _ => rfl) ?qpBind, runsOn0_of startQpUnbind _ (fun _ _ => rfl) ?qpUnbind⟩
  case create =>
    rintro h p u - ⟨len, pid, free, slotFree, blank, scrapped, trng⟩
    have keyed : ¬ (u.sec.lc = 0 ∨ u.sec.lc = 5 ∨ ((recOfBytes p.payload).conf = true ∧ (!u.sec.trngOk) = true)) := by
      rintro (e | e | ⟨conf, noTrng⟩)
      · exact blank e
      · exact scrapped e
      · rw [trng conf] at noTrng
        cases noTrng
    have unused : ¬ ((slotOfPid u (recOfBytes p.payload).pid).isSome = true ∨ (getSlot u (recOfBytes p.payload).slot).st ≠ 0) := by
      rw [free, slotFree]
      decide
    simp only [startCreate]
    rw [if_neg (not_not_intro len), if_neg pid, if_neg unused, if_neg keyed]
  case stage =>
    rintro h p u - ⟨⟨i, held, live⟩, seg, last⟩
    obtain ⟨seg3, len⟩ := bindLen_ok seg
    rw [startBind, withSlot_ok held live, held]
    simp only [seg3, len, last, if_false, Bool.not_false, if_true, Option.getD_some]
  case bind =>
    intro s h p i r lm rt k
    dsimp only
    intro held live segOk last idle checked
    obtain ⟨seg3, len⟩ := bindLen_ok segOk
    refine exec_takes_eq (f := startBind) (fun _ _ => rfl) k ?_
    rw [startBind, withSlot_ok held live]
    simp only [seg3, len, last, idle, checked, if_false, Bool.not_true, Bool.false_eq_true]
  case destroy =>
    rintro h p u - ⟨i, held, live⟩
    rw [startPartDestroy, withSlot_ok held live, held]
    rfl
  case query =>
    rintro h p u - ⟨i, held⟩
    simp only [startPartQuery, held, Option.getD_some]
  case ctxCreate =>
    rintro h p u - ⟨free, i, held, live, room⟩
    have ok : ¬ ((getCtx u (fld p.w4.toNat 0 10)).st ≠ 0
        ∨ ((getSlot u i).brec.conf = true ∧ (getSlot u i).brec.cores.length ≤ liveCount u i)) := by
      rintro (e | ⟨conf, full⟩)
      · exact e free
      · exact absurd (room conf) (Nat.not_lt.mpr full)
    rw [startCtxCreate, withSlot_ok held live, held]
    simp only [ok, if_false, Option.getD_some]
  case ctxDestroy =>
    rintro h p u - ⟨st, held, live⟩
    have used : ¬ ((getCtx u (fld p.w4.toNat 0 10)).st = 0
        ∨ (getCtx u (fld p.w4.toNat 0 10)).slot ≠ (getCtx u (fld p.w4.toNat 0 10)).slot) := by
      omega
    have fresh : (getCtx u (fld p.w4.toNat 0 10)).st ≠ 3 := by omega
    simp only [startCtxDestroy, pid5, held, live, used, fresh, if_false]
  case qpBind =>
    rintro h p u - ⟨n0, free, ctxLive, class7⟩
    have allowed : ¬ ((fld p.w7.toNat 1 3 = 7 ∧ (!(getSlot u (getCtx u (fld p.w5.toNat 0 10)).slot).brec.class7) = true)
        ∨ fld p.w4.toNat 0 12 = 0) := by
      rintro (⟨c7, no⟩ | e)
      · rw [class7 c7] at no
        cases no
      · exact n0 e
    simp only [startQpBind]
    rw [if_neg (not_not_intro free), if_neg (not_not_intro ctxLive), if_neg allowed]
  case qpUnbind =>
    rintro h p u - ⟨n0, bound, once⟩
    have named : ¬ (fld p.w4.toNat 0 12 = 0 ∨ (getQp u (fld p.w4.toNat 0 12)).st = 0) := not_or.mpr ⟨n0, bound⟩
    simp only [startQpUnbind]
    rw [if_neg named, once, if_neg Bool.false_ne_true]
    rfl

end Sys2Proof.Machine
end

/-! PROOFS. Re-binding commands (spec/02 R52): the statement's RESET keeps the slot's link keys, and the module's destroys them, as the
end of keys (spec/13 R369) asks. -/
section
namespace Sys2Proof.Machine

/-- What RESET leaves (R52, R369): as the statement has it, but for the slot's link keys and agreements, which end. -/
theorem reset_runs : RunsVia .reset (fun p => rebindPkt p 8)
    (fun _ p u => ∃ i, Rebinds u p 8 i ∧ (p.w6 - (getSlot u i).pgen).toNat ≠ 0 ∧ (p.w6 - (getSlot u i).pgen).toNat < 2 ^ 31)
    (fun h p u =>
      let i := (slotOfPid u p.w4.toNat).getD 0
      let v := setSlot (begin (.mgmt h) p (.rebindReset p.w6) 0 u) i
        { getSlot u i with rebind := some u.fe.nextId, pgen := p.w6, brec := { (getSlot u i).brec with pgen := p.w6 } }
      slotCheck (destroyCtxs (retireAll (dropLinkKeys v i) i) i) i) := by
  refine runsVia_of startRebind wrongOnFabric (fun _ _ => rfl) ?_
  rintro h p u ⟨i, binds, later, near⟩
  have newer : ¬ (((rebindPkt p 8).w6 - (getSlot u i).pgen).toNat = 0 ∨ 2 ^ 31 ≤ ((rebindPkt p 8).w6 - (getSlot u i).pgen).toNat) := by
    omega
  rw [startRebind_ok (by decide) (by decide) binds, binds.1]
  exact if_neg newer

/-- A READY module that holds partition 9 in slot 1, with a link key of that slot for module 6. -/
def keyedModule : State :=
  { dev := { phase := .ready, fabId := 5 },
    fe := { ports := [(0, { up := true, adapter := some 7 })] },
    part := { slots := [(1, { st := 2, pgen := 6, bound := true, brec := { pid := 9, pgen := 6, slot := 1 } })] },
    fab := { keys := [{ slot := 1, peer := 6, keyix := 0, tx := [], rx := [] }] } }

/-- PART_REBIND of partition 9 to generation 7. -/
def resetTo7 : Pkt := { adapter := 7, w4 := 9, w6 := 7 }

theorem keyedModule_takes : MgmtTakes keyedModule 0 (rebindPkt resetTo7 8) := by
  unfold MgmtTakes
  decide +kernel

theorem keyedModule_resets : ∃ i, Rebinds (taken keyedModule 0 (rebindPkt resetTo7 8)) (rebindPkt resetTo7 8) 8 i
    ∧ ((rebindPkt resetTo7 8).w6 - (getSlot (taken keyedModule 0 (rebindPkt resetTo7 8)) i).pgen).toNat ≠ 0
    ∧ ((rebindPkt resetTo7 8).w6 - (getSlot (taken keyedModule 0 (rebindPkt resetTo7 8)) i).pgen).toNat < 2 ^ 31 :=
  ⟨1, by unfold Rebinds; decide +kernel, by decide +kernel⟩

/-- The link keys that a step leaves. -/
def keysLeft : Host.Outcome State Fault Refusal → List LinkKey
  | .next t => t.fab.keys
  | _ => []

/-- Refutes O46: of `keyedModule`'s one link key its clause for RESET leaves one, and the module none. -/
theorem not_rebindCommandsComplete : ¬ Obligations.RebindCommandsComplete := by
  unfold Obligations.RebindCommandsComplete
  rintro ⟨-, -, -, -, -, -, -, -, -, -, -, reset, -⟩
  have claimed := reset keyedModule 0 resetTo7 keyedModule_takes keyedModule_resets
  have done := reset_runs keyedModule 0 resetTo7 keyedModule_takes keyedModule_resets
  exact absurd (congrArg keysLeft (claimed.symm.trans done)) (by decide +kernel)

end Sys2Proof.Machine
end

/-! PROOFS. Handoffs between modules (spec/02 R57-R62): what an offer replaced reads as, and what each message does at the lead, at the
source and at the destination. -/
section
namespace Sys2Proof.Machine

/-! ### Offers at the destination -/

@[simp] theorem setOffer_setOffer (s : State) {o o' : Offer} (slot : o'.slot = o.slot) (lcid : o'.lcid = o.lcid) :
    setOffer (setOffer s o) o' = setOffer s o' := by
  have e : s.part.offers.map ((fun x => if x.slot == o'.slot && x.lcid == o'.lcid then o' else x) ∘
      fun x => if x.slot == o.slot && x.lcid == o.lcid then o else x)
      = s.part.offers.map (fun x => if x.slot == o'.slot && x.lcid == o'.lcid then o' else x) := by
    refine List.map_congr_left (fun x _ => ?_)
    rw [Function.comp_apply, slot, lcid]
    split
    next same => simp only [beq_self_eq_true, Bool.and_self, if_true]
    next => rfl
  simp only [setOffer, List.map_map, e]

/-- An offer that is held is that of its slot, its logical core and its epoch. -/
theorem offerOf_some {s : State} {slot lcid epoch : Nat} {o : Offer} (h : offerOf s slot lcid epoch = some o) :
    o ∈ s.part.offers ∧ o.slot = slot ∧ o.lcid = lcid ∧ o.epoch = epoch := by
  have keys := List.find?_some h
  simp only [Bool.and_eq_true, beq_iff_eq] at keys
  exact ⟨List.mem_of_find?_eq_some h, keys.1.1, keys.1.2, keys.2⟩

/-- The first offer of a slot's logical core after `o'` has taken the place of them all, where there is one. -/
theorem find?_map_setOffer {l : List Offer} {o o' : Offer} (mem : o ∈ l) (slot : o.slot = o'.slot) (lcid : o.lcid = o'.lcid) :
    (l.map (fun x => if x.slot == o'.slot && x.lcid == o'.lcid then o' else x)).find?
      (fun x => x.slot == o'.slot && x.lcid == o'.lcid && x.epoch == o'.epoch) = some o' := by
  induction l with
  | nil => cases mem
  | cons x l ih =>
    rw [List.map_cons]
    by_cases same : (x.slot == o'.slot && x.lcid == o'.lcid) = true
    · rw [if_pos same]
      exact List.find?_cons_of_pos (by simp only [beq_self_eq_true, Bool.and_self])
    · have later : o ∈ l := by
        rcases List.mem_cons.mp mem with e | e
        · exact absurd (by rw [← e, slot, lcid]; simp only [beq_self_eq_true, Bool.and_self]) same
        · exact e
      rw [if_neg same, List.find?_cons_of_neg (by simp only [same, Bool.false_and, Bool.false_eq_true, not_false_eq_true]), ih later]

/-- An offer put in the place of one that is held reads as itself. -/
theorem offerOf_setOffer {s : State} {slot lcid epoch : Nat} {o o' : Offer} (h : offerOf s slot lcid epoch = some o)
    (hslot : o'.slot = o.slot) (hlcid : o'.lcid = o.lcid) (hepoch : o'.epoch = o.epoch) :
    offerOf (setOffer s o') slot lcid epoch = some o' := by
  obtain ⟨mem, oslot, olcid, oepoch⟩ := offerOf_some h
  subst oslot olcid oepoch
  rw [← hslot, ← hlcid, ← hepoch]
  exact find?_map_setOffer mem hslot.symm hlcid.symm

/-- The last piece of an offer whose digest is good completes it: the state is kept, and the source and the lead are told (R58). -/
theorem takeOffer_last {s : State} {slot mid pid pgen : Nat} {P : Pkt} {o : Offer}
    (held : offerOf s slot (fld P.w5.toNat 0 24) (opB P) = some o) (bad : o.good = false) (next : o.data.length = 8192 * P.qpn)
    (last : P.payload.length < 8192) (long : 32 ≤ (o.data ++ P.payload).length)
    (digest : shake256 ((o.data ++ P.payload).take ((o.data ++ P.payload).length - 32)) 32
      = (o.data ++ P.payload).drop ((o.data ++ P.payload).length - 32)) :
    takeOffer slot (.fabric mid pid pgen) P s =
      (let t := sendHand (setOffer s { o with
          data := (o.data ++ P.payload).take ((o.data ++ P.payload).length - 32), good := true,
          waits := ([mid, leadFor s slot].eraseDups).filter (fun m => !(m == ownModule s)) })
        mid 0x93 slot (fld P.w5.toNat 0 24) (opB P) 0 []
       if leadFor t slot = mid then t else tellLead t slot (fld P.w5.toNat 0 24) 0x93 (opB P)) := by
  have good : (decide (32 ≤ (o.data ++ P.payload).length)
      && decide (shake256 ((o.data ++ P.payload).take ((o.data ++ P.payload).length - 32)) 32
        = (o.data ++ P.payload).drop ((o.data ++ P.payload).length - 32))) = true := by
    rw [decide_eq_true long, decide_eq_true digest, Bool.and_self]
  have kept := offerOf_setOffer held
    (o' := { o with data := (o.data ++ P.payload).take ((o.data ++ P.payload).length - 32), good := true }) rfl rfl rfl
  unfold takeOffer
  dsimp only
  rw [held]
  dsimp only
  rw [if_neg (Bool.eq_false_iff.mp bad), if_neg (not_not_intro next), if_pos last, if_pos good]
  simp only [kept, setOffer_setOffer]
  rfl

/-! ### Messages -/

/-- A handoff message of a member does what its handler does for the slot (R40, R58). -/
theorem exec_hand {s : State} {p : Pkt} {mk : Pkt → Instr} {op mid pid pgen slot : Nat} {f : Handler} {g : Nat → Handler}
    (he : ∀ p s, exec (mk p) s = .next (arrive f (handStart g) { p with opcode := op } s)) (k : HandTakes s p mid pid pgen slot) :
    exec (mk p) s = .next (g slot (.fabric mid pid pgen) { p with opcode := op } s) := by
  rw [he, arrive_of_hand f g k]

/-- Settles O47, message by message: at the lead by the lemmas about `leadDo`, at the destination by those about offers. -/
theorem handoffCommandsComplete : Obligations.HandoffCommandsComplete := by
  unfold Obligations.HandoffCommandsComplete
  refine ⟨?begin, ?offer, ?offered, ?acceptLead, ?acceptSource, ?commitLead, ?commitDest, ?abortLead, ?abortDest, ?query, ?retry, ?retell,
    ?openTimeout, ?leadTimeout, ?runTable, ?flush⟩
  case begin =>
    intro s p mid pid pgen slot k
    dsimp only
    intro lead free shut owner host
    rw [exec_hand (mk := .moveBegin) (fun _ _ => rfl) k, forLead, if_pos lead,
      leadDo_begin (P := { p with opcode := 0x91 }) rfl free shut owner host]
    rfl
  case offer =>
    intro s p mid pid pgen slot k
    dsimp only
    intro len first new place
    rw [exec_hand (mk := .moveOffer) (fun _ _ => rfl) k,
      takeOffer_first (P := { p with opcode := 0x92 }) len first new place]
    rfl
  case offered =>
    intro s p mid pid pgen slot o k
    dsimp only
    intro held bad next last long digest
    rw [exec_hand (mk := .moveOffer) (fun _ _ => rfl) k,
      takeOffer_last (P := { p with opcode := 0x92 }) held bad next last long digest]
    rfl
  case acceptLead =>
    intro s p mid pid pgen slot k
    dsimp only
    intro lead free epoch opened
    rw [exec_hand (mk := .moveAccept) (fun _ _ => rfl) k, takeAccept, if_pos lead,
      leadDo_accept (P := { p with opcode := 0x93 }) rfl free epoch opened]
    rfl
  case acceptSource =>
    intro s p mid pid pgen slot m k
    dsimp only
    intro lead moving offered epoch dst
    have accepted : sourceAccept s slot (fld p.w5.toNat 0 24) (opB p) mid
        = tellLead (setMoving s { m with st := 13, tries := 0 }) slot (fld p.w5.toNat 0 24) 0x94 (opB p) := by
      simp only [sourceAccept, moving, offered, epoch, dst, and_self, if_true]
    rw [exec_hand (mk := .moveAccept) (fun _ _ => rfl) k, takeAccept, if_neg lead, ← accepted]
    rfl
  case commitLead =>
    intro s p mid pid pgen slot k
    dsimp only
    intro lead free epoch accepted
    rw [exec_hand (mk := .moveCommit) (fun _ _ => rfl) k, takeEnd, if_pos lead,
      leadDo_commit (P := { p with opcode := 0x94 }) rfl free epoch accepted]
    rfl
  case commitDest =>
    intro s p mid pid pgen slot k lead sender
    rw [exec_hand (mk := .moveCommit) (fun _ _ => rfl) k, takeEnd, if_neg lead, if_neg (not_not_intro sender)]
    rfl
  case abortLead =>
    intro s p mid pid pgen slot k
    dsimp only
    intro lead free epoch isOpen
    rw [exec_hand (mk := .moveAbort) (fun _ _ => rfl) k, takeEnd, if_pos lead,
      leadDo_abort (P := { p with opcode := 0x95 }) rfl free epoch isOpen]
    rfl
  case abortDest =>
    intro s p mid pid pgen slot k lead sender
    rw [exec_hand (mk := .moveAbort) (fun _ _ => rfl) k, takeEnd, if_neg lead, if_neg (not_not_intro sender)]
    rfl
  case query =>
    intro s p mid pid pgen slot k
    dsimp only
    intro lead free
    rw [exec_hand (mk := .ownerQuery) (fun _ _ => rfl) k, forLead, if_pos lead]
    simp only [leadDo, free, Option.isSome_none, Bool.false_eq_true, if_false, if_true]
  case retry =>
    intro s slot lcid m moving offered tries
    show execHandoffRetry slot lcid s = _
    simp only [execHandoffRetry, moving, offered, tries]
    rfl
  case retell =>
    intro s u free none one tries
    dsimp only
    intro still quiet
    have others : resendOthers s u.slot u.lcid
        = sendHand { s with part := { s.part with tells := [{ u with tries := u.tries + 1 }] } } u.mid u.op u.slot u.lcid u.epoch 0 [] := by
      simp only [resendOthers, free, one, List.filter_cons, beq_self_eq_true, Bool.and_self, if_true, List.filter_nil, List.foldl_cons,
        List.foldl_nil, retellDest, List.erase_cons_head, tries, List.nil_append, quiet]
    show execHandoffRetry u.slot u.lcid s = _
    simp only [execHandoffRetry, others, still]
  case openTimeout =>
    intro s slot lcid opened lead
    show execEpochOpenTimeout slot lcid s = _
    simp only [execEpochOpenTimeout, opened, lead, ne_eq, not_true, or_self, if_false]
  case leadTimeout =>
    intro s slot lcid m moving step
    show execHandoffLeadTimeout slot lcid s = _
    simp only [execHandoffLeadTimeout, moving]
    rcases step with e | e | e <;> rw [e] <;> rfl
  case runTable =>
    intro s slot first mid bound inside module
    exact if_pos ⟨bound, inside, module⟩
  case flush =>
    intro s slot lcid f m held host
    show execFlush slot lcid s = _
    have same : hostOf (getSlot { s with part := { s.part with
        flushes := s.part.flushes.filter (fun g => !(g.slot == slot && g.lcid == lcid)) } } slot) lcid = some m := host
    -- the statement writes the fold's match again: as a module that is another matcher, equal by unfolding
    simp only [execFlush, held, same] <;> rfl

end Sys2Proof.Machine
end

/-! PROOFS. The granary (spec/02 R65-R69): loads, seals, pins and evictions on QP 0, and how a pull from a peer ends. -/
section
namespace Sys2Proof.Machine

/-- An image whose words can all be read and whose digest is good is sealed: READY, its granules read only (R69). -/
theorem sealImage_good {s v : State} {i : Nat} {x : Image} {l : List Byte}
    (read : imageBytes x.granules x.size [] s = (some l, v)) (digest : shake256 l 32 = x.digest) :
    sealImage s i x =
      (let w := x.granules.foldl (fun s k => setTag s (false, k) { getTag s (false, k) with ro := true }) v
       (stOk, setImage w i { x with st := 1, used := w.dev.now, id := none })) := by
  simp only [sealImage, read, digest, if_true]

/-- A command begun that ends answers the packet that began it. -/
theorem finish_some {s : State} {id : Nat} {f : QRef → Pkt → State → State} {b : Begun} (h : findBegun s id = some b) :
    finish id f s = f b.q b.pkt (dropBegun s id) := by
  simp only [finish, h]

/-- Settles O48, command by command: the checks of each handler pass, and what its image becomes is left. -/
theorem granaryCommandsComplete : Obligations.GranaryCommandsComplete := by
  unfold Obligations.GranaryCommandsComplete
  refine ⟨runsOn0_of startLoad _ (fun _ _ => rfl) ?loaded, ?load, ?sealed, ?pin, ?evict, ?pulled, ?timeout⟩
  case loaded =>
    rintro h p u - ⟨len, size, source, i, x, held, live, image, ready⟩
    have sized : ¬ (p.payload.length ≠ 48 ∨ numAt p.payload 0 8 = 0) := not_or.mpr ⟨not_not_intro len, size⟩
    simp only [held, Option.getD_some, image]
    rw [startLoad, withSlot_ok held live, if_neg sized, if_neg (Nat.not_lt.mpr source)]
    simp only [modelOf, image, ready, if_true]
    rfl
  case load =>
    intro s h p i l k
    dsimp only
    intro len size held live image plan
    refine ⟨fun host => ?_, fun peer member other => ?_⟩
    · refine exec_takes_eq (f := startLoad) (fun _ _ => rfl) k ?_
      rw [startLoad_new (P := { p with opcode := 0x97 }) len size held live image (by rw [host]; decide) (by rw [host]; rfl) plan]
      simp only [host, if_true]
      rfl
    · refine exec_takes_eq (f := startLoad) (fun _ _ => rfl) k ?_
      have named : (numAt p.payload 40 4 = 1 && (!inRunTable (taken s h { p with opcode := 0x97 }) i (fld (numAt p.payload 44 4) 0 14)
          || fld (numAt p.payload 44 4) 0 14 == ownModule (taken s h { p with opcode := 0x97 }))) = false := by
        rw [member, beq_false_of_ne other]
        exact Bool.and_false _
      rw [startLoad_new (P := { p with opcode := 0x97 }) len size held live image (Nat.le_of_eq peer) named plan]
      simp only [peer]
      rfl
  case sealed =>
    intro s h p i x l u' k
    dsimp only
    intro empty held image loading host read digest
    refine exec_takes_eq (f := startSeal) (fun _ _ => rfl) k ?_
    rw [startSeal, withGranImage_ok (P := { p with opcode := 0x98 }) empty held image, if_neg (by simp [loading, host]),
      sealImage_good read digest]
  case pin =>
    intro s h p i x k
    dsimp only
    intro empty held image ready
    refine ⟨fun set room => ?_, fun clear pinned => ?_⟩
    · refine exec_takes_eq (f := startPin) (fun _ _ => rfl) k ?_
      rw [startPin, withGranImage_ok (P := { p with opcode := 0x99 }) empty held image, if_neg ready, if_pos set,
        if_neg (Nat.not_le.mpr room)]
    · refine exec_takes_eq (f := startPin) (fun _ _ => rfl) k ?_
      rw [startPin, withGranImage_ok (P := { p with opcode := 0x99 }) empty held image, if_neg ready,
        if_neg (Bool.eq_false_iff.mp clear), if_neg pinned]
  case evict =>
    intro s h p i x k
    dsimp only
    intro empty held image ready unpinned unmapped
    refine exec_takes_eq (f := startEvict) (fun _ _ => rfl) k ?_
    rw [startEvict, withGranImage_ok (P := { p with opcode := 0x9A }) empty held image, if_neg ready,
      if_neg (by simp [unpinned, unmapped])]
  case pulled =>
    intro s slot model data x id b l v image cmd read digest
    dsimp only
    intro begun
    show execGranaryPeerPullEnd slot model data s = _
    simp only [execGranaryPeerPullEnd, image, sealImage_good read digest, cmd, finish_some begun, if_true]
    rfl
  case timeout =>
    intro s slot model x id image cmd
    show execGranaryPeerTimeout slot model s = _
    simp only [execGranaryPeerTimeout, image, pullStops, cmd]

end Sys2Proof.Machine
end

/-! PROOFS. Teardown and lost peers (spec/11 R319, R322, R323): the steps of a context's teardown, its notices and a silent neighbour. -/
section
namespace Sys2Proof.Machine

/-- Settles O49, step by step: a teardown in the step that the command ends goes on to the next. -/
theorem teardownCommandsComplete : Obligations.TeardownCommandsComplete := by
  unfold Obligations.TeardownCommandsComplete
  refine ⟨?fence, ?drain, ?zero, ?notice, ?silent⟩
  case fence =>
    intro s ctx d down step
    show execContextTeardown ctx s = _
    simp only [execContextTeardown, down, step, ne_eq, not_true, if_false]
  case drain =>
    intro s ctx d down step
    show execTeardownDrainDone ctx s = _
    simp only [execTeardownDrainDone, down, step, ne_eq, not_true, if_false]
  case zero =>
    intro s ctx d down destroying step
    show execTeardownZeroDone ctx s = _
    simp only [execTeardownZeroDone, down, destroying, step, ne_eq, not_true, or_self, if_false]
  case notice =>
    intro s ctx mid n found
    refine ⟨fun again => ?_, fun tired => ?_⟩
    · show execPeerNoticeRetry ctx mid s = _
      simp only [execPeerNoticeRetry, found, again, if_true]
    · show execPeerNoticeRetry ctx mid s = _
      simp only [execPeerNoticeRetry, found, Nat.not_lt.mpr tired, if_false]
  case silent =>
    intro s mid ports down
    have due : ((portsTo s mid).isEmpty
        || !(portsTo s mid).all (fun q => (getPort s q).st == 3 || (getPort s q).st == 2)) = false := by
      rw [down, Bool.not_true, Bool.or_false, List.isEmpty_eq_false_iff]
      exact ports
    show execPeerSilent mid s = _
    simp only [execPeerSilent, due, Bool.false_eq_true, if_false]

end Sys2Proof.Machine
end

/-! PROOFS. Units and recovery (spec/02 R63, spec/11 R306, R314, R324, R325): a unit's way back into service, the steps of an escalation,
and the failures that each have a rule. -/
section
namespace Sys2Proof.Machine

/-! ### What a module reset keeps -/

@[simp] theorem escStep_sec (s : State) (u : UnitRef) (step : Nat) : (escStep s u step).sec = s.sec := logNote_sec _ s
@[simp] theorem escStep_epoch (s : State) (u : UnitRef) (step : Nat) : (escStep s u step).res.epoch = s.res.epoch := logNote_epoch _ s

/-- What a dump does not change, a module reset's dump leaves, whichever half writes one. -/
theorem resetDump_keeps {α : Type} {cls sev : Nat} (f : State → α) (keeps : ∀ s half, f (writeDump s half cls sev) = f s)
    (s : State) :
    f (if !halfOff s 0 then writeDump s 0 cls sev else if !halfOff s 1 then writeDump s 1 cls sev else s) = f s := by
  split
  · exact keeps s 0
  · split
    · exact keeps s 1
    · rfl

theorem moduleReset_lc (s : State) (cls sev : Nat) : (moduleReset s cls sev true).sec.lc = s.sec.lc :=
  (resetDump_keeps (fun s => s.sec.lc) (fun _ _ => rfl) _).trans (congrArg Sec.lc (escStep_sec s _ 6))

theorem moduleReset_escModule (s : State) (cls sev : Nat) : (moduleReset s cls sev true).res.escModule = sat8 s.res.escModule :=
  resetDump_keeps (fun s => s.res.escModule) (fun _ _ => rfl) _

theorem moduleReset_epoch (s : State) (cls sev : Nat) : (moduleReset s cls sev true).res.epoch = s.res.epoch + 1 :=
  congrArg (· + 1) ((resetDump_keeps (fun s => s.res.epoch) (fun _ _ => rfl) _).trans (escStep_epoch s _ 6))

/-! ### What happens to a unit -/

/-- A failure is met by a channel that exists and has not failed yet. -/
theorem channelFailure_due {s : State} {chan : Nat} (real : chan < 192) (st : unitSt s ⟨2, chan⟩ ≠ .failed) :
    (decide (192 ≤ chan) || unitSt s ⟨2, chan⟩ == .failed) = false := by
  rw [decide_eq_false (Nat.not_le.mpr real), beq_false_of_ne st, Bool.or_self]

/-- A unit's test ends in BIST, and a service action on it with it. -/
theorem unitBistDone_due {s : State} {u : UnitRef} (real : unitExists u = true) (st : unitSt s u = .bist)
    (served : halfOff s (halfOfUnit u) = false) (pass : Bool) :
    exec (.unitBistDone u pass) s = .next (
      if svcOn s u then
        if !pass then svcEnd (unitFail s u) stUnc
        else if fld s.units.svcCmd.toNat 16 2 = 1 then svcEnd (setUnit s u .quarantine) stOk
        else svcEnd (unitPass s u) stOk
      else if pass then unitPass s u
      else unitFail s u) := by
  have due : ¬ (unitSt s u ≠ .bist ∨ halfOff s (halfOfUnit u) = true) := by
    rw [st, served]
    decide
  show execUnitBistDone u pass s = _
  rw [execUnitBistDone, real, bisted, if_neg due]
  rfl

/-- Settles O55: each command finds its unit, its step or its state as its rule asks, and what the rule says is left. -/
theorem recoveryCommandsComplete : Obligations.RecoveryCommandsComplete := by
  unfold Obligations.RecoveryCommandsComplete
  refine ⟨?fenced, ?sheafFenced, ?halfFenced, ?halfPowered, ?scrubbed, ?bist, ?serviced, ?channel, ?migrating, ?hang, ?step, ?sheaf,
    ?seam, ?heartbeat, ?failover, ?reset⟩
  case fenced =>
    intro s u real calm quarantine kept whole served pins
    have free : ((u.kind == 4 || u.kind == 6) && (getDie s (halfOfUnit u)).pins) = false := by
      by_cases port : (u.kind == 4 || u.kind == 6) = true
      · rw [pins (by simpa using port), Bool.and_false]
      · rw [Bool.eq_false_iff.mpr port, Bool.false_and]
    show execUnitFenceDone u s = _
    simp only [execUnitFenceDone, real, calm, quarantine, kept, whole, served, free]
    rfl
  case sheafFenced =>
    intro s m real esc
    show execUnitFenceDone ⟨1, m⟩ s = _
    simp only [execUnitFenceDone, unitExists, real, esc]
    rfl
  case halfFenced =>
    intro s h real esc
    show execUnitFenceDone ⟨12, h⟩ s = _
    simp only [execUnitFenceDone, unitExists, real, esc]
    rfl
  case halfPowered =>
    intro s h real esc
    show execUnitFenceDone ⟨12, h⟩ s = _
    simp only [execUnitFenceDone, unitExists, real, esc]
    rfl
  case scrubbed =>
    intro s u real st served
    show execUnitScrubDone u s = _
    simp only [execUnitScrubDone, scrubbed, real, st, served]
    rfl
  case bist =>
    intro s u real st served plain
    simp only [unitBistDone_due real st served, plain, Bool.false_eq_true, if_false, if_true, and_self]
  case serviced =>
    intro s u real st served service
    simp only [unitBistDone_due real st served, service, Bool.not_true, Bool.not_false, Bool.false_eq_true, if_false, if_true,
      and_self]
  case channel =>
    intro s chan real st still
    show execHbmChannelFailure chan s = _
    simp only [execHbmChannelFailure, channelFailure_due real st, still, Bool.false_eq_true, if_false]
  case migrating =>
    intro s chan m real st moving
    show execHbmChannelFailure chan s = _
    simp only [execHbmChannelFailure, channelFailure_due real st, moving, Bool.false_eq_true, if_false]
  case hang =>
    intro s u l real ready served
    have met : ¬ (!unitExists u || decide (s.dev.phase ≠ .ready) || halfOff s (halfOfUnit u)) = true := by
      rw [real, ready, served]
      decide
    have go : exec (.unitHang u l) s = _ := if_neg met
    rw [go]
    refine ⟨fun k => ?_, fun k => ?_, fun k => ?_, fun k active => ?_, fun k => ?_⟩
    · simp only [k]
    · simp only [k]
    · simp only [k]
    · simp only [k, active, if_true]
    · simp only [k]
  case step =>
    intro s u e esc
    have go : exec (.escalationStepTimeout u) s = execEscalationStepTimeout u s := rfl
    rw [go, execEscalationStepTimeout, esc]
    refine ⟨fun k => ?_, fun k => ?_, fun k => ?_, fun k => ?_, fun k boot waits => ?_⟩
    · simp only [k]
      rfl
    · rcases k with k | k <;> simp only [k]
    · simp only [k]
    · simp only [k]
    · simp only [k]
      exact congrArg (fun t => Host.Outcome.next (wakeAll t)) (if_pos ⟨boot, waits⟩)
  case sheaf =>
    intro s m real joined ready served
    exact if_neg (by rw [joined, ready, served]; simp [real])
  case seam =>
    intro s ready served
    exact if_neg (by simp [ready, served])
  case heartbeat =>
    intro s
    rfl
  case failover =>
    intro s ready dormant
    dsimp only
    show execMgmtFailover s = _
    rw [execMgmtFailover, if_neg (not_not_intro ready), failover, if_neg (by rw [dormant]; decide)]
  case reset =>
    intro s on
    exact ⟨_, if_neg on, rfl, rfl, rfl, rfl, rfl, rfl, rfl, moduleReset_lc s _ _, moduleReset_escModule s _ _, moduleReset_epoch s _ _⟩

end Sys2Proof.Machine
end

/-! PROOFS. MIN and MAX of FP32 (spec/03 R86): words that are no NaN stand in the order of an integer rank that no two words share;
MIN and MAX pick the word of the lesser and of the greater rank. -/
section
namespace Sys2Proof.Machine

/-! ### What an FP32 word decodes to -/

/-- The word without its sign. -/
def f32Mag (w : W32) : Nat := w.toNat % 2 ^ 31

/-- The magnitude of a finite word without its sign, in units of 2^-149. -/
def f32Units (c : Nat) : Nat := if c / 2 ^ 23 = 0 then c % 2 ^ 23 else (2 ^ 23 + c % 2 ^ 23) * 2 ^ (c / 2 ^ 23 - 1)

/-- The place of a word in the order of R86, with -0 next below +0. -/
def f32Rank (w : W32) : Int := if w.msb then -1 - (f32Mag w : Int) else f32Mag w

theorem f32Mag_lt (w : W32) : f32Mag w < 2 ^ 31 := Nat.mod_lt _ (by decide)

/-- Sign, exponent field and mantissa of a word, and the value by the exponent field (R72). -/
theorem ofF32_eq (w : W32) : ofF32 w =
    if f32Mag w / 2 ^ 23 = 255 then (if f32Mag w % 2 ^ 23 = 0 then .inf w.msb else .nan)
    else if f32Mag w / 2 ^ 23 = 0 then .fin w.msb (f32Mag w % 2 ^ 23) (-149)
    else .fin w.msb (2 ^ 23 + f32Mag w % 2 ^ 23) ((f32Mag w / 2 ^ 23 : Nat) - 150 : Int) := by
  have sign : bitAt w.toNat (8 + 23) = w.msb := by
    rw [bitAt_eq_testBit, BitVec.msb_eq_getLsbD_last, BitVec.testBit_toNat]
  have exponent : fld w.toNat 23 8 = f32Mag w / 2 ^ 23 := by
    unfold fld f32Mag
    omega
  have mantissa : fld w.toNat 0 23 = f32Mag w % 2 ^ 23 := by
    unfold fld f32Mag
    omega
  have low : ((f32Mag w / 2 ^ 23 : Nat) : Int) - 127 - (23 : Nat) = (f32Mag w / 2 ^ 23 : Nat) - 150 := by omega
  simp only [ofF32, decodeFp, fmtFP32, Fmt.low, sign, exponent, mantissa, low, Bool.true_and, Bool.false_and,
    decide_eq_true_eq, Bool.false_eq_true, if_false]
  rfl

theorem isNan_ofF32 (w : W32) : isNan (ofF32 w) = true ↔ 0x7F800000 < f32Mag w := by
  have bound := f32Mag_lt w
  rw [ofF32_eq]
  by_cases special : f32Mag w / 2 ^ 23 = 255
  · rw [if_pos special]
    by_cases infinite : f32Mag w % 2 ^ 23 = 0
    · rw [if_pos infinite]
      exact iff_of_false Bool.false_ne_true (by omega)
    · rw [if_neg infinite]
      exact iff_of_true rfl (by omega)
  · rw [if_neg special]
    split <;> exact iff_of_false Bool.false_ne_true (by omega)

theorem ofF32_infinity {w : W32} (h : f32Mag w = 0x7F800000) : ofF32 w = .inf w.msb := by
  rw [ofF32_eq, h]
  rfl

/-- A finite word's value is its sign and its magnitude, at an exponent of at least -149. -/
theorem ofF32_finite {w : W32} (h : f32Mag w < 0x7F800000) :
    ∃ m e, ofF32 w = .fin w.msb m e ∧ -149 ≤ e ∧ m * 2 ^ (e + 149).toNat = f32Units (f32Mag w) := by
  rw [ofF32_eq, if_neg (by omega), f32Units]
  by_cases sub : f32Mag w / 2 ^ 23 = 0
  · rw [if_pos sub, if_pos sub]
    exact ⟨_, _, rfl, Int.le_refl _, Nat.mul_one _⟩
  · have exponent : ((f32Mag w / 2 ^ 23 : Nat) - 150 + 149 : Int).toNat = f32Mag w / 2 ^ 23 - 1 := by omega
    rw [if_neg sub, if_neg sub]
    exact ⟨_, _, rfl, by omega, by rw [exponent]⟩

/-- Magnitudes rise with the word: within an exponent by the mantissa, and from one exponent's last to the next one's first. -/
theorem f32Units_lt_succ (c : Nat) : f32Units c < f32Units (c + 1) := by
  by_cases carry : c % 2 ^ 23 = 2 ^ 23 - 1
  · have exponent : (c + 1) / 2 ^ 23 = c / 2 ^ 23 + 1 := by omega
    have mantissa : (c + 1) % 2 ^ 23 = 0 := by omega
    rw [f32Units, f32Units, exponent, mantissa, carry]
    cases c / 2 ^ 23 with
    | zero => decide
    | succ e =>
      have positive : 0 < 2 ^ e := Nat.two_pow_pos e
      rw [if_neg (Nat.succ_ne_zero e), if_neg (Nat.succ_ne_zero (e + 1)), Nat.add_sub_cancel, Nat.add_sub_cancel, Nat.pow_succ]
      omega
  · have exponent : (c + 1) / 2 ^ 23 = c / 2 ^ 23 := by omega
    have mantissa : (c + 1) % 2 ^ 23 = c % 2 ^ 23 + 1 := by omega
    rw [f32Units, f32Units, exponent, mantissa]
    split
    · exact Nat.lt_succ_self _
    · exact Nat.mul_lt_mul_of_pos_right (Nat.lt_succ_self _) (Nat.two_pow_pos _)

theorem f32Units_lt_of_lt {c d : Nat} (h : c < d) : f32Units c < f32Units d := by
  induction h with
  | refl => exact f32Units_lt_succ c
  | step _ ih => exact Nat.lt_trans ih (f32Units_lt_succ _)

theorem f32Units_lt_iff {c d : Nat} : f32Units c < f32Units d ↔ c < d := by
  refine ⟨fun h => ?_, f32Units_lt_of_lt⟩
  rcases Nat.lt_trichotomy c d with lt | rfl | gt
  · exact lt
  · exact absurd h (Nat.lt_irrefl _)
  · exact absurd h (Nat.lt_asymm (f32Units_lt_of_lt gt))

theorem f32Units_eq_zero {c : Nat} : f32Units c = 0 ↔ c = 0 := by
  refine ⟨fun h => Nat.eq_zero_of_not_pos (fun pos => ?_), fun h => by rw [h]; rfl⟩
  have above := f32Units_lt_of_lt pos
  rw [h] at above
  exact Nat.not_lt_zero _ above

/-! ### The order of R86 -/

/-- Finite values compare as their multiples of 2^-149, when neither has a finer bit. -/
theorem fvLt_fin {a b : Bool} {m n : Nat} {e f : Int} (he : -149 ≤ e) (hf : -149 ≤ f) :
    fvLt (.fin a m e) (.fin b n f)
      = decide (sint a (m * 2 ^ (e + 149).toNat) < sint b (n * 2 ^ (f + 149).toNat)) := by
  have signed (s : Bool) (k x : Nat) : sint s (k * 2 ^ x) = sint s k * 2 ^ x := by
    cases s
    · exact Int.natCast_mul k (2 ^ x)
    · exact (congrArg Neg.neg (Int.natCast_mul k (2 ^ x))).trans (Int.neg_mul ..).symm
  have finer {g : Int} (le : min e f ≤ g) :
      (2 : Int) ^ (g + 149).toNat = 2 ^ (g - min e f).toNat * 2 ^ (min e f + 149).toNat := by
    rw [← Int.pow_add]
    congr 1
    omega
  have unit : (0 : Int) < 2 ^ (min e f + 149).toNat := Int.pow_pos (by decide)
  rw [signed, signed, finer (Int.min_le_left e f), finer (Int.min_le_right e f), ← Int.mul_assoc, ← Int.mul_assoc]
  exact decide_eq_decide.mpr ⟨fun h => Int.mul_lt_mul_of_pos_right h unit, fun h => Int.lt_of_mul_lt_mul_right h (Int.le_of_lt unit)⟩

/-- Where magnitudes `u`, `v` order as numbers `x`, `y`, the signed magnitudes, -0 below +0, order as the ranks made of `x`, `y`. -/
theorem signed_lt_iff (a b : Bool) {x y u v : Nat} (lt : u < v ↔ x < y) (gt : v < u ↔ y < x) (zu : u = 0 ↔ x = 0)
    (zv : v = 0 ↔ y = 0) : (sint a u < sint b v ∨ (u = 0 ∧ v = 0) ∧ a = true ∧ b = false)
      ↔ (if a then -1 - (x : Int) else x) < if b then -1 - (y : Int) else y := by
  cases a <;> cases b <;> simp only [sint, if_true, if_false, Bool.false_eq_true, reduceCtorEq, and_true, and_false, or_false] <;>
    constructor <;> intro <;> omega

/-- The order of R86 among finite words is that of their ranks. -/
theorem fvBelow_finite {a b : W32} (ha : f32Mag a < 0x7F800000) (hb : f32Mag b < 0x7F800000) :
    fvBelow (ofF32 a) (ofF32 b) = true ↔ f32Rank a < f32Rank b := by
  obtain ⟨m, e, va, le, units⟩ := ofF32_finite ha
  obtain ⟨n, f, vb, lf, units'⟩ := ofF32_finite hb
  have zero {k c x : Nat} (h : k * 2 ^ x = f32Units c) : k = 0 ↔ f32Units c = 0 := by
    rw [← h, Nat.mul_eq_zero, or_iff_left (Nat.ne_of_gt (Nat.two_pow_pos x))]
  rw [va, vb, fvBelow, fvLt_fin le lf, units, units']
  simp only [Bool.or_eq_true, Bool.and_eq_true, decide_eq_true_eq, Bool.not_eq_true', zero units, zero units', and_assoc]
  have order := signed_lt_iff a.msb b.msb (f32Units_lt_iff (c := f32Mag a) (d := f32Mag b)) f32Units_lt_iff f32Units_eq_zero
    f32Units_eq_zero
  rw [and_assoc] at order
  exact order

theorem f32Rank_infinity {w : W32} (h : f32Mag w = 0x7F800000) : f32Rank w = if w.msb then -0x7F800001 else 0x7F800000 := by
  rw [f32Rank, h]
  rfl

/-- A finite word stands between the two infinities. -/
theorem f32Rank_finite {w : W32} (h : f32Mag w < 0x7F800000) : -0x7F800001 < f32Rank w ∧ f32Rank w < 0x7F800000 := by
  unfold f32Rank
  split <;> omega

/-- The order of R86 among words that are no NaN is that of their ranks. -/
theorem fvBelow_ofF32 {a b : W32} (ha : isNan (ofF32 a) = false) (hb : isNan (ofF32 b) = false) :
    fvBelow (ofF32 a) (ofF32 b) = true ↔ f32Rank a < f32Rank b := by
  have top {w : W32} (h : isNan (ofF32 w) = false) : f32Mag w < 0x7F800000 ∨ f32Mag w = 0x7F800000 := by
    rw [← Bool.not_eq_true, isNan_ofF32] at h
    omega
  rcases top ha with fa | ia <;> rcases top hb with fb | ib
  · exact fvBelow_finite fa fb
  · obtain ⟨m, e, va, -, -⟩ := ofF32_finite fa
    have between := f32Rank_finite fa
    rw [va, ofF32_infinity ib, f32Rank_infinity ib]
    cases b.msb
    · exact iff_of_true rfl between.2
    · exact iff_of_false Bool.false_ne_true (Int.lt_asymm between.1)
  · obtain ⟨m, e, vb, -, -⟩ := ofF32_finite fb
    have between := f32Rank_finite fb
    rw [vb, ofF32_infinity ia, f32Rank_infinity ia]
    cases a.msb
    · exact iff_of_false Bool.false_ne_true (Int.lt_asymm between.2)
    · exact iff_of_true rfl between.1
  · rw [ofF32_infinity ia, ofF32_infinity ib, f32Rank_infinity ia, f32Rank_infinity ib]
    cases a.msb <;> cases b.msb <;> decide

theorem f32Rank_injective {a b : W32} (h : f32Rank a = f32Rank b) : a = b := by
  refine BitVec.eq_of_toNat_eq ?_
  have wa := a.isLt
  have wb := b.isLt
  simp only [f32Rank, f32Mag, BitVec.msb_eq_decide, decide_eq_true_eq] at h
  split at h <;> split at h <;> omega

/-! ### Operations that pick by rank -/

/-- An operation that gives the canonical NaN for a NaN operand and else the operand whose rank `g` selects. -/
structure PicksByRank (op : W32 → W32 → W32) (g : Int → Int → Int) : Prop where
  nan : ∀ a b, isNan (ofF32 a) = true ∨ isNan (ofF32 b) = true → op a b = 0x7FC00000
  num : ∀ a b, isNan (ofF32 a) = false → isNan (ofF32 b) = false → op a b = a ∨ op a b = b
  rank : ∀ a b, isNan (ofF32 a) = false → isNan (ofF32 b) = false → f32Rank (op a b) = g (f32Rank a) (f32Rank b)

namespace PicksByRank

variable {op : W32 → W32 → W32} {g : Int → Int → Int}

theorem isNan_op (h : PicksByRank op g) (a b : W32) : isNan (ofF32 (op a b)) = (isNan (ofF32 a) || isNan (ofF32 b)) := by
  cases ha : isNan (ofF32 a) <;> cases hb : isNan (ofF32 b)
  · rcases h.num a b ha hb with e | e
    · rw [e, ha]
      rfl
    · rw [e, hb]
      rfl
  all_goals
    rw [h.nan a b (by rw [ha, hb]; decide)]
    decide

theorem comm (h : PicksByRank op g) (sym : ∀ x y, g x y = g y x) (a b : W32) : op a b = op b a := by
  by_cases n : isNan (ofF32 a) = true ∨ isNan (ofF32 b) = true
  · rw [h.nan a b n, h.nan b a n.symm]
  · obtain ⟨ha, hb⟩ := by simpa only [not_or, Bool.not_eq_true] using n
    exact f32Rank_injective (by rw [h.rank a b ha hb, h.rank b a hb ha, sym])

theorem assoc (h : PicksByRank op g) (assoc : ∀ x y z, g (g x y) z = g x (g y z)) (a b c : W32) :
    op (op a b) c = op a (op b c) := by
  by_cases n : (isNan (ofF32 a) || isNan (ofF32 b) || isNan (ofF32 c)) = true
  · rw [h.nan (op a b) c (by rwa [h.isNan_op, ← Bool.or_eq_true]),
      h.nan a (op b c) (by rwa [h.isNan_op, ← Bool.or_eq_true, ← Bool.or_assoc])]
  · obtain ⟨⟨ha, hb⟩, hc⟩ := by simpa only [Bool.or_eq_true, not_or, Bool.not_eq_true] using n
    have hab : isNan (ofF32 (op a b)) = false := by rw [h.isNan_op, ha, hb]; rfl
    have hbc : isNan (ofF32 (op b c)) = false := by rw [h.isNan_op, hb, hc]; rfl
    refine f32Rank_injective ?_
    rw [h.rank _ _ hab hc, h.rank a b ha hb, h.rank _ _ ha hbc, h.rank b c hb hc, assoc]

end PicksByRank

theorem f32Min_of_num {a b : W32} (ha : isNan (ofF32 a) = false) (hb : isNan (ofF32 b) = false) :
    f32Min a b = if f32Rank b < f32Rank a then b else a := by
  rw [f32Min, ha, hb, if_neg (by decide)]
  simp only [fvBelow_ofF32 hb ha]

theorem f32Max_of_num {a b : W32} (ha : isNan (ofF32 a) = false) (hb : isNan (ofF32 b) = false) :
    f32Max a b = if f32Rank a < f32Rank b then b else a := by
  rw [f32Max, ha, hb, if_neg (by decide)]
  simp only [fvBelow_ofF32 ha hb]

theorem f32Min_picks : PicksByRank f32Min min where
  nan _ _ h := if_pos (by rwa [Bool.or_eq_true])
  num a b ha hb := by
    rw [f32Min_of_num ha hb]
    split
    · exact .inr rfl
    · exact .inl rfl
  rank a b ha hb := by
    rw [f32Min_of_num ha hb]
    split <;> omega

theorem f32Max_picks : PicksByRank f32Max max where
  nan _ _ h := if_pos (by rwa [Bool.or_eq_true])
  num a b ha hb := by
    rw [f32Max_of_num ha hb]
    split
    · exact .inr rfl
    · exact .inl rfl
  rank a b ha hb := by
    rw [f32Max_of_num ha hb]
    split <;> omega

/-- Settles O17: MIN and MAX pick by a rank that tells words apart, on which `min` and `max` are commutative and associative. -/
theorem minAndMaxAreALattice : Obligations.MinAndMaxAreALattice := by
  unfold Obligations.MinAndMaxAreALattice
  refine ⟨by decide, fun a b n => ⟨f32Min_picks.nan a b n, f32Max_picks.nan a b n⟩,
    fun a b => ⟨f32Min_picks.comm Int.min_comm a b, f32Max_picks.comm Int.max_comm a b⟩,
    fun a b c => ⟨f32Min_picks.assoc Int.min_assoc a b c, f32Max_picks.assoc Int.max_assoc a b c⟩⟩

end Sys2Proof.Machine
end

/-! PROOFS. The registers of a tenancy (spec/04 R99), and an instruction whose effect names its own tenancy. -/
section
namespace Sys2Proof.Machine

/-! ### Reads after writes -/

theorem xGet_xSet (t : Ten) (i j : Nat) (v : W64) : xGet (xSet t i v) j = if j = i ∧ i ≠ 0 then v else xGet t j := by
  by_cases hi : i = 0
  · simp [xSet, hi]
  · by_cases hj : j = i
    · simp [xSet, xGet, hi, hj]
    · simp [xSet, xGet, hi, hj, tabGet_tabSet_ne]

theorem pGet_pSet (t : Ten) (i j : Nat) (v : W64) : pGet (pSet t i v) j = if j = i ∧ i ≠ 0 then v else pGet t j := by
  by_cases hi : i = 0
  · simp [pSet, hi]
  · by_cases hj : j = i
    · simp [pSet, pGet, hi, hj]
    · simp [pSet, pGet, hi, hj, tabGet_tabSet_ne]

@[simp] theorem pGet_xSet (t : Ten) (i k : Nat) (v : W64) : pGet (xSet t i v) k = pGet t k := by
  unfold xSet
  split <;> rfl

@[simp] theorem xGet_pSet (t : Ten) (i k : Nat) (v : W64) : xGet (pSet t i v) k = xGet t k := by
  unfold pSet
  split <;> rfl

/-- Settles O5: a set of registers is a table, and register 0 stands outside it. -/
theorem hardWiredRegisters : Obligations.HardWiredRegisters := by
  unfold Obligations.HardWiredRegisters
  refine fun t i j v => ⟨⟨rfl, rfl, rfl, rfl⟩, fun hi => ?_, fun hj => ?_, fun k => ⟨pGet_xSet t i k v, xGet_pSet t i k v⟩⟩
  · rw [xGet_xSet, pGet_pSet, if_pos ⟨rfl, hi⟩, if_pos ⟨rfl, hi⟩]
    exact ⟨rfl, rfl⟩
  · rw [xGet_xSet, pGet_pSet, if_neg fun h => hj h.1, if_neg fun h => hj h.1]
    exact ⟨rfl, rfl⟩

/-! ### An instruction that issues (R101) -/

/-- A tenancy that executes waits for nothing and is resident. -/
theorem executes_ready {s : State} {x : Ten} (h : executes s x = true) : x.wait = .none ∧ ∃ b, x.loc = .resident b := by
  simp only [executes, Bool.and_eq_true, decide_eq_true_eq] at h
  obtain ⟨⟨⟨⟨⟨⟨⟨⟨⟨loc, -⟩, wait⟩, -⟩, -⟩, -⟩, -⟩, -⟩, -⟩, -⟩ := h
  refine ⟨wait, ?_⟩
  revert loc
  cases x.loc with
  | resident b => exact fun _ => ⟨b, rfl⟩
  | _ => exact fun h => absurd h Bool.false_ne_true

/-- As `executes_of`, for an instruction whose effect names its tenancy and rests on its being ready. -/
theorem executes_own {regs : CoreWord → List Reg} {proper : CoreWord → Bool} {mk : TenRef → BitVec 56 → Instr}
    {cond : CoreWord → Ten → State → Prop} {effect : CoreWord → Ten → State → State} {f : TenRef → BitVec 56 → Ten → State → State}
    (he : ∀ t w s, exec (mk t w) s = .next (issue t (regs (coreWord w)) (proper (coreWord w)) (f t w) s))
    (hs : ∀ w x u, x.wait = .none → (∃ b, x.loc = .resident b) → cond (coreWord w) x u →
      f (refOf x) w x u = effect (coreWord w) x u) : Executes regs proper mk cond effect := by
  intro s t w x u k pr c
  obtain ⟨wait, loc⟩ := executes_ready (issues_executes k)
  rw [he, issue_of k pr, ← issues_ref k, hs w x u wait loc c]

end Sys2Proof.Machine
end

/-! PROOFS. Transfers (spec/04 R117-R119, spec/05 R142-R147, spec/08 R235): what a wait on progress does, how the engine moves an
element, and what ends with a full fault queue. -/
section
namespace Sys2Proof.Machine

/-! ### Waits on progress (R146) -/

/-- A tenancy that waits for its transfer's progress. -/
def Ten.awaiting (x : Ten) (off : Nat) (target : W64) : Ten := { x with wait := .prog off target }

theorem progMet_of_le {x : Ten} {off : Nat} {target : W64} (h : ∀ g, xferOf x off = some g → target.toNat ≤ g.doneEl) :
    progMet x off target = true := by
  unfold progMet
  split
  next => rfl
  next g slot => exact decide_eq_true (h g slot)

/-- A wait on progress that has been made ends at once. -/
theorem tenGo_progMet {s : State} {y : Ten} {off b : Nat} {target : W64} (h : findTen s (refOf y) = some y)
    (wait : y.wait = .prog off target) (loc : y.loc = .resident b) (met : progMet y off target = true)
    (awake : halfPwr s (halfOfCore y.core) ≠ 1) :
    tenGo s (refOf y) = setTen s { y with wait := .none, pc := y.pc + 8 } := by
  have there : findTen (setTen s { y with wait := .none, pc := y.pc + 8 }) (refOf y)
      = some { y with wait := .none, pc := y.pc + 8 } :=
    findTen_setTen (y := { y with wait := .none, pc := y.pc + 8 }) h
  rw [tenGo, progWake_met h wait loc met, wakeTen_eq h (by rw [loc]; exact nofun) awake, endCheck, there]

/-- A ready tenancy that comes to wait for progress already made goes on past its instruction, and no element moves. -/
theorem engineTo_awaiting {u : State} {x : Ten} {off b : Nat} {target : W64} (here : findTen u (refOf x) = some x)
    (wait : x.wait = .none) (loc : x.loc = .resident b) (awake : halfPwr u (halfOfCore x.core) ≠ 1)
    (reached : ∀ g, xferOf x off = some g → target.toNat ≤ g.doneEl) :
    engineTo (setTen u (x.awaiting off target)) (refOf x) off target.toNat = setTen u x.next := by
  have waits : findTen (setTen u (x.awaiting off target)) (refOf x) = some (x.awaiting off target) :=
    findTen_setTen (y := x.awaiting off target) here
  have nothing : match xferOf (x.awaiting off target) off with | none => True | some g => target.toNat ≤ g.doneEl := by
    split
    next => trivial
    next g slot => exact reached g slot
  have past : { x.awaiting off target with wait := .none, pc := x.pc + 8 } = x.next := by rw [Ten.next, ← wait]; rfl
  calc engineTo (setTen u (x.awaiting off target)) (refOf x) off target.toNat
      = tenGo (setTen u (x.awaiting off target)) (refOf x) := engineTo_none waits nothing
    _ = setTen (setTen u (x.awaiting off target)) { x.awaiting off target with wait := .none, pc := x.pc + 8 } :=
        tenGo_progMet (y := x.awaiting off target) waits rfl loc (progMet_of_le reached) awake
    _ = setTen u x.next := by rw [past]; exact setTen_setTen u rfl

/-! ### The engine (R117, R119) -/

theorem engineTo_some {s : State} {t : TenRef} {off goal : Nat} {x : Ten} {f : Xfer} (h : findTen s t = some x)
    (slot : xferOf x off = some f) :
    engineTo s t off goal = tenGo (engine (min goal f.total - f.doneEl) s t off (min goal f.total)) t := by
  simp only [engineTo, h, slot]

/-- One element of a transfer that runs: where it moves, the engine goes on. -/
theorem engine_succ {n : Nat} {s : State} {t : TenRef} {off goal : Nat} {x : Ten} {f : Xfer} (h : findTen s t = some x)
    (slot : xferOf x off = some f) (more : f.doneEl < goal) (runs : xferRuns s x f = true) :
    engine (n + 1) s t off goal
      = if (moveElem s x f).1 then engine n (moveElem s x f).2 t off goal else (moveElem s x f).2 := by
  have go : (decide (goal ≤ f.doneEl) || !xferRuns s x f) = false := by
    rw [decide_eq_false (Nat.not_le.mpr more), runs]
    rfl
  simp only [engine, h, slot, go, Bool.false_eq_true, if_false]

/-- The gather entry that the cursor reads is all that changes of the transfer (R145). -/
theorem enterGather_keeps {s s0 : State} {x : Ten} {f g : Xfer} (enter : enterGather s x f = (g, s0)) :
    g.desc = f.desc ∧ g.doneEl = f.doneEl ∧ g.descOff = f.descOff := by
  unfold enterGather at enter
  dsimp only at enter
  split at enter <;> obtain ⟨rfl, -⟩ := Prod.mk.inj enter <;> exact ⟨rfl, rfl, rfl⟩

/-- An element between windows is read from its source, logged where the source is another tenancy's, written to its destination, and
DONE advances over it (R117). -/
theorem moveElem_windows {s s0 s1 s2 : State} {x y z : Ten} {f g : Xfer} {a b : TenRef} {ao bo : Nat}
    (enter : enterGather s x f = (g, s0)) (source : sideOf s0 x g true f.doneEl = (.win a ao, s1)) (hy : findTen s1 a = some y)
    (target : sideOf (if a = refOf x then s1 else logRead (refOf x) (winRead y ao (2 ^ f.desc.esize)) s1) x g false f.doneEl
      = (.win b bo, s2)) (hz : findTen s2 b = some z) :
    moveElem s x f
      = (true, elemDone (setTen s2 (winWrite z bo (winRead y ao (2 ^ f.desc.esize)))) (refOf x) f.descOff) := by
  obtain ⟨desc, doneEl, descOff⟩ := enterGather_keeps enter
  simp only [moveElem, putElem, enter, desc, doneEl, descOff, source, hy, beq_iff_eq, target, hz]

/-- An element whose source faults stops the transfer at its cursor with a queued fault (R119). -/
theorem moveElem_sourceFault {s s0 s1 : State} {x : Ten} {f g : Xfer} {cause : Nat} {va : W64} {detail : Option Nat}
    (enter : enterGather s x f = (g, s0)) (source : sideOf s0 x g true f.doneEl = (.fault cause va detail, s1)) :
    moveElem s x f = (false, stopXfer s1 x g true cause va detail) := by
  obtain ⟨-, doneEl, -⟩ := enterGather_keeps enter
  simp only [moveElem, enter, doneEl, source, sideStop]

/-- The commands begun do not depend on the translation unit. -/
theorem findBegun_xlt (s : State) (v : Xlt) (id : Nat) : findBegun { s with xlt := v } id = findBegun s id := rfl

/-- Settles O27, command by command. That the commands TRANSFER_DONE and TRANSFER_FAULT are what moves the elements is the model's
choice (notes/assumptions/11.md), and so are the bytes that XFER asks of a window on another module (notes/assumptions/15.md). -/
theorem transferInstructionsComplete : Obligations.TransferInstructionsComplete := by
  unfold Obligations.TransferInstructionsComplete
  refine ⟨executes_own (fun _ _ _ => rfl) ?xfer, executes_own (fun _ _ _ => rfl) ?xwait, ?xprog, ?moved, ?stopped, ?xferStalled,
    ?cmdStalled, ?runStalled⟩
  case xfer =>
    rintro w x u - - ⟨aligned, inside, unused, unheld, ⟨i, free⟩, checked⟩
    have inWin : winIn x ((xGet x (coreWord w).a).toNat % 2 ^ 19) 160 = true := decide_eq_true inside
    simp only [fld19, aligned, inWin, unused, unheld, free, checked, Option.getD_some, Option.isSome_none, Bool.or_self, Bool.not_true,
      ne_eq, not_true_eq_false, Bool.false_eq_true, if_false]
    split
    next e v first => simp only [first]
    next v first =>
      simp only [first]
      split
      next e v' second => simp only [second]
      next v' second => simp only [second]
  case xwait =>
    rintro w x u wait ⟨b, loc⟩ ⟨here, awake, reached⟩
    refine engineTo_awaiting here wait loc awake fun g slot => ?_
    rw [fld19] at slot ⊢
    simp only [slot] at reached ⊢
    split
    next whole => simpa only [whole, if_true, BitVec.toNat_ofNat] using reached
    next amount => simpa only [amount, if_false] using reached
  case xprog =>
    intro s t w x u k ⟨hb, hc, hp, hf, hm, hi⟩ here live
    have idle : tenGo u t = u := tenGo_idle here (executes_ready (issues_executes k)).1
    have still : ∀ g, xferOf x ((xGet x (coreWord w).a).toNat % 2 ^ 19) = some g →
        engineTo u t ((xGet x (coreWord w).a).toNat % 2 ^ 19) (g.doneEl + 0) = u :=
      fun g slot => (engineTo_none here (by rw [slot]; exact Nat.le_refl _)).trans idle
    show execXprog t w 0 s = _
    rw [execXprog, issue_of k (by simp [hb, hc, hp, hf, hm, hi])]
    cases slot : xferOf x ((xGet x (coreWord w).a).toNat % 2 ^ 19) with
    | none => simp only [fld19, slot, here, live, ne_eq, not_true_eq_false, if_false]
    | some g => simp only [fld19, slot, still g slot, here, live, ne_eq, not_true_eq_false, if_false]
  case moved =>
    intro s t x f off g s0 a ao s1 y b bo s2 z here slot runs last enter source hy
    dsimp only
    intro target hz
    show execTransferDone t off s = _
    simp only [execTransferDone, here, slot]
    rw [engineTo_some here slot, Nat.min_self, ← last, Nat.add_sub_cancel_left, engine_succ here slot (Nat.lt_succ_self _) runs,
      moveElem_windows enter source hy target hz]
    rfl
  case stopped =>
    intro s t x f off g s0 cause va detail s1 here slot runs more enter source
    obtain ⟨n, rest⟩ : ∃ n, f.total - f.doneEl = n + 1 := ⟨f.total - f.doneEl - 1, by omega⟩
    show execTransferFault t off s = _
    simp only [execTransferFault, here, slot]
    rw [engineTo_some here slot, Nat.min_self, rest, engine_succ here slot more runs, moveElem_sourceFault enter source]
    rfl
  case xferStalled =>
    intro s t off y stalled
    show execFaultQueueStallTimeout (.xfer t off) s = _
    simp only [execFaultQueueStallTimeout, stalled]
    rfl
  case cmdStalled =>
    intro s id y b stalled begun
    show execFaultQueueStallTimeout (.cmd id) s = _
    simp only [execFaultQueueStallTimeout, stalled, findBegun_xlt, begun]
  case runStalled =>
    intro s n y stalled
    show execFaultQueueStallTimeout (.run n) s = _
    simp only [execFaultQueueStallTimeout, stalled]

end Sys2Proof.Machine
end

/-! PROOFS. Remote windows and near memory (spec/04 R115, spec/05 R148-R151, spec/08 R239): an access that its target serves is
performed in its issuer's step. -/
section
namespace Sys2Proof.Machine

/-- The remote access that an RST or RLD makes (R148). -/
def remoteAccess (store : Bool) (c : CoreWord) (x : Ten) : RemAcc :=
  { issuer := refOf x, target := ⟨(xGet x c.a).toNat % 2 ^ 24, x.ctx⟩, off := (xGet x c.c + sext16 c.imm16).toNat,
    store := if store then some (if c.fn == 2 then (List.range 64).flatMap (fun l => leBytes 4 (vGet x c.b l).toNat)
        else leBytes (remSize c.fn) (xGet x c.b).toNat) else none,
    len := remSize c.fn, vec := c.fn == 2, reg := c.d, pc := x.pc }

/-- A remote access is aligned and in bounds, its target has a tenancy here, and nothing makes it wait (R115, R148). -/
structure RemoteServes (c : CoreWord) (x : Ten) (u : State) (a : RemAcc) : Prop where
  aligned : a.off % (if c.fn = 1 then 8 else 4) = 0
  flushed : flushHeld u x.slot a.target.lcid = false
  free : remHolds u x.slot a.target = false
  place : ∃ z, winPlace u x a.target.lcid = .here z
  inside : ∃ y, findTen u a.target = some y ∧ winIn y a.off a.len = true

/-- RST and RLD alike perform their access in the step that issues them. -/
theorem remoteAcc_serves {s u : State} {t : TenRef} {w : BitVec 56} {x : Ten} {store : Bool}
    (k : Issues s t [(false, (coreWord w).a), (false, (coreWord w).c),
      ((coreWord w).fn == 2, if store then (coreWord w).b else (coreWord w).d)] x u)
    (proper : (decide ((coreWord w).fn ≤ 2) && decide ((coreWord w).pred = 0) && decide ((coreWord w).mod = 0)
      && (if store then decide ((coreWord w).d = 0) else decide ((coreWord w).b = 0))) = true)
    (serves : RemoteServes (coreWord w) x u (remoteAccess store (coreWord w) x)) :
    remoteAcc t w store s = serveRem (setTen u x.next) (remoteAccess store (coreWord w) x) := by
  obtain ⟨aligned, flushed, free, ⟨z, place⟩, y, found, inside⟩ := serves
  simp only [remoteAccess] at aligned flushed free place found inside
  unfold remoteAcc
  refine (issue_of k proper).trans ?_
  simp only [fld24, aligned, flushed, place, free, found, inside, ne_eq, not_true_eq_false, Bool.false_eq_true, Bool.not_true, if_false,
    ← issues_ref k]
  rfl

/-- The answer of a near-memory operation that is performed (R239). -/
theorem nearDo_ok {s u v : State} {r : NearReq} {old new d : List Byte} (own : r.fpa / 2 ^ 42 = ownModule s)
    (hbm : inHbm (r.fpa % 2 ^ 42) = true) (aligned : r.fpa % 2 ^ 42 % nearLen r.op r.width = 0)
    (read : memRead s (nearKind r.op) r.ctx r.pid r.edom (r.fpa % 2 ^ 42) (nearLen r.op r.width) = .ok old u)
    (value : new = (if r.op = 14 then nearLine old r.lanes r.compare.toNat
      else leBytes (nearLen r.op r.width) (nearNew r.op r.width (ofLE old) r.operand.toNat r.compare.toNat)))
    (write : memWrite u (nearKind r.op) r.ctx r.pid r.edom (r.fpa % 2 ^ 42) new = .ok d v) : nearDo s r = (0, old, v) := by
  have served : ¬ (r.fpa / 2 ^ 42 ≠ ownModule s ∨ (!inHbm (r.fpa % 2 ^ 42)) = true
      ∨ r.fpa % 2 ^ 42 % nearLen r.op r.width ≠ 0) := by
    simp only [own, hbm, aligned, ne_eq, not_true_eq_false, Bool.not_true, Bool.false_eq_true, or_self, not_false_eq_true]
  simp only [nearDo, served, if_false, read, ← value, write]

/-- Settles O28, access by access: no check of the instruction finds anything, and what is left is the access. That it is performed
in its issuer's step is the model's choice (notes/assumptions/10.md); VREDW's order of lines is deduced (notes/assumptions/14.md). -/
theorem remoteInstructionsComplete : Obligations.RemoteInstructionsComplete := by
  unfold Obligations.RemoteInstructionsComplete
  refine ⟨?store, ?load, ?waiting, ?held, ?near, executes_own (fun _ _ _ => rfl) ?atom, executes_own (fun _ _ _ => rfl) ?red,
    executes_own (fun _ _ _ => rfl) ?vredw⟩
  case store =>
    rintro s t w x u k proper ⟨aligned, flushed, free, z, y, place, found, inside⟩
    exact congrArg Host.Outcome.next
      (remoteAcc_serves (store := true) k proper ⟨aligned, flushed, free, ⟨z, place⟩, y, found, inside⟩)
  case load =>
    rintro s t w x u k proper ⟨aligned, flushed, free, z, y, place, found, inside⟩
    exact congrArg Host.Outcome.next
      (remoteAcc_serves (store := false) k proper ⟨aligned, flushed, free, ⟨z, place⟩, y, found, inside⟩)
  case waiting =>
    intro s lcid ctx a ended waits
    show execRemoteAccessServe lcid ctx s = _
    simp only [execRemoteAccessServe, ended, waits, Bool.false_eq_true, if_false]
  case held =>
    intro s lcid ctx f ended noneHere waits
    show execRemoteAccessServe lcid ctx s = _
    simp only [execRemoteAccessServe, ended, noneHere, waits, Bool.false_eq_true, if_false]
  case near =>
    intro s r old new u v own hbm aligned read value write
    show execNearMemoryOp r s = _
    rw [execNearMemoryOp, nearDo_ok own hbm aligned read value write]
  case atom =>
    rintro w x u - - ⟨float, int, aligned, e, fpa, v, xlate, hbm⟩
    have width : ((decide (10 ≤ (coreWord w).fn) && decide (modFld (coreWord w) 16 2 = 1))
        || (decide ((coreWord w).fn < 10) && decide (modFld (coreWord w) 16 2 = 2))) = false := by
      simpa using ⟨float, int⟩
    simp only [width, aligned, xlate, hbm, ne_eq, not_true_eq_false, Bool.false_eq_true, Bool.not_true, if_false]
  case red =>
    rintro w x u - - ⟨aligned, e, fpa, v, xlate, hbm⟩
    simp only [aligned, xlate, hbm, ne_eq, not_true_eq_false, Bool.false_eq_true, Bool.not_true, if_false]
  case vredw =>
    rintro w x u - - ⟨aligned, l, v, reqs⟩
    simp only [aligned, reqs, ne_eq, not_true_eq_false, if_false]

end Sys2Proof.Machine
end

/-! PROOFS. What happens on cores beside instructions (spec/04 R103-R118, spec/11 R307): entries start, groups are saved, and saves and
restores end. -/
section
namespace Sys2Proof.Machine

/-- A read of an array that has no effect of its own (R307). -/
theorem sramSeen_eq_afterRead (e : EccSeen) (x : Ten) (s : State) : sramSeen x e s = afterRead e x s s := by
  cases e <;> rfl

theorem imageBad_eq_imageLost (x : Ten) (a : Nat) (s : State) : imageBad x a s = imageLost x a s := rfl

/-- A swapped tenancy that nothing keeps from being restored (R114). -/
theorem restore_due {s : State} {x : Ten} (runnable : isRunnable x = true) (serves : coreServes s x.core = true)
    (still : movingOf s x.slot x.lcid = none) (first : restoresNext s x = true) :
    ¬ ((!isRunnable x) = true ∨ (!coreServes s x.core) = true ∨ (movingOf s x.slot x.lcid).isSome = true
      ∨ (!restoresNext s x) = true) := by
  rw [runnable, serves, still, first]
  decide

/-- Settles O30, command by command. That a save's end starts the first candidate's restore, that freed bays are kept for the candidate
they were freed for, and when a swapped tenancy is restored are deduced (notes/assumptions/15.md); that a save which meets an
uncorrectable word has no other effect is the model's choice (notes/assumptions/17.md). -/
theorem coreSchedulingCompletes : Obligations.CoreSchedulingCompletes := by
  unfold Obligations.CoreSchedulingCompletes
  refine ⟨?new, ?resident, ?swapped, ?exhausted, ?scrub, ?slice, ?preempted, ?class7, ?evicted, ?saved, ?restored, ?restores⟩
  case new =>
    intro s core sample e rest g v serves
    dsimp only
    intro oldest absent group
    show execDispatchEntryStart core sample s = _
    simp only [execDispatchEntryStart, serves, oldest, absent, group, Bool.not_true, Bool.false_eq_true, if_false]
  case resident =>
    intro s core sample e rest x serves
    dsimp only
    intro oldest here foot resident
    show execDispatchEntryStart core sample s = _
    simp only [execDispatchEntryStart, serves, oldest, here, foot, resident, Bool.not_true, Bool.false_eq_true, if_false, if_true,
      ne_eq, not_true_eq_false]
  case swapped =>
    intro s core sample e rest x g v serves
    dsimp only
    intro oldest here foot away group
    rw [foot] at group
    show execDispatchEntryStart core sample s = _
    simp only [execDispatchEntryStart, serves, oldest, here, foot, away, group, Bool.not_true, Bool.false_eq_true, if_false, ne_eq,
      not_true_eq_false]
  case exhausted =>
    intro s core e rest oldest
    show execTenancyExhausted core s = _
    rw [execTenancyExhausted, oldest]
  case scrub =>
    intro s core empty conf noReplica
    exact if_pos ⟨empty, conf, by rw [noReplica]; rfl⟩
  case slice =>
    intro s t x b here loc nobody
    show execSliceExpiry t s = _
    simp only [execSliceExpiry, here, loc, nobody]
  case preempted =>
    intro s t x b k here loc waits
    show execSliceExpiry t s = _
    simp only [execSliceExpiry, here, loc, waits]
  case class7 =>
    intro s core k g serves waits group
    show execClass7Preempt core s = _
    simp only [execClass7Preempt, serves, waits, group, Bool.not_true, Bool.false_eq_true, if_false]
  case evicted =>
    intro s core blocked k g serves waits group
    show execBlockedEvict core blocked s = _
    simp only [execBlockedEvict, serves, waits, group, Bool.not_true, Bool.false_eq_true, if_false]
  case saved =>
    intro s t x b here loc answered
    have go (e : EccSeen) : exec (.tenancySaveDone t e) s = execTenancySaveDone t e s := rfl
    simp only [go, execTenancySaveDone, here, loc, answered, sramSeen_eq_afterRead, Bool.false_eq_true, if_false]
    refine ⟨fun e intact => ?_, rfl⟩
    simp only [intact, if_false]
    cases x.saved <;> rfl
  case restored =>
    intro s t x g here loc
    have go (bad : Option Nat) : exec (.tenancyRestoreDone t bad) s = execTenancyRestoreDone t bad s := rfl
    simp only [go, execTenancyRestoreDone, here, loc, imageBad_eq_imageLost, implies_true, and_self]
  case restores =>
    intro s t x g v here loc runnable serves still first group
    have go (bad : Option Nat) : exec (.tenancyRestoreDone t bad) s = execTenancyRestoreDone t bad s := rfl
    simp only [go, execTenancyRestoreDone, here, loc, restore_due runnable serves still first, if_false, group, imageBad_eq_imageLost,
      implies_true, and_self]

end Sys2Proof.Machine
end

/-! PROOFS. How core instructions end (spec/04 R101, spec/05 R125): one that acts on its tenancy alone, and one that reads an array of
its core. -/
section
namespace Sys2Proof.Machine

/-! ### An instruction that issues (R101) -/

/-- Where no value is pending for some registers, none is for fewer. -/
theorem Issues.fewer {s : State} {t : TenRef} {regs fewer : List Reg} {x : Ten} {u : State} (k : Issues s t regs x u)
    (sub : fewer ⊆ regs) : Issues s t fewer x u := by
  obtain ⟨executes, ready, fetched⟩ := k
  refine ⟨executes, ?_, fetched⟩
  rw [List.any_eq_false] at ready ⊢
  exact fun r listed => ready r (sub listed)

/-- An instruction that acts on its tenancy alone, by how it ends. -/
theorem executes_eff {regs : CoreWord → List Reg} {proper : CoreWord → Bool} {mk : TenRef → BitVec 56 → Instr}
    {cond : CoreWord → Ten → State → Prop} {effect : CoreWord → Ten → State → State} {g : BitVec 56 → Ten → Eff}
    (he : ∀ t w s, exec (mk t w) s = .next (issueTen t (regs (coreWord w)) (proper (coreWord w)) (g w) s))
    (hs : ∀ w x u, cond (coreWord w) x u → applyEff x (g w x) u = effect (coreWord w) x u) : Executes regs proper mk cond effect :=
  executes_own he fun w x u _ _ h => hs w x u h

/-- Likewise for one that reads an array of its tenancy's core: what the code finds decides whether its effect stands. -/
theorem executes_read {regs : CoreWord → List Reg} {proper : CoreWord → Bool} {mk : TenRef → BitVec 56 → Instr} {e : EccSeen}
    {cond : CoreWord → Ten → State → Prop} {effect : CoreWord → Ten → State → State} {g : BitVec 56 → Ten → Eff}
    (he : ∀ t w s, exec (mk t w) s = .next (issueRead t (regs (coreWord w)) (proper (coreWord w)) e (g w) s))
    (hs : ∀ w x u, cond (coreWord w) x u →
      ∃ y ovf, g w x = .done y ovf ∧ effect (coreWord w) x u = afterRead e x u (applyEff x (.done y ovf) u)) :
    Executes regs proper mk cond effect := by
  intro s t w x u k pr h
  obtain ⟨y, ovf, ends, result⟩ := hs w x u h
  rw [he, issueRead, issue_of k pr, result]
  simp only [ends]
  cases e <;> rfl

/-! ### Checks that find nothing (R125) -/

/-- A check that is made only where `p` holds finds nothing, since `q` holds there. -/
theorem unless_true {p q : Bool} (h : p = true → q = true) : (p && !q) = false := by
  rw [Bool.and_eq_false_imp]
  exact fun holds => congrArg not (h holds)

theorem unless_eq {p : Bool} {m n : Nat} (h : p = true → m = n) : (p && decide (m ≠ n)) = false := by
  rw [Bool.and_eq_false_imp]
  exact fun holds => decide_eq_false (not_not_intro (h holds))

theorem winCheck_inside {x : Ten} {off : W64} {align n : Nat} (aligned : off.toNat % align = 0)
    (inside : off.toNat + n ≤ x.foot * 131072) : winCheck x off align n = none := by
  have within : winIn x off.toNat n = true := decide_eq_true inside
  rw [winCheck, if_neg (not_not_intro aligned), within]
  rfl

end Sys2Proof.Machine
end

/-! PROOFS. The scalar instructions (spec/05 R126-R129, R131): the results of the rows as operations of words, what each row of the "opB"
form does and keeps, and accesses to the window and control. -/
section
namespace Sys2Proof.Machine

/-! ### Results (R126, R127) -/

theorem opDivu_eq (a b : W64) : opDivu a b = if b = 0 then -1 else a.udiv b := by
  unfold opDivu
  split
  next => rfl
  next => rw [← BitVec.toNat_udiv, BitVec.ofNat_toNat, BitVec.setWidth_eq]; rfl

theorem opRemu_eq (a b : W64) : opRemu a b = if b = 0 then a else a.umod b := by
  unfold opRemu
  split
  next => rfl
  next => rw [← BitVec.toNat_umod, BitVec.ofNat_toNat, BitVec.setWidth_eq]; rfl

theorem opDivs_eq (a b : W64) : opDivs a b = if b = 0 then -1 else a.sdiv b := by
  unfold opDivs
  split
  next => rfl
  next => exact BitVec.eq_of_toInt_eq (by rw [BitVec.toInt_ofInt, BitVec.toInt_sdiv])

theorem opRems_eq (a b : W64) : opRems a b = if b = 0 then a else a.srem b := by
  unfold opRems
  split
  next => rfl
  next => rw [← BitVec.toInt_srem, BitVec.ofInt_toInt]

theorem flag64_beq (a b : W64) : flag64 (a == b) = if a = b then 1 else 0 := by
  simp only [flag64, beq_iff_eq]

theorem sle_eq_not_sltB (a b : W64) : a.sle b = !sltB b a := BitVec.sle_eq_not_slt

theorem ule_eq_not_ultB (a b : W64) : a.ule b = !ultB b a := BitVec.ule_eq_not_ult a b

theorem sle_eq_sltB_or_eq (a b : W64) : a.sle b = (sltB a b || a == b) := BitVec.sle_eq_slt_or_eq

theorem ule_eq_ultB_or_eq (a b : W64) : a.ule b = (ultB a b || a == b) := by
  rw [Bool.eq_iff_iff, Bool.or_eq_true, beq_iff_eq, ← BitVec.toNat_inj, ultB, decide_eq_true_eq, BitVec.ule_iff_toNat_le]
  exact Nat.le_iff_lt_or_eq

/-- The lesser of two words by an order is the same by its strict and by its weak form. -/
theorem lesser_eq {lt le : Bool} (h : le = !lt) (a b : W64) : (if lt then b else a) = if le then a else b := by
  subst h
  cases lt <;> rfl

/-- The greater of two words likewise: where the forms differ, the words are equal. -/
theorem greater_eq {lt le : Bool} {a b : W64} (h : le = (lt || a == b)) : (if lt then b else a) = if le then b else a := by
  subst h
  cases lt with
  | true => rfl
  | false =>
    simp only [Bool.false_or, beq_iff_eq, Bool.false_eq_true, if_false]
    split
    next same => exact same
    next => rfl

/-! ### Rows of the "opB" form -/

/-- The rows of R126 and R127 that read X[A] and opB. -/
def scalarRows : List (TenRef → BitVec 56 → Instr) :=
  [.add, .sub, .andX, .orX, .xorX, .shl, .shr, .sra, .mul, .mulhu, .mulhs, .divu, .divs, .remu, .rems, .slt, .sltu, .seqEq, .mins,
    .maxs, .minu, .maxu]

/-- Each of them runs as one scalar instruction with a result of its own. -/
theorem scalarRows_run : ∀ mk ∈ scalarRows, ∃ g, ∀ t w s, exec (mk t w) s = .next (scalarR t w false g s) := by
  intro mk row
  simp only [scalarRows, List.mem_cons, List.not_mem_nil, or_false] at row
  rcases row with rfl | rfl | rfl | rfl | rfl | rfl | rfl | rfl | rfl | rfl | rfl | rfl | rfl | rfl | rfl | rfl | rfl | rfl | rfl | rfl
    | rfl | rfl <;> exact ⟨_, fun _ _ _ => rfl⟩

/-- Settles O13: each row, and SEL, runs as one scalar instruction, which keeps everything but X[D] and the PC. -/
theorem scalarFrame : Obligations.ScalarFrame := by
  unfold Obligations.ScalarFrame
  refine ⟨fun mk row => ?_, keepsX_of _ fun _ _ _ => rfl⟩
  obtain ⟨g, runs⟩ := scalarRows_run mk row
  exact keepsX_of g runs

/-- A row whose statement is the model's own result. -/
theorem computesX_run {useC : Bool} {mk : TenRef → BitVec 56 → Instr} {f : W64 → W64 → W64 → W64}
    (he : ∀ t w s, exec (mk t w) s = .next (scalarR t w useC f s)) : ComputesX useC mk f :=
  computesX_of f he fun _ _ _ => rfl

/-- What a row that computes gives, in the model's own terms for proper words and opB. -/
theorem ComputesX.gives {useC : Bool} {mk : TenRef → BitVec 56 → Instr} {f : W64 → W64 → W64 → W64} (h : ComputesX useC mk f)
    {s u : State} {t : TenRef} {w : BitVec 56} {x : Ten}
    (k : Issues s t [(false, (coreWord w).d), (false, (coreWord w).a), (false, (coreWord w).b), (false, (coreWord w).c)] x u)
    (ok : scalarOk (coreWord w) useC = true) :
    exec (mk t w) s = .next (setTen u (xSet x (coreWord w).d
      (f (xGet x (coreWord w).a) (opBVal x (coreWord w)) (xGet x (coreWord w).c))).next) :=
  h s t w x u k ok trivial

theorem divu_computes : ComputesX false .divu (fun a b _ => if b = 0 then -1 else a.udiv b) :=
  computesX_of _ (fun _ _ _ => rfl) fun a b _ => opDivu_eq a b

theorem divs_computes : ComputesX false .divs (fun a b _ => if b = 0 then -1 else a.sdiv b) :=
  computesX_of _ (fun _ _ _ => rfl) fun a b _ => opDivs_eq a b

theorem remu_computes : ComputesX false .remu (fun a b _ => if b = 0 then a else a.umod b) :=
  computesX_of _ (fun _ _ _ => rfl) fun a b _ => opRemu_eq a b

theorem rems_computes : ComputesX false .rems (fun a b _ => if b = 0 then a else a.srem b) :=
  computesX_of _ (fun _ _ _ => rfl) fun a b _ => opRems_eq a b

/-- Settles O16: each row computes a result, and the corners are values of the results. -/
theorem divisionCorners : Obligations.DivisionCorners := by
  unfold Obligations.DivisionCorners
  intro s t w x u k ok
  dsimp only
  refine ⟨?results, ?zero, ?least⟩
  case results =>
    simp only [List.forall_mem_cons, List.not_mem_nil, false_imp_iff, implies_true, and_true]
    exact ⟨⟨_, divu_computes.gives k ok⟩, ⟨_, divs_computes.gives k ok⟩, ⟨_, remu_computes.gives k ok⟩,
      ⟨_, rems_computes.gives k ok⟩⟩
  case zero =>
    intro zero
    rw [divu_computes.gives k ok, remu_computes.gives k ok, divs_computes.gives k ok, rems_computes.gives k ok, zero]
    exact ⟨rfl, rfl, rfl, rfl⟩
  case least =>
    intro least minus
    rw [divs_computes.gives k ok, rems_computes.gives k ok, least, minus]
    exact ⟨rfl, rfl⟩

theorem coreNop_runs (t : TenRef) (s : State) : exec (.coreNop t 0) s = .next (issueTen t [] true (fun x => .done x.next false) s) := rfl

/-- Settles O22, row by row: each runs as one scalar instruction, and its result is the statement's. -/
theorem scalarArithmeticCompletes : Obligations.ScalarArithmeticCompletes := by
  unfold Obligations.ScalarArithmeticCompletes
  refine ⟨?nop, computesX_run fun _ _ _ => rfl, computesX_run fun _ _ _ => rfl, computesX_run fun _ _ _ => rfl,
    computesX_run fun _ _ _ => rfl, computesX_run fun _ _ _ => rfl, computesX_run fun _ _ _ => rfl, computesX_run fun _ _ _ => rfl,
    computesX_run fun _ _ _ => rfl, computesX_run fun _ _ _ => rfl, computesX_run fun _ _ _ => rfl, computesX_run fun _ _ _ => rfl,
    divu_computes, divs_computes, remu_computes, rems_computes, computesX_run fun _ _ _ => rfl, computesX_run fun _ _ _ => rfl,
    computesX_of _ (fun _ _ _ => rfl) fun a b _ => flag64_beq a b,
    computesX_of _ (fun _ _ _ => rfl) fun a b _ => lesser_eq (sle_eq_not_sltB a b) a b,
    computesX_of _ (fun _ _ _ => rfl) fun a b _ => greater_eq (sle_eq_sltB_or_eq a b),
    computesX_of _ (fun _ _ _ => rfl) fun a b _ => lesser_eq (ule_eq_not_ultB a b) a b,
    computesX_of _ (fun _ _ _ => rfl) fun a b _ => greater_eq (ule_eq_ultB_or_eq a b),
    computesX_of _ (fun _ _ _ => rfl) fun a b c => ite_not (c = 0) a b, executes_eff (fun _ _ _ => rfl) fun _ _ _ _ => rfl,
    executes_eff (fun _ _ _ => rfl) fun _ _ _ _ => rfl⟩
  case nop =>
    intro s t x u k
    rw [coreNop_runs, issueTen, issue_of k rfl]
    rfl

/-! ### Control (R129, R131) -/

theorem brCond_eq {fn : Nat} (h : fn ≤ 5) (a b : W64) : brCond fn a b =
    if fn = 0 then decide (a = b) else if fn = 1 then decide (a ≠ b) else if fn = 2 then a.slt b else if fn = 3 then b.sle a
    else if fn = 4 then a.ult b else b.ule a := by
  match fn, h with
  | 0, _ | 2, _ | 4, _ => rfl
  | 1, _ => exact decide_not.symm
  | 3, _ => exact (sle_eq_not_sltB b a).symm
  | 5, _ => exact (ule_eq_not_ultB b a).symm

theorem sprValue_eq (s : State) (x : Ten) (i : Nat) : sprValue s x i = if i = 0 then BitVec.ofNat 64 (ctxArith s x.ctx)
    else if i = 1 then BitVec.ofNat 64 x.lcid else if i = 2 then BitVec.ofNat 64 (getSlot s x.slot).brec.lcount
    else if i = 3 then BitVec.ofNat 64 x.foot else if i = 4 then BitVec.ofNat 64 x.ctx else cntOf s (halfOfCore x.core) := by
  match i with
  | 0 | 1 | 2 | 3 | 4 => rfl
  | _ + 5 => rfl

/-- Settles O23, row by row. The fields of TRAP's record are deduced (notes/assumptions/14.md), and that a load which meets an
uncorrectable word has no other effect is the model's choice (notes/assumptions/17.md). -/
theorem scalarMemoryAndControlComplete : Obligations.ScalarMemoryAndControlComplete := by
  unfold Obligations.ScalarMemoryAndControlComplete
  refine ⟨fun e => executes_read (fun _ _ _ => rfl) ?ld, executes_eff (fun _ _ _ => rfl) ?st, executes_eff (fun _ _ _ => rfl) ?br,
    executes_eff (fun _ _ _ => rfl) ?jal, executes_eff (fun _ _ _ => rfl) ?jalr, executes_own (fun _ _ _ => rfl) ?spr,
    executes_own (fun _ _ _ => rfl) ?flagclr, executes_own (fun _ _ _ => rfl) ?trap⟩
  case ld =>
    rintro w x u ⟨aligned, inside⟩
    refine ⟨_, false, ?_, rfl⟩
    simp only [ldSize, winCheck_inside aligned inside]
  case st =>
    rintro w x u ⟨aligned, inside, size⟩
    have bytes : ldSize (coreWord w).fn = 2 ^ (coreWord w).fn := by rw [ldSize, Nat.mod_eq_of_lt (Nat.lt_succ_of_le size)]
    simp only [bytes, winCheck_inside aligned inside]
    rfl
  case br =>
    intro w x u cond
    simp only [brCond_eq cond]
    exact congrArg (setTen u) (apply_ite (fun pc => ({ x with pc := pc } : Ten)) _ _ _).symm
  case jal => exact fun _ _ _ _ => rfl
  case jalr =>
    intro w x u aligned
    simp only [aligned, ne_eq, not_true_eq_false, if_false]
    rfl
  case spr =>
    intro w x u _ _ _
    simp only [sprValue_eq]
  case flagclr => exact fun _ _ _ _ _ _ => rfl
  case trap => exact fun _ _ _ _ _ _ => rfl

end Sys2Proof.Machine
end

/-! PROOFS. The vector and predicate instructions (spec/05 R123, R132-R137): lanes that are written, words that are improper, and what each
row does. -/
section
namespace Sys2Proof.Machine

/-! ### Lanes (R132) -/

theorem vGet_vPut (t : Ten) (v l : Nat) (y : W32) (r m : Nat) :
    vGet (vPut t v l y) r m = if 64 * r + m = 64 * v + l then y else vGet t r m := tabGet_tabSet ..

/-- What writing listed lanes of a register leaves: each of them its result, every other lane as it was. -/
theorem vGet_vLanes {ls : List Nat} (real : ∀ l ∈ ls, l < 64) (t : Ten) (v : Nat) (f : Nat → W32) (r : Nat) {m : Nat} (hm : m < 64) :
    vGet (vLanes t v f ls) r m = if r = v ∧ m ∈ ls then f m else vGet t r m := by
  induction ls generalizing t with
  | nil => simp [vLanes]
  | cons l ls ih =>
    obtain ⟨hl, rest⟩ := List.forall_mem_cons.mp real
    have place : 64 * r + m = 64 * v + l ↔ r = v ∧ m = l := by omega
    show vGet (vLanes (vPut t v l (f l)) v f ls) r m = _
    rw [ih rest, vGet_vPut]
    by_cases same : r = v
    · by_cases here : m = l
      · simp [same, here]
      · simp [same, here]
    · simp [same, place]

theorem mem_activeLanes {t : Ten} {p l : Nat} : l ∈ activeLanes t p ↔ l < 64 ∧ laneOn t p l = true := by
  rw [activeLanes, List.mem_filter, List.mem_range]

/-- Settles O6: a lane is written where it is listed, and the active lanes are listed. -/
theorem inactiveLanesKeep : Obligations.InactiveLanesKeep := by
  unfold Obligations.InactiveLanesKeep
  intro t v p f r l hl
  rw [vGet_vLanes (fun m listed => (mem_activeLanes.mp listed).1) t v f r hl]
  simp only [mem_activeLanes, hl, true_and]

/-! ### Improper words (R123, R125) -/

/-- A scalar instruction faults on an improper word. -/
theorem faultsX_of {useC : Bool} {mk : TenRef → BitVec 56 → Instr} {g : W64 → W64 → W64 → W64}
    (he : ∀ t w s, exec (mk t w) s = .next (scalarR t w useC g s)) : FaultsX (fun c => scalarOk c useC) mk :=
  faults_of (regs := fun c => [(false, c.d), (false, c.a), (false, c.b), (false, c.c)]) (proper := fun c => scalarOk c useC)
    (fun c x => .done (xSet x c.d (g (xGet x c.a) (opBVal x c) (xGet x c.c))).next false) he

/-- The proper words of a lane operation (R132). -/
def laneWordOk (useB useC useFn : Bool) (fnMax : Nat) (c : CoreWord) : Bool :=
  (useB || decide (c.b = 0)) && (useC || decide (c.c = 0)) && (if useFn then decide (c.fn ≤ fnMax) else decide (c.fn = 0))
    && modZero c 20 27 && decide (c.imm16 = 0)

theorem vRegs_subset (c : CoreWord) (useB useC : Bool) : vRegs c useB useC ⊆ [(true, c.d), (true, c.a), (true, c.b), (true, c.c)] := by
  cases useB <;> cases useC <;> simp [vRegs]

/-- A lane operation faults on an improper word. -/
theorem faultsV_of {useB : CoreWord → Bool} {useC useFn : Bool} {fnMax : Nat} {tys : List Nat} {mk : TenRef → BitVec 56 → Instr}
    {g : Nat → Nat → W32 → W32 → W32 → W32 × Bool}
    (he : ∀ t w s, exec (mk t w) s = .next (vecOp t w (useB (coreWord w)) useC useFn fnMax tys g s)) :
    FaultsV (fun c => laneWordOk (useB c) useC useFn fnMax c) mk := by
  intro s t w x u k improper
  exact faults_of (regs := fun c => vRegs c (useB c) useC) (proper := fun c => laneWordOk (useB c) useC useFn fnMax c)
    (fun c x => if !tys.contains (laneTy c) then .fault 0x21
      else vWrite x c (fun l => g (laneTy c) c.fn (vGet x c.a l) (vGet x c.b l) (vGet x c.c l)))
    he s t w x u (k.fewer (vRegs_subset ..)) improper

/-- The rows of R132 that read V[A] and V[B] under a predicate and use no other field. -/
def laneRows : List (TenRef → BitVec 56 → Instr) :=
  [.vadd, .vsub, .vmul, .vdiv, .vmin, .vmax, .vand, .vor, .vxor, .vshl, .vshr, .vsra]

/-- Every such row runs as one lane operation. -/
theorem laneRows_run : ∀ mk ∈ laneRows, ∃ tys g, ∀ t w s, exec (mk t w) s = .next (vecOp t w true false false 0 tys g s) := by
  intro mk row
  simp only [laneRows, List.mem_cons, List.not_mem_nil, or_false] at row
  rcases row with rfl | rfl | rfl | rfl | rfl | rfl | rfl | rfl | rfl | rfl | rfl | rfl <;> exact ⟨_, _, fun _ _ _ => rfl⟩

/-- Settles O14: a row runs as one scalar instruction or one lane operation, and both check the word's unused fields before anything else.
That the record of a core fault without an address has the PC as its address is deduced (notes/assumptions/14.md). -/
theorem improperWordsFault : Obligations.ImproperWordsFault := by
  unfold Obligations.ImproperWordsFault
  refine ⟨fun mk row => ?scalar, ?sel, fun mk row => ?lanes,
    faultsV_of (mk := .vfma) (useB := fun _ => true) (useC := true) (useFn := false) (fnMax := 0) fun _ _ _ => rfl,
    faultsV_of (mk := .vfunc) (useB := fun _ => false) (useC := false) (useFn := true) (fnMax := 4) fun _ _ _ => rfl,
    faultsV_of (mk := .vsgn) (useB := fun c => decide (c.fn = 2)) (useC := false) (useFn := true) (fnMax := 2) fun _ _ _ => rfl⟩
  case scalar =>
    obtain ⟨g, runs⟩ := scalarRows_run mk row
    exact faultsX_of runs
  case sel =>
    intro s t w x u k improper
    refine faultsX_of (mk := .sel) (useC := true) (fun _ _ _ => rfl) s t w x u k ?_
    simpa only [scalarOk, Bool.true_or, Bool.and_true] using improper
  case lanes =>
    obtain ⟨tys, g, runs⟩ := laneRows_run mk row
    exact faultsV_of (useB := fun _ => true) runs

/-! ### Lane results (R88, R132, R133) -/

theorem laneMin_eq (ty : Nat) (a b : W32) :
    laneMin ty a b = (if ty = 0xC then f32Min a b else BitVec.ofInt 32 (min (laneInt ty a) (laneInt ty b)), false) := by
  unfold laneMin
  split <;> rfl

theorem laneMax_eq (ty : Nat) (a b : W32) :
    laneMax ty a b = (if ty = 0xC then f32Max a b else BitVec.ofInt 32 (max (laneInt ty a) (laneInt ty b)), false) := by
  unfold laneMax
  split <;> rfl

theorem laneSgn_eq (fn : Nat) (a b : W32) :
    laneSgn fn a b = if fn = 0 then f32Flip a else if fn = 1 then f32Abs a else f32CopySign a b := by
  match fn with
  | 0 | 1 => rfl
  | _ + 2 => rfl

theorem laneFunc_eq (fn : Nat) (a : W32) :
    laneFunc fn a = if fn = 0 then f32Exp2 a else if fn = 1 then f32Log2 a else if fn = 2 then f32Rcp a else if fn = 3 then f32Sqrt a
      else f32Rsqrt a := by
  match fn with
  | 0 | 1 | 2 | 3 => rfl
  | _ + 4 => rfl

/-- The sources of R133 are the lane types. -/
theorem cvtPair_source {src dst : Nat} (pair : cvtPair src dst = true) : src ∈ [0xC, 0xD, 0xE, 0xF] := by
  simp only [cvtPair, Bool.or_eq_true, Bool.and_eq_true, beq_iff_eq] at pair
  simp only [List.mem_cons, List.not_mem_nil, or_false]
  omega

/-- A type without a grid is given none. -/
theorem noGrid_eq {g src : Nat} (h : g ≠ 0 → src = 0xD ∨ src = 0xE) : (!cvtUsesG src && decide (g ≠ 0)) = false := by
  refine unless_eq fun without => Decidable.byContradiction fun given => ?_
  rcases h given with rfl | rfl <;> exact absurd without (by decide)

theorem noGrid'_eq {g dst : Nat} (h : g ≠ 0 → dst = 0xD ∨ dst = 0xE) : (!cvtUsesG' dst && decide (g ≠ 0)) = false := noGrid_eq h

/-- A lane operation whose row has one result for every FN. -/
theorem computesV_run {useB : CoreWord → Bool} {useC : Bool} {tys : List Nat} {mk : TenRef → BitVec 56 → Instr}
    {f : Nat → Nat → W32 → W32 → W32 → W32 × Bool}
    (he : ∀ t w s, exec (mk t w) s = .next (vecOp t w (useB (coreWord w)) useC false 0 tys f s)) : ComputesV useB useC 0 tys mk f :=
  computesV_of f (.inr rfl) he fun _ _ _ _ _ _ _ => rfl

/-- Settles O24, row by row. -/
theorem vectorLanesComplete : Obligations.VectorLanesComplete := by
  unfold Obligations.VectorLanesComplete
  refine ⟨computesV_run fun _ _ _ => rfl, computesV_run fun _ _ _ => rfl, computesV_run fun _ _ _ => rfl,
    computesV_run fun _ _ _ => rfl, computesV_run fun _ _ _ => rfl,
    computesV_of _ (.inr rfl) (fun _ _ _ => rfl) fun ty _ a b _ _ _ => laneMin_eq ty a b,
    computesV_of _ (.inr rfl) (fun _ _ _ => rfl) fun ty _ a b _ _ _ => laneMax_eq ty a b, computesV_run fun _ _ _ => rfl,
    computesV_run fun _ _ _ => rfl, computesV_run fun _ _ _ => rfl, computesV_run fun _ _ _ => rfl, computesV_run fun _ _ _ => rfl,
    computesV_run fun _ _ _ => rfl,
    computesV_of (useFn := true) _ (.inl rfl) (fun _ _ _ => rfl) fun _ fn a b _ _ _ => congrArg (·, false) (laneSgn_eq fn a b),
    computesV_of (useFn := true) _ (.inl rfl) (fun _ _ _ => rfl) fun _ fn a _ _ _ _ => congrArg (·, false) (laneFunc_eq fn a),
    executes_eff (fun _ _ _ => rfl) ?vcmp, executes_eff (fun _ _ _ => rfl) ?vcvt, executes_eff (fun _ _ _ => rfl) ?vred⟩
  case vcmp =>
    rintro w x u ⟨lanes, unsigned⟩
    have signed : (decide (6 ≤ (coreWord w).fn) && decide (laneTy (coreWord w) ≠ 0xF)) = false :=
      unless_eq fun above => unsigned (of_decide_eq_true above)
    simp only [isLaneTy_of lanes, signed, Bool.or_self, Bool.false_eq_true, if_false]
    rfl
  case vcvt =>
    rintro w x u ⟨pair, rounds, source, target⟩
    have lanes : (!isLaneTy (modFld (coreWord w) 16 4)) = false := isLaneTy_of (cvtPair_source pair)
    have rounding : (modBit (coreWord w) 25 && !(modFld (coreWord w) 16 4 == 0xC && modFld (coreWord w) 20 4 == 0xF)) = false :=
      unless_true fun rtz => by rw [(rounds rtz).1, (rounds rtz).2]; rfl
    have grid : fld (coreWord w).imm16 0 8 = (coreWord w).imm16 % 256 := fld_0 ..
    have grid' : fld (coreWord w).imm16 8 8 = (coreWord w).imm16 / 256 % 256 := rfl
    simp only [laneTy, lanes, pair, rounding, grid, grid', noGrid_eq source, noGrid'_eq target]
    rfl
  case vred =>
    intro w x u lanes
    simp only [isLaneTy_of lanes]
    rfl

/-! ### Moves (R132, R135-R137) -/

/-- A format that VLDC and VSTC accept, with its elements and scales in the window (R136). -/
theorem ldcCheck_ok {x : Ten} {c : CoreWord} (fmt : ldcFmt (modFld c 24 4) = true)
    (aligned : (xGet x c.a + sext16 c.imm16).toNat % 4 = 0)
    (inside : (xGet x c.a + sext16 c.imm16).toNat + 8 * codeBits (modFld c 24 4) ≤ x.foot * 131072)
    (scales : scaled (modFld c 24 4) = true → (xGet x c.b).toNat + 2 ≤ x.foot * 131072) :
    ldcCheck x c = .ok ((xGet x c.a + sext16 c.imm16).toNat, (xGet x c.b).toNat) := by
  have within : (scaled (modFld c 24 4) && !winIn x (xGet x c.b).toNat 2) = false :=
    unless_true fun blocks => decide_eq_true (scales blocks)
  simp only [ldcCheck, fmt, winCheck_inside aligned inside, within]
  rfl

/-- Settles O25, row by row. That a VLD which meets an uncorrectable word has no other effect is the model's choice
(notes/assumptions/17.md). -/
theorem vectorMovesComplete : Obligations.VectorMovesComplete := by
  unfold Obligations.VectorMovesComplete
  refine ⟨executes_eff (fun _ _ _ => rfl) ?vbcast, executes_eff (fun _ _ _ => rfl) ?vext, executes_eff (fun _ _ _ => rfl) ?vins,
    executes_eff (fun _ _ _ => rfl) ?vperm, executes_eff (fun _ _ _ => rfl) ?viota, fun e => executes_read (fun _ _ _ => rfl) ?vld,
    executes_eff (fun _ _ _ => rfl) ?vst, executes_eff (fun _ _ _ => rfl) ?vldc, executes_eff (fun _ _ _ => rfl) ?vstc,
    executes_eff (fun _ _ _ => rfl) ?plog⟩
  case vbcast | vext | vins | vperm =>
    intro w x u lanes
    simp only [isLaneTy_of lanes]
    rfl
  case viota =>
    intro w x u int
    have int' : laneTy (coreWord w) = 0xF := int
    simp only [int']
    rfl
  case vld =>
    rintro w x u ⟨aligned, inside⟩
    refine ⟨_, _, ?_, rfl⟩
    simp only [winCheck_inside aligned inside]
    rfl
  case vst =>
    rintro w x u ⟨aligned, inside⟩
    simp only [winCheck_inside aligned inside]
    rfl
  case vldc =>
    rintro w x u ⟨fmt, aligned, inside, scales⟩
    simp only [ldcCheck_ok fmt aligned inside scales]
    rfl
  case vstc =>
    rintro w x u ⟨fmt, aligned, inside, scales⟩
    simp only [ldcCheck_ok fmt aligned inside scales]
    split <;> rfl
  case plog =>
    intro w x u le
    generalize coreWord w = c at le ⊢
    obtain ⟨d, a, b, c, pred, fn, mod, imm16, imm46⟩ := c
    match fn, le with
    | 0, _ | 1, _ | 2, _ | 3, _ | 4, _ | 5, _ | 6, _ => rfl

end Sys2Proof.Machine
end

/-! PROOFS. The tensor and accumulator instructions (spec/05 R138-R141): one whose checks find nothing has its row's effect. -/
section
namespace Sys2Proof.Machine

/-- Settles O26, row by row. That a TMMA which meets an uncorrectable word has no other effect is the model's choice
(notes/assumptions/17.md). -/
theorem tensorInstructionsComplete : Obligations.TensorInstructionsComplete := by
  unfold Obligations.TensorInstructionsComplete
  refine ⟨fun e => executes_read (fun _ _ _ => rfl) ?tmma, executes_eff (fun _ _ _ => rfl) ?aclr, executes_eff (fun _ _ _ => rfl) ?ald,
    executes_eff (fun _ _ _ => rfl) ?adrain⟩
  case tmma =>
    rintro w x u ⟨ta, tb, k, m, n, pair, addrA, addrB, shape, bank, alignedA, alignedB, rowsA, rowsB, scalesA, scalesB⟩
    simp only [pair, addrA, addrB, shape, Nat.not_le.mpr bank, alignedA, alignedB, rowsA, rowsB, unless_true scalesA,
      unless_true scalesB]
    exact ⟨_, _, rfl, rfl⟩
  case aclr =>
    rintro w x u ⟨bank, grid⟩
    have within : (modBit (coreWord w) 17 && !winIn x ((xGet x (coreWord w).a).toNat % 2 ^ 19) 128) = false :=
      unless_true fun loads => decide_eq_true (grid loads)
    simp only [Nat.not_le.mpr bank, fld19, within]
    rfl
  case ald =>
    rintro w x u ⟨ta, k, m, n, addr, shape, bank, base, stride, rows, grid⟩
    have within : (modBit (coreWord w) 17 && !winIn x ta.sbase 128) = false := unless_true fun loads => decide_eq_true (grid loads)
    simp only [addr, shape, Nat.not_le.mpr bank, base, stride, rows, within]
    rfl
  case adrain =>
    rintro w x u ⟨ta, k, m, n, addr, shape, bank, target, rounds, columns, aligned, rows, scales⟩
    have mode : (modBit (coreWord w) 22 && decide (modFld (coreWord w) 24 4 ≠ 0xF)) = false := unless_eq rounds
    have whole : (!bankFgx x (coreWord w).d && drainBlocks (modFld (coreWord w) 24 4) && decide (n ≠ 32) && decide (n ≠ 64))
        = false := by
      rw [Bool.and_assoc, Bool.and_eq_false_imp, Bool.and_eq_true, Bool.not_eq_true']
      rintro ⟨fp32, blocks⟩
      rcases columns fp32 blocks with rfl | rfl <;> rfl
    simp only [addr, shape, Nat.not_le.mpr bank, target, mode, whole, aligned, rows, unless_true scales]
    rfl

end Sys2Proof.Machine
end

/-! PROOFS. Events, barriers, fences and the end of a kernel (spec/05 R130, R152-R155): an instruction whose waits are over goes on, and what
an arrival and a release at a barrier do. -/
section
namespace Sys2Proof.Machine

/-! ### What a tenancy's update leaves -/

@[simp] theorem ownModule_setTen (s : State) (x : Ten) : ownModule (setTen s x) = ownModule s := rfl

@[simp] theorem findTen_part (s : State) (p : Part) (t : TenRef) : findTen { s with part := p } t = findTen s t := rfl

@[simp] theorem waitsOfHalf_setTen (s : State) (x : Ten) (h : Nat) : waitsOfHalf (setTen s x) h = waitsOfHalf s h := rfl

/-- The registers of a tenancy whose sample is abandoned (R316). -/
@[simp] theorem xGet_unsampled (x : Ten) (i : Nat) : xGet { x with sample := none } i = xGet x i := rfl

/-! ### Events (R152) -/

/-- A ready tenancy that comes to wait for an event that has happened goes on past its instruction. -/
theorem registerWait_met {u : State} {x : Ten} {b : Nat} {h : W32} {e : Nat} {v : W64} (found : findTen u (refOf x) = some x)
    (wait : x.wait = .none) (loc : x.loc = .resident b) (awake : halfPwr u (halfOfCore x.core) ≠ 1)
    (met : waitMet (getEv u e).val v = true) :
    registerWait (setTen u { x with wait := .event h v }) { ev := e, target := v, who := .ten (refOf x) } = setTen u x.next := by
  have there : findTen (setTen u { x with wait := .event h v }) (refOf x) = some { x with wait := .event h v } :=
    findTen_setTen (y := { x with wait := .event h v }) found
  have past : ({ x with pc := x.pc + 8, wait := .none } : Ten) = x.next := by rw [Ten.next, ← wait]
  have woken : wakeTen (setTen u { x with wait := .event h v }) (refOf x)
      = setTen (setTen u { x with wait := .event h v }) { x with pc := x.pc + 8, wait := .none } :=
    wakeTen_eq (y := { x with wait := .event h v }) there (by rw [loc]; exact nofun) awake
  simp only [registerWait, getEv_setTen, met, if_true, wake, woken, past]
  exact setTen_setTen u rfl

/-! ### Barriers (R153, R154) -/

/-- The message of a barrier leaves the list as it arrives. -/
def barTaken (s : State) (m : BarMsg) : State := { s with part := { s.part with barMsgs := s.part.barMsgs.erase m } }

/-- An arrival under way in a LIVE context reaches its barrier's state. -/
theorem barrierArrive_reaches {s : State} {ctx bid lcid : Nat} {g : W64} {x : Ten} (live : (getCtx s ctx).st = 1)
    (sent : s.part.barMsgs.contains (.arrive ctx bid lcid g) = true) (found : findTen s ⟨lcid, ctx⟩ = some x) :
    exec (.barrierArrive ctx bid lcid g) s
      = .next (barArrive ctx bid lcid (ownModule s) (halfOfCore x.core) g x.pc (barTaken s (.arrive ctx bid lcid g))) := by
  show execBarrierArrive ctx bid lcid g s = _
  simp only [execBarrierArrive, live, sent, Bool.not_true, Bool.false_eq_true, ne_eq, not_true_eq_false, or_self, if_false,
    findTen_part, found]
  rfl

/-- An arrival that fits its group is counted: its tenancy waits for the phase, and the last releases every member. -/
theorem barArrive_counted {s : State} {ctx bid lcid half : Nat} {g pc : W64} {x : Ten} (found : findTen s ⟨lcid, ctx⟩ = some x)
    (wait : x.wait = .barrier bid phaseUnknown) (group : (getBar s (barKey ctx bid)).count ≠ 0 → (getBar s (barKey ctx bid)).group = g)
    (member : grpHas g lcid = true) :
    let b := getBar s (barKey ctx bid)
    let w := setTen s { x with wait := .barrier bid b.ph }
    barArrive ctx bid lcid (ownModule s) half g pc s =
      if b.count + 1 = grpCount g then barReleaseAll (setBar w (barKey ctx bid) { group := 0, ph := b.ph + 1, count := 0 }) ctx bid b.ph g
      else setBar w (barKey ctx bid) { b with group := g, count := b.count + 1 } := by
  have fixed : (if (getBar s (barKey ctx bid)).count = 0 then g else (getBar s (barKey ctx bid)).group) = g := by
    split
    next => rfl
    next counted => exact group counted
  have waits : barCounted s ⟨lcid, ctx⟩ bid (getBar s (barKey ctx bid)).ph
      = setTen s { x with wait := .barrier bid (getBar s (barKey ctx bid)).ph } := by
    simp only [barCounted, found, wait, and_self, if_true]
  simp only [barArrive, fixed, member, Bool.not_true, Bool.false_eq_true, ne_eq, not_true_eq_false, or_self, if_false, if_true, waits]

/-- An arrival that does not fit its group makes the context LOST. -/
theorem barArrive_mismatch {s : State} {ctx bid lcid src half : Nat} {g pc : W64}
    (bad : ((getBar s (barKey ctx bid)).count ≠ 0 ∧ (getBar s (barKey ctx bid)).group ≠ g) ∨ grpHas g lcid = false) :
    barArrive ctx bid lcid src half g pc s = loseCause (fatalFault s 0x2E 3 ctx false pc pc lcid half 0) s := by
  refine if_pos ?_
  rcases bad with ⟨counted, other⟩ | stranger
  · left
    rw [if_neg counted]
    exact other.symm
  · right
    rw [stranger]
    rfl

/-- Settles O29, case by case. That an arrival's phase is unknown until it is counted is the model's choice
(notes/assumptions/24.md), and that a mismatch is recorded at its BAR's own PC is deduced (notes/assumptions/14.md). -/
theorem syncInstructionsComplete : Obligations.SyncInstructionsComplete := by
  unfold Obligations.SyncInstructionsComplete
  refine ⟨executes_own (fun _ _ _ => rfl) ?erecHere, executes_own (fun _ _ _ => rfl) ?erecFar, executes_own (fun _ _ _ => rfl) ?ewaitMet,
    executes_own (fun _ _ _ => rfl) ?ewaitOpen, executes_own (fun _ _ _ => rfl) ?bar, ?counted, ?mismatch, ?released, ?fence,
    executes_own (fun _ _ _ => rfl) ?endK⟩
  case erecHere =>
    rintro w x u - - ⟨posted, free, here, serves, same⟩
    simp only [posted, free, xGet_unsampled, here, same, serves, Bool.not_true, Bool.or_self, Bool.false_eq_true, if_false, ne_eq,
      not_true_eq_false]
  case erecFar =>
    rintro w x u - - ⟨posted, free, far⟩
    simp only [posted, free, xGet_unsampled, far, Bool.not_true, Bool.or_self, Bool.false_eq_true, if_false, ne_eq, not_false_eq_true,
      if_true]
  case ewaitMet =>
    rintro w x u wait ⟨b, loc⟩ ⟨here, serves, met, found, awake⟩
    simp only [here, serves, Bool.not_true, Bool.false_eq_true, if_false, ne_eq, not_true_eq_false]
    exact registerWait_met found wait loc awake met
  case ewaitOpen =>
    rintro w x u - - ⟨here, serves, notMet, room⟩
    simp only [here, serves, Bool.not_true, Bool.false_eq_true, if_false, ne_eq, not_true_eq_false, registerWait, getEv_setTen, notMet,
      waitsOfHalf_setTen, room, if_true]
  case bar =>
    rintro w x u - - ⟨count, stride, bound, members, posted, host⟩
    simp only [count, stride, bound, decide_eq_false (Nat.not_le.mpr members), posted, host, or_self, ownModule_setTen, if_false,
      if_true, Bool.not_true, Bool.or_self, Bool.false_eq_true]
  case counted =>
    intro s ctx bid lcid g x
    dsimp only
    intro live sent found wait group member
    rw [barrierArrive_reaches live sent found]
    exact congrArg Host.Outcome.next (barArrive_counted (s := barTaken s _) found wait group member)
  case mismatch =>
    intro s ctx bid lcid g x
    dsimp only
    intro live sent found bad
    rw [barrierArrive_reaches live sent found]
    exact congrArg Host.Outcome.next (barArrive_mismatch (s := barTaken s _) bad)
  case released =>
    intro s t bid ph x found wait sent
    show execBarrierRelease t bid ph s = _
    simp only [execBarrierRelease, sent, Bool.not_true, Bool.false_eq_true, if_false, barRelease, findTen_part, found, wait, if_true]
  case fence =>
    intro s t x u k posted
    show execFence t 0 s = _
    rw [execFence, issue_of k (decide_eq_true rfl), posted]
    rfl
  case endK =>
    rintro w x u - - ⟨found, idle, posted, loads, sample, remote⟩
    simp only [endStep, found, idle, posted, loads, sample, Bool.or_self, Bool.false_eq_true, if_false, kernelEnd, remote,
      Option.isSome_none]

end Sys2Proof.Machine
end

/-! PROOFS. Sequencer instructions on registers, branches, memory and events (spec/07 R200, R204, R207): the operations and conditions as
operations of words, how a load ends, and what each row leaves. -/
section
namespace Sys2Proof.Machine

/-! ### Operations and conditions (R200) -/

/-- A choice between words by the order of their numbers. -/
theorem ite_toNat_le {α : Type} (a b : W64) (p q : α) : (if a.toNat ≤ b.toNat then p else q) = if a.ule b then p else q := by
  simp only [BitVec.ule_eq_decide, decide_eq_true_eq]

theorem aluOp_eq {o : Nat} (h : o ≤ 9) (a b : W64) : aluOp o a b =
    if o = 0 then a + b else if o = 1 then a - b else if o = 2 then a &&& b else if o = 3 then a ||| b
    else if o = 4 then a ^^^ b else if o = 5 then a <<< (b.toNat % 64) else if o = 6 then a >>> (b.toNat % 64)
    else if o = 7 then a * b else if o = 8 then (if a.ule b then a else b) else (if a.ule b then b else a) := by
  match o, h with
  | 0, _ | 1, _ | 2, _ | 3, _ | 4, _ | 5, _ | 6, _ | 7, _ => rfl
  | 8, _ => exact ite_toNat_le a b a b
  | 9, _ => exact ite_toNat_le a b b a

theorem seqCond_eq {c : Nat} (h : c ≤ 5) (a b : W64) : seqCond c a b =
    if c = 0 then decide (a = b) else if c = 1 then decide (a ≠ b) else if c = 2 then a.ult b else if c = 3 then b.ule a
    else if c = 4 then a.slt b else b.sle a := by
  match c, h with
  | 0, _ | 2, _ | 3, _ | 4, _ | 5, _ => rfl
  | 1, _ => exact decide_not.symm

/-! ### Loads (R207) -/

/-- An aligned load that its memory serves ends at once. -/
theorem loadStart_ok {s u : State} {r : Nat} {x : Run} {w : SeqW} {va n : Nat} {d : List Byte} (aligned : va % n = 0)
    (served : runLoad s r x va n = .ok d u) : loadStart s r x w va n = loadEnd u r x w d := by
  rw [loadStart, if_neg (not_not_intro aligned), served]

/-! ### Events (R207) -/

/-- The value of an event of another module is asked of it. -/
theorem eventStart_far {s : State} {r : Nat} {x : Run} {w : SeqW} (far : evMod ((sGet x w.a).setWidth 32) ≠ ownModule s) :
    eventStart r x w s = eventAsked r x w s := by
  simp only [eventStart, evRef_far far]
  rfl

/-- An event of this module answers at once. -/
theorem eventStart_here {s : State} {r : Nat} {x : Run} {w : SeqW} (here : evMod ((sGet x w.a).setWidth 32) = ownModule s)
    (serves : evServes s x.ctx (evNum ((sGet x w.a).setWidth 32)) = true) :
    eventStart r x w s = putRun s r (eventEnd x w (getEv s (evNum ((sGet x w.a).setWidth 32))).val) := by
  simp only [eventStart, evRef_here here serves]

/-- Settles O32, row by row. That the value of another module's event is asked of it is the model's reading (notes/assumptions/32.md), and
that a WAIT on one travels with opcode 0x41 is its choice (notes/assumptions/27.md). -/
theorem sequencerInstructionsComplete : Obligations.SequencerInstructionsComplete := by
  unfold Obligations.SequencerInstructionsComplete
  refine ⟨sequences_of _ (fun _ _ => rfl) ?nop, sequences_of _ (fun _ _ => rfl) ?movi, sequences_of _ (fun _ _ => rfl) ?movhi,
    sequences_of _ (fun _ _ => rfl) ?alu, sequences_of _ (fun _ _ => rfl) ?ld, sequences_of _ (fun _ _ => rfl) ?st,
    sequences_of _ (fun _ _ => rfl) ?evreadHere, sequences_of _ (fun _ _ => rfl) ?evreadFar, sequences_of _ (fun _ _ => rfl) ?br,
    sequences_of _ (fun _ _ => rfl) ?bevHere, sequences_of _ (fun _ _ => rfl) ?bevFar, sequences_of _ (fun _ _ => rfl) ?bmw,
    sequences_of _ (fun _ _ => rfl) ?loop, sequences_of _ (fun _ _ => rfl) ?jmp, sequences_of _ (fun _ _ => rfl) ?bovf,
    sequences_of _ (fun _ _ => rfl) ?ovfclr, sequences_of _ (fun _ _ => rfl) ?waitHere, sequences_of _ (fun _ _ => rfl) ?waitFar,
    ?expiry, sequences_of _ (fun _ _ => rfl) ?recHere, sequences_of _ (fun _ _ => rfl) ?recFar⟩
  case nop | movi | movhi | jmp | bovf | ovfclr => exact fun _ _ _ _ _ _ _ _ => rfl
  case alu =>
    intro r x w s _ _ _ op
    dsimp only
    rw [fld4, aluOp_eq op]
  case ld =>
    rintro r x w s - - op ⟨aligned, d, u, served⟩
    simp only [loadStart_ok aligned served, served, loadEnd, op, if_true]
  case st =>
    rintro r x w s - - - ⟨aligned, e, v, m, u, seg, served⟩
    by_cases near : entLocal u e v = true
    · obtain ⟨d, t, written⟩ := served near
      simp only [aligned, seg, near, written, ne_eq, not_true_eq_false, if_false, if_true]
    · simp only [aligned, seg, near, ne_eq, not_true_eq_false, Bool.false_eq_true, if_false]
  case evreadHere =>
    rintro r x w s - - op ⟨here, serves⟩
    simp only [eventStart_here here serves, eventEnd, op, if_true]
  case bevHere =>
    rintro r x w s - - op ⟨here, serves⟩
    simp only [eventStart_here here serves, eventEnd, op, Nat.reduceEqDiff, if_false]
  case evreadFar | bevFar => exact fun _ _ _ _ _ _ _ far => eventStart_far far
  case br =>
    intro r x w s _ _ _ cond
    dsimp only
    rw [fld3, seqCond_eq cond]
  case bmw =>
    rintro r x w s - - op ⟨aligned, d, u, served⟩
    simp only [loadStart_ok aligned served, served, loadEnd, op, fld3, Nat.reduceEqDiff, if_false]
  case loop =>
    intro r x w s _ _ _ _
    exact congrArg (fun taken => putRun s r (branched (sSet x w.d (sGet x w.d - 1)) w taken)) decide_not.symm
  case waitHere =>
    rintro r x w s - - - ⟨here, serves⟩
    simp only [evRef_here here serves]
  case waitFar =>
    intro r x w s _ _ _ far
    simp only [evRef_far far]
  case expiry =>
    intro s r x h v d run wait
    show execWaitTimeoutExpiry r s = _
    simp only [execWaitTimeoutExpiry, run, wait]
  case recHere =>
    rintro r x w s - - - ⟨stores, copies, here, serves⟩
    simp only [stores, copies, evRef_here here serves, Bool.or_self, Bool.false_eq_true, if_false]
  case recFar =>
    rintro r x w s - - - ⟨stores, copies, far⟩
    simp only [stores, copies, evRef_far far, Bool.or_self, Bool.false_eq_true, if_false]

end Sys2Proof.Machine
end

/-! PROOFS. What the sequencers carry out (spec/07 R201-R206, spec/10 R294): joins and ends, the members of a DISPATCH, an EMIT's bytes,
hints and run-ahead. -/
section
namespace Sys2Proof.Machine

/-! ### Groups (R204) -/

/-- A run in a JOIN whose groups are idle goes past it, and BOVF then sees the overflow of the work that has ended. -/
theorem runCheck_joined {s : State} {r mask : Nat} {x : Run} (wait : x.wait = .join mask) (idle : groupsIdle x mask = true) :
    runCheck (putRun s r x) r
      = putRun (putRun s r x) r { x with wait := .none, ahead := false, pc := x.pc + 1, ovfSeen := x.ovfEnded } := by
  simp only [runCheck, getRun_putRun, wait, idle, if_true]
  rfl

/-- A run in its END whose groups are idle ends. -/
theorem runCheck_ended {s : State} {r : Nat} {x : Run} (wait : x.wait = .ending) (idle : groupsIdle x 255 = true) :
    runCheck (putRun s r x) r = endRun r stOk (putRun s r x) := by
  simp only [runCheck, getRun_putRun, wait, idle, if_true]

theorem groupRoom_of_le {x : Run} {g n : Nat} (h : groupOf x g + n ≤ 4294967295) : groupRoom x g n = true := decide_eq_true h

/-! ### Members (R203) -/

/-- A delayed DISPATCH of a run that its sequencer core serves goes on. -/
theorem dispatchGo_served {s : State} {r i : Nat} {x : Run} {w : SeqW} {rc : List W32} (word : runWord s x = some w)
    (live : (getCtx s x.ctx).st = 1) (ready : unitSt s ⟨7, x.core⟩ = .ready) (on : halfOff s (x.core / 8) = false)
    (named : recOfRun s x w = some rc) :
    dispatchGo r x i s = placeFrom r { x with ahead := false } w rc (dispatchBase x w rc) (recCount rc - i) i s := by
  simp only [dispatchGo, word, live, ready, on, named, ne_eq, not_true_eq_false, Bool.false_eq_true, or_self, if_false]

/-! ### EMIT (R201) -/

/-- The COMPLETION of an EMIT with the bytes `d`. -/
theorem emitSend_room {s : State} {r : Nat} {x : Run} {w : SeqW} {d : List Byte}
    (room : replyRoom s x.q (slotBytes d.length) = true) :
    emitSend s r x w d = sendReply x.q { x.pkt with quiet := false }
      { replyTo { x.pkt with quiet := false } stOk with
        w4 := BitVec.ofNat 32 r, w6 := (sGet x w.c).setWidth 32, w7 := (sGet x w.c >>> 32).setWidth 32, payload := d }
      (putRun s r { x.next with wait := .none, buf := [] }) := by
  simp only [emitSend, room, Bool.not_true, Bool.false_eq_true, if_false]

/-- An EMIT whose bytes have all been read is sent. -/
theorem emitRead_whole {s : State} {r n : Nat} {x : Run} {w : SeqW} (fuel : n ≠ 0) (whole : (sGet x w.b).toNat ≤ x.buf.length) :
    emitRead r w n x s = emitSend s r x w x.buf := by
  obtain ⟨n, rfl⟩ := Nat.exists_eq_succ_of_ne_zero fuel
  exact if_pos whole

/-- An EMIT of bytes that this module's memory answers in one piece is sent with them. -/
theorem emitRead_near {s u t : State} {r n v m : Nat} {x : Run} {w : SeqW} {e : Range} {d : List Byte} (fuel : 2 ≤ n)
    (fresh : x.buf = []) (filled : 0 < (sGet x w.b).toNat)
    (seg : runSeg s r x .read (sGet x w.a).toNat (sGet x w.b).toNat = .seg e v m u) (near : entLocal u e v = true)
    (served : runRes r x u (entRead u x.ctx e v m) = .ok d t) (all : d.length = (sGet x w.b).toNat) :
    emitRead r w n x s = emitSend t r { x with buf := d } w d := by
  obtain ⟨n, rfl⟩ := Nat.exists_eq_add_of_le' fuel
  have piece : emitRead r w (n + 2) x s = emitRead r w (n + 1) { x with buf := d } t := by
    rw [emitRead]
    simp only [fresh, List.length_nil, Nat.not_le.mpr filled, Nat.add_zero, Nat.sub_zero, seg, near, served, List.nil_append, if_true,
      if_false]
  exact piece.trans (emitRead_whole (Nat.succ_ne_zero n) (Nat.le_of_eq all.symm))

/-! ### Run-ahead (R205) -/

/-- WAIT, JOIN and a delayed DISPATCH are the blocks that a run is followed ahead of. -/
theorem runBlocked_of {x : Run} (h : (∃ h t d, x.wait = .event h t d) ∨ (∃ m, x.wait = .join m) ∨ ∃ i, x.wait = .dispatch i) :
    runBlocked x = true := by
  rcases h with ⟨h, t, d, wait⟩ | ⟨m, wait⟩ | ⟨i, wait⟩ <;> rw [runBlocked, wait]

/-- Settles O33, row by row and command by command. That a HINT of a record offsets its members by S[D] is deduced
(notes/assumptions/32.md). -/
theorem sequencerWorkComplete : Obligations.SequencerWorkComplete := by
  unfold Obligations.SequencerWorkComplete
  refine ⟨sequences_of _ (fun _ _ => rfl) ?join, sequences_of _ (fun _ _ => rfl) ?ends, ?notified,
    sequences_of _ (fun _ _ => rfl) ?dispatch, ?room, sequences_of _ (fun _ _ => rfl) ?copy,
    sequences_of _ (fun _ _ => rfl) ?hintRecord, sequences_of _ (fun _ _ => rfl) ?hintPower, sequences_of _ (fun _ _ => rfl) ?emitEmpty,
    sequences_of _ (fun _ _ => rfl) ?emitBytes, ?ahead, ?failover, ?zeros⟩
  case join =>
    intro r x w s wait ahead _ idle
    exact (runCheck_joined (x := { x with wait := .join w.md }) rfl idle).trans (by simp only [wait, ahead])
  case ends => exact fun r x w s _ _ _ idle => runCheck_ended (x := { x with wait := .ending }) rfl idle
  case notified =>
    intro s run incarn grp ovf n noted
    show execKernelEndNotify run incarn grp ovf s = _
    simp only [execKernelEndNotify, noted]
  case dispatch =>
    rintro r x w s - - - ⟨stores, bound, rc, named, cls, inside, room⟩
    simp only [named, stores, bound, Nat.not_lt.mpr cls, dispatchBase, Nat.not_le.mpr inside, groupRoom_of_le room, Bool.not_true,
      decide_false, Bool.or_self, Bool.false_eq_true, if_false]
  case room =>
    intro s r x w i rc run wait word live ready on named
    show execDispatchQueueRoom r s = _
    simp only [execDispatchQueueRoom, run, wait, dispatchGo_served word live ready on named]
  case copy =>
    rintro r x w s - - - ⟨limits, room⟩
    have within : ¬ (!copyLimits (sGet x w.a).toNat (sGet x w.b).toNat (sGet x w.c).toNat) = true := by simp [limits]
    have roomy : ¬ (!groupRoom x w.md 1) = true := by simp [groupRoom_of_le room]
    exact (if_neg within).trans (if_neg roomy)
  case hintRecord =>
    rintro r x w s - - - ⟨md, rc, named⟩
    simp only [fld4, md, Nat.zero_mod, named, if_true]
  case hintPower =>
    intro r x w s _ _ _ md
    simp only [fld4, md, Nat.one_mod_eq_zero_iff, Nat.reduceEqDiff, if_false]
  case emitEmpty =>
    rintro r x w s - - - ⟨empty, stores, room, fresh⟩
    have whole : (sGet x w.b).toNat ≤ x.buf.length := Nat.le_trans (Nat.le_of_eq empty) (Nat.zero_le _)
    have sent := emitRead_whole (s := s) (r := r) (n := 4100) (by decide) whole
    rw [fresh] at sent
    simp only [sent, empty, stores, Nat.zero_mod, Nat.not_lt_zero, ne_eq, not_true_eq_false, or_self, Bool.false_eq_true, if_false]
    exact emitSend_room room
  case emitBytes =>
    rintro r x w s - - - ⟨words, filled, short, stores, fresh, e, v, m, u, d, t, seg, near, served, all, room⟩
    have sent := emitRead_near (n := 4100) (by decide) fresh filled seg near served all
    simp only [sent, words, stores, seg, served, Nat.not_lt.mpr short, ne_eq, not_true_eq_false, or_self, Bool.false_eq_true, if_false]
    exact emitSend_room room
  case ahead =>
    intro s r x v run blocked live ready on version
    show execRunAhead r s = _
    simp only [execRunAhead, run, runBlocked_of blocked, live, ready, on, version, Bool.not_true, Bool.false_eq_true, ne_eq,
      not_true_eq_false, or_self, if_false]
  case failover =>
    intro s core lost real ready
    show execSeqCoreFailover core lost s = _
    rw [execSeqCoreFailover, if_neg (Nat.not_le.mpr real), seqCoreFails, if_neg (not_not_intro ready)]
  case zeros => exact fun s chan pending => if_neg pending

end Sys2Proof.Machine
end

/-! PROOFS. Programs and launches (spec/07 R192-R198, R207): a command finds its program, none of its checks finds anything, and what is
left is its effect. -/
section
namespace Sys2Proof.Machine

/-- A command for a program of its context's slot is carried out on it (R196). -/
theorem withProg_ok {f : Nat → Prog → Handler} {q : QRef} {p : Pkt} {u : State} {x : Prog}
    (found : getProg u (p.w4.toNat % 2 ^ 11) = some x) (own : x.slot = (getCtx u p.ctx).slot) :
    withProg f q p u = f (p.w4.toNat % 2 ^ 11) x q p u := by
  simp only [withProg, fld_0, found, slotOfPkt, own, ne_eq, not_true_eq_false, if_false]

/-- Settles O34, command by command: none of the checks in a command's order finds anything, and what is left is its effect. -/
theorem programCommandsComplete : Obligations.ProgramCommandsComplete := by
  unfold Obligations.ProgramCommandsComplete
  refine ⟨runsOn0_of startProgLoad _ (fun _ _ => rfl) ?load, ?checked, ?patch, ?retire, ?launch, ?timeout⟩
  case load =>
    rintro h p u - ⟨digest, least, most⟩
    simp only [startProgLoad, fld_0, digest, Nat.not_lt.mpr least, Nat.not_lt.mpr most, ne_eq, not_true_eq_false, or_self, if_false]
  case checked =>
    rintro s b size v g u header digest rfl passes fits free
    simp only [loadCheck, header, digest, fld_0, passes, Nat.not_lt.mpr fits, free, Bool.not_true, Bool.false_eq_true, ne_eq,
      not_true_eq_false, if_false]
  case patch =>
    intro s h p g x v v' k
    dsimp only
    rintro rfl found own filled entries short room last unretired current patched passes fits
    refine exec_takes_eq (fun _ _ => rfl) k ((withProg_ok (p := { p with opcode := 0x61 }) found own).trans ?_)
    simp only [filled, entries, Nat.not_lt.mpr short, Nat.not_le.mpr room, last, unretired, current, patched, passes, Nat.not_lt.mpr fits,
      Option.isSome_none, Bool.false_eq_true, ne_eq, not_true_eq_false, or_self, if_false]
  case retire =>
    intro s h p g x k
    dsimp only
    rintro rfl found own unretired
    refine exec_takes_eq (fun _ _ => rfl) k ((withProg_ok (p := { p with opcode := 0x63 }) found own).trans ?_)
    simp only [unretired, Option.isSome_none, Bool.false_eq_true, if_false]
  case launch =>
    intro s h p g x num v core r u1 k
    dsimp only
    rintro short words rfl found rfl version unretired own fewest free
    have asked : fld p.w4.toNat 16 16 = p.w4.toNat / 2 ^ 16 % 2 ^ 16 := rfl
    refine exec_takes_eq (fun _ _ => rfl) k ?_
    simp only [startLaunch, fld_0, asked, Nat.not_lt.mpr short, words, found, version, unretired, slotOfPkt, own, fewest, free,
      Option.isSome_none, Bool.false_eq_true, ne_eq, not_true_eq_false, or_self, if_false]
  case timeout =>
    intro s r x run timed
    show execRunTimeout r s = _
    simp only [execRunTimeout, run, fld_0, timed, if_false]

end Sys2Proof.Machine
end

/-! PROOFS. The codeword code (spec/08 R214, R215): the syndrome turns on the error alone; a nibble's columns are points of a quadric that
no line meets three times, so the sum of two of them lies off the quadric and is no syndrome that the decoder corrects. -/
section
namespace Sys2Proof.Machine

/-! ### The field of 16 elements (R214) -/

theorem natXor_eq (a b : Nat) : Nat.xor a b = a ^^^ b := rfl

/-- The terms of a sum modulo 2 change places. -/
theorem xor_swap (a b c : Nat) : a ^^^ (b ^^^ c) = b ^^^ (a ^^^ c) := by
  rw [← Nat.xor_assoc, Nat.xor_comm a b, Nat.xor_assoc]

/-- A term that a sum modulo 2 has twice leaves it. -/
theorem xor_cancel (a b : Nat) : a ^^^ (a ^^^ b) = b := by
  rw [← Nat.xor_assoc, Nat.xor_self, Nat.zero_xor]

/-- A difference modulo 2 is 0 of equal numbers alone. -/
theorem eq_of_xor_eq_zero {a b : Nat} (h : a ^^^ b = 0) : a = b := by
  rw [← xor_cancel a b, h, Nat.xor_zero]

/-- A bit of a sum modulo 2 is the sum of the bits. -/
theorem bitAt_xor (x y i : Nat) : bitAt (x ^^^ y) i = (bitAt x i ^^ bitAt y i) := by
  have eq (z : Nat) : bitAt z i = z.testBit i := Nat.testBit_eq_decide_div_mod_eq.symm
  rw [eq, eq, eq, Nat.testBit_xor]

/-- What a bit selects adds as the bits do. -/
theorem select_xor (p q : Bool) (a : Nat) : (if (p ^^ q) = true then a else 0) = (if p = true then a else 0) ^^^ (if q = true then a else 0) := by
  cases p <;> cases q <;> simp

/-- What is selected of a sum is the sum of what is selected. -/
theorem select_of_xor (p : Bool) (a b : Nat) : (if p = true then a ^^^ b else 0) = (if p = true then a else 0) ^^^ (if p = true then b else 0) := by
  cases p <;> simp

/-- A shift to the left is linear over sums modulo 2. -/
theorem two_pow_mul_xor (n a b : Nat) : 2 ^ n * (a ^^^ b) = 2 ^ n * a ^^^ 2 ^ n * b := by
  simp only [Nat.mul_comm (2 ^ n), ← Nat.shiftLeft_eq, Nat.shiftLeft_xor_distrib]

/-- One step of a reduction modulo the field's polynomial: where bit `i` is set, `m` is added, which clears it. -/
def gred (i m p : Nat) : Nat := if bitAt p i then Nat.xor p m else p

theorem gred_eq (i m p : Nat) : gred i m p = p ^^^ (if bitAt p i = true then m else 0) := by
  unfold gred
  split <;> simp

theorem gred_xor (i m p q : Nat) : gred i m (p ^^^ q) = gred i m p ^^^ gred i m q := by
  simp only [gred_eq, bitAt_xor, select_xor]
  ac_rfl

/-- The product before its reduction. -/
def gpre (a b : Nat) : Nat :=
  ((if bitAt b 0 = true then a else 0) ^^^ (if bitAt b 1 = true then 2 * a else 0))
    ^^^ ((if bitAt b 2 = true then 4 * a else 0) ^^^ (if bitAt b 3 = true then 8 * a else 0))

theorem gmul_eq (a b : Nat) : gmul a b = gred 4 0x13 (gred 5 0x26 (gred 6 0x4C (gpre a b))) := rfl

/-- A product distributes over a sum on its left. -/
theorem gmul_xor_left (a b c : Nat) : gmul (a ^^^ b) c = gmul a c ^^^ gmul b c := by
  have two : 2 * (a ^^^ b) = 2 * a ^^^ 2 * b := two_pow_mul_xor 1 a b
  have four : 4 * (a ^^^ b) = 4 * a ^^^ 4 * b := two_pow_mul_xor 2 a b
  have eight : 8 * (a ^^^ b) = 8 * a ^^^ 8 * b := two_pow_mul_xor 3 a b
  have pre : gpre (a ^^^ b) c = gpre a c ^^^ gpre b c := by
    simp only [gpre, two, four, eight, select_of_xor]
    ac_rfl
  simp only [gmul_eq, pre, gred_xor]

/-- A product distributes over a sum on its right. -/
theorem gmul_xor_right (a b c : Nat) : gmul a (b ^^^ c) = gmul a b ^^^ gmul a c := by
  have pre : gpre a (b ^^^ c) = gpre a b ^^^ gpre a c := by
    simp only [gpre, bitAt_xor, select_xor]
    ac_rfl
  simp only [gmul_eq, pre, gred_xor]

@[simp] theorem gmul_zero_left (b : Nat) : gmul 0 b = 0 := by simpa using gmul_xor_left 0 0 b
@[simp] theorem gmul_zero_right (a : Nat) : gmul a 0 = 0 := by simpa using gmul_xor_right a 0 0

theorem xor_lt16 {a b : Nat} (ha : a < 16) (hb : b < 16) : a ^^^ b < 16 := Nat.xor_lt_two_pow (n := 4) ha hb

theorem gmul_lt : ∀ a < 16, ∀ b < 16, gmul a b < 16 := by decide +kernel
theorem gmul_one : ∀ a < 16, gmul a 1 = a := by decide +kernel
theorem gmul_comm : ∀ a < 16, ∀ b < 16, gmul a b = gmul b a := by decide +kernel
theorem gmul_assoc : ∀ a < 16, ∀ b < 16, ∀ c < 16, gmul (gmul a b) c = gmul a (gmul b c) := by decide +kernel
theorem gmul_ginv_left : ∀ a < 16, ∀ b < 16, a ≠ 0 → gmul (ginv a) (gmul a b) = b := by decide +kernel
theorem gmul_ginv_right : ∀ a < 16, ∀ b < 16, a ≠ 0 → gmul a (gmul (ginv a) b) = b := by decide +kernel
theorem ginv_lt : ∀ a < 16, ginv a < 16 := by decide +kernel
theorem eq_zero_of_gmul : ∀ a < 16, ∀ b < 16, gmul a b = 0 → a = 0 ∨ b = 0 := by decide +kernel

/-- The quadratic form of R214 vanishes at the origin alone. -/
theorem eq_zero_of_eccQ : ∀ u < 16, ∀ v < 16, eccQ u v = 0 → u = 0 ∧ v = 0 := by decide +kernel
theorem gmul_gmul_gmul_comm {a b c d : Nat} (ha : a < 16) (hb : b < 16) (hc : c < 16) (hd : d < 16) :
    gmul (gmul a b) (gmul c d) = gmul (gmul a c) (gmul b d) := by
  rw [gmul_assoc a ha b hb _ (gmul_lt c hc d hd), ← gmul_assoc b hb c hc d hd, gmul_comm b hb c hc, gmul_assoc c hc b hb d hd,
    ← gmul_assoc a ha c hc _ (gmul_lt b hb d hd)]

theorem eccQ_eq (u v : Nat) : eccQ u v = gmul u u ^^^ (gmul u v ^^^ gmul 8 (gmul v v)) := rfl

theorem eccQ_lt {u v : Nat} (hu : u < 16) (hv : v < 16) : eccQ u v < 16 := by
  have h8 := gmul_lt 8 (by decide) _ (gmul_lt v hv v hv)
  exact xor_lt16 (gmul_lt u hu u hu) (xor_lt16 (gmul_lt u hu v hv) h8)

/-- The form is quadratic: a factor comes out of it squared. -/
theorem eccQ_gmul {x u v : Nat} (hx : x < 16) (hu : u < 16) (hv : v < 16) :
    eccQ (gmul x u) (gmul x v) = gmul (gmul x x) (eccQ u v) := by
  have xx := gmul_lt x hx x hx
  have vv := gmul_lt v hv v hv
  have last : gmul 8 (gmul (gmul x x) (gmul v v)) = gmul (gmul x x) (gmul 8 (gmul v v)) := by
    rw [← gmul_assoc 8 (by decide) _ xx _ vv, gmul_comm 8 (by decide) _ xx, gmul_assoc _ xx 8 (by decide) _ vv]
  simp only [eccQ_eq, gmul_xor_right, gmul_gmul_gmul_comm hx hu hx hu, gmul_gmul_gmul_comm hx hu hx hv, gmul_gmul_gmul_comm hx hv hx hv, last]

/-- The form at a sum: what it gives at each, and the products across. -/
theorem eccQ_xor {u v u' v' : Nat} (hu : u < 16) (hv : v < 16) (hu' : u' < 16) (hv' : v' < 16) :
    eccQ (u ^^^ u') (v ^^^ v') = eccQ u v ^^^ eccQ u' v' ^^^ (gmul u v' ^^^ gmul u' v) := by
  simp only [eccQ_eq, gmul_xor_left, gmul_xor_right, gmul_comm u' hu' u hu, gmul_comm v' hv' v hv]
  simp only [Nat.xor_comm, xor_swap, Nat.xor_assoc, xor_cancel]

/-! ### Columns and the quadric -/

/-- A syndrome. -/
abbrev Syn := Nat × Nat × Nat × Nat

theorem xor4_eq (s t : Syn) : xor4 s t = (s.1 ^^^ t.1, s.2.1 ^^^ t.2.1, s.2.2.1 ^^^ t.2.2.1, s.2.2.2 ^^^ t.2.2.2) := rfl

theorem xor4_comm (s t : Syn) : xor4 s t = xor4 t s := by simp only [xor4_eq, Nat.xor_comm]
theorem xor4_assoc (s t r : Syn) : xor4 (xor4 s t) r = xor4 s (xor4 t r) := by simp only [xor4_eq, Nat.xor_assoc]
@[simp] theorem xor4_self (s : Syn) : xor4 s s = (0, 0, 0, 0) := by simp only [xor4_eq, Nat.xor_self]
@[simp] theorem xor4_zero (s : Syn) : xor4 s (0, 0, 0, 0) = s := by simp only [xor4_eq, Nat.xor_zero]
@[simp] theorem zero_xor4 (s : Syn) : xor4 (0, 0, 0, 0) s = s := by simp only [xor4_eq, Nat.zero_xor]

/-- A point of the quadric `x a + q(b, c) = 0`: that at infinity, (0, 1, 0, 0), or (1, q(u, v), u, v). -/
abbrev Point := Option (Nat × Nat)

/-- A point whose coordinates are of the field. -/
def Point.ok (p : Point) : Prop := ∀ w ∈ p, w.1 < 16 ∧ w.2 < 16

/-- What an error `e` in a nibble whose column is at a point adds to the syndrome. -/
def colAt (e : Nat) : Point → Syn
  | none => (0, e, 0, 0)
  | some (u, v) => (e, gmul e (eccQ u v), gmul e u, gmul e v)

/-- The form whose zeros are the quadric. -/
def coneForm (s : Syn) : Nat := gmul s.1 s.2.1 ^^^ eccQ s.2.2.1 s.2.2.2

/-- The components of a syndrome are of the field. -/
def synOk (s : Syn) : Prop := s.1 < 16 ∧ s.2.1 < 16 ∧ s.2.2.1 < 16 ∧ s.2.2.2 < 16

theorem synOk_colAt {e : Nat} {p : Point} (he : e < 16) (hp : p.ok) : synOk (colAt e p) := by
  cases p with
  | none => exact ⟨Nat.zero_lt_succ 15, he, Nat.zero_lt_succ 15, Nat.zero_lt_succ 15⟩
  | some w =>
    obtain ⟨hu, hv⟩ := hp w rfl
    exact ⟨he, gmul_lt e he _ (eccQ_lt hu hv), gmul_lt e he _ hu, gmul_lt e he _ hv⟩

theorem synOk_xor4 {s t : Syn} (hs : synOk s) (ht : synOk t) : synOk (xor4 s t) := by
  obtain ⟨s1, s2, s3, s4⟩ := hs
  obtain ⟨t1, t2, t3, t4⟩ := ht
  exact ⟨xor_lt16 s1 t1, xor_lt16 s2 t2, xor_lt16 s3 t3,
    xor_lt16 s4 t4⟩

/-- The form at a sum of columns of two affine points: the product of the factors and the form of R214 at the points' difference. -/
theorem coneForm_affine {e f u v u' v' : Nat} (he : e < 16) (hf : f < 16) (hu : u < 16) (hv : v < 16) (hu' : u' < 16) (hv' : v' < 16) :
    coneForm (xor4 (colAt e (some (u, v))) (colAt f (some (u', v')))) = gmul (gmul e f) (eccQ (u ^^^ u') (v ^^^ v')) := by
  have q := eccQ_lt hu hv
  have q' := eccQ_lt hu' hv'
  have ef : gmul e (gmul f (eccQ u' v')) = gmul (gmul e f) (eccQ u' v') := (gmul_assoc e he f hf _ q').symm
  have fe : gmul f (gmul e (eccQ u v)) = gmul (gmul e f) (eccQ u v) := by
    rw [← gmul_assoc f hf e he _ q, gmul_comm f hf e he]
  have ee : gmul e (gmul e (eccQ u v)) = gmul (gmul e e) (eccQ u v) := (gmul_assoc e he e he _ q).symm
  have ff : gmul f (gmul f (eccQ u' v')) = gmul (gmul f f) (eccQ u' v') := (gmul_assoc f hf f hf _ q').symm
  simp only [coneForm, colAt, xor4_eq]
  rw [eccQ_xor (gmul_lt e he u hu) (gmul_lt e he v hv) (gmul_lt f hf u' hu') (gmul_lt f hf v' hv'), eccQ_gmul he hu hv, eccQ_gmul hf hu' hv',
    gmul_gmul_gmul_comm he hu hf hv', gmul_gmul_gmul_comm hf hu' he hv, gmul_comm f hf e he, eccQ_xor hu hv hu' hv']
  simp only [gmul_xor_left, gmul_xor_right, ef, fe, ee, ff]
  simp only [Nat.xor_comm, xor_swap, Nat.xor_assoc, xor_cancel, Nat.xor_self, Nat.zero_xor]

/-- The form at a sum with the column at infinity: the product of the factors. -/
theorem coneForm_infinity {e f u v : Nat} (he : e < 16) (hu : u < 16) (hv : v < 16) :
    coneForm (xor4 (colAt e (some (u, v))) (colAt f none)) = gmul e f := by
  have ee : gmul e (gmul e (eccQ u v)) = gmul (gmul e e) (eccQ u v) := (gmul_assoc e he e he _ (eccQ_lt hu hv)).symm
  simp only [coneForm, colAt, xor4_eq, Nat.xor_zero, gmul_xor_right, ee, eccQ_gmul he hu hv]
  simp only [Nat.xor_comm, xor_swap, Nat.xor_self, Nat.zero_xor]

theorem gmul_ne_zero {a b : Nat} (ha : a < 16) (hb : b < 16) (a0 : a ≠ 0) (b0 : b ≠ 0) : gmul a b ≠ 0 := by
  intro h
  rcases eq_zero_of_gmul a ha b hb h with h | h
  · exact a0 h
  · exact b0 h

/-- No line meets the quadric in three of its points: a sum of two columns at different points lies off it. -/
theorem coneForm_two {e f : Nat} {p q : Point} (he : e < 16) (hf : f < 16) (e0 : e ≠ 0) (f0 : f ≠ 0) (hp : p.ok) (hq : q.ok) (ne : p ≠ q) :
    coneForm (xor4 (colAt e p) (colAt f q)) ≠ 0 := by
  match p, q with
  | none, none => exact absurd rfl ne
  | some (u, v), none =>
    obtain ⟨hu, hv⟩ := hp _ rfl
    rw [coneForm_infinity he hu hv]
    exact gmul_ne_zero he hf e0 f0
  | none, some (u, v) =>
    obtain ⟨hu, hv⟩ := hq _ rfl
    rw [xor4_comm, coneForm_infinity hf hu hv]
    exact gmul_ne_zero hf he f0 e0
  | some (u, v), some (u', v') =>
    obtain ⟨hu, hv⟩ := hp _ rfl
    obtain ⟨hu', hv'⟩ := hq _ rfl
    have du : u ^^^ u' < 16 := xor_lt16 hu hu'
    have dv : v ^^^ v' < 16 := xor_lt16 hv hv'
    rw [coneForm_affine he hf hu hv hu' hv']
    refine gmul_ne_zero (gmul_lt e he f hf) (eccQ_lt du dv) (gmul_ne_zero he hf e0 f0) ?_
    intro h
    obtain ⟨su, sv⟩ := eq_zero_of_eccQ _ du _ dv h
    exact ne (by rw [eq_of_xor_eq_zero su, eq_of_xor_eq_zero sv])

/-! ### The decoder by syndrome (R215) -/

/-- A syndrome off the quadric is not corrected. -/
theorem eccDecode_off {d k : Nat} (ok : synOk (eccSyn d k)) (off : coneForm (eccSyn d k) ≠ 0) : eccDecode d k = .uncorrectable := by
  unfold eccDecode
  generalize eccSyn d k = s at ok off
  obtain ⟨x, a, b, c⟩ := s
  obtain ⟨hx, ha, hb, hc⟩ := ok
  simp only at hx ha hb hc
  have notZero : ¬ ((x, a, b, c) : Syn) = (0, 0, 0, 0) := by
    rintro ⟨⟩
    exact off (by decide)
  have notCheck : ¬ (x = 0 ∧ b = 0 ∧ c = 0) := by
    rintro ⟨rfl, rfl, rfl⟩
    exact off ((congrArg (· ^^^ eccQ 0 0) (gmul_zero_left a)).trans (by decide))
  simp only [notZero, notCheck, if_false]
  split
  · rfl
  next x0 =>
    have scaled : gmul (ginv x) a ≠ eccQ (gmul (ginv x) b) (gmul (ginv x) c) := by
      intro h
      have g := ginv_lt x hx
      have qq := eccQ_lt (gmul_lt _ g b hb) (gmul_lt _ g c hc)
      refine off ?_
      have back (y : Nat) (hy : y < 16) : gmul x (gmul (ginv x) y) = y := gmul_ginv_right x hx y hy x0
      rw [coneForm, ← back a ha, ← back b hb, ← back c hc, h, eccQ_gmul hx (gmul_lt _ g b hb) (gmul_lt _ g c hc), ← gmul_assoc x hx x hx _ qq,
        Nat.xor_self]
    have notPoint : ¬ ((gmul (ginv x) a = 0 ∧ gmul (ginv x) b = 0 ∧ gmul (ginv x) c = 0)
        ∨ (gmul (ginv x) a = 1 ∧ gmul (ginv x) b = 1 ∧ gmul (ginv x) c = 0)
        ∨ (gmul (ginv x) a = 8 ∧ gmul (ginv x) b = 0 ∧ gmul (ginv x) c = 1)) := by
      rintro (⟨h1, h2, h3⟩ | ⟨h1, h2, h3⟩ | ⟨h1, h2, h3⟩) <;> exact scaled (by rw [h1, h2, h3]; decide)
    rw [if_neg notPoint, if_neg (fun h => scaled h.2)]

/-- The points at which the columns of the four check nibbles lie, as the decoder sees them. -/
def checkPoint : Nat → Point
  | 0 => some (0, 0)
  | 1 => none
  | 2 => some (1, 0)
  | _ => some (0, 1)

/-- The point of a data nibble's column. -/
def dataPoint (i : Nat) : Point := some (i % 16, 2 + i / 16)

theorem eccCol_eq (x i : Nat) : eccCol x i = colAt x (dataPoint i) := rfl

/-- A factor not 0 of an affine point's column is divided out. -/
theorem eccDecode_affine {d k e u v : Nat} (he : e < 16) (e0 : e ≠ 0) (hu : u < 16) (hv : v < 16) (syn : eccSyn d k = colAt e (some (u, v))) :
    eccDecode d k = if (eccQ u v = 0 ∧ u = 0 ∧ v = 0) ∨ (eccQ u v = 1 ∧ u = 1 ∧ v = 0) ∨ (eccQ u v = 8 ∧ u = 0 ∧ v = 1) then .check
      else if v = 2 ∨ v = 3 then .data (d ^^^ e * 2 ^ (4 * (16 * (v - 2) + u))) else .uncorrectable := by
  have notZero : ¬ (colAt e (some (u, v))) = (0, 0, 0, 0) := fun h => e0 (congrArg Prod.fst h)
  have back (y : Nat) (hy : y < 16) : gmul (ginv e) (gmul e y) = y := gmul_ginv_left e he y hy e0
  simp only [eccDecode, syn, notZero, if_false]
  simp only [colAt, e0, false_and, if_false, back _ (eccQ_lt hu hv), back u hu, back v hv, and_true]
  rfl

/-- An error in one check nibble is found there. -/
theorem eccDecode_check {d k e i : Nat} (he : e < 16) (e0 : e ≠ 0) (hi : i < 4) (syn : eccSyn d k = colAt e (checkPoint i)) :
    eccDecode d k = .check := by
  match i, hi with
  | 0, _ => rw [eccDecode_affine he e0 (by decide) (by decide) syn]; rfl
  | 1, _ =>
    have notZero : ¬ colAt e (checkPoint 1) = (0, 0, 0, 0) := fun h => e0 (congrArg (fun (s : Syn) => s.2.1) h)
    simp only [eccDecode, syn, notZero, if_false]
    simp [checkPoint, colAt]
  | 2, _ => rw [eccDecode_affine he e0 (by decide) (by decide) syn]; rfl
  | 3, _ => rw [eccDecode_affine he e0 (by decide) (by decide) syn]; rfl

/-- An error in one data nibble is taken off it. -/
theorem eccDecode_data {d k e i : Nat} (he : e < 16) (e0 : e ≠ 0) (hi : i < 32) (syn : eccSyn d k = colAt e (dataPoint i)) :
    eccDecode d k = .data (d ^^^ e * 2 ^ (4 * i)) := by
  have place : 16 * (2 + i / 16 - 2) + i % 16 = i := by omega
  rw [eccDecode_affine he e0 (Nat.mod_lt _ (by decide)) (by omega) syn, place, if_neg (by omega), if_pos (by omega)]

/-! ### The syndrome of an error (R215) -/

theorem nibAt_lt (d i : Nat) : nibAt d i < 16 := Nat.mod_lt _ (by decide)

theorem nibAt_xor (a b i : Nat) : nibAt (a ^^^ b) i = nibAt a i ^^^ nibAt b i := by
  simp only [nibAt, fld, ← Nat.shiftRight_eq_div_pow, Nat.shiftRight_xor_distrib, Nat.xor_mod_two_pow]

/-- A nibble at place `i` ends below place `j`. -/
theorem nibble_lt {e i j : Nat} (he : e < 16) (lt : i < j) : e * 2 ^ (4 * i) < 2 ^ (4 * j) :=
  calc e * 2 ^ (4 * i) < 2 ^ 4 * 2 ^ (4 * i) := Nat.mul_lt_mul_of_pos_right he (Nat.two_pow_pos _)
    _ = 2 ^ (4 + 4 * i) := (Nat.pow_add ..).symm
    _ ≤ 2 ^ (4 * j) := Nat.pow_le_pow_right (by decide) (by omega)

/-- A number with one nibble not 0, read nibble by nibble. -/
theorem nibAt_single {e : Nat} (he : e < 16) (i j : Nat) : nibAt (e * 2 ^ (4 * i)) j = if j = i then e else 0 := by
  unfold nibAt fld
  rcases Nat.lt_trichotomy j i with lt | rfl | gt
  · have split : 2 ^ (4 * i) = 2 ^ (4 * (i - j - 1)) * 2 ^ 4 * 2 ^ (4 * j) := by
      rw [← Nat.pow_add, ← Nat.pow_add]
      congr 1
      omega
    rw [split, ← Nat.mul_assoc, Nat.mul_div_cancel _ (Nat.two_pow_pos _), ← Nat.mul_assoc, Nat.mul_mod_left, if_neg (by omega)]
  · rw [Nat.mul_div_cancel _ (Nat.two_pow_pos _), if_pos rfl]
    exact Nat.mod_eq_of_lt he
  · rw [Nat.div_eq_of_lt (nibble_lt he gt), if_neg (by omega), Nat.zero_mod]

/-- Errors in two nibbles as a sum modulo 2. -/
theorem two_nibbles {e i j : Nat} (f : Nat) (he : e < 16) (lt : i < j) : e * 2 ^ (4 * i) + f * 2 ^ (4 * j) = e * 2 ^ (4 * i) ^^^ f * 2 ^ (4 * j) := by
  have below := nibble_lt he lt
  refine Nat.eq_of_testBit_eq (fun k => ?_)
  rw [Nat.add_comm, Nat.mul_comm f, Nat.testBit_two_pow_mul_add f below, Nat.testBit_xor, Nat.testBit_two_pow_mul]
  by_cases kj : k < 4 * j
  · rw [if_pos kj, decide_eq_false (by omega), Bool.false_and, Bool.xor_false]
  · have high : (e * 2 ^ (4 * i)).testBit k = false :=
      Nat.testBit_lt_two_pow (Nat.lt_of_lt_of_le below (Nat.pow_le_pow_right (by decide) (by omega)))
    rw [if_neg kj, decide_eq_true (by omega), Bool.true_and, high, Bool.false_xor]

/-- The columns `f i` of a list of nibbles, summed from `a` on. -/
def sumFrom (f : Nat → Syn) (a : Syn) (l : List Nat) : Syn := l.foldl (fun acc i => xor4 acc (f i)) a

/-- What is linear goes through a sum. -/
theorem map_sumFrom {T : Syn → Syn} (lin : ∀ s t, T (xor4 s t) = xor4 (T s) (T t)) (f : Nat → Syn) (a : Syn) (l : List Nat) :
    T (sumFrom f a l) = sumFrom (fun i => T (f i)) (T a) l := by
  induction l generalizing a with
  | nil => rfl
  | cons i l ih => exact (ih _).trans (by rw [lin]; rfl)

/-- A sum of sums. -/
theorem sumFrom_xor4 (f g : Nat → Syn) (a b : Syn) (l : List Nat) :
    sumFrom (fun i => xor4 (f i) (g i)) (xor4 a b) l = xor4 (sumFrom f a l) (sumFrom g b l) := by
  induction l generalizing a b with
  | nil => rfl
  | cons i l ih =>
    have swap : xor4 (xor4 a b) (xor4 (f i) (g i)) = xor4 (xor4 a (f i)) (xor4 b (g i)) := by
      rw [xor4_assoc, ← xor4_assoc b, xor4_comm b, xor4_assoc (f i), ← xor4_assoc]
    exact (congrArg (sumFrom _ · l) swap).trans (ih _ _)

/-- Sums of the same columns. -/
theorem sumFrom_congr {f g : Nat → Syn} {l : List Nat} (same : ∀ i ∈ l, f i = g i) (a : Syn) : sumFrom f a l = sumFrom g a l := by
  induction l generalizing a with
  | nil => rfl
  | cons i l ih =>
    have step (h : Nat → Syn) : sumFrom h a (i :: l) = sumFrom h (xor4 a (h i)) l := rfl
    rw [step, step, same i (by simp), ih (fun j hj => same j (by simp [hj]))]

/-- A sum of columns that are all 0. -/
theorem sumFrom_zero {f : Nat → Syn} {l : List Nat} (zero : ∀ j ∈ l, f j = (0, 0, 0, 0)) (a : Syn) : sumFrom f a l = a := by
  induction l generalizing a with
  | nil => rfl
  | cons j l ih =>
    have step : sumFrom f a (j :: l) = sumFrom f (xor4 a (f j)) l := rfl
    rw [step, zero j (by simp), xor4_zero, ih (fun k hk => zero k (by simp [hk]))]

/-- A sum of which one column alone is not 0. -/
theorem sumFrom_single {f : Nat → Syn} {l : List Nat} {i : Nat} (once : l.Nodup) (mem : i ∈ l)
    (zero : ∀ j ∈ l, j ≠ i → f j = (0, 0, 0, 0)) (a : Syn) : sumFrom f a l = xor4 a (f i) := by
  induction l generalizing a with
  | nil => cases mem
  | cons j l ih =>
    have step : sumFrom f a (j :: l) = sumFrom f (xor4 a (f j)) l := rfl
    obtain ⟨notIn, once⟩ := List.nodup_cons.mp once
    rw [step]
    by_cases ij : j = i
    · subst ij
      exact sumFrom_zero (fun k hk => zero k (by simp [hk]) (fun e => notIn (e ▸ hk))) _
    · have rest : i ∈ l := (List.mem_cons.mp mem).resolve_left (fun e => ij e.symm)
      rw [zero j (by simp) ij, xor4_zero, ih once rest (fun k hk => zero k (by simp [hk]))]

theorem dataSyn_eq (d : Nat) : dataSyn d = sumFrom (fun i => colAt (nibAt d i) (dataPoint i)) (0, 0, 0, 0) (List.range 32) := rfl

theorem colAt_xor (x y : Nat) (p : Point) : colAt (x ^^^ y) p = xor4 (colAt x p) (colAt y p) := by
  cases p with
  | none => simp only [colAt, xor4_eq, Nat.xor_self]
  | some w => simp only [colAt, xor4_eq, gmul_xor_left]

@[simp] theorem colAt_zero (p : Point) : colAt 0 p = (0, 0, 0, 0) := by
  cases p with
  | none => rfl
  | some w => simp only [colAt, gmul_zero_left]

/-- The data part of the syndrome is linear. -/
theorem dataSyn_xor (a b : Nat) : dataSyn (a ^^^ b) = xor4 (dataSyn a) (dataSyn b) := by
  simp only [dataSyn_eq, nibAt_xor, colAt_xor]
  exact sumFrom_xor4 _ _ (0, 0, 0, 0) (0, 0, 0, 0) _

theorem dataSyn_single {e i : Nat} (he : e < 16) (hi : i < 32) : dataSyn (e * 2 ^ (4 * i)) = colAt e (dataPoint i) := by
  rw [dataSyn_eq, sumFrom_single List.nodup_range (List.mem_range.mpr hi)]
  · rw [nibAt_single he, if_pos rfl, zero_xor4]
  · intro j _ ne
    rw [nibAt_single he, if_neg ne, colAt_zero]

/-- From the stored check nibbles to what they add to a syndrome. -/
def toSyn (c : Syn) : Syn := (c.1 ^^^ (c.2.2.1 ^^^ c.2.2.2), c.2.1 ^^^ (c.2.2.1 ^^^ gmul 8 c.2.2.2), c.2.2.1, c.2.2.2)

theorem toSyn_xor (s t : Syn) : toSyn (xor4 s t) = xor4 (toSyn s) (toSyn t) := by
  simp only [toSyn, xor4_eq, gmul_xor_right, Prod.mk.injEq, and_true]
  constructor <;> ac_rfl

/-- The check part of a syndrome. -/
def checkSyn (k : Nat) : Syn := toSyn (nibAt k 0, nibAt k 1, nibAt k 2, nibAt k 3)

theorem eccSyn_eq (d k : Nat) : eccSyn d k = xor4 (checkSyn (k ^^^ 0xFFFF)) (dataSyn d) := rfl

theorem checkSyn_xor (a b : Nat) : checkSyn (a ^^^ b) = xor4 (checkSyn a) (checkSyn b) := by
  rw [checkSyn, checkSyn, checkSyn, ← toSyn_xor]
  simp only [nibAt_xor, xor4_eq]

theorem checkSyn_single {e k : Nat} (he : e < 16) (hk : k < 4) : checkSyn (e * 2 ^ (4 * k)) = colAt e (checkPoint k) := by
  have q00 : eccQ 0 0 = 0 := by decide
  have q10 : eccQ 1 0 = 1 := by decide
  have q01 : eccQ 0 1 = 8 := by decide
  simp only [checkSyn, nibAt_single he]
  match k, hk with
  | 0, _ => simp [toSyn, checkPoint, colAt, q00]
  | 1, _ => simp [toSyn, checkPoint, colAt]
  | 2, _ => simp [toSyn, checkPoint, colAt, q10, gmul_one e he]
  | 3, _ => simp [toSyn, checkPoint, colAt, q01, gmul_one e he, gmul_comm 8 (by decide) e he]

/-- What a data nibble `x` at place `i` adds to the stored check nibbles. -/
def encCol (x i : Nat) : Syn :=
  (gmul x (1 ^^^ (i % 16 ^^^ (2 + i / 16))), gmul x (eccQ (i % 16) (2 + i / 16) ^^^ (i % 16 ^^^ gmul 8 (2 + i / 16))), gmul x (i % 16),
    gmul x (2 + i / 16))

/-- The check nibbles before they are inverted. -/
def encSum (d : Nat) : Syn := sumFrom (fun i => encCol (nibAt d i) i) (0, 0, 0, 0) (List.range 32)

/-- Four check nibbles in a number. -/
def packNibs (c : Syn) : Nat := c.1 + c.2.1 * 2 ^ 4 + c.2.2.1 * 2 ^ 8 + c.2.2.2 * 2 ^ 12

theorem eccEncode_eq (d : Nat) : eccEncode d = packNibs (encSum d) ^^^ 0xFFFF := rfl

theorem checkSyn_packNibs {c : Syn} (ok : synOk c) : checkSyn (packNibs c) = toSyn c := by
  obtain ⟨c0, c1, c2, c3⟩ := c
  obtain ⟨h0, h1, h2, h3⟩ := ok
  simp only at h0 h1 h2 h3
  have n0 : nibAt (packNibs (c0, c1, c2, c3)) 0 = c0 := by simp only [nibAt, fld, packNibs]; omega
  have n1 : nibAt (packNibs (c0, c1, c2, c3)) 1 = c1 := by simp only [nibAt, fld, packNibs]; omega
  have n2 : nibAt (packNibs (c0, c1, c2, c3)) 2 = c2 := by simp only [nibAt, fld, packNibs]; omega
  have n3 : nibAt (packNibs (c0, c1, c2, c3)) 3 = c3 := by simp only [nibAt, fld, packNibs]; omega
  rw [checkSyn, n0, n1, n2, n3]

theorem synOk_encCol {x i : Nat} (hx : x < 16) (hi : i < 32) : synOk (encCol x i) := by
  have hu : i % 16 < 16 := Nat.mod_lt _ (by decide)
  have hv : 2 + i / 16 < 16 := by omega
  exact ⟨gmul_lt x hx _ (xor_lt16 (by decide) (xor_lt16 hu hv)),
    gmul_lt x hx _ (xor_lt16 (eccQ_lt hu hv) (xor_lt16 hu (gmul_lt 8 (by decide) _ hv))), gmul_lt x hx _ hu, gmul_lt x hx _ hv⟩

theorem synOk_sumFrom {f : Nat → Syn} {a : Syn} {l : List Nat} (each : ∀ i ∈ l, synOk (f i)) (ha : synOk a) : synOk (sumFrom f a l) := by
  induction l generalizing a with
  | nil => exact ha
  | cons i l ih => exact ih (fun j hj => each j (by simp [hj])) (synOk_xor4 ha (each i (by simp)))

theorem synOk_encSum (d : Nat) : synOk (encSum d) :=
  synOk_sumFrom (fun i hi => synOk_encCol (nibAt_lt d i) (List.mem_range.mp hi))
    ⟨Nat.zero_lt_succ 15, Nat.zero_lt_succ 15, Nat.zero_lt_succ 15, Nat.zero_lt_succ 15⟩

/-- A data nibble's part of the stored check nibbles is its part of the syndrome. -/
theorem toSyn_encCol {x i : Nat} (hx : x < 16) (hi : i < 32) : toSyn (encCol x i) = colAt x (dataPoint i) := by
  have hv : 2 + i / 16 < 16 := by omega
  have eight : gmul 8 (gmul x (2 + i / 16)) = gmul x (gmul 8 (2 + i / 16)) := by
    rw [← gmul_assoc 8 (by decide) x hx _ hv, gmul_comm 8 (by decide) x hx, gmul_assoc x hx 8 (by decide) _ hv]
  simp only [toSyn, encCol, dataPoint, colAt, gmul_xor_right, gmul_one x hx, eight, Prod.mk.injEq, and_true]
  simp only [Nat.xor_comm, xor_swap, xor_cancel, Nat.xor_self, Nat.zero_xor, Nat.xor_zero, and_self]

/-- The check nibbles that are stored stand for the data part of the syndrome. -/
theorem toSyn_encSum (d : Nat) : toSyn (encSum d) = dataSyn d := by
  rw [encSum, map_sumFrom toSyn_xor, dataSyn_eq]
  exact sumFrom_congr (fun i hi => toSyn_encCol (nibAt_lt d i) (List.mem_range.mp hi)) _

/-- The syndrome turns on the error alone: `a` in the data, `b` in the check bits. -/
theorem eccSyn_error (d a b : Nat) : eccSyn (d ^^^ a) (eccEncode d ^^^ b) = xor4 (checkSyn b) (dataSyn a) := by
  have stored : eccEncode d ^^^ b ^^^ 0xFFFF = packNibs (encSum d) ^^^ b := by
    rw [eccEncode_eq, Nat.xor_assoc, Nat.xor_assoc, Nat.xor_comm b, xor_cancel]
  rw [eccSyn_eq, stored, checkSyn_xor, checkSyn_packNibs (synOk_encSum d), toSyn_encSum, dataSyn_xor]
  rw [xor4_comm (dataSyn d), xor4_assoc, ← xor4_assoc (dataSyn d), xor4_self, zero_xor4]

theorem point_ok_of_lt {u v : Nat} (hu : u < 16) (hv : v < 16) : Point.ok (some (u, v)) := by
  rintro w ⟨⟩
  exact ⟨hu, hv⟩

theorem dataPoint_ok {i : Nat} (hi : i < 32) : (dataPoint i).ok := point_ok_of_lt (Nat.mod_lt _ (by decide)) (by omega)

theorem checkPoint_ok : ∀ k, (checkPoint k).ok
  | 0 => point_ok_of_lt (by decide) (by decide)
  | 1 => nofun
  | 2 => point_ok_of_lt (by decide) (by decide)
  | _ + 3 => point_ok_of_lt (by decide) (by decide)

theorem dataPoint_ne {i j : Nat} (ne : i ≠ j) : dataPoint i ≠ dataPoint j := by
  intro h
  obtain ⟨low, high⟩ := Prod.mk.inj (Option.some.inj h)
  omega

theorem checkPoint_ne : ∀ j < 4, ∀ i < j, checkPoint i ≠ checkPoint j := by decide

/-- Data nibbles have rows 2 and 3 of the plane, check nibbles rows 0 and 1 and the point at infinity. -/
theorem dataPoint_ne_checkPoint (i k : Nat) : dataPoint i ≠ checkPoint k := by
  intro h
  have row : ∀ w ∈ checkPoint k, w.2 < 2 := by
    match k with
    | 0 | 2 | _ + 3 => rintro _ ⟨⟩; decide
    | 1 => nofun
  exact absurd (row _ h.symm) (by omega)

/-- Errors in two nibbles, whose columns lie at different points, are not corrected. -/
theorem eccDecode_two {d k e f : Nat} {p q : Point} (he : e < 16) (hf : f < 16) (e0 : e ≠ 0) (f0 : f ≠ 0) (hp : p.ok) (hq : q.ok) (ne : p ≠ q)
    (syn : eccSyn d k = xor4 (colAt e p) (colAt f q)) : eccDecode d k = .uncorrectable := by
  refine eccDecode_off ?_ ?_
  · rw [syn]
    exact synOk_xor4 (synOk_colAt he hp) (synOk_colAt hf hq)
  · rw [syn]
    exact coneForm_two he hf e0 f0 hp hq ne

theorem checkSyn_zero : checkSyn 0 = (0, 0, 0, 0) := by decide
theorem dataSyn_zero : dataSyn 0 = (0, 0, 0, 0) := by decide

/-- The syndrome of an error in the data alone. -/
theorem eccSyn_data (d a : Nat) : eccSyn (d ^^^ a) (eccEncode d) = dataSyn a := by
  have h := eccSyn_error d a 0
  rwa [Nat.xor_zero, checkSyn_zero, zero_xor4] at h

/-- The syndrome of an error in the check bits alone. -/
theorem eccSyn_check (d b : Nat) : eccSyn d (eccEncode d ^^^ b) = checkSyn b := by
  have h := eccSyn_error d 0 b
  rwa [Nat.xor_zero, dataSyn_zero, xor4_zero] at h

/-- Settles O19: the syndrome is the sum of the columns of the nibbles in error, which lie at different points of the quadric. -/
theorem codewordErrors : Obligations.CodewordErrors := by
  unfold Obligations.CodewordErrors
  intro d _
  simp only [natXor_eq]
  refine ⟨?clean, ?check, ?data, ?two, ?mixed⟩
  case clean =>
    have syn : eccSyn d (eccEncode d) = (0, 0, 0, 0) := by
      have h := eccSyn_check d 0
      rwa [Nat.xor_zero, checkSyn_zero] at h
    simp only [eccDecode, syn, if_true]
  case check =>
    intro i e hi e0 he
    refine eccDecode_check he (Nat.ne_of_gt e0) hi ?_
    rw [eccSyn_check, checkSyn_single he hi]
  case data =>
    intro i e hi e0 he
    rw [eccDecode_data he (Nat.ne_of_gt e0) hi (by rw [eccSyn_data, dataSyn_single he hi]), Nat.xor_assoc, Nat.xor_self, Nat.xor_zero]
  case two =>
    intro i j e f ij e0 he f0 hf
    rw [two_nibbles f he ij]
    constructor
    · intro hj
      refine eccDecode_two he hf (Nat.ne_of_gt e0) (Nat.ne_of_gt f0) (checkPoint_ok i) (checkPoint_ok j) (checkPoint_ne j hj i ij) ?_
      rw [eccSyn_check, checkSyn_xor, checkSyn_single he (Nat.lt_trans ij hj), checkSyn_single hf hj]
    · intro hj
      refine eccDecode_two he hf (Nat.ne_of_gt e0) (Nat.ne_of_gt f0) (dataPoint_ok (Nat.lt_trans ij hj)) (dataPoint_ok hj)
        (dataPoint_ne (Nat.ne_of_lt ij)) ?_
      rw [eccSyn_data, dataSyn_xor, dataSyn_single he (Nat.lt_trans ij hj), dataSyn_single hf hj]
  case mixed =>
    intro i k e g hi hk e0 he g0 hg
    refine eccDecode_two hg he (Nat.ne_of_gt g0) (Nat.ne_of_gt e0) (checkPoint_ok k) (dataPoint_ok hi) (dataPoint_ne_checkPoint i k).symm ?_
    rw [eccSyn_error, checkSyn_single hg hk, dataSyn_single he hi]

end Sys2Proof.Machine
end

/-! PROOFS. Bytes written at memory (spec/08 R216, R219): what a served write leaves, byte by byte. -/
section
namespace Sys2Proof.Machine

/-- A served write that need not read a codeword first stores its bytes, and does nothing else. -/
theorem memWrite_ok {s t : State} {kind : ReqKind} {ctx pid edom a : Nat} {l d : List Byte} (whole : partWords s a l.length = [])
    (served : memWrite s kind ctx pid edom a l = .ok d t) : t = putBytes s a l := by
  unfold memWrite at served
  split at served
  · cases served
  · cases served
  · rw [writeServe, whole, meetAll] at served
    cases served
    rfl

/-- A byte after a write of bytes: the one written there, or the one that was there. -/
theorem tabGet_putBytes (s : State) (a : Nat) (l : List Byte) (b : Nat) :
    tabGet zeroByte (putBytes s a l).mem.bytes b
      = if h : a ≤ b ∧ b < a + l.length then l[b - a]'(by omega) else tabGet zeroByte s.mem.bytes b :=
  tabGet_tabSetAll_keyed s.mem.bytes a l b

/-- Bytes written are read back. -/
theorem rawRead_putBytes (s : State) (a : Nat) (l : List Byte) : rawRead (putBytes s a l) a l.length = l := by
  refine List.ext_getElem (by simp [rawRead]) (fun i _ hi => ?_)
  have within : a ≤ a + i ∧ a + i < a + l.length := by omega
  simp only [rawRead, List.getElem_map, List.getElem_range, tabGet_putBytes, within, and_self, dite_true, Nat.add_sub_cancel_left]

/-- Settles O8: the write stores its bytes whole. -/
theorem memoryWriteThenRead : Obligations.MemoryWriteThenRead := by
  unfold Obligations.MemoryWriteThenRead
  intro s kind ctx pid edom a l t d whole served
  obtain rfl := memWrite_ok whole served
  refine ⟨rawRead_putBytes s a l, fun b outside => ?_, rfl, rfl, putBytes_wf a l⟩
  rw [tabGet_putBytes, dif_neg (by omega)]

end Sys2Proof.Machine
end

/-! PROOFS. RANGE_MAP keeps entries apart (spec/08 R226): what is cut of an entry lies within it, and a new entry meets nothing that is
left. -/
section
namespace Sys2Proof.Machine

/-- Two entries do not overlap. -/
def Apart (e f : Range) : Prop := rangeEnd e ≤ f.va ∨ rangeEnd f ≤ e.va

theorem Apart.symm {e f : Range} (h : Apart e f) : Apart f e := Or.symm h

theorem meets_eq_false {e f : Range} : meets f e.va (rangeEnd e) = false ↔ Apart e f := by
  simp only [meets, Bool.and_eq_false_iff, decide_eq_false_iff_not, Nat.not_lt, Apart]

theorem overlapping_eq_false (l : List Range) : overlapping l = false ↔ l.Pairwise Apart := by
  induction l with
  | nil => simp [overlapping]
  | cons e l ih => simp only [overlapping, Bool.or_eq_false_iff, List.any_eq_false, Bool.not_eq_true, meets_eq_false, ih, List.pairwise_cons]

/-- Entry `g` lies within entry `e`. -/
def Inside (g e : Range) : Prop := e.va ≤ g.va ∧ rangeEnd g ≤ rangeEnd e

theorem Inside.apart {g e f : Range} (inside : Inside g e) (h : Apart e f) : Apart g f := by
  obtain ⟨low, high⟩ := inside
  exact h.imp (Nat.le_trans high) (fun x => Nat.le_trans x low)

/-- A piece of an entry lies between its bounds, and is REVOKED as the entry is. -/
theorem mem_piece {g e : Range} {lo hi : Nat} (h : g ∈ piece e lo hi) : g.va = lo ∧ rangeEnd g ≤ hi ∧ g.revoked = e.revoked := by
  unfold piece at h
  split at h
  · cases h
  next lt =>
    obtain rfl := List.mem_singleton.mp h
    refine ⟨rfl, ?_, rfl⟩
    have := Nat.div_mul_le_self (hi - lo) 4096
    simp only [rangeEnd]
    omega

/-- What is left of a table's entry `f` when what is REVOKED under `e` is trimmed. -/
def trimmed (e f : Range) : List Range :=
  if f.revoked && meets f e.va (rangeEnd e) then before f e.va ++ after f (rangeEnd e) else [f]

theorem cutAt_eq (e : Range) (l : List Range) :
    cutAt (fun r => r.revoked) (fun _ => []) e.va (rangeEnd e) l = l.flatMap (trimmed e) := by
  unfold cutAt
  congr 1
  funext f
  have nothing : (within f e.va (rangeEnd e)).flatMap (fun _ => ([] : List Range)) = [] := List.flatMap_eq_nil_iff.mpr (fun _ _ => rfl)
  rw [trimmed, nothing, List.append_nil]

theorem mem_before {g f : Range} {lo : Nat} (h : g ∈ before f lo) : Inside g f ∧ rangeEnd g ≤ lo ∧ g.revoked = f.revoked := by
  obtain ⟨start, stop, rev⟩ := mem_piece h
  exact ⟨⟨Nat.le_of_eq start.symm, by omega⟩, by omega, rev⟩

theorem mem_after {g f : Range} {hi : Nat} (h : g ∈ after f hi) : Inside g f ∧ hi ≤ g.va ∧ g.revoked = f.revoked := by
  obtain ⟨start, stop, rev⟩ := mem_piece h
  exact ⟨⟨by omega, stop⟩, by omega, rev⟩

theorem piece_pairwise (e : Range) (lo hi : Nat) : (piece e lo hi).Pairwise Apart := by
  unfold piece
  split <;> simp

/-- What is left of an entry lies within it, is REVOKED as it is, and does not overlap itself. -/
theorem trimmed_inside {e f g : Range} (h : g ∈ trimmed e f) : Inside g f ∧ g.revoked = f.revoked := by
  unfold trimmed at h
  split at h
  · rcases List.mem_append.mp h with b | a
    · exact ⟨(mem_before b).1, (mem_before b).2.2⟩
    · exact ⟨(mem_after a).1, (mem_after a).2.2⟩
  · obtain rfl := List.mem_singleton.mp h
    exact ⟨⟨Nat.le_refl _, Nat.le_refl _⟩, rfl⟩

theorem rangeStart_le_end (e : Range) : e.va ≤ rangeEnd e := Nat.le_add_right ..

theorem trimmed_pairwise (e f : Range) : (trimmed e f).Pairwise Apart := by
  unfold trimmed
  split
  · refine List.pairwise_append.mpr ⟨piece_pairwise .., piece_pairwise .., fun a ha b hb => Or.inl ?_⟩
    have low := (mem_before ha).2.1
    have high := (mem_after hb).2.1
    exact Nat.le_trans low (Nat.le_trans (rangeStart_le_end e) high)
  · exact List.pairwise_singleton ..

/-- What is left of an entry does not meet the new one, where the entry is REVOKED or does not meet it. -/
theorem trimmed_apart {e f g : Range} (ok : f.revoked = false → Apart e f) (h : g ∈ trimmed e f) : Apart e g := by
  unfold trimmed at h
  split at h
  · rcases List.mem_append.mp h with b | a
    · exact Or.inr (mem_before b).2.1
    · exact Or.inl (mem_after a).2.1
  next kept =>
    obtain rfl := List.mem_singleton.mp h
    rcases Bool.eq_false_or_eq_true g.revoked with rev | live
    · simp only [rev, Bool.true_and, Bool.not_eq_true] at kept
      exact meets_eq_false.mp kept
    · exact ok live

theorem insertRange_perm (e : Range) (l : List Range) : (insertRange e l).Perm (e :: l) := by
  induction l with
  | nil => exact .refl _
  | cons f l ih =>
    unfold insertRange
    split
    · exact .refl _
    · exact (ih.cons f).trans (.swap e f l)

/-- A new entry put into a table of entries that are apart. -/
theorem insert_pairwise {e : Range} {l : List Range} (ok : ∀ f ∈ l, f.revoked = false → Apart e f) (pw : l.Pairwise Apart) :
    (insertRange e (l.flatMap (trimmed e))).Pairwise Apart := by
  refine (insertRange_perm e _).symm.pairwise ?_ Apart.symm
  refine List.pairwise_cons.mpr ⟨fun g hg => ?_, List.pairwise_flatMap.mpr ⟨fun f _ => trimmed_pairwise e f, ?_⟩⟩
  · obtain ⟨f, hf, hg⟩ := List.mem_flatMap.mp hg
    exact trimmed_apart (ok f hf) hg
  · exact pw.imp (fun h x hx y hy => ((trimmed_inside hy).1.apart ((trimmed_inside hx).1.apart h).symm).symm)

/-- The table that new entries leave has entries that are apart. -/
theorem tableWith_pairwise {old new : List Range} (pold : old.Pairwise Apart) (pnew : new.Pairwise Apart)
    (ok : ∀ e ∈ new, ∀ f ∈ old, f.revoked = false → Apart e f) : (tableWith old new).Pairwise Apart := by
  induction new generalizing old with
  | nil => exact pold
  | cons e new ih =>
    obtain ⟨first, rest⟩ := List.pairwise_cons.mp pnew
    have step : tableWith old (e :: new) = tableWith (insertRange e (old.flatMap (trimmed e))) new := by
      rw [← cutAt_eq]
      rfl
    rw [step]
    refine ih (insert_pairwise (ok e (by simp)) pold) rest (fun e' he' g hg live => ?_)
    rcases List.mem_cons.mp ((insertRange_perm e _).mem_iff.mp hg) with rfl | hg
    · exact (first e' he').symm
    · obtain ⟨f, hf, hg⟩ := List.mem_flatMap.mp hg
      obtain ⟨inside, rev⟩ := trimmed_inside hg
      exact (inside.apart (ok e' (by simp [he']) f hf (rev ▸ live)).symm).symm

/-- Settles O15, entry by entry. -/
theorem rangesStayApart : Obligations.RangesStayApart := by
  unfold Obligations.RangesStayApart
  intro old new _ pold pnew ok
  rw [overlapping_eq_false] at *
  exact tableWith_pairwise pold pnew (fun e he f hf live => meets_eq_false.mp (ok e he f hf live))

end Sys2Proof.Machine
end

/-! PROOFS. Requests at memory (spec/08 R214-R219, R242): one that its controller serves at once, one that takes a slot or waits for one,
the numbers of slots, and the patrol scrub. -/
section
namespace Sys2Proof.Machine

/-! ### Slots of a controller (R242) -/

/-- The requests that hold slots are the module's and the holder's. -/
theorem length_inner_add (q : List MemReq) : (q.filter innerReq).length + (q.filter (fun r => !innerReq r)).length = q.length := by
  rw [← List.countP_eq_length_filter, ← List.countP_eq_length_filter]
  simpa only [Bool.not_eq_true, Bool.decide_eq_false] using (List.length_eq_countP_add_countP innerReq (l := q)).symm

/-- The request that is admitted next has found a slot. -/
theorem slotFor_of_nextAdmitted {w : List Nat} {q l : List MemReq} {r : MemReq} (h : nextAdmitted w q l = some r) : slotFor w q r = true := by
  unfold nextAdmitted at h
  split at h
  next first =>
    obtain rfl := Option.some.inj h
    have found := List.find?_some first
    simp only [Bool.and_eq_true] at found
    exact found.1.1
  · exact List.find?_some h

/-- A queue's slots within their numbers: 8 of the module, 64 of the holder, of which 32 of class 7. -/
def SlotsWithin (q : List MemReq) : Prop :=
  (q.filter innerReq).length ≤ 8 ∧ (q.filter (fun r => !innerReq r)).length ≤ 64 ∧ clsHeld q 7 ≤ 32

/-- A request that has found a slot leaves the slots within their numbers. -/
theorem slotsWithin_append {w : List Nat} {q : List MemReq} {r : MemReq} (slot : slotFor w q r = true) (h : SlotsWithin q) :
    SlotsWithin (q ++ [r]) := by
  obtain ⟨inner, holder, class7⟩ := h
  have total := length_inner_add q
  unfold SlotsWithin clsHeld at *
  unfold slotFor clsHeld at slot
  rcases Bool.eq_false_or_eq_true (innerReq r) with own | own
  · simp only [own, if_true, decide_eq_true_eq] at slot
    simp only [List.filter_append, List.length_append, List.filter_cons, own, List.filter_nil, Bool.not_true, Bool.false_and,
      Bool.false_eq_true, if_false, if_true, List.length_singleton, List.length_nil]
    omega
  · simp only [own, Bool.false_eq_true, if_false, Bool.and_eq_true, decide_eq_true_eq] at slot
    obtain ⟨free, ofClass⟩ := slot
    simp only [List.filter_append, List.length_append, List.filter_cons, own, List.filter_nil, Bool.not_false, Bool.true_and,
      Bool.false_eq_true, if_false, if_true, List.length_singleton, List.length_nil, Nat.add_zero]
    refine ⟨inner, free, ?_⟩
    by_cases c7 : r.cls = 7
    · simp only [c7, if_true, decide_eq_true_eq] at ofClass
      simp only [c7, beq_self_eq_true, if_true, List.length_singleton]
      exact ofClass
    · simp only [beq_eq_false_iff_ne.mpr c7, Bool.false_eq_true, if_false, List.length_nil, Nat.add_zero]
      exact class7

/-- Waiting requests take slots within their numbers. -/
theorem admitReqs_slotsWithin (w : List Nat) (n : Nat) {c : Chan} (h : SlotsWithin c.queue) : SlotsWithin (admitReqs w n c).queue := by
  induction n generalizing c with
  | zero => exact h
  | succ n ih =>
    unfold admitReqs
    split
    next r found => exact ih (slotsWithin_append (slotFor_of_nextAdmitted found) h)
    · exact h

/-! ### Requests (R219) -/

/-- The state in which a request is looked at: with the upset that it brings. -/
def withUpset (s : State) (r : MemReq) : State :=
  if inHbm r.addr || inStore r.addr then addUpset s (r.addr / 16) r.upset else s

/-- A request to HBM that finds timing ready and its controller's queue empty. -/
def FindsIdle (u : State) (r : MemReq) : Prop :=
  inHbm r.addr = true → r.now = true ∧ (getChan u (granChan u (granOf r.addr))).queue = []
    ∧ (getChan u (granChan u (granOf r.addr))).waits = []

/-- A request that finds its controller idle, or goes to a sheaf store, is tested and performed at once. -/
theorem exec_memoryRequest_idle {s : State} {r : MemReq} (idle : FindsIdle (withUpset s r) r) :
    exec (.memoryRequest r) s = .next (reqTested r (withUpset s r)) := by
  show execMemoryRequest r s = _
  simp only [execMemoryRequest]
  refine if_pos ?_
  rcases Bool.eq_false_or_eq_true (inHbm r.addr) with hbm | other
  · obtain ⟨now, queue, waits⟩ := idle hbm
    exact Or.inr (Or.inr ⟨now, List.isEmpty_iff.mpr queue, List.isEmpty_iff.mpr waits⟩)
  · exact Or.inl (by rw [other]; rfl)

/-- A read that is served answers its bytes. -/
theorem reqTested_read {u v : State} {r : MemReq} {d : List Byte} (kind : r.kind = .read ∨ r.kind = .internal ∧ r.data = [])
    (served : memRead u r.kind r.ctx r.pid r.edom r.addr r.len = .ok d v) : reqTested r u = putReply v 0 d := by
  rcases kind with kind | ⟨kind, empty⟩
  · rw [kind] at served
    simp only [reqTested, reqDo, kind, served, memAnswer]
  · rw [kind] at served
    simp only [reqTested, reqDo, kind, empty, List.isEmpty_nil, if_true, served, memAnswer]

/-- A write that is served answers no bytes. -/
theorem reqTested_write {u v : State} {r : MemReq} {d : List Byte} (kind : r.kind = .write ∨ r.kind = .internal ∧ r.data ≠ [])
    (served : memWrite u r.kind r.ctx r.pid r.edom r.addr r.data = .ok d v) : reqTested r u = putReply v 0 [] := by
  rcases kind with kind | ⟨kind, full⟩
  · rw [kind] at served
    simp only [reqTested, reqDo, kind, served, memAnswer]
  · rw [kind] at served
    simp only [reqTested, reqDo, kind, List.isEmpty_eq_false_iff.mpr full, Bool.false_eq_true, if_false, served, memAnswer]

/-- An atomic or reduce-on-write reads, then writes; an atomic answers what it found. -/
theorem reqTested_both {u v w : State} {r : MemReq} {d d' : List Byte} (kind : r.kind = .atomic ∨ r.kind = .reduce)
    (read : memRead u r.kind r.ctx r.pid r.edom r.addr r.len = .ok d v)
    (served : memWrite v r.kind r.ctx r.pid r.edom r.addr r.data = .ok d' w) :
    reqTested r u = putReply w 0 (if r.kind = .atomic then d else []) := by
  rcases kind with kind | kind
  · rw [kind] at read served
    simp only [reqTested, reqDo, kind, read, served, memAnswer, if_true]
  · rw [kind] at read served
    simp only [reqTested, reqDo, kind, read, served, memAnswer, reduceCtorEq, if_false]

/-- A request to HBM that passes its tests and finds timing not ready takes a slot, or waits for one. -/
theorem exec_memoryRequest_queued {s : State} {r : MemReq} (hbm : inHbm r.addr = true) (now : r.now = false)
    (allow : spanGate (addUpset s (r.addr / 16) r.upset) r.kind r.ctx r.pid r.edom r.addr
      (if r.kind = .write ∨ r.kind = .internal ∧ r.data ≠ [] then r.data.length else r.len) = .allow) :
    exec (.memoryRequest r) s =
      let u := addUpset s (r.addr / 16) r.upset
      let chan := granChan u (granOf r.addr)
      let c := getChan u chan
      .next (setChan u chan (admitReqs (chanWeights u chan) (c.waits.length + 1) { c with waits := c.waits ++ [r] })) := by
  have data : (!r.data.isEmpty) = true ↔ r.data ≠ [] := by
    rw [Bool.not_eq_true', List.isEmpty_eq_false_iff]
  show execMemoryRequest r s = _
  simp only [execMemoryRequest, hbm, Bool.true_or, if_true, now, data, allow, Bool.not_true, Bool.false_eq_true, ne_eq, not_true_eq_false,
    false_and, or_self, if_false]

/-- Settles O42: requests that are served at once kind by kind, one that is queued, the slots, and the patrol scrub. -/
theorem memoryRequestsComplete : Obligations.MemoryRequestsComplete := by
  unfold Obligations.MemoryRequestsComplete
  refine ⟨?read, ?write, ?both, ?queued, fun w n _ => admitReqs_slotsWithin w n, ?patrol⟩
  case read =>
    rintro s r u d v rfl idle kind served
    exact (exec_memoryRequest_idle idle).trans (congrArg _ (reqTested_read kind served))
  case write =>
    rintro s r u d v rfl idle kind served
    exact (exec_memoryRequest_idle idle).trans (congrArg _ (reqTested_write kind served))
  case both =>
    rintro s r u d v d' w rfl idle kind read served
    exact (exec_memoryRequest_idle idle).trans (congrArg _ (reqTested_both kind read served))
  case queued => exact fun s r hbm now allow => exec_memoryRequest_queued hbm now allow
  case patrol =>
    intro s chan up real active on ready slot
    have goes : ¬ (chan ≥ 192 ∨ halfPwr s (halfOfChan chan) ≠ 0 ∨ halfOff s (halfOfChan chan) = true ∨ (!chanReady s chan) = true
        ∨ 8 ≤ ((getChan s chan).queue.filter innerReq).length) := by
      rw [on, ready]
      simp only [Bool.false_eq_true, Bool.not_true, false_or, not_or]
      exact ⟨Nat.not_le.mpr real, not_not_intro active, Nat.not_le.mpr slot⟩
    exact if_neg goes

end Sys2Proof.Machine
end

/-! PROOFS. Range commands (spec/08 R224-R232): none of the checks in a command's order finds anything, and what is left is its effect. -/
section
namespace Sys2Proof.Machine

/-- An edit of a table that can be read takes place on the state that reading it leaves (R217). -/
theorem withTable_ok {ctx : Nat} {lost edit : State → State} {s : State} (met : (tableMet s ctx).1 = true) :
    withTable ctx lost edit s = edit (tableMet s ctx).2 := if_pos met

/-- A RANGE_INVAL whose packet is in order reaches slot `i` of this module, and the other modules of its scope (R229). -/
theorem startInval_ok {q : QRef} {p : Pkt} {u : State} {scope i : Nat} (hs : p.w4.toNat % 4 = scope) (three : scope ≠ 3)
    (len : invalLen scope p.payload.length = true)
    (slot : (if scope = 1 then slotOfPid u p.w5.toNat else some (getCtx u p.ctx).slot) = some i) {mods : List Nat}
    (hm : mods = if scope = 0 then [] else if scope = 1 then otherMembers u i
      else (invalList p).eraseDups.filter (fun m => decide (m ≠ ownModule u))) :
    startInval q p u =
      let tags := underScope u scope p.ctx i (numAt p.payload 0 8) (numAt p.payload 8 8)
      let v := invalHere u scope p.ctx i (numAt p.payload 0 8) (numAt p.payload 8 8)
      if mods.isEmpty then invalAnswer tags q p v
      else
        let t := begin q p (.inval mods tags) 0 v
        let fwd : Pkt := { p with seq := BitVec.ofNat 32 v.fe.nextId, payload := p.payload.take 16, plen := 16 }
        mods.foldl (fun s m =>
          if scope = 1 then sendForSlot s m i v.fe.nextId fwd
          else sendPlain s (some i) (commandPkt s m 0 0 (600 + halfOfQ s q) v.fe.nextId
            { fwd with w5 := BitVec.ofNat 32 (getSlot t i).brec.pid })) t := by
  have hs : p.w4.toNat % 2 ^ 2 = scope := hs
  simp only [startInval, fld_0, hs, three, len, slot, ← hm, Bool.not_true, Bool.false_eq_true, if_false]

theorem exec_rangeInval_takes {s : State} {h : Nat} {p : Pkt} (k : MgmtTakes s h { p with opcode := 0xA2 }) :
    exec (.rangeInval p) s
      = .next (wakeAll (startInval (.mgmt h) { p with opcode := 0xA2 } (taken s h { p with opcode := 0xA2 }))) :=
  congrArg _ (arrive_of_takes startInval fabInval k)

/-- A RANGE_INVAL of another module reaches its scope on this one (R229). -/
theorem fabInval_ok {q : QRef} {p : Pkt} {u : State} {scope i : Nat} (hs : p.w4.toNat % 4 = scope) (known : scope = 1 ∨ scope = 2)
    (len : p.payload.length = 16) (slot : (if scope = 1 then slotOfPid u p.w5.toNat else some 0) = some i) :
    fabInval q p u = invalAnswer (underScope u scope 0 i (numAt p.payload 0 8) (numAt p.payload 8 8)) q p
      (invalHere u scope 0 i (numAt p.payload 0 8) (numAt p.payload 8 8)) := by
  have hs : p.w4.toNat % 2 ^ 2 = scope := hs
  have named : ¬ (scope ≠ 1 ∧ scope ≠ 2) := by omega
  simp only [fabInval, fld_0, hs, named, len, slot, ne_eq, not_true_eq_false, if_false]

/-- Settles O43, command by command. -/
theorem rangeCommandsComplete : Obligations.RangeCommandsComplete := by
  unfold Obligations.RangeCommandsComplete
  refine ⟨runsOn0_of startRangeMap _ (fun _ _ => rfl) ?map, runsOn0_of startRangeUnmap _ (fun _ _ => rfl) ?unmap,
    runsOn0_of startUnmapIdle _ (fun _ _ => rfl) ?idle, ?idleEffect, runsOn0_of startInval _ (fun _ _ => rfl) ?context, ?partition, ?target,
    runsOnFabric_of _ fabInval (fun _ _ => rfl) ?fabric, ?timeout, ?walk, runsOn0_of startPrefetch _ (fun _ _ => rfl) ?prefetch,
    runsOn0_of startAdvise _ (fun _ _ => rfl) ?advise, runsOn0_of startEotha _ (fun _ _ => rfl) ?eotha⟩
  case map =>
    rintro h p u - ⟨full, whole, form, target, granary, apart, free, fits, gran, met⟩
    have room : ¬ tableMax < (tableWith (getCtx u p.ctx).ranges ((entryRecs p.payload).map rangeOf)).length := Nat.not_lt.mpr fits
    simp only [startRangeMap, full, whole, form, target, granary, apart, free, room, ne_eq, not_true_eq_false, or_self, Bool.or_self, Bool.not_true,
      Bool.false_eq_true, if_false]
    rcases table : (getCtx u p.ctx).table with _ | k
    · obtain ⟨k, found⟩ := gran table
      simp only [found]
    · exact withTable_ok met
  case unmap =>
    rintro h p u - ⟨span, fits, met⟩
    have room := Nat.not_lt.mpr fits
    simp only [startRangeUnmap, span, tableMax, room, withTable_ok met, Nat.add_sub_cancel_left, Bool.not_true, Bool.false_eq_true, if_false]
  case idle =>
    rintro h p u - span
    simp only [startUnmapIdle, span, Bool.not_true, Bool.false_eq_true, if_false]
  case idleEffect =>
    intro s id b va len deps runs found job packets kernels l fits met
    have room : ¬ tableMax < l.length := Nat.not_lt.mpr fits
    show execUnmapWhenIdleEffect id s = _
    simp only [execUnmapWhenIdleEffect, found, job, packets, kernels, Bool.or_self, Bool.false_eq_true, if_false]
    rw [if_neg room, withTable_ok met]
  case context =>
    rintro h p u - ⟨scope, len⟩
    rw [startInval_ok scope (by decide) (by rw [len]; rfl) rfl rfl]
    rfl
  case partition =>
    intro s h p i k
    dsimp only
    intro scope len slot
    rw [exec_rangeInval_takes k, startInval_ok (p := { p with opcode := 0xA2 }) scope (by decide) (by rw [len]; rfl) slot rfl]
    rfl
  case target =>
    intro s h p k
    dsimp only
    intro scope least even
    have len : invalLen 2 p.payload.length = true := by
      simp only [invalLen, if_true, Bool.and_eq_true, decide_eq_true_eq, beq_iff_eq]
      exact ⟨least, even⟩
    rw [exec_rangeInval_takes k, startInval_ok (p := { p with opcode := 0xA2 }) scope (by decide) len rfl rfl]
    rfl
  case fabric =>
    rintro mid pid pgen p u - ⟨⟨scope, held⟩ | scope, len⟩
    · obtain ⟨i, slot⟩ := Option.isSome_iff_exists.mp held
      rw [fabInval_ok scope (Or.inl rfl) len slot]
      simp only [scope, slot, if_true, Option.getD_some]
    · rw [fabInval_ok scope (Or.inr rfl) len rfl]
      simp only [scope, (by decide : ¬ 2 = 1), if_false]
  case timeout =>
    intro s id b mods tags found job some
    show execRangeInvalTimeout id s = _
    simp only [execRangeInvalTimeout, found, job, List.isEmpty_eq_false_iff.mpr some, Bool.false_eq_true, if_false]
  case walk =>
    intro s sheaf ctx va live real
    dsimp only
    show execRangeWalk sheaf ctx va s = _
    have goes : ¬ ((getCtx s ctx).st ≠ 1 ∨ 36 ≤ sheaf) := not_or.mpr ⟨not_not_intro live, Nat.not_le.mpr real⟩
    rw [execRangeWalk, if_neg goes]
    rcases translate s (some (sheaf, none)) ctx va with ⟨res, at_, t⟩
    cases res <;> rfl
  case prefetch =>
    rintro h p u - ⟨some, most, within⟩
    have ok : ¬ (p.w6.toNat = 0 ∨ 4194304 < p.w6.toNat ∨ 2 ^ 57 < opA p + p.w6.toNat) := by omega
    rcases place : lmapOf (getSlot u (getCtx u p.ctx).slot) (p.w7.toNat % 2 ^ 24) with _ | e
    · simp only [startPrefetch, fld_0, ok, place, if_false]
    · simp only [startPrefetch, fld_0, ok, place, if_false]
  case advise =>
    rintro h p u - ⟨span, len, known, met⟩
    have ok : ¬ ((!spanOk p) = true ∨ p.payload.length ≠ 8) := by
      rw [span, len]
      decide
    have kinds : ¬ 3 < numAt p.payload 0 8 % 16 := Nat.not_lt.mpr known
    have low : fld (numAt p.payload 0 8) 0 4 = numAt p.payload 0 8 % 16 := fld_0 ..
    have high : fld (numAt p.payload 0 8) 4 3 = numAt p.payload 0 8 / 16 % 8 := rfl
    simp only [startAdvise, low, high, Bool.and_eq_true, decide_eq_true_eq, Nat.add_sub_cancel_left]
    rw [if_neg ok, if_neg kinds]
    split
    · rfl
    next table => exact withTable_ok (met table)
  case eotha =>
    rintro h p u - ⟨form, unused⟩
    have ok : ¬ (bitAt p.w4.toNat 0 = true ∧ (p.payload.length ≠ 24 ∨ numAt p.payload 0 8 % 4096 ≠ 0 ∨ numAt p.payload 8 8 % 4096 ≠ 0
        ∨ numAt p.payload 16 8 % 4096 ≠ 0 ∨ 2 ^ 56 < numAt p.payload 0 8 + numAt p.payload 16 8
        ∨ 2 ^ 56 < numAt p.payload 8 8 + numAt p.payload 16 8)) := by
      rintro ⟨on, bad⟩
      have := form on
      omega
    rw [startEotha, if_neg ok, unused, if_neg Bool.false_ne_true]

end Sys2Proof.Machine
end

/-! PROOFS. Ownership and the fault queue (spec/08 R220, R235, R236): what passes OWN_SET's checks, its release, and FAULT_RESOLVE. -/
section
namespace Sys2Proof.Machine

/-- A check that finds nothing against any member of a list. -/
theorem any_eq_false_of {α : Type} {l : List α} {f : α → Bool} (h : ∀ x ∈ l, f x = false) : l.any f = false := by
  rw [List.any_eq_false]
  exact fun x hx => Bool.eq_false_iff.mp (h x hx)

/-- FAULT_RESOLVE of an entry that is not there, or holds another fault, is answered DUP (R236). -/
theorem startResolve_dup {q : QRef} {p : Pkt} {u : State} (other : ∀ e, fqGet u (p.w4.toNat % 256) = some e → e.seq ≠ p.w5) :
    startResolve q p u = sendReply q p { replyTo p stOk with dup := true } u := by
  have index : fld p.w4.toNat 0 8 = p.w4.toNat % 256 := fld_0 ..
  simp only [startResolve, index]
  split
  · rfl
  next e entry => exact if_pos (other e entry)

/-- Settles O44, command by command: none of the checks in a handler's order finds anything, and what is left is its effect. -/
theorem ownershipAndFaultsComplete : Obligations.OwnershipAndFaultsComplete := by
  unfold Obligations.OwnershipAndFaultsComplete
  refine ⟨runsOn0_of startOwnSet _ (fun _ _ => rfl) ?own, ?release, runsOn0_of startResolve _ (fun _ _ => rfl) ?resolve,
    runsOn0_of startResolve _ (fun _ _ => rfl) (fun _ _ _ _ other => startResolve_dup other)⟩
  case own =>
    rintro h p u - ⟨chans, count, action, last, rows, power, held, free⟩
    have place : ¬ (fld p.w4.toNat 8 8 = 0 ∨ fld p.w6.toNat 0 11 = 0 ∨ fld p.w4.toNat 17 2 = 3
        ∨ (if bitAt p.w4.toNat 16 then 36 else 192) < fld p.w4.toNat 0 8 + fld p.w4.toNat 8 8
        ∨ (if bitAt p.w4.toNat 16 then 16 else 1152) < fld p.w5.toNat 0 11 + fld p.w6.toNat 0 11) := by
      rw [fld_0, fld_0, fld_0]
      rintro (bad | bad | bad | bad | bad)
      · exact chans bad
      · exact count bad
      · exact action bad
      · exact Nat.not_le.mpr bad last
      · exact Nat.not_le.mpr bad rows
    have owned : (ownNamed p).any (fun g => (if g.1 then !(getSlot u (getCtx u p.ctx).slot).brec.cores.any (fun c => sheafOfCore c == g.2 / 16)
          else !(getSlot u (getCtx u p.ctx).slot).brec.chans.contains (granChan u g)) || decide (2 ≤ (getTag u g).st)) = false := by
      refine any_eq_false_of (fun g hg => ?_)
      obtain ⟨unit, st⟩ := held g hg
      rw [decide_eq_false (Nat.not_le.mpr st), Bool.or_false]
      split at unit
      next store => rw [if_pos store, unit, Bool.not_true]
      next hbm => rw [if_neg hbm, unit, Bool.not_true]
    have ok : (ownNamed p).all (fun g => if fld p.w4.toNat 17 2 = 2
        then (getTag u g).st == 1 && (getTag u g).slot == (getCtx u p.ctx).slot && ((getTag u g).shared || (getTag u g).ctx == p.ctx)
          && !(getTag u g).ro && !(getTag u g).table
        else (getTag u g).st == 0) = true := by
      refine List.all_eq_true.mpr (fun g hg => ?_)
      have may := free g hg
      split at may
      next release =>
        obtain ⟨st, slot, shared, ro, table⟩ := may
        have held : ((getTag u g).shared || (getTag u g).ctx == p.ctx) = true := by simpa using shared
        have asked : fld p.w4.toNat 17 2 = 2 := release
        simp only [asked, if_true, st, slot, held, ro, table, beq_self_eq_true, Bool.and_self, Bool.not_false]
      next take =>
        have asked : ¬ fld p.w4.toNat 17 2 = 2 := take
        simp only [asked, if_false, may, beq_self_eq_true]
    unfold startOwnSet
    dsimp only
    rw [if_neg place, any_eq_false_of power, if_neg Bool.false_ne_true, owned, if_neg Bool.false_ne_true, ok, Bool.not_true,
      if_neg Bool.false_ne_true]
    rfl
  case release =>
    intro s id b gs found job waits
    show execOwnSetReleaseDone id s = _
    simp only [execOwnSetReleaseDone, found, job, waits, Bool.false_eq_true, if_false]
  case resolve =>
    rintro h p u - ⟨e, entry, named⟩
    have index : fld p.w4.toNat 0 8 = p.w4.toNat % 256 := fld_0 ..
    simp only [startResolve, index, entry, named, ne_eq, not_true_eq_false, if_false]

end Sys2Proof.Machine
end

/-! PROOFS. Packets as bytes (spec/06 R156-R158, spec/08 R238, spec/09 R255, R256): each field of a command packet, of a near-memory request,
of an access descriptor and of a fabric header reads back from its place. -/
section
namespace Sys2Proof.Machine

/-! ### Fields of a word -/

/-- A bit that was set from a Boolean reads as it. -/
theorem bitAt_of_b2n {x i : Nat} {b : Bool} (h : x / 2 ^ i % 2 = b2n b) : bitAt x i = b := by
  rw [bitAt, h]
  cases b <;> rfl

theorem b2n_le_one (b : Bool) : b2n b ≤ 1 := by cases b <;> decide

/-- The low bytes of a number stand first. -/
theorem leBytes_add (n m x : Nat) : leBytes (n + m) x = leBytes n x ++ leBytes m (x / 256 ^ n) := by
  induction n generalizing x with
  | zero => simp [leBytes]
  | succ n ih =>
    rw [Nat.succ_add_eq_add_succ, Nat.add_succ, leBytes, leBytes, ih, List.cons_append, Nat.div_div_eq_div_mul, Nat.pow_succ, Nat.mul_comm 256]

/-- The low bytes of a number that stands first. -/
theorem numAt_leBytes_low {n k : Nat} (h : n ≤ k) (x : Nat) (b : List Byte) : numAt (leBytes k x ++ b) 0 n = x % 256 ^ n := by
  obtain ⟨m, rfl⟩ := Nat.exists_eq_add_of_le h
  rw [leBytes_add, List.append_assoc, numAt_leBytes_front]

/-- Word `i` of a header reads back. -/
theorem numAt_header {ws : List W32} {i : Nat} (h : i < ws.length) (b : List Byte) : numAt (wordBytes ws ++ b) (4 * i) 4 = (ws[i]).toNat := by
  rw [numAt_left (by rw [length_wordBytes]; omega), numAt_wordBytes h]

/-! ### Command packets (R156-R158) -/

/-- The words of a command packet's header. -/
def pktWords (p : Pkt) : List W32 :=
  [BitVec.ofNat 32 (p.opcode % 256 + (b2n p.quiet + b2n p.fence * 2) % 256 * 2 ^ 8 + p.payload.length % 65536 * 2 ^ 16),
   BitVec.ofNat 32 (p.qpn % 4096 + p.ctx % 1024 * 2 ^ 12 + p.gen.toNat * 2 ^ 22), p.seq,
   BitVec.ofNat 32 (p.status % 65536 + p.cls % 8 * 2 ^ 16), p.w4, p.w5, p.w6, p.w7]

/-- What a packet's trailer covers. -/
def pktCovered (p : Pkt) : List Byte := wordBytes (pktWords p) ++ p.payload

theorem pktBytes_eq (p : Pkt) : pktBytes p = pktCovered p ++ leBytes 4 (crc32c (pktCovered p)).toNat := rfl

@[simp] theorem length_pktCovered (p : Pkt) : (pktCovered p).length = 32 + p.payload.length := by
  rw [pktCovered, List.length_append, length_wordBytes]
  rfl

@[simp] theorem length_pktBytes (p : Pkt) : (pktBytes p).length = 36 + p.payload.length := by
  rw [pktBytes_eq, List.length_append, length_pktCovered, length_leBytes]
  omega

theorem numAt_pktBytes (p : Pkt) {i : Nat} (h : i < (pktWords p).length) : numAt (pktBytes p) (4 * i) 4 = ((pktWords p)[i]).toNat := by
  rw [pktBytes_eq, pktCovered, List.append_assoc, numAt_header h]

/-- The payload follows the header. -/
theorem payload_pktBytes (p : Pkt) : sliceZ (pktBytes p) 32 p.payload.length = p.payload := by
  have words : (wordBytes (pktWords p)).length = 32 := length_wordBytes _
  rw [pktBytes_eq, pktCovered, List.append_assoc, sliceZ_right (by omega), words]
  exact sliceZ_front rfl _

/-- The trailer follows the payload, and verifies. -/
theorem trailer_pktBytes (p : Pkt) : sliceZ (pktBytes p) 0 (32 + p.payload.length) = pktCovered p
    ∧ numAt (pktBytes p) (32 + p.payload.length) 4 = (crc32c (pktCovered p)).toNat := by
  rw [pktBytes_eq]
  refine ⟨sliceZ_front (length_pktCovered p).symm _, ?_⟩
  rw [numAt_right (by rw [length_pktCovered]), length_pktCovered, Nat.sub_self, numAt_leBytes]
  exact Nat.mod_eq_of_lt (BitVec.isLt _)

/-- The first word of a header reads as OPCODE, the flags and the payload's length. -/
theorem pktWord0_reads {op n : Nat} (q f : Bool) (ho : op < 256) (hn : n < 65536) :
    let w := (BitVec.ofNat 32 (op % 256 + (b2n q + b2n f * 2) % 256 * 2 ^ 8 + n % 65536 * 2 ^ 16)).toNat
    fld w 0 8 = op ∧ bitAt w 8 = q ∧ bitAt w 9 = f ∧ fld w 16 16 = n := by
  have hq := b2n_le_one q
  have hf := b2n_le_one f
  simp only [fld, BitVec.toNat_ofNat]
  exact ⟨by omega, bitAt_of_b2n (by omega), bitAt_of_b2n (by omega), by omega⟩

/-- The second: QPN, the context and its generation. -/
theorem pktWord1_reads {qpn ctx : Nat} (gen : BitVec 8) (hq : qpn < 4096) (hc : ctx < 1024) :
    let w := (BitVec.ofNat 32 (qpn % 4096 + ctx % 1024 * 2 ^ 12 + gen.toNat * 2 ^ 22)).toNat
    fld w 0 12 = qpn ∧ fld w 12 10 = ctx ∧ BitVec.ofNat 8 (fld w 22 8) = gen := by
  have hg := gen.isLt
  simp only [fld, BitVec.toNat_ofNat]
  refine ⟨by omega, by omega, BitVec.eq_of_toNat_eq ?_⟩
  rw [BitVec.toNat_ofNat]
  omega

/-- The fourth: the status and the class. -/
theorem pktWord3_reads {status cls : Nat} (hs : status < 65536) (hc : cls < 8) :
    let w := (BitVec.ofNat 32 (status % 65536 + cls % 8 * 2 ^ 16)).toNat
    fld w 0 16 = status ∧ fld w 16 3 = cls := by
  simp only [fld, BitVec.toNat_ofNat]
  omega

/-- A command packet whose fields fit reads back from its bytes. -/
theorem pktOfBytes_pktBytes (src : Src) {p : Pkt} (fits : pktFits p) :
    pktOfBytes src (pktBytes p) = { p with src := src, rxOk := true, adapter := 0 } := by
  obtain ⟨opcode, qpn, ctx, status, cls, len, plen⟩ := fits
  obtain ⟨readOp, readQuiet, readFence, readLen⟩ := pktWord0_reads p.quiet p.fence opcode len
  obtain ⟨readQpn, readCtx, readGen⟩ := pktWord1_reads p.gen qpn ctx
  obtain ⟨readStatus, readCls⟩ := pktWord3_reads status cls
  obtain ⟨covered, trailer⟩ := trailer_pktBytes p
  have long : 36 ≤ (pktBytes p).length := by rw [length_pktBytes]; omega
  have word {i : Nat} (h : i < 8) : numAt (pktBytes p) (4 * i) 4 = ((pktWords p)[i]).toNat := numAt_pktBytes p h
  simp only [pktOfBytes, word (show 0 < 8 by decide), word (show 1 < 8 by decide), word (show 2 < 8 by decide), word (show 3 < 8 by decide),
    word (show 4 < 8 by decide), word (show 5 < 8 by decide), word (show 6 < 8 by decide), word (show 7 < 8 by decide), pktWords,
    List.getElem_cons_zero, List.getElem_cons_succ, readOp, readQuiet, readFence, readLen, readQpn, readCtx, readGen, readStatus, readCls,
    covered, trailer, payload_pktBytes, BitVec.ofNat_toNat, BitVec.setWidth_eq, long, plen, decide_true, Bool.and_self]

/-! ### Near-memory requests (R238) -/

/-- The word of a near-memory request that holds its operation, width, return, class, context and encryption domain. -/
theorem nearWord_reads {op width cls ctx edom : Nat} (ret : Bool) (ho : op < 16) (hw : width < 4) (hl : cls < 8) (hc : ctx < 1024)
    (he : edom < 2) :
    let w := (op % 16 + width % 4 * 2 ^ 4 + b2n ret * 2 ^ 6 + cls % 8 * 2 ^ 7 + ctx % 1024 * 2 ^ 10 + b2n (edom == 1) * 2 ^ 20) % 256 ^ 4
    fld w 0 4 = op ∧ fld w 4 2 = width ∧ bitAt w 6 = ret ∧ fld w 7 3 = cls ∧ fld w 10 10 = ctx ∧ fld w 20 1 = edom := by
  have hr := b2n_le_one ret
  have hd : b2n (edom == 1) = edom := by
    interval_cases edom <;> rfl
  simp only [fld, hd]
  exact ⟨by omega, by omega, bitAt_of_b2n (by omega), by omega, by omega, by omega⟩

/-- A near-memory request whose fields fit reads back from its bytes. -/
theorem nearOf_nearBytes {r : NearReq} (fits : nearFits r) : nearOf (nearBytes r) = r := by
  obtain ⟨fpa, op, width, cls, ctx, edom, pid, lanes⟩ := fits
  obtain ⟨readOp, readWidth, readRet, readCls, readCtx, readEdom⟩ := nearWord_reads r.ret op width cls ctx edom
  have readFpa : r.fpa % 2 ^ 56 % 256 ^ 7 = r.fpa := by omega
  have readPid : r.pid % 256 ^ 4 = r.pid := Nat.mod_eq_of_lt pid
  have operand : r.operand.toNat % 256 ^ 8 = r.operand.toNat := Nat.mod_eq_of_lt r.operand.isLt
  have compare : r.compare.toNat % 256 ^ 8 = r.compare.toNat := Nat.mod_eq_of_lt r.compare.isLt
  have readLanes : (if r.op = 14 then sliceZ (if r.op = 14 then sliceZ r.lanes 0 64 else []) 0 64 else []) = r.lanes := by
    split at lanes
    next reduce => simp only [reduce, if_true, sliceZ_whole lanes.symm]
    next other => rw [if_neg other, lanes]
  simp (disch := decide) only [nearOf, nearBytes, List.append_assoc, numAt_leBytes_skip, sliceZ_leBytes_skip, Nat.reduceSub,
    numAt_leBytes_low, readFpa, readOp, readWidth, readRet, readCls, readCtx, readEdom, readPid, operand, compare, readLanes,
    BitVec.ofNat_toNat, BitVec.setWidth_eq]

/-! ### Access descriptors (R256) -/

/-- An access descriptor whose fields fit, with what follows it, reads back. -/
theorem desc_reads {f : FabPkt} (tkind : f.tkind < 16) (ctx : f.ctx < 1024) (cls : f.cls < 8) (edom : f.edom < 2) (status : f.status < 32)
    (len : f.len < 65536) (d : List Byte) :
    let b := descBytes f ++ d
    let w := numAt b 8 4
    numAt b 0 8 = f.target.toNat ∧ fld w 0 4 = f.tkind ∧ fld w 4 10 = f.ctx ∧ fld w 14 3 = f.cls ∧ fld w 17 1 = f.edom
      ∧ fld w 18 5 = f.status ∧ numAt b 12 2 = f.len ∧ b.drop 16 = d := by
  have target := f.target.isLt
  have size : (descBytes f).length = 16 := by
    simp only [descBytes, List.length_append, length_leBytes, List.length_cons, List.length_nil]
  refine ⟨?_, ?_, ?_, ?_, ?_, ?_, ?_, List.drop_left' size⟩
  all_goals
    simp (disch := decide) only [descBytes, List.append_assoc, numAt_leBytes_skip, Nat.reduceSub, numAt_leBytes_front, fld]
    omega

/-! ### Fabric packets (R255, R256) -/

/-- The first word of a fabric header. -/
def fabWord0 (f : FabPkt) : W32 :=
  BitVec.ofNat 32 (f.dst % 16384 + f.vc % 8 * 2 ^ 14 + f.kind % 16 * 2 ^ 17 + b2n f.conf * 2 ^ 21 + b2n f.nonmin * 2 ^ 22
    + f.inter % 256 * 2 ^ 24)

/-- Its second word. -/
def fabWord1 (f : FabPkt) : W32 :=
  BitVec.ofNat 32 (f.src % 16384 + f.lane % 16 * 2 ^ 14 + f.phase % 4 * 2 ^ 18 + f.keyix % 4 * 2 ^ 20)

/-- Its sixth word, where the body has `n` bytes. -/
def fabWord5 (f : FabPkt) (n : Nat) : W32 := BitVec.ofNat 32 (n % 16384 + f.gwPos % 64 * 2 ^ 14 + f.gwPort % 32 * 2 ^ 20)

/-- A fabric packet is its words, its tag, its body and zeroes. -/
theorem fabBytes_parts (f : FabPkt) :
    ∃ k, fabBytes f = wordBytes [fabWord0 f, fabWord1 f, f.flowSeq, BitVec.ofNat 32 f.pid, f.pgen, fabWord5 f (fabBody f).length]
      ++ (leBytes 8 f.tag.toNat ++ (fabBody f ++ List.replicate k 0)) := by
  refine ⟨(64 - (fabHeader f (fabBody f).length ++ fabBody f).length % 64) % 64, ?_⟩
  rw [← List.append_assoc, ← List.append_assoc]
  rfl

/-- The words, the tag and the body of a fabric packet stand in their places. -/
theorem fabBytes_reads (f : FabPkt) :
    numAt (fabBytes f) (4 * 0) 4 = (fabWord0 f).toNat ∧ numAt (fabBytes f) (4 * 1) 4 = (fabWord1 f).toNat
      ∧ numAt (fabBytes f) (4 * 2) 4 = f.flowSeq.toNat ∧ numAt (fabBytes f) (4 * 3) 4 = (BitVec.ofNat 32 f.pid).toNat
      ∧ numAt (fabBytes f) (4 * 4) 4 = f.pgen.toNat ∧ numAt (fabBytes f) (4 * 5) 4 = (fabWord5 f (fabBody f).length).toNat
      ∧ numAt (fabBytes f) 24 8 = f.tag.toNat ∧ sliceZ (fabBytes f) 32 (fabBody f).length = fabBody f := by
  obtain ⟨k, parts⟩ := fabBytes_parts f
  have words : (wordBytes [fabWord0 f, fabWord1 f, f.flowSeq, BitVec.ofNat 32 f.pid, f.pgen, fabWord5 f (fabBody f).length]).length = 24 :=
    length_wordBytes _
  rw [parts]
  refine ⟨numAt_header (by decide : 0 < 6) _, numAt_header (by decide : 1 < 6) _, numAt_header (by decide : 2 < 6) _,
    numAt_header (by decide : 3 < 6) _, numAt_header (by decide : 4 < 6) _, numAt_header (by decide : 5 < 6) _, ?_, ?_⟩
  · rw [numAt_after words _ 0, numAt_leBytes_front]
    exact Nat.mod_eq_of_lt f.tag.isLt
  · rw [sliceZ_right (by rw [words]; decide), words, sliceZ_leBytes_skip (by decide)]
    exact sliceZ_front rfl _

theorem fabWord0_reads {f : FabPkt} (dst : f.dst < 16384) (vc : f.vc < 8) (kind : f.kind < 16) (inter : f.inter < 256) :
    let w := (fabWord0 f).toNat
    fld w 0 14 = f.dst ∧ fld w 14 3 = f.vc ∧ fld w 17 4 = f.kind ∧ bitAt w 21 = f.conf ∧ bitAt w 22 = f.nonmin ∧ fld w 24 8 = f.inter := by
  have hc := b2n_le_one f.conf
  have hn := b2n_le_one f.nonmin
  simp only [fabWord0, fld, BitVec.toNat_ofNat]
  exact ⟨by omega, by omega, by omega, bitAt_of_b2n (by omega), bitAt_of_b2n (by omega), by omega⟩

theorem fabWord1_reads {f : FabPkt} (src : f.src < 16384) (lane : f.lane < 16) (phase : f.phase < 4) (keyix : f.keyix < 4) :
    let w := (fabWord1 f).toNat
    fld w 0 14 = f.src ∧ fld w 14 4 = f.lane ∧ fld w 18 2 = f.phase ∧ fld w 20 2 = f.keyix := by
  simp only [fabWord1, fld, BitVec.toNat_ofNat]
  omega

theorem fabWord5_reads {f : FabPkt} {n : Nat} (size : n < 16384) (gwPos : f.gwPos < 64) (gwPort : f.gwPort < 32) :
    let w := (fabWord5 f n).toNat
    fld w 0 14 = n ∧ fld w 14 6 = f.gwPos ∧ fld w 20 5 = f.gwPort := by
  simp only [fabWord5, fld, BitVec.toNat_ofNat]
  omega

/-- The header of a fabric packet whose fields fit reads back, and keeps the body as it came. -/
theorem fabHeadOf_fabBytes {f : FabPkt} (fits : fabFits f) : fabHeadOf (fabBytes f) = { fabHead f with sealed := fabBody f } := by
  obtain ⟨dst, vc, kind, inter, src, lane, phase, keyix, pid, gwPos, gwPort, -, -, size, -⟩ := fits
  obtain ⟨w0, w1, w2, w3, w4, w5, tag, body⟩ := fabBytes_reads f
  obtain ⟨readDst, readVc, readKind, readConf, readNonmin, readInter⟩ := fabWord0_reads dst vc kind inter
  obtain ⟨readSrc, readLane, readPhase, readKeyix⟩ := fabWord1_reads src lane phase keyix
  obtain ⟨readSize, readGwPos, readGwPort⟩ := fabWord5_reads size gwPos gwPort
  have readPid : (BitVec.ofNat 32 f.pid).toNat = f.pid := by
    rw [BitVec.toNat_ofNat]
    exact Nat.mod_eq_of_lt pid
  simp only [fabHeadOf, w0, w1, w2, w3, w4, w5, tag, readDst, readVc, readKind, readConf, readNonmin, readInter, readSrc, readLane, readPhase,
    readKeyix, readSize, readGwPos, readGwPort, readPid, body, BitVec.ofNat_toNat, BitVec.setWidth_eq, fabHead]

/-! ### Bodies by KIND (R256) -/

theorem fabOpen_command {f : FabPkt} (kind : f.kind = 0) (a b : List Byte) :
    fabOpen { fabHead f with sealed := a } b = { fabHead f with cmd := some (pktOfBytes (.fabric f.src f.pid f.pgen.toNat) b) } := by
  cases f
  cases kind
  rfl

theorem fabOpen_near {f : FabPkt} (kind : f.kind = 3) (a b : List Byte) :
    fabOpen { fabHead f with sealed := a } b = { fabHead f with near := some (nearOf b) } := by
  cases f
  cases kind
  rfl

theorem fabOpen_access {f : FabPkt} (kind : f.kind = 1 ∨ f.kind = 2 ∨ f.kind = 4) (a b : List Byte) :
    fabOpen { fabHead f with sealed := a } b = { fabHead f with
      target := BitVec.ofNat 64 (numAt b 0 8), tkind := fld (numAt b 8 4) 0 4, ctx := fld (numAt b 8 4) 4 10, cls := fld (numAt b 8 4) 14 3,
      edom := fld (numAt b 8 4) 17 1, status := fld (numAt b 8 4) 18 5, len := numAt b 12 2, data := b.drop 16 } := by
  cases f
  rcases kind with kind | kind | kind
  all_goals
    cases kind
    rfl

theorem fabOpen_data {f : FabPkt} (kind : 5 ≤ f.kind) (a b : List Byte) :
    fabOpen { fabHead f with sealed := a } b = { fabHead f with data := b } := by
  obtain ⟨k, five⟩ := Nat.exists_eq_add_of_le' kind
  cases f
  cases five
  rfl

/-- The body of an access is its descriptor and its data. -/
theorem fabBody_access {f : FabPkt} (plain : f.sealed = []) (kind : f.kind = 1 ∧ f.data = [] ∨ f.kind = 2 ∨ f.kind = 4) :
    fabBody f = descBytes f ++ f.data := by
  rw [fabBody, plain]
  rcases kind with ⟨kind, data⟩ | kind | kind
  · rw [kind, data, List.append_nil]
    rfl
  · rw [kind]
    rfl
  · rw [kind]
    rfl

theorem fabBody_data {f : FabPkt} (plain : f.sealed = []) (kind : f.kind = 5 ∨ f.kind = 6) : fabBody f = f.data := by
  rw [fabBody, plain]
  rcases kind with kind | kind
  all_goals
    rw [kind]
    rfl

theorem fabBody_nothing {f : FabPkt} (plain : f.sealed = []) (kind : 7 ≤ f.kind) : fabBody f = [] := by
  obtain ⟨k, seven⟩ := Nat.exists_eq_add_of_le' kind
  rw [fabBody, plain, seven]
  rfl

/-- The body of an access opens to the access that was sent. -/
theorem fabOpen_fabBody_access {f : FabPkt} (counter : f.counter = 0) (plain : f.sealed = [])
    (kind : f.kind = 1 ∧ f.data = [] ∨ f.kind = 2 ∨ f.kind = 4) (cmd : f.cmd = none) (near : f.near = none) (tkind : f.tkind < 16)
    (ctx : f.ctx < 1024) (cls : f.cls < 8) (edom : f.edom < 2) (status : f.status < 32) (len : f.len < 65536) (a : List Byte) :
    fabOpen { fabHead f with sealed := a } (fabBody f) = f := by
  obtain ⟨readTarget, readTkind, readCtx, readCls, readEdom, readStatus, readLen, readData⟩ := desc_reads tkind ctx cls edom status len f.data
  rw [fabBody_access plain kind, fabOpen_access (kind.imp_left And.left)]
  simp only [readTarget, readTkind, readCtx, readCls, readEdom, readStatus, readLen, readData, BitVec.ofNat_toNat, BitVec.setWidth_eq]
  cases f
  cases cmd
  cases near
  cases counter
  cases plain
  rfl

/-- A command packet on the fabric opens to itself. -/
theorem fabOpen_fabBody_command {f : FabPkt} {p : Pkt} (plain : f.sealed = []) (kind : f.kind = 0) (ok : pktFits p)
    (src : p.src = .fabric f.src f.pid f.pgen.toNat) (rxOk : p.rxOk = true) (adapter : p.adapter = 0)
    (own : f = { fabHead f with cmd := some p }) (a : List Byte) : fabOpen { fabHead f with sealed := a } (fabBody f) = f := by
  have command : f.cmd = some p := by rw [own]
  obtain ⟨opcode, -⟩ := id ok
  have body : fabBody f = pktBytes p := by
    simp only [fabBody, plain, kind, command, cmdBody, opcode, List.isEmpty_nil, Bool.not_true, Bool.false_eq_true, if_false, if_true]
  have whole : pktOfBytes (.fabric f.src f.pid f.pgen.toNat) (pktBytes p) = p := by
    rw [pktOfBytes_pktBytes _ ok, ← src, ← rxOk, ← adapter]
  rw [fabOpen_command kind, body, whole]
  exact own.symm

/-- A near-memory request on the fabric opens to itself. -/
theorem fabOpen_fabBody_near {f : FabPkt} {r : NearReq} (plain : f.sealed = []) (kind : f.kind = 3) (ok : nearFits r)
    (own : f = { fabHead f with near := some r }) (a : List Byte) : fabOpen { fabHead f with sealed := a } (fabBody f) = f := by
  have request : f.near = some r := by rw [own]
  have body : fabBody f = nearBytes r := by
    simp only [fabBody, plain, kind, request, List.isEmpty_nil, Bool.not_true, Bool.false_eq_true, if_false]
  rw [fabOpen_near kind, body, nearOf_nearBytes ok]
  exact own.symm

/-- The body of a packet in plaintext opens, by KIND, to the packet that was sent. -/
theorem fabOpen_fabBody {f : FabPkt} (counter : f.counter = 0) (plain : f.sealed = []) (fits : bodyFits f) (a : List Byte) :
    fabOpen { fabHead f with sealed := a } (fabBody f) = f := by
  unfold bodyFits at fits
  split at fits
  next kind =>
    obtain ⟨p, ok, src, rxOk, adapter, own⟩ := fits
    exact fabOpen_fabBody_command plain kind ok src rxOk adapter own a
  next kind =>
    obtain ⟨data, cmd, near, tkind, ctx, cls, edom, status, len⟩ := fits
    exact fabOpen_fabBody_access counter plain (.inl ⟨kind, data⟩) cmd near tkind ctx cls edom status len a
  next kind =>
    obtain ⟨cmd, near, tkind, ctx, cls, edom, status, len⟩ := fits
    exact fabOpen_fabBody_access counter plain (.inr (.inl kind)) cmd near tkind ctx cls edom status len a
  next kind =>
    obtain ⟨cmd, near, tkind, ctx, cls, edom, status, len⟩ := fits
    exact fabOpen_fabBody_access counter plain (.inr (.inr kind)) cmd near tkind ctx cls edom status len a
  next kind =>
    obtain ⟨r, ok, own⟩ := fits
    exact fabOpen_fabBody_near plain kind ok own a
  next kind =>
    rw [fabBody_data plain (.inl kind), fabOpen_data (by omega)]
    exact fits.symm
  next kind =>
    rw [fabBody_data plain (.inr kind), fabOpen_data (by omega)]
    exact fits.symm
  next k0 k1 k2 k4 k3 k5 k6 =>
    rw [imp_false] at k0 k1 k2 k3 k4 k5 k6
    have kind : 7 ≤ f.kind := by omega
    rw [fabBody_nothing plain kind, fabOpen_data (by omega)]
    exact fits.symm

/-- A near-memory request with 64 bytes of lane data, its fields at their largest. -/
def widestRequest : NearReq :=
  { fpa := 2 ^ 56 - 1, op := 14, width := 3, ret := true, cls := 7, ctx := 1023, edom := 1, pid := 2 ^ 32 - 1,
    operand := 0xFFFFFFFFFFFFFFFF, compare := 0xFFFFFFFFFFFFFFFF, lanes := List.replicate 64 0xFF }

/-- A fabric packet that carries it, its header's fields at their largest. -/
def widestNear : FabPkt :=
  { dst := 16383, vc := 7, kind := 3, nonmin := true, inter := 255, src := 16383, lane := 15, phase := 3, keyix := 3, flowSeq := 0xFFFFFFFF,
    pid := 2 ^ 32 - 1, pgen := 0xFFFFFFFF, gwPos := 63, gwPort := 31, tag := 0xFFFFFFFFFFFFFFFF, near := some widestRequest }

theorem widestRequest_fits : nearFits widestRequest := by
  unfold nearFits
  decide

/-- The round trip is about the fields' largest values too. -/
theorem widestNear_fits : fabFits widestNear := by
  have body : bodyFits widestNear := ⟨widestRequest, widestRequest_fits, rfl⟩
  unfold fabFits
  simp only [body, and_true]
  decide +kernel

/-- Settles O10: each field of the header reads back from its place, and the body opens by KIND. -/
theorem fabricPacketRoundTrip : Obligations.FabricPacketRoundTrip := by
  unfold Obligations.FabricPacketRoundTrip
  intro f fits
  have head := fabHeadOf_fabBytes fits
  obtain ⟨-, -, -, -, -, -, -, -, -, -, -, counter, plain, -, body⟩ := fits
  refine ⟨head, ?_⟩
  rw [head]
  exact fabOpen_fabBody counter plain body _

end Sys2Proof.Machine
end

/-! PROOFS. What the fabric brings (spec/09 R250-R259, spec/02 R47): a flow's receiving side after an update, what ingress drops, and how a packet
that is addressed here and in order reaches its unit. -/
section
namespace Sys2Proof.Machine

/-! ### The receiving side of a flow (R258) -/

@[simp] theorem findRx_key (s : State) (k : FlowKey) : (findRx s k).key = k := by
  rcases found : s.fab.rx.find? (fun t => t.key == k) with _ | t
  · rw [findRx, found]
    rfl
  · have key := List.find?_some found
    rw [findRx, found]
    exact eq_of_beq key

/-- A flow reads as it was set. -/
theorem findRx_setRx_same (s : State) {t : FlowRx} {k : FlowKey} (key : t.key = k) : findRx (setRx s t) k = t := by
  subst key
  have gone : (s.fab.rx.filter (fun u => !(u.key == t.key))).find? (fun u => u.key == t.key) = none := by
    rw [List.find?_eq_none]
    intro u hu
    simpa using (List.mem_filter.mp hu).2
  simp only [findRx, setRx, List.find?_append, gone, List.find?_cons, beq_self_eq_true, Option.none_or, Option.getD_some]

/-- Another flow is as it was. -/
theorem findRx_setRx_other (s : State) {t : FlowRx} {k : FlowKey} (other : k ≠ t.key) : findRx (setRx s t) k = findRx s k := by
  have apart : (t.key == k) = false := beq_eq_false_iff_ne.mpr other.symm
  have kept : (s.fab.rx.filter (fun u => !(u.key == t.key))).find? (fun u => u.key == k) = s.fab.rx.find? (fun u => u.key == k) := by
    rw [List.find?_filter]
    congr 1
    funext u
    rw [Bool.eq_iff_iff, decide_eq_true_iff]
    refine and_iff_right_of_imp (fun same => ?_)
    rw [eq_of_beq same, beq_eq_false_iff_ne.mpr other]
    rfl
  simp only [findRx, setRx, List.find?_append, kept, List.find?_cons, apart, List.find?_nil, Option.or_none]

/-! ### Ingress (R256, R258, R47) -/

/-- A packet for this module goes through R258's steps. -/
theorem fabArrive_own (dlv : FabPkt → State → State) {f : FabPkt} {s : State} (here : f.dst = ownModule s) :
    fabArrive dlv f s = receive dlv f s := if_pos here

/-- A KIND that does not travel on its virtual channel is discarded and counted. -/
theorem receive_badKind (dlv : FabPkt → State → State) {f : FabPkt} {s : State} (bad : kindOk f.kind f.vc = false) :
    receive dlv f s = { s with dev := { s.dev with fabBadKind := sat32 s.dev.fabBadKind } } := by
  simp only [receive, bad, Bool.not_false, if_true]

/-- A packet that is behind its flow is a duplicate, discarded and counted. -/
theorem receive_behind (dlv : FabPkt → State → State) {f : FabPkt} {s : State} (ok : kindOk f.kind f.vc = true)
    (behind : 2 ^ 31 ≤ (f.flowSeq - (findRx s (flowOf f)).expected).toNat) :
    receive dlv f s = { s with dev := { s.dev with fabDup := sat32 s.dev.fabDup } } := by
  have early : f.flowSeq ≠ (findRx s (flowOf f)).expected := by
    intro same
    rw [same, BitVec.sub_self] at behind
    exact absurd behind (by decide)
  simp only [receive, ok, early, behind, Bool.not_true, Bool.false_eq_true, if_false, if_true]

/-- A packet that is ahead of its flow is held. -/
theorem receive_ahead (dlv : FabPkt → State → State) {f : FabPkt} {s : State} (ok : kindOk f.kind f.vc = true)
    (gap : f.flowSeq ≠ (findRx s (flowOf f)).expected) (ahead : (f.flowSeq - (findRx s (flowOf f)).expected).toNat < 2 ^ 31) :
    receive dlv f s = setRx s { findRx s (flowOf f) with held := (findRx s (flowOf f)).held ++ [f] } := by
  simp only [receive, ok, gap, Nat.not_le.mpr ahead, Bool.not_true, Bool.false_eq_true, if_false]

/-- A message that fabric ingress drops has the effect of the drop alone. -/
theorem arrive_of_dropped (f hf : Handler) {s t : State} {p : Pkt} {mid pid pgen : Nat} (src : p.src = .fabric mid pid pgen)
    (ready : s.dev.phase = .ready) (drop : fabGate s pid pgen = .drop t) : arrive f hf p s = t := by
  simp only [arrive, src, ready, drop, ne_eq, not_true_eq_false, if_false]

theorem fabGate_orphan {s : State} {pid pgen : Nat} (ofPart : pid ≠ 0) (unknown : slotOfPid s pid = none) :
    fabGate s pid pgen = .drop (addOrphan s) := by
  simp only [fabGate, ofPart, unknown, if_false]

theorem fabGate_chaff {s : State} {pid pgen i : Nat} (ofPart : pid ≠ 0) (slot : slotOfPid s pid = some i)
    (stale : (getSlot s i).pgen ≠ BitVec.ofNat 32 pgen) : fabGate s pid pgen = .drop (addChaff s i) := by
  simp only [fabGate, ofPart, slot, stale, if_false]

/-- Settles O20: the branches of R258's steps and of R47's gate, one by one. -/
theorem fabricIngress : Obligations.FabricIngress := by
  unfold Obligations.FabricIngress
  refine ⟨?badKind, ?behind, ?ahead, ?gate⟩
  case badKind => exact fun s f here bad => (fabArrive_own deliver here).trans (receive_badKind deliver bad)
  case behind => exact fun s f here ok behind => (fabArrive_own deliver here).trans (receive_behind deliver ok behind)
  case ahead =>
    intro s f here ok gap ahead
    have held := (fabArrive_own deliver here).trans (receive_ahead deliver ok gap ahead)
    have key := findRx_key s (flowOf f)
    rw [held]
    refine ⟨rfl, ?_, fun k other => findRx_setRx_other s (fun same => other (same.trans key))⟩
    rw [findRx_setRx_same]
    exact key
  case gate =>
    intro f hf s p mid pid pgen src ofPart ready
    exact ⟨fun unknown => arrive_of_dropped f hf src ready (fabGate_orphan ofPart unknown),
      fun i slot stale => arrive_of_dropped f hf src ready (fabGate_chaff ofPart slot stale)⟩

end Sys2Proof.Machine
end

/-! PROOFS. Packets of the fabric that are taken (spec/09 R250-R259): one that is addressed here and in order reaches its unit by its KIND, a
gap is skipped, and a frame's control slot and flits are taken. -/
section
namespace Sys2Proof.Machine

/-- Only reads, writes and near-memory requests are refused for a fenced context. -/
theorem ingressFenced_of_kind {f : FabPkt} (u : State) (kind : f.kind ≠ 1 ∧ f.kind ≠ 2 ∧ f.kind ≠ 3) : ingressFenced u f = false := by
  obtain ⟨k1, k2, k3⟩ := kind
  simp only [ingressFenced, beq_eq_false_iff_ne.mpr k1, beq_eq_false_iff_ne.mpr k2, beq_eq_false_iff_ne.mpr k3, Bool.or_self, Bool.false_and]

/-- Settles O39: KIND by KIND, then gaps and frames. -/
theorem fabricPacketsComplete : Obligations.FabricPacketsComplete := by
  unfold Obligations.FabricPacketsComplete
  refine ⟨delivers_of (fun _ _ => rfl) ?command, delivers_of (fun _ _ => rfl) ?read, delivers_of (fun _ _ => rfl) ?readWindow,
    delivers_of (fun _ _ => rfl) ?write, delivers_of (fun _ _ => rfl) ?writeWindow, delivers_of (fun _ _ => rfl) ?near,
    delivers_of (fun _ _ => rfl) ?response, delivers_of (fun _ _ => rfl) ?mark, delivers_of (fun _ _ => rfl) ?markAck, ?gap, ?good, ?bad⟩
  case command =>
    rintro f u kind ⟨p, command, rxOk⟩
    have free := ingressFenced_of_kind u (f := f) (by omega)
    simp only [deliverTo, free, kind, command, rxOk, Bool.false_eq_true, if_false, if_true, Option.getD_some]
  case read =>
    rintro f u kind ⟨free, tkind, here⟩
    simp only [deliverTo, free, kind, tkind, here, Bool.false_eq_true, ne_eq, not_true_eq_false, if_false]
  case readWindow =>
    rintro f u kind ⟨free, tkind⟩
    simp only [deliverTo, free, kind, tkind, Bool.false_eq_true, if_false, if_true]
  case write =>
    rintro f u kind ⟨free, tkind, here⟩
    simp only [deliverTo, free, kind, tkind, here, Bool.false_eq_true, ne_eq, not_true_eq_false, if_false]
  case writeWindow =>
    rintro f u kind ⟨free, tkind⟩
    simp only [deliverTo, free, kind, tkind, Bool.false_eq_true, if_false, if_true]
  case near =>
    rintro f u kind ⟨free, carries⟩
    obtain ⟨r, request⟩ := Option.isSome_iff_exists.mp carries
    simp only [deliverTo, free, kind, request, Bool.false_eq_true, if_false]
  case response =>
    rintro f u kind ⟨o, found, fresh⟩
    have free := ingressFenced_of_kind u (f := f) (by omega)
    have still : staleAnswer { u with fab := { u.fab with outst := u.fab.outst.erase o } } o = false := fresh
    simp only [deliverTo, free, kind, takeResponse, found, still, Bool.false_eq_true, if_false]
  case mark =>
    rintro f u kind -
    have free := ingressFenced_of_kind u (f := f) (by omega)
    simp only [deliverTo, free, kind, Bool.false_eq_true, if_false]
  case markAck =>
    rintro f u kind -
    have free := ingressFenced_of_kind u (f := f) (by omega)
    simp only [deliverTo, free, kind, Bool.false_eq_true, if_false]
  case gap =>
    intro s flow d q first
    show Host.Outcome.next (gapSkip deliver flow s) = _
    simp only [gapSkip, first]
  case good =>
    intro s port f ready real up good
    have goes : ¬ (32 ≤ port ∨ (getPort s port).st ≠ 2) := by omega
    show execFrameReceive port f s = _
    simp only [execFrameReceive, ready, real, frameIn, goes, good, ne_eq, not_true_eq_false, Bool.not_true, Bool.false_eq_true, if_false, if_true]
  case bad =>
    intro s port f ready real up bad
    have goes : ¬ (32 ≤ port ∨ (getPort s port).st ≠ 2) := by omega
    show execFrameReceive port f s = _
    simp only [execFrameReceive, ready, real, frameIn, goes, bad, ne_eq, not_true_eq_false, Bool.not_false, if_false, if_true]

end Sys2Proof.Machine
end

/-! PROOFS. Ports, flows and keys (spec/09 R247-R249, R252, R259, R265, R267, R286, spec/11 R315, R323): how a training ends, what a retired lane
leaves of its port, and the timeouts. -/
section
namespace Sys2Proof.Machine

@[simp] theorem getPort_logNote (n : Note) (s : State) (q : Nat) : getPort (logNote n s) q = getPort s q := by
  rw [getPort, logNote_fab, getPort]

/-! ### Lanes (R248) -/

/-- The note of a lane that its port's spare replaces. -/
def laneNote (q lane : Nat) : Note :=
  if q < 32 then { cls := 0x0C, sev := 1, unitKind := 5, unit := 5 * q + lane, action := 2, half := halfOfPort q }
  else { cls := 0x0C, sev := 1, unitKind := 6, unit := q - 32, action := 2, half := q - 32 }

/-- The spare takes the place of a receiving lane. -/
theorem retireLane_rx {s : State} {q lane : Nat} (good : bitAt (getPort s q).badRx.toNat lane = false) (used : lane ≠ (getPort s q).spareRx)
    (spare : bitAt (getPort s q).badRx.toNat (getPort s q).spareRx = false) (free : 7 ≤ (getPort s q).spareReq) :
    retireLane s q lane true = logNote (laneNote q lane) (setPort s q { getPort s q with
      lanesOk := (getPort s q).lanesOk &&& ~~~ (BitVec.ofNat 9 (2 ^ lane)), spared := sat8 (getPort s q).spared,
      badRx := (getPort s q).badRx ||| BitVec.ofNat 9 (2 ^ lane), spareReq := lane }) := by
  simp only [retireLane, good, used, spare, Nat.not_lt.mpr free, decide_false, Bool.and_false, Bool.or_self, Bool.false_eq_true, if_false,
    if_true, laneNote]

/-- The spare takes the place of a sending lane. -/
theorem retireLane_tx {s : State} {q lane : Nat} (good : bitAt (getPort s q).badTx.toNat lane = false) (used : lane ≠ (getPort s q).spareTx)
    (spare : bitAt (getPort s q).badTx.toNat (getPort s q).spareTx = false) :
    retireLane s q lane false = logNote (laneNote q lane) (setPort s q { getPort s q with
      lanesOk := (getPort s q).lanesOk &&& ~~~ (BitVec.ofNat 9 (2 ^ lane)), spared := sat8 (getPort s q).spared,
      badTx := (getPort s q).badTx ||| BitVec.ofNat 9 (2 ^ lane), spareTx := lane }) := by
  simp only [retireLane, good, used, spare, Bool.false_and, Bool.or_self, Bool.false_eq_true, if_false, laneNote]

theorem exec_laneRetire {s : State} {port lane : Nat} {rx : Bool} (real : port < 34) (lanes : lane < laneCount port)
    (up : linkUp s port = true) : exec (.laneRetire port lane rx) s = .next (retireLane s port lane rx) := by
  have goes : ¬ (34 ≤ port ∨ laneCount port ≤ lane ∨ (!linkUp s port) = true) := by
    rw [up]
    simp only [Bool.not_true, Bool.false_eq_true, or_false, not_or]
    omega
  exact if_neg goes

/-- Settles O40, row by row: none of a row's checks finds anything, and what is left is its effect. -/
theorem fabricLinksComplete : Obligations.FabricLinksComplete := by
  unfold Obligations.FabricLinksComplete
  refine ⟨?replay, ?train, ?haldip, ?miswired, ?receive, ?send, ?down, ?haldipDown, ?reevaluate, ?response, fun _ => rfl, ?rotate, ?wait⟩
  case replay =>
    intro s port real up kept
    have goes : ¬ (34 ≤ port ∨ (!linkUp s port) = true ∨ (getPort s port).kept.isEmpty = true) := by
      rw [up, List.isEmpty_eq_false_iff.mpr kept]
      simp only [Bool.not_true, Bool.false_eq_true, or_false]
      omega
    exact if_neg goes
  case train =>
    intro s port r real enabled ready down on
    have trains : (!portEnabled (getPort s port) || decide (unitSt s ⟨4, port⟩ ≠ .ready) || decide ((getPort s port).st = 2)
        || halfOff s (halfOfPort port)) = false := by
      rw [enabled, ready, decide_eq_false down, on]
      rfl
    refine ⟨fun inTime lanes peer first => ?_, fun inTime lanes peer => ?_, fun inTime few => ?_, fun late before => ?_⟩
    all_goals
      show execPortTrain port r s = _
      simp only [execPortTrain, Nat.not_le.mpr real, trains, Bool.false_eq_true, if_false]
    · simp only [inTime, lanes, peer, first, Bool.not_true, Bool.false_eq_true, if_false]
      rfl
    · simp only [inTime, lanes, peer, Bool.not_true, Bool.not_false, Bool.false_eq_true, if_false, if_true]
    · simp only [inTime, few, Bool.not_true, Bool.false_eq_true, if_false, if_true]
    · simp only [late, Bool.or_eq_true, before, Bool.not_false, if_true]
  case haldip =>
    intro s h r real ready on inTime lanes
    show execPortTrain (32 + h) r s = _
    have two : 32 + h < 34 := by omega
    simp only [execPortTrain, haldipTrain, Nat.le_add_right, two, Nat.add_sub_cancel_left, ready, on, inTime, lanes, if_true, ne_eq,
      not_true_eq_false, Bool.false_eq_true, or_self, Bool.not_true, Bool.false_and, Bool.and_false, Bool.or_self, if_false]
  case miswired =>
    intro s port st enabled
    have goes : ¬ ((getPort s port).st ≠ 4 ∨ (!portEnabled (getPort s port)) = true) := by
      rw [st, enabled]
      decide
    exact if_neg goes
  case receive =>
    intro s port lane real lanes up good used spare free
    refine ⟨_, exec_laneRetire real lanes up, ?_⟩
    rw [retireLane_rx good used spare free, getPort_logNote, getPort_setPort_same]
    exact ⟨rfl, rfl, rfl, rfl⟩
  case send =>
    intro s port lane real lanes up good used spare
    refine ⟨_, exec_laneRetire real lanes up, ?_⟩
    rw [retireLane_tx good used spare, getPort_logNote, getPort_setPort_same]
    exact ⟨rfl, rfl, rfl, rfl⟩
  case down =>
    intro s port real on up
    show execPortDown port s = _
    simp only [execPortDown, portDown, Nat.not_le.mpr real, on, up, if_false]
  case haldipDown =>
    intro s h real
    have two : 32 + h < 34 := by omega
    show execPortDown (32 + h) s = _
    simp only [execPortDown, Nat.le_add_right, two, if_true, Nat.add_sub_cancel_left]
  case reevaluate =>
    intro s flow t o p tx waits unmarked single path other
    have goes : ¬ (t.marker.isSome = true ∨ o.pkt.kind = 5) := by
      rw [unmarked]
      simp only [Option.isSome_none, Bool.false_eq_true, false_or, single, not_false_eq_true]
    have moves : ¬ (p.port = t.port ∧ p.gw = (t.gwPos, t.gwPort) ∧ p.inter = t.inter) := by
      rwa [not_and_or, not_and_or]
    show execPathReevaluate flow s = _
    simp only [execPathReevaluate, tx, waits, goes, path, moves, if_false]
  case response =>
    intro s tag o found core run
    show execRemoteResponseTimeout tag s = _
    simp only [execRemoteResponseTimeout, found]
    split
    next t who => exact absurd who (core t).1
    next t who => exact absurd who (core t).2
    next r who => exact absurd who (run r).1
    next r who => exact absurd who (run r).2
    rfl
  case rotate =>
    intro s slot peer keyix k found long free
    have goes : ¬ (k.sent < 2 ^ 39 ∨ (keysOf s slot peer).length = 4) := by omega
    show execLinkKeyRotate slot peer keyix s = _
    simp only [execLinkKeyRotate, found, goes, if_false]
  case wait =>
    intro s slot peer waits
    show execLinkKeyWaitTimeout slot peer s = _
    simp only [execLinkKeyWaitTimeout, waits, Bool.not_true, Bool.false_eq_true, if_false]

end Sys2Proof.Machine
end

/-! PROOFS. Collectives (spec/09 R274, R278-R283): a message of another rank as it is taken from those under way, and the rows that begin,
carry on and end a turn. -/
section
namespace Sys2Proof.Machine

/-- A message that is taken is under way no more. -/
def tookMsg (s : State) (m : CollMsg) : State := { s with fab := { s.fab with collMsgs := s.fab.collMsgs.erase m } }

theorem tookMsg_eq (s : State) (m : CollMsg) : tookMsg s m = { s with fab := { s.fab with collMsgs := s.fab.collMsgs.erase m } } := rfl

@[simp] theorem getStream_tookMsg (s : State) (m : CollMsg) (n : Nat) : getStream (tookMsg s m) n = getStream s n := rfl
@[simp] theorem farRank_tookMsg (s : State) (m : CollMsg) (c : Coll) : farRank (tookMsg s m) c = farRank s c := rfl

/-- A message of a collective that the stream has not under way (R278, R283). -/
def NotUnderWay (x : Stream) (gid sq : Nat) : Prop := ∀ c, x.cur = some c → ¬ (c.groupId = gid ∧ c.seq = sq)

/-! ### Announcements (R278) -/

theorem exec_collAnnounce_taken {s : State} {n rank gid sq : Nat} {crc : W32} {c : Coll} (on : (getStream s n).st = 1)
    (cur : (getStream s n).cur = some c) (group : c.groupId = gid) (seq : c.seq = sq)
    (sent : (s.fab.collMsgs.contains (.announce n rank gid sq crc) || farRank s c rank) = true) :
    exec (.collAnnounce n rank ⟨gid, sq⟩ crc) s = .next (takeAnnounce (tookMsg s (.announce n rank gid sq crc)) n rank crc) := by
  show execCollAnnounce n rank ⟨gid, sq⟩ crc s = _
  simp only [execCollAnnounce, ← tookMsg_eq, getStream_tookMsg, farRank_tookMsg, on, cur, group, seq, sent, ne_eq, not_true_eq_false, and_self,
    if_false, if_true]

theorem exec_collAnnounce_early {s : State} {n rank gid sq : Nat} {crc : W32} (on : (getStream s n).st = 1)
    (other : NotUnderWay (getStream s n) gid sq) :
    exec (.collAnnounce n rank ⟨gid, sq⟩ crc) s = .next (setStream (tookMsg s (.announce n rank gid sq crc)) n
      { getStream s n with early := (getStream s n).early ++ [(rank, gid, sq, crc)] }) := by
  show execCollAnnounce n rank ⟨gid, sq⟩ crc s = _
  simp only [execCollAnnounce, ← tookMsg_eq, getStream_tookMsg, on, ne_eq, not_true_eq_false, if_false]
  rcases cur : (getStream s n).cur with _ | c
  · rfl
  · simp only [other c cur, if_false]

theorem takeAnnounce_same {s : State} {n rank : Nat} {c : Coll} (cur : (getStream s n).cur = some c) :
    takeAnnounce s n rank c.crc = collAdvance (setStream s n { getStream s n with
      cur := some { c with announced := (c.announced ++ [rank]).eraseDups } }) n := by
  simp only [takeAnnounce, cur, ne_eq, not_true_eq_false, if_false]

theorem takeAnnounce_differs {s : State} {n rank : Nat} {crc : W32} {c : Coll} (cur : (getStream s n).cur = some c) (differs : crc ≠ c.crc) :
    takeAnnounce s n rank crc = collStop (loseStatus (getStream s n).ctx stLost (halfOfStream n) s) n c stLost stLost := by
  simp only [takeAnnounce, cur, differs, ne_eq, not_false_eq_true, if_true]

/-! ### Segments (R279) -/

theorem exec_coll_taken {s : State} {n rank gid sq off : Nat} {data : List Byte} {c : Coll} (cur : (getStream s n).cur = some c)
    (group : c.groupId = gid) (seq : c.seq = sq)
    (sent : (s.fab.collMsgs.contains (.seg n gid sq rank off data) || farRank s c rank) = true) (sender : (sendersOf c).contains rank = true)
    (new : c.contrib.any (fun e => e.1 == rank && e.2.1 == off) = false) {c' : Coll}
    (hc : c' = { c with contrib := c.contrib ++ [(rank, off, data)] }) :
    exec (.coll n rank ⟨⟨gid, sq⟩, off⟩ data) s = .next (giveGrants (collAdvance (setStream (tookMsg s (.seg n gid sq rank off data)) n
      { getStream s n with cur := some (if (gotFrom c' rank).isSome then { c' with arrived := c'.arrived ++ [rank] } else c') }) n) n) := by
  subst hc
  show execColl n rank ⟨⟨gid, sq⟩, off⟩ data s = _
  simp only [execColl, ← tookMsg_eq, getStream_tookMsg, farRank_tookMsg, cur, group, seq, sent, sender, new, ne_eq, not_true_eq_false, decide_false,
    Bool.not_true, Bool.or_self, Bool.false_eq_true, if_false]

/-! ### Aborts (R283) -/

theorem exec_collAbort_taken {s : State} {n gid sq status : Nat} {c : Coll} (cur : (getStream s n).cur = some c) (group : c.groupId = gid)
    (seq : c.seq = sq) (sent : (s.fab.collMsgs.contains (.abort n gid sq status) || (othersOf c).any (farRank s c)) = true) :
    exec (.collAbort n ⟨⟨gid, sq⟩, status⟩) s = .next (abortTurn (tookMsg s (.abort n gid sq status)) n status) := by
  show execCollAbort n ⟨⟨gid, sq⟩, status⟩ s = _
  simp only [execCollAbort, ← tookMsg_eq, getStream_tookMsg, farRank_tookMsg, cur, group, seq, sent, and_self, if_true]

theorem exec_collAbort_early {s : State} {n gid sq status : Nat} (on : (getStream s n).st = 1) (other : NotUnderWay (getStream s n) gid sq)
    (unended : tabGet (fun _ => none) (getStream s n).ended gid ≠ some sq) :
    exec (.collAbort n ⟨⟨gid, sq⟩, status⟩) s = .next (setStream (tookMsg s (.abort n gid sq status)) n
      { getStream s n with aborts := (getStream s n).aborts ++ [(gid, sq, status)] }) := by
  show execCollAbort n ⟨⟨gid, sq⟩, status⟩ s = _
  simp only [execCollAbort, ← tookMsg_eq, getStream_tookMsg, on, unended, ne_eq, not_true_eq_false, or_self, if_false]
  rcases cur : (getStream s n).cur with _ | c
  · rfl
  · simp only [other c cur, if_false]

/-- Settles O52, row by row. -/
theorem collectiveCommandsComplete : Obligations.CollectiveCommandsComplete := by
  unfold Obligations.CollectiveCommandsComplete
  refine ⟨?start, ?announce, fun s n rank gid sq crc on other => exec_collAnnounce_early on other, ?segment, ?complete,
    fun s n gid sq status c cur group seq sent => exec_collAbort_taken cur group seq sent,
    fun s n gid sq status on other unended => exec_collAbort_early on other unended, ?timeout⟩
  case start =>
    intro s n d s1 tab s2 s3 l s4 on ready idle half desc group
    dsimp only
    intro fields sizes root rank member buffers send
    have goes : ¬ ((getStream s n).st ≠ 1 ∨ (!(getStream s n).ready) = true ∨ (getStream s n).cur.isSome = true
        ∨ halfOff s (halfOfStream n) = true) := by
      rw [on, ready, idle, half]
      decide
    show execCollDescriptorStart n s = _
    simp only [execCollDescriptorStart, goes, desc, group, fields, sizes, Nat.not_le.mpr root, Nat.not_le.mpr rank, member, buffers, send, ne_eq,
      not_true_eq_false, decide_false, Bool.not_true, Bool.or_self, Bool.false_eq_true, if_false]
  case announce =>
    intro s n rank gid sq crc c on cur group seq sent
    have took := exec_collAnnounce_taken on cur group seq sent
    refine ⟨?_, fun differs => took.trans (congrArg _ (takeAnnounce_differs cur differs))⟩
    rintro rfl
    exact took.trans (congrArg _ (takeAnnounce_same cur))
  case segment =>
    intro s n rank gid sq off data c cur group seq sent sender new
    exact exec_coll_taken cur group seq sent sender new rfl
  case complete =>
    intro s n c cur done half
    have goes : ¬ ((!collDone c) = true ∨ halfOff s (halfOfStream n) = true) := by
      rw [done, half]
      decide
    refine ⟨fun waits => ?_, fun written => ?_⟩
    · show execCollComplete n s = _
      simp only [execCollComplete, cur, goes, if_false]
      exact if_pos waits
    · show execCollComplete n s = _
      simp only [execCollComplete, cur, goes, if_false]
      exact if_neg (Bool.eq_false_iff.mp written)
  case timeout =>
    intro s n c cur timed waits
    have goes : ¬ ((getStream s n).timeout = 0 ∨ (!((exchangeOf c).any (fun r => !c.announced.contains r)
        || (sendersOf c).any (fun r => (gotFrom c r).isNone))) = true) := by
      rw [waits]
      simpa using timed
    show execCollTimeout n s = _
    simp only [execCollTimeout, cur, goes, if_false, collAbort]

end Sys2Proof.Machine
end

/-! PROOFS. KV epochs (spec/10 R289-R294): a list, its descriptors and its spans pass, no conflict or want of room stands, and what is left
is the records and the descriptors. -/
section
namespace Sys2Proof.Machine

/-! ### KVCOMMIT and KVROLLBACK (R293, R294) -/

/-- What a close leaves of the state: the discarded slots are zeroed, the records closed, and the close counted. -/
def kvClosed (commit : Bool) (s : State) (zs : List (Nat × Nat)) (recs : List (KvDesc × KvRec × Nat)) : State :=
  let t := recs.foldl (fun s e => kvCloseOne commit s e.1 e.2.1 e.2.2) (zeroAll s zs)
  { t with seq := { t.seq with
    kvCommits := if commit then t.seq.kvCommits + 1 else t.seq.kvCommits,
    kvRollbacks := if commit then t.seq.kvRollbacks else t.seq.kvRollbacks + 1 } }

/-- A close whose list, spans, records and room pass goes through: `recs` are its descriptors with the records found on them and the slots
of each tail that are kept. -/
theorem kvClose_passes {commit : Bool} {s u1 u2 u3 u4 u5 : State} {r : Nat} {x : Run} {w : SeqW} {es : List KvEnt} {ds : List KvDesc}
    {recs : List (KvDesc × KvRec × Nat)} {zs : List (Nat × Nat)} {d : List Byte} (list : kvList s r x (sGet x w.a).toNat = .ok es u1)
    (descs : kvCloseDescs r x es [] u1 = .ok ds u2)
    (spans : kvSpans r x (((sGet x w.a).toNat, 16 + 16 * es.length) :: ds.map (fun d => (d.va, 64))) u2 = (none, u3))
    (records : ds.filterMap (fun d => (kvRecOf u3 d.fpa).map (fun k => (d, k, if commit then d.accept else 0))) = recs)
    (found : recs.length = ds.length)
    (own : recs.any (fun e => e.2.1.ctx != x.ctx || e.2.1.cgen != x.cgen || e.2.1.epoch != sGet x w.b) = false)
    (within : recs.any (fun e => decide (e.2.1.tail < e.2.2)) = false) (zeros : closeZeros r x recs [] u3 = (some zs, u4))
    (room : zeroRoom u4 zs = true) (met : kvMeet r x ds u4 = .ok d u5) :
    kvClose commit s r x w = putRun (kvClosed commit u5 zs recs) r (sSet x.next w.d 0) := by
  simp only [kvClose, list, descs, spans, records, found, own, within, zeros, room, met, Bool.not_true, Bool.false_eq_true, ne_eq,
    not_true_eq_false, or_self, if_false]
  rfl

/-- Each of the two closes of a run whose kernels and COPYs have ended is carried out at its turn. -/
theorem exec_kvClose {commit : Bool} {s : State} {r : Nat} {x : Run} {w : SeqW} (issues : RunAt s r x w)
    (op : w.op = if commit then 0x41 else 0x42) (idle : groupsIdle x 255 = true) :
    exec (if commit then .kvcommit r else .kvrollback r) s
      = .next (wakeAll (settleGuess (kvClose commit (takeTurn s r x) r { x with wait := .none, ahead := false } w) r x.pc w)) := by
  have start : kvCloseStart commit r { x with wait := .none, ahead := false } w (takeTurn s r x)
      = kvClose commit (takeTurn s r x) r { x with wait := .none, ahead := false } w := if_pos idle
  rw [← start]
  cases commit with
  | true => exact congrArg _ (seqIssue_of issues op)
  | false => exact congrArg _ (seqIssue_of issues op)

/-- Settles O35: an open and a close pass their checks one by one, and what is left is the effect. When a controller has room for a close
that takes more zero extents than it can hold is the model's choice (notes/assumptions/49.md). -/
theorem kvInstructionsComplete : Obligations.KvInstructionsComplete := by
  unfold Obligations.KvInstructionsComplete
  refine ⟨?opens, ?closes⟩
  case opens =>
    intro s r x w es ds u1 u2 u3 issues op
    dsimp only
    intro list descs epoch spans agree room
    refine congrArg Host.Outcome.next ((seqIssue_of issues op).trans ?_)
    have value (n : Nat) : sGet { x with wait := .none, ahead := false } n = sGet x n := rfl
    simp only [value, list, descs, epoch, spans, agree, room, Bool.false_eq_true, if_false]
  case closes =>
    intro s r x w es ds u1 u2 u3 zs u4 d u5 commit issues op idle
    dsimp only
    intro list descs spans found own within zeros room met
    rw [exec_kvClose issues op idle, kvClose_passes list descs spans rfl found own within zeros room met]
    rfl

end Sys2Proof.Machine
end

/-! PROOFS. Core faults and winnow replay (spec/11 R311, R312, R316, R317, spec/05 R122, R124): what a core's word of the opcode map is carried
out as, and the verdicts that end a sample. -/
section
namespace Sys2Proof.Machine

/-! ### Words of the opcode map (R122, R124) -/

/-- An entry of the opcode map with the meaning of the command that it spells. -/
def opMeaning (e : Nat × (TenRef → BitVec 56 → Instr)) : Nat × Meaning := (e.1, fun t w => exec (e.2 t w))

theorem scalarRuns_eq : scalarRuns = scalarOps.map opMeaning := rfl
theorem vectorRuns_eq : vectorRuns = vectorOps.map opMeaning := rfl
theorem matrixRuns_eq : matrixRuns = matrixOps.map opMeaning := rfl
theorem dataRuns_eq : dataRuns = dataOps.map opMeaning := rfl

/-- Each opcode of the map runs as the command that it spells. -/
theorem coreRuns_eq : coreRuns = coreOps.map opMeaning := by
  rw [coreRuns, scalarRuns_eq, vectorRuns_eq, matrixRuns_eq, dataRuns_eq, coreOps, List.map_append, List.map_append, List.map_append]

/-- A whole word is carried out as the command that it spells. -/
theorem exec_coreNop_of_decodes {t : TenRef} {w : W64} {i : Instr} (spells : decodeCore t w = some i) (op : coreOpcode w ≠ 0) (s : State) :
    exec (.coreNop t w) s = exec i s := by
  rw [decodeCore, if_neg op, Option.map_eq_some_iff] at spells
  obtain ⟨e, found, rfl⟩ := spells
  have run : coreRuns.find? (fun e => e.1 == coreOpcode w) = some (opMeaning e) := by
    rw [coreRuns_eq, List.find?_map]
    exact congrArg (Option.map opMeaning) found
  show execCoreNop t w s = _
  rw [execCoreNop, run]
  rfl

/-! ### The third execution (R317) -/

theorem thirdRun_of_spare {s u : State} {x : Ten} {d : Nat}
    (pick : pickOne ((idleSpares s (halfOfCore x.core)).filter (fun c => scrubbedFor s c x.ctx)) s = (some d, u)) :
    thirdRun s x = (some d, useSpare u d x.ctx) := by
  unfold thirdRun
  rw [pick]

theorem thirdRun_of_none {s u : State} {x : Ten}
    (pick : pickOne ((idleSpares s (halfOfCore x.core)).filter (fun c => scrubbedFor s c x.ctx)) s = (none, u)) :
    thirdRun s x = (none, u) := by
  unfold thirdRun
  rw [pick]

/-- Settles O31: what a failed core leaves and the verdicts that end a sample, case by case; a word of the opcode map through its entry. That
the verdicts are operands of their commands is the model's reading (notes/assumptions/16.md). -/
theorem coreFaultsComplete : Obligations.CoreFaultsComplete := by
  unfold Obligations.CoreFaultsComplete
  refine ⟨fun s core l _ => rfl, ?spare, ?verdict, ?third, ?alone,
    fun s t w i spells op => exec_coreNop_of_decodes spells op s⟩
  case spare =>
    intro s core ready
    dsimp only
    intro spare
    show Host.Outcome.next (coreFails s core [] true) = _
    simp only [coreFails, ready, ne_eq, not_true_eq_false, if_false, List.foldl_nil, spare, if_true]
  case verdict =>
    intro s t x k r found sample held first
    refine ⟨?same, ?differ⟩
    case same =>
      show execWinnowVerdict t true s = _
      simp only [execWinnowVerdict, found, sample, held, first, releaseHeld, Bool.false_eq_true, if_false, if_true]
    case differ =>
      show execWinnowVerdict t false s = _
      simp only [execWinnowVerdict, found, sample, held, first, Bool.false_eq_true, if_false]
  case third =>
    intro s t x k d u found sample second pick
    have go (v : ThirdVerdict) : exec (.winnowThirdVerdict t v) s = execWinnowThirdVerdict t v s := rfl
    simp only [go, execWinnowThirdVerdict, found, sample, second, thirdRun_of_spare pick, Bool.not_true, Bool.false_eq_true, if_false,
      implies_true, and_self]
  case alone =>
    intro s t x k v u found sample second pick
    show execWinnowThirdVerdict t v s = _
    simp only [execWinnowThirdVerdict, found, sample, second, thirdRun_of_none pick, Bool.not_true, Bool.false_eq_true, if_false]

end Sys2Proof.Machine
end

/-! PROOFS. Power loops and heat (spec/12 R339, R340, R342-R348, R350, R351, spec/11 R306): status reads of the rails, the clock's loop, budgets,
and the temperatures as read. -/
section
namespace Sys2Proof.Machine

/-! ### Rails (R306, R339) -/

@[simp] theorem phaseShed_of_none (s : State) (half rail : Nat) : phaseShed s half rail false = s := rfl

/-- What follows a rail that is reached: in a thaw VCORE follows VSRAM, and VSERDES VCORE (R337). -/
def railsAfter (half rail kind : Nat) : List Avs :=
  if kind = 2 ∧ rail = 1 then [{ half := half, rail := 0, tries := 0, kind := 2 }]
  else if kind = 2 ∧ rail = 0 then [{ half := half, rail := 2, tries := 0, kind := 2 }] else []

/-- A rail that is reached waits no more. -/
theorem exec_avsStatusPoll_reached {s : State} {half rail : Nat} {a : Avs} (steady : s.res.takeover = false)
    (found : s.pwr.avs.find? (fun a => a.half == half && a.rail == rail) = some a) (level : a.kind ≠ 1) :
    exec (.avsStatusPoll half rail ⟨true, false⟩) s = .next { s with pwr := { s.pwr with
      avs := s.pwr.avs.erase a ++ railsAfter half rail a.kind } } := by
  show execAvsStatusPoll half rail ⟨true, false⟩ s = _
  unfold execAvsStatusPoll
  simp only [phaseShed_of_none, found, steady, level, false_and, Bool.not_true, Bool.or_self, Bool.false_eq_true, if_false]
  rfl

/-- The last rise that waits is reached, and the clock goes up (R340). -/
theorem exec_avsStatusPoll_rose {s : State} {half rail : Nat} {a : Avs} (steady : s.res.takeover = false)
    (found : s.pwr.avs.find? (fun a => a.half == half && a.rail == rail) = some a) (rise : a.kind = 1)
    (last : (s.pwr.avs.erase a).any (fun b => b.kind == 1) = false) :
    exec (.avsStatusPoll half rail ⟨true, false⟩) s = .next { s with pwr := { s.pwr with
      avs := s.pwr.avs.erase a, cur := BitVec.ofNat 12 (min (fmaxEff s) (s.pwr.cur.toNat + 100)) } } := by
  show execAvsStatusPoll half rail ⟨true, false⟩ s = _
  have two : (1 : Nat) ≠ 2 := by decide
  unfold execAvsStatusPoll
  simp only [phaseShed_of_none, found, steady, rise, last, two, false_and, List.append_nil, Bool.not_true, Bool.not_false, Bool.or_self,
    Bool.false_eq_true, and_self, if_false, if_true]
  rfl

/-- A rail that is not reached goes on waiting. -/
theorem exec_avsStatusPoll_unreached (s : State) (half rail : Nat) : exec (.avsStatusPoll half rail ⟨false, false⟩) s = .next s := by
  show execAvsStatusPoll half rail ⟨false, false⟩ s = _
  unfold execAvsStatusPoll
  rw [phaseShed_of_none]
  dsimp only
  split
  · rfl
  · rfl

/-- A status read that shows a shed phase is the record of it, then a read that shows none. -/
theorem exec_avsStatusPoll_shed (s : State) (half rail : Nat) (reached : Bool) :
    exec (.avsStatusPoll half rail ⟨reached, true⟩) s = exec (.avsStatusPoll half rail ⟨reached, false⟩) (phaseShed s half rail true) := rfl

/-! ### The clock's loop (R344) -/

theorem clockDown_cur {s : State} (fast : 400 < s.pwr.cur.toNat) :
    (clockDown s).pwr.cur = BitVec.ofNat 12 (max 400 (s.pwr.cur.toNat - 100)) := by
  obtain ⟨l, e⟩ := clockDown_eq s
  rw [e]
  exact if_neg (Nat.not_le.mpr fast)

/-- A step down changes nothing of the power state but the clock and the rails that wait. -/
theorem clockDown_keeps {α : Type} (f : Pwr → α) (keeps : ∀ p l c, f { p with avs := l, cur := c } = f p) (s : State) :
    f (clockDown s).pwr = f s.pwr := by
  obtain ⟨l, e⟩ := clockDown_eq s
  rw [e]
  exact keeps _ _ _

theorem clockDown_ite_keeps {α : Type} (f : Pwr → α) (keeps : ∀ p l c, f { p with avs := l, cur := c } = f p) {down : Prop} [Decidable down]
    (s : State) : f (if down then clockDown s else s).pwr = f s.pwr := by
  split
  · exact clockDown_keeps f keeps s
  · rfl

/-- A module that is READY and not stopped goes on with its loops. -/
theorem not_unready_or_stopped {s : State} (ready : s.dev.phase = .ready) (on : powerStopped s = false) :
    ¬ (s.dev.phase ≠ .ready ∨ powerStopped s = true) := by
  rw [ready, on]
  decide

/-! ### Budgets (R348) -/

/-- Where the member that is most often late is so no more often than the least late one, every member is told the offset that it has. -/
theorem exec_shiftTick_even {s : State} {slot : Nat} (st : 2 ≤ (getSlot s slot).st) (bound : (getSlot s slot).bound = true)
    (lead : leadFor s slot = ownModule s) {l : List (Nat × Nat)}
    (late : (membersOf s slot).map (fun m => (m, ((getSlot s slot).lastRank.filter (fun e => e.2.2 == m)).length)) = l)
    (even : ∀ r d, mostLate l = some r → leastLate l = some d → r.2 ≤ d.2) :
    exec (.shiftTick slot) s = .next ((membersOf s slot).foldl (fun u m => tellBudget u slot m 9 (offsetOf u slot m))
      (setSlot s slot { getSlot s slot with lastRank := [] })) := by
  have goes : ¬ ((getSlot s slot).st < 2 ∨ (!(getSlot s slot).bound) = true ∨ leadFor s slot ≠ ownModule s) := by
    rw [bound, lead]
    simp only [Bool.not_true, Bool.false_eq_true, ne_eq, not_true_eq_false, or_self, or_false]
    omega
  show execShiftTick slot s = _
  unfold execShiftTick
  rw [if_neg goes]
  dsimp only
  rw [late]
  split
  next => rfl
  next d r moved =>
    split at moved
    next r' d' most least =>
      have stays := Nat.not_lt.mpr (even r' d' most least)
      simp only [stays, false_and, if_false, reduceCtorEq] at moved
    next => cases moved

/-! ### Heat (R350) -/

/-- A sensor reads as it was read, where it is powered. -/
theorem tempOf_readTemps (s : State) (temps : List Int) {n : Nat} (real : n < 50) :
    tempOf (readTemps s temps) n = if halfOff s (halfOfSensor n) then none else some (temps.getD n 0) := by
  have read : tabGet (fun _ => 0) (readTemps s temps).pwr.temps n = if halfOff s (halfOfSensor n) then 0 else temps.getD n 0 := by
    have e := tabGet_sparse (fun n => if halfOff s (halfOfSensor n) then 0 else temps.getD n 0) 50 0 n
    rw [← List.range_eq_range', if_pos (by omega)] at e
    exact e
  show (if halfOff s (halfOfSensor n) then none else some (tabGet (fun _ => 0) (readTemps s temps).pwr.temps n)) = _
  rw [read]
  split
  · rfl
  · rfl

/-- The record of a module that becomes too hot. -/
def alertNoted (s : State) : State := if s.dev.thermAlert then s else logNote { cls := 0x12, sev := 0, unitKind := 11 } s

theorem alertNoted_pwr (s : State) : (alertNoted s).pwr = s.pwr := by
  unfold alertNoted
  split
  · rfl
  · exact logNote_pwr _ s

/-- What a tick makes of the temperatures as read while the module is READY and not stopped. -/
theorem exec_thermalTick_of_on {s : State} {temps : List Int} (ready : s.dev.phase = .ready) (on : powerStopped s = false) {u : State}
    (read : readTemps s temps = u) :
    exec (.thermalTick temps) s = .next (
      if anyAt u (throttleEff s) 85 then
        { alertNoted u with dev := { (alertNoted u).dev with thermAlert := true },
                            pwr := { (alertNoted u).pwr with reduction := min (2 ^ 32 - 1) ((alertNoted u).pwr.reduction + 50000) } }
      else if allCool u then
        { u with dev := { u.dev with thermAlert := decide (0 < u.pwr.reduction - 50000) },
                 pwr := { u.pwr with reduction := u.pwr.reduction - 50000 } }
      else u) := by
  subst read
  have still : powerStopped (readTemps s temps) = false := on
  have limit : throttleEff (readTemps s temps) = throttleEff s := rfl
  show execThermalTick temps s = _
  simp only [execThermalTick, ready, still, limit, ne_eq, not_true_eq_false, Bool.false_eq_true, if_false]
  cases anyAt (readTemps s temps) (throttleEff s) 85 with
  | true => rfl
  | false => cases allCool (readTemps s temps) <;> rfl

/-- Settles O57, command by command. That D is the duty in force in the window, and that a DENSE phase's clock is the one at which it ended, are
deduced (notes/assumptions/42.md). -/
theorem powerLoopsComplete : Obligations.PowerLoopsComplete := by
  unfold Obligations.PowerLoopsComplete
  refine ⟨?poll, ?timeout, ?duty, ?frequency, ?squall, fun _ _ => rfl, ?telemetry, ?hint, ?start, fun _ => rfl, ?shift, ?budget,
    fun _ _ => rfl, fun _ => rfl, ?heat, fun s ready => if_neg (not_not_intro ready), fun s ready => if_neg (not_not_intro ready),
    exec_avsStatusPoll_shed, ?shed⟩
  case poll =>
    intro s half rail a steady found
    refine ⟨fun kind => ?_, fun kind last => exec_avsStatusPoll_rose steady found kind last, fun kind vsram => ?_, fun kind vcore => ?_,
      fun kind vserdes => ?_, exec_avsStatusPoll_unreached s half rail⟩
    · rw [exec_avsStatusPoll_reached steady found (by omega), railsAfter, if_neg (by omega), if_neg (by omega), List.append_nil]
    · rw [exec_avsStatusPoll_reached steady found (by omega), railsAfter, if_pos ⟨kind, vsram⟩]
    · rw [exec_avsStatusPoll_reached steady found (by omega), railsAfter, if_neg (by omega), if_pos ⟨kind, vcore⟩]
    · rw [exec_avsStatusPoll_reached steady found (by omega), railsAfter, if_neg (by omega), if_neg (by omega), List.append_nil]
  case timeout =>
    intro s half rail a real rails ready found
    have goes : ¬ (2 ≤ half ∨ 4 ≤ rail ∨ s.dev.phase ≠ .ready) := by
      rw [ready]
      simp only [ne_eq, not_true_eq_false, or_false]
      omega
    refine ⟨fun again => ?_, fun lost => ?_⟩
    · show execAvsTimeout half rail s = _
      simp only [execAvsTimeout, goes, found, again, if_false, if_true]
    · show execAvsTimeout half rail s = _
      simp only [execAvsTimeout, goes, found, Nat.not_lt.mpr lost, if_false]
  case duty =>
    intro s est tcur ready on
    show ∃ t, execDutyWindow est tcur s = .next t ∧ _
    unfold execDutyWindow
    rw [if_neg (not_unready_or_stopped ready on)]
    refine ⟨_, rfl, ?_, ?_, fun calm => ?_, fun full above fast => ?_⟩
    · exact clockDown_ite_keeps Pwr.duty (fun _ _ _ => rfl) _
    · exact clockDown_ite_keeps Pwr.est (fun _ _ _ => rfl) _
    · rw [if_neg (by omega)]
    · rw [if_pos ⟨full, above⟩]
      exact clockDown_cur fast
  case frequency =>
    intro s ready on windows high fast
    show ∃ t, execFreqLoopTick s = .next t ∧ _
    unfold execFreqLoopTick
    rw [if_neg (not_unready_or_stopped ready on)]
    dsimp only
    rw [if_pos (.inl ⟨windows, high⟩)]
    exact ⟨_, rfl, clockDown_cur fast, clockDown_keeps Pwr.dutySum (fun _ _ _ => rfl) _, clockDown_keeps Pwr.dutyWins (fun _ _ _ => rfl) _⟩
  case squall =>
    intro s half real on few
    have goes : ¬ (2 ≤ half ∨ halfOff s half = true) := by
      rw [on]
      simp only [Bool.false_eq_true, or_false]
      omega
    have room : s.pwr.squalls ≠ 0xFFFFFF := fun full => absurd few (by rw [full]; decide)
    show execSquallDetect half s = _
    simp only [execSquallDetect, goes, room, if_false]
  case telemetry =>
    intro s est tel ready
    refine ⟨fun calm bad far few => ?_, fun diverged good near => ?_⟩
    · have due : (!s.pwr.diverge) = true ∧ 10 ≤ s.pwr.bad + 1 := ⟨by rw [calm]; rfl, by omega⟩
      have room : s.pwr.diverges ≠ 0x7FFFFFFF := fun full => absurd few (by rw [full]; decide)
      show ∃ t, execTelemetrySample est tel s = .next t ∧ _
      unfold execTelemetrySample
      rw [if_neg (not_not_intro ready)]
      simp only [far, room, due, and_self, if_true, if_false, logNote_pwr]
      exact ⟨_, rfl, rfl, rfl, rfl⟩
    · show execTelemetrySample est tel s = _
      unfold execTelemetrySample
      rw [if_neg (not_not_intro ready)]
      have due : 100 ≤ s.pwr.good + 1 := by omega
      simp only [diverged, near, due, Bool.not_true, Bool.false_eq_true, false_and, and_self, if_true, if_false]
  case hint =>
    refine runsOn0_of startHintPhase wrongOnFabric (fun _ _ => rfl) (fun h p u _ ok => ?_)
    simp only [startHintPhase, ok, Bool.not_true, Bool.false_eq_true, if_false]
  case start =>
    intro s h hinted kind
    show ∃ t, execHintPhaseStart s = _ ∧ _
    simp only [execHintPhaseStart, hinted]
    refine ⟨_, rfl, ?_, ?_, ?_, fun other => ?_⟩
    · split <;> rfl
    · split <;> rfl
    · split <;> rfl
    · rw [if_neg other]
      rfl
  case shift =>
    intro s slot st bound lead
    dsimp only
    intro even
    exact exec_shiftTick_even st bound lead rfl even
  case budget =>
    refine runsOnFabric_of takePowerBudget takePowerBudget (fun _ _ => rfl) (fun mid pid pgen p u _ cond => ?_)
    obtain ⟨⟨mid', pid', pgen', src, named⟩, en, own⟩ := cond
    cases src
    simp only [takePowerBudget, takeBudget, named, en, own, Bool.not_true, ne_eq, not_true_eq_false, decide_false, Bool.or_self,
      Bool.false_eq_true, if_true, if_false]
  case heat =>
    intro s temps ready on
    dsimp only
    have go := exec_thermalTick_of_on ready on (temps := temps) rfl
    refine ⟨fun n real => tempOf_readTemps s temps real, fun hot => ?_, fun mild cool => ?_, fun mild warm => ?_⟩
    · rw [go, if_pos hot]
      have reduction : (alertNoted (readTemps s temps)).pwr.reduction = s.pwr.reduction := by
        rw [alertNoted_pwr]
        rfl
      exact ⟨_, rfl, rfl, congrArg (fun r => min (2 ^ 32 - 1) (r + 50000)) reduction⟩
    · rw [go, if_neg (Bool.eq_false_iff.mp mild), if_pos cool]
      have alert : decide (0 < s.pwr.reduction - 50000) = decide (50000 < s.pwr.reduction) := decide_eq_decide.mpr (by omega)
      rw [← alert]
      rfl
    · rw [go, if_neg (Bool.eq_false_iff.mp mild), if_neg (Bool.eq_false_iff.mp warm)]
  case shed =>
    intro s half rail real rails ready steady
    rw [exec_avsStatusPoll_shed, exec_avsStatusPoll_unreached, phaseShed, if_pos]
    simp only [steady, real, rails, ready]
    rfl

end Sys2Proof.Machine
end

/-! PROOFS. The effective power cap (spec/12 R342) and the register that shows it. -/
section
namespace Sys2Proof.Machine

/-- The effective cap outside a coolant stop, as R342's formula over the integers. -/
theorem capEff_of_running {s : State} (run : powerStopped s = false) :
    (capEff s : Int)
      = max 1000000 (min 2700000 (max 1200000 (min 2700000 (s.pwr.limit.toNat : Int)) + s.pwr.offset - s.pwr.reduction)) := by
  simp only [capEff, run, Bool.false_eq_true, if_false, limitEff]
  omega

/-- The cap never leaves R342's outer bounds. -/
theorem capEff_le (s : State) : capEff s ≤ 2700000 := by
  unfold capEff
  split <;> omega

/-- A register of block PWR whose reserved bits hold nothing reads as its entry of the table. -/
theorem regVal_pwr (s : State) (path : Nat) {o : Nat} (rsv : tabGet (fun _ => 0) s.dev.rsv (regKey (regAtOf 2 o)) = 0) :
    regVal s path (regAtOf 2 o) = BitVec.ofNat 32 (regPick o (pwrRegs s)) := by
  have shown : regHidden s path (regAtOf 2 o) = false := rfl
  rw [regVal, shown, rsv]
  exact BitVec.zero_or

/-- Settles O18: the two clamps of R342 by arithmetic, the register by its entry in the table of block PWR. -/
theorem effectiveCap : Obligations.EffectiveCap := by
  unfold Obligations.EffectiveCap
  refine ⟨fun s run => capEff_of_running run, rfl, fun s path rsv => ?_⟩
  have entry : regPick 0x0C (pwrRegs s) = capEff s := rfl
  rw [regVal_pwr s path rsv, entry, BitVec.toNat_ofNat]
  exact Nat.mod_eq_of_lt (Nat.lt_of_le_of_lt (capEff_le s) (by decide))

end Sys2Proof.Machine
end

/-! PROOFS. Power states (spec/12 R330, R331, R333-R337, R352): POWER_STATE, the ends of a FROST entry, wakes and the thaw. -/
section
namespace Sys2Proof.Machine

/-! ### POWER_STATE (R333) -/

/-- A POWER_STATE that names halves and a state, at a module that is on, moves them, to FROST where they may enter it. -/
theorem startPowerState_goes {q : QRef} {p : Pkt} {u : State} (target : fld p.w4.toNat 0 2 ≠ 3)
    (named : (List.range 2).filter (fun h => bitAt p.w4.toNat (2 + h)) ≠ []) (on : powerStopped u = false)
    (cool : u.dev.coolantFault = false)
    (enters : fld p.w4.toNat 0 2 = 2 → frostOk u ((List.range 2).filter (fun h => bitAt p.w4.toNat (2 + h))) = true) :
    startPowerState q p u = powerGo q p (fld p.w4.toNat 0 2) ((List.range 2).filter (fun h => bitAt p.w4.toNat (2 + h))) u := by
  have proper : ¬ (fld p.w4.toNat 0 2 = 3 ∨ ((List.range 2).filter (fun h => bitAt p.w4.toNat (2 + h))).isEmpty = true) :=
    not_or.mpr ⟨target, fun e => named (List.isEmpty_iff.mp e)⟩
  have running : ¬ (powerStopped u = true ∨ u.dev.coolantFault = true) := by
    rw [on, cool]
    decide
  have free : ¬ (fld p.w4.toNat 0 2 = 2 ∧ (!frostOk u ((List.range 2).filter (fun h => bitAt p.w4.toNat (2 + h)))) = true) := by
    rintro ⟨two, barred⟩
    rw [enters two] at barred
    cases barred
  unfold startPowerState
  dsimp only
  rw [if_neg proper, if_neg running, if_neg free]

/-- Settles O56, command by command. The order of a thaw's parts and what a wake meets of an entry are deduced
(notes/assumptions/42.md). -/
theorem powerStatesComplete : Obligations.PowerStatesComplete := by
  unfold Obligations.PowerStatesComplete
  refine ⟨runsOn0_of startPowerState wrongOnFabric (fun _ _ => rfl) ?moves, runsOn0_of startPowerState wrongOnFabric (fun _ _ => rfl) ?frost,
    ?entry, ?lull, ?exit, ?pin, fun _ => rfl, fun _ => rfl, ?beacon, ?thaw, fun s held => if_pos held⟩
  case moves =>
    rintro h p u - ⟨target, named, on, cool⟩
    exact startPowerState_goes (by omega) named on cool (fun two => absurd two (by omega))
  case frost =>
    rintro h p u - ⟨target, on, cool, named, enters⟩
    rw [startPowerState_goes (by omega) named on cool (fun _ => enters), target]
  case entry =>
    intro s half entering free
    show execFrostEntryWindowEnd half s = _
    simp only [execFrostEntryWindowEnd, entering, free, Bool.not_true, Bool.false_eq_true, if_false]
  case lull =>
    intro s half real enabled active ready on idle none
    show execLullAutoEntry half s = _
    refine if_neg ?_
    simp only [enabled, active, ready, on, idle, none, Bool.not_true, Bool.false_eq_true, ne_eq, not_true_eq_false, or_false]
    omega
  case exit =>
    intro s half real lull
    show execLullExit half s = _
    rw [execLullExit, if_neg (by omega), lullWake, if_pos lull]
  case pin =>
    intro s cool on frost0 frost1 none
    have woken := (wakeHalves_of { s with dev := { s.dev with wake := true } } [0, 1] cool on none).trans (thawBoth _ frost0 frost1)
    exact congrArg (fun u => Host.Outcome.next (wakeAll u)) woken
  case beacon =>
    intro s port real frost cool on none
    have woken := (wakeHalves_of s [port] cool on none).trans (if_pos frost)
    show execHaldipWakeBeacon port s = _
    rw [execHaldipWakeBeacon, if_neg (by omega), woken]
  case thaw =>
    intro s half failed thawing confirmed cool
    show execThaw half failed s = _
    simp only [execThaw, thawing, confirmed, cool, Bool.not_true, Bool.false_eq_true, or_self, if_false]

end Sys2Proof.Machine
end

/-! PROOFS. Link key agreement (spec/13 R367-R369): each message as its receiver takes it, and how an agreement is tried again, given up and
superseded. -/
section
namespace Sys2Proof.Machine

/-! ### LINK_KEX on the fabric (R367) -/

/-- A LINK_KEX of another module goes by the PHASE of its row. -/
theorem arrive_kexRow {s : State} {p : Pkt} {ph mid pid pgen : Nat} (k : FabricTakes s (kexRow p ph) mid pid pgen) :
    arrive wrongOnFabric startKex (kexRow p ph) s = startKex (.fabric mid pid pgen) (kexRow p ph) s :=
  arrive_of_fabric wrongOnFabric startKex k

/-- The PHASE byte of a row's packet that has a payload. -/
theorem kexRow_phase_of_length {p : Pkt} {ph n : Nat} (small : ph < 256) (len : (kexRow p ph).payload.length = n + 1) :
    numAt (kexRow p ph).payload 0 1 = ph :=
  kexRow_phase p ph small (by rw [len]; exact Nat.succ_ne_zero n)

theorem startKex_chain {s : State} {p : Pkt} {mid pid pgen : Nat} (usable : idExhausted s = false) (phase : numAt p.payload 0 1 = 0) :
    startKex (.fabric mid pid pgen) p s = takeKexChain (.fabric mid pid pgen) p mid s := by
  simp only [startKex, usable, phase, Bool.false_eq_true, if_false]

theorem startKex_init {s : State} {p : Pkt} {mid pid pgen : Nat} (usable : idExhausted s = false) (phase : numAt p.payload 0 1 = 1) :
    startKex (.fabric mid pid pgen) p s = takeKexInit (.fabric mid pid pgen) p mid s := by
  simp only [startKex, usable, phase, Bool.false_eq_true, if_false]

theorem startKex_confirm {s : State} {p : Pkt} {mid pid pgen : Nat} (usable : idExhausted s = false) (phase : numAt p.payload 0 1 = 3) :
    startKex (.fabric mid pid pgen) p s = takeKexConfirm (.fabric mid pid pgen) p mid s := by
  simp only [startKex, usable, phase, Bool.false_eq_true, if_false]

/-! ### RESP (R368 step 4) -/

/-- The COMPLETION that answers an INIT is the RESP of its agreement. -/
theorem takeKexAnswer_resp {s : State} {p : Pkt} {mid : Nat} {x : Kex}
    (held : s.fab.kex.find? (fun x => x.slot == fld p.seq.toNat 0 8 && x.peer == mid && x.initiator) = some x) (sent : x.st = 1)
    (phase : fld p.seq.toNat 8 8 = 1) (ok : p.status = stOk) : takeKexAnswer s mid p = takeKexResp s x p.payload := by
  have turn : ¬ (fld p.seq.toNat 8 8 = 4 ∨ fld p.seq.toNat 8 8 ≠ (if x.st = 2 then 3 else x.st)) := by
    rw [phase, sent]
    decide
  have notBusy : p.status ≠ stBusy := by
    rw [ok]
    decide
  have notRetry : p.status ≠ stRetry := by
    rw [ok]
    decide
  simp only [takeKexAnswer, held]
  rw [if_neg turn, if_neg notBusy, if_neg notRetry, if_neg (not_not_intro ok), if_pos phase]

/-- Settles O50, message by message: the checks of each pass, and its answer is left. That a CHAIN is answered OK and the module's own CHAIN
goes back as a packet of its own is deduced (notes/assumptions/37.md). -/
theorem kexCommandsComplete : Obligations.KexCommandsComplete := by
  unfold Obligations.KexCommandsComplete
  refine ⟨?chain, ?init, ?resp, ?confirm, ?retry, ?giveUp, fun _ _ _ _ => rfl⟩
  case chain =>
    intro s p mid pid pgen i k
    dsimp only
    intro usable len gate ini rsp chain
    refine congrArg Host.Outcome.next ((arrive_kexRow k).trans ?_)
    rw [startKex_chain usable (kexRow_phase_of_length (by decide) len)]
    simp only [takeKexChain, len, gate, ini, rsp, chain, decide_true, Bool.and_self, Bool.true_or, Bool.not_true, Bool.or_self,
      Bool.false_eq_true, ne_eq, not_true_eq_false, if_false, if_true]
  case init =>
    intro s p mid pid pgen i sig k
    dsimp only
    intro usable len gate alone ini rsp cert signed own
    refine congrArg Host.Outcome.next ((arrive_kexRow k).trans ?_)
    rw [startKex_init usable (kexRow_phase_of_length (by decide) len)]
    simp only [takeKexInit, len, gate, alone, ini, rsp, cert, signed, Option.isSome_none, Bool.not_true, Bool.false_eq_true, false_and,
      or_self, ne_eq, not_true_eq_false, if_false]
    generalize takeNum s = n at own ⊢
    generalize attSign n.2 _ = a at own ⊢
    obtain ⟨_, v⟩ := a
    subst own
    rfl
  case resp =>
    intro s p mid pid pgen x k
    dsimp only
    intro held sent phase ok len peer gate ini rsp same cert signed
    have kind : numAt (withByte p 0 2).payload 0 1 = 2 := kexRow_phase_of_length (p := p) (by decide) len
    have found := takeKexAnswer_resp (p := { withByte p 0 2 with opcode := 0xF0 }) held sent phase ok
    subst peer
    refine congrArg Host.Outcome.next ((arrive_of_fabric wrongOnFabric _ k).trans (found.trans ?_))
    simp only [takeKexResp, len, kind, gate, ini, rsp, same, cert, signed, Bool.not_true, Bool.false_eq_true, or_self, ne_eq,
      not_true_eq_false, if_false]
    rfl
  case confirm =>
    intro s p mid pid pgen i x k
    dsimp only
    intro usable len gate held same value
    refine congrArg Host.Outcome.next ((arrive_kexRow k).trans ?_)
    rw [startKex_confirm usable (kexRow_phase_of_length (by decide) len)]
    simp only [takeKexConfirm, len, gate, held, same, value, ne_eq, not_true_eq_false, or_self, if_false]
  case retry =>
    intro s slot peer x i refused free
    show execLinkKexRetry slot peer s = _
    simp only [execLinkKexRetry, refused, free]
  case giveUp =>
    intro s slot peer x waits
    show execLinkKexGiveUp slot peer s = _
    simp only [execLinkKexGiveUp, waits]

end Sys2Proof.Machine
end

/-! PROOFS. The weighbridge (spec/14 R372-R386): a second's record, and each command of it and of the module's side. -/
section
namespace Sys2Proof.Machine

/-! ### A second's record (R372, R377, R378) -/

/-- The record of a second that ends with reading `m`. -/
def secRecOf (w : Wb) (m : Measure) (part : Bool) : SecRec :=
  { secNo := w.secNo, energy := min m.energy 4000000, vMin := m.vMin % 65536, vMax := m.vMax % 65536, pPeak := min m.pPeak 4000,
    flags := secFlags w (min m.energy 4000000) part, feedSeq := match usableFrame w with | some f => f.seq | none => 0 }

/-- A second's end adds its record; of the rest it changes the energy's attribution, the counts, and what its flags said. -/
theorem secondEnd_eq (w : Wb) (m : Measure) (part : Bool) : ∃ a o, secondEnd w m part =
    { w with attr := a, attrOvf := o, recs := w.recs ++ [secRecOf w m part], lastRec := some (secRecOf w m part), secNo := w.secNo + 1,
             total := w.total + min m.energy 4000000, gap := false, rejected := false, frameAge := w.frameAge + 1 } := by
  obtain ⟨a, o, e⟩ := attribute1_frame w (min m.energy 4000000)
  refine ⟨a, o, ?_⟩
  unfold secondEnd
  dsimp only
  rw [e]
  rfl

/-! ### Authority messages (R382, R383) -/

/-- The last chunk of a message that the metrology authority signed, while the audit log has room. -/
theorem exec_authority_last {s : State} {bytes : List Byte} (on : s.wb.power = true) (heard : s.wb.tapMute = false) (some : bytes ≠ [])
    (last : numAt bytes 0 1 ≠ 0) (signed : authSigned s.wb (s.wb.message ++ bytes.drop 1) = true) (room : auditFull s.wb = false) :
    exec (.authority bytes) s =
      (let m := s.wb.message ++ bytes.drop 1
       let w := { s.wb with message := [] }
       if numAt m 0 1 = 1 ∧ m.length = 2821 then
         .next (wbReply { s with wb := auditAdd { w with paired := none, feedKey := none } 3 (w.paired.getD []) } [0])
       else if numAt m 0 1 = 2 ∧ m.length = 2889 then
         .next (wbReply { s with wb := auditAdd { w with authority := sliceZ m 1 68 } 2 (keyId (sliceZ m 1 68)) } [0])
       else .next (wbReply { s with wb := w } [3])) := by
  have isSigned : ¬ (!authSigned { s.wb with message := [] } (s.wb.message ++ bytes.drop 1)) = true := by
    rw [Bool.not_eq_true', Bool.not_eq_false]
    exact signed
  have hasRoom : ¬ auditFull { s.wb with message := [] } = true := Bool.eq_false_iff.mp room
  show execAuthority bytes s = _
  unfold execAuthority
  dsimp only
  rw [if_neg (by rw [on, heard]; decide), if_neg (by rw [List.isEmpty_eq_false_iff.mpr some]; decide), if_neg last, if_neg isSigned,
    if_neg hasRoom]

/-- Settles O53, command by command. The kinds of audit entries, the length of a signature and the place of a version are the model's choice
(notes/assumptions/39.md). -/
theorem weighbridgeCommandsComplete : Obligations.WeighbridgeCommandsComplete := by
  unfold Obligations.WeighbridgeCommandsComplete
  refine ⟨?send, ?receive, ?reject, ?pair, ?second, ?block, ?loss, ?back, ?info, ?keys, ?readBlock, ?readAudit, ?load, ?commit, ?chunk,
    ?authority, ?breach, ?mirror, ?mirrorPairs, ?lost⟩
  case send =>
    intro s f k key ready
    show ∃ t, execFeedFrameSend f s = .next t ∧ _
    simp only [execFeedFrameSend, key, ready, ne_eq, not_true_eq_false, false_and, if_false]
    exact ⟨_, rfl, rfl, rfl, _, rfl, rfl⟩
  case receive =>
    intro s bytes on good
    refine ⟨fun f frame age => ?_, fun other => ?_⟩
    · show execFeedFrameReceive bytes s = _
      simp only [execFeedFrameReceive, on, good, frame, age, Bool.not_true, Bool.false_eq_true, if_false, if_true]
      rfl
    · show execFeedFrameReceive bytes s = _
      simp only [execFeedFrameReceive, on, good, Bool.not_true, Bool.false_eq_true, if_false]
      cases frame : s.wb.frame with
      | none => rfl
      | some f =>
        have older : s.wb.frameAge ≠ 0 := other.resolve_left (by rw [frame]; exact Option.some_ne_none f)
        simp only [older, if_false]
        rfl
  case reject =>
    intro s bytes on bad
    show execFeedFrameReceive bytes s = _
    unfold execFeedFrameReceive
    dsimp only
    rw [if_neg (by rw [on]; decide), if_pos (by rw [bad]; decide)]
    rfl
  case pair =>
    intro s bytes on len magic room free
    have proper : ¬ (bytes.length ≠ 1588 ∨ numAt bytes 0 4 ≠ 0x464400A1) := not_or.mpr ⟨not_not_intro len, not_not_intro magic⟩
    have same : ¬ (s.wb.paired.isSome = true ∧ s.wb.paired ≠ some (sliceZ bytes 4 16)) := by
      rintro ⟨some, other⟩
      rcases free with e | e
      · rw [e] at some
        cases some
      · exact other e
    show execPairWb bytes s = _
    unfold execPairWb
    dsimp only
    rw [on, room, if_neg (by decide), if_neg proper, if_neg (by decide), if_neg same]
  case second =>
    intro s m on open_
    obtain ⟨a, o, e⟩ := secondEnd_eq s.wb m false
    show ∃ t r, execWbSecondClose m s = .next t ∧ _
    simp only [execWbSecondClose, on, Nat.not_le.mpr open_, Bool.not_true, Bool.false_eq_true, if_false, e]
    exact ⟨_, secRecOf s.wb m false, rfl, rfl, rfl, rfl, rfl, rfl, rfl, rfl, rfl, rfl, rfl⟩
  case block =>
    intro s on full
    show execWbBlockClose s = _
    exact if_neg (by rw [on]; simp only [Bool.not_true, Bool.false_eq_true, false_or]; omega)
  case loss =>
    intro s m on open_
    obtain ⟨a, o, e⟩ := secondEnd_eq s.wb m true
    show ∃ t r, execWbInputLoss m s = .next t ∧ _
    simp only [execWbInputLoss, on, Nat.not_le.mpr open_, Bool.not_true, Bool.false_eq_true, if_false, e]
    exact ⟨_, secRecOf s.wb m true, rfl, rfl, rfl, rfl, rfl, rfl, rfl⟩
  case back =>
    intro s off
    dsimp only
    refine ⟨fun none => ?_, fun some => ?_⟩
    · show execWbPowerReturn s = _
      simp only [execWbPowerReturn, off, none, List.isEmpty_nil, Bool.false_eq_true, if_false, if_true]
    · show execWbPowerReturn s = _
      simp only [execWbPowerReturn, off, List.isEmpty_eq_false_iff.mpr some, Bool.false_eq_true, if_false]
  case info =>
    intro s on heard
    exact congrArg Host.Outcome.next (wbReply_of _ on heard)
  case keys =>
    intro s chunk on heard
    exact congrArg Host.Outcome.next (wbReply_of _ on heard)
  case readBlock =>
    intro s blockNo chunk on heard
    exact congrArg Host.Outcome.next (wbReply_of _ on heard)
  case readAudit =>
    intro s entry chunk a on heard found
    show execReadAudit entry chunk s = _
    rw [execReadAudit, found]
    exact congrArg Host.Outcome.next (wbReply_of _ on heard)
  case load =>
    intro s off data on heard len
    show ∃ t, execFwLoad off data s = .next t ∧ _
    simp only [execFwLoad, wbReply, on, heard, Nat.not_lt.mpr len, Bool.not_true, Bool.not_false, Bool.and_self, Bool.false_eq_true, or_self,
      if_false, if_true]
    exact ⟨_, rfl, rfl, rfl, rfl, rfl⟩
  case commit =>
    intro s on heard free signed room
    show execFwCommit s = _
    simp only [execFwCommit, on, heard, free, signed, room, Option.isSome_none, Bool.not_true, Bool.false_eq_true, or_self, if_false]
  case chunk =>
    intro s bytes on heard some more
    show execAuthority bytes s = _
    simp only [execAuthority, on, heard, List.isEmpty_eq_false_iff.mpr some, more, Bool.not_true, Bool.false_eq_true, or_self, if_false, if_true]
  case authority =>
    intro s bytes on heard some last
    dsimp only
    intro signed room
    have go := exec_authority_last on heard some last signed room
    refine ⟨fun kind len => ?_, fun kind len => ?_⟩
    · rw [go, if_pos ⟨kind, len⟩]
    · rw [go, if_neg (fun unpair => absurd (kind.symm.trans unpair.1) (by decide)), if_pos ⟨kind, len⟩]
  case breach =>
    intro s whole room
    show ∃ t a, execSealBreach s = .next t ∧ _
    simp only [execSealBreach, whole, room, Bool.false_eq_true, if_false]
    exact ⟨_, _, rfl, rfl, rfl, rfl, rfl, rfl, rfl⟩
  case mirror =>
    intro s on ready paired
    show execMirrorFrame s = _
    simp only [execMirrorFrame, on, ready, paired, Bool.not_true, Bool.not_false, Bool.false_eq_true, ne_eq, not_true_eq_false, false_and,
      or_self, if_false, if_true]
  case mirrorPairs =>
    intro s on ready due other
    have unpaired : (mirrorOf s).paired = false := beq_false_of_ne other
    show execMirrorFrame s = _
    simp only [execMirrorFrame, on, ready, due, unpaired, Bool.not_true, Bool.false_and, Bool.false_eq_true, ne_eq, not_true_eq_false,
      false_and, or_self, if_false]
  case lost =>
    intro s present
    exact if_neg (by rw [present]; decide)

end Sys2Proof.Machine
end

/-! PROOFS. Register writes and reads on a path (spec/15 R387-R396, R402-R404): a guarded write with its complement, ALIAS_WRITE, and each
command that drives a register. -/
section
namespace Sys2Proof.Machine

/-! ### Writes that meet what is pending (R394) -/

/-- The word that follows a pending write on its path, to the complement register of what is written and with its complement, performs it. -/
theorem pathWrite_completes {s : State} {path addr a : Nat} {r t : RegAt} {v w : W32} (up : pathOpen s path = true)
    (named : regAt addr = some r) (served : blockServed s r = true) (pending : (getPath s path).pendingW = some (a, w))
    (target : regAt a = some t) (own : cplOf t = r) (complement : v = ~~~ w) :
    pathWrite s path addr v
      = wakeAll (perform (setPath s path { getPath s path with pendingW := none, matched := none, armed := false }) path a t w) := by
  simp only [pathWrite, regWrite, settle, up, named, served, pending, target, own, complement, Bool.not_true, Bool.false_eq_true, and_self,
    if_false, if_true]

/-- A write that meets nothing pending or matched goes by its register. -/
theorem pathWrite_of_settled {s : State} {path addr : Nat} {r : RegAt} {v : W32} (up : pathOpen s path = true)
    (named : regAt addr = some r) (served : blockServed s r = true) (pending : (getPath s path).pendingW = none)
    (matched : (getPath s path).matched = none) :
    pathWrite s path addr v = wakeAll (writeOwn s path addr r v false false false).2 := by
  simp only [pathWrite, regWrite, settle, up, named, served, pending, matched, Bool.not_true, Bool.false_eq_true, if_false, if_true]

/-- ALIAS_WRITE of bits that are no guarded ones is performed on the register's RW bits (R388). -/
theorem writeAlias_performs {s : State} {path addr : Nat} {r : RegAt} {v : W32} (rw : (accOf r).rw ≠ 0)
    (plain : v &&& BitVec.ofNat 32 ((accOf r).rwk ||| (accOf r).rwc) = 0) :
    writeAlias s path addr r v = (true, startGrace (sealedVal s (regAtOf r.blk r.off)) (regAtOf r.blk r.off)
      (regApply s (regAtOf r.blk r.off) (aliasWord (regVal s 0 (regAtOf r.blk r.off)) v r.form (BitVec.ofNat 32 (accOf r).rw)
        &&& BitVec.ofNat 32 ((accOf r).rw ||| (accOf r).rwk ||| (accOf r).rwc)))) := by
  unfold writeAlias
  dsimp only
  rw [if_neg (not_not_intro plain), if_neg rw]
  rfl

/-- The word that CRC_COMMIT writes has COMMIT set. -/
theorem bitAt_or_two (v : W32) : bitAt (v ||| 2).toNat 1 = true := by
  rw [bitAt_eq_testBit, BitVec.toNat_or, Nat.testBit_or]
  exact Bool.or_true _

/-! ### Reads (R390, R309) -/

/-- A read on a path that is available, of a register whose block answers. -/
theorem pathRead_of_open {s : State} {path addr : Nat} {r : RegAt} (up : pathOpen s path = true) (named : regAt addr = some r)
    (served : blockServed s r = true) : pathRead s path addr = regRead s path r := by
  simp only [pathRead, up, named, served, Bool.not_true, Bool.false_eq_true, if_false, if_true]

/-- Settles O60, command by command. That a row writes its register's bit as one whatever its operand says, and that CRC_COMMIT's operand is the
complement of what it writes, are deduced (notes/assumptions/40.md). -/
theorem registerWritesComplete : Obligations.RegisterWritesComplete := by
  unfold Obligations.RegisterWritesComplete
  refine ⟨fun s path addr v r ok => congrArg Host.Outcome.next (pathWrite_ok ok), ?rows, ?effects, ?scale, ?commit, ?complement, ?aliased,
    ?unlock, fun _ _ => rfl, ?lapse, ?latch, ?record, fun s on => ?pass, ?compare, fun _ => rfl⟩
  case rows =>
    intro s path v
    refine ⟨fun ok => congrArg Host.Outcome.next (pathWrite_ok ok), fun ok => congrArg Host.Outcome.next (pathWrite_ok ok),
      fun ok => congrArg Host.Outcome.next (pathWrite_ok ok), fun ok => congrArg Host.Outcome.next (pathWrite_ok ok),
      fun ok => congrArg Host.Outcome.next (pathWrite_ok ok), fun ok => congrArg Host.Outcome.next (pathWrite_ok ok),
      fun pass ok => ?_, fun pass ok => ?_⟩
    · exact congrArg (fun u => Host.Outcome.next (svcRun u v pass)) (pathWrite_ok ok)
    · exact congrArg (fun u => Host.Outcome.next (svcRun u v pass)) (pathWrite_ok ok)
  case effects =>
    intro s v
    refine ⟨rfl, rfl, rfl, fun go => if_pos go, fun dump on => ?_⟩
    have go : (bitAt v.toNat 0 && !halfOff { s with res := { s.res with gleanHalf := bitAt v.toNat 1 } } (fld v.toNat 1 1)) = true := by
      show (bitAt v.toNat 0 && !halfOff s (fld v.toNat 1 1)) = true
      rw [dump, on]
      rfl
    exact if_pos go
  case scale =>
    intro s path v cpl pends
    dsimp only
    intro up pending complement
    refine ⟨?_, fun w => rfl⟩
    show Host.Outcome.next (pathWrite (pathWrite s path (regAddr 4 0x00) v) path (regAddr 4 0x04) cpl) = _
    rw [pathWrite_pends pends, pathWrite_completes up (r := regAtOf 4 0x04) rfl rfl pending (t := regAtOf 4 0x00) rfl rfl complement]
  case commit =>
    intro s path v cpl pends
    dsimp only
    intro up pending complement
    refine ⟨?_, fun w => ?_⟩
    · show Host.Outcome.next (pathWrite (pathWrite s path (regAddr 6 0x00) (v ||| 2)) path (regAddr 6 0x04) cpl) = _
      rw [pathWrite_pends pends, pathWrite_completes up (r := regAtOf 6 0x04) rfl rfl pending (t := regAtOf 6 0x00) rfl rfl complement]
    · show (w.lck.commit || bitAt (v ||| 2).toNat 1) = true
      rw [bitAt_or_two, Bool.or_true]
  case complement =>
    intro s path addr r a t w v up named form cpl served pending target own complement
    show execCplWrite path addr v s = _
    simp only [execCplWrite, named, form, cpl, and_self, if_true]
    rw [pathWrite_completes up named served pending target own complement]
  case aliased =>
    intro s path addr r v up named form served pending matched rw plain
    dsimp only
    have direct : ¬ (r.form = 0 ∧ r.blk = 5 ∧ r.off = 0x00) := fun e => form e.1
    show execAliasWrite path addr v s = _
    simp only [execAliasWrite, named, form, if_false]
    rw [pathWrite_of_settled up named served pending matched, writeOwn, if_neg direct]
    simp only [form, writeAlias_performs rw plain, ne_eq, not_false_eq_true, if_true]
  case unlock =>
    intro s path up scale pending matched
    have arms : writeUnlock s path (regAddr 5 0x00) unlockKey = (true, setPath s path { getPath s path with armed := true }) := by
      simp only [writeUnlock, decide_eq_true scale, beq_self_eq_true, Bool.and_self, if_true]
    show Host.Outcome.next (pathWrite s path (regAddr 5 0x00) unlockKey) = _
    rw [pathWrite_of_settled up (r := regAtOf 5 0x00) rfl rfl pending matched, writeOwn, if_pos ⟨rfl, rfl, rfl⟩, arms]
  case lapse =>
    intro s path
    dsimp only
    refine ⟨fun none => ?_, fun a w some => ?_⟩
    · show execPendingLapse path s = _
      simp only [execPendingLapse, none]
    · show execPendingLapse path s = _
      simp only [execPendingLapse, some]
  case latch =>
    intro s path addr r up named served
    show Host.Outcome.next (pathRead s path addr).2 = _
    rw [pathRead_of_open up named served]
  case record =>
    intro s path l up selected
    have shown : tabGet (fun _ => none) (setShadow s path 4 (0, 0)).res.log (setShadow s path 4 (0, 0)).res.logSel.toNat = some l := selected
    show Host.Outcome.next (pathRead s path (regAddr 4 0x103C)).2 = _
    rw [pathRead_of_open up (r := regAtOf 4 0x103C) rfl rfl]
    have low : isLo 4 0x103C = false := rfl
    simp only [regRead, regAtOf, low, shown, Bool.false_eq_true, and_self, if_false, if_true]
  case pass =>
    exact if_neg (by rw [on]; decide)
  case compare =>
    intro s c
    dsimp only
    refine ⟨fun due => ?_, fun idle same => ?_, fun idle drift quiet => ?_, fun idle drift grace raised => ?_⟩
    · exact if_pos due
    · exact (if_neg (Bool.eq_false_iff.mp idle)).trans (if_pos same)
    · exact (if_neg (Bool.eq_false_iff.mp idle)).trans ((if_neg drift).trans (if_pos quiet))
    · refine (if_neg (Bool.eq_false_iff.mp idle)).trans ((if_neg drift).trans (if_neg ?_))
      show ¬ (s.lck.grace || s.lck.raised) = true
      rw [grace, raised]
      decide

end Sys2Proof.Machine
end

/-! PROOFS. The TAPs (spec/16 R400, R413-R416): instructions that take the pins, and the debug accesses. -/
section
namespace Sys2Proof.Machine

/-! ### The pins (R415) -/

/-- The links of half `die` out, its TAP at instruction `code` with the pins. -/
def pinsTaken (s : State) (die code : Nat) : State :=
  (linkUnits die).foldl (fun s u => if unitSt s u == .failed then s else setUnit s u .quarantine)
    (setDie s die { getDie s die with ir := code, refused := false, pins := true })

theorem takePins_free {s : State} {die : Nat} (on : tapOn s die = true) (free : pinsFree s die = true) (code : Nat) :
    takePins s die code = pinsTaken s die code := by
  simp only [takePins, on, free, Bool.not_true, Bool.false_eq_true, if_false, if_true]
  rfl

theorem takePins_refused {s : State} {die : Nat} (on : tapOn s die = true) (busy : pinsFree s die = false) (code : Nat) :
    takePins s die code = setShift (setDie s die { getDie s die with ir := 0xFF, refused := true }) 0 := by
  simp only [takePins, on, busy, Bool.not_true, Bool.false_eq_true, if_false]

theorem setShift_setShift (s : State) (v w : Nat) : setShift (setShift s v) w = setShift s w := rfl

/-! ### Debug (R400, R414) -/

/-- A debug instruction acts in DEBUG and RMA. -/
theorem debugOnly_of {s : State} (on : tapOn s 0 = true) (root : testRoot s = true) (code : Nat) (f : State → State) :
    debugOnly s code f = f (leavePins s 0 code) := by
  simp only [debugOnly, on, root, Bool.not_true, Bool.false_eq_true, if_false, if_true]

/-- An access to HBM or a sheaf store whose half serves and which no confidential slot closes is one of the module itself. -/
theorem tapMem_memory {s : State} {addr : Nat}
    (known : ((inHbm addr && inHbm (addr + 3)) || (inStore addr && inStore (addr + 3))) = true)
    (outside : ¬ (0x24000000000 ≤ addr ∧ addr + 4 ≤ 0x24012000000)) (powered : halfOff s (halfOfAddr s addr) = false)
    (clear : tapRefused s addr = false) (v : W32) :
    tapMem addr v 0xFFFFFFFF s = tapGives (fun d => BitVec.ofNat 32 (ofLE d)) s (memRead s .internal 0 0 0 addr 4)
      ∧ tapMem addr v 0 s = tapGives (fun _ => v) s (memWrite s .internal 0 0 0 addr (leBytes 4 v.toNat)) := by
  have notLocal : (decide (0x24000000000 ≤ addr) && decide (addr + 4 ≤ 0x24012000000)) = false := by
    rw [← Bool.decide_and, decide_eq_false outside]
  have zero : (0 : W32) ≠ 0xFFFFFFFF := by decide
  simp only [tapMem, known, notLocal, powered, clear, zero, Bool.or_false, Bool.not_true, Bool.false_eq_true, if_false, if_true, and_self]

/-- An access to the window of a core's tenancy reads or writes that window. -/
theorem tapMem_window {s : State} {addr o : Nat} {x : Ten} (low : 0x24000000000 ≤ addr) (high : addr + 4 ≤ 0x24012000000)
    (powered : halfOff s (halfOfAddr s addr) = false) (clear : tapRefused s addr = false) (held : windowAt s addr = some (x, o)) (v : W32) :
    tapMem addr v 0xFFFFFFFF s = tapResult s (BitVec.ofNat 32 (ofLE (winRead x o 4))) 0
      ∧ tapMem addr v 0 s = tapResult (setTen s (winWrite x o (leBytes 4 v.toNat))) v 0 := by
  have isLocal : (decide (0x24000000000 ≤ addr) && decide (addr + 4 ≤ 0x24012000000)) = true := by
    rw [decide_eq_true low, decide_eq_true high]
    rfl
  have zero : (0 : W32) ≠ 0xFFFFFFFF := by decide
  simp only [tapMem, isLocal, powered, clear, held, zero, Bool.or_true, Bool.not_true, Bool.false_eq_true, if_false, if_true, and_self]

/-- Settles O59, instruction by instruction. That REGACCESS, MEMACCESS and HALT act through the TAP of Half 0 is deduced
(notes/assumptions/41.md). -/
theorem tapCommandsComplete : Obligations.TapCommandsComplete := by
  unfold Obligations.TapCommandsComplete
  refine ⟨?taken, ?refused, ?idcode, ?sample, ?reg, ?mem, ?window, ?halt, ?wbExtest, ?wb⟩
  case taken =>
    intro s die on free
    have go := takePins_free on free
    exact ⟨congrArg Host.Outcome.next (go 0), congrArg (fun u => Host.Outcome.next (setShift u 0)) (go 3),
      congrArg (fun u => Host.Outcome.next (setShift u 0)) (go 4), congrArg Host.Outcome.next (go 5), congrArg Host.Outcome.next (go 6)⟩
  case refused =>
    intro s die on busy
    have go := takePins_refused on busy
    have bypass (code : Nat) := (congrArg (setShift · 0) (go code)).trans (setShift_setShift _ 0 0)
    exact ⟨congrArg Host.Outcome.next (go 0), congrArg Host.Outcome.next (go 5), congrArg Host.Outcome.next (go 6),
      congrArg Host.Outcome.next (bypass 3), congrArg Host.Outcome.next (bypass 4)⟩
  case idcode =>
    intro s die on
    have off : ¬ (!tapOn s die) = true := by rw [on]; decide
    exact ⟨if_neg off, if_neg off⟩
  case sample =>
    intro s die sampled shifted on powered
    show execSamplePreload die sampled shifted s = _
    simp only [execSamplePreload, on, Bool.not_true, Bool.false_eq_true, if_false]
    rw [if_neg]
    exact powered
  case reg =>
    intro s addr v r on root inside named served
    dsimp only
    have answers : blockServed (leavePins s 0 0x10) r = true := served
    refine ⟨?_, fun cpl other => ?_⟩
    · show Host.Outcome.next (wakeAll (debugOnly s 0x10 (tapReg addr v v))) = _
      rw [debugOnly_of on root]
      simp only [tapReg, Nat.not_le.mpr inside, named, answers, Bool.not_true, Bool.false_eq_true, if_false, if_true]
    · show Host.Outcome.next (wakeAll (debugOnly s 0x10 (tapReg addr v cpl))) = _
      rw [debugOnly_of on root]
      simp only [tapReg, Nat.not_le.mpr inside, named, answers, other, Bool.not_true, Bool.false_eq_true, if_false]
  case mem =>
    intro s addr v d t c w on root known outside powered clear read write
    have go := tapMem_memory (s := leavePins s 0 0x11) known outside powered clear
    refine ⟨?_, ?_⟩
    · show Host.Outcome.next (debugOnly s 0x11 (tapMem addr v 0xFFFFFFFF)) = _
      rw [debugOnly_of on root, (go v).1, read]
      rfl
    · show Host.Outcome.next (debugOnly s 0x11 (tapMem addr v 0)) = _
      rw [debugOnly_of on root, (go v).2, write]
      rfl
  case window =>
    intro s addr v x o on root low high noHbm noStore powered clear held
    have go := tapMem_window (s := leavePins s 0 0x11) low high powered clear held
    refine ⟨?_, ?_⟩
    · show Host.Outcome.next (debugOnly s 0x11 (tapMem addr v 0xFFFFFFFF)) = _
      rw [debugOnly_of on root, (go v).1]
    · show Host.Outcome.next (debugOnly s 0x11 (tapMem addr v 0)) = _
      rw [debugOnly_of on root, (go v).2]
  case halt =>
    intro s core stop on root real free
    have open_ : ¬ (576 ≤ core ∨ confHeld (leavePins s 0 0x12) (holderOfCore (leavePins s 0 0x12) core) = true) :=
      not_or.mpr ⟨Nat.not_le.mpr real, Bool.eq_false_iff.mp free⟩
    show Host.Outcome.next (debugOnly s 0x12 _) = _
    rw [debugOnly_of on root, if_neg open_]
  case wbExtest =>
    intro s on other
    exact if_neg (by rw [on]; simp only [Bool.not_true, Bool.false_eq_true, false_or]; exact other)
  case wb =>
    intro s sampled shifted on
    have off : ¬ (!s.wb.power) = true := by rw [on]; decide
    exact ⟨if_neg off, if_neg off, if_neg off⟩

end Sys2Proof.Machine
end

/-! PROOFS. Power, boot and the flash port (spec/16 R408-R412), and a port share taking effect (spec/09 R271). -/
section
namespace Sys2Proof.Machine

/-! ### The boot (R410, R411) -/

/-- A flash read goes on with the first image that the boot ROM accepts. -/
theorem bootRead_found {s : State} {c : BootCfg} {x : List Byte} (found : (slotsTried c).find? (slotOk s) = some x) :
    bootRead s c = bootOn s c x := by
  simp only [bootRead, found]

/-- Where it accepts none, the module stays in boot. -/
theorem bootRead_none {s : State} {c : BootCfg} (none : (slotsTried c).find? (slotOk s) = none) :
    bootRead s c = { s with dev := { s.dev with phase := .bootFailed, flashGnt := true } } := by
  simp only [bootRead, none]

/-- The boot of a module reset: the state is kept, and a flash that is asked for is waited for (R409). -/
theorem exec_boot_again {s : State} {c : BootCfg} (boot : s.dev.phase = .boot) (free : s.dev.bootWaits = none) (again : c.powerUp = false) :
    exec (.boot c) s =
      (let u := bootSec { s with dev := { s.dev with phase := .boot, pwrEn := true } } c false
       if s.dev.flashReq then .next { u with dev := { u.dev with bootWaits := some c, flashGnt := true } } else .next (bootRead u c)) := by
  have off : (s.dev.phase == Phase.off) = false := by rw [boot]; rfl
  have goes : ¬ (s.dev.phase ≠ .off ∧ s.dev.phase ≠ .boot ∨ s.dev.bootWaits.isSome = true) := by
    rw [boot, free]
    decide
  show execBoot c s = _
  unfold execBoot
  rw [if_neg goes]
  simp only [again, off, Bool.or_self, Bool.false_eq_true, if_false]
  rfl

/-- A power-up, with the flash free: generations are filled anew and the flash is read. -/
theorem exec_boot_up {s : State} {c : BootCfg} (start : s.dev.phase = .off ∨ s.dev.phase = .boot ∧ c.powerUp = true)
    (free : s.dev.bootWaits = none) (flash : s.dev.flashReq = false) :
    exec (.boot c) s =
      (let f := fillGens (powerLoss s)
       .next (bootRead (bootSec { f with dev := { f.dev with phase := .boot, pwrEn := true, strap := c.strap } } c true) c)) := by
  have up : (c.powerUp || s.dev.phase == Phase.off) = true := by
    rcases start with e | ⟨-, e⟩
    · rw [e]
      exact Bool.or_true _
    · rw [e]
      rfl
  have goes : ¬ (s.dev.phase ≠ .off ∧ s.dev.phase ≠ .boot ∨ s.dev.bootWaits.isSome = true) := by
    rw [free]
    rintro (⟨notOff, notBoot⟩ | waits)
    · exact start.elim notOff (fun e => notBoot e.1)
    · cases waits
  show execBoot c s = _
  unfold execBoot
  rw [if_neg goes]
  simp only [up, if_true]
  exact if_neg (Bool.eq_false_iff.mp flash)

/-- Settles O58, command by command. That the tags of RETIRED granules are lost with power is deduced (notes/assumptions/43.md). -/
theorem bootCommandsComplete : Obligations.BootCommandsComplete := by
  unfold Obligations.BootCommandsComplete
  refine ⟨fun s => ⟨_, rfl, rfl, rfl, rfl, rfl, rfl, rfl, rfl, rfl, rfl, rfl, rfl, rfl, rfl, rfl, rfl⟩, ?again,
    fun s c start free flash => exec_boot_up start free flash, fun s ready => ?ready, fun s boot => ?reading, fun s free => ?release, ?goesOn,
    ?share⟩
  case again =>
    intro s c boot free again
    dsimp only
    have go := exec_boot_again boot free again
    refine ⟨fun flash => ?_, fun x flash found => ⟨?_, rfl⟩, fun flash none => ?_⟩
    · exact go.trans (if_pos flash)
    · exact go.trans ((if_neg (Bool.eq_false_iff.mp flash)).trans (congrArg Host.Outcome.next (bootRead_found found)))
    · exact go.trans ((if_neg (Bool.eq_false_iff.mp flash)).trans (congrArg Host.Outcome.next (bootRead_none none)))
  case ready =>
    show execFlashRequest false s = _
    simp only [execFlashRequest, ready, Bool.false_and, Bool.not_false, Bool.and_true]
    rfl
  case reading =>
    show execFlashRequest true s = _
    simp only [execFlashRequest, boot, Bool.true_and]
    rfl
  case release =>
    show execFlashRelease s = _
    simp only [execFlashRelease, free]
  case goesOn =>
    intro s c waits
    show execFlashRelease s = _
    simp only [execFlashRelease, waits]
  case share =>
    intro s port
    refine ⟨rfl, fun i v pending => ?_⟩
    simp only [applyShare, pending]

end Sys2Proof.Machine
end

/-! PROOFS. Every step keeps memory in canonical form (O21). The form is the model's own (notes/assumptions/9.md):
    what is listed rises by address, and nothing is listed that an unlisted address would read as. There is one lemma
    for each function that answers a state, in the order of the model, named after it, and its proof follows the
    function's own branches: a branch's condition does not matter, only that every branch ends in a state that has
    the form. The few functions that write memory rest on Laws/Memory and Laws/Tab. -/
section
namespace Sys2Proof.Machine

/-! The form, for each shape in which a function answers its state. -/

/-- The memory of a state is in canonical form. -/
def MemWf (s : State) : Prop := Memory.wf s.mem = true

def PairWf {α : Type} (r : α × State) : Prop := MemWf r.2
def TripleWf {α β : Type} (r : α × β × State) : Prop := MemWf r.2.2
def FstWf {α : Type} (r : State × α) : Prop := MemWf r.1
def OptWf : Option State → Prop
  | some s => MemWf s
  | none => True
def BothWf (r : Option State × State) : Prop := OptWf r.1 ∧ MemWf r.2
def OptPairWf {α : Type} : Option (α × State) → Prop
  | some r => MemWf r.2
  | none => True
def OptTripleWf {α β : Type} : Option (α × β × State) → Prop
  | some r => MemWf r.2.2
  | none => True
def ExceptWf : Except State (FabPkt × State) → Prop
  | .error s => MemWf s
  | .ok r => MemWf r.2
def NextWf : Host.Outcome State Fault Refusal → Prop
  | .next s => MemWf s
  | _ => True
def RunSeg.wf : RunSeg → Prop
  | .seg _ _ _ s => MemWf s
  | .stop s => MemWf s
def Go.wf : Go → Prop
  | .more s => MemWf s
  | .rest s => MemWf s
def SendRes.wf : SendRes → Prop
  | .sent s => MemWf s
  | .noRoute s => MemWf s
def KvList.wf : KvList → Prop
  | .ok _ s => MemWf s
  | .stop s => MemWf s
def KvAt.wf : KvAt → Prop
  | .ok _ s => MemWf s
  | .stop s => MemWf s
def VRead.wf : VRead → Prop
  | .ok _ s => MemWf s
  | .bad s => MemWf s
  | .unc s => MemWf s
  | .wait s => MemWf s
def FabGate.wf : FabGate → Prop
  | .drop s => MemWf s
  | .pass => True
def KvDescs.wf : KvDescs → Prop
  | .ok _ s => MemWf s
  | .stop s => MemWf s
def Span.wf : Span → Prop
  | .ok _ _ s => MemWf s
  | .bad s => MemWf s
  | .wait s => MemWf s
def Settled.wf : Settled → Prop
  | .done s => MemWf s
  | .go s _ _ => MemWf s
def RunRead.wf : RunRead → Prop
  | .ok _ s => MemWf s
  | .stop s => MemWf s
def Placed.wf : Placed → Prop
  | .done s => MemWf s
  | .delayed => True
  | .sent s => MemWf s

/-- A function that acts for a queue pair's packet keeps the form. -/
abbrev HandlerWf (f : Handler) : Prop := ∀ {q p s}, MemWf s → MemWf (f q p s)

/-- A core instruction's meaning keeps the form. -/
abbrev MeaningWf (m : Meaning) : Prop := ∀ {t w s}, MemWf s → NextWf (m t w s)

/-! How a predicate passes a branch, a match and a fold, whatever the condition is. -/

variable {α β : Type} {P : β → Prop}

/-- A state put together from parts has the form when it takes its memory from one that has it. -/
theorem mk_wf {p f d l u t r x pt fe ev sq fb rs pw sc wb tp} {s : State} (h : MemWf s) :
    MemWf (State.mk p f d l u t r s.mem x pt fe ev sq fb rs pw sc wb tp) := h

/-- Only the bytes, the upsets and the tags of a memory have a canonical form. -/
theorem mem_wf {p f d l u t r x pt fe ev sq fb rs pw sc wb tp wc re ch ts ln zp mg rp} {s : State} (h : MemWf s) :
    MemWf (State.mk p f d l u t r ⟨s.mem.bytes, s.mem.upsets, s.mem.tags, s.mem.ssTags, wc, re, ch, ts, ln, zp, mg, rp⟩
      x pt fe ev sq fb rs pw sc wb tp) := h

theorem ite_wf {c : Prop} [Decidable c] {a b : β} (ha : P a) (hb : P b) : P (if c then a else b) := by
  split
  · exact ha
  · exact hb

theorem foldl_wf {f : β → α → β} {l : List α} {b : β} (hf : ∀ {b a}, P b → P (f b a)) (h : P b) : P (l.foldl f b) :=
  foldl_keeps (fun _ _ h => hf h) l h

theorem of_eq {a b : β} (e : a = b) (h : P a) : P b := e ▸ h

theorem option_wf {o : Option α} {a : β} {f : α → β} (ha : P a) (hf : ∀ {x}, P (f x)) :
    P (o.casesOn (motive := fun _ => β) a f) := by
  cases o
  · exact ha
  · exact hf

theorem list_wf {l : List α} {a : β} {f : α → List α → β} (ha : P a) (hf : ∀ {x l}, P (f x l)) :
    P (l.casesOn (motive := fun _ => β) a f) := by
  cases l
  · exact ha
  · exact hf

theorem OptWf.elim {o : Option State} {a : β} {f : State → β} (h : OptWf o) (ha : P a) (hf : ∀ {s}, MemWf s → P (f s)) :
    P (o.casesOn (motive := fun _ => β) a f) := by
  cases o
  · exact ha
  · exact hf h

theorem OptWf.map {o : Option α} {f : α → State} (hf : ∀ {x}, MemWf (f x)) : OptWf (o.map f) := by
  cases o
  · trivial
  · exact hf

theorem PairWf.bool {r : Bool × State} {f g : State → β} (h : PairWf r) (hf : ∀ {s}, MemWf s → P (f s))
    (hg : ∀ {s}, MemWf s → P (g s)) :
    P (Prod.casesOn (motive := fun _ => β) r fun b s => Bool.casesOn (motive := fun _ => β) b (f s) (g s)) := by
  obtain ⟨_ | _, s⟩ := r
  · exact hf h
  · exact hg h

theorem PairWf.option {r : Option α × State} {f : State → β} {g : α → State → β} (h : PairWf r) (hf : ∀ {s}, MemWf s → P (f s))
    (hg : ∀ {x s}, MemWf s → P (g x s)) :
    P (Prod.casesOn (motive := fun _ => β) r fun o s => Option.casesOn (motive := fun _ => β) o (f s) (fun x => g x s)) := by
  obtain ⟨_ | _, s⟩ := r
  · exact hf h
  · exact hg h

theorem ExceptWf.elim {r : Except State (FabPkt × State)} {f : State → β} {g : FabPkt × State → β} (h : ExceptWf r)
    (hf : ∀ {s}, MemWf s → P (f s)) (hg : ∀ {r}, PairWf r → P (g r)) : P (r.casesOn (motive := fun _ => β) f g) := by
  cases r
  · exact hf h
  · exact hg h

theorem RunSeg.wf.elim {r : RunSeg} {f g} (h : r.wf) (hf : ∀ {e v n s}, MemWf s → P (f e v n s)) (hg : ∀ {s}, MemWf s → P (g s)) :
    P (r.casesOn (motive := fun _ => β) f g) := by
  cases r
  · exact hf h
  · exact hg h

theorem Go.wf.elim {r : Go} {f g} (h : r.wf) (hf : ∀ {s}, MemWf s → P (f s)) (hg : ∀ {s}, MemWf s → P (g s)) :
    P (r.casesOn (motive := fun _ => β) f g) := by
  cases r
  · exact hf h
  · exact hg h

theorem SendRes.wf.elim {r : SendRes} {f g} (h : r.wf) (hf : ∀ {s}, MemWf s → P (f s)) (hg : ∀ {s}, MemWf s → P (g s)) :
    P (r.casesOn (motive := fun _ => β) f g) := by
  cases r
  · exact hf h
  · exact hg h

theorem KvAt.wf.elim {r : KvAt} {f g} (h : r.wf) (hf : ∀ {l s}, MemWf s → P (f l s)) (hg : ∀ {s}, MemWf s → P (g s)) :
    P (r.casesOn (motive := fun _ => β) f g) := by
  cases r
  · exact hf h
  · exact hg h

theorem RunRead.wf.elim {r : RunRead} {f g} (h : r.wf) (hf : ∀ {l s}, MemWf s → P (f l s)) (hg : ∀ {s}, MemWf s → P (g s)) :
    P (r.casesOn (motive := fun _ => β) f g) := by
  cases r
  · exact hf h
  · exact hg h

theorem Settled.wf.elim {r : Settled} {f g} (h : r.wf) (hf : ∀ {s}, MemWf s → P (f s)) (hg : ∀ {s v n}, MemWf s → P (g s v n)) :
    P (r.casesOn (motive := fun _ => β) f g) := by
  cases r
  · exact hf h
  · exact hg h

theorem FabGate.wf.elim {r : FabGate} {a f} (h : r.wf) (ha : P a) (hf : ∀ {s}, MemWf s → P (f s)) :
    P (r.casesOn (motive := fun _ => β) a f) := by
  cases r
  · exact ha
  · exact hf h

theorem Placed.wf.elim {r : Placed} {f a g} (h : r.wf) (hf : ∀ {s}, MemWf s → P (f s)) (ha : P a) (hg : ∀ {s}, MemWf s → P (g s)) :
    P (r.casesOn (motive := fun _ => β) f a g) := by
  cases r
  · exact hf h
  · exact ha
  · exact hg h

theorem Span.wf.elim {r : Span} {f g k} (h : r.wf) (hf : ∀ {e v s}, MemWf s → P (f e v s)) (hg : ∀ {s}, MemWf s → P (g s))
    (hk : ∀ {s}, MemWf s → P (k s)) : P (r.casesOn (motive := fun _ => β) f g k) := by
  cases r
  · exact hf h
  · exact hg h
  · exact hk h

theorem VRead.wf.elim {r : VRead} {f g k j} (h : r.wf) (hf : ∀ {l s}, MemWf s → P (f l s)) (hg : ∀ {s}, MemWf s → P (g s))
    (hk : ∀ {s}, MemWf s → P (k s)) (hj : ∀ {s}, MemWf s → P (j s)) : P (r.casesOn (motive := fun _ => β) f g k j) := by
  cases r
  · exact hf h
  · exact hg h
  · exact hk h
  · exact hj h

theorem MemRes.wf.elim {r : MemRes} {f a b g} (h : r.wf) (hf : ∀ {l s}, MemWf s → P (f l s)) (ha : P a) (hb : P b)
    (hg : ∀ {s}, MemWf s → P (g s)) : P (r.casesOn (motive := fun _ => β) f a b g) := by
  cases r
  · exact hf h
  · exact ha
  · exact hb
  · exact hg h

/-! What a write of memory keeps, where Laws/Memory does not say it. -/

theorem meetWord_pairWf {s : State} {cw u who} (h : MemWf s) : PairWf (meetWord s cw u who) := meetWord_wf _ _ _ h

theorem meetAll_pairWf {s : State} {who l} (h : MemWf s) : PairWf (meetAll who l s) := meetAll_wf _ _ h

/-- A table whose kept entries all take one value that is no default is canonical. -/
theorem filterMap_wfFrom {α : Type} [DecidableEq α] {d : Nat → α} {c : α} {p : α → Prop} [DecidablePred p] (hc : ∀ k, c ≠ d k)
    {t : Tab α} {lo : Nat} (w : tabWfFrom d lo t = true) :
    tabWfFrom d lo (t.filterMap fun e => if p e.2 then some (e.1, c) else none) = true := by
  induction t generalizing lo with
  | nil => rfl
  | cons e t ih =>
    simp only [tabWfFrom, Bool.and_eq_true, decide_eq_true_eq] at w
    obtain ⟨⟨w1, _⟩, w3⟩ := w
    by_cases hp : p e.2
    · simp [hp, tabWfFrom, w1, hc, ih w3]
    · simp only [List.filterMap_cons, hp, if_false]
      exact tabWfFrom_mono d (by omega) (ih w3)

theorem tagRetired_ne_default (k : Nat) : ({ st := 3 } : Tag) ≠ tagDefault k := by
  unfold tagDefault
  split <;> decide

theorem clearSsTags_wf {m : Mem} (a n : Nat) (h : Memory.wf m = true) :
    Memory.wf { m with ssTags := tabClear m.ssTags a n } = true := by
  rw [memory_wf_iff] at *
  exact ⟨h.1, h.2.1, h.2.2.1, tabClear_wf _ _ _ h.2.2.2⟩

end Sys2Proof.Machine
end

section
namespace Sys2Proof.Machine

variable {s : State}

/- `option_wf`, `list_wf` and the `elim` lemmas speak of `casesOn`. Without smart unfolding the unifier opens the model's
   matches to meet them; where it would then run the model instead (a fuel that is a number), a proof says `true`. -/
set_option smartUnfolding false

/-! Machine/Ops -/

theorem takeFree_wf (h : MemWf s) : PairWf (takeFree s) := mk_wf h

theorem takeNum_wf (h : MemWf s) : PairWf (takeNum s) := mk_wf h

theorem setHalfPwr_wf {half x} (h : MemWf s) : MemWf (setHalfPwr s half x) := ite_wf (mk_wf h) (mk_wf h)

theorem lullWake_wf {half} (h : MemWf s) : MemWf (lullWake s half) := ite_wf (setHalfPwr_wf h) h

theorem unitReady_wf {u} (h : MemWf s) : MemWf (unitReady s u) := mk_wf (mk_wf h)

theorem addChaff_wf {slot} (h : MemWf s) : MemWf (addChaff s slot) := mk_wf h

/-! Machine/Report -/

theorem queueReport_wf {r note} (h : MemWf s) : MemWf (queueReport s r note) :=
  option_wf (ite_wf (mk_wf h) (mk_wf h)) (ite_wf (mk_wf h) (ite_wf (mk_wf h) (mk_wf h)))

theorem drainReports_wf {n} (h : MemWf s) : MemWf (drainReports n s) := by
  induction n generalizing s with
  | zero => exact h
  | succ n ih =>
    rw [drainReports]
    split
    · exact ite_wf (ih (mk_wf h)) h
    · exact h

theorem drainAll_wf (h : MemWf s) : MemWf (drainAll s) := drainReports_wf h

theorem sendFault_wf {f} (h : MemWf s) : MemWf (sendFault f s) := queueReport_wf (mk_wf h)

theorem loseFor_wf {detail ctx code status half} (h : MemWf s) : MemWf (loseFor detail ctx code status half s) :=
  ite_wf h (logNote_wf _ (mk_wf h))

theorem lose_wf {ctx code status half} (h : MemWf s) : MemWf (lose ctx code status half s) := loseFor_wf h

theorem loseCause_wf {f} (h : MemWf s) : MemWf (loseCause f s) := ite_wf h (lose_wf (sendFault_wf h))

theorem loseStatus_wf {ctx status half} (h : MemWf s) : MemWf (loseStatus ctx status half s) := lose_wf h

theorem loseAll_wf {l status half} (h : MemWf s) : MemWf (loseAll l status half s) := foldl_wf loseStatus_wf h

/-! Machine/Crypto -/

theorem identitySign_wf {msg} (h : MemWf s) : PairWf (identitySign s msg) :=
  ite_wf h (ite_wf h (OptWf.elim (ite_wf (ite_wf trivial (ite_wf trivial (mk_wf h))) h) (ite_wf (logNote_wf _ h) h) mk_wf))

theorem newAttKey_wf (h : MemWf s) : MemWf (newAttKey s) := (identitySign_wf (mk_wf h)).option mk_wf mk_wf

theorem attSign_wf {msg} (h : MemWf s) : PairWf (attSign s msg) := by
  unfold attSign
  suffices h1 : MemWf _ from ite_wf h1 (mk_wf h1)
  exact ite_wf (newAttKey_wf h) h

/-! Machine/Xlate -/

theorem pickOne_wf {l} (h : MemWf s) : PairWf (pickOne l s) := by
  unfold pickOne
  split
  · exact h
  · exact h
  · exact takeFree_wf h

theorem syncTable_wf {ctx} (h : MemWf s) : MemWf (syncTable s ctx) := by
  refine option_wf h (rawWrite_wf _ _ (coverWords_wf _ _ ?_))
  rw [MemWf, memory_wf_iff] at h
  exact (memory_wf_iff _).2 ⟨tabClear_wf _ _ _ h.1, h.2⟩

theorem tableMet_wf {ctx} (h : MemWf s) : PairWf (tableMet s ctx) := option_wf h (meetAll_pairWf h)

theorem withTable_wf {ctx lost edit} (hlost : ∀ {s}, MemWf s → MemWf (lost s)) (hedit : ∀ {s}, MemWf s → MemWf (edit s))
    (h : MemWf s) : MemWf (withTable ctx lost edit s) :=
  ite_wf (hedit (tableMet_wf h)) (hlost (tableMet_wf h))

theorem walkLoop_wf {ctx va n lo hi} (h : MemWf s) : PairWf (walkLoop ctx va n lo hi s) := by
  induction n generalizing lo hi s with
  | zero => exact h
  | succ n ih =>
    rw [walkLoop]
    suffices h1 : PairWf _ from ite_wf h (ite_wf h1 (option_wf h1 (ite_wf (ih h1) (ih h1))))
    exact meetAll_pairWf h

set_option smartUnfolding true in
theorem walk_wf {ctx va} (h : MemWf s) : PairWf (walk s ctx va) := by
  unfold walk
  dsimp only
  split
  · exact mk_wf h
  · refine ite_wf (mk_wf h) ?_
    split
    next e => exact (of_eq e (walkLoop_wf (mk_wf h)) :)
    next e =>
      have h1 := of_eq e (walkLoop_wf (mk_wf h))
      split
      · exact h1
      · exact ite_wf h1 (ite_wf h1 h1)

theorem tlbFill_wf {p e} (h : MemWf s) : MemWf (tlbFill s p e) := by
  unfold tlbFill
  split
  · exact h
  · exact option_wf (mk_wf h) (mk_wf (mk_wf h))

theorem translate_wf {p ctx va} (h : MemWf s) : TripleWf (translate s p ctx va) := by
  unfold translate
  dsimp only
  refine ite_wf h ?_
  split
  · exact h
  · split
    · exact tlbFill_wf h
    · split
      next e => exact tlbFill_wf (of_eq e (walk_wf h) :)
      next e => exact (of_eq e (walk_wf h) :)

theorem dropLines_wf {p} (h : MemWf s) : MemWf (dropLines s p) := mem_wf h

theorem dropUnfit_wf {p} (h : MemWf s) : MemWf (dropUnfit s p) := dropLines_wf (mem_wf h)

theorem invalidate_wf {pe pl pi} (h : MemWf s) : MemWf (invalidate s pe pl pi) := dropLines_wf (mk_wf h)

theorem invalCtxs_wf {l va n} (h : MemWf s) : MemWf (invalCtxs s l va n) := invalidate_wf h

theorem invalCtx_wf {ctx va n} (h : MemWf s) : MemWf (invalCtx s ctx va n) := invalCtxs_wf h

theorem invalFpa_wf {f n} (h : MemWf s) : MemWf (invalFpa s f n) := invalidate_wf h

set_option smartUnfolding true in
theorem fqPlace_wf {f r} (h : MemWf s) : OptWf (fqPlace s f r) := by
  unfold fqPlace
  split
  · exact mk_wf h
  · refine ite_wf trivial ?_
    dsimp only
    split
    · exact trivial
    next e => exact sendFault_wf (mk_wf (of_eq e (pickOne_wf h) :))

theorem submitFault_wf {f r} (h : MemWf s) : MemWf (submitFault s f r) := ite_wf h ((fqPlace_wf h).elim (mk_wf h) id)

theorem fqDrain_wf (h : MemWf s) : MemWf (fqDrain s) := foldl_wf (fun h1 => (fqPlace_wf h1).elim h1 mk_wf) h

theorem fqLeave_wf {p} (h : MemWf s) : MemWf (fqLeave s p) := fqDrain_wf (mk_wf (mk_wf h))

theorem fqDropCtx_wf {ctx} (h : MemWf s) : MemWf (fqDropCtx s ctx) := fqDrain_wf (mk_wf (mk_wf h))

/-! Machine/FabSend -/

theorem putOut_wf {q f} (h : MemWf s) : MemWf (putOut s q f) := mk_wf h

theorem sendFlow_wf {slot coll f} (h : MemWf s) : SendRes.wf (sendFlow s slot coll f) :=
  ite_wf (mk_wf h) (ite_wf (mk_wf h) (ite_wf (putOut_wf (mk_wf h)) (option_wf (mk_wf h) (putOut_wf (mk_wf h)))))

theorem sendPlain_wf {slot f} (h : MemWf s) : MemWf (sendPlain s slot f) := (sendFlow_wf h).elim id id

theorem kexGo_wf {x} (h : MemWf s) : MemWf (kexGo s x) :=
  ite_wf (sendPlain_wf (mk_wf h)) ((attSign_wf h).option mk_wf (fun h1 => sendPlain_wf (mk_wf h1)))

theorem kexStart_wf {slot peer held} (h : MemWf s) : MemWf (kexStart s slot peer held) :=
  option_wf (ite_wf (kexGo_wf (mk_wf h)) (mk_wf h)) (mk_wf h)

theorem sendSlot_wf {slot coll f} (h : MemWf s) : SendRes.wf (sendSlot s slot coll f) :=
  ite_wf (sendFlow_wf h) (option_wf (kexStart_wf h) (ite_wf (mk_wf (kexStart_wf h)) (sendFlow_wf (mk_wf h))))

theorem sendFor_wf {f} (h : MemWf s) : MemWf (sendFor s f) := option_wf (sendPlain_wf h) ((sendSlot_wf h).elim id id)

theorem takeTag_wf (h : MemWf s) : PairWf (takeTag s) := mk_wf h

theorem sendReqAt_wf {who addr ctx core unit key f} (h : MemWf s) : OptWf (sendReqAt s who addr ctx core unit key f) :=
  (sendSlot_wf (takeTag_wf h)).elim mk_wf (fun _ => trivial)

theorem sendReq_wf {who ctx core unit key f} (h : MemWf s) : OptWf (sendReq s who ctx core unit key f) := sendReqAt_wf h

/-! Machine/Front -/

theorem ringRevoked_wf {ctx half va wher write} (h : MemWf s) : MemWf (ringRevoked s ctx half va wher write) := loseCause_wf h

theorem ringWrite_wf {half wher ctx va l} (h : MemWf s) : MemWf (ringWrite s half wher ctx va l) :=
  foldl_wf (fun h1 => by
    split
    next e =>
      have h2 := of_eq e (translate_wf h1)
      dsimp only
      split
      next e => exact (of_eq e (memWrite_wf _ _ _ _ _ _ h2) :)
      next e => exact (of_eq e (memWrite_wf _ _ _ _ _ _ h2) :)
      · exact h2
    next e => exact ringRevoked_wf (of_eq e (translate_wf h1) :)
    next e => exact (of_eq e (translate_wf h1) :)) h

theorem ringPut_wf {half wher ctx base log pos size l} (h : MemWf s) : MemWf (ringPut s half wher ctx base log pos size l) :=
  ringWrite_wf (ite_wf h (ringWrite_wf h))

theorem ringRead_wf {half wher kind ctx va n} (h : MemWf s) : PairWf (ringRead s half wher kind ctx va n) :=
  foldl_wf (fun h1 => by
    split
    · exact h1
    · split
      next e =>
        have h2 := of_eq e (translate_wf h1)
        split
        next e => exact (of_eq e (memRead_wf _ _ _ _ _ _ h2) :)
        next e => exact (of_eq e (memRead_wf _ _ _ _ _ _ h2) :)
        · exact h2
      next e => exact ringRevoked_wf (of_eq e (translate_wf h1) :)
      next e => exact (of_eq e (translate_wf h1) :)) h

set_option smartUnfolding true in
theorem devPacket_wf {kind n pos x} (h : MemWf s) : PairWf (devPacket s kind n pos x) := by
  unfold devPacket
  dsimp only
  split
  next e => exact (of_eq e (ringRead_wf h) :)
  next e =>
    have h1 := of_eq e (ringRead_wf h)
    refine ite_wf h1 ?_
    split
    next e => exact (of_eq e (ringRead_wf h1) :)
    next e => exact (of_eq e (ringRead_wf h1) :)

theorem setEvent_wf {e v} (h : MemWf s) : MemWf (setEvent s e v) := mk_wf h

theorem regression_wf {e} (h : MemWf s) : MemWf (regression s e) := mk_wf h

theorem postEvent_wf {e v} (h : MemWf s) : MemWf (postEvent s e v) := ite_wf (setEvent_wf h) (ite_wf h (regression_wf h))

theorem cqWrite_wf {n r} (h : MemWf s) : MemWf (cqWrite s n r) :=
  ite_wf (postEvent_wf (mk_wf (ringPut_wf h))) (mk_wf (ringPut_wf h))

theorem sendReply_wf {q p r} (h : MemWf s) : MemWf (sendReply q p r s) := by
  unfold sendReply
  refine ite_wf h ?_
  split
  · exact ite_wf (addChaff_wf h) (ite_wf h (cqWrite_wf h))
  · exact mk_wf h
  · exact mk_wf h
  · exact sendFor_wf h

theorem answer_wf {q p status} (h : MemWf s) : MemWf (answer q p status s) := sendReply_wf h

theorem answerAt_wf {q p status cursor} (h : MemWf s) : MemWf (answerAt q p status cursor s) := sendReply_wf h

theorem answerW4_wf {q p status w4} (h : MemWf s) : MemWf (answerW4 q p status w4 s) := sendReply_wf h

theorem begin_wf {q p j cursor} (h : MemWf s) : MemWf (begin q p j cursor s) := mk_wf h

theorem finish_wf {id f} (hf : ∀ {q p s}, MemWf s → MemWf (f q p s)) (h : MemWf s) : MemWf (finish id f s) :=
  option_wf h (hf (mk_wf h))

theorem finishStatus_wf {id status} (h : MemWf s) : MemWf (finishStatus id status s) := finish_wf answer_wf h

theorem unbindCheck_wf (h : MemWf s) : MemWf (unbindCheck s) :=
  foldl_wf (fun h1 => option_wf (mk_wf h1) (finishStatus_wf (mk_wf h1))) h

theorem wakeTen_wf {t} (h : MemWf s) : MemWf (wakeTen s t) := option_wf h (mk_wf (lullWake_wf h))

theorem wakeRun_wf {r} (h : MemWf s) : MemWf (wakeRun s r) := option_wf h (mk_wf (lullWake_wf h))

theorem wake_wf {w} (h : MemWf s) : MemWf (wake w s) := by
  unfold wake
  split
  · exact finishStatus_wf h
  · exact wakeTen_wf h
  · exact wakeRun_wf h
  · exact sendFor_wf h
  · exact mk_wf h

theorem releaseEv_wf {e} (h : MemWf s) : MemWf (releaseEv s e) := foldl_wf wake_wf (mk_wf h)

theorem wakeLoop_wf {n} (h : MemWf s) : MemWf (wakeLoop n s) := by
  induction n generalizing s with
  | zero => exact h
  | succ n ih =>
    rw [wakeLoop]
    exact option_wf h (ih (releaseEv_wf h))

theorem wakeOut_wf (h : MemWf s) : MemWf (wakeOut s) := wakeLoop_wf h

theorem wakeAll_wf (h : MemWf s) : MemWf (wakeAll s) := unbindCheck_wf (wakeOut_wf h)

theorem record_wf {e v} (h : MemWf s) : PairWf (record s e v) :=
  ite_wf (wakeOut_wf (releaseEv_wf (setEvent_wf h))) (ite_wf h (regression_wf h))

theorem postBy_wf {e v run incarn} (h : MemWf s) : MemWf (postBy s e v run incarn) := ite_wf (mk_wf h) h

theorem registerWait_wf {w} (h : MemWf s) : MemWf (registerWait s w) := ite_wf (wake_wf h) (ite_wf (mk_wf h) (mk_wf h))

theorem sendForCtx_wf {ctx mid unit key p} (h : MemWf s) : MemWf (sendForCtx s ctx mid unit key p) := (sendSlot_wf h).elim id id

theorem popQp_wf {n} (h : MemWf s) : MemWf (popQp s n) := list_wf h (ite_wf (record_wf (mk_wf h)) (mk_wf h))

theorem popMgmt_wf {half} (h : MemWf s) : MemWf (popMgmt s half) := mk_wf h

theorem chargeItem_wf {half cls cost} (h : MemWf s) : MemWf (chargeItem half cls cost s) := mk_wf h

theorem startWith_wf {f q p} (hf : HandlerWf f) (h : MemWf s) : MemWf (startWith f q p s) :=
  option_wf (wakeAll_wf (hf h)) (answer_wf h)

theorem refuse_wf {port p status dup w4} (h : MemWf s) : MemWf (refuse port p status dup w4 s) := ite_wf (mk_wf h) (mk_wf h)

theorem startItem_wf {f half q p} (hf : HandlerWf f) (h : MemWf s) : MemWf (startItem f half q p s) :=
  startWith_wf hf (chargeItem_wf h)

theorem acceptMgmt_wf {f port p} (hf : HandlerWf f) (h : MemWf s) : MemWf (acceptMgmt f port p s) :=
  ite_wf (startItem_wf hf (mk_wf h)) (mk_wf (mk_wf h))

theorem acceptQp_wf {f p} (hf : HandlerWf f) (h : MemWf s) : MemWf (acceptQp f p s) :=
  ite_wf (startItem_wf hf (popQp_wf (mk_wf (ringPut_wf h)))) (mk_wf (ringPut_wf h))

theorem arriveHaldip_wf {f port p} (hf : HandlerWf f) (h : MemWf s) : MemWf (arriveHaldip f port p s) := by
  unfold arriveHaldip
  extract_lets +onlyGivenNames s
  have h1 : MemWf s := ite_wf (lullWake_wf h) h
  dsimp only
  refine ite_wf h1 ?_
  refine ite_wf (mk_wf h1) ?_
  split
  · suffices h2 : MemWf _ from refuse_wf (ite_wf h2 (ite_wf (mk_wf h2) (mk_wf h2)))
    exact ite_wf h1 (ite_wf (mk_wf h1) (mk_wf h1))
  · exact ite_wf (acceptMgmt_wf hf h1) (acceptQp_wf hf h1)

theorem sideGoesOn_wf {f} (hf : HandlerWf f) (h : MemWf s) : MemWf (sideGoesOn f s) :=
  list_wf h (ite_wf h (startWith_wf hf (mk_wf h)))

theorem arriveSide_wf {f p} (hf : HandlerWf f) (h : MemWf s) : MemWf (arriveSide f p s) :=
  ite_wf h (ite_wf (mk_wf h) (ite_wf h (ite_wf (mk_wf h) (ite_wf (mk_wf h) (ite_wf (answer_wf h)
              (ite_wf (answer_wf h) (ite_wf (answer_wf h) (ite_wf (sendReply_wf h) (ite_wf (answerW4_wf h)
                      (ite_wf (mk_wf (mk_wf h)) (startWith_wf hf (mk_wf h))))))))))))

theorem fabGate_wf {pid pgen} (h : MemWf s) : FabGate.wf (fabGate s pid pgen) :=
  ite_wf trivial (option_wf (mk_wf h) (ite_wf trivial (addChaff_wf h)))

theorem arrive_wf {f g p} (hf : HandlerWf f) (hg : HandlerWf g) (h : MemWf s) : MemWf (arrive f g p s) := by
  unfold arrive
  split
  · exact arriveHaldip_wf hf h
  · exact arriveSide_wf hf h
  · exact ite_wf h ((fabGate_wf h).elim (hg h) id)
  · exact h

theorem wrongOnFabric_wf {q p} (h : MemWf s) : MemWf (wrongOnFabric q p s) := answer_wf h

/-! Machine/Kex -/

theorem sendHeld_wf {slot l} (h : MemWf s) : MemWf (sendHeld s slot l) := foldl_wf (fun h1 => (sendSlot_wf h1).elim id id) h

theorem kexInstall_wf {x k} (h : MemWf s) : MemWf (kexInstall s x k) := sendHeld_wf (mk_wf (foldl_wf mk_wf (mk_wf h)))

theorem kexRefused_wf {slot peer st} (h : MemWf s) : MemWf (kexRefused s slot peer st) :=
  ite_wf (logNote_wf _ (mk_wf h)) (mk_wf h)

theorem kexFails_wf {x st} (h : MemWf s) : MemWf (kexFails s x st) := mk_wf (kexRefused_wf h)

theorem kexNo_wf {q p src st} (h : MemWf s) : MemWf (kexNo q p src st s) := answer_wf (ite_wf h (kexRefused_wf h))

theorem takeKexChain_wf {q p src} (h : MemWf s) : MemWf (takeKexChain q p src s) := by
  unfold takeKexChain
  dsimp only
  refine ite_wf (answer_wf h) ?_
  split
  · exact kexNo_wf h
  · exact ite_wf (kexNo_wf h) (foldl_wf kexGo_wf (ite_wf (sendPlain_wf (answer_wf (mk_wf h))) (answer_wf (mk_wf h))))

theorem takeKexInit_wf {q p src} (h : MemWf s) : MemWf (takeKexInit q p src s) := by
  unfold takeKexInit
  refine ite_wf (answer_wf h) ?_
  split
  · exact kexNo_wf h
  · refine ite_wf (answer_wf h) (ite_wf (kexNo_wf h) ?_)
    extract_lets _ t
    have h1 : MemWf t := by
      unfold t
      split
      · exact mk_wf h
      · exact h
    split
    next e =>
      extract_lets
      split
      next e1 => exact kexNo_wf (of_eq e1 (attSign_wf (of_eq e (takeNum_wf h1) :)) :)
      next e1 => exact sendReply_wf (mk_wf (mk_wf (of_eq e1 (attSign_wf (of_eq e (takeNum_wf h1) :)) :)))

theorem takeKexResp_wf {x pl} (h : MemWf s) : MemWf (takeKexResp s x pl) := by
  unfold takeKexResp
  extract_lets +onlyGivenNames own bad
  have h1 : ∀ {st}, MemWf (bad st) := kexFails_wf h
  refine ite_wf h1 ?_
  split
  · exact h1
  · exact ite_wf h1 (sendPlain_wf (mk_wf h))

theorem takeKexConfirm_wf {q p src} (h : MemWf s) : MemWf (takeKexConfirm q p src s) := by
  unfold takeKexConfirm
  dsimp only
  refine ite_wf (answer_wf h) ?_
  split
  · exact kexNo_wf h
  · exact option_wf (kexNo_wf h) (ite_wf (kexNo_wf (mk_wf h)) (kexInstall_wf (answer_wf h)))

theorem kexAgain_wf {x} (h : MemWf s) : MemWf (kexAgain s x) := kexGo_wf (mk_wf h)

theorem takeKexAnswer_wf {mid p} (h : MemWf s) : MemWf (takeKexAnswer s mid p) :=
  option_wf h (ite_wf h (ite_wf (option_wf (kexFails_wf h) (kexAgain_wf h)) (ite_wf (mk_wf h)
          (ite_wf (kexFails_wf h) (ite_wf (takeKexResp_wf h) (ite_wf (kexInstall_wf h) h))))))

theorem startKex_wf {q p} (h : MemWf s) : MemWf (startKex q p s) := by
  unfold startKex
  split
  · refine ite_wf (answer_wf h) ?_
    split
    · exact takeKexChain_wf h
    · exact takeKexInit_wf h
    · exact takeKexConfirm_wf h
    · exact answer_wf h
  · exact answer_wf h

theorem execLinkKexChain_wf {p} (h : MemWf s) : NextWf (execLinkKexChain p s) := arrive_wf wrongOnFabric_wf startKex_wf h

theorem execLinkKexInit_wf {p} (h : MemWf s) : NextWf (execLinkKexInit p s) := arrive_wf wrongOnFabric_wf startKex_wf h

theorem execLinkKexResp_wf {p} (h : MemWf s) : NextWf (execLinkKexResp p s) :=
  arrive_wf wrongOnFabric_wf (fun h1 => by
    split
    · exact takeKexAnswer_wf h1
    · exact h1) h

theorem execLinkKexConfirm_wf {p} (h : MemWf s) : NextWf (execLinkKexConfirm p s) := arrive_wf wrongOnFabric_wf startKex_wf h

theorem execLinkKexRetry_wf {slot peer} (h : MemWf s) : NextWf (execLinkKexRetry slot peer s) :=
  option_wf h (option_wf h (kexAgain_wf h))

theorem execLinkKexGiveUp_wf {slot peer} (h : MemWf s) : NextWf (execLinkKexGiveUp slot peer s) :=
  option_wf h (wakeAll_wf (loseAll_wf (mk_wf (kexRefused_wf h))))

theorem execLinkKeyExpire_wf {slot peer keyix} (h : MemWf s) : NextWf (execLinkKeyExpire slot peer keyix s) := mk_wf h

/-! Machine/Link -/

theorem sendFlit_wf {q o t} (h : MemWf s) : FstWf (sendFlit s q o t) := by
  unfold sendFlit
  extract_lets _ _ _ _ a u
  have h1 : MemWf a := mk_wf (mk_wf h)
  unfold u
  split
  · exact mk_wf h1
  · exact h1

theorem fillSlot_wf {q r i} (hr : FstWf r) : FstWf (fillSlot q r i) := by
  unfold fillSlot
  dsimp only
  split
  · exact sendFlit_wf hr
  · exact hr

set_option smartUnfolding true in
theorem sendFrame_wf {q} (h : MemWf s) : MemWf (sendFrame s q) := by
  unfold sendFrame
  refine ite_wf h ?_
  extract_lets r
  have h1 : FstWf r := foldl_wf fillSlot_wf h
  exact mk_wf (s := r.1) h1

theorem frameTick_wf (h : MemWf s) : MemWf (frameTick s) := ite_wf (foldl_wf sendFrame_wf h) h

/-! Machine/Flags -/

theorem ctxOvf_wf {ctx} (h : MemWf s) : MemWf (ctxOvf s ctx) := mk_wf h

theorem ctxRelaxed_wf {ctx} (h : MemWf s) : MemWf (ctxRelaxed s ctx) := mk_wf h

theorem runOvf_wf {run incarn} (h : MemWf s) : MemWf (runOvf s run incarn) := option_wf h (ite_wf (mk_wf h) h)

theorem tenOvf_wf {t} (h : MemWf s) : MemWf (tenOvf s t) := by
  unfold tenOvf
  split
  · exact h
  · suffices h1 : MemWf _ from option_wf (runOvf_wf h1) h1
    exact ctxOvf_wf (mk_wf h)

theorem ctxArithClear_wf {ctx v} (h : MemWf s) : MemWf (ctxArithClear s ctx v) := mk_wf h

/-! Machine/Issue -/

theorem coreFault_wf {x cause write addr detail} (h : MemWf s) : MemWf (coreFault x cause write addr detail s) := loseCause_wf h

theorem coreXlate_wf {x kind cause va} (h : MemWf s) : PairWf (coreXlate s x kind cause va) := by
  unfold coreXlate
  dsimp only
  split
  next e =>
    have h1 := of_eq e (translate_wf h)
    exact ite_wf h1 (coreFault_wf h1)
  next e => exact coreFault_wf (of_eq e (translate_wf h) :)
  next e => exact (of_eq e (translate_wf h) :)
  next e => exact coreFault_wf (of_eq e (translate_wf h) :)

theorem icFill_wf {core l} (h : MemWf s) : MemWf (icFill s core l) := mk_wf h

theorem fetch_wf {x} (h : MemWf s) : PairWf (fetch s x) := by
  unfold fetch
  refine ite_wf h ?_
  dsimp only
  refine ite_wf h ?_
  split
  next e => exact coreFault_wf (of_eq e (translate_wf h) :)
  next e => exact (of_eq e (translate_wf h) :)
  next e =>
    have h1 := of_eq e (translate_wf h)
    refine ite_wf (coreFault_wf h1) ?_
    refine ite_wf ((sendReqAt_wf h1).elim (coreFault_wf h1) id) ?_
    split
    next e => exact icFill_wf (of_eq e (memRead_wf _ _ _ _ _ _ h1) :)
    next e => exact (of_eq e (memRead_wf _ _ _ _ _ _ h1) :)
    · exact coreFault_wf h1
  next e => exact coreFault_wf (of_eq e (translate_wf h) :)

theorem issue_wf {t regs proper f} (hf : ∀ {x s}, MemWf s → MemWf (f x s)) (h : MemWf s) : MemWf (issue t regs proper f s) :=
  option_wf h (ite_wf h ((fetch_wf h).bool id (fun h1 => ite_wf (hf h1) (coreFault_wf h1))))

theorem applyEff_wf {x e} (h : MemWf s) : MemWf (applyEff x e s) := by
  unfold applyEff
  split
  · exact ite_wf (tenOvf_wf (mk_wf h)) (mk_wf h)
  · exact coreFault_wf h

theorem issueTen_wf {t regs proper f} (h : MemWf s) : MemWf (issueTen t regs proper f s) := issue_wf applyEff_wf h

theorem sramSeen_wf {x e} (h : MemWf s) : MemWf (sramSeen x e s) := by
  unfold sramSeen
  dsimp only
  split
  · exact h
  · exact logNote_wf _ h
  · exact loseStatus_wf (logNote_wf _ h)

theorem issueRead_wf {t regs proper e f} (h : MemWf s) : MemWf (issueRead t regs proper e f s) :=
  issue_wf (fun h1 => by
    split
    · exact sramSeen_wf h1
    · exact sramSeen_wf (applyEff_wf h1)
    · exact applyEff_wf h1) h

theorem abandonSample_wf {x} (h : MemWf s) : MemWf (abandonSample x s) := option_wf h (mk_wf (mk_wf h))

theorem logRead_wf {t l} (h : MemWf s) : MemWf (logRead t l s) :=
  option_wf h (option_wf h (ite_wf (abandonSample_wf h) (mk_wf h)))

/-! Machine/Scalar -/

theorem scalarR_wf {t bits useC f} (h : MemWf s) : MemWf (scalarR t bits useC f s) := issueTen_wf h

theorem execAdd_wf {t w} (h : MemWf s) : NextWf (execAdd t w s) := scalarR_wf h

theorem execSub_wf {t w} (h : MemWf s) : NextWf (execSub t w s) := scalarR_wf h

theorem execAndX_wf {t w} (h : MemWf s) : NextWf (execAndX t w s) := scalarR_wf h

theorem execOrX_wf {t w} (h : MemWf s) : NextWf (execOrX t w s) := scalarR_wf h

theorem execXorX_wf {t w} (h : MemWf s) : NextWf (execXorX t w s) := scalarR_wf h

theorem execShl_wf {t w} (h : MemWf s) : NextWf (execShl t w s) := scalarR_wf h

theorem execShr_wf {t w} (h : MemWf s) : NextWf (execShr t w s) := scalarR_wf h

theorem execSra_wf {t w} (h : MemWf s) : NextWf (execSra t w s) := scalarR_wf h

theorem execMul_wf {t w} (h : MemWf s) : NextWf (execMul t w s) := scalarR_wf h

theorem execMulhu_wf {t w} (h : MemWf s) : NextWf (execMulhu t w s) := scalarR_wf h

theorem execMulhs_wf {t w} (h : MemWf s) : NextWf (execMulhs t w s) := scalarR_wf h

theorem execDivu_wf {t w} (h : MemWf s) : NextWf (execDivu t w s) := scalarR_wf h

theorem execDivs_wf {t w} (h : MemWf s) : NextWf (execDivs t w s) := scalarR_wf h

theorem execRemu_wf {t w} (h : MemWf s) : NextWf (execRemu t w s) := scalarR_wf h

theorem execRems_wf {t w} (h : MemWf s) : NextWf (execRems t w s) := scalarR_wf h

theorem execSlt_wf {t w} (h : MemWf s) : NextWf (execSlt t w s) := scalarR_wf h

theorem execSltu_wf {t w} (h : MemWf s) : NextWf (execSltu t w s) := scalarR_wf h

theorem execSeqEq_wf {t w} (h : MemWf s) : NextWf (execSeqEq t w s) := scalarR_wf h

theorem execMins_wf {t w} (h : MemWf s) : NextWf (execMins t w s) := scalarR_wf h

theorem execMaxs_wf {t w} (h : MemWf s) : NextWf (execMaxs t w s) := scalarR_wf h

theorem execMinu_wf {t w} (h : MemWf s) : NextWf (execMinu t w s) := scalarR_wf h

theorem execMaxu_wf {t w} (h : MemWf s) : NextWf (execMaxu t w s) := scalarR_wf h

theorem execSel_wf {t w} (h : MemWf s) : NextWf (execSel t w s) := scalarR_wf h

theorem execMovi_wf {t w} (h : MemWf s) : NextWf (execMovi t w s) := issueTen_wf h

theorem execSethi_wf {t w} (h : MemWf s) : NextWf (execSethi t w s) := issueTen_wf h

theorem execLd_wf {t w e} (h : MemWf s) : NextWf (execLd t w e s) := issueRead_wf h

theorem execSt_wf {t w} (h : MemWf s) : NextWf (execSt t w s) := issueTen_wf h

theorem execBr_wf {t w} (h : MemWf s) : NextWf (execBr t w s) := issueTen_wf h

theorem execJal_wf {t w} (h : MemWf s) : NextWf (execJal t w s) := issueTen_wf h

theorem execJalr_wf {t w} (h : MemWf s) : NextWf (execJalr t w s) := issueTen_wf h

theorem execSpr_wf {t w} (h : MemWf s) : NextWf (execSpr t w s) := issue_wf (fun h1 => logRead_wf (mk_wf h1)) h

theorem execFlagclr_wf {t w} (h : MemWf s) : NextWf (execFlagclr t w s) := issue_wf (fun h1 => ctxArithClear_wf (mk_wf h1)) h

theorem execTrap_wf {t w} (h : MemWf s) : NextWf (execTrap t w s) := issue_wf coreFault_wf h

/-! Machine/Vector -/

theorem vecOp_wf {t bits useB useC useFn fnMax tys f} (h : MemWf s) : MemWf (vecOp t bits useB useC useFn fnMax tys f s) :=
  issueTen_wf h

theorem execVadd_wf {t w} (h : MemWf s) : NextWf (execVadd t w s) := vecOp_wf h

theorem execVsub_wf {t w} (h : MemWf s) : NextWf (execVsub t w s) := vecOp_wf h

theorem execVmul_wf {t w} (h : MemWf s) : NextWf (execVmul t w s) := vecOp_wf h

theorem execVfma_wf {t w} (h : MemWf s) : NextWf (execVfma t w s) := vecOp_wf h

theorem execVdiv_wf {t w} (h : MemWf s) : NextWf (execVdiv t w s) := vecOp_wf h

theorem execVmin_wf {t w} (h : MemWf s) : NextWf (execVmin t w s) := vecOp_wf h

theorem execVmax_wf {t w} (h : MemWf s) : NextWf (execVmax t w s) := vecOp_wf h

theorem execVand_wf {t w} (h : MemWf s) : NextWf (execVand t w s) := vecOp_wf h

theorem execVor_wf {t w} (h : MemWf s) : NextWf (execVor t w s) := vecOp_wf h

theorem execVxor_wf {t w} (h : MemWf s) : NextWf (execVxor t w s) := vecOp_wf h

theorem execVshl_wf {t w} (h : MemWf s) : NextWf (execVshl t w s) := vecOp_wf h

theorem execVshr_wf {t w} (h : MemWf s) : NextWf (execVshr t w s) := vecOp_wf h

theorem execVsra_wf {t w} (h : MemWf s) : NextWf (execVsra t w s) := vecOp_wf h

theorem execVsgn_wf {t w} (h : MemWf s) : NextWf (execVsgn t w s) := vecOp_wf h

theorem execVfunc_wf {t w} (h : MemWf s) : NextWf (execVfunc t w s) := vecOp_wf h

theorem execVcmp_wf {t w} (h : MemWf s) : NextWf (execVcmp t w s) := issueTen_wf h

theorem execVcvt_wf {t w} (h : MemWf s) : NextWf (execVcvt t w s) := issueTen_wf h

theorem execVred_wf {t w} (h : MemWf s) : NextWf (execVred t w s) := issueTen_wf h

theorem execVbcast_wf {t w} (h : MemWf s) : NextWf (execVbcast t w s) := issueTen_wf h

theorem execVext_wf {t w} (h : MemWf s) : NextWf (execVext t w s) := issueTen_wf h

theorem execVins_wf {t w} (h : MemWf s) : NextWf (execVins t w s) := issueTen_wf h

theorem execVperm_wf {t w} (h : MemWf s) : NextWf (execVperm t w s) := issueTen_wf h

theorem execViota_wf {t w} (h : MemWf s) : NextWf (execViota t w s) := issueTen_wf h

theorem execVld_wf {t w e} (h : MemWf s) : NextWf (execVld t w e s) := issueRead_wf h

theorem execVst_wf {t w} (h : MemWf s) : NextWf (execVst t w s) := issueTen_wf h

theorem execVldc_wf {t w} (h : MemWf s) : NextWf (execVldc t w s) := issueTen_wf h

theorem execVstc_wf {t w} (h : MemWf s) : NextWf (execVstc t w s) := issueTen_wf h

theorem execPlog_wf {t w} (h : MemWf s) : NextWf (execPlog t w s) := issueTen_wf h

/-! Machine/Tensor -/

theorem execTmma_wf {t w e} (h : MemWf s) : NextWf (execTmma t w e s) := issueRead_wf h

theorem execAclr_wf {t w} (h : MemWf s) : NextWf (execAclr t w s) := issueTen_wf h

theorem execAld_wf {t w} (h : MemWf s) : NextWf (execAld t w s) := issueTen_wf h

theorem execAdrain_wf {t w} (h : MemWf s) : NextWf (execAdrain t w s) := issueTen_wf h

/-! Machine/KernelEnd -/

theorem kernelEnd_wf {t release} (h : MemWf s) : MemWf (kernelEnd s t release) := by
  unfold kernelEnd
  split
  · exact h
  · extract_lets c s _ t
    have h1 : MemWf t := by
      unfold t
      split
      · exact mk_wf (mk_wf h)
      · exact sendForCtx_wf (mk_wf h)
    exact ite_wf (mk_wf h1) (mk_wf h1)

theorem endStep_wf {t release} (h : MemWf s) : MemWf (endStep s t release) :=
  option_wf h (ite_wf (mk_wf h) (ite_wf (mk_wf h) (kernelEnd_wf h)))

theorem endCheck_wf {t} (h : MemWf s) : MemWf (endCheck s t) := by
  unfold endCheck
  split
  · exact h
  · split
    · exact endStep_wf h
    · exact h

/-! Machine/Transfer -/

theorem updXfer_wf {t off g} (h : MemWf s) : MemWf (updXfer s t off g) := option_wf h (option_wf h (mk_wf h))

theorem memSide_wf {x f src va i4} (h : MemWf s) : PairWf (memSide s x f src va i4) := by
  unfold memSide
  dsimp only
  split
  next e => exact (of_eq e (translate_wf h) :)
  next e => exact (of_eq e (translate_wf h) :)
  next e => exact (of_eq e (translate_wf h) :)
  next e => exact (of_eq e (translate_wf h) :)
  next e =>
    have h1 := of_eq e (translate_wf h)
    exact ite_wf h1 (option_wf (ite_wf h1 h1) h1)

theorem sideOf_wf {x f src e} (h : MemWf s) : PairWf (sideOf s x f src e) := by
  unfold sideOf
  dsimp only
  split
  · exact h
  · split
    · exact h
    · exact h
    · exact h
    · exact h
    · exact h
  · exact ite_wf h (memSide_wf h)

theorem useLines_wf {m ctx a n} (h : MemWf s) : MemWf (useLines s m ctx a n) := mem_wf (dropUnfit_wf h)

theorem stopXfer_wf {x f src cause va detail} (h : MemWf s) : MemWf (stopXfer s x f src cause va detail) :=
  submitFault_wf (updXfer_wf h)

theorem sideStop_wf {x f src d} (h : MemWf s) : MemWf (sideStop s x f src d) := by
  unfold sideStop
  split
  · exact stopXfer_wf h
  · exact loseCause_wf h
  · exact h

theorem elemDone_wf {t off} (h : MemWf s) : MemWf (elemDone s t off) := updXfer_wf h

theorem noteEntered_wf {x f src va} (h : MemWf s) : MemWf (noteEntered s x f src va) := by
  unfold noteEntered
  split
  next e => exact updXfer_wf (of_eq e (translate_wf h) :)
  next e => exact (of_eq e (translate_wf h) :)

theorem putElem_wf {x f data} (h : MemWf s) : PairWf (putElem s x f data) := by
  unfold putElem
  dsimp only
  split
  next e =>
    have h1 := of_eq e (sideOf_wf h)
    exact option_wf h1 (elemDone_wf (mk_wf h1))
  next e =>
    have h2 := of_eq e (sideOf_wf h)
    split
    next e => exact elemDone_wf (noteEntered_wf (of_eq e (memWrite_wf _ _ _ _ _ _ h2) :))
    next e => exact (of_eq e (memWrite_wf _ _ _ _ _ _ h2) :)
    · exact stopXfer_wf h2
  next e =>
    have h3 := of_eq e (sideOf_wf h)
    exact (sendReq_wf h3).elim (stopXfer_wf h3) id
  next e =>
    have h4 := of_eq e (sideOf_wf h)
    exact (sendReq_wf h4).elim (stopXfer_wf h4) id
  next e => exact sideStop_wf (of_eq e (sideOf_wf h) :)

theorem enterGather_wf {x f} (h : MemWf s) : PairWf (enterGather s x f) := ite_wf (updXfer_wf h) h

theorem moveElem_wf {x f} (h : MemWf s) : PairWf (moveElem s x f) := by
  unfold moveElem
  split
  next e =>
    have h1 := of_eq e (enterGather_wf h)
    dsimp only
    split
    next e =>
      have h2 := of_eq e (sideOf_wf h1)
      exact option_wf h2 (putElem_wf (ite_wf h2 (logRead_wf h2)))
    next e =>
      have h3 := of_eq e (sideOf_wf h1)
      split
      next e => exact putElem_wf (logRead_wf (noteEntered_wf (useLines_wf (of_eq e (memRead_wf _ _ _ _ _ _ h3) :))))
      next e => exact (of_eq e (memRead_wf _ _ _ _ _ _ h3) :)
      · exact stopXfer_wf h3
    next e =>
      have h4 := of_eq e (sideOf_wf h1)
      exact (sendReq_wf h4).elim (stopXfer_wf h4) id
    next e =>
      have h5 := of_eq e (sideOf_wf h1)
      exact (sendReq_wf h5).elim (stopXfer_wf h5) id
    next e => exact sideStop_wf (of_eq e (sideOf_wf h1) :)

theorem engine_wf {n t off goal} (h : MemWf s) : MemWf (engine n s t off goal) := by
  induction n generalizing s with
  | zero => exact h
  | succ n ih =>
    rw [engine]
    exact option_wf h (option_wf h (ite_wf h (ite_wf (ih (moveElem_wf h)) (moveElem_wf h))))

theorem progWake_wf {t} (h : MemWf s) : MemWf (progWake s t) := by
  unfold progWake
  split
  · exact h
  · split
    · exact ite_wf (wakeTen_wf h) h
    · exact h

theorem tenGo_wf {t} (h : MemWf s) : MemWf (tenGo s t) := endCheck_wf (progWake_wf h)

theorem engineTo_wf {t off goal} (h : MemWf s) : MemWf (engineTo s t off goal) :=
  option_wf h (option_wf (tenGo_wf h) (tenGo_wf (engine_wf h)))

theorem wholeCheck_wf {x f src} (h : MemWf s) : PairWf (wholeCheck s x f src) := by
  unfold wholeCheck
  dsimp only
  generalize e : translate s _ _ _ = r
  have h1 : TripleWf r := e ▸ translate_wf h
  refine ite_wf h ?_
  split
  · exact ite_wf (ite_wf h1 (by split <;> exact h1)) h1
  · exact h1
  · exact h1

theorem probeSide_wf {x f src} (h : MemWf s) : MemWf (probeSide s x f src) := by
  unfold probeSide
  extract_lets +onlyGivenNames lcid
  refine ite_wf h ?_
  split
  · split
    · extract_lets +onlyGivenNames outside ask
      have h1 : ∀ {s off}, MemWf s → MemWf (ask s off) := fun h2 => (sendReqAt_wf h2).elim (stopXfer_wf h2) updXfer_wf
      exact ite_wf (h1 h) (h1 (h1 h))
  · exact h

set_option smartUnfolding true in
theorem execXfer_wf {t w} (h : MemWf s) : NextWf (execXfer t w s) := by
  unfold execXfer
  exact issue_wf (fun h1 => by
    dsimp only
    refine ite_wf (coreFault_wf h1) ?_
    refine ite_wf (coreFault_wf h1) ?_
    refine ite_wf h1 ?_
    split
    · exact h1
    · split
      · exact coreFault_wf h1
      · split
        next e => exact sideStop_wf (of_eq e (wholeCheck_wf (mk_wf h1)) :)
        next e =>
          have h2 := of_eq e (wholeCheck_wf (mk_wf h1))
          split
          next e => exact sideStop_wf (of_eq e (wholeCheck_wf h2) :)
          next e => exact probeSide_wf (probeSide_wf (of_eq e (wholeCheck_wf h2) :))) h

theorem execXwait_wf {t w} (h : MemWf s) : NextWf (execXwait t w s) := issue_wf (fun h1 => engineTo_wf (mk_wf h1)) h

theorem execXprog_wf {t w moved} (h : MemWf s) : NextWf (execXprog t w moved s) :=
  issue_wf (fun h1 => by
    suffices h2 : MemWf _ from option_wf h2 (ite_wf h2 (logRead_wf (mk_wf h2)))
    exact option_wf h1 (engineTo_wf h1)) h

theorem execTransferDone_wf {t off} (h : MemWf s) : NextWf (execTransferDone t off s) := option_wf h (option_wf h (engineTo_wf h))

theorem execTransferFault_wf {t off} (h : MemWf s) : NextWf (execTransferFault t off s) :=
  option_wf h (option_wf h (engineTo_wf h))

/-! Machine/Remote -/

theorem putReg_wf {t vec reg data} (h : MemWf s) : MemWf (putReg s t vec reg data) := option_wf h (ite_wf (mk_wf h) (mk_wf h))

theorem serveRem_wf {a} (h : MemWf s) : MemWf (serveRem s a) :=
  option_wf (option_wf h (coreFault_wf h)) (ite_wf (option_wf h (coreFault_wf h)) (option_wf (logRead_wf (putReg_wf h)) (mk_wf h)))

theorem remoteAcc_wf {t bits store} (h : MemWf s) : MemWf (remoteAcc t bits store s) :=
  issue_wf (fun h1 => by
    dsimp only
    refine ite_wf (coreFault_wf h1) ?_
    refine ite_wf h1 ?_
    split
    · exact coreFault_wf h1
    · exact ite_wf (coreFault_wf h1) ((sendReqAt_wf (mk_wf h1)).elim (coreFault_wf h1) id)
    · exact ite_wf h1 (coreFault_wf h1)
    · exact ite_wf (mk_wf (mk_wf h1)) (option_wf (coreFault_wf h1) (ite_wf (coreFault_wf h1) (serveRem_wf (mk_wf h1))))) h

theorem execRst_wf {t w} (h : MemWf s) : NextWf (execRst t w s) := remoteAcc_wf h

theorem execRld_wf {t w} (h : MemWf s) : NextWf (execRld t w s) := remoteAcc_wf h

theorem nearDo_wf {r} (h : MemWf s) : TripleWf (nearDo s r) := by
  unfold nearDo
  dsimp only
  refine ite_wf h ?_
  split
  next e =>
    have h1 := of_eq e (memRead_wf _ _ _ _ _ _ h)
    split
    next e => exact (of_eq e (memWrite_wf _ _ _ _ _ _ h1) :)
    next e => exact (of_eq e (memWrite_wf _ _ _ _ _ _ h1) :)
    · exact h1
  next e => exact (of_eq e (memRead_wf _ _ _ _ _ _ h) :)
  · exact h

theorem nearRelaxed_wf {r} (h : MemWf s) : MemWf (nearRelaxed s r) := ite_wf (ctxRelaxed_wf h) h

theorem execNearMemoryOp_wf {r} (h : MemWf s) : NextWf (execNearMemoryOp r s) := mem_wf (nearDo_wf h)

theorem nearIssue_wf {x va reg r} (h : MemWf s) : MemWf (nearIssue s x va reg r) := by
  unfold nearIssue
  dsimp only
  refine ite_wf ?_ ((sendReqAt_wf h).elim (coreFault_wf (mk_wf h)) nearRelaxed_wf)
  split
  next e =>
    have h1 := of_eq e (nearDo_wf h)
    suffices h2 : MemWf _ from option_wf h2 (putReg_wf h2)
    exact nearRelaxed_wf h1
  next e => exact mk_wf (of_eq e (nearDo_wf h) :)
  next e => exact coreFault_wf (mk_wf (of_eq e (nearDo_wf h) :))

theorem execAtom_wf {t w} (h : MemWf s) : NextWf (execAtom t w s) :=
  issue_wf (fun h1 => by
    extract_lets +onlyGivenNames s
    have h2 : MemWf s := abandonSample_wf h1
    dsimp only
    refine ite_wf (coreFault_wf h2) ?_
    refine ite_wf (coreFault_wf h2) ?_
    split
    next e => exact (of_eq e (coreXlate_wf h2) :)
    next e =>
      have h3 := of_eq e (coreXlate_wf h2)
      exact ite_wf (coreFault_wf h3) ((nearIssue_wf (mk_wf h3)))) h

theorem execRed_wf {t w} (h : MemWf s) : NextWf (execRed t w s) :=
  issue_wf (fun h1 => by
    extract_lets +onlyGivenNames s
    have h2 : MemWf s := abandonSample_wf h1
    dsimp only
    refine ite_wf (coreFault_wf h2) ?_
    split
    next e => exact (of_eq e (coreXlate_wf h2) :)
    next e =>
      have h3 := of_eq e (coreXlate_wf h2)
      exact ite_wf (coreFault_wf h3) (nearIssue_wf (mk_wf h3))) h

set_option smartUnfolding true in
theorem vredwReqs_wf {x v ls va l} (h : MemWf s) : PairWf (vredwReqs s x v ls va l) := by
  induction l generalizing s with
  | nil => exact h
  | cons line t ih =>
    rw [vredwReqs]
    split
    next e => exact (of_eq e (coreXlate_wf h) :)
    next e =>
      have h1 := of_eq e (coreXlate_wf h)
      refine ite_wf (coreFault_wf h1) (ite_wf (coreFault_wf h1) ?_)
      dsimp only
      split
      next e => exact (of_eq e (ih h1) :)
      next e => exact (of_eq e (ih h1) :)

set_option smartUnfolding true in
theorem execVredw_wf {t w} (h : MemWf s) : NextWf (execVredw t w s) := by
  unfold execVredw
  exact issue_wf (fun h1 => by
    extract_lets +onlyGivenNames s
    have h2 : MemWf s := abandonSample_wf h1
    dsimp only
    refine ite_wf (coreFault_wf h2) ?_
    split
    next e => exact (of_eq e (vredwReqs_wf h2) :)
    next e => exact foldl_wf (fun h3 => ite_wf (nearIssue_wf h3) h3) (mk_wf (of_eq e (vredwReqs_wf h2) :))) h

/-! Machine/CoreSync -/

theorem askEvent_wf {who pc ctx core unit op handle v} (h : MemWf s) : MemWf (askEvent s who pc ctx core unit op handle v) :=
  sendForCtx_wf (mk_wf (takeTag_wf h))

theorem injectRecord_wf {core} (h : MemWf s) : MemWf (injectRecord s core) := mk_wf h

theorem execErec_wf {t w} (h : MemWf s) : NextWf (execErec t w s) :=
  issue_wf (fun h1 => by
    refine ite_wf h1 ?_
    suffices h2 : MemWf _ from ite_wf (askEvent_wf (mk_wf (injectRecord_wf h2))) (ite_wf (coreFault_wf h2)
        (record_wf (mk_wf (injectRecord_wf (ite_wf (postBy_wf h2) h2)))))
    exact abandonSample_wf h1) h

theorem execEwait_wf {t w} (h : MemWf s) : NextWf (execEwait t w s) :=
  issue_wf (fun h1 => ite_wf (askEvent_wf (mk_wf h1)) (ite_wf (coreFault_wf h1) (registerWait_wf (mk_wf h1)))) h

theorem barrierPkt_wf {what ctx mid bid lcid half ph group pc} (h : MemWf s) :
    MemWf (barrierPkt s what ctx mid bid lcid half ph group pc) :=
  (sendSlot_wf h).elim id id

theorem execBar_wf {t w} (h : MemWf s) : NextWf (execBar t w s) :=
  issue_wf (fun h1 => by
    dsimp only
    refine ite_wf (coreFault_wf h1) ?_
    refine ite_wf (coreFault_wf h1) ?_
    refine ite_wf h1 ?_
    suffices h2 : MemWf _ from option_wf h2 (ite_wf (mk_wf (mk_wf h2)) (barrierPkt_wf (mk_wf h2)))
    exact abandonSample_wf h1) h

theorem barReleaseAll_wf {ctx bid ph g} (h : MemWf s) : MemWf (barReleaseAll s ctx bid ph g) :=
  foldl_wf (fun h1 => option_wf h1 (ite_wf (mk_wf h1) (barrierPkt_wf h1))) h

theorem barCounted_wf {t bid ph} (h : MemWf s) : MemWf (barCounted s t bid ph) := by
  unfold barCounted
  split
  · exact h
  · split
    · exact ite_wf (mk_wf h) h
    · exact h

theorem barArrive_wf {ctx bid lcid src half group pc} (h : MemWf s) : MemWf (barArrive ctx bid lcid src half group pc s) := by
  unfold barArrive
  dsimp only
  refine ite_wf (loseCause_wf h) ?_
  suffices h1 : MemWf _ from ite_wf (barReleaseAll_wf (mk_wf h1)) (mk_wf h1)
  exact ite_wf (barCounted_wf h) (barrierPkt_wf h)

theorem execBarrierArrive_wf {ctx bid lcid group} (h : MemWf s) : NextWf (execBarrierArrive ctx bid lcid group s) :=
  ite_wf h (option_wf (mk_wf h) (barArrive_wf (mk_wf h)))

theorem barRelease_wf {t bid ph} (h : MemWf s) : MemWf (barRelease t bid ph s) := option_wf h (ite_wf (wakeTen_wf h) h)

theorem execBarrierRelease_wf {t bid ph} (h : MemWf s) : NextWf (execBarrierRelease t bid ph s) :=
  ite_wf h (barRelease_wf (mk_wf h))

theorem execFence_wf {t w} (h : MemWf s) : NextWf (execFence t w s) := issue_wf (fun h1 => ite_wf h1 (mk_wf h1)) h

theorem execEndK_wf {t w} (h : MemWf s) : NextWf (execEndK t w s) := issue_wf endStep_wf h

/-! Machine/Move -/

theorem enqueue_wf {c e} (h : MemWf s) : MemWf (enqueue s c e) := ite_wf (mk_wf h) (mk_wf h)

theorem refill_wf {c} (h : MemWf s) : MemWf (refill s c) := mk_wf h

theorem dropEntries_wf {c p} (h : MemWf s) : MemWf (dropEntries s c p) := refill_wf (mk_wf h)

theorem beginSave_wf {t why} (h : MemWf s) : MemWf (beginSave s t why) := by
  unfold beginSave
  split
  · exact h
  · split
    · exact mk_wf h
    · exact h

theorem saveLcid_wf {slot lcid} (h : MemWf s) : MemWf (saveLcid s slot lcid) :=
  foldl_wf (fun h1 => by
    split
    · exact beginSave_wf h1
    · exact mk_wf h1
    · exact h1) h

theorem poolRoom_wf {m slot cls} (h : MemWf s) : OptWf (poolRoom s m slot cls) :=
  ite_wf trivial (ite_wf h (ite_wf (OptWf.map (dropLines_wf h)) (ite_wf (OptWf.map (dropLines_wf h)) trivial)))

theorem poolTrim_wf {m n} (h : MemWf s) : MemWf (poolTrim m n s) := by
  induction n generalizing s with
  | zero => exact h
  | succ n ih =>
    rw [poolTrim]
    exact ite_wf h (option_wf h (ih (dropLines_wf h)))

theorem remapLc_wf {slot lcid core fold} (h : MemWf s) : MemWf (remapLc s slot lcid core fold) := mk_wf h

theorem substDone_wf {u} (h : MemWf s) : MemWf (substDone s u) := ite_wf (mk_wf (mk_wf h)) (logNote_wf _ (mk_wf (mk_wf h)))

theorem substStep_wf {slot lcid src} (h : MemWf s) : MemWf (substStep s slot lcid src) :=
  option_wf h (ite_wf (substDone_wf h) (mk_wf h))

theorem moveComplete_wf {m} (h : MemWf s) : MemWf (moveComplete s m) := by
  unfold moveComplete
  extract_lets +onlyGivenNames s
  have h1 : MemWf s := ite_wf (remapLc_wf h) h
  extract_lets +onlyGivenNames mine src s
  have h2 : MemWf s := ite_wf (dropEntries_wf h1) h1
  extract_lets +onlyGivenNames q s
  have h3 : MemWf s := foldl_wf enqueue_wf (mk_wf h2)
  extract_lets +onlyGivenNames s
  have h4 : MemWf s := substStep_wf h3
  exact option_wf h4 (finishStatus_wf h4)

theorem moveCheck_wf {slot lcid} (h : MemWf s) : MemWf (moveCheck s slot lcid) := option_wf h (ite_wf (moveComplete_wf h) h)

theorem landTens_wf {slot lcid core fold} (h : MemWf s) : MemWf (landTens s slot lcid core fold) :=
  foldl_wf (fun h1 => ite_wf ((pickOne_wf h1).option mk_wf mk_wf) (mk_wf h1)) h

theorem moveLand_wf {m} (h : MemWf s) : MemWf (moveLand s m) := moveCheck_wf (poolTrim_wf (mk_wf (landTens_wf h)))

theorem sendForSlot_wf {mid slot key p} (h : MemWf s) : MemWf (sendForSlot s mid slot key p) := (sendSlot_wf h).elim id id

theorem sendHand_wf {mid op slot lcid v piece payload} (h : MemWf s) : MemWf (sendHand s mid op slot lcid v piece payload) :=
  sendForSlot_wf h

theorem sendOffers_wf {m} (h : MemWf s) : MemWf (sendOffers s m) := foldl_wf sendHand_wf h

theorem moveHold_wf {m} (h : MemWf s) : MemWf (moveHold s m) := substStep_wf (mk_wf h)

theorem moveSaved_wf {slot lcid} (h : MemWf s) : MemWf (moveSaved s slot lcid) :=
  option_wf h (ite_wf h (ite_wf (ite_wf (moveLand_wf h) (ite_wf (moveLand_wf h) (moveHold_wf h)))
        (ite_wf (sendOffers_wf (mk_wf h)) h)))

/-! Machine/HandoffOps -/

theorem hostPut_wf {slot lcid mid} (h : MemWf s) : MemWf (hostPut s slot lcid mid) := ite_wf h (mk_wf h)

set_option smartUnfolding true in
theorem sendFlush_wf {slot lcid old} (h : MemWf s) : MemWf (sendFlush s slot lcid old) := by
  unfold sendFlush
  exact foldl_wf (fun h1 => by
    dsimp only
    split
    next e => exact (of_eq e (sendSlot_wf h1) :)
    next e => exact (of_eq e (sendSlot_wf h1) :)) h

theorem applyRun_wf {slot lcid mid} (h : MemWf s) : MemWf (applyRun s slot lcid mid) :=
  option_wf h (ite_wf h (ite_wf (hostPut_wf h) (sendFlush_wf (mk_wf (hostPut_wf h)))))

theorem sendEntry_wf {slot mid e} (h : MemWf s) : MemWf (sendEntry s slot mid e) := sendForSlot_wf h

theorem applyEpoch_wf {slot lcid mid epoch} (h : MemWf s) : MemWf (applyEpoch s slot lcid mid epoch) :=
  ite_wf h (applyRun_wf (mk_wf h))

theorem endForward_wf {slot lcid} (h : MemWf s) : MemWf (endForward s slot lcid) := mk_wf h

theorem pubDone_wf {u} (h : MemWf s) : MemWf (pubDone s u) := ite_wf (endForward_wf h) (sendHand_wf h)

theorem pubAck_wf {mid p} (h : MemWf s) : MemWf (pubAck s mid p) := foldl_wf pubDone_wf (mk_wf h)

theorem publishRun_wf {slot lcid mid epoch old} (h : MemWf s) : MemWf (publishRun s slot lcid mid epoch old) := by
  unfold publishRun
  extract_lets +onlyGivenNames ms s
  have h1 : MemWf s := foldl_wf sendHand_wf h
  extract_lets +onlyGivenNames s
  have h2 : MemWf s := applyEpoch_wf h1
  exact ite_wf (pubDone_wf h2) (mk_wf h2)

theorem unmapLc_wf {slot lcid} (h : MemWf s) : MemWf (unmapLc s slot lcid) := mk_wf h

theorem relayFab_wf {f mid} (h : MemWf s) : MemWf (relayFab s f mid) := (sendReq_wf h).elim h id

theorem forwardFab_wf {slot lcid mid} (h : MemWf s) : MemWf (forwardFab s slot lcid mid) := foldl_wf relayFab_wf (mk_wf h)

theorem forwardRem_wf {slot lcid mid} (h : MemWf s) : MemWf (forwardRem s slot lcid mid) :=
  foldl_wf (fun h1 => option_wf h1 ((sendReq_wf h1).elim (coreFault_wf h1) id)) (mk_wf h)

theorem putFlush_wf {f dst tag} (h : MemWf s) : MemWf (putFlush s f dst tag) := sendFor_wf h

theorem passFlush_wf {f mid} (h : MemWf s) : MemWf (passFlush s f mid) := putFlush_wf h

theorem reportFlush_wf {f} (h : MemWf s) : MemWf (reportFlush s f) := putFlush_wf h

theorem passFlushes_wf {slot lcid mid} (h : MemWf s) : MemWf (passFlushes s slot lcid mid) :=
  foldl_wf (fun h1 => ite_wf (reportFlush_wf h1) (passFlush_wf h1)) (mk_wf h)

theorem faultsGo_wf {slot lcid} (h : MemWf s) : MemWf (faultsGo s slot lcid) := fqLeave_wf h

theorem sourceFinish_wf {m} (h : MemWf s) : MemWf (sourceFinish s m) := by
  unfold sourceFinish
  extract_lets +onlyGivenNames s
  have h1 : MemWf s := faultsGo_wf (dropEntries_wf h)
  extract_lets +onlyGivenNames s
  have h2 : MemWf s := foldl_wf abandonSample_wf h1
  extract_lets +onlyGivenNames s s
  have h3 : MemWf s := hostPut_wf (unmapLc_wf (mk_wf (mk_wf h2)))
  extract_lets +onlyGivenNames sl s s
  have h4 : MemWf s := foldl_wf sendEntry_wf (mk_wf h3)
  extract_lets +onlyGivenNames s
  have h5 : MemWf s := forwardFab_wf (forwardRem_wf h4)
  extract_lets +onlyGivenNames s
  have h6 : MemWf s := passFlushes_wf h5
  exact option_wf h6 (finishStatus_wf h6)

theorem sourceRestore_wf {m status} (h : MemWf s) : MemWf (sourceRestore s m status) := moveLand_wf (passFlushes_wf h)

theorem moveDrop_wf {m status} (h : MemWf s) : MemWf (moveDrop s m status) := moveComplete_wf (passFlushes_wf h)

theorem sourceReply_wf {slot lcid op status v} (h : MemWf s) : MemWf (sourceReply s slot lcid op status v) :=
  option_wf h (ite_wf (ite_wf (moveSaved_wf (saveLcid_wf (mk_wf h))) (moveDrop_wf h)) (ite_wf
        (ite_wf (sourceFinish_wf h) (sourceRestore_wf h)) (ite_wf (ite_wf (sourceRestore_wf h) (sourceFinish_wf h)) h)))

theorem destCommit_wf {slot lcid epoch} (h : MemWf s) : MemWf (destCommit s slot lcid epoch) :=
  option_wf h (ite_wf h (foldl_wf enqueue_wf (landTens_wf (mk_wf (hostPut_wf (mk_wf (mk_wf h)))))))

theorem destAbort_wf {slot lcid epoch} (h : MemWf s) : MemWf (destAbort s slot lcid epoch) := option_wf h (mk_wf h)

theorem setOwnRec_wf {slot lcid r} (h : MemWf s) : MemWf (setOwnRec s slot lcid r) := mk_wf h

theorem sendRec_wf {slot lcid mid} (h : MemWf s) : MemWf (sendRec s slot lcid mid) := sendHand_wf h

theorem copyRecs_wf {slot mid} (h : MemWf s) : MemWf (copyRecs s slot mid) := ite_wf h (foldl_wf sendRec_wf h)

theorem tellDest_wf {slot lcid mid op epoch} (h : MemWf s) : MemWf (tellDest s slot lcid mid op epoch) :=
  ite_wf (ite_wf (destCommit_wf h) (destAbort_wf h)) (sendHand_wf (mk_wf h))

theorem leadReply_wf {slot lcid q p status v payload} (h : MemWf s) : MemWf (leadReply s slot lcid q p status v payload) := by
  unfold leadReply
  split
  · exact ite_wf (sourceReply_wf h) (sendReply_wf h)
  · exact h

theorem runAct_wf {a} (h : MemWf s) : MemWf (runAct s a) := by
  unfold runAct
  suffices h1 : MemWf _ from ite_wf (publishRun_wf h1) h1
  split
  · exact tellDest_wf (leadReply_wf h)
  · exact leadReply_wf h

theorem leadChange_wf {r a} (h : MemWf s) : MemWf (leadChange s r a) :=
  ite_wf (runAct_wf (setOwnRec_wf h)) (sendRec_wf (mk_wf (setOwnRec_wf h)))

theorem deputyAck_wf {slot lcid} (h : MemWf s) : MemWf (deputyAck s slot lcid) := option_wf h (runAct_wf (mk_wf h))

theorem leadDo_wf {slot q p} (h : MemWf s) : MemWf (leadDo s slot q p) := by
  unfold leadDo
  extract_lets +onlyGivenNames lcid v r sender reply
  have h1 : ∀ {status e}, MemWf (reply status e) := leadReply_wf h
  exact ite_wf h (ite_wf (leadReply_wf h) (ite_wf (ite_wf (ite_wf h1 h1) (ite_wf h1 (leadChange_wf h)))
        (ite_wf (ite_wf (leadChange_wf h) (ite_wf h1 h1)) (ite_wf (ite_wf (leadChange_wf h) (ite_wf h (ite_wf h1 h1)))
            (ite_wf (ite_wf (leadChange_wf h) (ite_wf h1 h1)) h)))))

theorem tellLead_wf {slot lcid op v} (h : MemWf s) : MemWf (tellLead s slot lcid op v) := ite_wf (leadDo_wf h) (sendHand_wf h)

theorem sourceAbort_wf {m status} (h : MemWf s) : MemWf (sourceAbort s m status) := tellLead_wf (mk_wf h)

theorem moveStop_wf {m status} (h : MemWf s) : MemWf (moveStop s m status) :=
  ite_wf h (ite_wf (moveDrop_wf h) (ite_wf (moveSaved_wf (mk_wf h)) (ite_wf (moveSaved_wf (mk_wf (tellLead_wf h)))
          (ite_wf (sourceAbort_wf h) h))))

/-! Machine/CoreEvents -/

theorem unkeep_wf {c t} (h : MemWf s) : MemWf (unkeep s c t) := mk_wf h

theorem takeEntry_wf {c e} (h : MemWf s) : MemWf (takeEntry s c e) := refill_wf (mk_wf h)

theorem dropStale_wf {c} (h : MemWf s) : MemWf (dropStale s c) := foldl_wf (fun h1 => addChaff_wf (takeEntry_wf h1)) h

theorem useSpare_wf {c ctx} (h : MemWf s) : MemWf (useSpare s c ctx) := mk_wf h

set_option smartUnfolding true in
theorem takeSample_wf {x} (h : MemWf s) : MemWf (takeSample s x) := by
  unfold takeSample
  dsimp only
  refine ite_wf h ?_
  split
  next e => exact (of_eq e (pickOne_wf h) :)
  next e => exact mk_wf (useSpare_wf (of_eq e (pickOne_wf h) :))

theorem startEntry_wf {c e x sample} (h : MemWf s) : MemWf (startEntry s c e x sample) := by
  unfold startEntry
  extract_lets +onlyGivenNames y s
  have h1 : MemWf s := unkeep_wf (mk_wf (takeEntry_wf h))
  extract_lets +onlyGivenNames _ s
  have h2 : MemWf s := ite_wf (mk_wf h1) h1
  exact ite_wf (takeSample_wf h2) h2

theorem entryFault_wf {c e cause} (h : MemWf s) : MemWf (entryFault s c e cause) := loseCause_wf (takeFree_wf (takeFree_wf h))

theorem beginRestore_wf {x g} (h : MemWf s) : MemWf (beginRestore s x g) := unkeep_wf (mk_wf h)

set_option smartUnfolding true in
theorem execDispatchEntryStart_wf {core sample} (h : MemWf s) : NextWf (execDispatchEntryStart core sample s) := by
  unfold execDispatchEntryStart
  refine ite_wf h ?_
  dsimp only
  split
  · exact dropStale_wf h
  · split
    · refine ite_wf (entryFault_wf (dropStale_wf h)) ?_
      refine ite_wf (startEntry_wf (dropStale_wf h)) ?_
      split
      next e => exact beginRestore_wf (of_eq e (pickOne_wf (dropStale_wf h)) :)
      next e => exact (of_eq e (pickOne_wf (dropStale_wf h)) :)
    · split
      next e => exact startEntry_wf (mk_wf (of_eq e (pickOne_wf (dropStale_wf h)) :))
      next e => exact (of_eq e (pickOne_wf (dropStale_wf h)) :)

theorem execTenancyExhausted_wf {core} (h : MemWf s) : NextWf (execTenancyExhausted core s) := list_wf h (entryFault_wf h)

theorem execConfCoreScrub_wf {core} (h : MemWf s) : NextWf (execConfCoreScrub core s) := ite_wf (mk_wf h) h

theorem saveGroup_wf {c g foot why} (h : MemWf s) : MemWf (saveGroup s c g foot why) := foldl_wf beginSave_wf h

theorem keepFor_wf {c k} (h : MemWf s) : MemWf (keepFor s c k) := mk_wf h

theorem execSliceExpiry_wf {t} (h : MemWf s) : NextWf (execSliceExpiry t s) := by
  unfold execSliceExpiry
  split
  · exact h
  · split
    · exact option_wf (mk_wf h) (keepFor_wf (beginSave_wf (saveGroup_wf h)))
    · exact h

theorem execClass7Preempt_wf {core} (h : MemWf s) : NextWf (execClass7Preempt core s) :=
  ite_wf h (option_wf h (option_wf h (keepFor_wf (saveGroup_wf h))))

theorem execBlockedEvict_wf {core blocked} (h : MemWf s) : NextWf (execBlockedEvict core blocked s) :=
  ite_wf h (option_wf h (option_wf h (keepFor_wf (saveGroup_wf h))))

theorem startCand_wf {c} (h : MemWf s) : MemWf (startCand s c) := by
  unfold startCand
  split
  · exact h
  · refine ite_wf h ?_
    split
    next e => exact beginRestore_wf (of_eq e (pickOne_wf h) :)
    · exact h

theorem execTenancySaveDone_wf {t e} (h : MemWf s) : NextWf (execTenancySaveDone t e s) := by
  unfold execTenancySaveDone
  split
  · exact h
  · split
    · refine ite_wf h (ite_wf (sramSeen_wf h) ?_)
      suffices h1 : MemWf _ from ite_wf h1 (startCand_wf h1)
      refine moveSaved_wf ?_
      split
      · exact mk_wf (mk_wf (sramSeen_wf h))
      · exact mk_wf (mk_wf (sramSeen_wf h))
      · exact mk_wf (sramSeen_wf h)
    · split
      · exact ite_wf (moveSaved_wf h) h
      · exact h
    · exact h

theorem resume_wf {t} (h : MemWf s) : MemWf (resume s t) := option_wf h (option_wf (tenGo_wf h) (loseCause_wf h))

theorem imageBad_wf {x a} (h : MemWf s) : MemWf (imageBad x a s) := chargeWord_wf _ _ _ _ _ (logNote_wf _ (setChan_wf _ _ h))

theorem execTenancyRestoreDone_wf {t bad} (h : MemWf s) : NextWf (execTenancyRestoreDone t bad s) := by
  unfold execTenancyRestoreDone
  split
  · exact h
  · extract_lets go
    have h1 {g s} (h : MemWf s) : MemWf (go g s) := by
      unfold go
      split
      · exact imageBad_wf h
      · exact moveCheck_wf (resume_wf (unkeep_wf (mk_wf h)))
    split
    · exact h1 h
    · refine ite_wf h ?_
      split
      next e => exact h1 (of_eq e (pickOne_wf h) :)
      next e => exact (of_eq e (pickOne_wf h) :)
    · exact h

theorem substLc_wf {slot c sub e} (h : MemWf s) : MemWf (substLc s slot c sub e) := by
  unfold substLc
  refine ite_wf h ?_
  extract_lets +onlyGivenNames add
  have h1 : ∀ {m s}, MemWf s → MemWf (add m s) := mk_wf
  exact moveSaved_wf (saveLcid_wf (by
    split
    · exact h1 h
    · split
      · exact h1 h
      · exact h1 h))

theorem failMoves_wf {c} (h : MemWf s) : MemWf (failMoves s c) :=
  foldl_wf (fun h1 => by
    refine ite_wf ?_ ?_
    · suffices h2 : MemWf _ from ite_wf (moveLand_wf h2) (moveHold_wf (foldl_wf mk_wf h2))
      exact foldl_wf mk_wf h1
    · refine ite_wf ?_ h1
      extract_lets +onlyGivenNames s
      have h3 : MemWf s := loseAll_wf h1
      extract_lets +onlyGivenNames s
      have h4 : MemWf s := ite_wf (tellLead_wf h3) h3
      exact option_wf (mk_wf h4) (finishStatus_wf (mk_wf h4))) h

set_option smartUnfolding true in
theorem coreFails_wf {c unsavable noted} (h : MemWf s) : MemWf (coreFails s c unsavable noted) := by
  unfold coreFails
  refine ite_wf h ?_
  extract_lets +onlyGivenNames half _ s s
  have h1 : MemWf s := failMoves_wf (mk_wf (mk_wf h))
  extract_lets +onlyGivenNames s
  have h2 : MemWf s := foldl_wf (fun h3 => by
    split
    · exact ite_wf (loseStatus_wf (logNote_wf _ h3)) h3
    · exact h3) h1
  split
  · exact ite_wf (logNote_wf _ h2) h2
  · suffices h4 : MemWf _ from ite_wf (substDone_wf h4) (foldl_wf (fun h5 => ite_wf (substStep_wf h5) h5)
        (foldl_wf substLc_wf (mk_wf h4)))
    split
    · exact mk_wf h2
    · exact h2

theorem execCoreFaultDetected_wf {core unsavable} (h : MemWf s) : NextWf (execCoreFaultDetected core unsavable s) :=
  coreFails_wf h

theorem winnowNote_wf {x sev act core} (h : MemWf s) : MemWf (winnowNote s x sev act core) := logNote_wf _ h

theorem releaseHeld_wf {x} (h : MemWf s) : MemWf (releaseHeld s x) := by
  unfold releaseHeld
  split
  · exact kernelEnd_wf h
  · exact h

theorem execWinnowVerdict_wf {t same} (h : MemWf s) : NextWf (execWinnowVerdict t same s) := by
  unfold execWinnowVerdict
  split
  · exact h
  · split
    · exact ite_wf h (ite_wf (mk_wf (releaseHeld_wf (mk_wf h))) (mk_wf (mk_wf (mk_wf h))))
    · exact h

theorem replayWrite_wf {x va l} (h : MemWf s) : MemWf (replayWrite s x va l) :=
  foldl_wf (fun h1 => by
    split
    next e =>
      have h2 := of_eq e (translate_wf h1)
      dsimp only
      refine ite_wf ?_ ((sendReq_wf h2).elim h2 id)
      split
      next e => exact (of_eq e (memWrite_wf _ _ _ _ _ _ h2) :)
      next e => exact (of_eq e (memWrite_wf _ _ _ _ _ _ h2) :)
      · exact h2
    next e => exact (of_eq e (translate_wf h1) :)) h

theorem quarantineSpare_wf {c} (h : MemWf s) : MemWf (quarantineSpare s c) := mk_wf h

set_option smartUnfolding true in
theorem thirdRun_wf {x} (h : MemWf s) : PairWf (thirdRun s x) := by
  unfold thirdRun
  split
  next e => exact useSpare_wf (of_eq e (pickOne_wf h) :)
  next e => exact (of_eq e (pickOne_wf h) :)

theorem execWinnowThirdVerdict_wf {t v} (h : MemWf s) : NextWf (execWinnowThirdVerdict t v s) := by
  unfold execWinnowThirdVerdict
  split
  · exact h
  · split
    · exact h
    · extract_lets +onlyGivenNames half lost
      have h1 : ∀ {s}, MemWf s → MemWf (lost s) := loseStatus_wf
      refine ite_wf h ?_
      split
      next e =>
        have h2 := of_eq e (thirdRun_wf h)
        dsimp only
        split
        · exact coreFails_wf (releaseHeld_wf (mk_wf (winnowNote_wf (foldl_wf replayWrite_wf (mk_wf h2)))))
        · exact h1 (winnowNote_wf (mk_wf h2))
        · exact releaseHeld_wf (quarantineSpare_wf (winnowNote_wf (mk_wf h2)))
        · exact h1 (quarantineSpare_wf (quarantineSpare_wf (winnowNote_wf (mk_wf h2))))
        · exact h1 (coreFails_wf (winnowNote_wf (mk_wf h2)))

/-! Machine/Runs -/

theorem progCheck_wf {g} (h : MemWf s) : MemWf (progCheck s g) :=
  option_wf h (option_wf (mk_wf h) (ite_wf (option_wf (mk_wf h) (finishStatus_wf (mk_wf h))) (mk_wf h)))

theorem retireAll_wf {slot} (h : MemWf s) : MemWf (retireAll s slot) :=
  foldl_wf (fun h1 => option_wf h1 (ite_wf h1 (progCheck_wf (mk_wf h1)))) h

theorem leaveKernels_wf {r x} (h : MemWf s) : MemWf (leaveKernels s r x) := ite_wf h (mk_wf h)

theorem endRun_wf {r status} (h : MemWf s) : MemWf (endRun r status s) :=
  option_wf h (progCheck_wf (finish_wf sendReply_wf (mk_wf (mk_wf (mk_wf (fqLeave_wf (mk_wf (mk_wf (leaveKernels_wf h)))))))))

theorem runCheck_wf {r} (h : MemWf s) : MemWf (runCheck s r) := by
  unfold runCheck
  split
  · exact h
  · split
    · exact ite_wf (mk_wf h) h
    · exact ite_wf (endRun_wf h) h
    · exact h

theorem workEnds_wf {r incarn lcid} (h : MemWf s) : MemWf (workEnds s r incarn lcid) := option_wf h (ite_wf h (mk_wf h))

theorem groupDone_wf {r incarn g ovf} (h : MemWf s) : MemWf (groupDone s r incarn g ovf) :=
  option_wf (mk_wf h) (ite_wf (mk_wf h) (ite_wf h (runCheck_wf (mk_wf h))))

theorem runLose_wf {r x cause write addr} (h : MemWf s) : MemWf (runLose s r x cause write addr) := loseCause_wf h

/-! Machine/Bulk -/

theorem segAt_wf {pl ctx kind va rem mk} (h : MemWf s) : PairWf (segAt s pl ctx kind va rem mk) := by
  unfold segAt
  split
  next e => exact (of_eq e (translate_wf h) :)
  next e => exact (of_eq e (translate_wf h) :)
  next e => exact loseCause_wf (of_eq e (translate_wf h) :)
  next e => exact (of_eq e (translate_wf h) :)
  next e =>
    have h1 := of_eq e (translate_wf h)
    dsimp only
    refine ite_wf h1 ?_
    split
    · exact h1
    · exact h1
    · exact h1

theorem entRead_wf {ctx e v n} (h : MemWf s) : MemRes.wf (entRead s ctx e v n) :=
  foldl_wf (fun h1 => by
    split
    · split
      next e => exact (of_eq e (memRead_wf _ _ _ _ _ _ h1) :)
      · exact memRead_wf _ _ _ _ _ _ h1
    · exact h1) h

theorem entWrite_wf {ctx e v l} (h : MemWf s) : MemRes.wf (entWrite s ctx e v l) :=
  foldl_wf (fun h1 => by
    split
    · exact memWrite_wf _ _ _ _ _ _ h1
    · exact h1) h

theorem askExtent_wf {who ctx core unit e v n kind} (h : MemWf s) : OptWf (askExtent s who ctx core unit e v n kind) :=
  (sendSlot_wf (takeTag_wf h)).elim mk_wf (fun _ => trivial)

theorem bulkEnd_wf {b status} (h : MemWf s) : MemWf (bulkEnd b status s) := by
  unfold bulkEnd
  split
  · exact ite_wf (groupDone_wf (mk_wf h)) (endRun_wf (mk_wf h))
  · exact answerAt_wf (mk_wf h)

theorem bulkStall_wf {b write va cause} (h : MemWf s) : MemWf (bulkStall b write va cause s) := submitFault_wf (mk_wf h)

theorem bulkReq_wf {b e f fpa} (h : MemWf s) : OptWf (bulkReq s b e f fpa) := sendReq_wf h

theorem sideAsk_wf {b second e v n z kind} (h : MemWf s) : Go.wf (sideAsk s b second e v n z kind) :=
  (askExtent_wf (mk_wf h)).elim (bulkEnd_wf h) id

theorem writeStep_wf {b addr} (h : MemWf s) : Go.wf (writeStep b addr s) := by
  unfold writeStep
  dsimp only
  refine ite_wf (bulkEnd_wf h) ?_
  split
  next e =>
    have h1 := of_eq e (segAt_wf h)
    exact ite_wf (sideAsk_wf h1) (ite_wf ((entWrite_wf h1).elim mk_wf (bulkEnd_wf h1) (bulkEnd_wf h1) bulkEnd_wf)
        ((bulkReq_wf (mk_wf h1)).elim (bulkEnd_wf h1) id))
  next e => exact bulkEnd_wf (of_eq e (segAt_wf h) :)
  next e => exact bulkStall_wf (of_eq e (segAt_wf h) :)
  next e => exact bulkEnd_wf (of_eq e (segAt_wf h) :)

theorem readStep_wf {b addr len} (h : MemWf s) : Go.wf (readStep b addr len s) := by
  unfold readStep
  dsimp only
  refine ite_wf (ite_wf h (sendReply_wf (ite_wf (mk_wf h) (mk_wf h)))) ?_
  split
  next e =>
    have h1 := of_eq e (segAt_wf h)
    exact ite_wf (sideAsk_wf h1) (ite_wf ((entRead_wf h1).elim mk_wf (bulkEnd_wf h1) (bulkEnd_wf h1) bulkEnd_wf)
        ((bulkReq_wf h1).elim (bulkEnd_wf h1) id))
  next e => exact bulkEnd_wf (of_eq e (segAt_wf h) :)
  next e => exact bulkStall_wf (of_eq e (segAt_wf h) :)
  next e => exact bulkEnd_wf (of_eq e (segAt_wf h) :)

theorem copyStep_wf {b src dst len} (h : MemWf s) : Go.wf (copyStep b src dst len s) := by
  unfold copyStep
  dsimp only
  refine ite_wf (bulkEnd_wf h) ?_
  split
  next e => exact bulkEnd_wf (of_eq e (segAt_wf h) :)
  next e => exact bulkStall_wf (of_eq e (segAt_wf h) :)
  next e => exact bulkEnd_wf (of_eq e (segAt_wf h) :)
  next e =>
    have h1 := of_eq e (segAt_wf h)
    split
    next e => exact bulkEnd_wf (of_eq e (segAt_wf h1) :)
    next e => exact bulkStall_wf (of_eq e (segAt_wf h1) :)
    next e => exact bulkEnd_wf (of_eq e (segAt_wf h1) :)
    next e =>
      have h2 := of_eq e (segAt_wf h1)
      exact ite_wf (sideAsk_wf h2) (ite_wf (sideAsk_wf h2) (ite_wf
            (ite_wf ((entWrite_wf h2).elim mk_wf (bulkEnd_wf h2) (bulkEnd_wf h2) bulkEnd_wf)
              ((bulkReq_wf (mk_wf h2)).elim (bulkEnd_wf h2) id))
            (ite_wf
              ((entRead_wf h2).elim
                (fun h3 => ite_wf ((entWrite_wf h3).elim mk_wf (bulkEnd_wf h3) (bulkEnd_wf h3) bulkEnd_wf)
                  ((bulkReq_wf (mk_wf h3)).elim (bulkEnd_wf h3) id))
                (bulkEnd_wf h2) (bulkEnd_wf h2) bulkEnd_wf)
              ((bulkReq_wf h2).elim (bulkEnd_wf h2) id))))

theorem loadStep_wf {b addr len} (h : MemWf s) : Go.wf (loadStep b addr len s) := by
  unfold loadStep
  dsimp only
  refine ite_wf h ?_
  split
  next e =>
    have h1 := of_eq e (segAt_wf h)
    exact ite_wf (sideAsk_wf h1) (ite_wf ((entRead_wf h1).elim mk_wf (bulkEnd_wf h1) (bulkEnd_wf h1) bulkEnd_wf)
        ((bulkReq_wf h1).elim (bulkEnd_wf h1) id))
  next e => exact bulkEnd_wf (of_eq e (segAt_wf h) :)
  next e => exact bulkStall_wf (of_eq e (segAt_wf h) :)
  next e => exact bulkEnd_wf (of_eq e (segAt_wf h) :)

theorem bulkGo_wf {n id} (h : MemWf s) : MemWf (bulkGo n id s) := by
  induction n generalizing s with
  | zero => exact h
  | succ n ih =>
    rw [bulkGo]
    refine option_wf h (ite_wf h (Go.wf.elim ?_ ih (fun h1 => h1)))
    split
    · exact writeStep_wf h
    · exact readStep_wf h
    · exact copyStep_wf h
    · exact loadStep_wf h
    · exact h

theorem recordNow_wf {q p} (h : MemWf s) : MemWf (recordNow q p s) :=
  ite_wf (sendForCtx_wf (begin_wf h)) (ite_wf (answer_wf h) (answer_wf (record_wf h)))

theorem goOn_wf {n q} (h : MemWf s) : MemWf (goOn n q s) := by
  induction n generalizing s with
  | zero => exact h
  | succ n ih =>
    rw [goOn]
    refine option_wf h (ih ?_)
    split
    · exact recordNow_wf (mk_wf h)
    · exact bulkGo_wf h

theorem goOnAll_wf {q} (h : MemWf s) : MemWf (goOnAll q s) := goOn_wf h

theorem bulkRun_wf {id} (h : MemWf s) : MemWf (bulkRun id s) := option_wf h (goOnAll_wf (ite_wf h (bulkGo_wf h)))

theorem bulkStop_wf {b status} (h : MemWf s) : MemWf (bulkStop b status s) := goOnAll_wf (bulkEnd_wf h)

theorem bulkAnswer_wf {id status data} (h : MemWf s) : MemWf (bulkAnswer id status data s) := by
  unfold bulkAnswer
  split
  · exact h
  · refine ite_wf (bulkStop_wf h) ?_
    refine ite_wf (bulkStop_wf h) ?_
    refine ite_wf ?_ (bulkRun_wf (mk_wf h))
    dsimp only
    split
    · exact bulkRun_wf (mk_wf h)
    · exact bulkRun_wf (mk_wf h)
    · exact mk_wf h

theorem bulkChecked_wf {id status} (h : MemWf s) : MemWf (bulkChecked id status s) := by
  unfold bulkChecked
  split
  · exact h
  · split
    · exact h
    · exact ite_wf (bulkStop_wf h) (bulkRun_wf (mk_wf h))

theorem copyFirst_wf {id src dst len} (h : MemWf s) : MemWf (copyFirst id src dst len s) := by
  unfold copyFirst
  split
  · exact h
  · dsimp only
    split
    next e => exact bulkStop_wf (of_eq e (segAt_wf h) :)
    next e => exact bulkStall_wf (of_eq e (segAt_wf h) :)
    next e => exact bulkStop_wf (of_eq e (segAt_wf h) :)
    next e =>
      have h1 := of_eq e (segAt_wf h)
      split
      next e => exact bulkStop_wf (of_eq e (segAt_wf h1) :)
      next e => exact bulkStall_wf (of_eq e (segAt_wf h1) :)
      next e => exact bulkStop_wf (of_eq e (segAt_wf h1) :)
      next e => exact (of_eq e (segAt_wf h1) :)

theorem startRecord_wf {q p} (h : MemWf s) : MemWf (startRecord q p s) := ite_wf (begin_wf h) (recordNow_wf h)

theorem startWrite_wf {q p} (h : MemWf s) : MemWf (startWrite q p s) := ite_wf (answer_wf h) (bulkRun_wf (begin_wf h))

theorem startRead_wf {q p} (h : MemWf s) : MemWf (startRead q p s) := by
  unfold startRead
  refine ite_wf (answer_wf h) ?_
  extract_lets id t
  have h1 : MemWf t := begin_wf h
  clear_value t
  refine option_wf h1 (fun {b} => ?_)
  beta_reduce
  generalize e : segAt _ _ _ _ _ _ _ = r
  have h2 : PairWf r := e ▸ segAt_wf h1
  clear e
  split
  · exact h2
  · exact bulkStop_wf h2
  · exact bulkStall_wf h2
  · exact bulkStop_wf h2

theorem startCopy_wf {q p} (h : MemWf s) : MemWf (startCopy q p s) := ite_wf (answer_wf h) (copyFirst_wf (begin_wf h))

theorem execWriteData_wf {p} (h : MemWf s) : NextWf (execWriteData p s) := arrive_wf startWrite_wf wrongOnFabric_wf h

theorem execReadData_wf {p} (h : MemWf s) : NextWf (execReadData p s) := arrive_wf startRead_wf wrongOnFabric_wf h

theorem execCopy_wf {p} (h : MemWf s) : NextWf (execCopy p s) := arrive_wf startCopy_wf wrongOnFabric_wf h

theorem execCopyDone_wf {id} (h : MemWf s) : NextWf (execCopyDone id s) := by
  unfold execCopyDone
  split
  · exact h
  · split
    · exact wakeAll_wf (bulkRun_wf h)
    · exact h

/-! Machine/Queue -/

theorem startNop_wf {q p} (h : MemWf s) : MemWf (startNop q p s) := by
  unfold startNop
  refine ite_wf (answer_wf h) ?_
  split
  · exact h
  · exact answer_wf h

theorem ringOk_wf {ctx base log} (h : MemWf s) : PairWf (ringOk s ctx base log) := by
  unfold ringOk
  split
  next e => exact (of_eq e (translate_wf h) :)
  next e => exact (of_eq e (translate_wf h) :)

set_option smartUnfolding true in
theorem startQpConfig_wf {q p} (h : MemWf s) : MemWf (startQpConfig q p s) := by
  unfold startQpConfig
  refine ite_wf (answer_wf h) (ite_wf (answer_wf h) (ite_wf (answer_wf h) ?_))
  suffices h1 : PairWf _ from ite_wf (answer_wf h1) (ite_wf (answer_wf h1) (answer_wf (ite_wf (foldl_wf record_wf (mk_wf h1))
          (mk_wf h1))))
  exact ringOk_wf (ringOk_wf h)

theorem execQpConfig_wf {p} (h : MemWf s) : NextWf (execQpConfig p s) := arrive_wf startQpConfig_wf wrongOnFabric_wf h

theorem startQpQuery_wf {q p} (h : MemWf s) : MemWf (startQpQuery q p s) := sendReply_wf h

theorem execQpQuery_wf {p} (h : MemWf s) : NextWf (execQpQuery p s) := arrive_wf startQpQuery_wf wrongOnFabric_wf h

theorem resumeQp_wf {n q p} (h : MemWf s) : MemWf (resumeQp n q p s) :=
  ite_wf (answer_wf h) (ite_wf (answer_wf h) (ite_wf (answer_wf h) (answer_wf (mk_wf h))))

theorem startQpResume_wf {q p} (h : MemWf s) : MemWf (startQpResume q p s) := by
  unfold startQpResume
  split
  · exact resumeQp_wf h
  · exact ite_wf (resumeQp_wf h) (ite_wf (answer_wf (mk_wf h)) (answer_wf h))
  · exact answer_wf h

theorem execQpResume_wf {p} (h : MemWf s) : NextWf (execQpResume p s) := arrive_wf startQpResume_wf wrongOnFabric_wf h

theorem execHaldipReplyAck_wf {port src} (h : MemWf s) : NextWf (execHaldipReplyAck port src s) := by
  unfold execHaldipReplyAck
  dsimp only
  refine ite_wf h ?_
  split
  · split
    · exact h
    · exact ite_wf h (unbindCheck_wf (mk_wf h))
  · exact mk_wf h
  · exact mk_wf h
  · exact list_wf h (drainAll_wf (ite_wf (mk_wf (mk_wf h)) (mk_wf h)))

theorem execEventRecord_wf {p} (h : MemWf s) : NextWf (execEventRecord p s) := arrive_wf startRecord_wf wrongOnFabric_wf h

theorem startWait_wf {q p} (h : MemWf s) : MemWf (startWait q p s) :=
  ite_wf (sendForCtx_wf (begin_wf h)) (ite_wf (answer_wf h) (registerWait_wf (begin_wf h)))

theorem startRemoteWait_wf {q p} (h : MemWf s) : MemWf (startRemoteWait q p s) := by
  unfold startRemoteWait
  split
  · split
    · exact mk_wf h
    · split
      · exact addChaff_wf h
      · exact answer_wf h
      · exact registerWait_wf h
  · exact answer_wf h

theorem execEventWait_wf {p} (h : MemWf s) : NextWf (execEventWait p s) := arrive_wf startWait_wf startRemoteWait_wf h

theorem execRemoteWait_wf {p} (h : MemWf s) : NextWf (execRemoteWait p s) := by
  unfold execRemoteWait
  split
  · exact arrive_wf wrongOnFabric_wf startRemoteWait_wf h
  · exact h

theorem execEventWaitTimeout_wf {id} (h : MemWf s) : NextWf (execEventWaitTimeout id s) := by
  unfold execEventWaitTimeout
  split
  · exact h
  · split
    · exact ite_wf h (wakeAll_wf (finishStatus_wf (mk_wf h)))
    · exact h

theorem execWaitRegisterRetry_wf {half} (h : MemWf s) : NextWf (execWaitRegisterRetry half s) :=
  option_wf h (ite_wf h (wakeAll_wf (registerWait_wf (mk_wf h))))

theorem startSignal_wf {q p} (h : MemWf s) : MemWf (startSignal q p s) := by
  unfold startSignal
  split
  · exact mk_wf h
  · split
    · exact addChaff_wf h
    · exact answer_wf h
    · exact answer_wf (record_wf h)

theorem startEventRead_wf {q p} (h : MemWf s) : MemWf (startEventRead q p s) := by
  unfold startEventRead
  split
  · exact mk_wf h
  · split
    · exact addChaff_wf h
    · exact answer_wf h
    · exact sendReply_wf h

theorem startExtent_wf {q p} (h : MemWf s) : MemWf (startExtent q p s) := by
  unfold startExtent
  split
  · exact mk_wf h
  · dsimp only
    refine ite_wf (addChaff_wf h) ?_
    refine ite_wf (answer_wf h) ?_
    split
    · exact answer_wf h
    · exact answer_wf h
    · exact answer_wf h

theorem execEventSignalRemote_wf {p} (h : MemWf s) : NextWf (execEventSignalRemote p s) :=
  arrive_wf wrongOnFabric_wf startSignal_wf h

set_option smartUnfolding true in
theorem startEventAlloc_wf {q p} (h : MemWf s) : MemWf (startEventAlloc q p s) := by
  unfold startEventAlloc
  dsimp only
  refine ite_wf (answer_wf h) ?_
  refine ite_wf (answer_wf h) ?_
  refine ite_wf (answer_wf h) ?_
  split
  · exact answer_wf h
  · refine ite_wf (answer_wf h) ?_
    split
    next e => exact answer_wf (of_eq e (pickOne_wf h) :)
    next e => exact answerW4_wf (foldl_wf mk_wf (of_eq e (pickOne_wf h) :))

theorem execEventAlloc_wf {p} (h : MemWf s) : NextWf (execEventAlloc p s) := arrive_wf startEventAlloc_wf wrongOnFabric_wf h

theorem startEventFree_wf {q p} (h : MemWf s) : MemWf (startEventFree q p s) :=
  ite_wf (answer_wf h) (ite_wf (answer_wf h) (ite_wf (answer_wf h) (ite_wf (answer_wf (foldl_wf mk_wf h)) (answer_wf h))))

theorem execEventFree_wf {p} (h : MemWf s) : NextWf (execEventFree p s) := arrive_wf startEventFree_wf wrongOnFabric_wf h

set_option smartUnfolding true in
theorem startEventQuery_wf {q p} (h : MemWf s) : MemWf (startEventQuery q p s) := by
  unfold startEventQuery
  extract_lets e x _ rep
  have h1 {v} : MemWf (rep v) := sendReply_wf h
  refine ite_wf (answer_wf h) ?_
  split
  · exact ite_wf h1 (answer_wf h)
  · exact h1

theorem execEventQuery_wf {p} (h : MemWf s) : NextWf (execEventQuery p s) := arrive_wf startEventQuery_wf wrongOnFabric_wf h

theorem execDeadlockScan_wf (h : MemWf s) : NextWf (execDeadlockScan s) :=
  (foldl_wf (fun h1 => loseStatus_wf (finishStatus_wf (mk_wf (mk_wf h1)))) (mk_wf h))

/-! Machine/Collective -/

theorem collOvf_wf {x} (h : MemWf s) : MemWf (collOvf s x) := by
  unfold collOvf
  dsimp only
  split
  · exact ctxOvf_wf h
  · exact option_wf (runOvf_wf (ctxOvf_wf h)) (ite_wf (mk_wf (runOvf_wf (ctxOvf_wf h))) (runOvf_wf (ctxOvf_wf h)))

theorem vEnt_wf {n kind va len} (h : MemWf s) : PairWf (vEnt s n kind va len) := by
  unfold vEnt
  dsimp only
  split
  next e => exact (of_eq e (translate_wf h) :)
  next e => exact ringRevoked_wf (of_eq e (translate_wf h) :)
  next e => exact (of_eq e (translate_wf h) :)

theorem vSpan_wf {n kind va len} (h : MemWf s) : Span.wf (vSpan s n kind va len) := by
  unfold vSpan
  dsimp only
  split
  next e => exact (of_eq e (vEnt_wf h) :)
  next e =>
    have h1 := of_eq e (vEnt_wf h)
    exact ite_wf (ite_wf h1 h1) (option_wf ((askExtent_wf h1).elim h1 mk_wf) (option_wf h1 (ite_wf h1 h1)))

theorem farPieces_wf {n e v va len op data} (h : MemWf s) : MemWf (farPieces s n e v va len op data) :=
  foldl_wf (fun h1 => (sendReq_wf h1).elim (mk_wf h1) mk_wf) h

theorem vRead_wf {n va len} (h : MemWf s) : VRead.wf (vRead s n va len) := by
  unfold vRead
  dsimp only
  split
  next e => exact (of_eq e (vSpan_wf h) :)
  next e => exact (of_eq e (vSpan_wf h) :)
  next e =>
    have h1 := of_eq e (vSpan_wf h)
    refine ite_wf ?_ (ite_wf (farPieces_wf h1) (ite_wf h1 (ite_wf h1 (ite_wf h1 h1))))
    split
    next e => exact (of_eq e (entRead_wf h1) :)
    next e => exact (of_eq e (entRead_wf h1) :)
    · exact h1

theorem collPkt_wf {n x c dst body} (h : MemWf s) : MemWf (collPkt s n x c dst body) := (sendSlot_wf h).elim id mk_wf

theorem collMsg_wf {n x c r m idx off data} (h : MemWf s) : MemWf (collMsg s n x c r m idx off data) := by
  unfold collMsg
  split
  · exact h
  · exact ite_wf (mk_wf h) (collPkt_wf h)

theorem collAdvance_wf {n} (h : MemWf s) : MemWf (collAdvance s n) :=
  option_wf h (foldl_wf (fun h1 => foldl_wf collMsg_wf h1) (mk_wf h))

theorem takeGrant_wf {n gid sq rank k} (h : MemWf s) : MemWf (takeGrant s n gid sq rank k) :=
  option_wf h (ite_wf (collAdvance_wf (mk_wf h)) h)

theorem giveGrants_wf {n} (h : MemWf s) : MemWf (giveGrants s n) :=
  option_wf h (foldl_wf (fun h1 => by
    dsimp only
    split
    · exact h1
    · refine ite_wf h1 ?_
      split
      · exact mk_wf h1
      · exact ite_wf (takeGrant_wf (mk_wf h1)) (collMsg_wf (mk_wf h1))) h)

theorem armStream_wf {n} (h : MemWf s) : MemWf (armStream s n) := registerWait_wf (mk_wf h)

theorem stopStream_wf {n} (h : MemWf s) : MemWf (stopStream s n) := mk_wf (mk_wf (mk_wf h))

theorem endTurn_wf {n status last} (h : MemWf s) : MemWf (endTurn s n status last) := by
  unfold endTurn
  extract_lets +onlyGivenNames x s x posts s
  have h1 : MemWf s := mk_wf (mk_wf (ringWrite_wf h))
  exact ite_wf (stopStream_wf (record_wf h1)) (ite_wf (armStream_wf (record_wf h1)) (record_wf h1))

set_option smartUnfolding true in
theorem collStop_wf {n c status own} (h : MemWf s) : MemWf (collStop s n c status own) := by
  unfold collStop
  exact endTurn_wf (foldl_wf collMsg_wf (mk_wf h))

theorem collAbort_wf {n status own} (h : MemWf s) : MemWf (collAbort s n status own) := option_wf h (collStop_wf h)

theorem collTeardown_wf {ctx own} (h : MemWf s) : MemWf (collTeardown s ctx own) :=
  foldl_wf (fun h1 => stopStream_wf (collAbort_wf h1)) h

theorem collPeerGone_wf {mid} (h : MemWf s) : MemWf (collPeerGone s mid) := foldl_wf collAbort_wf h

theorem collsCut_wf (h : MemWf s) : MemWf (collsCut s) := foldl_wf (fun h1 => foldl_wf collAbort_wf h1) (mk_wf h)

theorem streamCheck_wf {x} (h : MemWf s) : PairWf (streamCheck s x) := ite_wf h (ite_wf h ((ringOk_wf h).bool id id))

theorem streamOn_wf {n} (h : MemWf s) : MemWf (streamOn s n) :=
  ite_wf h ((streamCheck_wf h).option (fun h1 => armStream_wf (mk_wf h1)) mk_wf)

theorem streamOff_wf {n} (h : MemWf s) : MemWf (streamOff s n) := ite_wf (mk_wf h) (stopStream_wf h)

theorem colsCtrl_wf {v} (h : MemWf s) : MemWf (colsCtrl v s) := by
  unfold colsCtrl
  dsimp only
  split
  · exact streamOff_wf h
  · exact streamOn_wf h
  · exact h

theorem readGroup_wf {n va} (h : MemWf s) : VRead.wf (readGroup s n va) := by
  unfold readGroup
  split
  next e =>
    have h1 := of_eq e (vRead_wf h)
    exact ite_wf h1 (vRead_wf h1)
  · exact vRead_wf h

theorem buffersOk_wf {n c send sgrid} (h : MemWf s) : PairWf (buffersOk s n c send sgrid) :=
  foldl_wf (fun h1 => ite_wf h1 ((vSpan_wf h1).elim id id id)) h

theorem readSend_wf {n c send sgrid} (h : MemWf s) : VRead.wf (readSend s n c send sgrid) := by
  unfold readSend
  refine ite_wf h ?_
  dsimp only
  split
  next e =>
    have h1 := of_eq e (vRead_wf h)
    refine ite_wf h1 ?_
    split
    next e =>
      have h2 := of_eq e (vRead_wf h1)
      exact ite_wf (collOvf_wf h2) h2
    · exact vRead_wf h1
  · exact vRead_wf h

theorem takeAnnounce_wf {n rank crc} (h : MemWf s) : MemWf (takeAnnounce s n rank crc) :=
  option_wf h (ite_wf (collStop_wf (loseStatus_wf h)) (collAdvance_wf (mk_wf h)))

theorem abortTurn_wf {n status} (h : MemWf s) : MemWf (abortTurn s n status) := endTurn_wf (ite_wf (loseStatus_wf h) h)

theorem beginColl_wf {n c} (h : MemWf s) : MemWf (beginColl s n c) := by
  unfold beginColl
  dsimp only
  split
  · exact abortTurn_wf (mk_wf h)
  · exact foldl_wf takeAnnounce_wf (foldl_wf collMsg_wf (mk_wf h))

theorem collDenied_wf {n c} (h : MemWf s) : MemWf (collDenied s n c) := ite_wf (collStop_wf h) (collStop_wf h)

theorem execCollDescriptorStart_wf {n} (h : MemWf s) : NextWf (execCollDescriptorStart n s) := by
  unfold execCollDescriptorStart
  dsimp only
  refine ite_wf h ?_
  split
  next e => exact (of_eq e (vRead_wf h) :)
  next e => exact endTurn_wf (of_eq e (vRead_wf h) :)
  next e => exact endTurn_wf (of_eq e (vRead_wf h) :)
  next e =>
    have h1 := of_eq e (vRead_wf h)
    split
    next e => exact (of_eq e (readGroup_wf h1) :)
    next e => exact endTurn_wf (of_eq e (readGroup_wf h1) :)
    next e => exact endTurn_wf (of_eq e (readGroup_wf h1) :)
    next e =>
      have h2 := of_eq e (readGroup_wf h1)
      refine ite_wf (collStop_wf h2) ?_
      split
      next e => exact (of_eq e (buffersOk_wf h2) :)
      next e => exact collDenied_wf (of_eq e (buffersOk_wf h2) :)
      next e => exact (readSend_wf (of_eq e (buffersOk_wf h2) :)).elim beginColl_wf collDenied_wf collStop_wf id

theorem execCollAnnounce_wf {n rank g crc} (h : MemWf s) : NextWf (execCollAnnounce n rank g crc s) :=
  ite_wf (mk_wf h) (option_wf (mk_wf (mk_wf h)) (ite_wf (ite_wf (takeAnnounce_wf (mk_wf h)) (mk_wf h)) (mk_wf (mk_wf h))))

theorem execColl_wf {n rank seg data} (h : MemWf s) : NextWf (execColl n rank seg data s) :=
  option_wf (mk_wf h) (ite_wf (mk_wf h) (giveGrants_wf (collAdvance_wf (mk_wf (mk_wf h)))))

theorem tellLast_wf {ctx half c last} (h : MemWf s) : MemWf (tellLast s ctx half c last) :=
  ite_wf (ite_wf h (mk_wf h)) (sendForCtx_wf h)

theorem bufWrite_wf {n va l} (h : MemWf s) : MemWf (bufWrite s n va l) := by
  unfold bufWrite
  refine ite_wf h ?_
  dsimp only
  split
  next e =>
    have h1 := of_eq e (vEnt_wf h)
    refine ite_wf ?_ (farPieces_wf h1)
    split
    next e => exact (of_eq e (entWrite_wf h1) :)
    next e => exact (of_eq e (entWrite_wf h1) :)
    · exact h1
  next e => exact (of_eq e (vEnt_wf h) :)

theorem finishColl_wf {n c last ov} (h : MemWf s) : MemWf (finishColl s n c last ov) := by
  unfold finishColl
  suffices h1 : MemWf _ from endTurn_wf (tellLast_wf (ite_wf (ctxRelaxed_wf h1) h1))
  exact ite_wf (collOvf_wf h) h

theorem execCollComplete_wf {n} (h : MemWf s) : NextWf (execCollComplete n s) := by
  unfold execCollComplete
  dsimp only
  split
  · exact h
  · refine ite_wf h ?_
    suffices h1 : MemWf _ from ite_wf h1 (finishColl_wf h1)
    exact ite_wf h (bufWrite_wf (bufWrite_wf (mk_wf h)))

theorem streamAnswer_wf {n va op status data} (h : MemWf s) : MemWf (streamAnswer s n va op status data) := by
  unfold streamAnswer
  dsimp only
  refine ite_wf (mk_wf h) ?_
  split
  next e => exact (of_eq e (ite_wf (execCollComplete_wf (mk_wf h)) (execCollDescriptorStart_wf (mk_wf h))) :)
  · exact mk_wf h

theorem execCollAbort_wf {n e} (h : MemWf s) : NextWf (execCollAbort n e s) := by
  unfold execCollAbort
  extract_lets +onlyGivenNames g m near _ s x keep
  have h1 : MemWf keep := ite_wf (mk_wf h) (mk_wf (mk_wf h))
  exact option_wf h1 (ite_wf (ite_wf (abortTurn_wf (mk_wf h)) (mk_wf h)) h1)

theorem execCollTimeout_wf {n} (h : MemWf s) : NextWf (execCollTimeout n s) := option_wf h (ite_wf h (collAbort_wf h))

/-! Machine/Handoff -/

theorem handStart_wf {f q p} (hf : ∀ {n q p s}, MemWf s → MemWf (f n q p s)) (h : MemWf s) : MemWf (handStart f q p s) := by
  unfold handStart
  split
  · exact ite_wf (hf h) (answer_wf h)
  · exact answer_wf h
  · exact answer_wf h

theorem forLead_wf {slot q p} (h : MemWf s) : MemWf (forLead slot q p s) := ite_wf (leadDo_wf h) (answer_wf h)

set_option smartUnfolding true in
theorem takeOffer_wf {slot q p} (h : MemWf s) : MemWf (takeOffer slot q p s) := by
  unfold takeOffer
  extract_lets lcid e src acc whole
  have hacc {s} (h : MemWf s) : MemWf (acc s) := by
    unfold acc
    suffices h1 : MemWf _ from ite_wf h1 (tellLead_wf h1)
    refine sendHand_wf ?_
    split
    · exact mk_wf h
    · exact h
  have hwhole {o s} (h : MemWf s) : MemWf (whole o s) := ite_wf (hacc (mk_wf h)) (mk_wf h)
  clear_value acc whole
  split
  · exact ite_wf (ite_wf (hacc h) h) (ite_wf h (ite_wf (hwhole h) (mk_wf h)))
  · refine ite_wf h ?_
    split
    · exact answer_wf h
    · exact ite_wf (hwhole (mk_wf (mk_wf h))) (mk_wf (mk_wf h))

theorem sourceAccept_wf {slot lcid e mid} (h : MemWf s) : MemWf (sourceAccept s slot lcid e mid) :=
  option_wf h (ite_wf (tellLead_wf (mk_wf h)) h)

theorem takeAccept_wf {slot q p} (h : MemWf s) : MemWf (takeAccept slot q p s) :=
  ite_wf (sourceAccept_wf (leadDo_wf h)) (answer_wf (sourceAccept_wf h))

theorem takeEnd_wf {slot q p} (h : MemWf s) : MemWf (takeEnd slot q p s) :=
  ite_wf (leadDo_wf h) (ite_wf (answer_wf h) (answer_wf (ite_wf (destCommit_wf h) (destAbort_wf h))))

theorem execMoveBegin_wf {p} (h : MemWf s) : NextWf (execMoveBegin p s) := arrive_wf wrongOnFabric_wf (handStart_wf forLead_wf) h

theorem execMoveOffer_wf {p} (h : MemWf s) : NextWf (execMoveOffer p s) :=
  arrive_wf wrongOnFabric_wf (handStart_wf takeOffer_wf) h

theorem execMoveAccept_wf {p} (h : MemWf s) : NextWf (execMoveAccept p s) :=
  arrive_wf wrongOnFabric_wf (handStart_wf takeAccept_wf) h

theorem execMoveCommit_wf {p} (h : MemWf s) : NextWf (execMoveCommit p s) :=
  arrive_wf wrongOnFabric_wf (handStart_wf takeEnd_wf) h

theorem execMoveAbort_wf {p} (h : MemWf s) : NextWf (execMoveAbort p s) := arrive_wf wrongOnFabric_wf (handStart_wf takeEnd_wf) h

theorem execOwnerQuery_wf {p} (h : MemWf s) : NextWf (execOwnerQuery p s) :=
  arrive_wf wrongOnFabric_wf (handStart_wf forLead_wf) h

theorem resend_wf {m} (h : MemWf s) : MemWf (resend s m) :=
  ite_wf (tellLead_wf h) (ite_wf (sendOffers_wf h) (ite_wf (tellLead_wf h) (ite_wf (tellLead_wf h) h)))

theorem retellDest_wf {u} (h : MemWf s) : MemWf (retellDest s u) := ite_wf (sendHand_wf (mk_wf h)) (mk_wf h)

theorem reaccept_wf {o} (h : MemWf s) : MemWf (reaccept s o) := ite_wf (foldl_wf sendHand_wf (mk_wf h)) h

theorem resendOthers_wf {slot lcid} (h : MemWf s) : MemWf (resendOthers s slot lcid) :=
  foldl_wf reaccept_wf (foldl_wf retellDest_wf (option_wf h (sendRec_wf h)))

theorem execHandoffRetry_wf {slot lcid} (h : MemWf s) : NextWf (execHandoffRetry slot lcid s) := by
  unfold execHandoffRetry
  suffices h1 : MemWf _ from option_wf h1 (ite_wf h1 (ite_wf (resend_wf (mk_wf h1)) (ite_wf (moveDrop_wf h1)
          (ite_wf (sendHand_wf h1) (sourceAbort_wf h1)))))
  exact resendOthers_wf h

theorem execEpochOpenTimeout_wf {slot lcid} (h : MemWf s) : NextWf (execEpochOpenTimeout slot lcid s) :=
  ite_wf h (leadChange_wf h)

theorem loseMove_wf {m half} (h : MemWf s) : MemWf (loseMove s m half) :=
  option_wf (mk_wf (loseAll_wf h)) (finishStatus_wf (mk_wf (loseAll_wf h)))

theorem execHandoffLeadTimeout_wf {slot lcid} (h : MemWf s) : NextWf (execHandoffLeadTimeout slot lcid s) :=
  option_wf h (ite_wf (loseMove_wf h) h)

theorem execRunTableUpdate_wf {slot first mid} (h : MemWf s) : NextWf (execRunTableUpdate slot first mid s) :=
  ite_wf (applyRun_wf h) h

theorem execFlush_wf {slot lcid} (h : MemWf s) : NextWf (execFlush slot lcid s) :=
  option_wf h (option_wf (mk_wf h) (foldl_wf (fun h1 => ite_wf (option_wf h1 (enqueue_wf h1)) (sendEntry_wf h1)) (mk_wf h)))

theorem handAnswer_wf {slot mid p} (h : MemWf s) : MemWf (handAnswer s slot mid p) := by
  unfold handAnswer
  dsimp only
  refine ite_wf (mk_wf h) ?_
  split
  · exact pubAck_wf h
  · exact mk_wf h
  · exact sourceReply_wf h
  · exact option_wf h (ite_wf (sourceAbort_wf h) h)
  · exact sourceReply_wf h
  · exact sourceReply_wf h
  · exact ite_wf (deputyAck_wf h) h
  · exact h

theorem settleEpochs_wf {slot mid} (h : MemWf s) : MemWf (settleEpochs s slot mid) :=
  foldl_wf (fun h1 => ite_wf (leadChange_wf h1) (ite_wf (leadChange_wf h1) h1)) h

theorem loseHosted_wf {slot mid} (h : MemWf s) : MemWf (loseHosted s slot mid) :=
  ite_wf (foldl_wf (fun h => ite_wf (loseStatus_wf (takeFree_wf h)) (takeFree_wf h)) h) h

theorem deputyLeads_wf {slot} (h : MemWf s) : MemWf (deputyLeads s slot) :=
  (pickOne_wf h).option mk_wf (fun h1 => copyRecs_wf (mk_wf h1))

theorem moveDestGone_wf {slot mid} (h : MemWf s) : MemWf (moveDestGone s slot mid) :=
  foldl_wf (fun h1 => ite_wf (ite_wf (sourceAbort_wf h1) (ite_wf (moveStop_wf h1) h1)) h1) h

theorem slotPeerGone_wf {slot mid} (h : MemWf s) : MemWf (slotPeerGone s slot mid) := by
  unfold slotPeerGone
  extract_lets +onlyGivenNames sl b own
  refine ite_wf h ?_
  extract_lets +onlyGivenNames s
  have h1 : MemWf s := pubAck_wf (mk_wf h)
  refine ite_wf (loseAll_wf h1) ?_
  suffices h2 : MemWf _ from moveDestGone_wf (ite_wf (loseHosted_wf (settleEpochs_wf (ite_wf (foldl_wf runAct_wf (mk_wf h2)) h2)))
      h2)
  exact ite_wf (deputyLeads_wf h1) h1

/-! Machine/Teardown -/

theorem setDown_wf {ctx f} (h : MemWf s) : MemWf (setDown s ctx f) := mk_wf h

theorem dropCtxEntries_wf {ctx} (h : MemWf s) : MemWf (dropCtxEntries s ctx) := mk_wf (foldl_wf dropEntries_wf h)

theorem stopCmd_wf {b status} (h : MemWf s) : MemWf (stopCmd s b status) := by
  unfold stopCmd
  extract_lets +onlyGivenNames s
  have h1 : MemWf s := fqLeave_wf (mk_wf h)
  split
  · exact bulkEnd_wf h1
  · exact bulkEnd_wf h1
  · exact bulkEnd_wf h1
  · exact finishStatus_wf h1

theorem stopCmds_wf {ctx status} (h : MemWf s) : MemWf (stopCmds s ctx status) := foldl_wf stopCmd_wf h

theorem stopTens_wf {ctx} (h : MemWf s) : MemWf (stopTens s ctx) :=
  foldl_wf (fun h1 => by
    extract_lets +onlyGivenNames s
    have h2 : MemWf s := abandonSample_wf h1
    split
    · exact moveCheck_wf (moveSaved_wf (mk_wf h2))
    · exact moveCheck_wf (moveSaved_wf (mk_wf h2))
    · exact mk_wf h2) h

theorem stopMoves_wf {ctx status} (h : MemWf s) : MemWf (stopMoves s ctx status) := foldl_wf moveStop_wf h

theorem stopWork_wf {ctx st} (h : MemWf s) : MemWf (stopWork s ctx st) :=
  mk_wf (stopCmds_wf (stopTens_wf (collTeardown_wf (foldl_wf endRun_wf (dropCtxEntries_wf (stopMoves_wf (setDown_wf h)))))))

theorem execContextTeardown_wf {ctx} (h : MemWf s) : NextWf (execContextTeardown ctx s) :=
  option_wf h (ite_wf h (wakeAll_wf (stopWork_wf h)))

theorem sendNotices_wf {ctx d} (h : MemWf s) : MemWf (sendNotices s ctx d) := foldl_wf (fun h1 => sendForSlot_wf (mk_wf h1)) h

theorem freeEventsOf_wf {ctx} (h : MemWf s) : MemWf (freeEventsOf s ctx) := foldl_wf (fun h1 => mk_wf (mk_wf h1)) h

theorem unbindQpsOf_wf {ctx} (h : MemWf s) : MemWf (unbindQpsOf s ctx) := foldl_wf mk_wf h

theorem gatherRing_wf {n} (h : MemWf s) : MemWf (gatherRing s n) := mk_wf h

theorem flushRing_wf {n k} (h : MemWf s) : MemWf (flushRing n k s) := by
  induction k generalizing s with
  | zero => exact h
  | succ k ih =>
    rw [flushRing]
    exact list_wf h (ite_wf (ih (answer_wf (popQp_wf h))) h)

theorem drained_wf {ctx d} (h : MemWf s) : MemWf (drained s ctx d) :=
  foldl_wf flushRing_wf (invalCtx_wf (fqDropCtx_wf (unbindQpsOf_wf (freeEventsOf_wf (foldl_wf gatherRing_wf
              (foldl_wf (fun h1 => moveCheck_wf (moveSaved_wf h1)) (mk_wf (ite_wf (sendNotices_wf (mk_wf h)) (mk_wf h)))))))))

theorem execTeardownDrainDone_wf {ctx} (h : MemWf s) : NextWf (execTeardownDrainDone ctx s) :=
  option_wf h (ite_wf h (wakeAll_wf (unbindCheck_wf (mk_wf (drained_wf h)))))

theorem unmapImages_wf {slot l} (h : MemWf s) : MemWf (unmapImages s slot l) :=
  foldl_wf (fun h1 => option_wf h1 (ite_wf (dropImage_wf _ _ (mk_wf h1)) (mk_wf h1))) h

theorem destroySlot_wf {slot} (h : MemWf s) : MemWf (destroySlot s slot) :=
  mk_wf (foldl_wf (fun h1 => mk_wf (mk_wf h1)) (mem_wf (mk_wf (foldl_wf (fun h2 => freeGran_wf _ h2) (foldl_wf finishStatus_wf h)))))

theorem slotCheck_wf {slot} (h : MemWf s) : MemWf (slotCheck s slot) := by
  unfold slotCheck
  refine ite_wf h ?_
  dsimp only
  refine ite_wf ?_ (option_wf h (finishStatus_wf (mk_wf h)))
  refine ite_wf h ?_
  suffices h1 : MemWf _ from option_wf h1 (finishStatus_wf h1)
  exact destroySlot_wf h

theorem destroyEnd_wf {cmd} (h : MemWf s) : MemWf (destroyEnd cmd s) := option_wf h (finishStatus_wf h)

theorem execTeardownZeroDone_wf {ctx} (h : MemWf s) : NextWf (execTeardownZeroDone ctx s) :=
  option_wf h (ite_wf h (wakeAll_wf (slotCheck_wf (destroyEnd_wf (mk_wf (foldl_wf (fun h1 => freeGran_wf _ h1) (unmapImages_wf h)))))))

theorem beginDestroy_wf {ctx id} (h : MemWf s) : MemWf (beginDestroy s ctx id) := by
  unfold beginDestroy
  dsimp only
  split
  · exact mk_wf h
  · exact mk_wf h
  · exact mk_wf h
  · exact h

theorem destroyCtxs_wf {slot} (h : MemWf s) : MemWf (destroyCtxs s slot) := foldl_wf beginDestroy_wf h

theorem pullsGone_wf {mid} (h : MemWf s) : MemWf (pullsGone s mid) :=
  foldl_wf (fun h1 => foldl_wf (fun h2 => by
    suffices h3 : MemWf _ from option_wf h3 (finishStatus_wf h3)
    exact dropImage_wf _ _ h2) h1) h

theorem peerFailed_wf {mid} (h : MemWf s) : MemWf (peerFailed s mid) :=
  ite_wf h (collPeerGone_wf (pullsGone_wf (mk_wf (foldl_wf (fun h1 => slotPeerGone_wf (ite_wf (sendForSlot_wf h1) h1))
            (mk_wf (logNote_wf _ h))))))

theorem peerReported_wf {mid slot} (h : MemWf s) : MemWf (peerReported s mid slot) := slotPeerGone_wf (mk_wf h)

theorem startNotice_wf {q p} (h : MemWf s) : MemWf (startNotice q p s) :=
  option_wf (mk_wf h) (ite_wf (answer_wf (ite_wf (setDown_wf (lose_wf h)) h)) (ite_wf (answer_wf (peerReported_wf h))
        (answer_wf h)))

theorem execErrorReport_wf {p} (h : MemWf s) : NextWf (execErrorReport p s) := arrive_wf wrongOnFabric_wf startNotice_wf h

theorem execPeerNoticeRetry_wf {ctx mid} (h : MemWf s) : NextWf (execPeerNoticeRetry ctx mid s) :=
  option_wf h (ite_wf (sendForSlot_wf (mk_wf h)) (peerFailed_wf (mk_wf h)))

theorem execPeerSilent_wf {mid} (h : MemWf s) : NextWf (execPeerSilent mid s) := ite_wf h (peerFailed_wf h)

theorem peerFailWrite_wf {v} (h : MemWf s) : MemWf (peerFailWrite v s) := peerFailed_wf h

/-! Machine/Partition -/

theorem withSlot_wf {pid f q p} (hf : ∀ {n q p s}, MemWf s → MemWf (f n q p s)) (h : MemWf s) : MemWf (withSlot pid f q p s) :=
  option_wf (answer_wf h) (ite_wf (answer_wf h) (hf h))

theorem startCreate_wf {q p} (h : MemWf s) : MemWf (startCreate q p s) :=
  ite_wf (answer_wf h) (ite_wf (answer_wf h) (ite_wf (answer_wf h) (ite_wf (answer_wf h) (answer_wf (mk_wf (ite_wf (mk_wf h) h))))))

theorem execPartCreate_wf {p} (h : MemWf s) : NextWf (execPartCreate p s) := arrive_wf startCreate_wf wrongOnFabric_wf h

theorem startPartQuery_wf {q p} (h : MemWf s) : MemWf (startPartQuery q p s) := option_wf (answer_wf h) (sendReply_wf h)

theorem execPartQuery_wf {p} (h : MemWf s) : NextWf (execPartQuery p s) := arrive_wf startPartQuery_wf wrongOnFabric_wf h

theorem startPartDestroy_wf {q p} (h : MemWf s) : MemWf (startPartDestroy q p s) :=
  withSlot_wf (fun h1 => slotCheck_wf (destroyCtxs_wf (retireAll_wf (mk_wf (begin_wf h1))))) h

theorem execPartDestroy_wf {p} (h : MemWf s) : NextWf (execPartDestroy p s) := arrive_wf startPartDestroy_wf wrongOnFabric_wf h

theorem startBind_wf {q p} (h : MemWf s) : MemWf (startBind q p s) :=
  withSlot_wf (fun h1 => by
    dsimp only
    refine ite_wf (answer_wf h1) ?_
    refine ite_wf (answer_wf h1) ?_
    refine ite_wf (answer_wf (mk_wf h1)) ?_
    refine ite_wf (answer_wf (mk_wf h1)) ?_
    split
    · exact answer_wf (mk_wf h1)
    · exact answer_wf (mk_wf h1)) h

theorem execPartBind_wf {p} (h : MemWf s) : NextWf (execPartBind p s) := arrive_wf startBind_wf wrongOnFabric_wf h

theorem setRec_wf {i f} (h : MemWf s) : MemWf (setRec s i f) := mk_wf h

set_option smartUnfolding true in
theorem growCores_wf {i q p} (h : MemWf s) : MemWf (growCores i q p s) := by
  unfold growCores
  exact ite_wf (answer_wf h) (ite_wf (answer_wf h) (answer_wf (setRec_wf h)))

set_option smartUnfolding true in
theorem shrinkCores_wf {i q p} (h : MemWf s) : MemWf (shrinkCores i q p s) := by
  unfold shrinkCores
  exact ite_wf (answer_wf h) (ite_wf (answer_wf h) (answer_wf (setRec_wf h)))

theorem growChannels_wf {i q p} (h : MemWf s) : MemWf (growChannels i q p s) :=
  ite_wf (answer_wf h) (ite_wf (answer_wf h) (answer_wf (setRec_wf h)))

theorem shrinkChannels_wf {i q p} (h : MemWf s) : MemWf (shrinkChannels i q p s) :=
  ite_wf (answer_wf h) (ite_wf (answer_wf h) (answer_wf (setRec_wf h)))

theorem portShare_wf {i q p} (h : MemWf s) : MemWf (portShare i q p s) := ite_wf (answer_wf h) (answer_wf (mk_wf h))

theorem applyShare_wf {port i} (h : MemWf s) : MemWf (applyShare port s i) := by
  unfold applyShare
  dsimp only
  split
  · exact h
  · exact mk_wf h

theorem execPortShareApply_wf {port} (h : MemWf s) : NextWf (execPortShareApply port s) := foldl_wf applyShare_wf h

theorem moveStart_wf {i q p} (h : MemWf s) : MemWf (moveStart i q p s) := by
  unfold moveStart
  extract_lets +onlyGivenNames lcid mid cid fold sl old heldMove
  split
  · refine ite_wf (answer_wf h) ?_
    refine ite_wf (answer_wf h) ?_
    extract_lets +onlyGivenNames put
    have h1 : ∀ {m s}, MemWf s → MemWf (put m s) := fun h2 => ite_wf (mk_wf h2) (mk_wf h2)
    exact ite_wf (option_wf (ite_wf (moveSaved_wf (h1 (begin_wf h))) (h1 (begin_wf h))) (answer_wf h))
      (tellLead_wf (h1 (begin_wf h)))
  · exact answer_wf h

theorem execMoveDrainReturn_wf {slot lcid} (h : MemWf s) : NextWf (execMoveDrainReturn slot lcid s) :=
  option_wf h (ite_wf (moveSaved_wf (saveLcid_wf (mk_wf h))) h)

theorem migrateStart_wf {i q p} (h : MemWf s) : MemWf (migrateStart i q p s) :=
  ite_wf (answer_wf h) (beginMigration_wf _ _ _ _ (mk_wf (begin_wf h)))

theorem migrEnd_wf {m gone status} (h : MemWf s) : MemWf (migrEnd s m gone status) :=
  option_wf (setRec_wf (mem_wf h)) (finishStatus_wf (mk_wf (setRec_wf (mem_wf h))))

theorem chanFails_wf {n} (h : MemWf s) : MemWf (chanFails s n) := loseAll_wf (mk_wf (logNote_wf _ h))

set_option smartUnfolding true in
theorem copyChannel_wf {n} (h : MemWf s) : MemWf (copyChannel s n) := by
  refine foldl_wf (fun h => ?_) h
  split
  next e => exact (of_eq e (meetWord_pairWf h) :)
  next e => exact zeroSpan_wf _ _ (of_eq e (meetWord_pairWf h) :)

theorem execMigrateCopyDone_wf {chan outcome} (h : MemWf s) : NextWf (execMigrateCopyDone chan outcome s) := by
  unfold execMigrateCopyDone
  split
  · exact h
  · split
    · exact mem_wf (copyChannel_wf h)
    · exact chanFails_wf (migrEnd_wf h)
    · exact chanFails_wf (migrEnd_wf h)

theorem swapRemap_wf {a b} (h : MemWf s) : MemWf (swapRemap s a b) := mem_wf h

theorem execMigrateDrainDone_wf {chan} (h : MemWf s) : NextWf (execMigrateDrainDone chan s) :=
  option_wf h (migrEnd_wf (mk_wf (swapRemap_wf h)))

theorem resetStart_wf {i q p} (h : MemWf s) : MemWf (resetStart i q p s) :=
  ite_wf (answer_wf h) (slotCheck_wf (destroyCtxs_wf (retireAll_wf (mk_wf (mk_wf (begin_wf h))))))

theorem leadStart_wf {i q p} (h : MemWf s) : MemWf (leadStart i q p s) :=
  answer_wf (ite_wf (copyRecs_wf (ite_wf (setRec_wf h) (copyRecs_wf (setRec_wf h)))) (setRec_wf h))

theorem startRebind_wf {q p} (h : MemWf s) : MemWf (startRebind q p s) :=
  withSlot_wf (fun h1 => by
    dsimp only
    refine ite_wf (answer_wf h1) ?_
    refine ite_wf (answer_wf h1) ?_
    refine ite_wf (answer_wf h1) ?_
    split
    · exact growCores_wf h1
    · exact shrinkCores_wf h1
    · exact growChannels_wf h1
    · exact shrinkChannels_wf h1
    · exact portShare_wf h1
    · exact moveStart_wf h1
    · exact migrateStart_wf h1
    · exact resetStart_wf h1
    · exact leadStart_wf h1) h

theorem execGrowCores_wf {p} (h : MemWf s) : NextWf (execGrowCores p s) := arrive_wf startRebind_wf wrongOnFabric_wf h

theorem execShrinkCores_wf {p} (h : MemWf s) : NextWf (execShrinkCores p s) := arrive_wf startRebind_wf wrongOnFabric_wf h

theorem execGrowChannels_wf {p} (h : MemWf s) : NextWf (execGrowChannels p s) := arrive_wf startRebind_wf wrongOnFabric_wf h

theorem execShrinkChannels_wf {p} (h : MemWf s) : NextWf (execShrinkChannels p s) := arrive_wf startRebind_wf wrongOnFabric_wf h

theorem execPortShare_wf {p} (h : MemWf s) : NextWf (execPortShare p s) := arrive_wf startRebind_wf wrongOnFabric_wf h

theorem execMoveLc_wf {p} (h : MemWf s) : NextWf (execMoveLc p s) := arrive_wf startRebind_wf wrongOnFabric_wf h

theorem execChannelMigrate_wf {p} (h : MemWf s) : NextWf (execChannelMigrate p s) := arrive_wf startRebind_wf wrongOnFabric_wf h

theorem execReset_wf {p} (h : MemWf s) : NextWf (execReset p s) := arrive_wf startRebind_wf wrongOnFabric_wf h

theorem execSetLead_wf {p} (h : MemWf s) : NextWf (execSetLead p s) := arrive_wf startRebind_wf wrongOnFabric_wf h

theorem startCtxCreate_wf {q p} (h : MemWf s) : MemWf (startCtxCreate q p s) :=
  withSlot_wf (fun h1 => ite_wf (answer_wf h1) (sendReply_wf (mk_wf h1))) h

theorem execCtxCreate_wf {p} (h : MemWf s) : NextWf (execCtxCreate p s) := arrive_wf startCtxCreate_wf wrongOnFabric_wf h

theorem startCtxDestroy_wf {q p} (h : MemWf s) : MemWf (startCtxDestroy q p s) :=
  option_wf (answer_wf h) (ite_wf (answer_wf h) (ite_wf (answer_wf h) (ite_wf (answer_wf h) (beginDestroy_wf (begin_wf h)))))

theorem execCtxDestroy_wf {p} (h : MemWf s) : NextWf (execCtxDestroy p s) := arrive_wf startCtxDestroy_wf wrongOnFabric_wf h

theorem startQpBind_wf {q p} (h : MemWf s) : MemWf (startQpBind q p s) :=
  ite_wf (answer_wf h) (ite_wf (answer_wf h) (ite_wf (answer_wf h) (answer_wf (mk_wf h))))

theorem execQpBind_wf {p} (h : MemWf s) : NextWf (execQpBind p s) := arrive_wf startQpBind_wf wrongOnFabric_wf h

theorem startQpUnbind_wf {q p} (h : MemWf s) : MemWf (startQpUnbind q p s) :=
  ite_wf (answer_wf h) (ite_wf (answer_wf h) (unbindCheck_wf (mk_wf (begin_wf h))))

theorem execQpUnbind_wf {p} (h : MemWf s) : NextWf (execQpUnbind p s) := arrive_wf startQpUnbind_wf wrongOnFabric_wf h

/-! Machine/Granary -/

theorem setImage_wf {i x} (h : MemWf s) : MemWf (setImage s i x) := mk_wf h

theorem answerBase_wf {q p x} (h : MemWf s) : MemWf (answerBase q p s x) := answerAt_wf h

theorem startLoad_wf {q p} (h : MemWf s) : MemWf (startLoad q p s) :=
  withSlot_wf (fun h1 => by
    extract_lets +onlyGivenNames model size source peer n
    refine ite_wf (answer_wf h1) ?_
    refine ite_wf (answer_wf h1) ?_
    split
    · exact ite_wf (answerBase_wf (setImage_wf h1)) (answer_wf h1)
    · refine ite_wf (answer_wf h1) ?_
      extract_lets +onlyGivenNames b
      split
      · exact answer_wf h1
      · extract_lets +onlyGivenNames s
        have h2 : MemWf s := foldl_wf (fun h3 => dropImage_wf _ _ h3) h1
        extract_lets +onlyGivenNames gr s
        have h4 : MemWf s := foldl_wf (fun h5 => setTag_wf _ _ h5) h2
        exact ite_wf (answerBase_wf (mk_wf h4)) (mk_wf (begin_wf h4))) h

theorem execGranaryLoad_wf {p} (h : MemWf s) : NextWf (execGranaryLoad p s) := arrive_wf startLoad_wf wrongOnFabric_wf h

theorem imageBytes_wf {l n acc} (h : MemWf s) : PairWf (imageBytes l n acc s) := by
  induction l generalizing n acc s with
  | nil => exact h
  | cons k t ih =>
    rw [imageBytes]
    split
    next e => exact ih (of_eq e (readServe_wf _ _ _ _ h) :)
    next e => exact (of_eq e (readServe_wf _ _ _ _ h) :)
    · exact h

set_option smartUnfolding true in
theorem sealImage_wf {i x} (h : MemWf s) : PairWf (sealImage s i x) := by
  unfold sealImage
  split
  next e => exact dropImage_wf _ _ (of_eq e (imageBytes_wf h) :)
  next e =>
    have h1 := of_eq e (imageBytes_wf h)
    exact ite_wf (setImage_wf (foldl_wf (setTag_wf _ _) h1)) (dropImage_wf _ _ h1)

theorem withGranImage_wf {f q p} (hf : ∀ {n x q p s}, MemWf s → MemWf (f n x q p s)) (h : MemWf s) :
    MemWf (withGranImage f q p s) :=
  ite_wf (answer_wf h) (option_wf (answer_wf h) (option_wf (answer_wf h) (hf h)))

theorem startSeal_wf {q p} (h : MemWf s) : MemWf (startSeal q p s) :=
  withGranImage_wf (fun h1 => ite_wf (answer_wf h1) (answer_wf (sealImage_wf h1))) h

theorem execGranarySeal_wf {p} (h : MemWf s) : NextWf (execGranarySeal p s) := arrive_wf startSeal_wf wrongOnFabric_wf h

theorem startPin_wf {q p} (h : MemWf s) : MemWf (startPin q p s) :=
  withGranImage_wf
    (fun h1 => ite_wf (answer_wf h1) (ite_wf (ite_wf (answer_wf h1) (answer_wf (setImage_wf h1)))
        (ite_wf (answer_wf h1) (answer_wf (setImage_wf h1)))))
    h

theorem execGranaryPin_wf {p} (h : MemWf s) : NextWf (execGranaryPin p s) := arrive_wf startPin_wf wrongOnFabric_wf h

theorem startEvict_wf {q p} (h : MemWf s) : MemWf (startEvict q p s) :=
  withGranImage_wf (fun h1 => ite_wf (answer_wf h1) (ite_wf (answer_wf h1) (answer_wf (dropImage_wf _ _ h1)))) h

theorem execGranaryEvict_wf {p} (h : MemWf s) : NextWf (execGranaryEvict p s) := arrive_wf startEvict_wf wrongOnFabric_wf h

theorem writeImage_wf {x data} (h : MemWf s) : MemWf (writeImage s x data) := foldl_wf (fun h1 => putBytes_wf _ _ h1) h

theorem execGranaryPeerPullEnd_wf {slot model data} (h : MemWf s) : NextWf (execGranaryPeerPullEnd slot model data s) := by
  unfold execGranaryPeerPullEnd
  split
  · exact h
  · suffices h1 : PairWf _ from option_wf h1 (wakeAll_wf (finish_wf (fun h2 => ite_wf (answerBase_wf h2) (answer_wf h2)) h1))
    exact sealImage_wf (writeImage_wf h)

theorem pullStops_wf {slot x} (h : MemWf s) : MemWf (pullStops s slot x) := by
  unfold pullStops
  suffices h1 : MemWf _ from option_wf h1 (finishStatus_wf h1)
  exact dropImage_wf _ _ h

theorem execGranaryPeerTimeout_wf {slot model} (h : MemWf s) : NextWf (execGranaryPeerTimeout slot model s) :=
  option_wf h (wakeAll_wf (pullStops_wf h))

/-! Machine/PowerOps -/

theorem takeBudget_wf {lead ofs} (h : MemWf s) : OptPairWf (takeBudget s lead ofs) := ite_wf trivial (mk_wf h)

theorem setOffset_wf {slot mid v} (h : MemWf s) : MemWf (setOffset s slot mid v) := mk_wf h

theorem sendBudget_wf {slot mid k v} (h : MemWf s) : MemWf (sendBudget s slot mid k v) := sendForSlot_wf h

theorem tellBudget_wf {slot mid k v} (h : MemWf s) : MemWf (tellBudget s slot mid k v) := by
  unfold tellBudget
  dsimp only
  refine ite_wf (sendBudget_wf (setOffset_wf h)) ?_
  split
  next e => exact setOffset_wf (of_eq e (takeBudget_wf (setOffset_wf h)) :)
  · exact setOffset_wf h

theorem donorDone_wf {slot} (h : MemWf s) : MemWf (donorDone s slot) := by
  unfold donorDone
  dsimp only
  split
  · exact h
  · exact tellBudget_wf (mk_wf h)

theorem budgetAnswer_wf {slot mid k p} (h : MemWf s) : MemWf (budgetAnswer s slot mid k p) := by
  unfold budgetAnswer
  refine ite_wf h ?_
  dsimp only
  split
  · exact ite_wf (donorDone_wf (setOffset_wf h)) (setOffset_wf h)
  · exact setOffset_wf h

theorem hintPost_wf {half v} (h : MemWf s) : MemWf (hintPost s half v) := mk_wf h

theorem hintWord_wf {half v} (h : MemWf s) : MemWf (hintWord s half v) := ite_wf (hintPost_wf h) (mk_wf h)

/-! Machine/SeqOps -/

theorem runSeg_wf {r x kind va n} (h : MemWf s) : RunSeg.wf (runSeg s r x kind va n) := by
  unfold runSeg
  split
  next e => exact (of_eq e (segAt_wf h) :)
  next e => exact endRun_wf (of_eq e (segAt_wf h) :)
  next e => exact submitFault_wf (mk_wf (of_eq e (segAt_wf h) :))
  next e => exact (of_eq e (segAt_wf h) :)

theorem runUnc_wf {r x} (h : MemWf s) : MemWf (runUnc s r x) := ite_wf (endRun_wf h) h

theorem runRes_wf {r x a} (h : MemWf s) (ha : MemRes.wf a) : RunRead.wf (runRes r x s a) :=
  ha.elim id (endRun_wf h) (endRun_wf h) runUnc_wf

theorem runReq_wf {r x who e v f} (h : MemWf s) : MemWf (runReq s r x who e v f) := (sendReq_wf h).elim (endRun_wf h) id

theorem runLoad_wf {r x va n} (h : MemWf s) : RunRead.wf (runLoad s r x va n) :=
  (runSeg_wf h).elim (fun h1 => ite_wf (runRes_wf h1 (entRead_wf h1)) (runReq_wf (mk_wf h1))) id

theorem putRun_wf {r x} (h : MemWf s) : MemWf (putRun s r x) := mk_wf h

theorem settleGuess_wf {r pc w} (h : MemWf s) : MemWf (settleGuess s r pc w) := by
  unfold settleGuess
  split
  · exact h
  · split
    · exact h
    · exact ite_wf h (ite_wf (mem_wf (mk_wf h)) (dropLines_wf (mk_wf h)))

theorem seqIssue_wf {op r f} (hf : ∀ {a a1 s}, MemWf s → MemWf (f a a1 s)) (h : MemWf s) : MemWf (seqIssue op r f s) :=
  option_wf h (ite_wf h (option_wf h (ite_wf (wakeAll_wf (settleGuess_wf (hf (mk_wf h)))) h)))

/-! Machine/Programs -/

set_option smartUnfolding true in
theorem loadCheck_wf {b size} (h : MemWf s) : MemWf (loadCheck b size s) := by
  unfold loadCheck
  extract_lets +onlyGivenNames l done
  have h1 : ∀ {st w6 s}, MemWf s → MemWf (done st w6 s) := fun h2 => finish_wf answerAt_wf h2
  refine ite_wf (h1 h) ?_
  refine ite_wf (h1 h) ?_
  dsimp only
  split
  · exact h1 h
  · refine ite_wf (h1 h) ?_
    split
    next e => exact h1 (of_eq e (pickOne_wf h) :)
    next e => exact finish_wf sendReply_wf (mk_wf (of_eq e (pickOne_wf h) :))

theorem cmdGo_wf {id} (h : MemWf s) : MemWf (cmdGo id s) := by
  unfold cmdGo
  dsimp only
  split
  · exact bulkRun_wf h
  · split
    · exact ite_wf (loadCheck_wf (bulkRun_wf h)) (bulkRun_wf h)
    · exact bulkRun_wf h

theorem startProgLoad_wf {q p} (h : MemWf s) : MemWf (startProgLoad q p s) := ite_wf (answer_wf h) (cmdGo_wf (begin_wf h))

theorem execProgLoad_wf {p} (h : MemWf s) : NextWf (execProgLoad p s) := arrive_wf startProgLoad_wf wrongOnFabric_wf h

theorem withProg_wf {f q p} (hf : ∀ {n x q p s}, MemWf s → MemWf (f n x q p s)) (h : MemWf s) : MemWf (withProg f q p s) :=
  option_wf (answer_wf h) (ite_wf (answer_wf h) (hf h))

theorem startPatch_wf {q p} (h : MemWf s) : MemWf (startPatch q p s) :=
  withProg_wf
    (fun h1 => ite_wf (answer_wf h1) (ite_wf (answer_wf h1) (option_wf (answer_wf h1) (option_wf (answer_wf h1)
            (option_wf (ite_wf (answer_wf h1) (sendReply_wf (progCheck_wf (mk_wf h1)))) (answerAt_wf h1))))))
    h

theorem execPatchSeq_wf {p} (h : MemWf s) : NextWf (execPatchSeq p s) := arrive_wf startPatch_wf wrongOnFabric_wf h

theorem startRetire_wf {q p} (h : MemWf s) : MemWf (startRetire q p s) :=
  withProg_wf (fun h1 => ite_wf (answer_wf h1) (progCheck_wf (mk_wf (begin_wf h1)))) h

theorem execProgRetire_wf {p} (h : MemWf s) : NextWf (execProgRetire p s) := arrive_wf startRetire_wf wrongOnFabric_wf h

set_option smartUnfolding true in
theorem startLaunch_wf {q p} (h : MemWf s) : MemWf (startLaunch q p s) := by
  unfold startLaunch
  refine ite_wf (answer_wf h) ?_
  split
  · exact answer_wf h
  · dsimp only
    split
    · exact answer_wf h
    · refine ite_wf (answer_wf h) (ite_wf (answer_wf h) ?_)
      split
      next e => exact mk_wf (begin_wf (of_eq e (pickOne_wf h) :))
      next e _ => exact answer_wf (of_eq e (pickOne_wf h) :)

theorem execLaunchSeq_wf {p} (h : MemWf s) : NextWf (execLaunchSeq p s) := arrive_wf startLaunch_wf wrongOnFabric_wf h

theorem execRunTimeout_wf {run} (h : MemWf s) : NextWf (execRunTimeout run s) := option_wf h (ite_wf h (wakeAll_wf (endRun_wf h)))

/-! Machine/Sequencer -/

theorem execSeqNop_wf {run} (h : MemWf s) : NextWf (execSeqNop run s) := seqIssue_wf putRun_wf h

theorem execSeqMovi_wf {run} (h : MemWf s) : NextWf (execSeqMovi run s) := seqIssue_wf putRun_wf h

theorem execMovhi_wf {run} (h : MemWf s) : NextWf (execMovhi run s) := seqIssue_wf putRun_wf h

theorem execAlu_wf {run} (h : MemWf s) : NextWf (execAlu run s) := seqIssue_wf putRun_wf h

theorem execSeqBr_wf {run} (h : MemWf s) : NextWf (execSeqBr run s) := seqIssue_wf putRun_wf h

theorem execLoopS_wf {run} (h : MemWf s) : NextWf (execLoopS run s) := seqIssue_wf putRun_wf h

theorem execJmp_wf {run} (h : MemWf s) : NextWf (execJmp run s) := seqIssue_wf putRun_wf h

theorem execBovf_wf {run} (h : MemWf s) : NextWf (execBovf run s) := seqIssue_wf putRun_wf h

theorem execOvfclr_wf {run} (h : MemWf s) : NextWf (execOvfclr run s) :=
  seqIssue_wf (fun h1 => putRun_wf (ite_wf (mk_wf h1) h1)) h

theorem loadEnd_wf {r x w data} (h : MemWf s) : MemWf (loadEnd s r x w data) := ite_wf (putRun_wf h) (putRun_wf h)

theorem loadStart_wf {r x w va n} (h : MemWf s) : MemWf (loadStart s r x w va n) :=
  ite_wf (endRun_wf h) ((runLoad_wf h).elim loadEnd_wf id)

theorem execSeqLd_wf {run} (h : MemWf s) : NextWf (execSeqLd run s) := seqIssue_wf loadStart_wf h

theorem execBmw_wf {run} (h : MemWf s) : NextWf (execBmw run s) := seqIssue_wf loadStart_wf h

theorem execSeqSt_wf {run} (h : MemWf s) : NextWf (execSeqSt run s) :=
  seqIssue_wf
    (fun h1 => ite_wf (endRun_wf h1) ((runSeg_wf h1).elim
        (fun h2 => ite_wf ((runRes_wf h2 (entWrite_wf h2)).elim putRun_wf id) (runReq_wf (putRun_wf h2))) id))
    h

theorem eventStart_wf {r x w} (h : MemWf s) : MemWf (eventStart r x w s) := by
  unfold eventStart
  dsimp only
  split
  · exact putRun_wf h
  · exact askEvent_wf (putRun_wf h)
  · exact runLose_wf h

theorem execEvread_wf {run} (h : MemWf s) : NextWf (execEvread run s) := seqIssue_wf eventStart_wf h

theorem execBev_wf {run} (h : MemWf s) : NextWf (execBev run s) := seqIssue_wf eventStart_wf h

theorem execWaitEv_wf {run} (h : MemWf s) : NextWf (execWaitEv run s) :=
  seqIssue_wf (fun h1 => by
    dsimp only
    split
    · exact registerWait_wf (putRun_wf h1)
    · exact askEvent_wf (putRun_wf h1)
    · exact runLose_wf h1) h

theorem execWaitTimeoutExpiry_wf {run} (h : MemWf s) : NextWf (execWaitTimeoutExpiry run s) := by
  unfold execWaitTimeoutExpiry
  split
  · exact h
  · split
    · exact putRun_wf (mk_wf (mk_wf h))
    · exact h

theorem execRecEv_wf {run} (h : MemWf s) : NextWf (execRecEv run s) :=
  seqIssue_wf (fun h1 => by
    dsimp only
    refine ite_wf h1 ?_
    split
    · exact record_wf (putRun_wf (postBy_wf h1))
    · exact askEvent_wf (putRun_wf h1)
    · exact runLose_wf h1) h

theorem execJoinG_wf {run} (h : MemWf s) : NextWf (execJoinG run s) := seqIssue_wf (fun h1 => runCheck_wf (putRun_wf h1)) h

theorem execSeqEnd_wf {run} (h : MemWf s) : NextWf (execSeqEnd run s) := seqIssue_wf (fun h1 => runCheck_wf (putRun_wf h1)) h

theorem execKernelEndNotify_wf {run incarn grp ovf} (h : MemWf s) : NextWf (execKernelEndNotify run incarn grp ovf s) :=
  option_wf h (wakeAll_wf (groupDone_wf (workEnds_wf (mk_wf h))))

theorem placeMember_wf {slot e} (h : MemWf s) : OptWf (placeMember s slot e) := by
  unfold placeMember
  split
  · exact mk_wf h
  · refine ite_wf (mk_wf h) ?_
    split
    · exact ite_wf (sendEntry_wf h) (option_wf h (ite_wf (enqueue_wf h) trivial))
    · exact h

theorem askMember_wf {r core slot mid e} (h : MemWf s) : MemWf (askMember s r core slot mid e) :=
  sendForCtx_wf (mk_wf (takeTag_wf h))

theorem placeRun_wf {r core slot e} (h : MemWf s) : Placed.wf (placeRun s r core slot e) :=
  ite_wf trivial (option_wf h (ite_wf (askMember_wf h) ((placeMember_wf h).elim trivial id)))

theorem placeFrom_wf {r x w rec' base n i} (h : MemWf s) : MemWf (placeFrom r x w rec' base n i s) := by
  induction n generalizing x i s with
  | zero => exact putRun_wf h
  | succ n ih =>
    rw [placeFrom]
    exact (placeRun_wf h).elim ih (putRun_wf h) putRun_wf

theorem execDispatch_wf {run} (h : MemWf s) : NextWf (execDispatch run s) :=
  seqIssue_wf (fun h1 => option_wf h1 (ite_wf h1 (ite_wf (runLose_wf h1) (ite_wf (runLose_wf h1) (ite_wf h1 (placeFrom_wf h1))))))
    h

theorem dispatchGo_wf {run x i} (h : MemWf s) : MemWf (dispatchGo run x i s) :=
  option_wf h (ite_wf (putRun_wf h) (option_wf h (placeFrom_wf h)))

theorem execDispatchQueueRoom_wf {run} (h : MemWf s) : NextWf (execDispatchQueueRoom run s) := by
  unfold execDispatchQueueRoom
  split
  · exact h
  · split
    · exact dispatchGo_wf h
    · exact h

theorem memberAnswer_wf {r lcid status} (h : MemWf s) : MemWf (memberAnswer s r lcid status) := by
  unfold memberAnswer
  split
  · exact h
  · split
    · exact ite_wf (putRun_wf h) (dispatchGo_wf h)
    · exact h

theorem execSeqCopy_wf {run} (h : MemWf s) : NextWf (execSeqCopy run s) :=
  seqIssue_wf
    (fun h1 => ite_wf (endRun_wf h1) (ite_wf h1 (copyFirst_wf (putRun_wf (option_wf (begin_wf h1) (mk_wf (begin_wf h1))))))) h

theorem emitSend_wf {r x w data} (h : MemWf s) : MemWf (emitSend s r x w data) :=
  ite_wf (putRun_wf h) (sendReply_wf (putRun_wf h))

set_option smartUnfolding true in
theorem emitRead_wf {r w n x} (h : MemWf s) : MemWf (emitRead r w n x s) := by
  induction n generalizing x s with
  | zero => exact h
  | succ n ih =>
    rw [emitRead]
    refine ite_wf (emitSend_wf h) ?_
    split
    next e => exact (of_eq e (runSeg_wf h) :)
    next e =>
      have h1 := of_eq e (runSeg_wf h)
      refine ite_wf ?_ (runReq_wf (putRun_wf h1))
      split
      next e => exact ih (of_eq e (runRes_wf h1 (entRead_wf h1)) :)
      next e => exact (of_eq e (runRes_wf h1 (entRead_wf h1)) :)

theorem execEmit_wf {run} (h : MemWf s) : NextWf (execEmit run s) :=
  seqIssue_wf (fun h1 => ite_wf (endRun_wf h1) (ite_wf h1 (emitRead_wf h1))) h

theorem runAnswer_wf {r status data} (h : MemWf s) : MemWf (runAnswer s r status data) := by
  unfold runAnswer
  split
  · exact h
  · split
    · exact ite_wf (endRun_wf h) (ite_wf (emitRead_wf h) (settleGuess_wf (loadEnd_wf h)))
    · exact h

theorem runStAnswer_wf {r status} (h : MemWf s) : MemWf (runStAnswer s r status) := ite_wf h (endRun_wf h)

theorem runEvAnswer_wf {r status pc wait} (h : MemWf s) : MemWf (runEvAnswer s r status pc wait) :=
  option_wf h (ite_wf (runLose_wf h) (ite_wf (wakeRun_wf h) h))

theorem runEvValue_wf {r status v} (h : MemWf s) : MemWf (runEvValue s r status v) := by
  unfold runEvValue
  split
  · exact h
  · split
    · exact ite_wf (runLose_wf h) (ite_wf (settleGuess_wf (putRun_wf h)) h)
    · exact h

theorem prefetchMet_wf {a} (h : MemWf s) : PairWf (prefetchMet s a) := ite_wf (setChan_wf _ _ h) (meetAll_pairWf h)

theorem prefetchLine_wf {core by' ctx cls sheaf va} (h : MemWf s) : PairWf (prefetchLine core by' ctx cls sheaf va s) := by
  unfold prefetchLine
  split
  next e =>
    have h1 := of_eq e (translate_wf h)
    dsimp only
    refine ite_wf h1 ?_
    refine ite_wf h1 ?_
    suffices h2 : PairWf _ from ite_wf h2 ((poolRoom_wf h2).elim h2 (fun h3 => option_wf (mem_wf h3) (mk_wf (mem_wf h3))))
    exact prefetchMet_wf (dropLines_wf h1)
  next e => exact (of_eq e (translate_wf h) :)

theorem prefetchCount_wf {core by' ctx cls sheaf va len} (h : MemWf s) : PairWf (prefetchCount core by' ctx cls sheaf va len s) :=
  ite_wf h (foldl_wf (fun h1 => (prefetchLine_wf h1)) h)

theorem prefetchRec_wf {r k x rec' off reg} (h : MemWf s) : MemWf (prefetchRec s r k x rec' off reg) :=
  foldl_wf (fun h1 => foldl_wf prefetchCount_wf h1) h

theorem execHint_wf {run} (h : MemWf s) : NextWf (execHint run s) :=
  seqIssue_wf (fun h1 => ite_wf (option_wf h1 (putRun_wf (prefetchRec_wf h1))) (putRun_wf (hintWord_wf h1))) h

set_option smartUnfolding true in
theorem aheadFrom_wf {r x v n pc ext path g} (h : MemWf s) : PairWf (aheadFrom r x v n pc ext path g s) := by
  induction n generalizing pc ext path g s with
  | zero => exact h
  | succ n ih =>
    rw [aheadFrom]
    split
    · exact h
    · refine ite_wf h (ih (ite_wf (P := PairWf) ?_ h))
      split
      · split
        · exact ite_wf (prefetchRec_wf h) h
        · exact h
      · exact h

theorem execRunAhead_wf {run} (h : MemWf s) : NextWf (execRunAhead run s) :=
  option_wf h (ite_wf h (option_wf h (putRun_wf (aheadFrom_wf (ite_wf (dropLines_wf h) h)))))

theorem moveRuns_wf {core} (h : MemWf s) : MemWf (moveRuns s core) :=
  foldl_wf (fun h1 => by
    dsimp only
    split
    · exact putRun_wf h1
    · exact h1) h

theorem seqCoreFails_wf {core lost} (h : MemWf s) : MemWf (seqCoreFails s core lost) :=
  ite_wf h (moveRuns_wf (foldl_wf (fun h1 => loseStatus_wf (endRun_wf h1)) (mk_wf (logNote_wf _ h))))

theorem execSeqCoreFailover_wf {core lost} (h : MemWf s) : NextWf (execSeqCoreFailover core lost s) :=
  ite_wf h (wakeAll_wf (seqCoreFails_wf h))

/-! Machine/Kv -/

set_option smartUnfolding true in
theorem kvRead_wf {r x va len n acc} (h : MemWf s) : (kvRead r x va len n acc s).wf := by
  induction n generalizing acc s with
  | zero => exact h
  | succ n ih =>
    rw [kvRead]
    refine ite_wf h ?_
    split
    next e => exact (of_eq e (runSeg_wf h) :)
    next e =>
      have h1 := of_eq e (runSeg_wf h)
      refine ite_wf (endRun_wf h1) ?_
      split
      next e => exact (of_eq e (runRes_wf h1 (entRead_wf h1)) :)
      next e => exact ih (of_eq e (runRes_wf h1 (entRead_wf h1)) :)

theorem kvSpan_wf {r x va len n done} (h : MemWf s) : BothWf (kvSpan r x va len n done s) := by
  induction n generalizing done s with
  | zero => exact ⟨trivial, h⟩
  | succ n ih =>
    rw [kvSpan]
    exact ite_wf ⟨trivial, h⟩ ((runSeg_wf h).elim (fun h1 => ite_wf ⟨endRun_wf h1, h1⟩ (ih h1)) (fun h1 => ⟨h1, h1⟩))

theorem kvSpans_wf {r x l} (h : MemWf s) : BothWf (kvSpans r x l s) := by
  induction l generalizing s with
  | nil => exact ⟨trivial, h⟩
  | cons e t ih =>
    rw [kvSpans]
    split
    next e => exact (of_eq e (kvSpan_wf h) :)
    next e => exact ih (of_eq e (kvSpan_wf h) :).2

theorem kvList_wf {r x va} (h : MemWf s) : KvList.wf (kvList s r x va) :=
  (kvRead_wf h).elim (fun h1 => ite_wf (endRun_wf h1) ((kvRead_wf h1).elim id id)) id

theorem kvFpa_wf {r x va} (h : MemWf s) : KvAt.wf (kvFpa s r x va) := (runSeg_wf h).elim id id

theorem kvOpenDescs_wf {r x l acc} (h : MemWf s) : (kvOpenDescs r x l acc s).wf := by
  induction l generalizing acc s with
  | nil => exact h
  | cons e t ih =>
    rw [kvOpenDescs]
    exact ite_wf (endRun_wf h) ((kvFpa_wf h).elim
      (fun h1 => (kvRead_wf h1).elim (fun h2 => ite_wf (endRun_wf h2) (ih h2)) (fun h2 => h2)) (fun h1 => h1))

theorem kvCloseDescs_wf {r x l acc} (h : MemWf s) : (kvCloseDescs r x l acc s).wf := by
  induction l generalizing acc s with
  | nil => exact h
  | cons e t ih =>
    rw [kvCloseDescs]
    exact ite_wf (endRun_wf h) ((kvFpa_wf h).elim (fun h1 => ite_wf (endRun_wf h1) (ih h1)) (fun h1 => h1))

theorem kvMeet_wf {r x ds} (h : MemWf s) : RunRead.wf (kvMeet r x ds s) :=
  foldl_wf (fun h1 => RunRead.wf.elim h1 (fun h2 => runRes_wf h2 (memRead_wf _ _ _ _ _ _ h2)) id) h

theorem kvWrite_wf {ctx fpa off l} (h : MemWf s) : MemWf (kvWrite s ctx fpa off l) := by
  unfold kvWrite
  split
  next e => exact (of_eq e (memWrite_wf _ _ _ _ _ _ h) :)
  next e => exact (of_eq e (memWrite_wf _ _ _ _ _ _ h) :)
  · exact h

theorem kvConflict_wf {r x w} (h : MemWf s) : MemWf (kvConflict s r x w) := putRun_wf (mk_wf h)

theorem kvOpenAll_wf {x epoch l} (h : MemWf s) : MemWf (kvOpenAll s x epoch l) := foldl_wf (fun h1 => kvWrite_wf (mk_wf h1)) h

set_option smartUnfolding true in
theorem execKvopen_wf {run} (h : MemWf s) : NextWf (execKvopen run s) := seqIssue_wf (fun h => by
  dsimp only
  split
  next e => exact (of_eq e (kvList_wf h) :)
  next e =>
    have h1 := of_eq e (kvList_wf h)
    split
    next e => exact (of_eq e (kvOpenDescs_wf h1) :)
    next e =>
      have h2 := of_eq e (kvOpenDescs_wf h1)
      refine ite_wf (endRun_wf h2) ?_
      split
      next e => exact (of_eq e (kvSpans_wf h2) :).1
      next e =>
        have h3 := (of_eq e (kvSpans_wf h2)).2
        exact ite_wf (kvConflict_wf h3) (ite_wf (putRun_wf (ite_wf h3 (mk_wf h3))) (putRun_wf (kvOpenAll_wf h3)))) h

theorem zeroPieces_wf {ctx va len n done acc} (h : MemWf s) : PairWf (zeroPieces ctx va len n done acc s) := by
  induction n generalizing done acc s with
  | zero => exact h
  | succ n ih =>
    rw [zeroPieces]
    refine ite_wf h ?_
    dsimp only
    split
    next e => exact ih (of_eq e (translate_wf h) :)
    next e => exact (of_eq e (translate_wf h) :)
    next e => exact (of_eq e (translate_wf h) :)
    next e => exact ih (of_eq e (translate_wf h) :)

theorem closeZeros_wf {r x l acc} (h : MemWf s) : PairWf (closeZeros r x l acc s) := by
  induction l generalizing acc s with
  | nil => exact h
  | cons e t ih =>
    rw [closeZeros]
    dsimp only
    split
    next e => exact ih (of_eq e (zeroPieces_wf h) :)
    next e => exact loseCause_wf (of_eq e (zeroPieces_wf h) :)
    next e => exact (of_eq e (zeroPieces_wf h) :)

theorem zeroAll_wf {l} (h : MemWf s) : MemWf (zeroAll s l) :=
  foldl_wf mem_wf (foldl_wf (fun h1 => bumpWrites_wf _ _ (zeroSpan_wf _ _ h1)) h)

theorem execKvZeroWrite_wf {chan} (h : MemWf s) : NextWf (execKvZeroWrite chan s) := ite_wf h (mem_wf h)

theorem kvCloseOne_wf {commit d k a} (h : MemWf s) : MemWf (kvCloseOne commit s d k a) := kvWrite_wf (mk_wf h)

set_option smartUnfolding true in
theorem kvClose_wf {commit r x w} (h : MemWf s) : MemWf (kvClose commit s r x w) := by
  unfold kvClose
  dsimp only
  split
  next e => exact (of_eq e (kvList_wf h) :)
  next e =>
    have h1 := of_eq e (kvList_wf h)
    split
    next e => exact (of_eq e (kvCloseDescs_wf h1) :)
    next e =>
      have h2 := of_eq e (kvCloseDescs_wf h1)
      split
      next e => exact (of_eq e (kvSpans_wf h2) :).1
      next e =>
        have h3 := (of_eq e (kvSpans_wf h2)).2
        refine ite_wf (kvConflict_wf h3) (ite_wf (endRun_wf h3) ?_)
        split
        next e => exact (of_eq e (closeZeros_wf h3) :)
        next e =>
          have h4 := of_eq e (closeZeros_wf h3)
          refine ite_wf (putRun_wf h4) ?_
          split
          next e => exact (of_eq e (kvMeet_wf h4) :)
          next e => exact putRun_wf (mk_wf (foldl_wf kvCloseOne_wf (zeroAll_wf (of_eq e (kvMeet_wf h4) :))))

theorem kvCloseStart_wf {commit r x w} (h : MemWf s) : MemWf (kvCloseStart commit r x w s) := ite_wf (kvClose_wf h) (putRun_wf h)

theorem execKvcommit_wf {run} (h : MemWf s) : NextWf (execKvcommit run s) := seqIssue_wf kvCloseStart_wf h

theorem execKvrollback_wf {run} (h : MemWf s) : NextWf (execKvrollback run s) := seqIssue_wf kvCloseStart_wf h

/-! Machine/MemCmds -/

theorem addUpset_wf {cw u} (h : MemWf s) : MemWf (addUpset s cw u) := by
  rw [MemWf, memory_wf_iff] at *
  exact ⟨h.1, tabSet_wf _ _ _ h.2.1, h.2.2⟩

theorem putReply_wf {st data} (h : MemWf s) : MemWf (putReply s st data) := mem_wf h

theorem memAnswer_wf {r f} (h : MemWf s) (hr : MemRes.wf r) (hf : ∀ {a s}, MemWf s → MemWf (f a s)) : MemWf (memAnswer s r f) :=
  by
  unfold memAnswer
  split
  · exact hf hr
  · exact putReply_wf hr
  · exact putReply_wf h

theorem reqDo_wf {r rd wr} (hrd : ∀ {s}, MemWf s → MemRes.wf (rd s)) (hwr : ∀ {s}, MemWf s → MemRes.wf (wr s)) (h : MemWf s) :
    MemWf (reqDo r rd wr s) :=
  by
  unfold reqDo
  split
  · exact memAnswer_wf h (hrd h) putReply_wf
  · exact memAnswer_wf h (hwr h) putReply_wf
  · exact ite_wf (memAnswer_wf h (hrd h) putReply_wf) (memAnswer_wf h (hwr h) putReply_wf)
  · exact memAnswer_wf h (hrd h) (fun h1 => memAnswer_wf h1 (hwr h1) putReply_wf)
  · exact memAnswer_wf h (hrd h) (fun h2 => memAnswer_wf h2 (hwr h2) putReply_wf)

theorem reqTested_wf {r} (h : MemWf s) : MemWf (reqTested r s) :=
  reqDo_wf (fun h1 => memRead_wf _ _ _ _ _ _ h1) (fun h2 => memWrite_wf _ _ _ _ _ _ h2) h

theorem hbmServe_wf {chan} (h : MemWf s) : MemWf (hbmServe s chan) := by
  unfold hbmServe
  dsimp only
  split
  · exact h
  · exact reqDo_wf (fun h1 => readServe_wf _ _ _ _ h1) (fun h2 => writeServe_wf _ _ _ _ h2) (setChan_wf _ _ h)

theorem hbmTick_wf (h : MemWf s) : MemWf (hbmTick s) := foldl_wf hbmServe_wf h

theorem execMemoryRequest_wf {r} (h : MemWf s) : NextWf (execMemoryRequest r s) := by
  unfold execMemoryRequest
  extract_lets +onlyGivenNames s
  have h1 : MemWf s := ite_wf (addUpset_wf h) h
  dsimp only
  refine ite_wf (reqTested_wf h1) ?_
  suffices h2 : MemWf _ from ite_wf (hbmServe_wf h2) h2
  exact setChan_wf _ _ h1

theorem execPatrolScrub_wf {chan u} (h : MemWf s) : NextWf (execPatrolScrub chan u s) := by
  unfold execPatrolScrub
  refine ite_wf h ?_
  extract_lets +onlyGivenNames c cw wrap s
  have h1 : MemWf s := setChan_wf _ _ h
  extract_lets +onlyGivenNames s
  have h2 : MemWf s := addUpset_wf h1
  exact ite_wf h2 (wakeAll_wf (meetWord_pairWf h2))

theorem startOwnSet_wf {q p} (h : MemWf s) : MemWf (startOwnSet q p s) :=
  ite_wf (answer_wf h) (ite_wf (answer_wf h) (ite_wf (answer_wf h) (ite_wf (answer_wf h) (ite_wf (begin_wf h)
            (answer_wf (foldl_wf poolTrim_wf (foldl_wf (fun h1 => setTag_wf _ _ h1) h)))))))

theorem execOwnSet_wf {p} (h : MemWf s) : NextWf (execOwnSet p s) := arrive_wf startOwnSet_wf wrongOnFabric_wf h

theorem execOwnSetReleaseDone_wf {id} (h : MemWf s) : NextWf (execOwnSetReleaseDone id s) := by
  unfold execOwnSetReleaseDone
  split
  · exact h
  · split
    · exact ite_wf h (wakeAll_wf (finishStatus_wf (mk_wf (foldl_wf (fun h1 => freeGran_wf _ h1) h))))
    · exact h

theorem mapImages_wf {slot l} (h : MemWf s) : MemWf (mapImages s slot l) := foldl_wf (fun h1 => option_wf h1 (setImage_wf h1)) h

theorem putTable_wf {ctx l} (h : MemWf s) : MemWf (putTable s ctx l) := syncTable_wf (mk_wf (unmapImages_wf (mapImages_wf h)))

theorem invalAnswer_wf {tags q p} (h : MemWf s) : MemWf (invalAnswer tags q p s) := ite_wf (answer_wf h) (begin_wf h)

theorem invalEnd_wf {id tags} (h : MemWf s) : MemWf (invalEnd id tags s) := ite_wf (finishStatus_wf h) (option_wf h (mk_wf h))

theorem invalSettle_wf (h : MemWf s) : MemWf (invalSettle s) :=
  foldl_wf (fun h1 => by
    split
    · exact ite_wf h1 (finishStatus_wf h1)
    · exact h1) h

theorem startRangeMap_wf {q p} (h : MemWf s) : MemWf (startRangeMap q p s) :=
  ite_wf (answer_wf h) (ite_wf (answer_wf h) (ite_wf (answer_wf h) (ite_wf (answer_wf h) (ite_wf (answer_wf h)
            (ite_wf (answer_wf h) (option_wf (option_wf (answer_wf h) (answerW4_wf (putTable_wf (mk_wf (setTag_wf _ _ h)))))
                (withTable_wf answer_wf (fun h1 => answerW4_wf (putTable_wf h1)) h)))))))

theorem execRangeMap_wf {p} (h : MemWf s) : NextWf (execRangeMap p s) := arrive_wf startRangeMap_wf wrongOnFabric_wf h

theorem startRangeUnmap_wf {q p} (h : MemWf s) : MemWf (startRangeUnmap q p s) :=
  ite_wf (answer_wf h) (ite_wf (answer_wf h) (withTable_wf answer_wf (fun h1 => invalAnswer_wf (invalCtx_wf (putTable_wf h1))) h))

theorem execRangeUnmap_wf {p} (h : MemWf s) : NextWf (execRangeUnmap p s) := arrive_wf startRangeUnmap_wf wrongOnFabric_wf h

theorem startUnmapIdle_wf {q p} (h : MemWf s) : MemWf (startUnmapIdle q p s) := ite_wf (answer_wf h) (begin_wf h)

theorem execUnmapWhenIdle_wf {p} (h : MemWf s) : NextWf (execUnmapWhenIdle p s) := arrive_wf startUnmapIdle_wf wrongOnFabric_wf h

theorem execUnmapWhenIdleEffect_wf {id} (h : MemWf s) : NextWf (execUnmapWhenIdleEffect id s) := by
  unfold execUnmapWhenIdleEffect
  split
  · exact h
  · split
    · exact ite_wf h (ite_wf (wakeAll_wf (finishStatus_wf h)) (wakeAll_wf (withTable_wf finishStatus_wf
              (fun h1 => invalEnd_wf (putTable_wf (invalCtx_wf h1))) h)))
    · exact h

theorem invalHere_wf {scope ctx slot start len} (h : MemWf s) : MemWf (invalHere s scope ctx slot start len) :=
  ite_wf (invalCtx_wf h) (ite_wf (invalCtxs_wf h) (invalFpa_wf h))

theorem startInval_wf {q p} (h : MemWf s) : MemWf (startInval q p s) :=
  ite_wf (answer_wf h) (ite_wf (answer_wf h) (option_wf (answer_wf h) (ite_wf (invalAnswer_wf (invalHere_wf h))
          (foldl_wf (fun h1 => ite_wf (sendForSlot_wf h1) (sendPlain_wf h1)) (begin_wf (invalHere_wf h))))))

theorem fabInval_wf {q p} (h : MemWf s) : MemWf (fabInval q p s) :=
  ite_wf (answer_wf h) (ite_wf (answer_wf h) (option_wf (answer_wf h) (invalAnswer_wf (invalHere_wf h))))

theorem execRangeInval_wf {p} (h : MemWf s) : NextWf (execRangeInval p s) := arrive_wf startInval_wf fabInval_wf h

theorem invalAck_wf {id mid} (h : MemWf s) : MemWf (invalAck s id mid) := by
  unfold invalAck
  split
  · exact h
  · split
    · exact invalSettle_wf (mk_wf h)
    · exact h

theorem execRangeInvalTimeout_wf {id} (h : MemWf s) : NextWf (execRangeInvalTimeout id s) := by
  unfold execRangeInvalTimeout
  split
  · exact h
  · split
    · exact ite_wf h (wakeAll_wf (finish_wf answerW4_wf h))
    · exact h

theorem execRangeWalk_wf {sheaf ctx va} (h : MemWf s) : NextWf (execRangeWalk sheaf ctx va s) := by
  unfold execRangeWalk
  refine ite_wf h ?_
  split
  next e => exact wakeAll_wf (loseCause_wf (of_eq e (translate_wf h) :))
  next e => exact wakeAll_wf (of_eq e (translate_wf h) :)

theorem startPrefetch_wf {q p} (h : MemWf s) : MemWf (startPrefetch q p s) :=
  ite_wf (answer_wf h) (option_wf (answerW4_wf h) (answerW4_wf (prefetchCount_wf h)))

theorem execPrefetch_wf {p} (h : MemWf s) : NextWf (execPrefetch p s) := arrive_wf startPrefetch_wf wrongOnFabric_wf h

theorem startAdvise_wf {q p} (h : MemWf s) : MemWf (startAdvise q p s) :=
  ite_wf (answer_wf h) (ite_wf (answer_wf h) (ite_wf (invalAnswer_wf (invalCtx_wf h)) (withTable_wf answer_wf
          (fun h1 => invalAnswer_wf (invalCtx_wf (putTable_wf h1))) h)))

theorem execAdvise_wf {p} (h : MemWf s) : NextWf (execAdvise p s) := arrive_wf startAdvise_wf wrongOnFabric_wf h

theorem retryXfer_wf {t off} (h : MemWf s) : MemWf (retryXfer s t off) := by
  unfold retryXfer
  extract_lets +onlyGivenNames ran s
  split
  · exact updXfer_wf h
  · extract_lets +onlyGivenNames s
    have h1 : MemWf s := ite_wf (mk_wf (updXfer_wf h)) (updXfer_wf h)
    split
    · split
      next e => exact sideStop_wf (of_eq e (sideOf_wf h1) :)
      next e => exact sideStop_wf (of_eq e (sideOf_wf h1) :)
      next e =>
        have h2 := of_eq e (sideOf_wf h1)
        split
        next e => exact sideStop_wf (of_eq e (sideOf_wf h2) :)
        next e => exact sideStop_wf (of_eq e (sideOf_wf h2) :)
        next e => exact engineTo_wf (of_eq e (sideOf_wf h2) :)
    · exact h1

theorem resolve_wf {fail r f} (h : MemWf s) : MemWf (resolve fail r s f) := by
  unfold resolve
  split
  · exact ite_wf (loseCause_wf h) (retryXfer_wf h)
  · split
    · exact h
    · refine ite_wf (bulkStop_wf h) ?_
      dsimp only
      split
      · exact mk_wf h
      · exact cmdGo_wf (mk_wf h)
  · exact option_wf h (ite_wf (endRun_wf h) (putRun_wf h))

theorem startResolve_wf {q p} (h : MemWf s) : MemWf (startResolve q p s) :=
  option_wf (sendReply_wf h) (ite_wf (sendReply_wf h) (fqDrain_wf (foldl_wf resolve_wf (fqDrain_wf (answer_wf (mk_wf (mk_wf h)))))))

theorem execFaultResolve_wf {p} (h : MemWf s) : NextWf (execFaultResolve p s) := arrive_wf startResolve_wf wrongOnFabric_wf h

theorem execFaultQueueStallTimeout_wf {f} (h : MemWf s) : NextWf (execFaultQueueStallTimeout f s) :=
  option_wf h (wakeAll_wf (loseCause_wf (by
    split
    · exact option_wf (mk_wf h) (bulkStop_wf (mk_wf h))
    · exact endRun_wf (mk_wf h)
    · exact (mk_wf h))))

theorem startEotha_wf {q p} (h : MemWf s) : MemWf (startEotha q p s) :=
  ite_wf (answer_wf h) (ite_wf (answer_wf h) (answer_wf (mk_wf h)))

theorem execEothaConfig_wf {p} (h : MemWf s) : NextWf (execEothaConfig p s) := arrive_wf startEotha_wf wrongOnFabric_wf h

/-! Machine/Fabric -/

theorem reroute_wf {f} (h : MemWf s) : MemWf (reroute s f) :=
  ite_wf (mk_wf h) (ite_wf (putOut_wf h) (option_wf (mk_wf h) (putOut_wf (mk_wf h))))

theorem cutTransit_wf {qs} (h : MemWf s) : MemWf (cutTransit s qs) := mk_wf h

theorem freeTransit_wf {l} (h : MemWf s) : MemWf (freeTransit s l) :=
  foldl_wf (fun h1 => by
    split
    · exact mk_wf h1
    · exact h1) h

theorem portsOff_wf {qs} (h : MemWf s) : MemWf (portsOff s qs) :=
  foldl_wf reroute_wf (freeTransit_wf (cutTransit_wf (foldl_wf (fun h1 => mk_wf (mk_wf h1)) (mk_wf h))))

theorem portDown_wf {q} (h : MemWf s) : MemWf (portDown s q) := ite_wf h (portsOff_wf (logNote_wf _ h))

theorem haldipDown_wf {p} (h : MemWf s) : MemWf (haldipDown s p) :=
  ite_wf h (unbindCheck_wf (drainAll_wf (logNote_wf _ (mk_wf (mk_wf (mk_wf (mk_wf h)))))))

theorem retrain_wf {q} (h : MemWf s) : MemWf (retrain s q) := mk_wf h

theorem haldipTrain_wf {port r} (h : MemWf s) : MemWf (haldipTrain port r s) :=
  ite_wf h (ite_wf (wakeAll_wf (haldipDown_wf (mk_wf h))) (ite_wf h (mk_wf h)))

theorem execPortTrain_wf {port r} (h : MemWf s) : NextWf (execPortTrain port r s) :=
  ite_wf (ite_wf (haldipTrain_wf h) h) (ite_wf h (ite_wf (ite_wf (portDown_wf h) (mk_wf h))
        (ite_wf (portDown_wf (mk_wf h)) (ite_wf (mk_wf h) (mk_wf h)))))

theorem execMiswiredRetrain_wf {port} (h : MemWf s) : NextWf (execMiswiredRetrain port s) := ite_wf h (mk_wf h)

theorem linkDown_wf {q} (h : MemWf s) : MemWf (linkDown s q) := ite_wf (portDown_wf h) (haldipDown_wf h)

theorem retireLane_wf {q lane rx} (h : MemWf s) : MemWf (retireLane s q lane rx) :=
  ite_wf h (ite_wf (mk_wf h) (ite_wf (linkDown_wf (mk_wf h)) (logNote_wf _ (mk_wf h))))

theorem execLaneRetire_wf {port lane receive} (h : MemWf s) : NextWf (execLaneRetire port lane receive s) :=
  ite_wf h (retireLane_wf h)

theorem execPortDown_wf {port} (h : MemWf s) : NextWf (execPortDown port s) :=
  ite_wf (ite_wf (wakeAll_wf (haldipDown_wf h)) h) (ite_wf h (wakeAll_wf (portDown_wf h)))

theorem execLinkReplayTimeout_wf {port} (h : MemWf s) : NextWf (execLinkReplayTimeout port s) := ite_wf h (retrain_wf h)

theorem sendMark_wf {t} (h : MemWf s) : MemWf (sendMark s t) := putOut_wf (mk_wf (takeTag_wf h))

theorem execPathReevaluate_wf {flow} (h : MemWf s) : NextWf (execPathReevaluate flow s) :=
  option_wf h (option_wf h (ite_wf h (option_wf h (ite_wf h (sendMark_wf h)))))

theorem markAcked_wf {src n} (h : MemWf s) : MemWf (markAcked s src n) :=
  option_wf h (option_wf (foldl_wf reroute_wf (mk_wf h)) (foldl_wf putOut_wf (mk_wf h)))

theorem respond_wf {f status data} (h : MemWf s) : MemWf (respond s f status data) := sendFor_wf h

theorem respondMem_wf {f r} (h : MemWf s) (hr : MemRes.wf r) : MemWf (respondMem s f r) := by
  unfold respondMem
  split
  · exact respond_wf hr
  · exact respond_wf hr
  · exact respond_wf h

theorem winServe_wf {f} (h : MemWf s) : MemWf (winServe s f) :=
  option_wf (respond_wf h) (ite_wf (ite_wf (respond_wf h) (respond_wf h)) (ite_wf (respond_wf (mk_wf h)) (respond_wf h)))

theorem winTake_wf {f} (h : MemWf s) : MemWf (winTake s f) :=
  option_wf h (option_wf (respond_wf h) (ite_wf (ite_wf (relayFab_wf h) (respond_wf h)) (ite_wf (mk_wf h) (winServe_wf h))))

theorem execRemoteAccessServe_wf {lcid ctx} (h : MemWf s) : NextWf (execRemoteAccessServe lcid ctx s) :=
  ite_wf h (option_wf (option_wf h (winServe_wf (mk_wf h))) (wakeAll_wf (endCheck_wf (serveRem_wf (mk_wf h)))))

theorem tenAnswer_wf {o t reg status data} (h : MemWf s) : MemWf (tenAnswer s o t reg status data) := by
  unfold tenAnswer
  split
  · exact h
  · extract_lets +onlyGivenNames bad
    have h1 : ∀ {cause}, MemWf (bad cause) := coreFault_wf h
    split
    · exact endCheck_wf (by
        split
        · exact ite_wf (logRead_wf (putReg_wf h)) (putReg_wf h)
        · exact h)
    · exact h1
    · exact h1
    · exact h1
    · exact h1

theorem xferAnswer_wf {o t off status data} (h : MemWf s) : MemWf (xferAnswer s o t off status data) := by
  unfold xferAnswer
  split
  · exact h
  · split
    · exact h
    · dsimp only
      split
      · suffices h1 : PairWf _ from ite_wf h1 (option_wf h1 (engineTo_wf h1))
        exact ite_wf (putElem_wf (logRead_wf h)) (elemDone_wf h)
      · exact stopXfer_wf h
      · exact loseCause_wf h

theorem fetchAnswer_wf {o t l status} (h : MemWf s) : MemWf (fetchAnswer s o t l status) :=
  ite_wf (icFill_wf h) (option_wf h (coreFault_wf h))

theorem probeAnswer_wf {o t off outside status} (h : MemWf s) : MemWf (probeAnswer s o t off outside status) := by
  unfold probeAnswer
  split
  · exact h
  · extract_lets +onlyGivenNames bad
    have h1 : ∀ {cause}, MemWf (bad cause) := coreFault_wf h
    split
    · exact ite_wf h1 (updXfer_wf h)
    · exact h1
    · exact h1
    · exact h1
    · exact h1

theorem giveAnswer_wf {o status data} (h : MemWf s) : MemWf (giveAnswer s o status data) := by
  unfold giveAnswer
  split
  · exact tenAnswer_wf h
  · exact tenAnswer_wf h
  · exact xferAnswer_wf h
  · exact probeAnswer_wf h
  · exact fetchAnswer_wf h
  · exact cmdGo_wf (ite_wf (bulkChecked_wf h) (bulkAnswer_wf h))
  · exact streamAnswer_wf h
  · exact runAnswer_wf h
  · exact runStAnswer_wf h
  · exact respond_wf h
  · exact h

theorem takeResponse_wf {f} (h : MemWf s) : MemWf (takeResponse s f) :=
  option_wf (option_wf h (addChaff_wf h)) (ite_wf (addChaff_wf (mk_wf h)) (wakeAll_wf (giveAnswer_wf (mk_wf h))))

theorem refusedSettle_wf (h : MemWf s) : MemWf (refusedSettle s) :=
  foldl_wf (fun h1 => option_wf h1 (wakeAll_wf (giveAnswer_wf (mk_wf h1)))) (mk_wf h)

theorem execRemoteResponseTimeout_wf {tag} (h : MemWf s) : NextWf (execRemoteResponseTimeout tag s) := by
  unfold execRemoteResponseTimeout
  split
  · exact h
  · split
    · exact h
    · exact h
    · exact h
    · exact h
    · exact wakeAll_wf (loseFor_wf (mk_wf h))

theorem eventAnswer_wf {o status v} (h : MemWf s) : MemWf (eventAnswer s o status v) := by
  unfold eventAnswer
  dsimp only
  split
  · split
    · exact h
    · refine ite_wf (coreFault_wf h) ?_
      split
      · exact wakeTen_wf h
      · exact h
  · split
    · exact runEvAnswer_wf h
    · exact runEvAnswer_wf h
    · exact runEvValue_wf h
    · exact memberAnswer_wf h
    · exact cmdGo_wf (bulkChecked_wf h)
    · exact streamAnswer_wf h
    · exact h

theorem commandAnswer_wf {id mid p} (h : MemWf s) : MemWf (commandAnswer s id mid p) := by
  unfold commandAnswer
  split
  · exact h
  · split
    · exact finishStatus_wf h
    · exact ite_wf h (finishStatus_wf h)
    · exact ite_wf (invalAck_wf h) h
    · exact h

theorem takeCompletion_wf {q p} (h : MemWf s) : MemWf (takeCompletion q p s) := by
  unfold takeCompletion
  split
  · exact ite_wf (mk_wf h) (ite_wf (commandAnswer_wf h) (ite_wf
          (option_wf (ite_wf (takeKexAnswer_wf h) h) (ite_wf (budgetAnswer_wf h) (handAnswer_wf h)))
          (option_wf h (ite_wf (addChaff_wf (mk_wf h)) (eventAnswer_wf (mk_wf h))))))
  · exact h

theorem execCompletion_wf {p} (h : MemWf s) : NextWf (execCompletion p s) :=
  arrive_wf wrongOnFabric_wf (fun h1 => wakeAll_wf (takeCompletion_wf h1)) h

theorem takeDispatch_wf {q p} (h : MemWf s) : MemWf (takeDispatch q p s) := by
  unfold takeDispatch
  split
  · exact option_wf h (ite_wf (addChaff_wf h) ((placeMember_wf h).elim (ite_wf (answer_wf h) (option_wf h (enqueue_wf h)))
          (fun h1 => ite_wf (answer_wf h1) h1)))
  · exact h

theorem fromLead_wf {f q p} (hf : ∀ {n q p s}, MemWf s → MemWf (f n q p s)) (h : MemWf s) : MemWf (fromLead f q p s) :=
  option_wf (answer_wf h) (ite_wf (hf h) (answer_wf h))

theorem takeRunTable_wf {q p} (h : MemWf s) : MemWf (takeRunTable q p s) := fromLead_wf (fun h1 => answer_wf (applyEpoch_wf h1)) h

theorem takeOwnRecord_wf {q p} (h : MemWf s) : MemWf (takeOwnRecord q p s) :=
  fromLead_wf (fun h1 => answer_wf (ite_wf h1 (setOwnRec_wf h1))) h

theorem takeRunDone_wf {q p} (h : MemWf s) : MemWf (takeRunDone q p s) := fromLead_wf (fun h1 => ite_wf (endForward_wf h1) h1) h

theorem takeLastRank_wf {q p} (h : MemWf s) : MemWf (takeLastRank q p s) := option_wf h (ite_wf h (mk_wf h))

theorem nextOf_wf {o} (h : MemWf s) (ho : NextWf o) : MemWf (nextOf s o) := by
  unfold nextOf
  split
  · exact ho
  · exact h

theorem takeColl_wf {slot f} (h : MemWf s) : MemWf (takeColl s slot f) :=
  ite_wf h (ite_wf (nextOf_wf h (execCollAnnounce_wf h)) (ite_wf (nextOf_wf h (execCollAbort_wf h))
        (ite_wf (takeGrant_wf h) (nextOf_wf h (execColl_wf h)))))

theorem takeBarrier_wf {f} (h : MemWf s) : MemWf (takeBarrier s f) := by
  unfold takeBarrier
  dsimp only
  split
  · exact ite_wf (barArrive_wf h) h
  · exact barCounted_wf h
  · exact barRelease_wf h

theorem takeFlush_wf {slot f} (h : MemWf s) : MemWf (takeFlush s slot f) :=
  option_wf h (option_wf (ite_wf (passFlush_wf h) (option_wf (reportFlush_wf h) (ite_wf (reportFlush_wf h) (mk_wf h))))
      (ite_wf (nextOf_wf (mk_wf h) (execFlush_wf (mk_wf h))) (mk_wf h)))

theorem nearServe_wf {f r} (h : MemWf s) : MemWf (nearServe s f r) := respond_wf (nearDo_wf h)

theorem deliverTo_wf {cmd f} (hcmd : ∀ {f p s}, MemWf s → MemWf (cmd f p s)) (h : MemWf s) : MemWf (deliverTo cmd f s) := by
  unfold deliverTo
  dsimp only
  refine ite_wf (respond_wf h) ?_
  split
  · exact option_wf h (hcmd h)
  · exact ite_wf (winTake_wf h) (ite_wf (respond_wf h) (respondMem_wf h (memRead_wf _ _ _ _ _ _ h)))
  · exact ite_wf (winTake_wf h) (ite_wf (respond_wf h) (respondMem_wf h (memWrite_wf _ _ _ _ _ _ h)))
  · exact option_wf (respond_wf h) (nearServe_wf h)
  · exact takeResponse_wf h
  · exact option_wf h (takeColl_wf h)
  · exact takeBarrier_wf h
  · exact sendFor_wf h
  · exact markAcked_wf h
  · exact option_wf h (takeFlush_wf h)
  · exact h

theorem authFail_wf {slot src} (h : MemWf s) : MemWf (authFail s slot src) := loseAll_wf (logNote_wf _ (mk_wf h))

theorem authNoSlot_wf {src} (h : MemWf s) : MemWf (authNoSlot s src) := logNote_wf _ (mk_wf h)

theorem openConf_wf {f} (h : MemWf s) : ExceptWf (openConf s f) :=
  ite_wf h (option_wf (ite_wf (authNoSlot_wf h) h) (option_wf (authFail_wf h) (ite_wf (authFail_wf h)
          (option_wf (authFail_wf h) (mk_wf h)))))

theorem accept_wf {dlv f} (hdlv : ∀ {f s}, MemWf s → MemWf (dlv f s)) (h : MemWf s) : MemWf (accept dlv f s) :=
  (openConf_wf h).elim id (fun h1 => (fabGate_wf h1).elim (hdlv h1) id)

set_option smartUnfolding true in
theorem rxDrain_wf {dlv : FabPkt → State → State} {k n} (hd : ∀ {f s}, MemWf s → MemWf (dlv f s)) (h : MemWf s) :
    MemWf (rxDrain dlv k n s) := by
  induction n generalizing s with
  | zero => exact h
  | succ n ih =>
    rw [rxDrain]
    dsimp only
    split
    · exact h
    · exact ih (accept_wf hd (mk_wf (mk_wf h)))

theorem receive_wf {dlv f} (hdlv : ∀ {f s}, MemWf s → MemWf (dlv f s)) (h : MemWf s) : MemWf (receive dlv f s) :=
  ite_wf (mk_wf h) (ite_wf (wakeAll_wf (rxDrain_wf hdlv (accept_wf hdlv (mk_wf h)))) (ite_wf (mk_wf h) (mk_wf h)))

theorem gapSkip_wf {dlv k} (hdlv : ∀ {f s}, MemWf s → MemWf (dlv f s)) (h : MemWf s) : MemWf (gapSkip dlv k s) := by
  unfold gapSkip
  dsimp only
  split
  · exact h
  · exact wakeAll_wf (rxDrain_wf hdlv (mk_wf (mk_wf h)))

theorem transit_wf {f} (h : MemWf s) : MemWf (transit s f) := ite_wf (putOut_wf h) (mk_wf h)

theorem fabArrive_wf {dlv f} (hdlv : ∀ {f s}, MemWf s → MemWf (dlv f s)) (h : MemWf s) : MemWf (fabArrive dlv f s) :=
  ite_wf (receive_wf hdlv h) (transit_wf h)

theorem frameControl_wf {q b} (h : MemWf s) : MemWf (frameControl s q b) := by
  unfold frameControl
  extract_lets +onlyGivenNames x ack kept credits w nak again same x s req s
  have h1 : MemWf s := ite_wf (retireLane_wf (mk_wf h)) (mk_wf h)
  exact ite_wf (retrain_wf h1) h1

theorem freeFlit_wf {q pool} (h : MemWf s) : MemWf (freeFlit s q pool) := mk_wf h

theorem passFlit_wf {q pool out flit} (h : MemWf s) : MemWf (passFlit s q pool out flit) :=
  ite_wf (mk_wf h) (ite_wf (mk_wf h) (freeFlit_wf h))

theorem firstFlit_wf {q pool flit} (h : MemWf s) : PairWf (firstFlit s q pool flit) :=
  ite_wf (freeFlit_wf h) (ite_wf (mk_wf h) (freeFlit_wf (mk_wf h)))

set_option smartUnfolding true in
theorem takeFlit_wf {dlv q tag flit} (hdlv : ∀ {a0 a1}, MemWf a1 → MemWf (dlv a0 a1)) (h : MemWf s) :
    MemWf (takeFlit dlv q tag flit s) :=
  by
  unfold takeFlit
  refine ite_wf h ?_
  extract_lets +onlyGivenNames pool r
  have h1 : PairWf r := by
    unfold r
    split
    · exact firstFlit_wf h
    · dsimp only
      split
      · exact freeFlit_wf h
      · exact passFlit_wf h
      · exact freeFlit_wf h
  refine ite_wf (mk_wf h1) ?_
  dsimp only
  split
  · exact fabArrive_wf hdlv (mk_wf h1)
  · exact mk_wf h1

theorem frameIn_wf {dlv q f} (hdlv : ∀ {f s}, MemWf s → MemWf (dlv f s)) (h : MemWf s) : MemWf (frameIn dlv q f s) :=
  ite_wf h (ite_wf (mk_wf h) (foldl_wf (fun h1 => takeFlit_wf hdlv h1) (frameControl_wf (mk_wf h))))

theorem execLinkKeyRotate_wf {slot peer keyix} (h : MemWf s) : NextWf (execLinkKeyRotate slot peer keyix s) :=
  option_wf h (ite_wf h (kexStart_wf h))

theorem execLinkKeyWaitTimeout_wf {slot peer} (h : MemWf s) : NextWf (execLinkKeyWaitTimeout slot peer s) :=
  ite_wf h (wakeAll_wf (loseAll_wf (mk_wf h)))

theorem rtCommit_wf {v} (h : MemWf s) : MemWf (rtCommit v s) := mk_wf h

theorem sendNop_wf {q} (h : MemWf s) : MemWf (sendNop s q) := ite_wf (mk_wf h) (putOut_wf (mk_wf h))

theorem execLivenessNop_wf (h : MemWf s) : NextWf (execLivenessNop s) := foldl_wf sendNop_wf h

/-! Machine/RegRead -/

theorem setShadow_wf {path b x} (h : MemWf s) : MemWf (setShadow s path b x) := mk_wf h

theorem regRead_wf {path r} (h : MemWf s) : PairWf (regRead s path r) :=
  ite_wf (setShadow_wf h) ((ite_wf (option_wf (setShadow_wf h) (mk_wf (setShadow_wf h))) (setShadow_wf h)))

theorem writeDump_wf {half cls sev} (h : MemWf s) : MemWf (writeDump s half cls sev) := mk_wf h

/-! Machine/UnitOps -/

set_option smartUnfolding true in
theorem scrubUnit_wf {u} (h : MemWf s) : MemWf (scrubUnit s u) := by
  unfold scrubUnit
  split
  · exact mk_wf (mk_wf h)
  · exact mk_wf (s := zeroSpan _ _ _) (zeroSpan_wf _ _ h)
  · exact zeroSpan_wf _ _ (foldl_wf (P := MemWf) (bumpWrites_wf _ _) h)
  · exact mk_wf h
  · exact mk_wf h
  · exact h

theorem flushHeldReplies_wf (h : MemWf s) : MemWf (flushHeldReplies s) := option_wf h (mk_wf (mk_wf h))

theorem unitPass_wf {u} (h : MemWf s) : MemWf (unitPass s u) :=
  ite_wf (flushHeldReplies_wf (drainAll_wf (mk_wf (unitReady_wf h)))) (ite_wf (mk_wf (unitReady_wf h)) (unitReady_wf h))

theorem unitFail_wf {u} (h : MemWf s) : MemWf (unitFail s u) := mk_wf (logNote_wf _ h)

theorem execHbmChannelFailure_wf {chan} (h : MemWf s) : NextWf (execHbmChannelFailure chan s) :=
  ite_wf h (option_wf (wakeAll_wf (chanFails_wf h)) (wakeAll_wf (chanFails_wf (migrEnd_wf h))))

/-! Machine/Recovery -/

theorem escStep_wf {u step} (h : MemWf s) : MemWf (escStep s u step) := mk_wf (logNote_wf _ h)

theorem loseTens_wf {l half} (h : MemWf s) : MemWf (loseTens s l half) := loseAll_wf h

theorem coreReset_wf {c unsavable} (h : MemWf s) : MemWf (coreReset s c unsavable) :=
  ite_wf (loseTens_wf (escStep_wf (logNote_wf _ h))) (ite_wf h (coreFails_wf (loseTens_wf (escStep_wf (logNote_wf _ h)))))

theorem sheafIsolate_wf {m unsavable} (h : MemWf s) : MemWf (sheafIsolate s m unsavable) :=
  ite_wf h (foldl_wf (fun h1 => coreFails_wf (mk_wf h1)) (loseTens_wf (mk_wf (escStep_wf h))))

theorem sheavesFail_wf (h : MemWf s) : MemWf (sheavesFail s) := foldl_wf sheafIsolate_wf (mk_wf h)

theorem sheafReset_wf {m} (h : MemWf s) : MemWf (sheafReset s m) :=
  mk_wf (mk_wf (dropLines_wf (loseAll_wf (loseTens_wf (escStep_wf h)))))

theorem haldipOff_wf {p} (h : MemWf s) : MemWf (haldipOff s p) := unbindCheck_wf (drainAll_wf (mk_wf (mk_wf (mk_wf h))))

theorem halfFence_wf {half cls sev} (h : MemWf s) : MemWf (halfFence s half cls sev) := by
  unfold halfFence
  refine ite_wf h ?_
  extract_lets +onlyGivenNames _ s s
  have h1 : MemWf s := escStep_wf (mk_wf h)
  extract_lets +onlyGivenNames _ s
  have h2 : MemWf s := loseAll_wf (mk_wf h1)
  exact foldl_wf mk_wf (haldipOff_wf (mk_wf (portsOff_wf (ite_wf h2 (writeDump_wf h2)))))

theorem afterReset_wf (h : MemWf s) : MemWf (afterReset s) := by
  rw [MemWf, memory_wf_iff] at *
  obtain ⟨_, _, ht, _⟩ := h
  have := filterMap_wfFrom (p := fun t => t.st = 3) tagRetired_ne_default ht
  exact ⟨rfl, rfl, this, rfl⟩

theorem moduleReset_wf {cls sev esc} (h : MemWf s) : MemWf (moduleReset s cls sev esc) := by
  unfold moduleReset
  extract_lets +onlyGivenNames _ _ _ s
  have h1 : MemWf s := ite_wf (mk_wf (escStep_wf h)) h
  extract_lets +onlyGivenNames s
  have h2 : MemWf s := ite_wf (writeDump_wf h1) (ite_wf (writeDump_wf h1) h1)
  extract_lets +onlyGivenNames s
  have h3 : MemWf s := afterReset_wf h2
  exact ite_wf (mk_wf (mk_wf h3)) (mk_wf h3)

theorem moduleStop_wf (h : MemWf s) : MemWf (moduleStop s) := mk_wf (haldipOff_wf (haldipOff_wf (portsOff_wf (escStep_wf h))))

theorem failover_wf {left} (h : MemWf s) : MemWf (failover s left) :=
  ite_wf (moduleReset_wf (logNote_wf _ h)) (mk_wf (mk_wf (mk_wf (logNote_wf _ h))))

theorem execMgmtFailover_wf (h : MemWf s) : NextWf (execMgmtFailover s) := ite_wf h (failover_wf h)

theorem execMgmtHeartbeat_wf (h : MemWf s) : NextWf (execMgmtHeartbeat s) := mk_wf h

theorem execUnitHang_wf {u unsavable} (h : MemWf s) : NextWf (execUnitHang u unsavable s) :=
  ite_wf h (wakeAll_wf (by
    split
    · exact coreReset_wf h
    · exact sheafIsolate_wf h
    · exact seqCoreFails_wf h
    · exact ite_wf (failover_wf h) h
    · exact halfFence_wf h
    · exact h))

theorem execEscalationStepTimeout_wf {u} (h : MemWf s) : NextWf (execEscalationStepTimeout u s) :=
  option_wf h (wakeAll_wf (by
    split
    · exact sheafIsolate_wf (mk_wf h)
    · exact halfFence_wf (mk_wf h)
    · exact halfFence_wf (mk_wf h)
    · exact escStep_wf (mk_wf h)
    · exact moduleReset_wf (mk_wf h)
    · exact ite_wf (moduleStop_wf (mk_wf h)) (mk_wf h)
    · exact (mk_wf h)))

theorem execSheafFault_wf {sheaf} (h : MemWf s) : NextWf (execSheafFault sheaf s) :=
  ite_wf h (wakeAll_wf (sheafIsolate_wf (logNote_wf _ h)))

theorem execSeamCrcFailure_wf (h : MemWf s) : NextWf (execSeamCrcFailure s) :=
  ite_wf h (wakeAll_wf (halfFence_wf (logNote_wf _ h)))

theorem execModuleReset_wf (h : MemWf s) : NextWf (execModuleReset s) := ite_wf h (moduleReset_wf h)

theorem takeOut_wf {u} (h : MemWf s) : MemWf (takeOut s u) :=
  mk_wf (mk_wf (by
    split
    · exact portsOff_wf h
    · exact haldipOff_wf h
    · exact moveRuns_wf h
    · exact h))

theorem svcGo_wf {v} (h : MemWf s) : MemWf (svcGo s v) :=
  ite_wf h (ite_wf (mk_wf h) (ite_wf (ite_wf (mk_wf (failover_wf h)) (mk_wf h)) (ite_wf (mk_wf h)
          (ite_wf (mk_wf h) (ite_wf (mk_wf (takeOut_wf h)) (ite_wf (mk_wf h) (mk_wf (mk_wf
                    (ite_wf (mk_wf (takeOut_wf h)) (takeOut_wf h))))))))))

theorem scrubbed_wf {u} (h : MemWf s) : MemWf (scrubbed s u) := ite_wf h (mk_wf (scrubUnit_wf h))

theorem bisted_wf {u pass} (h : MemWf s) : MemWf (bisted s u pass) :=
  ite_wf h (ite_wf (ite_wf (mk_wf (unitFail_wf h)) (ite_wf (mk_wf (mk_wf h)) (mk_wf (unitPass_wf h))))
      (ite_wf (unitPass_wf h) (unitFail_wf h)))

theorem execUnitFenceDone_wf {u} (h : MemWf s) : NextWf (execUnitFenceDone u s) := by
  unfold execUnitFenceDone
  refine ite_wf h ?_
  split
  · exact wakeAll_wf (sheafReset_wf h)
  · exact escStep_wf h
  · exact mk_wf (mk_wf h)
  · exact ite_wf h (mk_wf (mk_wf h))

theorem execUnitScrubDone_wf {u} (h : MemWf s) : NextWf (execUnitScrubDone u s) := ite_wf h (scrubbed_wf h)

theorem execUnitBistDone_wf {u pass} (h : MemWf s) : NextWf (execUnitBistDone u pass s) := ite_wf h (bisted_wf h)

/-! Machine/Power -/

theorem powerReply_wf {status q p} (h : MemWf s) : MemWf (powerReply status q p s) := by
  unfold powerReply
  dsimp only
  split
  · exact ite_wf (sendReply_wf h) (ite_wf (sendReply_wf h) (ite_wf h (mk_wf h)))
  · exact sendReply_wf h

theorem powerCheck_wf (h : MemWf s) : MemWf (powerCheck s) := foldl_wf (fun h1 => finish_wf powerReply_wf h1) h

theorem setPlls_wf {half v} (h : MemWf s) : MemWf (setPlls s half v) := ite_wf (mk_wf h) (mk_wf h)

theorem railsOff_wf {half} (h : MemWf s) : MemWf (railsOff s half) :=
  clearSsTags_wf _ _ (zeroSpan_wf _ _ (dropLines_wf (setPlls_wf (haldipOff_wf (portsOff_wf h)))))

theorem thawStart_wf {half} (h : MemWf s) : MemWf (thawStart s half) := ite_wf h (mk_wf h)

theorem frostEnter_wf {half} (h : MemWf s) : MemWf (frostEnter s half) := by
  unfold frostEnter
  suffices h1 : MemWf _ from ite_wf (mk_wf (mk_wf h1)) h1
  exact setHalfPwr_wf (railsOff_wf h)

theorem frostDrop_wf {l status} (h : MemWf s) : MemWf (frostDrop s l status) :=
  foldl_wf (fun h1 => finish_wf powerReply_wf h1) (mk_wf h)

theorem execFrostEntryWindowEnd_wf {half} (h : MemWf s) : NextWf (execFrostEntryWindowEnd half s) := by
  unfold execFrostEntryWindowEnd
  refine ite_wf h ?_
  refine ite_wf (frostDrop_wf h) ?_
  extract_lets +onlyGivenNames _ s s
  have h1 : MemWf s := powerCheck_wf (frostEnter_wf (mk_wf h))
  exact wakeAll_wf (ite_wf (thawStart_wf h1) h1)

theorem wakeEntries_wf {hs} (h : MemWf s) : MemWf (wakeEntries s hs) := by
  unfold wakeEntries
  dsimp only
  refine ite_wf h ?_
  suffices h1 : PairWf _ from ite_wf (mk_wf h1) (frostDrop_wf (foldl_wf setHalfPwr_wf h1))
  exact takeFree_wf h

theorem wakeHalves_wf {hs} (h : MemWf s) : MemWf (wakeHalves s hs) :=
  ite_wf h (foldl_wf (fun h1 => ite_wf (thawStart_wf h1) h1) (wakeEntries_wf (mk_wf h)))

theorem execWakeN_wf (h : MemWf s) : NextWf (execWakeN s) := wakeAll_wf (wakeHalves_wf (mk_wf h))

theorem execWakeNRelease_wf (h : MemWf s) : NextWf (execWakeNRelease s) := mk_wf h

theorem execSmbusWake_wf (h : MemWf s) : NextWf (execSmbusWake s) := mk_wf h

theorem execHaldipWakeBeacon_wf {port} (h : MemWf s) : NextWf (execHaldipWakeBeacon port s) :=
  ite_wf h (wakeAll_wf (wakeHalves_wf h))

theorem thawFail_wf {u} (h : MemWf s) : MemWf (thawFail s u) := unitFail_wf (ite_wf (coreFails_wf h) h)

theorem thawHalf_wf {half failed} (h : MemWf s) : MemWf (thawHalf s half failed) := by
  unfold thawHalf
  extract_lets +onlyGivenNames s
  have h1 : MemWf s := setPlls_wf (railsOff_wf h)
  extract_lets +onlyGivenNames us s
  have h2 : MemWf s := foldl_wf unitReady_wf h1
  extract_lets +onlyGivenNames s
  have h3 : MemWf s := foldl_wf thawFail_wf h2
  extract_lets +onlyGivenNames s
  have h4 : MemWf s := foldl_wf (fun h5 => ite_wf h5 (mk_wf h5)) h3
  exact setHalfPwr_wf (mk_wf (ite_wf (mk_wf h4) (mk_wf h4)))

theorem execThaw_wf {half failed} (h : MemWf s) : NextWf (execThaw half failed s) :=
  ite_wf h (wakeAll_wf (flushHeldReplies_wf (powerCheck_wf (ite_wf (thawHalf_wf h) (mk_wf (thawHalf_wf h))))))

theorem powerGo_wf {q p target hs} (h : MemWf s) : MemWf (powerGo q p target hs s) := by
  unfold powerGo
  extract_lets +onlyGivenNames id s s
  have h1 : MemWf s := ite_wf (begin_wf h) (wakeEntries_wf (begin_wf h))
  exact powerCheck_wf (ite_wf h1 (foldl_wf (fun h2 => ite_wf (ite_wf h2 (mk_wf h2)) (ite_wf (thawStart_wf h2) (setHalfPwr_wf h2)))
        h1))

theorem startPowerState_wf {q p} (h : MemWf s) : MemWf (startPowerState q p s) :=
  ite_wf (answer_wf h) (ite_wf (ite_wf (answer_wf h) (ite_wf (powerGo_wf h) (answer_wf h))) (ite_wf (answer_wf h) (powerGo_wf h)))

theorem execPowerState_wf {p} (h : MemWf s) : NextWf (execPowerState p s) := arrive_wf startPowerState_wf wrongOnFabric_wf h

theorem execLullAutoEntry_wf {half} (h : MemWf s) : NextWf (execLullAutoEntry half s) := ite_wf h (setHalfPwr_wf h)

theorem execLullExit_wf {half} (h : MemWf s) : NextWf (execLullExit half s) := ite_wf h (lullWake_wf h)

theorem vcoreMove_wf {kind} (h : MemWf s) : MemWf (vcoreMove s kind) := ite_wf h (foldl_wf (fun h1 => ite_wf h1 (mk_wf h1)) h)

theorem clockDown_wf (h : MemWf s) : MemWf (clockDown s) := ite_wf h (vcoreMove_wf (mk_wf h))

theorem clockUp_wf (h : MemWf s) : MemWf (clockUp s) := ite_wf h (vcoreMove_wf h)

theorem phaseShed_wf {half rail shed} (h : MemWf s) : MemWf (phaseShed s half rail shed) := ite_wf (logNote_wf _ h) h

theorem execAvsStatusPoll_wf {half rail st} (h : MemWf s) : NextWf (execAvsStatusPoll half rail st s) :=
  option_wf (phaseShed_wf h) (ite_wf (phaseShed_wf h) (ite_wf (mk_wf (mk_wf (phaseShed_wf h))) (mk_wf (phaseShed_wf h))))

theorem railLost_wf {half rail} (h : MemWf s) : MemWf (railLost s half rail) := by
  unfold railLost
  extract_lets +onlyGivenNames stop _ s s
  have h1 : MemWf s := logNote_wf _ (mk_wf h)
  exact ite_wf (moduleStop_wf h1) (ite_wf (halfFence_wf h1) (foldl_wf (fun h2 => finish_wf powerReply_wf h2) (mk_wf h1)))

theorem execAvsTimeout_wf {half rail} (h : MemWf s) : NextWf (execAvsTimeout half rail s) :=
  ite_wf h (option_wf (ite_wf h (mk_wf h)) (ite_wf (mk_wf h) (wakeAll_wf (railLost_wf h))))

theorem execDutyWindow_wf {est tcur} (h : MemWf s) : NextWf (execDutyWindow est tcur s) :=
  ite_wf h (ite_wf (clockDown_wf (mk_wf h)) (mk_wf h))

theorem execFreqLoopTick_wf (h : MemWf s) : NextWf (execFreqLoopTick s) :=
  ite_wf h (ite_wf (clockDown_wf (mk_wf h)) (ite_wf (clockDown_wf (mk_wf h)) (ite_wf (clockUp_wf (mk_wf h)) (mk_wf h))))

theorem execSquallDetect_wf {half} (h : MemWf s) : NextWf (execSquallDetect half s) := ite_wf h (mk_wf h)

theorem execSquallRelease_wf {half} (h : MemWf s) : NextWf (execSquallRelease half s) := mk_wf h

theorem execTelemetrySample_wf {est tel} (h : MemWf s) : NextWf (execTelemetrySample est tel s) :=
  ite_wf h (ite_wf (mk_wf (logNote_wf _ (mk_wf h))) (ite_wf (mk_wf (mk_wf h)) (mk_wf h)))

theorem startHintPhase_wf {q p} (h : MemWf s) : MemWf (startHintPhase q p s) := ite_wf (answer_wf h) (answer_wf (hintPost_wf h))

theorem execHintPhase_wf {p} (h : MemWf s) : NextWf (execHintPhase p s) := arrive_wf startHintPhase_wf wrongOnFabric_wf h

theorem execHintPhaseStart_wf (h : MemWf s) : NextWf (execHintPhaseStart s) := by
  unfold execHintPhaseStart
  split
  · exact h
  · suffices h1 : MemWf _ from ite_wf (mk_wf (mk_wf h1)) (mk_wf h1)
    exact mk_wf (mk_wf h)

theorem execHintPhaseEnd_wf (h : MemWf s) : NextWf (execHintPhaseEnd s) := mk_wf h

set_option smartUnfolding true in
theorem execShiftTick_wf {slot} (h : MemWf s) : NextWf (execShiftTick slot s) := by
  unfold execShiftTick
  extract_lets +onlyGivenNames _
  refine ite_wf h ?_
  extract_lets +onlyGivenNames ms l s range move
  clear_value move
  have h1 : MemWf s := mk_wf h
  split
  · exact foldl_wf (P := MemWf) tellBudget_wf h1
  · extract_lets +onlyGivenNames t
    have h2 : MemWf t := foldl_wf tellBudget_wf h1
    extract_lets _ u v
    have h3 : MemWf u := mk_wf h2
    clear_value u v
    refine ite_wf (P := NextWf) (tellBudget_wf h3) ?_
    split
    next e => exact donorDone_wf (setOffset_wf (of_eq e (takeBudget_wf h3) :))
    · exact mk_wf h3

theorem takePowerBudget_wf {q p} (h : MemWf s) : MemWf (takePowerBudget q p s) := by
  unfold takePowerBudget
  split
  · dsimp only
    split
    next e => exact sendReply_wf (of_eq e (ite_wf (takeBudget_wf h) trivial) :)
    · exact answer_wf h
  · exact answer_wf h

theorem execPowerBudget_wf {p} (h : MemWf s) : NextWf (execPowerBudget p s) := arrive_wf takePowerBudget_wf takePowerBudget_wf h

theorem execBudgetDonorTimeout_wf {slot} (h : MemWf s) : NextWf (execBudgetDonorTimeout slot s) := mk_wf h

theorem execShiftOffsetLapse_wf (h : MemWf s) : NextWf (execShiftOffsetLapse s) := mk_wf h

theorem readTemps_wf {temps} (h : MemWf s) : MemWf (readTemps s temps) := mk_wf (mk_wf h)

theorem execThermalTick_wf {temps} (h : MemWf s) : NextWf (execThermalTick temps s) :=
  ite_wf h (ite_wf (readTemps_wf h) (ite_wf (mk_wf (ite_wf (readTemps_wf h) (logNote_wf _ (readTemps_wf h))))
        (ite_wf (readTemps_wf h) (mk_wf (readTemps_wf h)))))

theorem coolStop_wf (h : MemWf s) : MemWf (coolStop s) :=
  ite_wf h (foldl_wf (fun h1 => finish_wf powerReply_wf h1) (mk_wf (logNote_wf _ (mk_wf (railsOff_wf
              (railsOff_wf (mk_wf (ite_wf h (foldl_wf (fun h2 => stopWork_wf (loseStatus_wf h2)) h)))))))))

theorem execCoolantStop_wf (h : MemWf s) : NextWf (execCoolantStop s) := ite_wf (mk_wf h) (wakeAll_wf (coolStop_wf (mk_wf h)))

theorem execThermalCrit_wf (h : MemWf s) : NextWf (execThermalCrit s) := ite_wf h (wakeAll_wf (coolStop_wf h))

theorem execCoolantFaultDeassert_wf (h : MemWf s) : NextWf (execCoolantFaultDeassert s) := ite_wf (mk_wf h) h

/-! Machine/Weighbridge -/

theorem execFeedFrameSend_wf {f} (h : MemWf s) : NextWf (execFeedFrameSend f s) := option_wf h (ite_wf h (mk_wf h))

theorem execFeedFrameReceive_wf {bytes} (h : MemWf s) : NextWf (execFeedFrameReceive bytes s) :=
  ite_wf h (ite_wf (mk_wf h) (mk_wf h))

theorem execPairWb_wf {bytes} (h : MemWf s) : NextWf (execPairWb bytes s) :=
  ite_wf h (ite_wf (mk_wf h) (ite_wf h (ite_wf (mk_wf h) (mk_wf h))))

theorem pairSend_wf (h : MemWf s) : MemWf (pairSend s) := mk_wf (takeNum_wf h)

theorem execWbSecondClose_wf {m} (h : MemWf s) : NextWf (execWbSecondClose m s) := ite_wf h (mk_wf h)

theorem execWbBlockClose_wf (h : MemWf s) : NextWf (execWbBlockClose s) := ite_wf h (mk_wf h)

theorem execWbInputLoss_wf {m} (h : MemWf s) : NextWf (execWbInputLoss m s) := ite_wf h (mk_wf h)

theorem execWbPowerReturn_wf (h : MemWf s) : NextWf (execWbPowerReturn s) := ite_wf h (mk_wf h)

theorem wbReply_wf {l} (h : MemWf s) : MemWf (wbReply s l) := ite_wf (mk_wf h) h

theorem execWbInfo_wf (h : MemWf s) : NextWf (execWbInfo s) := wbReply_wf h

theorem execWbKeys_wf {chunk} (h : MemWf s) : NextWf (execWbKeys chunk s) := wbReply_wf h

theorem execReadBlock_wf {blockNo chunk} (h : MemWf s) : NextWf (execReadBlock blockNo chunk s) := wbReply_wf h

theorem execReadAudit_wf {entry chunk} (h : MemWf s) : NextWf (execReadAudit entry chunk s) := wbReply_wf h

theorem execFwLoad_wf {off data} (h : MemWf s) : NextWf (execFwLoad off data s) :=
  ite_wf h (ite_wf (wbReply_wf h) (wbReply_wf (mk_wf h)))

theorem execFwCommit_wf (h : MemWf s) : NextWf (execFwCommit s) :=
  ite_wf h (ite_wf (wbReply_wf h) (ite_wf (wbReply_wf h) (ite_wf (wbReply_wf h) (wbReply_wf (mk_wf h)))))

theorem execAuthority_wf {bytes} (h : MemWf s) : NextWf (execAuthority bytes s) :=
  ite_wf h (ite_wf (wbReply_wf h) (ite_wf (wbReply_wf (mk_wf h)) (ite_wf (wbReply_wf (mk_wf h))
          (ite_wf (wbReply_wf (mk_wf h)) (ite_wf (wbReply_wf (mk_wf (mk_wf h))) (ite_wf (wbReply_wf (mk_wf (mk_wf h)))
                (wbReply_wf (mk_wf h))))))))

theorem execSealBreach_wf (h : MemWf s) : NextWf (execSealBreach s) := ite_wf h (mk_wf h)

theorem execMirrorFrame_wf (h : MemWf s) : NextWf (execMirrorFrame s) :=
  ite_wf h (ite_wf (mk_wf h) (ite_wf (mk_wf (mk_wf h)) (pairSend_wf (mk_wf h))))

theorem execMirrorLost_wf (h : MemWf s) : NextWf (execMirrorLost s) := ite_wf h (logNote_wf _ (mk_wf h))

/-! Machine/Boot -/

theorem powerLoss_wf (_ : MemWf s) : MemWf (powerLoss s) := rfl

theorem execPowerOff_wf (h : MemWf s) : NextWf (execPowerOff s) := powerLoss_wf h

theorem fillGens_wf (h : MemWf s) : MemWf (fillGens s) := mk_wf h

theorem bootSec_wf {c up} (h : MemWf s) : MemWf (bootSec s c up) := mk_wf h

set_option smartUnfolding true in
theorem bootUnits_wf {c} (h : MemWf s) : MemWf (bootUnits s c) := by
  refine foldl_wf (P := MemWf) unitFail_wf ?_
  exact ite_wf (foldl_wf unitReady_wf (foldl_wf unitReady_wf (mk_wf (takeFree_wf (takeFree_wf h)))))
    (mk_wf (mk_wf (takeFree_wf (takeFree_wf h))))

theorem bootPorts_wf {c} (h : MemWf s) : MemWf (bootPorts s c) := mk_wf (mk_wf h)

theorem bootOn_wf {c x} (h : MemWf s) : MemWf (bootOn s c x) := by
  unfold bootOn
  extract_lets +onlyGivenNames _ s s
  have h1 : MemWf s := bootUnits_wf (mk_wf h)
  exact mk_wf (bootPorts_wf (ite_wf (newAttKey_wf h1) h1))

theorem bootRead_wf {c} (h : MemWf s) : MemWf (bootRead s c) := option_wf (mk_wf h) (bootOn_wf h)

theorem execBoot_wf {c} (h : MemWf s) : NextWf (execBoot c s) := by
  unfold execBoot
  refine ite_wf h ?_
  extract_lets +onlyGivenNames up s
  have h1 : MemWf s := ite_wf (fillGens_wf (powerLoss_wf h)) h
  extract_lets +onlyGivenNames _ s s
  have h2 : MemWf s := bootSec_wf (mk_wf h1)
  exact ite_wf (mk_wf h2) (bootRead_wf h2)

theorem execFlashRequest_wf {reading} (h : MemWf s) : NextWf (execFlashRequest reading s) := mk_wf h

theorem execFlashRelease_wf (h : MemWf s) : NextWf (execFlashRelease s) := option_wf (mk_wf h) (bootRead_wf (mk_wf (mk_wf h)))

/-! Machine/CoreWord -/

theorem scalarRuns_wf : ∀ e ∈ scalarRuns, MeaningWf e.2 := by
  simp only [scalarRuns, List.forall_mem_cons]
  exact
    ⟨execAdd_wf, execSub_wf, execAndX_wf, execOrX_wf, execXorX_wf, execShl_wf, execShr_wf, execSra_wf, execMul_wf, execMulhu_wf,
     execMulhs_wf, execDivu_wf, execDivs_wf, execRemu_wf, execRems_wf, execSlt_wf, execSltu_wf, execSeqEq_wf, execMins_wf,
     execMaxs_wf, execMinu_wf, execMaxu_wf, execSel_wf, execMovi_wf, execSethi_wf, execLd_wf, execSt_wf,
     fun _ h => absurd h List.not_mem_nil⟩

theorem vectorRuns_wf : ∀ e ∈ vectorRuns, MeaningWf e.2 := by
  simp only [vectorRuns, List.forall_mem_cons]
  exact
    ⟨execVadd_wf, execVsub_wf, execVmul_wf, execVfma_wf, execVdiv_wf, execVmin_wf, execVmax_wf, execVand_wf, execVor_wf,
     execVxor_wf, execVshl_wf, execVshr_wf, execVsra_wf, execVsgn_wf, execVfunc_wf, execVcmp_wf, execVcvt_wf, execVred_wf,
     execVbcast_wf, execVext_wf, execVins_wf, execVperm_wf, execViota_wf, execVld_wf, execVst_wf, execVldc_wf, execVstc_wf,
     execPlog_wf, fun _ h => absurd h List.not_mem_nil⟩

theorem matrixRuns_wf : ∀ e ∈ matrixRuns, MeaningWf e.2 := by
  simp only [matrixRuns, List.forall_mem_cons]
  exact
    ⟨execTmma_wf, execAclr_wf, execAdrain_wf, execAld_wf, fun _ h => absurd h List.not_mem_nil⟩

theorem dataRuns_wf : ∀ e ∈ dataRuns, MeaningWf e.2 := by
  simp only [dataRuns, List.forall_mem_cons]
  exact
    ⟨execXfer_wf, execXwait_wf, execXprog_wf, execRst_wf, execRld_wf, execAtom_wf, execRed_wf, execVredw_wf, execErec_wf,
     execEwait_wf, execBar_wf, execFence_wf, execBr_wf, execJal_wf, execJalr_wf, execEndK_wf, execSpr_wf, execFlagclr_wf,
     execTrap_wf, fun _ h => absurd h List.not_mem_nil⟩

theorem coreRuns_wf : ∀ e ∈ coreRuns, MeaningWf e.2 := by
  simp only [coreRuns, List.forall_mem_append]
  exact ⟨⟨⟨scalarRuns_wf, vectorRuns_wf⟩, matrixRuns_wf⟩, dataRuns_wf⟩

theorem execCoreNop_wf {t w} (h : MemWf s) : NextWf (execCoreNop t w s) := by
  unfold execCoreNop
  split
  next e => exact coreRuns_wf _ (List.mem_of_find?_eq_some e) h
  · exact issueTen_wf h

/-! Machine/Registers -/

theorem setStreamSel_wf {f} (h : MemWf s) : MemWf (setStreamSel s f) := mk_wf h

theorem setStreamOff_wf {f} (h : MemWf s) : MemWf (setStreamOff s f) := ite_wf (setStreamSel_wf h) h

theorem writeDev_wf {o v} (h : MemWf s) : MemWf (writeDev s o v) := by
  unfold writeDev
  extract_lets +onlyGivenNames d n dev
  have h1 : ∀ {d}, MemWf (dev d) := mk_wf h
  exact ite_wf h1 (ite_wf h1 (ite_wf (ite_wf h1 h) (ite_wf h1 (ite_wf h1 (ite_wf h1 (ite_wf (rtCommit_wf h)
                (ite_wf h1 (ite_wf h1 (ite_wf (setStreamOff_wf h) (ite_wf (setStreamOff_wf h)
                        (ite_wf (setStreamOff_wf h) (ite_wf (setStreamSel_wf h) (ite_wf (setStreamSel_wf h)
                              (ite_wf (setStreamSel_wf h) (ite_wf (colsCtrl_wf h) (ite_wf (setStreamSel_wf h) h))))))))))))))))

theorem writePwr_wf {b o v} (h : MemWf s) : MemWf (writePwr s b o v) := by
  unfold writePwr
  extract_lets +onlyGivenNames p n pwr
  have h1 : ∀ {p}, MemWf (pwr p) := mk_wf h
  exact ite_wf (ite_wf h1 (ite_wf h1 h)) (ite_wf h1 (ite_wf h1 (ite_wf h1 (ite_wf h1 (ite_wf h1 h)))))

theorem writeScale_wf {v} (h : MemWf s) : MemWf (writeScale s v) := ite_wf h (mk_wf (mk_wf h))

theorem writeSvc_wf {v} (h : MemWf s) : MemWf (writeSvc s v) := ite_wf h (ite_wf (svcGo_wf (mk_wf h)) (mk_wf h))

theorem writeRes_wf {o v} (h : MemWf s) : MemWf (writeRes s o v) := by
  unfold writeRes
  extract_lets +onlyGivenNames r n res
  have h1 : ∀ {r}, MemWf (res r) := mk_wf h
  exact ite_wf (writeScale_wf h) (ite_wf h1 (ite_wf h1 (ite_wf (drainAll_wf h1) (ite_wf (ite_wf (peerFailWrite_wf h1) h1)
            (ite_wf (writeSvc_wf h) (ite_wf (ite_wf (writeDump_wf h1) h1) (ite_wf h1 (ite_wf h1 h))))))))

theorem writeCrc_wf {o v} (h : MemWf s) : MemWf (writeCrc s o v) := ite_wf (mk_wf h) (ite_wf (mk_wf h) (ite_wf (mk_wf h) h))

theorem writePortCfg_wf {q v} (h : MemWf s) : MemWf (writePortCfg s q v) := mk_wf (ite_wf (portDown_wf h) h)

theorem writeBlock_wf {b o v} (h : MemWf s) : MemWf (writeBlock s b o v) :=
  ite_wf (ite_wf (mk_wf h) (ite_wf (mk_wf h) h)) (ite_wf (ite_wf (mk_wf h) h) (ite_wf (ite_wf (mk_wf h) h)
        (ite_wf (ite_wf (fqDrain_wf (mk_wf h)) h) (ite_wf (ite_wf (mem_wf h) h) (ite_wf
              (ite_wf (writePortCfg_wf h) (ite_wf (mk_wf h) (ite_wf (mk_wf h) h))) (ite_wf (ite_wf (mk_wf h) h)
                (ite_wf (ite_wf (mk_wf h) h) (ite_wf (ite_wf (mk_wf h) h) (ite_wf (ite_wf (mk_wf h) (ite_wf (mk_wf h) h)) h)))))))))

theorem regApply_wf {r v} (h : MemWf s) : MemWf (regApply s r v) :=
  ite_wf (writeDev_wf h) (ite_wf (writePwr_wf h) (ite_wf (writeRes_wf h) (ite_wf (writeCrc_wf h) (writeBlock_wf h))))

theorem startGrace_wf {before r} (h : MemWf s) : MemWf (startGrace before r s) := ite_wf h (mk_wf h)

theorem driftLog_wf {addr reason path v} (h : MemWf s) : MemWf (driftLog s addr reason path v) := logNote_wf _ h

theorem violate_wf {path addr v} (h : MemWf s) : MemWf (violate s path addr v) := driftLog_wf (mk_wf h)

theorem writeRsv_wf {path addr r v} (h : MemWf s) : MemWf (writeRsv s path addr r v) :=
  ite_wf h (ite_wf (mk_wf h) (driftLog_wf (mk_wf h)))

theorem perform_wf {path addr r v} (h : MemWf s) : MemWf (perform s path addr r v) := startGrace_wf (regApply_wf (writeRsv_wf h))

theorem writeAlias_wf {path addr r v} (h : MemWf s) : PairWf (writeAlias s path addr r v) :=
  ite_wf (violate_wf h) (ite_wf h (startGrace_wf (regApply_wf h)))

theorem writeUnlock_wf {path addr v} (h : MemWf s) : PairWf (writeUnlock s path addr v) := ite_wf (mk_wf h) (violate_wf (mk_wf h))

theorem writeDirect_wf {path addr r v pair last} (h : MemWf s) : PairWf (writeDirect s path addr r v pair last) :=
  ite_wf (ite_wf (ite_wf (perform_wf h) (ite_wf (violate_wf h) (mk_wf h))) (ite_wf (perform_wf h) (violate_wf h)))
    (ite_wf (mk_wf (perform_wf h)) (perform_wf h))

theorem writeOwn_wf {path addr r v pair last near} (h : MemWf s) : PairWf (writeOwn s path addr r v pair last near) :=
  ite_wf (writeUnlock_wf h) (mk_wf (ite_wf (writeAlias_wf h) (ite_wf (ite_wf h (violate_wf h)) (writeDirect_wf h))))

theorem settle_wf {path r v} (h : MemWf s) : Settled.wf (settle s path r v) := by
  unfold settle
  dsimp only
  split
  · exact option_wf (mk_wf h) (ite_wf (perform_wf (mk_wf h)) (violate_wf (mk_wf h)))
  · split
    · exact option_wf (mk_wf h) (ite_wf (mk_wf (mk_wf h)) (mk_wf h))
    · exact h

theorem regWrite_wf {path addr v} (h : MemWf s) : MemWf (regWrite s path addr v) :=
  option_wf h (ite_wf h ((settle_wf h).elim id writeOwn_wf))

theorem pathWrite_wf {path addr v} (h : MemWf s) : MemWf (pathWrite s path addr v) := ite_wf (wakeAll_wf (regWrite_wf h)) h

theorem pathRead_wf {path addr} (h : MemWf s) : PairWf (pathRead s path addr) := ite_wf h (option_wf h (ite_wf (regRead_wf h) h))

theorem readExtent_wf {n path addr} (h : MemWf s) : PairWf (readExtent n path addr s) := by
  induction n generalizing addr s with
  | zero => exact h
  | succ n ih =>
    rw [readExtent]
    exact option_wf h (ih (regRead_wf h))

set_option smartUnfolding true in
theorem startRegRead_wf {q p} (h : MemWf s) : MemWf (startRegRead q p s) := by
  unfold startRegRead
  refine ite_wf (answer_wf h) ?_
  split
  · exact answer_wf h
  · exact sendReply_wf (readExtent_wf h)

theorem writeWords_wf {l path i addr} (h : MemWf s) : PairWf (writeWords l path i addr s) := by
  induction l generalizing i addr s with
  | nil => exact h
  | cons v t ih =>
    rw [writeWords]
    exact option_wf h ((settle_wf h).elim ih (fun h1 => ite_wf h1 ((writeOwn_wf h1).bool id ih)))

set_option smartUnfolding true in
theorem writePairs_wf {l path i addr} (h : MemWf s) : PairWf (writePairs l path i addr s) := by
  induction l generalizing i addr s with
  | nil => exact h
  | cons e t ih =>
    rw [writePairs]
    split
    · exact h
    · extract_lets u
      have h1 : MemWf u := by
        unfold u
        split
        next e => exact (of_eq e (settle_wf h) :)
        next e => exact (of_eq e (settle_wf h) :)
      refine ite_wf (violate_wf h1) ?_
      split
      next e => exact (of_eq e (writeOwn_wf h1) :)
      next e => exact ih (of_eq e (writeOwn_wf h1) :)

set_option smartUnfolding true in
theorem startRegWrite_wf {q p} (h : MemWf s) : MemWf (startRegWrite q p s) := by
  unfold startRegWrite
  refine ite_wf (answer_wf h) ?_
  split
  · exact answer_wf h
  · extract_lets r
    have h1 : PairWf r := ite_wf (writePairs_wf h) (writeWords_wf h)
    exact answerAt_wf h1

theorem execRegRead_wf {p} (h : MemWf s) : NextWf (execRegRead p s) := arrive_wf startRegRead_wf wrongOnFabric_wf h

theorem execRegWrite_wf {p} (h : MemWf s) : NextWf (execRegWrite p s) := arrive_wf startRegWrite_wf wrongOnFabric_wf h

theorem sideWake_wf (h : MemWf s) : MemWf (sideWake s) := ite_wf h (mk_wf h)

theorem execSmbBlockRead_wf (h : MemWf s) : NextWf (execSmbBlockRead s) := ite_wf (sideWake_wf h) (list_wf (mk_wf h) (mk_wf h))

theorem execSmbReadByte_wf (h : MemWf s) : NextWf (execSmbReadByte s) := ite_wf (sideWake_wf h) (mk_wf h)

theorem execSmbBusTimeout_wf (h : MemWf s) : NextWf (execSmbBusTimeout s) := mk_wf h

theorem execRegisterWrite_wf {path addr v} (h : MemWf s) : NextWf (execRegisterWrite path addr v s) := pathWrite_wf h

theorem execAliasWrite_wf {path addr v} (h : MemWf s) : NextWf (execAliasWrite path addr v s) :=
  option_wf h (ite_wf h (pathWrite_wf h))

theorem execLoLatchRead_wf {path addr} (h : MemWf s) : NextWf (execLoLatchRead path addr s) := pathRead_wf h

theorem execLckUnlock_wf {path v} (h : MemWf s) : NextWf (execLckUnlock path v s) := pathWrite_wf h

theorem execLockExpiry_wf {path} (h : MemWf s) : NextWf (execLockExpiry path s) := mk_wf h

theorem execCplWrite_wf {path addr v} (h : MemWf s) : NextWf (execCplWrite path addr v s) :=
  option_wf h (ite_wf (pathWrite_wf h) h)

theorem execPendingLapse_wf {path} (h : MemWf s) : NextWf (execPendingLapse path s) := by
  unfold execPendingLapse
  dsimp only
  split
  · exact violate_wf (mk_wf h)
  · exact mk_wf h

theorem crcEnd_wf {c} (h : MemWf s) : MemWf (crcEnd c s) :=
  ite_wf (mk_wf (mk_wf (mk_wf h))) (ite_wf (mk_wf (mk_wf h)) (ite_wf (mk_wf h) (driftLog_wf (mk_wf (mk_wf h)))))

theorem execCrcPass_wf (h : MemWf s) : NextWf (execCrcPass s) := ite_wf h (crcEnd_wf h)

theorem execGraceExpiry_wf (h : MemWf s) : NextWf (execGraceExpiry s) := mk_wf h

theorem execCrcCommit_wf {path v cpl} (h : MemWf s) : NextWf (execCrcCommit path v cpl s) := pathWrite_wf (pathWrite_wf h)

theorem execScaleClassWrite_wf {path v cpl} (h : MemWf s) : NextWf (execScaleClassWrite path v cpl s) :=
  pathWrite_wf (pathWrite_wf h)

theorem execPeerFailDeclare_wf {path v} (h : MemWf s) : NextWf (execPeerFailDeclare path v s) := pathWrite_wf h

theorem execColsEnable_wf {path v} (h : MemWf s) : NextWf (execColsEnable path v s) := pathWrite_wf h

theorem execColsDisable_wf {path v} (h : MemWf s) : NextWf (execColsDisable path v s) := pathWrite_wf h

theorem execRtEntryCommit_wf {path v} (h : MemWf s) : NextWf (execRtEntryCommit path v s) := pathWrite_wf h

theorem svcRun_wf {v pass} (h : MemWf s) : MemWf (svcRun s v pass) := ite_wf (wakeAll_wf (bisted_wf (scrubbed_wf h))) h

theorem execSvcOut_wf {path v} (h : MemWf s) : NextWf (execSvcOut path v s) := pathWrite_wf h

theorem execSvcTest_wf {path v pass} (h : MemWf s) : NextWf (execSvcTest path v pass s) := svcRun_wf (pathWrite_wf h)

theorem execSvcIn_wf {path v pass} (h : MemWf s) : NextWf (execSvcIn path v pass s) := svcRun_wf (pathWrite_wf h)

theorem execGleanDump_wf {path v} (h : MemWf s) : NextWf (execGleanDump path v s) := pathWrite_wf h

theorem execLogRecordRead_wf {path} (h : MemWf s) : NextWf (execLogRecordRead path s) := pathRead_wf h

/-! Machine/Security -/

theorem startKeyUpdate_wf {q p} (h : MemWf s) : MemWf (startKeyUpdate q p s) := by
  unfold startKeyUpdate
  dsimp only
  split
  · exact answer_wf h
  · suffices h1 : MemWf _ from ite_wf (moduleReset_wf h1) h1
    exact answer_wf (mk_wf h)

theorem execClaimOwner_wf {p} (h : MemWf s) : NextWf (execClaimOwner p s) := arrive_wf startKeyUpdate_wf wrongOnFabric_wf h

theorem execTransferOwner_wf {p} (h : MemWf s) : NextWf (execTransferOwner p s) := arrive_wf startKeyUpdate_wf wrongOnFabric_wf h

theorem execEnterDebug_wf {p} (h : MemWf s) : NextWf (execEnterDebug p s) := arrive_wf startKeyUpdate_wf wrongOnFabric_wf h

theorem execLeaveDebug_wf {p} (h : MemWf s) : NextWf (execLeaveDebug p s) := arrive_wf startKeyUpdate_wf wrongOnFabric_wf h

theorem execEnterRma_wf {p} (h : MemWf s) : NextWf (execEnterRma p s) := arrive_wf startKeyUpdate_wf wrongOnFabric_wf h

theorem execRmaReturn_wf {p} (h : MemWf s) : NextWf (execRmaReturn p s) := arrive_wf startKeyUpdate_wf wrongOnFabric_wf h

theorem execRetire_wf {p} (h : MemWf s) : NextWf (execRetire p s) := arrive_wf startKeyUpdate_wf wrongOnFabric_wf h

theorem execFwFloor_wf {p} (h : MemWf s) : NextWf (execFwFloor p s) := arrive_wf startKeyUpdate_wf wrongOnFabric_wf h

theorem execInstallCert_wf {p} (h : MemWf s) : NextWf (execInstallCert p s) := arrive_wf startKeyUpdate_wf wrongOnFabric_wf h

theorem quote_wf {q p kind slot} (h : MemWf s) : MemWf (quote q p kind slot s) :=
  (attSign_wf (ite_wf (newAttKey_wf h) h)).option answer_wf sendReply_wf

theorem startAttest_wf {q p} (h : MemWf s) : MemWf (startAttest q p s) := by
  unfold startAttest
  dsimp only
  refine ite_wf (answer_wf h) ?_
  refine ite_wf (answer_wf h) ?_
  split
  · exact sendReply_wf h
  · exact quote_wf h
  · exact option_wf (answer_wf h) (quote_wf h)

theorem execAttestChain_wf {p} (h : MemWf s) : NextWf (execAttestChain p s) := arrive_wf startAttest_wf wrongOnFabric_wf h

theorem execQuoteModule_wf {p} (h : MemWf s) : NextWf (execQuoteModule p s) := arrive_wf startAttest_wf wrongOnFabric_wf h

theorem execQuoteSlot_wf {p} (h : MemWf s) : NextWf (execQuoteSlot p s) := arrive_wf startAttest_wf wrongOnFabric_wf h

/-! Machine/Frontend -/

theorem startOp_wf {q p} (h : MemWf s) : MemWf (startOp q p s) := by
  unfold startOp
  split
  · exact startQpConfig_wf h
  · exact startQpQuery_wf h
  · exact startQpResume_wf h
  · exact startWrite_wf h
  · exact startRead_wf h
  · exact startCopy_wf h
  · exact startRecord_wf h
  · exact startWait_wf h
  · exact startEventAlloc_wf h
  · exact startEventFree_wf h
  · exact startEventQuery_wf h
  · exact startLaunch_wf h
  · exact startPatch_wf h
  · exact startProgLoad_wf h
  · exact startRetire_wf h
  · exact startRegRead_wf h
  · exact startRegWrite_wf h
  · exact startCreate_wf h
  · exact startBind_wf h
  · exact startRebind_wf h
  · exact startPartDestroy_wf h
  · exact startCtxCreate_wf h
  · exact startCtxDestroy_wf h
  · exact startQpBind_wf h
  · exact startQpUnbind_wf h
  · exact startPartQuery_wf h
  · exact startLoad_wf h
  · exact startSeal_wf h
  · exact startPin_wf h
  · exact startEvict_wf h
  · exact startRangeMap_wf h
  · exact startRangeUnmap_wf h
  · exact startInval_wf h
  · exact startPrefetch_wf h
  · exact startAdvise_wf h
  · exact startUnmapIdle_wf h
  · exact startOwnSet_wf h
  · exact startResolve_wf h
  · exact startEotha_wf h
  · exact startHintPhase_wf h
  · exact startPowerState_wf h
  · exact startKeyUpdate_wf h
  · exact startAttest_wf h
  · exact startNop_wf h

theorem fabOp_wf {q p} (h : MemWf s) : MemWf (fabOp q p s) := by
  unfold fabOp
  split
  · exact startNop_wf h
  · exact startRemoteWait_wf h
  · exact startSignal_wf h
  · exact handStart_wf forLead_wf h
  · exact handStart_wf takeOffer_wf h
  · exact handStart_wf takeAccept_wf h
  · exact handStart_wf takeEnd_wf h
  · exact handStart_wf takeEnd_wf h
  · exact handStart_wf forLead_wf h
  · exact fabInval_wf h
  · exact takePowerBudget_wf h
  · exact startKex_wf h
  · exact takeCompletion_wf h
  · exact startNotice_wf h
  · exact takeDispatch_wf h
  · exact mk_wf h
  · exact takeRunTable_wf h
  · exact takeOwnRecord_wf h
  · exact takeLastRank_wf h
  · exact takeRunDone_wf h
  · exact startEventRead_wf h
  · exact startExtent_wf h
  · exact wrongOnFabric_wf h

theorem startOther_wf {q p} (h : MemWf s) : MemWf (startOther q p s) := ite_wf (startOp_wf h) (startNop_wf h)

theorem execNop_wf {p} (h : MemWf s) : NextWf (execNop p s) := arrive_wf startOther_wf startNop_wf h

theorem devConsume_wf {n size} (h : MemWf s) : MemWf (devConsume s n size) := record_wf (mk_wf h)

theorem execDeviceSqFetch_wf {qpn} (h : MemWf s) : NextWf (execDeviceSqFetch qpn s) := by
  unfold execDeviceSqFetch
  dsimp only
  refine ite_wf h ?_
  split
  next e =>
    have h1 := of_eq e (devPacket_wf (lullWake_wf h))
    exact option_wf (ite_wf (startItem_wf startOp_wf (popQp_wf (mk_wf h1))) (mk_wf h1)) (wakeAll_wf (answer_wf (devConsume_wf h1)))
  next e => exact wakeAll_wf (answer_wf (mk_wf (of_eq e (devPacket_wf (lullWake_wf h)) :)))
  next e => exact (of_eq e (devPacket_wf (lullWake_wf h)) :)

theorem grantVisit_wf {q} (h : MemWf s) : MemWf (grantVisit s q) := by
  unfold grantVisit
  split
  · exact mk_wf h
  · exact h

theorem visit_wf {n l rr} (h : MemWf s) : OptTripleWf (visit n l rr s) := by
  induction n generalizing rr s with
  | zero => trivial
  | succ n ih =>
    rw [visit]
    exact option_wf trivial (ite_wf (grantVisit_wf h) (ih (grantVisit_wf h)))

theorem nextItem_wf {l rr} (h : MemWf s) : OptTripleWf (nextItem l rr s) := option_wf (visit_wf h) h

theorem clearDeficits_wf {half} (h : MemWf s) : MemWf (clearDeficits s half) :=
  foldl_wf (fun h1 => by
    split
    · exact ite_wf (mk_wf h1) h1
    · exact h1) h

theorem chooseItem_wf {half} (h : MemWf s) : OptTripleWf (chooseItem s half) := by
  unfold chooseItem
  dsimp only
  split
  next e => exact ite_wf (of_eq e (nextItem_wf h) :) (nextItem_wf h)
  · exact nextItem_wf h

theorem payItem_wf {half q i} (h : MemWf s) : MemWf (payItem half q i s) :=
  chargeItem_wf (mk_wf (by
    split
    · exact mk_wf h
    · exact h))

theorem runItem_wf {q i} (h : MemWf s) : MemWf (runItem q i s) :=
  option_wf (option_wf h (startWith_wf startOp_wf (by
    split
    · exact popQp_wf h
    · exact popMgmt_wf h
    · exact h))) (wakeAll_wf (bulkRun_wf h))

theorem frontNext_wf {half} (h : MemWf s) : OptTripleWf (frontNext s half) := ite_wf trivial (chooseItem_wf (clearDeficits_wf h))

theorem frontStart_wf {half q i} (h : MemWf s) : MemWf (frontStart half q i s) := clearDeficits_wf (runItem_wf (payItem_wf h))

theorem execFrontEndStartItem_wf {half} (h : MemWf s) : NextWf (execFrontEndStartItem half s) := by
  unfold execFrontEndStartItem
  split
  · exact sideGoesOn_wf startOp_wf h
  next e => exact frontStart_wf (of_eq e (frontNext_wf h) :)

theorem execReadReply_wf {id} (h : MemWf s) : NextWf (execReadReply id s) := by
  unfold execReadReply
  split
  · exact h
  · split
    next e => exact ite_wf (frontStart_wf (of_eq e (frontNext_wf h) :)) h
    · exact h

theorem idle_wf (h : MemWf s) : MemWf (idle s) :=
  frameTick_wf (sideGoesOn_wf startOp_wf (refusedSettle_wf (collsCut_wf (sheavesFail_wf (invalSettle_wf (hbmTick_wf (mk_wf h)))))))

theorem deliver_wf {f} (h : MemWf s) : MemWf (deliver f s) := wakeAll_wf (deliverTo_wf (fun h1 => ite_wf (fabOp_wf h1) h1) h)

theorem fabIn_wf {kind f} (h : MemWf s) : MemWf (fabIn kind f s) := ite_wf (fabArrive_wf deliver_wf h) h

theorem haldipFlit_wf {q tag flit} (h : MemWf s) : MemWf (haldipFlit q tag flit s) :=
  ite_wf h (ite_wf (mk_wf (freeFlit_wf h)) (arrive_wf startOp_wf wrongOnFabric_wf (mk_wf (freeFlit_wf h))))

theorem haldipFrame_wf {q f} (h : MemWf s) : MemWf (haldipFrame q f s) :=
  ite_wf h (ite_wf (mk_wf h) (foldl_wf haldipFlit_wf (frameControl_wf (mk_wf h))))

theorem execFrameReceive_wf {port f} (h : MemWf s) : NextWf (execFrameReceive port f s) :=
  ite_wf h (ite_wf (frameIn_wf deliver_wf h) (ite_wf (haldipFrame_wf h) h))

theorem execFabricCommand_wf {f} (h : MemWf s) : NextWf (execFabricCommand f s) := fabIn_wf h

theorem execFabricRead_wf {f} (h : MemWf s) : NextWf (execFabricRead f s) := fabIn_wf h

theorem execFabricWrite_wf {f} (h : MemWf s) : NextWf (execFabricWrite f s) := fabIn_wf h

theorem execFabricNear_wf {f} (h : MemWf s) : NextWf (execFabricNear f s) := fabIn_wf h

theorem execFabricResponse_wf {f} (h : MemWf s) : NextWf (execFabricResponse f s) := fabIn_wf h

theorem execMarkF_wf {f} (h : MemWf s) : NextWf (execMarkF f s) := fabIn_wf h

theorem execMarkAck_wf {f} (h : MemWf s) : NextWf (execMarkAck f s) := fabIn_wf h

theorem execFlowGapTimeout_wf {flow} (h : MemWf s) : NextWf (execFlowGapTimeout flow s) := gapSkip_wf deliver_wf h

/-! Machine/Scan -/

theorem takePins_wf {die code} (h : MemWf s) : MemWf (takePins s die code) :=
  ite_wf h (ite_wf (foldl_wf (fun h1 => ite_wf h1 (mk_wf h1)) (mk_wf h)) (mk_wf (mk_wf h)))

theorem leavePins_wf {die code} (h : MemWf s) : MemWf (leavePins s die code) := mk_wf h

theorem execExtest_wf {die} (h : MemWf s) : NextWf (execExtest die s) := takePins_wf h

theorem execClamp_wf {die} (h : MemWf s) : NextWf (execClamp die s) := mk_wf (takePins_wf h)

theorem execHighz_wf {die} (h : MemWf s) : NextWf (execHighz die s) := mk_wf (takePins_wf h)

theorem execExtestPulse_wf {die} (h : MemWf s) : NextWf (execExtestPulse die s) := takePins_wf h

theorem execExtestTrain_wf {die} (h : MemWf s) : NextWf (execExtestTrain die s) := takePins_wf h

theorem execIdcode_wf {die} (h : MemWf s) : NextWf (execIdcode die s) := ite_wf h (mk_wf (leavePins_wf h))

theorem execSamplePreload_wf {die sampled shifted} (h : MemWf s) : NextWf (execSamplePreload die sampled shifted s) :=
  ite_wf h (mk_wf (mk_wf h))

theorem execBypass_wf {die} (h : MemWf s) : NextWf (execBypass die s) := ite_wf h (mk_wf (leavePins_wf h))

theorem debugOnly_wf {code f} (h : MemWf s) (hf : ∀ {s}, MemWf s → MemWf (f s)) : MemWf (debugOnly s code f) :=
  ite_wf h (ite_wf (hf (leavePins_wf h)) (mk_wf (leavePins_wf h)))

theorem tapReg_wf {addr v cpl} (h : MemWf s) : MemWf (tapReg addr v cpl s) :=
  ite_wf (mk_wf h) (option_wf (mk_wf h) (ite_wf (mk_wf h) (ite_wf (mk_wf (regRead_wf h)) (mk_wf (writePairs_wf h)))))

theorem execRegaccess_wf {addr v cpl} (h : MemWf s) : NextWf (execRegaccess addr v cpl s) := wakeAll_wf (debugOnly_wf h tapReg_wf)

theorem tapGives_wf {v a} (h : MemWf s) (ha : MemRes.wf a) : MemWf (tapGives v s a) := by
  unfold tapGives
  split
  · exact mk_wf ha
  · exact mk_wf (takeFree_wf ha)
  · exact mk_wf (takeFree_wf h)

theorem tapMem_wf {addr v flag} (h : MemWf s) : MemWf (tapMem addr v flag s) := by
  unfold tapMem
  dsimp only
  refine ite_wf (mk_wf h) ?_
  refine ite_wf (mk_wf h) ?_
  refine ite_wf (mk_wf h) ?_
  refine ite_wf ?_ ?_
  · refine ite_wf ?_ (tapGives_wf h (memRead_wf _ _ _ _ _ _ h))
    split
    · exact mk_wf h
    · exact mk_wf (takeFree_wf h)
  · refine ite_wf ?_ (mk_wf h)
    refine ite_wf ?_ (tapGives_wf h (memWrite_wf _ _ _ _ _ _ h))
    split
    · exact mk_wf (mk_wf h)
    · exact mk_wf h

theorem execMemaccess_wf {addr v cpl} (h : MemWf s) : NextWf (execMemaccess addr v cpl s) := debugOnly_wf h tapMem_wf

theorem execHalt_wf {core stop} (h : MemWf s) : NextWf (execHalt core stop s) := debugOnly_wf h (fun h1 => ite_wf h1 (mk_wf h1))

theorem execWbExtest_wf (h : MemWf s) : NextWf (execWbExtest s) := ite_wf h (mk_wf h)

theorem execWbIdcode_wf (h : MemWf s) : NextWf (execWbIdcode s) := ite_wf h (mk_wf (mk_wf h))

theorem execWbSamplePreload_wf {sampled shifted} (h : MemWf s) : NextWf (execWbSamplePreload sampled shifted s) :=
  ite_wf h (mk_wf (mk_wf h))

theorem execWbBypass_wf (h : MemWf s) : NextWf (execWbBypass s) := ite_wf h (mk_wf (mk_wf h))

/-! Machine/Dispatch -/

theorem exec_wf {i} (h : MemWf s) : NextWf (exec i s) := by
  unfold exec
  split
  · exact execNop_wf h
  · exact execQpConfig_wf h
  · exact execQpQuery_wf h
  · exact execQpResume_wf h
  · exact execDeviceSqFetch_wf h
  · exact execFrontEndStartItem_wf h
  · exact execWriteData_wf h
  · exact execReadData_wf h
  · exact execReadReply_wf h
  · exact execCopy_wf h
  · exact execEventRecord_wf h
  · exact execEventWait_wf h
  · exact execEventWaitTimeout_wf h
  · exact execWaitRegisterRetry_wf h
  · exact execEventSignalRemote_wf h
  · exact execRemoteWait_wf h
  · exact execEventAlloc_wf h
  · exact execEventFree_wf h
  · exact execEventQuery_wf h
  · exact execDeadlockScan_wf h
  · exact execRegRead_wf h
  · exact execRegWrite_wf h
  · exact execCompletion_wf h
  · exact execErrorReport_wf h
  · exact execHaldipReplyAck_wf h
  · exact execSmbBlockRead_wf h
  · exact execSmbReadByte_wf h
  · exact execSmbBusTimeout_wf h
  · exact execPartCreate_wf h
  · exact execPartBind_wf h
  · exact execGrowCores_wf h
  · exact execShrinkCores_wf h
  · exact execGrowChannels_wf h
  · exact execShrinkChannels_wf h
  · exact execPortShare_wf h
  · exact execPortShareApply_wf h
  · exact execMoveLc_wf h
  · exact execMoveDrainReturn_wf h
  · exact execChannelMigrate_wf h
  · exact execMigrateCopyDone_wf h
  · exact execMigrateDrainDone_wf h
  · exact execReset_wf h
  · exact execSetLead_wf h
  · exact execPartDestroy_wf h
  · exact execPartQuery_wf h
  · exact execCtxCreate_wf h
  · exact execCtxDestroy_wf h
  · exact execQpBind_wf h
  · exact execQpUnbind_wf h
  · exact execMoveBegin_wf h
  · exact execMoveOffer_wf h
  · exact execMoveAccept_wf h
  · exact execMoveCommit_wf h
  · exact execMoveAbort_wf h
  · exact execOwnerQuery_wf h
  · exact execHandoffRetry_wf h
  · exact execEpochOpenTimeout_wf h
  · exact execHandoffLeadTimeout_wf h
  · exact execRunTableUpdate_wf h
  · exact execFlush_wf h
  · exact execGranaryLoad_wf h
  · exact execGranarySeal_wf h
  · exact execGranaryPin_wf h
  · exact execGranaryEvict_wf h
  · exact execGranaryPeerPullEnd_wf h
  · exact execGranaryPeerTimeout_wf h
  · exact execUnitFenceDone_wf h
  · exact execUnitScrubDone_wf h
  · exact execUnitBistDone_wf h
  · exact execCoreNop_wf h
  · exact execAdd_wf h
  · exact execSub_wf h
  · exact execAndX_wf h
  · exact execOrX_wf h
  · exact execXorX_wf h
  · exact execShl_wf h
  · exact execShr_wf h
  · exact execSra_wf h
  · exact execMul_wf h
  · exact execMulhu_wf h
  · exact execMulhs_wf h
  · exact execDivu_wf h
  · exact execDivs_wf h
  · exact execRemu_wf h
  · exact execRems_wf h
  · exact execSlt_wf h
  · exact execSltu_wf h
  · exact execSeqEq_wf h
  · exact execMins_wf h
  · exact execMaxs_wf h
  · exact execMinu_wf h
  · exact execMaxu_wf h
  · exact execSel_wf h
  · exact execMovi_wf h
  · exact execSethi_wf h
  · exact execLd_wf h
  · exact execSt_wf h
  · exact execBr_wf h
  · exact execJal_wf h
  · exact execJalr_wf h
  · exact execEndK_wf h
  · exact execSpr_wf h
  · exact execFlagclr_wf h
  · exact execTrap_wf h
  · exact execVadd_wf h
  · exact execVsub_wf h
  · exact execVmul_wf h
  · exact execVfma_wf h
  · exact execVdiv_wf h
  · exact execVmin_wf h
  · exact execVmax_wf h
  · exact execVand_wf h
  · exact execVor_wf h
  · exact execVxor_wf h
  · exact execVshl_wf h
  · exact execVshr_wf h
  · exact execVsra_wf h
  · exact execVsgn_wf h
  · exact execVfunc_wf h
  · exact execVcmp_wf h
  · exact execVcvt_wf h
  · exact execVred_wf h
  · exact execVbcast_wf h
  · exact execVext_wf h
  · exact execVins_wf h
  · exact execVperm_wf h
  · exact execViota_wf h
  · exact execVld_wf h
  · exact execVst_wf h
  · exact execVldc_wf h
  · exact execVstc_wf h
  · exact execPlog_wf h
  · exact execTmma_wf h
  · exact execAclr_wf h
  · exact execAdrain_wf h
  · exact execAld_wf h
  · exact execXfer_wf h
  · exact execTransferFault_wf h
  · exact execFaultQueueStallTimeout_wf h
  · exact execTransferDone_wf h
  · exact execXwait_wf h
  · exact execXprog_wf h
  · exact execRst_wf h
  · exact execRld_wf h
  · exact execRemoteAccessServe_wf h
  · exact execAtom_wf h
  · exact execRed_wf h
  · exact execVredw_wf h
  · exact execErec_wf h
  · exact execEwait_wf h
  · exact execBar_wf h
  · exact execBarrierArrive_wf h
  · exact execBarrierRelease_wf h
  · exact execFence_wf h
  · exact execDispatchEntryStart_wf h
  · exact execTenancyExhausted_wf h
  · exact execSliceExpiry_wf h
  · exact execClass7Preempt_wf h
  · exact execBlockedEvict_wf h
  · exact execTenancySaveDone_wf h
  · exact execTenancyRestoreDone_wf h
  · exact execConfCoreScrub_wf h
  · exact execCoreFaultDetected_wf h
  · exact execProgLoad_wf h
  · exact execPatchSeq_wf h
  · exact execProgRetire_wf h
  · exact execLaunchSeq_wf h
  · exact execRunTimeout_wf h
  · exact execSeqNop_wf h
  · exact execSeqMovi_wf h
  · exact execMovhi_wf h
  · exact execAlu_wf h
  · exact execSeqLd_wf h
  · exact execSeqSt_wf h
  · exact execEvread_wf h
  · exact execSeqBr_wf h
  · exact execBev_wf h
  · exact execBmw_wf h
  · exact execLoopS_wf h
  · exact execJmp_wf h
  · exact execBovf_wf h
  · exact execOvfclr_wf h
  · exact execWaitEv_wf h
  · exact execWaitTimeoutExpiry_wf h
  · exact execRecEv_wf h
  · exact execJoinG_wf h
  · exact execDispatch_wf h
  · exact execDispatchQueueRoom_wf h
  · exact execKernelEndNotify_wf h
  · exact execSeqCopy_wf h
  · exact execHint_wf h
  · exact execKvopen_wf h
  · exact execKvcommit_wf h
  · exact execKvrollback_wf h
  · exact execKvZeroWrite_wf h
  · exact execEmit_wf h
  · exact execSeqEnd_wf h
  · exact execRunAhead_wf h
  · exact execSeqCoreFailover_wf h
  · exact execMemoryRequest_wf h
  · exact execNearMemoryOp_wf h
  · exact execPatrolScrub_wf h
  · exact execRangeMap_wf h
  · exact execRangeUnmap_wf h
  · exact execUnmapWhenIdle_wf h
  · exact execUnmapWhenIdleEffect_wf h
  · exact execRangeInval_wf h
  · exact execRangeInvalTimeout_wf h
  · exact execRangeWalk_wf h
  · exact execPrefetch_wf h
  · exact execAdvise_wf h
  · exact execOwnSet_wf h
  · exact execFaultResolve_wf h
  · exact execEothaConfig_wf h
  · exact execFrameReceive_wf h
  · exact execLinkReplayTimeout_wf h
  · exact execPortTrain_wf h
  · exact execMiswiredRetrain_wf h
  · exact execLaneRetire_wf h
  · exact execPortDown_wf h
  · exact execFabricCommand_wf h
  · exact execFabricRead_wf h
  · exact execFabricWrite_wf h
  · exact execFabricNear_wf h
  · exact execFabricResponse_wf h
  · exact execMarkF_wf h
  · exact execMarkAck_wf h
  · exact execFlowGapTimeout_wf h
  · exact execPathReevaluate_wf h
  · exact execRemoteResponseTimeout_wf h
  · exact execLivenessNop_wf h
  · exact execPeerSilent_wf h
  · exact execPeerFailDeclare_wf h
  · exact execColsEnable_wf h
  · exact execColsDisable_wf h
  · exact execCollDescriptorStart_wf h
  · exact execCollAnnounce_wf h
  · exact execColl_wf h
  · exact execCollComplete_wf h
  · exact execCollAbort_wf h
  · exact execCollTimeout_wf h
  · exact execLinkKeyRotate_wf h
  · exact execLinkKeyWaitTimeout_wf h
  · exact execRtEntryCommit_wf h
  · exact execPowerState_wf h
  · exact execFrostEntryWindowEnd_wf h
  · exact execLullAutoEntry_wf h
  · exact execLullExit_wf h
  · exact execWakeN_wf h
  · exact execSmbusWake_wf h
  · exact execHaldipWakeBeacon_wf h
  · exact execThaw_wf h
  · exact execAvsStatusPoll_wf h
  · exact execAvsTimeout_wf h
  · exact execDutyWindow_wf h
  · exact execFreqLoopTick_wf h
  · exact execSquallDetect_wf h
  · exact execSquallRelease_wf h
  · exact execTelemetrySample_wf h
  · exact execHintPhase_wf h
  · exact execHintPhaseStart_wf h
  · exact execHintPhaseEnd_wf h
  · exact execShiftTick_wf h
  · exact execPowerBudget_wf h
  · exact execBudgetDonorTimeout_wf h
  · exact execShiftOffsetLapse_wf h
  · exact execThermalTick_wf h
  · exact execThermalCrit_wf h
  · exact execCoolantStop_wf h
  · exact execContextTeardown_wf h
  · exact execTeardownDrainDone_wf h
  · exact execTeardownZeroDone_wf h
  · exact execPeerNoticeRetry_wf h
  · exact execMgmtHeartbeat_wf h
  · exact execMgmtFailover_wf h
  · exact execWinnowVerdict_wf h
  · exact execWinnowThirdVerdict_wf h
  · exact execUnitHang_wf h
  · exact execEscalationStepTimeout_wf h
  · exact execModuleReset_wf h
  · exact execSvcOut_wf h
  · exact execSvcTest_wf h
  · exact execSvcIn_wf h
  · exact execGleanDump_wf h
  · exact execLogRecordRead_wf h
  · exact execScaleClassWrite_wf h
  · exact execClaimOwner_wf h
  · exact execTransferOwner_wf h
  · exact execEnterDebug_wf h
  · exact execLeaveDebug_wf h
  · exact execEnterRma_wf h
  · exact execRmaReturn_wf h
  · exact execRetire_wf h
  · exact execFwFloor_wf h
  · exact execInstallCert_wf h
  · exact execAttestChain_wf h
  · exact execQuoteModule_wf h
  · exact execQuoteSlot_wf h
  · exact execLinkKexChain_wf h
  · exact execLinkKexInit_wf h
  · exact execLinkKexResp_wf h
  · exact execLinkKexConfirm_wf h
  · exact execLinkKexRetry_wf h
  · exact execLinkKexGiveUp_wf h
  · exact execLinkKeyExpire_wf h
  · exact execFeedFrameSend_wf h
  · exact execFeedFrameReceive_wf h
  · exact execPairWb_wf h
  · exact execWbSecondClose_wf h
  · exact execWbBlockClose_wf h
  · exact execWbInputLoss_wf h
  · exact execWbPowerReturn_wf h
  · exact execWbInfo_wf h
  · exact execWbKeys_wf h
  · exact execReadBlock_wf h
  · exact execReadAudit_wf h
  · exact execFwLoad_wf h
  · exact execFwCommit_wf h
  · exact execAuthority_wf h
  · exact execSealBreach_wf h
  · exact execMirrorFrame_wf h
  · exact execMirrorLost_wf h
  · exact execRegisterWrite_wf h
  · exact execAliasWrite_wf h
  · exact execLoLatchRead_wf h
  · exact execLckUnlock_wf h
  · exact execLockExpiry_wf h
  · exact execCplWrite_wf h
  · exact execPendingLapse_wf h
  · exact execCrcPass_wf h
  · exact execGraceExpiry_wf h
  · exact execCrcCommit_wf h
  · exact execBoot_wf h
  · exact execPowerOff_wf h
  · exact execFlashRequest_wf h
  · exact execFlashRelease_wf h
  · exact execExtest_wf h
  · exact execIdcode_wf h
  · exact execSamplePreload_wf h
  · exact execClamp_wf h
  · exact execHighz_wf h
  · exact execExtestPulse_wf h
  · exact execExtestTrain_wf h
  · exact execRegaccess_wf h
  · exact execMemaccess_wf h
  · exact execHalt_wf h
  · exact execBypass_wf h
  · exact execWbExtest_wf h
  · exact execWbIdcode_wf h
  · exact execWbSamplePreload_wf h
  · exact execWbBypass_wf h
  · exact execCopyDone_wf h
  · exact execOwnSetReleaseDone_wf h
  · exact execHbmChannelFailure_wf h
  · exact execSheafFault_wf h
  · exact execSeamCrcFailure_wf h
  · exact execCoolantFaultDeassert_wf h
  · exact execWakeNRelease_wf h

/-! Machine/Step -/

theorem step_wf (h : MemWf s) : NextWf (step s) := list_wf (idle_wf h) (exec_wf (mk_wf h))

/-- Settles O21: `step_wf` is the invariant, and a step that answers a state is `NextWf` at that state. The canonical
    form is the model's own (notes/assumptions/9.md). -/
theorem stepKeepsMemoryCanonical : Obligations.StepKeepsMemoryCanonical := by
  unfold Obligations.StepKeepsMemoryCanonical
  intro s t h e
  have h1 : NextWf (step s) := step_wf h
  rw [e] at h1
  exact h1

end Sys2Proof.Machine
end

/-! PROOFS. Key updates and attestation (spec/13 R358-R361, R363-R365): every command but ENTER_RMA runs as the statement of
O51 has it; ENTER_RMA also blows the RMA fuse, which the statement leaves out. O51 is not settled here: it holds just where
ENTER_RMA runs as stated, and that turns on a value of `Config.xmssVerify`, which no proof can see (notes/assumptions/5.md). -/
section
namespace Sys2Proof.Machine

/-! ### KEY_UPDATE (R358-R361) -/

/-- A life-cycle KEY_UPDATE leaves the record of its KIND, is answered, and resets the module (R361). -/
theorem keyUpdate_resets {mk : Pkt → Instr} {k : Nat} {sec : Pkt → State → Sec} (lifeCycle : k ≤ 6)
    (he : ∀ p s, exec (mk p) s = .next (arrive startKeyUpdate wrongOnFabric (updRow p k) s))
    (record : ∀ p u, (keyUpdOf p.payload).kind = k → updApply u.sec (keyUpdOf p.payload) = sec p u) :
    RunsVia mk (fun p => updRow p k) (fun _ p u => updCheck u p (keyUpdOf p.payload) = none)
      (fun h p u => moduleReset (answer (.mgmt h) p stOk { u with sec := sec p u }) 0 0 false) := by
  refine runsVia_of startKeyUpdate wrongOnFabric he (fun h p u passes => ?_)
  rw [startKeyUpdate_ok (by omega) passes, if_pos lifeCycle, record _ _ (updKind (by omega) passes)]

/-- Any other KEY_UPDATE leaves the record of its KIND and is answered. -/
theorem keyUpdate_records {mk : Pkt → Instr} {k : Nat} {sec : Pkt → State → Sec} (other : 6 < k) (byte : k < 256)
    (he : ∀ p s, exec (mk p) s = .next (arrive startKeyUpdate wrongOnFabric (updRow p k) s))
    (record : ∀ p u, (keyUpdOf p.payload).kind = k → updApply u.sec (keyUpdOf p.payload) = sec p u) :
    RunsVia mk (fun p => updRow p k) (fun _ p u => updCheck u p (keyUpdOf p.payload) = none)
      (fun h p u => answer (.mgmt h) p stOk { u with sec := sec p u }) := by
  refine runsVia_of startKeyUpdate wrongOnFabric he (fun h p u passes => ?_)
  rw [startKeyUpdate_ok byte passes, if_neg (by omega), record _ _ (updKind byte passes)]

/-- What ENTER_RMA leaves (R360): as the statement has it, but for the RMA fuse, which is blown. -/
theorem enterRma_runs : RunsVia .enterRma (fun p => updRow p 4) (fun _ p u => updCheck u p (keyUpdOf p.payload) = none)
    (fun h p u => moduleReset (answer (.mgmt h) p stOk { u with sec := { u.sec with
      updCnt := BitVec.ofNat 32 (keyUpdOf p.payload).counter, epoch := u.sec.epoch + 1, lc := 4, owner := none,
      rmaFuse := true } }) 0 0 false) :=
  keyUpdate_resets (by decide) (fun _ _ => rfl) (fun p u kind => by simp only [updApply, kind]; rfl)

/-! ### ATTEST (R365) -/

/-- A quote of the module that the attestation key signs (R365). -/
theorem startAttest_module {q : QRef} {p : Pkt} {u : State} (kind : fld p.w4.toNat 0 2 = 1) (nonce : p.payload.length = 32)
    (serves : ¬ (u.sec.lc = 0 ∨ u.sec.lc = 5 ∨ idExhausted u = true)) : startAttest q p u = quote q p 1 none u := by
  have proper : ¬ (1 = 3 ∨ p.payload.length ≠ 32) := not_or.mpr ⟨by decide, not_not.mpr nonce⟩
  unfold startAttest
  rw [kind]
  exact (if_neg proper).trans (if_neg serves)

/-- A quote of the slot that holds the PID (R365). -/
theorem startAttest_slot {q : QRef} {p : Pkt} {u : State} (kind : fld p.w4.toNat 0 2 = 2) (nonce : p.payload.length = 32)
    (serves : ¬ (u.sec.lc = 0 ∨ u.sec.lc = 5 ∨ idExhausted u = true)) (named : (slotOfPid u p.w5.toNat).isSome = true) :
    startAttest q p u = quote q p 2 (slotOfPid u p.w5.toNat) u := by
  have proper : ¬ (2 = 3 ∨ p.payload.length ≠ 32) := not_or.mpr ⟨by decide, not_not.mpr nonce⟩
  obtain ⟨i, holds⟩ := Option.isSome_iff_exists.mp named
  unfold startAttest
  rw [kind, holds]
  exact (if_neg proper).trans (if_neg serves)

/-- The answer with the identity key and the chain (R365). -/
theorem startAttest_chain {q : QRef} {p : Pkt} {u : State} (kind : fld p.w4.toNat 0 2 = 0) (empty : p.payload.length = 0)
    (serves : ¬ (u.sec.lc = 0 ∨ u.sec.lc = 5 ∨ idExhausted u = true)) :
    startAttest q p u = sendReply q p { replyTo p stOk with
      w6 := BitVec.ofNat 32 (u.sec.cert.getD []).length, payload := sized 68 (identityPub u) ++ u.sec.cert.getD [] } u := by
  have proper : ¬ (0 = 3 ∨ p.payload.length ≠ 0) := not_or.mpr ⟨by decide, not_not.mpr empty⟩
  unfold startAttest
  rw [kind]
  exact (if_neg proper).trans (if_neg serves)

/-- The conditions of R365 as its statement has them are those that the handler asks. -/
theorem attests {u : State} (claimed : u.sec.lc ≠ 0) (inService : u.sec.lc ≠ 5) (able : idExhausted u = false) :
    ¬ (u.sec.lc = 0 ∨ u.sec.lc = 5 ∨ idExhausted u = true) := by
  simp only [claimed, inService, able, false_or, Bool.false_eq_true, not_false_eq_true]

/-! ### What O51 comes to -/

/-- The ENTER_RMA part of O51, as it is stated: the RMA fuse stays as it is. -/
def EnterRmaAsStated : Prop :=
  RunsVia .enterRma (fun p => updRow p 4) (fun _ p u => updCheck u p (keyUpdOf p.payload) = none)
    (fun h p u => moduleReset (answer (.mgmt h) p stOk { u with sec := { u.sec with
      updCnt := BitVec.ofNat 32 (keyUpdOf p.payload).counter, epoch := u.sec.epoch + 1, lc := 4, owner := none } }) 0 0 false)

/-- All the other commands of O51 run as stated. -/
theorem securityCommandsComplete_iff : Obligations.SecurityCommandsComplete ↔ EnterRmaAsStated := by
  constructor
  · rintro ⟨-, -, -, -, enterRma, -⟩
    exact enterRma
  intro enterRma
  refine ⟨keyUpdate_resets (by decide) (fun _ _ => rfl) ?claim, keyUpdate_resets (by decide) (fun _ _ => rfl) ?transfer,
    keyUpdate_resets (by decide) (fun _ _ => rfl) ?debug, keyUpdate_resets (by decide) (fun _ _ => rfl) ?leave, enterRma,
    keyUpdate_resets (by decide) (fun _ _ => rfl) ?back, keyUpdate_resets (by decide) (fun _ _ => rfl) ?retire,
    keyUpdate_records (by decide) (by decide) (fun _ _ => rfl) ?floor,
    keyUpdate_records (by decide) (by decide) (fun _ _ => rfl) ?cert,
    runsVia_of startAttest wrongOnFabric (fun _ _ => rfl) ?chain, runsVia_of startAttest wrongOnFabric (fun _ _ => rfl) ?module,
    runsVia_of startAttest wrongOnFabric (fun _ _ => rfl) ?slot⟩
  case chain =>
    rintro h p u ⟨empty, claimed, inService, able⟩
    exact startAttest_chain (attRow_kind p 0 (by decide)) empty (attests claimed inService able)
  case module =>
    rintro h p u ⟨nonce, claimed, inService, able, signs⟩
    exact (startAttest_module (attRow_kind p 1 (by decide)) nonce (attests claimed inService able)).trans (quote_ok signs)
  case slot =>
    rintro h p u ⟨nonce, claimed, inService, able, named, signs⟩
    exact (startAttest_slot (attRow_kind p 2 (by decide)) nonce (attests claimed inService able) named).trans (quote_ok signs)
  all_goals
    intro p u kind
    simp only [updApply, kind]
    rfl

/-- Where no signature is good, no ENTER_RMA passes, and its part of O51 holds of nothing. -/
theorem enterRmaAsStated_of_unverified (refuses : ∀ kid msg sig, Config.xmssVerify kid msg sig = false) : EnterRmaAsStated := by
  intro s h p _ passes
  have refused : updAuth (taken s h (updRow p 4)) (updRow p 4) (keyUpdOf (updRow p 4).payload) = false := by
    simp only [updAuth, refuses, Bool.and_false, Bool.false_and]
  revert passes
  simp only [updCheck, refused, Bool.not_false, if_true]
  repeat' split
  all_goals exact fun e => nomatch e

/-- An owner root of height 10. -/
def rmaOwner : List Byte := [0, 0, 0, 0x10] ++ List.replicate 96 0

/-- A READY module of that owner in life-cycle state 2, its RMA fuse whole. -/
def ownedModule : State :=
  { dev := { phase := .ready, fabId := 5 },
    fe := { ports := [(0, { up := true, adapter := some 7 })] },
    sec := { lc := 2, owner := some rmaOwner } }

/-- ENTER_RMA that the owner signs, COUNTER 1, with a signature of 2,500 zeros. -/
def ownerRma : Pkt :=
  updRow { adapter := 7, plen := 2564, payload := leBytes 4 0x4B550001 ++ [4, 2] ++ leBytes 2 0 ++ leBytes 16 0 ++ leBytes 4 1
    ++ leBytes 4 0 ++ keyId (rmaOwner.take 68) ++ List.replicate 2500 0 } 4

theorem ownedModule_takes : MgmtTakes ownedModule 0 ownerRma := by
  unfold MgmtTakes
  decide +kernel

/-- `ownerRma` passes the checks of R359 when its signature is good. -/
theorem ownerRma_passes (good : Config.xmssVerify (keyUpdOf ownerRma.payload).kid (keyUpdOf ownerRma.payload).msg
    (keyUpdOf ownerRma.payload).sig = true) :
    updCheck (taken ownedModule 0 ownerRma) ownerRma (keyUpdOf ownerRma.payload) = none := by
  have auth : updAuth (taken ownedModule 0 ownerRma) ownerRma (keyUpdOf ownerRma.payload) = true := by
    unfold updAuth
    rw [good]
    decide +kernel
  unfold updCheck
  rw [if_neg (by decide +kernel), if_neg (by decide +kernel), if_neg (by decide +kernel), if_neg (by decide +kernel), auth]
  rfl

/-- The reset that follows keeps the RMA fuse as the record has it. -/
theorem ownerRma_reset_keeps_fuse (x : Sec) :
    (wakeAll (moduleReset (answer (.mgmt 0) ownerRma stOk { taken ownedModule 0 ownerRma with sec := x }) 0 0 false)).sec.rmaFuse
      = x.rmaFuse := rfl

/-- Where the owner's signature of `ownerRma` is good, ENTER_RMA blows the fuse that its part of O51 leaves whole. -/
theorem not_enterRmaAsStated_of_verified (good : Config.xmssVerify (keyUpdOf ownerRma.payload).kid (keyUpdOf ownerRma.payload).msg
    (keyUpdOf ownerRma.payload).sig = true) : ¬ EnterRmaAsStated := by
  intro stated
  have blown := enterRma_runs ownedModule 0 _ ownedModule_takes (ownerRma_passes good)
  have whole := stated ownedModule 0 _ ownedModule_takes (ownerRma_passes good)
  injection blown.symm.trans whole with same
  have fuse := congrArg (fun s => s.sec.rmaFuse) same
  exact Bool.noConfusion ((ownerRma_reset_keeps_fuse _).symm.trans (fuse.trans (ownerRma_reset_keeps_fuse _)))

end Sys2Proof.Machine
end

/-! PROOFS. A step and the queue of commands (O1; one at a time in the queue's order is the model's choice, notes/assumptions/1.md), and command
packets as bytes (spec/06 R156-R158; O9). -/
section
namespace Sys2Proof.Machine

/-- Settles O1: it is what `step` does where a command waits. -/
theorem stepRunsTheFrontCommand : Obligations.StepRunsTheFrontCommand := by
  unfold Obligations.StepRunsTheFrontCommand
  exact fun _ _ _ => rfl

/-- Settles O9: each field of header, payload and trailer reads back from its place. -/
theorem commandPacketRoundTrip : Obligations.CommandPacketRoundTrip := by
  unfold Obligations.CommandPacketRoundTrip
  exact fun p fits => pktOfBytes_pktBytes p.src fits

end Sys2Proof.Machine
end

/-! PROOFS. Every step ends in a next state (spec/06 R182, spec/05 R125; O3). The model gives whatever goes wrong a state of its own, so a
meaning is a state or branches into states. -/
section
namespace Sys2Proof.Machine

/-- The instructions of the opcode map (R124) each issue, and that ends in a state. -/
theorem coreOps_complete : ∀ e ∈ coreOps, ∀ t w s, completes (exec (e.2 t w) s) := by
  simp only [coreOps, scalarOps, vectorOps, matrixOps, dataOps, List.cons_append, List.nil_append, List.forall_mem_cons,
    List.not_mem_nil, IsEmpty.forall_iff, implies_true, and_true]
  and_intros
  all_goals exact fun _ _ _ => ⟨_, rfl⟩

/-- A whole word of a core (R122) ends as the command that it spells. -/
theorem execCoreNop_completes (t : TenRef) (w : W64) (s : State) : completes (execCoreNop t w s) := by
  have listed : ∀ e ∈ coreRuns, ∀ t w s, completes (e.2 t w s) := by
    rw [coreRuns_eq]
    exact List.forall_mem_map.mpr coreOps_complete
  unfold execCoreNop
  split
  next found => exact listed _ (List.mem_of_find?_eq_some found) _ _ _
  next => exact ⟨_, rfl⟩

/-- The meanings that the list names branch, and end in a state in every branch; each other one is a state. -/
theorem exec_completes (i : Instr) (s : State) : completes (exec i s) := by
  cases i
  case coreNop t w => exact execCoreNop_completes t w s
  all_goals
    dsimp only [exec,
      execLinkKexRetry, execLinkKexGiveUp, execTransferDone, execTransferFault, execBarrierArrive, execBarrierRelease,
      execDispatchEntryStart, execTenancyExhausted, execConfCoreScrub, execSliceExpiry, execClass7Preempt, execBlockedEvict,
      execTenancySaveDone, execTenancyRestoreDone, execWinnowVerdict, execWinnowThirdVerdict, execCopyDone, execHaldipReplyAck,
      execRemoteWait, execEventWaitTimeout, execWaitRegisterRetry, execCollDescriptorStart, execCollAnnounce, execColl, execCollComplete,
      execCollAbort, execCollTimeout, execHandoffRetry, execEpochOpenTimeout, execHandoffLeadTimeout, execRunTableUpdate, execFlush,
      execContextTeardown, execTeardownDrainDone, execTeardownZeroDone, execPeerNoticeRetry, execPeerSilent, execMoveDrainReturn,
      execMigrateCopyDone, execMigrateDrainDone, execGranaryPeerPullEnd, execGranaryPeerTimeout, execRunTimeout, execWaitTimeoutExpiry,
      execKernelEndNotify, execDispatchQueueRoom, execRunAhead, execSeqCoreFailover, execKvZeroWrite, execMemoryRequest, execPatrolScrub,
      execOwnSetReleaseDone, execUnmapWhenIdleEffect, execRangeInvalTimeout, execRangeWalk, execFaultQueueStallTimeout, execPortTrain,
      execMiswiredRetrain, execLaneRetire, execPortDown, execLinkReplayTimeout, execPathReevaluate, execRemoteAccessServe,
      execRemoteResponseTimeout, execLinkKeyRotate, execLinkKeyWaitTimeout, execHbmChannelFailure, execMgmtFailover, execUnitHang,
      execEscalationStepTimeout, execSheafFault, execSeamCrcFailure, execModuleReset, execUnitFenceDone, execUnitScrubDone,
      execUnitBistDone, execFrostEntryWindowEnd, execHaldipWakeBeacon, execThaw, execLullAutoEntry, execLullExit, execAvsStatusPoll,
      execAvsTimeout, execDutyWindow, execFreqLoopTick, execSquallDetect, execTelemetrySample, execHintPhaseStart, execShiftTick,
      execThermalTick, execCoolantStop, execThermalCrit, execCoolantFaultDeassert, execFeedFrameSend, execFeedFrameReceive, execPairWb,
      execWbSecondClose, execWbBlockClose, execWbInputLoss, execWbPowerReturn, execFwLoad, execFwCommit, execAuthority, execSealBreach,
      execMirrorFrame, execMirrorLost, execBoot, execFlashRelease, execSmbBlockRead, execSmbReadByte, execAliasWrite, execCplWrite,
      execPendingLapse, execCrcPass, execDeviceSqFetch, execFrontEndStartItem, execReadReply, execIdcode, execSamplePreload, execBypass,
      execWbExtest, execWbIdcode, execWbSamplePreload, execWbBypass]
    repeat' split
  all_goals exact ⟨_, rfl⟩

/-- Settles O3: an empty queue lets a cycle pass, and a command ends by `exec_completes`. -/
theorem everyStepHasANextState : Obligations.EveryStepHasANextState := by
  unfold Obligations.EveryStepHasANextState
  intro s
  unfold step
  split
  next => exact ⟨_, rfl⟩
  next c rest _ => exact exec_completes c _

end Sys2Proof.Machine
end

/-! PROOFS. Records on an event (spec/06 R186, R187; O7): what one record leaves, and that records whose values lie within 2^63 of each
other leave the largest. -/
section
namespace Sys2Proof.Machine

/-! ### Where nobody waits -/

theorem releaseEv_of_no_waits {s : State} (e : Nat) (nobody : s.ev.waits = []) : releaseEv s e = s := by
  obtain ⟨pending, fresh, dev, lck, units, tens, rem, mem, xlt, part, fe, ev⟩ := s
  obtain ⟨evs, waits⟩ := ev
  cases nobody
  rfl

theorem wakeOut_of_no_waits {s : State} (nobody : s.ev.waits = []) : wakeOut s = s := by
  rw [wakeOut, nobody]
  rfl

/-- A record that advances an event on which nobody waits sets its value. -/
theorem record_advances {s : State} {e : Nat} {v : W64} (nobody : s.ev.waits = []) (adv : recAdvances (getEv s e).val v = true) :
    record s e v = (false, setEvent s e v) := by
  have still : (setEvent s e v).ev.waits = [] := nobody
  simp only [record, adv, if_true, releaseEv_of_no_waits e still, wakeOut_of_no_waits still]

/-- One that does not leaves the event as it is. -/
theorem getEv_record_behind {s : State} {e : Nat} {v : W64} (behind : recAdvances (getEv s e).val v = false) :
    getEv (record s e v).2 e = getEv s e := by
  simp only [record, behind, Bool.false_eq_true, if_false]
  split
  · rfl
  · rfl

theorem getEv_record_val (s : State) (e : Nat) (v : W64) (nobody : s.ev.waits = []) :
    (getEv (record s e v).2 e).val = recorded (getEv s e).val v := by
  rw [recorded]
  split
  next adv => rw [record_advances nobody adv, setEvent, getEv_setEv_same]
  next behind => rw [getEv_record_behind (by simpa using behind)]

/-! ### The largest value -/

/-- Within 2^63 of a base, an event advances just to what is farther from the base. -/
theorem recAdvances_iff {base c v : W64} (hc : (c - base).toNat < 2 ^ 63) (hv : (v - base).toNat < 2 ^ 63) :
    recAdvances c v = true ↔ (c - base).toNat < (v - base).toNat := by
  simp only [recAdvances, Bool.and_eq_true, decide_eq_true_eq]
  bv_omega

theorem recorded_sub_base {base c v : W64} (hc : (c - base).toNat < 2 ^ 63) (hv : (v - base).toNat < 2 ^ 63) :
    (recorded c v - base).toNat = max (c - base).toNat (v - base).toNat := by
  rw [recorded]
  split
  next adv => exact (Nat.max_eq_right (Nat.le_of_lt ((recAdvances_iff hc hv).mp adv))).symm
  next behind => exact (Nat.max_eq_left (Nat.not_lt.mp (fun far => behind ((recAdvances_iff hc hv).mpr far)))).symm

/-- By induction on the records: each leaves the larger of its value and the event's. -/
theorem foldl_recorded_sub_base (base : W64) (l : List W64) (c : W64) (near : ∀ v ∈ c :: l, (v - base).toNat < 2 ^ 63) :
    (l.foldl recorded c - base).toNat = (l.map (fun v => (v - base).toNat)).foldl max (c - base).toNat := by
  induction l generalizing c with
  | nil => rfl
  | cons v l ih =>
    obtain ⟨hc, hv, hl⟩ : (c - base).toNat < 2 ^ 63 ∧ (v - base).toNat < 2 ^ 63 ∧ ∀ w ∈ l, (w - base).toNat < 2 ^ 63 := by
      simpa only [List.forall_mem_cons] using near
    have step := recorded_sub_base hc hv
    have nearer : (recorded c v - base).toNat < 2 ^ 63 := by
      rw [step]
      exact Nat.max_lt.mpr ⟨hc, hv⟩
    rw [List.foldl_cons, ih (recorded c v) (List.forall_mem_cons.mpr ⟨nearer, hl⟩), step, List.map_cons, List.foldl_cons]

/-- Settles O7: one record by `getEv_record_val`, many by induction. -/
theorem recordsCommute : Obligations.RecordsCommute := by
  unfold Obligations.RecordsCommute
  exact ⟨getEv_record_val, fun base c l near => foldl_recorded_sub_base base l c near⟩

end Sys2Proof.Machine
end

/-! PROOFS. Event commands (spec/06 R184-R189; O36): what each does where nothing refuses it. That the wait of another module carries its PID
in word 5, its handle in word 4 and its target in words 6 and 7 is the model's choice (notes/assumptions/27.md). -/
section
namespace Sys2Proof.Machine

/-! ### Records (R186, R188) -/

/-- A record that nothing on its queue holds back takes effect, and advances its event. -/
theorem startRecord_advances {q : QRef} {p : Pkt} {u : State} (alone : begunOn u q = []) (here : evMod p.w4 = ownModule u)
    (serves : evServes u p.ctx (evNum p.w4) = true) (adv : recAdvances (getEv u (evNum p.w4)).val (valB p) = true) :
    startRecord q p u = answer q p stOk (wakeOut (releaseEv (setEvent u (evNum p.w4) (valB p)) (evNum p.w4))) := by
  have now : startRecord q p u = recordNow q p u := by
    rw [startRecord, alone]
    rfl
  rw [now]
  simp only [recordNow, here, serves, record, adv, ne_eq, not_true_eq_false, Bool.not_true, Bool.false_eq_true, if_false, if_true]

/-- A message of another module's context passes where the context is LIVE in the sender's slot and may use the event (R188). -/
theorem remoteCtx_pass {s : State} {i : Nat} {p : Pkt} (live : (getCtx s p.ctx).st = 1) (slot : (getCtx s p.ctx).slot = i)
    (gen : p.gen = (getCtx s p.ctx).gen.setWidth 8) (here : evMod p.w4 = ownModule s) (serves : evServes s p.ctx (evNum p.w4) = true) :
    remoteCtx s i p = .pass := by
  simp only [remoteCtx, gen, live, slot, here, serves, ne_eq, not_true_eq_false, one_ne_zero, Bool.not_true, Bool.false_eq_true, or_self,
    if_false]

theorem startSignal_records {q : QRef} {p : Pkt} {s : State} {i : Nat} (pid : slotOfPid s p.w5.toNat = some i)
    (pass : remoteCtx s i p = .pass) :
    startSignal q p s = answer q p (if (record s (evNum p.w4) (valB p)).1 then stRegress else stOk) (record s (evNum p.w4) (valB p)).2 := by
  simp only [startSignal, pid, pass]

/-! ### Waits (R187) -/

/-- A wait on an event of this module begins, and is registered or met. -/
theorem startWait_here {q : QRef} {p : Pkt} {u : State} (here : evMod p.w4 = ownModule u) (serves : evServes u p.ctx (evNum p.w4) = true) :
    startWait q p u = registerWait (begin q p (.wait p.w4 (valB p)) 0 u)
      { ev := evNum p.w4, target := valB p, who := .cmd u.fe.nextId } := by
  simp only [startWait, here, serves, ne_eq, not_true_eq_false, Bool.not_true, Bool.false_eq_true, if_false]

theorem registerWait_wakes {s : State} {w : WaitReg} (met : waitMet (getEv s w.ev).val w.target = true) : registerWait s w = wake w s := by
  rw [registerWait, if_pos met]

theorem registerWait_waits {s : State} {w : WaitReg} (waits : waitMet (getEv s w.ev).val w.target = false)
    (room : waitsOfHalf s (halfOfEvent w.ev) < 32768) : registerWait s w = { s with ev := { s.ev with waits := s.ev.waits ++ [w] } } := by
  have unmet : ¬ waitMet (getEv s w.ev).val w.target = true := by rw [waits]; decide
  rw [registerWait, if_neg unmet, if_pos room]

/-- A begun command ends with the status of its answer. -/
theorem finishStatus_of_found {s : State} {id status : Nat} {b : Begun} (found : findBegun s id = some b) :
    finishStatus id status s = answer b.q b.pkt status (dropBegun s id) := finish_some found

/-- The wait of a command that begins and is met at once ends it. -/
theorem registerWait_begin_met {q : QRef} {p : Pkt} {j : Job} {u : State} {e : Nat} {t : W64} (new : findBegun u u.fe.nextId = none)
    (met : waitMet (getEv u e).val t = true) :
    registerWait (begin q p j 0 u) { ev := e, target := t, who := .cmd u.fe.nextId }
      = answer q p stOk (dropBegun (begin q p j 0 u) u.fe.nextId) := by
  have wakes := registerWait_wakes (s := begin q p j 0 u) (w := { ev := e, target := t, who := .cmd u.fe.nextId }) met
  exact wakes.trans (finishStatus_of_found (findBegun_begin new))

theorem exec_eventWaitTimeout {s : State} {id : Nat} {b : Begun} {h : W32} {t : W64} (found : findBegun s id = some b)
    (job : b.job = .wait h t) (timed : b.pkt.w5 ≠ 0) :
    exec (.eventWaitTimeout id) s = .next (wakeAll (answer b.q b.pkt stTimeout (dropBegun (dropWaits s (fun w => w.who == .cmd id)) id))) := by
  have ends : finishStatus id stTimeout (dropWaits s (fun w => w.who == .cmd id)) = _ := finishStatus_of_found found
  change execEventWaitTimeout id s = _
  simp only [execEventWaitTimeout, found, job, timed, if_false, ends]

/-- A REMOTE_WAIT of another module is the packet of opcode 0x41 (notes/assumptions/27.md). -/
theorem exec_remoteWait {s : State} {p : Pkt} {mid pid pgen : Nat} (src : p.src = .fabric mid pid pgen) :
    exec (.remoteWait p) s = .next (arrive wrongOnFabric startRemoteWait { p with opcode := 0x41 } s) := by
  change execRemoteWait p s = _
  unfold execRemoteWait
  split
  next => rfl
  next other => exact absurd src (other mid pid pgen)

theorem startRemoteWait_registers {mid pid pgen i : Nat} {p : Pkt} {s : State} (slot : slotOfPid s p.w5.toNat = some i)
    (pass : remoteCtx s i p = .pass) : startRemoteWait (.fabric mid pid pgen) p s
      = registerWait s { ev := evNum p.w4, target := valB p, who := .remote mid p.w5.toNat p.seq } := by
  simp only [startRemoteWait, slot, pass]

theorem exec_waitRegisterRetry {s : State} {half : Nat} {w : WaitReg}
    (first : s.ev.retry.find? (fun w => halfOfEvent w.ev == half) = some w) (waits : waitMet (getEv s w.ev).val w.target = false)
    (room : waitsOfHalf s half < 32768) (here : halfOfEvent w.ev = half) :
    exec (.waitRegisterRetry half) s = .next (wakeAll
      { s with ev := { s.ev with retry := s.ev.retry.erase w, waits := s.ev.waits ++ [w] } }) := by
  have again : registerWait { s with ev := { s.ev with retry := s.ev.retry.erase w } } w = _ :=
    registerWait_waits waits (by rw [here]; exact room)
  change execWaitRegisterRetry half s = _
  simp only [execWaitRegisterRetry, first, waits, room, again, Bool.not_false, decide_true, Bool.not_true, Bool.and_false,
    Bool.false_eq_true, if_false]

/-! ### Allocation, release and queries (R184, R185) -/

/-- The candidates of an EVENT_ALLOC: the first events of the free runs of `n` in the halves that it may use. -/
def allocFrom (u : State) (half n : Nat) : List Nat :=
  (if half = 1 ∨ halfOff u 0 then [] else freeEvents u 0 n) ++ (if half = 0 ∨ halfOff u 1 then [] else freeEvents u 1 n)

/-- What an allocated event is: of a slot where the packet says SHARED, else of a context. -/
def allocated (p : Pkt) (slot : Nat) : Ev :=
  if bitAt p.w4.toNat 16 then { st := 2, slot := slot } else { st := 1, ctx := fld p.w5.toNat 0 10, slot := slot }

/-- An EVENT_ALLOC that finds free events takes `n` of them from the one that is picked. -/
theorem startEventAlloc_takes {q : QRef} {p : Pkt} {u : State} {i e : Nat} (many : 1 ≤ fld p.w4.toNat 0 13)
    (few : fld p.w4.toNat 0 13 ≤ 4096) (which : fld p.w4.toNat 18 2 < 3)
    (awake : fld p.w4.toNat 18 2 < 2 → halfOff u (fld p.w4.toNat 18 2) = false) (pid : slotOfPid u p.w6.toNat = some i)
    (ctx : bitAt p.w4.toNat 16 = false → (getCtx u (fld p.w5.toNat 0 10)).st ≠ 0 ∧ (getCtx u (fld p.w5.toNat 0 10)).slot = i)
    (picked : (pickOne (allocFrom u (fld p.w4.toNat 18 2) (fld p.w4.toNat 0 13)) u).1 = some e) :
    let t := (List.range (fld p.w4.toNat 0 13)).foldl (fun s k => setEv s (e + k) (allocated p i))
      (pickOne (allocFrom u (fld p.w4.toNat 18 2) (fld p.w4.toNat 0 13)) u).2
    startEventAlloc q p u = answerW4 q p stOk (e + ownModule t * 2 ^ 16) t := by
  have size : ¬ (fld p.w4.toNat 0 13 = 0 ∨ 4096 < fld p.w4.toNat 0 13) := by omega
  have on : ¬ (fld p.w4.toNat 18 2 < 2 ∧ halfOff u (fld p.w4.toNat 18 2) = true) := by
    rintro ⟨one, off⟩
    rw [awake one] at off
    exact Bool.false_ne_true off
  have may : (!bitAt p.w4.toNat 16 && (decide ((getCtx u (fld p.w5.toNat 0 10)).st = 0)
      || decide ((getCtx u (fld p.w5.toNat 0 10)).slot ≠ i))) = false := by
    rcases shared : bitAt p.w4.toNat 16 with _ | _
    · obtain ⟨bound, slot⟩ := ctx shared
      simp only [bound, slot, ne_eq, not_true_eq_false, decide_false, Bool.or_self, Bool.and_false]
    · rfl
  have taken : pickOne (allocFrom u (fld p.w4.toNat 18 2) (fld p.w4.toNat 0 13)) u
      = (some e, (pickOne (allocFrom u (fld p.w4.toNat 18 2) (fld p.w4.toNat 0 13)) u).2) := Prod.ext picked rfl
  simp only [startEventAlloc, size, Nat.ne_of_lt which, on, pid, may, Bool.false_eq_true, if_false]
  change (match pickOne (allocFrom u (fld p.w4.toNat 18 2) (fld p.w4.toNat 0 13)) u with
    | (none, s) => answer q p stBusy s
    | (some e, s) => _) = _
  rw [taken]
  rfl

/-- An EVENT_FREE frees events of one owner on which nobody waits. -/
theorem startEventFree_frees {q : QRef} {p : Pkt} {u : State} {e n : Nat} (he : evNum p.w4 = e) (hn : fld p.w5.toNat 0 13 = n)
    (many : 1 ≤ n) (few : n ≤ 4096) (here : evMod p.w4 = ownModule u) (oneHalf : halfOfEvent e = halfOfEvent (e + n - 1))
    (inside : e + n ≤ 65536)
    (alike : ∀ k < n, (getEv u (e + k)).st ≠ 0 ∧ (getEv u (e + k)).st = (getEv u e).st ∧ (getEv u (e + k)).ctx = (getEv u e).ctx
      ∧ (getEv u (e + k)).slot = (getEv u e).slot ∧ evWaited u (e + k) = false) :
    startEventFree q p u = answer q p stOk ((List.range n).foldl (fun s k => setEv s (e + k) {}) u) := by
  have size : ¬ (n = 0 ∨ 4096 < n) := by omega
  have fits : ¬ (halfOfEvent e ≠ halfOfEvent (e + n - 1) ∨ 65536 < e + n) := by omega
  have all : (List.range n).all (fun k => decide ((getEv u (e + k)).st ≠ 0) && (getEv u (e + k)).st == (getEv u e).st
      && (getEv u (e + k)).ctx == (getEv u e).ctx && (getEv u (e + k)).slot == (getEv u e).slot && !evWaited u (e + k)) = true := by
    rw [List.all_eq_true]
    intro k hk
    obtain ⟨st, sameSt, sameCtx, sameSlot, free⟩ := alike k (List.mem_range.mp hk)
    rw [free, ← sameSt, ← sameCtx, ← sameSlot]
    simpa using st
  simp only [startEventFree, he, hn, size, here, fits, all, ne_eq, not_true_eq_false, if_false, if_true]

/-- QP 0 sees every event of the module, those of confidential slots as zero. -/
theorem startEventQuery_mgmt {h : Nat} {p : Pkt} {u : State} (here : evMod p.w4 = ownModule u) :
    let x := getEv u (evNum p.w4)
    let v : W64 := if x.st ≠ 0 ∧ (getSlot u x.slot).brec.conf = true then 0 else x.val
    startEventQuery (.mgmt h) p u
      = sendReply (.mgmt h) p { replyTo p stOk with w6 := v.setWidth 32, w7 := (v >>> 32).setWidth 32 } u := by
  simp only [startEventQuery, here, ne_eq, not_true_eq_false, if_false, Bool.and_eq_true, decide_eq_true_eq]

/-! ### The deadlock scan (R189) -/

theorem caughtSet_nil (s : State) (n : Nat) : caughtSet s n [] = [] := by
  induction n with
  | zero => rfl
  | succ n ih => exact ih

/-- A caught set of which the scan before found nothing is remembered, and nothing is declared. -/
theorem exec_deadlockScan_first {s : State}
    (new : ∀ n ∈ caughtSet s ((waitNodes s).length + 1) (waitNodes s), s.ev.caught.contains (n.id, n.ev, (getEv s n.ev).val) = false) :
    exec .deadlockScan s = .next { s with ev := { s.ev with caught :=
      (caughtSet s ((waitNodes s).length + 1) (waitNodes s)).map (fun n => (n.id, n.ev, (getEv s n.ev).val)) } } := by
  have again : (caughtSet s ((waitNodes s).length + 1) (waitNodes s)).filter
      (fun n => s.ev.caught.contains (n.id, n.ev, (getEv s n.ev).val)) = [] := by
    rw [List.filter_eq_nil_iff]
    intro n hn
    rw [new n hn]
    exact Bool.false_ne_true
  have rest : (caughtSet s ((waitNodes s).length + 1) (waitNodes s)).filter (fun n => !([] : List WaitNode).contains n)
      = caughtSet s ((waitNodes s).length + 1) (waitNodes s) := List.filter_eq_self.mpr (fun _ _ => rfl)
  change execDeadlockScan s = _
  simp only [execDeadlockScan, again, caughtSet_nil, rest, List.foldl_nil]

/-- Settles O36: each command by the lemma that says what it does. -/
theorem eventCommandsComplete : Obligations.EventCommandsComplete := by
  unfold Obligations.EventCommandsComplete
  refine ⟨runsOn0_of startRecord wrongOnFabric (fun _ _ => rfl) ?record, runsOn0_of startWait startRemoteWait (fun _ _ => rfl) ?met,
    runsOn0_of startWait startRemoteWait (fun _ _ => rfl) ?waits, ?timeout, ?retry,
    runsOnFabric_of wrongOnFabric startSignal (fun _ _ => rfl) ?signal, ?remote,
    runsOn0_of startEventAlloc wrongOnFabric (fun _ _ => rfl) ?alloc, runsOn0_of startEventFree wrongOnFabric (fun _ _ => rfl) ?free,
    runsOn0_of startEventQuery wrongOnFabric (fun _ _ => rfl) ?query, fun s new => exec_deadlockScan_first new⟩
  case record =>
    rintro h p u - ⟨alone, here, serves, adv⟩
    exact startRecord_advances alone here serves adv
  case met =>
    rintro h p u - ⟨here, serves, new, met⟩
    exact (startWait_here here serves).trans (registerWait_begin_met new met)
  case waits =>
    rintro h p u - ⟨here, serves, waits, room⟩
    exact (startWait_here here serves).trans (registerWait_waits waits room)
  case timeout => exact fun s id b h t found job timed _ => exec_eventWaitTimeout found job timed
  case retry => exact fun s half w first waits room here => exec_waitRegisterRetry first waits room here
  case signal =>
    rintro mid pid pgen p u - ⟨i, slot, live, inSlot, gen, here, serves⟩
    exact startSignal_records slot (remoteCtx_pass live inSlot gen here serves)
  case remote =>
    intro s p mid pid pgen i src ready gate slot live inSlot gen here serves
    have takes : FabricTakes s { p with opcode := 0x41 } mid pid pgen := ⟨src, ready, gate⟩
    have pass : remoteCtx s i { p with opcode := 0x41 } = .pass := remoteCtx_pass live inSlot gen here serves
    have registers := startRemoteWait_registers (mid := mid) (pid := pid) (pgen := pgen) (p := { p with opcode := 0x41 }) slot pass
    rw [exec_remoteWait src, arrive_of_fabric wrongOnFabric startRemoteWait takes, registers]
    rfl
  case alloc =>
    rintro h p u - ⟨many, few, which, awake, ⟨i, pid, ctx⟩, e, picked⟩
    have takes := startEventAlloc_takes (q := .mgmt h) many few which awake pid ctx picked
    simp only [pid, picked, Option.getD_some]
    exact takes
  case free =>
    rintro h p u - ⟨many, few, here, oneHalf, inside, alike⟩
    exact startEventFree_frees rfl rfl many few here oneHalf inside alike
  case query => exact fun h p u _ here => startEventQuery_mgmt here

end Sys2Proof.Machine
end

/-! PROOFS. Queue control by packet (spec/06 R159, R165, R168; O37). That QP_RESUME leaves a queue pair without a QUANTUM BOUND is deduced
(notes/assumptions/6.md). -/
section
namespace Sys2Proof.Machine

/-- NOP on a path that answers (R159). -/
theorem startOther_nop {h : Nat} {p : Pkt} (u : State) (op : p.opcode = 0) : startOther (.mgmt h) p u = answer (.mgmt h) p stOk u := by
  have plain : ¬ [0x8A, 0xE0, 0xE1].contains p.opcode = true := by rw [op]; decide
  rw [startOther, if_neg plain]
  exact if_neg (not_not.mpr op)

/-- QP_QUERY on QP 0 hides nothing (R168). -/
theorem startQpQuery_mgmt {h n : Nat} {p : Pkt} {u : State} (named : fld p.w4.toNat 0 12 = n) :
    startQpQuery (.mgmt h) p u = sendReply (.mgmt h) p { replyTo p stOk with
      payload := leBytes 4 (qptWords u h n).1.toNat ++ leBytes 4 (qptWords u h n).2.1.toNat ++ leBytes 4 (qptWords u h n).2.2.1.toNat
        ++ leBytes 4 (qptWords u h n).2.2.2.toNat ++ leBytes 4 (getQp u n).sqHead ++ leBytes 4 (sqTailOf u (getQp u n))
        ++ leBytes 4 (cqHeadOf u (getQp u n)) ++ leBytes 4 (getQp u n).cqTail } u := by
  unfold startQpQuery
  rw [named]
  dsimp only
  rw [Bool.and_false, if_neg Bool.false_ne_true, if_neg Bool.false_ne_true]

/-! ### QP_CONFIG (R165) -/

/-- The queue pair that QP_CONFIG's payload makes of `x`: BOUND, with empty rings. -/
def configured (x : Qp) (l : List Byte) : Qp :=
  { x with
    st := 2, source := bitAt (numAt l 0x13 1) 0, quantum := numAt l 0x12 1, sqBase := numAt l 0 8, cqBase := numAt l 8 8,
    sqLog := numAt l 0x10 1, cqLog := numAt l 0x11 1, sqTailEvt := BitVec.ofNat 32 (numAt l 0x14 4),
    sqHeadEvt := BitVec.ofNat 32 (numAt l 0x18 4), cqTailEvt := BitVec.ofNat 32 (numAt l 0x1C 4),
    cqHeadEvt := BitVec.ofNat 32 (numAt l 0x20 4), sqHead := 0, sqTail := 0, cqHead := 0, cqTail := 0, sq := [], cq := [], deficit := 0 }

/-- The handles of QP_CONFIG's payload. -/
def configEvents (l : List Byte) : List W32 := [0x14, 0x18, 0x1C, 0x20].map (fun o => BitVec.ofNat 32 (numAt l o 4))

/-- A QP_CONFIG that passes its checks leaves the queue pair that its payload spells, the events of a device-sourced one at zero. -/
theorem startQpConfig_ok {q : QRef} {p : Pkt} {u v w : State} {n : Nat} {x : Qp} (hn : fld p.w4.toNat 0 12 = n) (hx : getQp u n = x)
    (size : p.payload.length = 48) (other : n ≠ 0) (bound : x.st = 1 ∨ x.st = 2 ∨ x.st = 3)
    (sqMin : 14 ≤ numAt p.payload 0x10 1) (sqMax : numAt p.payload 0x10 1 ≤ 24) (cqMin : 14 ≤ numAt p.payload 0x11 1)
    (cqMax : numAt p.payload 0x11 1 ≤ 24) (sqAt : numAt p.payload 0 8 % 2 ^ numAt p.payload 0x10 1 = 0)
    (cqAt : numAt p.payload 8 8 % 2 ^ numAt p.payload 0x11 1 = 0) (quantum : numAt p.payload 0x12 1 ≠ 0)
    (sqOk : ringOk u x.ctx (numAt p.payload 0 8) (numAt p.payload 0x10 1) = (true, v))
    (cqOk : ringOk v x.ctx (numAt p.payload 8 8) (numAt p.payload 0x11 1) = (true, w))
    (holds : bitAt (numAt p.payload 0x13 1) 0 = true → (configEvents p.payload).all (holdsEvent w x.ctx) = true)
    (sqEmpty : x.sq = []) (read : x.source = true → sqTailOf w x ≤ x.sqHead) (cqEmpty : x.cq = []) (idle : begunOn w (.qp n) = []) :
    startQpConfig q p u = answer q p stOk (if bitAt (numAt p.payload 0x13 1) 0 = true
      then (configEvents p.payload).foldl (fun s e => (record s (evNum e) 0).2) (setQp w n (configured x p.payload))
      else setQp w n (configured x p.payload)) := by
  have named : ¬ (n = 0 ∨ x.st = 0) := by omega
  have sizes : ¬ (numAt p.payload 0x10 1 < 14 ∨ 24 < numAt p.payload 0x10 1 ∨ numAt p.payload 0x11 1 < 14 ∨ 24 < numAt p.payload 0x11 1
      ∨ numAt p.payload 0 8 % 2 ^ numAt p.payload 0x10 1 ≠ 0 ∨ numAt p.payload 8 8 % 2 ^ numAt p.payload 0x11 1 ≠ 0
      ∨ numAt p.payload 0x12 1 = 0) := by omega
  have evs : (bitAt (numAt p.payload 0x13 1) 0 && !(configEvents p.payload).all (holdsEvent w x.ctx)) = false := by
    rcases src : bitAt (numAt p.payload 0x13 1) 0 with _ | _
    · rfl
    · rw [holds src]
      rfl
  have behind : (x.source && decide (x.sqHead < sqTailOf w x)) = false := by
    rcases src : x.source with _ | _
    · rfl
    · rw [Bool.true_and, decide_eq_false_iff_not]
      exact Nat.not_lt.mpr (read src)
  have notUnbinding : x.st ≠ 4 := by omega
  simp only [configEvents, List.map_cons, List.map_nil] at evs ⊢
  simp only [startQpConfig, hn, hx, size, named, sizes, sqOk, cqOk, evs, behind, notUnbinding, sqEmpty, cqEmpty, idle, ne_eq,
    not_true_eq_false, if_false, Bool.not_true, Bool.or_self, Bool.false_eq_true, decide_false, List.isEmpty_nil]
  rfl

/-! ### QP_RESUME (R168) -/

/-- A HELD queue pair goes on with the SEQ that the packet names, a device-sourced one from the position that it names. -/
theorem resumeQp_held {q : QRef} {p : Pkt} {u : State} {n : Nat} {x : Qp} (hx : getQp u n = x) (onHold : x.st = 3)
    (position : x.source = true → opB p % 64 = 0 ∧ x.sqHead ≤ opB p ∧ opB p ≤ sqTailOf u x) :
    resumeQp n q p u = answer q p stOk (setQp u n { x with
      st := if x.quantum = 0 then 1 else 2, expected := p.w5, sqHead := if x.source then opB p else x.sqHead,
      sq := if x.source then [] else x.sq }) := by
  have inside : (x.source && (decide (opB p % 64 ≠ 0) || decide (opB p < x.sqHead) || decide (sqTailOf u x < opB p))) = false := by
    rcases src : x.source with _ | _
    · rfl
    · obtain ⟨aligned, low, high⟩ := position src
      simp only [aligned, Nat.not_lt.mpr low, Nat.not_lt.mpr high, ne_eq, not_true_eq_false, decide_false, Bool.or_self,
        Bool.and_false]
  have held : ¬ (3 = 0 ∨ 3 = 4) := by decide
  simp only [resumeQp, hx, held, onHold, inside, ne_eq, not_true_eq_false, Bool.false_eq_true, if_false]

/-- QP_RESUME on QP 0 for a queue pair is that. -/
theorem startQpResume_other {h : Nat} {p : Pkt} (u : State) (other : fld p.w4.toNat 0 12 ≠ 0) :
    startQpResume (.mgmt h) p u = resumeQp (fld p.w4.toNat 0 12) (.mgmt h) p u := if_pos other

/-- QP_RESUME of QP 0 itself, when it is on hold. -/
theorem startQpResume_self {h : Nat} {p : Pkt} {u : State} (self : fld p.w4.toNat 0 12 = 0) (onHold : (getFe u h).onHold = true) :
    startQpResume (.mgmt h) p u = answer (.mgmt h) p stOk (setFe u h { getFe u h with onHold := false, expected := p.w5 }) := by
  have here : ¬ fld p.w4.toNat 0 12 ≠ 0 := not_not.mpr self
  simp only [startQpResume, here, onHold, if_false, if_true]

/-- A QP_RESUME on QP 0 that is on hold passes the arrival checks, whatever its SEQ (R168). -/
theorem checkMgmt_resume {s : State} {h : Nat} {p : Pkt} (op : p.opcode = 0x03) (stays : takingOver s = false)
    (adapter : some p.adapter.toNat = (getFe s h).adapter) (len : p.plen = p.payload.length) (short : p.plen ≤ 8192)
    (onHold : (getFe s h).onHold = true) (room : (getFe s h).held = []) : checkMgmt s h p = .accept := by
  have owner : checkAdapter0 s h p = none := by
    have free : actsForCtx p.opcode = false := by rw [op]; decide
    simp only [checkAdapter0, adapter, free, ne_eq, not_true_eq_false, Bool.false_eq_true, if_false]
  have fits : ¬ (8192 < p.plen ∨ p.plen ≠ p.payload.length) := by omega
  have known : onM 0x03 = true := by decide
  have empty : ¬ 32 ≤ (getFe s h).held.length := by rw [room]; decide
  simp only [checkMgmt, stays, owner, fits, op, onHold, known, empty, ne_eq, not_true_eq_false, decide_false, decide_true, Bool.and_false,
    Bool.and_self, Bool.not_true, Bool.false_and, Bool.false_eq_true, if_false]

@[simp] theorem getFe_chargeItem_onHold (half cls cost : Nat) (s : State) :
    (getFe (chargeItem half cls cost s) half).onHold = (getFe s half).onHold := by
  rw [chargeItem, getFe_setFe_same]
  split
  · rfl
  · rfl

@[simp] theorem getFe_taken_onHold (s : State) (h : Nat) (p : Pkt) : (getFe (taken s h p) h).onHold = (getFe s h).onHold := by
  rw [taken, getFe_chargeItem_onHold, admitted, getFe_setFe_same]

/-- Settles O37: each command by the lemma that says what it does. -/
theorem queueCommandsComplete : Obligations.QueueCommandsComplete := by
  unfold Obligations.QueueCommandsComplete
  refine ⟨runsOn0_of startOther startNop (fun _ _ => rfl) ?nop, runsOn0_of startQpConfig wrongOnFabric (fun _ _ => rfl) ?config,
    runsOn0_of startQpQuery wrongOnFabric (fun _ _ => rfl) ?query, runsOn0_of startQpResume wrongOnFabric (fun _ _ => rfl) ?resume, ?self⟩
  case nop => exact fun h p u op _ => startOther_nop u op
  case config =>
    rintro h p u - ⟨size, other, bound, sqMin, sqMax, cqMin, cqMax, sqAt, cqAt, quantum, sqOk, cqOk, holds, sqEmpty, read, cqEmpty, idle⟩
    exact startQpConfig_ok rfl rfl size other bound sqMin sqMax cqMin cqMax sqAt cqAt quantum (Prod.ext sqOk rfl) (Prod.ext cqOk rfl)
      (fun src => List.all_eq_true.mpr (List.forall_mem_map.mpr (holds src))) sqEmpty read cqEmpty idle
  case query => exact fun h p u _ _ => startQpQuery_mgmt rfl
  case resume =>
    rintro h p u - ⟨other, onHold, position⟩
    exact (startQpResume_other u other).trans (resumeQp_held rfl onHold position)
  case self =>
    intro s h p src qpn up rx stays adapter len short onHold room self starts
    have accepts : checkMgmt (lullWake s h) h { p with opcode := 0x03 } = .accept :=
      checkMgmt_resume rfl (by simpa [takingOver] using stays) (by simpa using adapter) len short (by simpa using onHold) (by simpa using room)
    have runs := arrive_of_accept startQpResume wrongOnFabric (p := { p with opcode := 0x03 }) src qpn up rx accepts starts rfl
    have resumes := startQpResume_self (u := taken s h { p with opcode := 0x03 }) (p := { p with opcode := 0x03 }) self
      ((getFe_taken_onHold s h _).trans onHold)
    rw [resumes] at runs
    exact congrArg Host.Outcome.next runs

end Sys2Proof.Machine
end

/-! PROOFS. The front ends at work (spec/06 R160, R164, R166, R169, R170; O38). -/
section
namespace Sys2Proof.Machine

/-- A NOP on a queue pair is carried out as on QP 0. -/
theorem exec_nop_of_qpTakes {s : State} {h : Nat} {p : Pkt} (takes : QpTakes s h p) (op : p.opcode = 0) :
    exec (.nop p) s = .next (wakeAll (startNop (.qp p.qpn) p (qpTaken s h p))) := by
  have plain : ¬ [0x8A, 0xE0, 0xE1].contains p.opcode = true := by rw [op]; decide
  have runs := arrive_of_qp startOther startNop takes
  rw [startOther, if_neg plain] at runs
  exact congrArg Host.Outcome.next runs

/-! ### Device-sourced rings (R166) -/

/-- DEVICE_SQ_FETCH reads where a device-sourced ring of a running half holds more than its head and a refusal would have room. -/
def Fetches (s : State) (n : Nat) : Prop :=
  s.dev.phase = .ready ∧ halfOff s (getQp s n).port = false ∧ (getQp s n).st = 2 ∧ (getQp s n).source = true ∧ (getQp s n).sq = []
    ∧ (getQp s n).sqHead < sqTailOf s (getQp s n) ∧ replyRoom s (.qp n) 64 = true

theorem Fetches.goes {s : State} {n : Nat} (fetches : Fetches s n) :
    (decide (s.dev.phase ≠ .ready) || halfOff s (getQp s n).port || (getQp s n).st != 2 || !(getQp s n).source || !(getQp s n).sq.isEmpty
      || decide (sqTailOf s (getQp s n) ≤ (getQp s n).sqHead) || !replyRoom s (.qp n) 64) = false := by
  obtain ⟨ready, awake, bound, source, empty, more, room⟩ := fetches
  simp only [ready, awake, bound, source, empty, Nat.not_le.mpr more, room, ne_eq, not_true_eq_false, decide_false, bne_self_eq_false,
    List.isEmpty_nil, Bool.not_true, Bool.or_self]

/-- A good packet that passes the checks is the ring's head, and starts where it is the next item. -/
theorem exec_deviceSqFetch_good {s v : State} {n : Nat} {p : Pkt} (fetches : Fetches s n)
    (found : devPacket (lullWake s (getQp s n).port) .read n (getQp s n).sqHead (getQp s n) = (.good p, v))
    (passes : devCheck v (getQp s n) p = none) :
    exec (.deviceSqFetch n) s = .next (if startsNow v (getQp s n).port (.qp n) p
      then startItem startOp (getQp s n).port (.qp n) p (popQp (setQp v n { getQp s n with sq := [p] }) n)
      else setQp v n { getQp s n with sq := [p] }) := by
  change execDeviceSqFetch n s = _
  simp only [execDeviceSqFetch, fetches.goes, found, passes, Bool.false_eq_true, if_false]

/-- A bad one is refused, and its queue pair is HELD. -/
theorem exec_deviceSqFetch_bad {s v : State} {n : Nat} {p : Pkt} (fetches : Fetches s n)
    (found : devPacket (lullWake s (getQp s n).port) .read n (getQp s n).sqHead (getQp s n) = (.bad p, v)) :
    exec (.deviceSqFetch n) s = .next (wakeAll (answer (.qp n) p stLen (setQp v n { getQp s n with st := 3 }))) := by
  change execDeviceSqFetch n s = _
  simp only [execDeviceSqFetch, fetches.goes, found, Bool.false_eq_true, if_false]

/-! ### The round robin (R169) -/

/-- The item that is chosen is paid for and runs. -/
theorem exec_frontEndStartItem {s u : State} {half : Nat} {q : QRef} {i : Item} (own : half < 2) (ready : s.dev.phase = .ready)
    (awake : halfOff s half = false) (chosen : chooseItem (clearDeficits s half) half = some (q, i, u)) :
    exec (.frontEndStartItem half) s = .next (clearDeficits (runItem q i (payItem half q i u)) half) := by
  have next : frontNext s half = some (q, i, u) := by
    simp only [frontNext, Nat.not_le.mpr own, ready, awake, chosen, ne_eq, not_true_eq_false, decide_false, Bool.or_self,
      Bool.false_eq_true, if_false]
  change execFrontEndStartItem half s = _
  rw [execFrontEndStartItem, next]
  rfl

theorem runItem_read {i : Item} {id : Nat} (read : i.read = some id) (q : QRef) (s : State) : runItem q i s = wakeAll (bulkRun id s) := by
  obtain ⟨cls, cost, _⟩ := i
  cases read
  rfl

theorem runItem_qp {s : State} {n : Nat} {i : Item} {p : Pkt} {t : List Pkt} (packet : i.read = none) (head : (getQp s n).sq = p :: t) :
    runItem (.qp n) i s = startWith startOp (.qp n) p (popQp s n) := by
  obtain ⟨cls, cost, _⟩ := i
  cases packet
  have first : (waitingOn s (.qp n)).head? = some p := by rw [waitingOn, head, List.head?_cons]
  unfold runItem
  dsimp only
  rw [first]

theorem runItem_mgmt {s : State} {h : Nat} {i : Item} {p : Pkt} {t : List Pkt} (packet : i.read = none) (head : (getFe s h).held = p :: t) :
    runItem (.mgmt h) i s = startWith startOp (.mgmt h) p (popMgmt s h) := by
  obtain ⟨cls, cost, _⟩ := i
  cases packet
  have first : (waitingOn s (.mgmt h)).head? = some p := by rw [waitingOn, head, List.head?_cons]
  unfold runItem
  dsimp only
  rw [first]

/-- Settles O38: a queue pair's packet reaches its handler, a ring's packet is read, and an item that is chosen runs. -/
theorem frontEndCommandsComplete : Obligations.FrontEndCommandsComplete := by
  unfold Obligations.FrontEndCommandsComplete
  refine ⟨fun s h p takes op => exec_nop_of_qpTakes takes op, ?handlers, ?good, ?bad,
    fun s half q i u own ready awake chosen => exec_frontEndStartItem own ready awake chosen, fun s q i id read => runItem_read read q s,
    fun s n i p t packet head => runItem_qp packet head, fun s h i p t packet head => runItem_mgmt packet head⟩
  case handlers =>
    exact ⟨runsOnQp_of startWrite _ fun _ _ => rfl, runsOnQp_of startRead _ fun _ _ => rfl, runsOnQp_of startCopy _ fun _ _ => rfl,
      runsOnQp_of startRecord _ fun _ _ => rfl, runsOnQp_of startWait _ fun _ _ => rfl, runsOnQp_of startEventQuery _ fun _ _ => rfl,
      runsOnQp_of startLaunch _ fun _ _ => rfl, runsOnQp_of startPatch _ fun _ _ => rfl, runsOnQp_of startProgLoad _ fun _ _ => rfl,
      runsOnQp_of startRetire _ fun _ _ => rfl, runsOnQp_of startPrefetch _ fun _ _ => rfl, runsOnQp_of startUnmapIdle _ fun _ _ => rfl,
      runsOnQp_of startHintPhase _ fun _ _ => rfl⟩
  case good =>
    intro s n p v ready awake bound source empty more room found passes
    have reads := exec_deviceSqFetch_good ⟨ready, awake, bound, source, empty, more, room⟩ found passes
    exact ⟨fun now => by rw [reads, if_pos now], fun later => by rw [reads, if_neg (by rw [later]; decide)]⟩
  case bad =>
    intro s n p v ready awake bound source empty more room found
    exact exec_deviceSqFetch_bad ⟨ready, awake, bound, source, empty, more, room⟩ found

end Sys2Proof.Machine
end

/-! PROOFS. Register packets, answers of other modules and acknowledgements (spec/06 R161, R162, R167, R180, spec/11 R322, spec/15 R398, R399;
O54). That a COMPLETION with a SEQ below 2^30 names a begun command is the model's choice (notes/assumptions/23.md). -/
section
namespace Sys2Proof.Machine

/-! ### Registers by packet (R180, R398) -/

/-- A REG_READ on QP 0 whose extent passes answers its words. -/
theorem startRegRead_mgmt {h : Nat} {p : Pkt} {u : State} (many : p.w6.toNat ≠ 0) (few : p.w6.toNat ≤ 2048)
    (extent : extentCheck u (opA p) p.w6.toNat = none) :
    startRegRead (.mgmt h) p u = sendReply (.mgmt h) p { replyTo p stOk with payload := (readExtent p.w6.toNat h (opA p) u).1 }
      (readExtent p.w6.toNat h (opA p) u).2 := by
  have notSide : ¬ QRef.mgmt h = .side := nofun
  have size : ¬ (p.w6.toNat = 0 ∨ 2048 < p.w6.toNat) := by omega
  simp only [startRegRead, notSide, size, extent, if_false]
  rfl

/-- A REG_WRITE on QP 0 whose extent passes writes its words, or its pairs where PAIRED says so, and answers how far it came. -/
theorem startRegWrite_mgmt {h : Nat} {p : Pkt} {u : State} {paired : Bool} {unit : Nat} (flag : bitAt p.w6.toNat 0 = paired)
    (hu : (if paired then 8 else 4) = unit) (many : p.payload.length ≠ 0) (short : p.payload.length ≤ 8192)
    (whole : p.payload.length % unit = 0) (extent : extentCheck u (opA p) (p.payload.length / unit) = none) :
    let r := if paired then writePairs (payloadPairs p.payload) h 0 (opA p) u else writeWords (payloadWords p.payload) h 0 (opA p) u
    startRegWrite (.mgmt h) p u = answerAt (.mgmt h) p (if r.1.1 then stOk else stGuard) r.1.2 r.2 := by
  have size : ¬ (p.payload.length = 0 ∨ p.payload.length % unit ≠ 0 ∨ 8192 < p.payload.length) := by omega
  simp only [startRegWrite, flag, hu, size, extent, if_false]
  rfl

/-! ### Answers of other modules (R181, R322) -/

/-- A COMPLETION that answers a peer notice ends it. -/
theorem takeCompletion_notice {mid pid pgen : Nat} {p : Pkt} {u : State}
    (notice : u.part.notices.any (fun n => n.mid == mid && n.ctx == p.ctx && n.seq == p.seq) = true) :
    takeCompletion (.fabric mid pid pgen) p u = { u with part := { u.part with
      notices := u.part.notices.filter (fun n => !(n.mid == mid && n.ctx == p.ctx && n.seq == p.seq)) } } := if_pos notice

/-- One that answers an EVENT_RECORD's message ends the command with its status. -/
theorem takeCompletion_record {mid pid pgen : Nat} {p : Pkt} {s : State} {b : Begun} {h : W32} {v : W64}
    (other : s.part.notices.any (fun n => n.mid == mid && n.ctx == p.ctx && n.seq == p.seq) = false) (command : p.seq.toNat < 2 ^ 30)
    (found : findBegun s p.seq.toNat = some b) (job : b.job = .remoteRecord h v) :
    takeCompletion (.fabric mid pid pgen) p s = answer b.q b.pkt p.status (dropBegun s p.seq.toNat) := by
  have ends : commandAnswer s p.seq.toNat mid p = finishStatus p.seq.toNat p.status s := by
    simp only [commandAnswer, found, job]
  have goes : takeCompletion (.fabric mid pid pgen) p s = commandAnswer s p.seq.toNat mid p := by
    unfold takeCompletion
    dsimp only
    rw [if_neg (by rw [other]; decide), if_pos command]
  rw [goes, ends, finishStatus_of_found found]

/-- A peer's notice of a LIVE context's loss makes it LOST here, without notices of its own. -/
theorem startNotice_loss {q : QRef} {p : Pkt} {u : State} {slot ctx : Nat} (cls : fld (numAt p.payload 4 4) 0 8 = 0x16)
    (pid : slotOfPid u (numAt p.payload 16 4) = some slot) (hc : fld (numAt p.payload 12 4) 6 10 = ctx) (live : (getCtx u ctx).st = 1)
    (inSlot : (getCtx u ctx).slot = slot) :
    startNotice q p u = answer q p stOk
      (setDown (lose ctx (fld (numAt p.payload 4 4) 16 16) stLost 0 u) ctx (fun d => { d with quiet := true })) := by
  have other : ¬ 0x16 = 0x15 := by decide
  simp only [startNotice, cls, other, pid, hc, live, inSlot, and_self, if_true, if_false]

/-! ### Acknowledgements (R161, R162, R167) -/

/-- An acknowledgement of a completion ring frees its oldest packet. -/
theorem exec_ack_ring {s : State} {port n start : Nat} {r : Reply} {t : List (Nat × Reply)} (up : (getFe s port).up = true)
    (oldest : (getQp s n).cq = (start, r) :: t) (host : (getQp s n).source = false) (own : (getQp s n).port = port) :
    exec (.haldipReplyAck port (.ring n)) s = .next (unbindCheck
      (setQp s n { getQp s n with cq := t, cqHead := start + slotBytes r.payload.length })) := by
  change execHaldipReplyAck port (.ring n) s = _
  simp only [execHaldipReplyAck, up, oldest, host, own, ne_eq, not_true_eq_false, or_self, Bool.not_true, Bool.false_eq_true, if_false]

theorem exec_ack_store {s : State} {port : Nat} (up : (getFe s port).up = true) :
    exec (.haldipReplyAck port .store) s = .next (setFe s port { getFe s port with store := (getFe s port).store.drop 1 }) := by
  change execHaldipReplyAck port .store s = _
  simp only [execHaldipReplyAck, up, Bool.not_true, Bool.false_eq_true, if_false]

theorem exec_ack_refusal {s : State} {port : Nat} (up : (getFe s port).up = true) :
    exec (.haldipReplyAck port .refusal) s = .next (setFe s port { getFe s port with refusals := (getFe s port).refusals.drop 1 }) := by
  change execHaldipReplyAck port .refusal s = _
  simp only [execHaldipReplyAck, up, Bool.not_true, Bool.false_eq_true, if_false]

/-- A report that is acknowledged gives its room to one that waits; the record of an ERROR_REPORT counts as read (R308, R309). -/
theorem exec_ack_report {s : State} {port : Nat} {r : Reply} {t : List Reply} (up : (getFe s port).up = true)
    (oldest : (getFe s port).reports = r :: t) :
    exec (.haldipReplyAck port .report) s = .next (drainAll
      (if r.opcode = 0xF2 then markLogRead (setFe s port { getFe s port with reports := t }) r.seq
       else setFe s port { getFe s port with reports := t })) := by
  change execHaldipReplyAck port .report s = _
  simp only [execHaldipReplyAck, up, oldest, Bool.not_true, Bool.false_eq_true, if_false]

/-! ### The sideband (R399) -/

theorem exec_smbBlockRead_oldest {s : State} {r : Reply} {t : List Reply} (answers : sideAnswers s = true) (oldest : s.fe.sideHeld = r :: t) :
    exec .smbBlockRead s = .next { s with fe := { s.fe with sideHeld := t, sideOut := replyBytes r } } := by
  change execSmbBlockRead s = _
  simp only [execSmbBlockRead, answers, oldest, Bool.not_true, Bool.false_eq_true, if_false]

theorem exec_smbBlockRead_empty {s : State} (answers : sideAnswers s = true) (empty : s.fe.sideHeld = []) :
    exec .smbBlockRead s = .next { s with fe := { s.fe with sideOut := [0] } } := by
  change execSmbBlockRead s = _
  simp only [execSmbBlockRead, answers, empty, Bool.not_true, Bool.false_eq_true, if_false]

/-- The status byte of the held replies: whether there is one, and whether there is room. -/
theorem sideByte (l : List Reply) : BitVec.ofNat 8 (b2n (decide (0 < l.length)) + b2n (decide (4 ≤ l.length)) * 2)
    = (if l = [] then 0 else 1) + (if 4 ≤ l.length then 2 else 0) := by
  cases l with
  | nil => rfl
  | cons r t =>
    have one : 0 < (r :: t).length := Nat.succ_pos _
    by_cases full : 4 ≤ (r :: t).length
    · simp only [one, full, decide_true, reduceCtorEq, if_true, if_false]
      rfl
    · simp only [one, full, decide_true, decide_false, reduceCtorEq, if_false]
      rfl

theorem exec_smbReadByte {s : State} (answers : sideAnswers s = true) :
    exec .smbReadByte s = .next { s with fe := { s.fe with sideOut :=
      [(if s.fe.sideHeld = [] then 0 else 1) + (if 4 ≤ s.fe.sideHeld.length then 2 else 0)] } } := by
  change execSmbReadByte s = _
  simp only [execSmbReadByte, answers, sideByte, Bool.not_true, Bool.false_eq_true, if_false]

/-- Settles O54: each command by the lemma that says what it does. -/
theorem registerPacketsComplete : Obligations.RegisterPacketsComplete := by
  unfold Obligations.RegisterPacketsComplete
  refine ⟨runsOn0_of startRegRead wrongOnFabric (fun _ _ => rfl) ?read, runsOn0_of startRegWrite wrongOnFabric (fun _ _ => rfl) ?words,
    runsOn0_of startRegWrite wrongOnFabric (fun _ _ => rfl) ?pairs, runsOnFabric_of wrongOnFabric _ (fun _ _ => rfl) ?notice, ?record,
    runsOnFabric_of wrongOnFabric startNotice (fun _ _ => rfl) ?lost, fun s port n start r t up oldest host own => exec_ack_ring up oldest host own,
    fun s port up => ⟨exec_ack_store up, exec_ack_refusal up⟩, fun s port r t up oldest => exec_ack_report up oldest,
    fun s r t answers oldest => exec_smbBlockRead_oldest answers oldest, fun s answers empty => exec_smbBlockRead_empty answers empty,
    fun s answers => exec_smbReadByte answers, fun s => rfl⟩
  case read =>
    rintro h p u - ⟨many, few, extent⟩
    exact startRegRead_mgmt many few extent
  case words =>
    rintro h p u - ⟨flag, many, short, whole, extent⟩
    have writes := startRegWrite_mgmt (h := h) (unit := 4) flag rfl many short whole extent
    simp only [Bool.false_eq_true, if_false] at writes
    exact writes
  case pairs =>
    rintro h p u - ⟨flag, many, short, whole, extent⟩
    have writes := startRegWrite_mgmt (h := h) (unit := 8) flag rfl many short whole extent
    simp only [if_true] at writes
    exact writes
  case notice =>
    rintro mid pid pgen p u - ⟨mid, pid, pgen, ⟨⟩, notice⟩
    exact congrArg wakeAll (takeCompletion_notice notice)
  case record =>
    intro s p mid pid pgen b h v src ready gate other command found job
    have takes : FabricTakes s { p with opcode := 0xF0 } mid pid pgen := ⟨src, ready, gate⟩
    have comes := arrive_of_fabric wrongOnFabric (fun q p s => wakeAll (takeCompletion q p s)) takes
    have ends := takeCompletion_record (pid := pid) (pgen := pgen) (p := { p with opcode := 0xF0 }) other command found job
    exact congrArg Host.Outcome.next (comes.trans (congrArg wakeAll ends))
  case lost =>
    rintro mid pid pgen p u - ⟨cls, slot, named, live, inSlot⟩
    exact startNotice_loss cls named rfl live inSlot

end Sys2Proof.Machine
end


/-! PROOFS. Bulk data in band (spec/06 R173, R175-R178; O41): each command's pieces, one by one, where its extents lie on this module. -/
section
namespace Sys2Proof.Machine

/-! ### Extents and what a served access leaves -/

/-- The check of an extent that finds an entry, as the steps of the commands make it. -/
theorem segAt_of_extent {s : State} {b : Begun} {kind : ReqKind} {va n v m : Nat} {e : Range} (found : (extent s b kind va n).1 = .seg e v m) :
    segAt s none b.pkt.ctx kind va n (cmdFault b (kind == .write) va) = (.seg e v m, (extent s b kind va n).2) :=
  Prod.ext found rfl

theorem extent_same {s : State} {b : Begun} {kind : ReqKind} {va n v m : Nat} {e : Range} (found : (extent s b kind va n).1 = .seg e v m) :
    SameWork s (extent s b kind va n).2 := segAt_same found

/-- An extent on this module needs no other module's word. -/
theorem sideAsked_local {s : State} {e : Range} {v : Nat} (b : Begun) (second : Bool) (z : Nat) (here : entLocal s e v = true) :
    sideAsked s b second e v z = true := by
  rw [sideAsked, here, Bool.true_or]

/-- A command is found as its progress is noted, after an access that was served. -/
theorem SameWork.find_setBegun {s t : State} {b c : Begun} (same : SameWork s t) (found : findBegun s b.id = some b) (id : c.id = b.id) :
    findBegun (setBegun t c) b.id = some c := by
  have there : findBegun t c.id = some b := by rw [same.find, id, found]
  rw [← id]
  exact findBegun_setBegun there

theorem SameWork.outst_any {s t : State} {f : Outst → Bool} (same : SameWork s t) (none : s.fab.outst.any f = false) :
    t.fab.outst.any f = false := by
  rw [same.outst]
  exact none

/-- A command that nothing holds back, that goes on by one piece and then rests. -/
theorem bulkRun_two {n : Nat} {s t w : State} {b c : Begun} (found : findBegun s b.id = some b) (free : bulkHeld s b = false)
    (goes : b.stalled = false) (out : s.fab.outst.any (fun o => o.who == .cmd b.id) = false) (fuel : bulkFuel b = n + 2)
    (more : bulkOne b s = .more (setBegun t c)) (same : SameWork s t) (cid : c.id = b.id) (cgoes : c.stalled = false)
    (rest : bulkOne c (setBegun t c) = .rest w) : bulkRun b.id s = goOnAll b.q w := by
  have again : (setBegun t c).fab.outst.any (fun o => o.who == .cmd b.id) = false := same.outst_any out
  rw [bulkRun_of found free, fuel, bulkGo_more found goes out more, bulkGo_rest (same.find_setBegun found cid) cgoes again rest]

/-- A begun command's number is the one it is found under. -/
theorem findBegun_id {s : State} {id : Nat} {b : Begun} (found : findBegun s id = some b) : b.id = id := by
  simpa using List.find?_some found

/-! ### WRITE_DATA (R175) -/

/-- A piece of a WRITE_DATA that memory takes. -/
theorem writeStep_more {b : Begun} {addr va n v m : Nat} {s t : State} {e : Range} {d : List Byte} (hva : addr + b.cursor = va)
    (hn : b.pkt.payload.length - b.cursor = n) (left : n ≠ 0) (seg : (extent s b .write va n).1 = .seg e v m)
    (here : entLocal s e v = true)
    (written : entWrite (extent s b .write va n).2 b.pkt.ctx e v (sliceZ b.pkt.payload b.cursor m) = .ok d t) :
    writeStep b addr s = .more (setBegun t { b with cursor := b.cursor + m }) := by
  have more : ¬ b.pkt.payload.length ≤ b.cursor := by omega
  have there := ((extent_same seg).entLocal e v).trans here
  have checked : segAt s none b.pkt.ctx .write va n (cmdFault b true va) = _ := segAt_of_extent seg
  simp only [writeStep, ctxOfBegun, hva, hn, more, checked, sideAsked_local b false _ there, there, written, Bool.not_true,
    Bool.false_eq_true, if_false, if_true]

/-- A WRITE_DATA with all its bytes written ends with its count. -/
theorem writeStep_ends {b : Begun} {addr : Nat} (s : State) (job : b.job = .write addr) (done : b.pkt.payload.length ≤ b.cursor) :
    writeStep b addr s = .rest (answerAt b.q b.pkt stOk b.cursor (dropBegun s b.id)) := by
  simp only [writeStep, done, if_true, bulkEnd, job]

theorem bulkOne_write {b : Begun} {addr : Nat} (job : b.job = .write addr) (s : State) : bulkOne b s = writeStep b addr s := by
  simp only [bulkOne, job]

/-- A WRITE_DATA that one entry holds is done in one piece. -/
theorem bulkRun_write {b : Begun} {addr v : Nat} {s t : State} {e : Range} {d : List Byte} (found : findBegun s b.id = some b)
    (job : b.job = .write addr) (start : b.cursor = 0) (goes : b.stalled = false) (free : bulkHeld s b = false)
    (out : s.fab.outst.any (fun o => o.who == .cmd b.id) = false) (many : b.pkt.payload.length ≠ 0)
    (seg : (extent s b .write addr b.pkt.payload.length).1 = .seg e v b.pkt.payload.length) (here : entLocal s e v = true)
    (written : entWrite (extent s b .write addr b.pkt.payload.length).2 b.pkt.ctx e v b.pkt.payload = .ok d t) :
    bulkRun b.id s = goOnAll b.q (answerAt b.q b.pkt stOk b.pkt.payload.length (dropBegun t b.id)) := by
  have fuel : bulkFuel b = b.pkt.payload.length + 2 := by simp only [bulkFuel, job]
  have whole : sliceZ b.pkt.payload b.cursor b.pkt.payload.length = b.pkt.payload := by rw [start, sliceZ_all]
  have more : writeStep b addr s = .more (setBegun t { b with cursor := b.cursor + b.pkt.payload.length }) :=
    writeStep_more (by rw [start]; rfl) (by rw [start]; rfl) many seg here (by rw [whole]; exact written)
  have same := (extent_same seg).trans (entWrite_same written)
  rw [start, Nat.zero_add] at more
  have ends := writeStep_ends (setBegun t { b with cursor := b.pkt.payload.length }) (b := { b with cursor := b.pkt.payload.length }) job
    (Nat.le_refl _)
  have gone : dropBegun (setBegun t { b with cursor := b.pkt.payload.length }) b.id = dropBegun t b.id := dropBegun_setBegun t _
  have rest := (bulkOne_write (b := { b with cursor := b.pkt.payload.length }) job _).trans ends
  rw [bulkRun_two found free goes out fuel ((bulkOne_write job s).trans more) same rfl goes rest]
  exact congrArg (fun u => goOnAll b.q (answerAt b.q b.pkt stOk b.pkt.payload.length u)) gone

/-! ### READ_DATA and READ_REPLY (R176) -/

/-- A command that begins under a new number is found as it begins. -/
theorem begunBy.found {s : State} {h : Nat} {P : Pkt} {j : Job} {b : Begun} (begun : begunBy s h P j b) :
    findBegun (begin (.mgmt h) b.pkt b.job 0 (taken s h b.pkt)) b.id = some b := by
  obtain ⟨rfl, new⟩ := begun
  exact findBegun_begin new

/-- A READ_DATA whose extent may be read begins. -/
theorem startRead_begins {q : QRef} {p : Pkt} {u : State} {b : Begun} {addr n v m : Nat} {e : Range} (ha : opA p = addr)
    (hn : p.w6.toNat = n) (many : n ≠ 0) (inside : addr + n ≤ 2 ^ 57)
    (found : findBegun (begin q p (.read addr n) 0 u) u.fe.nextId = some b)
    (seg : (extent (begin q p (.read addr n) 0 u) b .read addr n).1 = .seg e v m) :
    startRead q p u = (extent (begin q p (.read addr n) 0 u) b .read addr n).2 := by
  have size : ¬ (n = 0 ∨ 2 ^ 57 < addr + n) := by omega
  have checked : segAt _ none b.pkt.ctx .read addr n (cmdFault b false addr) = _ := segAt_of_extent seg
  unfold startRead
  rw [ha, hn]
  dsimp only
  rw [if_neg size, found]
  dsimp only [ctxOfBegun]
  rw [checked]

/-- The bytes of a read's next reply, where one entry holds them. -/
theorem readStep_more {b : Begun} {addr len va n need v m : Nat} {s t : State} {e : Range} {d : List Byte} (empty : b.buf = [])
    (hva : addr + b.cursor = va) (hn : len - b.cursor = n) (hneed : min 8192 n = need) (many : 0 < need)
    (seg : (extent s b .read va n).1 = .seg e v m) (enough : need ≤ m) (here : entLocal s e v = true)
    (read : entRead (extent s b .read va n).2 b.pkt.ctx e v need = .ok d t) :
    readStep b addr len s = .more (setBegun t { b with buf := d }) := by
  have there := ((extent_same seg).entLocal e v).trans here
  have checked : segAt s none b.pkt.ctx .read va n (cmdFault b false va) = _ := segAt_of_extent seg
  simp only [readStep, ctxOfBegun, empty, List.length_nil, Nat.add_zero, Nat.sub_zero, hva, hn, hneed, Nat.not_le.mpr many, checked,
    sideAsked_local b false _ there, there, Nat.min_eq_right enough, read, List.nil_append, Bool.not_true, Bool.false_eq_true, if_false,
    if_true]

/-- The READ_REPLY of a read of `len` bytes at `addr` that carries `d` from its cursor on. -/
def nextReply (b : Begun) (addr len : Nat) (d : List Byte) : Reply :=
  { replyTo b.pkt stOk with
    opcode := 0x22, last := decide (b.cursor + d.length = len), payload := d, w4 := BitVec.ofNat 32 (addr + b.cursor),
    w5 := BitVec.ofNat 32 ((addr + b.cursor) / 2 ^ 32), w6 := BitVec.ofNat 32 b.cursor, w7 := BitVec.ofNat 32 (b.cursor / 2 ^ 32) }

/-- A reply that is filled and has room goes out, and the read goes on behind it or is over. -/
theorem readStep_replies {b : Begun} {addr len : Nat} {s : State} (filled : min 8192 (len - b.cursor) = b.buf.length)
    (room : (b.roomKept || replyRoom s b.q (slotBytes b.buf.length)) = true) :
    readStep b addr len s = .rest (sendReply b.q b.pkt (nextReply b addr len b.buf)
      (if b.cursor + b.buf.length = len then dropBegun s b.id
       else setBegun s { b with cursor := b.cursor + b.buf.length, buf := [], roomKept := false })) := by
  have goes : (!b.roomKept && !replyRoom s b.q (slotBytes b.buf.length)) = false := by rw [← Bool.not_or, room]; rfl
  simp only [readStep, filled, Nat.le_refl, goes, List.take_length, decide_eq_true_eq, Bool.false_eq_true, if_false, if_true]
  rfl

theorem bulkOne_read {b : Begun} {addr len : Nat} (job : b.job = .read addr len) (s : State) : bulkOne b s = readStep b addr len s := by
  simp only [bulkOne, job]

/-- A read that one entry serves sends its next reply. -/
theorem bulkRun_read {b : Begun} {addr len need v m : Nat} {s t : State} {e : Range} {d : List Byte} (found : findBegun s b.id = some b)
    (job : b.job = .read addr len) (empty : b.buf = []) (goes : b.stalled = false) (free : bulkHeld s b = false)
    (out : s.fab.outst.any (fun o => o.who == .cmd b.id) = false) (hneed : min 8192 (len - b.cursor) = need) (many : 0 < need)
    (seg : (extent s b .read (addr + b.cursor) (len - b.cursor)).1 = .seg e v m) (enough : need ≤ m) (here : entLocal s e v = true)
    (read : entRead (extent s b .read (addr + b.cursor) (len - b.cursor)).2 b.pkt.ctx e v need = .ok d t)
    (room : (b.roomKept || replyRoom (setBegun t { b with buf := d }) b.q (slotBytes need)) = true) :
    bulkRun b.id s = goOnAll b.q (sendReply b.q b.pkt (nextReply b addr len d)
      (if b.cursor + need = len then dropBegun t b.id
       else setBegun (setBegun t { b with buf := d }) { b with cursor := b.cursor + need, buf := [], roomKept := false })) := by
  have fuel : bulkFuel b = (need + 1) + 2 := by simp only [bulkFuel, job, hneed]
  have size : d.length = need := entRead_length read
  subst size
  have more := readStep_more empty rfl rfl hneed many seg enough here read
  have replies := readStep_replies (b := { b with buf := d }) (addr := addr) (s := setBegun t { b with buf := d }) hneed room
  have rest := (bulkOne_read (b := { b with buf := d }) job _).trans replies
  have same := (extent_same seg).trans (entRead_same read)
  have gone : dropBegun (setBegun t { b with buf := d }) b.id = dropBegun t b.id := dropBegun_setBegun t _
  rw [bulkRun_two found free goes out fuel ((bulkOne_read job s).trans more) same rfl goes rest]
  dsimp only
  rw [gone]
  rfl

/-- READ_REPLY runs the item that the round robin comes to, when it is its read's (R169). -/
theorem exec_readReply {s u : State} {id : Nat} {b : Begun} {q : QRef} {i : Item} (found : findBegun s id = some b)
    (next : frontNext s (halfOfQ s b.q) = some (q, i, u)) (own : i.read = some id) :
    exec (.readReply id) s = .next (clearDeficits (wakeAll (bulkRun id (payItem (halfOfQ s b.q) q i u))) (halfOfQ s b.q)) := by
  change execReadReply id s = _
  simp only [execReadReply, found, next, own, if_true, frontStart, runItem_read own]

/-! ### COPY and COPY_DONE (R177) -/

/-- A COPY whose extents may be read and written begins. -/
theorem startCopy_begins {q : QRef} {p : Pkt} {u : State} {b : Begun} {src dst len vs ms vd md : Nat} {es ed : Range}
    (size : p.payload.length = 24) (hs : numAt p.payload 0 8 = src) (hd : numAt p.payload 8 8 = dst) (hl : numAt p.payload 16 8 = len)
    (limits : copyLimits src dst len = true) (found : findBegun (begin q p (.copy src dst len none) 0 u) u.fe.nextId = some b)
    (source : (extent (begin q p (.copy src dst len none) 0 u) b .read src len).1 = .seg es vs ms)
    (dest : (extent (extent (begin q p (.copy src dst len none) 0 u) b .read src len).2 b .write dst len).1 = .seg ed vd md) :
    startCopy q p u = (extent (extent (begin q p (.copy src dst len none) 0 u) b .read src len).2 b .write dst len).2 := by
  have proper : ¬ (p.payload.length ≠ 24 ∨ (!copyLimits src dst len) = true) := by rw [size, limits]; decide
  have reads : segAt _ none b.pkt.ctx .read src len (cmdFault b false src) = _ := segAt_of_extent source
  have writes : segAt _ none b.pkt.ctx .write dst len (cmdFault b true dst) = _ := segAt_of_extent dest
  unfold startCopy
  rw [hs, hd, hl]
  dsimp only
  rw [if_neg proper, copyFirst, found]
  dsimp only [ctxOfBegun]
  rw [reads]
  dsimp only
  rw [writes]

/-- A piece of a COPY from one entry to another, both on this module. -/
theorem copyStep_more {b : Begun} {src dst len sa da n vs vd : Nat} {s c t : State} {es ed : Range} {d z : List Byte} (empty : b.buf = [])
    (hs : src + b.cursor = sa) (hd : dst + b.cursor = da) (hn : len - b.cursor = n) (many : n ≠ 0) (piece : n ≤ 4096)
    (source : (extent s b .read sa n).1 = .seg es vs n) (dest : (extent (extent s b .read sa n).2 b .write da n).1 = .seg ed vd n)
    (srcHere : entLocal s es vs = true) (dstHere : entLocal s ed vd = true)
    (read : entRead (extent (extent s b .read sa n).2 b .write da n).2 b.pkt.ctx es vs n = .ok d c)
    (written : entWrite c b.pkt.ctx ed vd d = .ok z t) :
    copyStep b src dst len s = .more (setBegun t { b with cursor := b.cursor + d.length, buf := [] }) := by
  have same := (extent_same source).trans (extent_same dest)
  have fromThere := (same.entLocal es vs).trans srcHere
  have toThere := (same.entLocal ed vd).trans dstHere
  have toThen := ((same.trans (entRead_same read)).entLocal ed vd).trans dstHere
  have reads : segAt _ none b.pkt.ctx .read sa n (cmdFault b false sa) = _ := segAt_of_extent source
  have writes : segAt _ none b.pkt.ctx .write da n (cmdFault b true da) = _ := segAt_of_extent dest
  simp only [copyStep, ctxOfBegun, hs, hd, hn, many, reads, writes, empty, sideAsked_local b false _ fromThere, sideAsked_local b true _ toThere,
    fromThere, Nat.min_self, Nat.min_eq_left piece, read, toThen, written, List.isEmpty_nil, Bool.not_true, Bool.false_eq_true, if_false,
    if_true]

/-- What the end of a COPY leaves: an answer to the packet, or the progress of the run whose COPY it is. -/
def copyEnds (b : Begun) (len : Nat) (run : Option (Nat × Nat × Nat)) (s : State) : State :=
  match run with
  | none => answerAt b.q b.pkt stOk len s
  | some (r, inc, g) => groupDone s r inc g false

/-- A COPY with all its bytes moved ends. -/
theorem copyStep_ends {b : Begun} {src dst len : Nat} {run : Option (Nat × Nat × Nat)} (s : State) (job : b.job = .copy src dst len run)
    (done : b.cursor = len) : copyStep b src dst len s = .rest (copyEnds b len run (dropBegun s b.id)) := by
  have nothing : len - b.cursor = 0 := by omega
  have ended : copyStep b src dst len s = .rest (bulkEnd b stOk s) := by simp only [copyStep, nothing, if_true]
  rw [ended]
  rcases run with _ | ⟨r, inc, g⟩
  · simp only [bulkEnd, job, copyEnds, done]
  · simp only [bulkEnd, job, copyEnds, if_true]

theorem bulkOne_copy {b : Begun} {src dst len : Nat} {run : Option (Nat × Nat × Nat)} (job : b.job = .copy src dst len run) (s : State) :
    bulkOne b s = copyStep b src dst len s := by
  simp only [bulkOne, job]

/-- A COPY of one piece is done at once. -/
theorem bulkRun_copy {b : Begun} {src dst len n vs vd : Nat} {run : Option (Nat × Nat × Nat)} {s c t : State} {es ed : Range}
    {d z : List Byte} (found : findBegun s b.id = some b) (job : b.job = .copy src dst len run) (empty : b.buf = [])
    (goes : b.stalled = false) (free : bulkHeld s b = false) (out : s.fab.outst.any (fun o => o.who == .cmd b.id) = false)
    (left : b.cursor < len) (hn : len - b.cursor = n) (piece : n ≤ 4096)
    (source : (extent s b .read (src + b.cursor) n).1 = .seg es vs n)
    (dest : (extent (extent s b .read (src + b.cursor) n).2 b .write (dst + b.cursor) n).1 = .seg ed vd n)
    (srcHere : entLocal s es vs = true) (dstHere : entLocal s ed vd = true)
    (read : entRead (extent (extent s b .read (src + b.cursor) n).2 b .write (dst + b.cursor) n).2 b.pkt.ctx es vs n = .ok d c)
    (written : entWrite c b.pkt.ctx ed vd d = .ok z t) :
    bulkRun b.id s = goOnAll b.q (copyEnds b len run (dropBegun t b.id)) := by
  have fuel : bulkFuel b = 2 * len + 2 := by simp only [bulkFuel, job]
  have more := copyStep_more empty rfl rfl hn (by omega) piece source dest srcHere dstHere read written
  have size : b.cursor + d.length = len := by rw [entRead_length read]; omega
  rw [size] at more
  have ends := copyStep_ends (b := { b with cursor := len, buf := [] }) (setBegun t { b with cursor := len, buf := [] }) job rfl
  have rest := (bulkOne_copy (b := { b with cursor := len, buf := [] }) job _).trans ends
  have same := ((extent_same source).trans (extent_same dest)).trans ((entRead_same read).trans (entWrite_same written))
  have gone : dropBegun (setBegun t { b with cursor := len, buf := [] }) b.id = dropBegun t b.id := dropBegun_setBegun t _
  rw [bulkRun_two found free goes out fuel ((bulkOne_copy job s).trans more) same rfl goes rest]
  exact congrArg (fun u => goOnAll b.q (copyEnds b len run u)) gone

/-- COPY_DONE runs a begun COPY. -/
theorem exec_copyDone {s : State} {id : Nat} {b : Begun} {src dst len : Nat} {run : Option (Nat × Nat × Nat)}
    (found : findBegun s id = some b) (job : b.job = .copy src dst len run) :
    exec (.copyDone id) s = .next (wakeAll (bulkRun id s)) := by
  change execCopyDone id s = _
  simp only [execCopyDone, found, job]

/-- A WRITE_DATA of a proper extent begins and runs. -/
theorem startWrite_begins {q : QRef} {p : Pkt} {u : State} {addr : Nat} (ha : opA p = addr) (many : p.payload.length ≠ 0)
    (inside : addr + p.payload.length ≤ 2 ^ 57) : startWrite q p u = bulkRun u.fe.nextId (begin q p (.write addr) 0 u) := by
  have size : ¬ (p.payload.length = 0 ∨ 2 ^ 57 < addr + p.payload.length) := by omega
  unfold startWrite
  rw [ha]
  exact if_neg size

/-- Settles O41: each command begins, and each piece is moved, by the lemma that says so. -/
theorem bulkCommandsComplete : Obligations.BulkCommandsComplete := by
  unfold Obligations.BulkCommandsComplete
  refine ⟨runsOn0_of startWrite wrongOnFabric (fun _ _ => rfl) ?begins, ?write, ?read, ?reply, ?copy,
    fun s id b src dst len run found job => exec_copyDone found job, ?moves⟩
  case begins =>
    rintro h p u - ⟨many, inside⟩
    exact startWrite_begins rfl many inside
  case write =>
    intro s h p b e v d t takes many inside begun u free out seg here written
    have found := begun.found
    obtain ⟨rfl, new⟩ := begun
    have runs := exec_takes (op := 0x20) (mk := .writeData) (p := p) (f := startWrite) (fun _ _ => rfl) takes
    have starts : startWrite (.mgmt h) { p with opcode := 0x20 } (taken s h { p with opcode := 0x20 }) = _ :=
      startWrite_begins rfl many inside
    have outU : u.fab.outst.any (fun o => o.who == .cmd (taken s h { p with opcode := 0x20 }).fe.nextId) = false := by
      change (taken s h { p with opcode := 0x20 }).fab.outst.any _ = false
      rw [taken_fab]
      exact out
    have done := bulkRun_write found rfl rfl rfl free outU many seg here written
    rw [runs, starts]
    exact congrArg (fun u => Host.Outcome.next (wakeAll u)) done
  case read =>
    intro s h p b e v m takes many inside begun u seg
    have found := begun.found
    obtain ⟨rfl, new⟩ := begun
    have runs := exec_takes (op := 0x21) (mk := .readData) (p := p) (f := startRead) (fun _ _ => rfl) takes
    have starts := startRead_begins (p := { p with opcode := 0x21 }) rfl rfl many inside found seg
    exact ⟨runs.trans (congrArg (fun u => Host.Outcome.next (wakeAll u)) starts), ((extent_same seg).find _).trans found⟩
  case reply =>
    intro s id b addr len i u e v m d t found job empty goes free out next own half w need many seg enough here read room
    have hid := findBegun_id found
    subst hid
    have same : SameQueues s w := (frontNext_same next).trans (payItem_same half b.q i u)
    have sent := bulkRun_read ((same.find b.id).trans found) job empty goes ((same.held b).trans free) (by rw [same.fab]; exact out) rfl many
      seg enough here read room
    have whole : nextReply b addr len d = _ :=
      congrArg (fun n => { nextReply b addr len d with last := decide (b.cursor + n = len) }) (entRead_length read)
    rw [whole] at sent
    rw [exec_readReply found next own]
    exact congrArg (fun u => Host.Outcome.next (clearDeficits (wakeAll u) half)) sent
  case copy =>
    intro s h p b es vs ms ed vd md takes size src dst len limits begun u x y source dest
    have found := begun.found
    obtain ⟨rfl, new⟩ := begun
    have runs := exec_takes (op := 0x23) (mk := .copy) (p := p) (f := startCopy) (fun _ _ => rfl) takes
    have starts := startCopy_begins (p := { p with opcode := 0x23 }) size rfl rfl rfl limits found source dest
    exact ⟨runs.trans (congrArg (fun u => Host.Outcome.next (wakeAll u)) starts),
      (((extent_same source).trans (extent_same dest)).find _).trans found⟩
  case moves =>
    intro s id b src dst len run es vs ed vd d c z t found job goes empty free out left piece n x y source dest srcHere dstHere read written
    have hid := findBegun_id found
    subst hid
    have moved := bulkRun_copy found job empty goes free out left rfl piece source dest srcHere dstHere read written
    rw [exec_copyDone found job, moved]
    rfl

end Sys2Proof.Machine
end
